-- ==== Sys2Proof/Word.lean ====
section
/-!
DEFINITION. The words of the T1280 model and their plainest arithmetic: bytes, sparse maps kept as
sorted lists, and the bit-field cut. Layouts are little-endian throughout (R12).
-/
namespace Sys2Proof

/-- One byte of a memory. -/
abbrev Byte := BitVec 8

/-- A 64-byte descriptor image (work item, work request, command, collective descriptor). -/
abbrev Desc := BitVec 512

/-- A 32-byte queue-entry image (R245) or flit header. -/
abbrev Entry := BitVec 256

/-- A sparse map: key and value pairs, keys strictly rising (the canonical form). -/
abbrev KMap (α : Type) := List (Nat × α)

/-- Bits [lo + len - 1 : lo] of a number. -/
def cut (x lo len : Nat) : Nat := (x >>> lo) % 2 ^ len

/-- The field of `len` bits at bit `lo` of byte `off` of a little-endian structure image (R12). -/
def fieldAt {w : Nat} (x : BitVec w) (off lo len : Nat) : Nat := cut x.toNat (8 * off + lo) len

/-- Whether bit `i` of a number is set. -/
def bitOf (x i : Nat) : Bool := x.testBit i

/-- A two's complement reading of the low `w` bits. -/
def signed (w x : Nat) : Int :=
  let y := x % 2 ^ w
  if y < 2 ^ (w - 1) then (y : Int) else (y : Int) - (2 ^ w : Nat)

end Sys2Proof
end

