-- ==== Sys2Proof/Syntax.lean ====
section
/-!
DEFINITION. The commands the block takes: one constructor per row of spec/opcode_table.json. A row that is a register
write takes what the write carries; a row that is a packet, flit or frame takes it; a row that is an event inside the
block names the unit it happens in. What the outside world decides or measures (a sensor, a queue depth, a fitted
module) is an operand of the command that samples it.
-/
namespace Sys2Proof

/-- Who makes a register access (R529): a function of the host link on one module with its requester ID, the I3C
target, the COMPAT queue, or the start-up sequencer. -/
inductive Source where
  | host (module fn rid : Nat)
  | i3c
  | compat
  | sequencer
deriving DecidableEq, Repr

/-- The queues whose fetch follows R242. -/
inductive QueueId where
  | ring (n : Nat)
  | cmdq
  | sq (qpn : Nat)
  | rq (qpn : Nat)
  | coll (part : Nat)
  | rawTx (sub : Nat)
deriving DecidableEq, Repr

/-- A stored bit that has flipped before an access finds it: the word or line holding the address, the place of the bit as its
code sees it (the check symbol of an HBM4 line, the device of a x4 rank or the 64-bit beat of a x8 channel; nothing in a
scratchpad), and the bit there (R182, R188, R191). An address 2^48 + g names the contribution SRAM's words of collective group g, of
which one has become uncorrectable (R510). -/
structure Upset where
  addr : Nat
  site : Nat
  bit : Nat
deriving DecidableEq, Repr

/-- A mesh flit (R271). -/
structure Flit where
  dest : Nat
  src : Nat
  txn : Nat
  op : Nat
  epoch : Nat
  last : Bool
  poison : Bool
  vc : Nat
  part : Nat
  cong : Bool
  addr : Nat
  byteFirst : Nat
  byteLast : Nat
  atomic : Nat
  payload : Nat
deriving DecidableEq, Repr

/-- The register of a function that a PCIe request names: of its SR-IOV capability (R235), the size code of its aperture's
resizable BAR (R236), the vector control of an MSI-X vector (R238), or any other by its byte offset. -/
inductive CfgRegister where
  | numVfs
  | totalVfs
  | firstVfOffset
  | vfStride
  | apertureSize
  | vectorControl (vector : Nat)
  | other (off : Nat)
deriving DecidableEq, Repr

/-- A PCIe configuration request (R234): the module it came on, the function (0 physical), its requester ID, the
register it names, and the value written (none for a read). -/
structure CfgReq where
  module : Nat
  fn : Nat
  rid : Nat
  reg : CfgRegister
  write : Option Nat
deriving DecidableEq, Repr

/-- A host request at a function's aperture (R237): module, function, requester ID and aperture offset. -/
structure ApReq where
  module : Nat
  fn : Nat
  rid : Nat
  off : Nat
deriving DecidableEq, Repr

/-- How a Clahim packet was sealed (R304, R414, R415): the 256-bit key and 32-bit salt used, and whether what arrived
is what was sent. -/
structure SealMark where
  key : Nat
  salt : Nat
  intact : Bool
deriving DecidableEq, Repr

/-- A Clahim packet as it stands on the wire (R297 to R302), its extension and payload in clear beside the mark of
the seal they are carried under. -/
structure Packet where
  srcIp : Nat
  dstIp : Nat
  udpSrc : Nat
  udpDst : Nat
  ipOk : Bool
  udpOk : Bool
  dscp : Nat
  ecn : Nat
  hopLimit : Nat
  flowLabel : Nat
  version : Nat
  opcode : Nat
  last : Bool
  solicit : Bool
  retx : Bool
  fa : Bool
  aborted : Bool
  atomicCode : Nat
  path : Nat
  reserved : Nat
  destQpn : Nat
  psn : Nat
  msg : Nat
  nonce : Nat
  addr : Nat
  rh : Nat
  msgOffset : Nat
  length : Nat
  total : Nat
  txTs : Nat
  srcQpn : Nat
  ext : Nat
  payload : List Byte
  mark : SealMark
deriving DecidableEq, Repr

/-- What a frame carries: a Clahim packet after its Ethernet header, or the bytes of the whole frame but for its FCS. -/
inductive FrameBody where
  | clahim (p : Packet)
  | raw (bytes : List Byte)
deriving DecidableEq, Repr

/-- An Ethernet frame received on a sub-port (R372): destination MAC, EtherType, 802.1Q tag when present, length from
the destination MAC through the FCS, FCS check, and what the receiver's FEC found since the previous frame. -/
structure Frame where
  dstMac : Nat
  srcMac : Nat
  etherType : Nat
  tag : Option Nat
  length : Nat
  fcsOk : Bool
  fecCorrected : Nat
  fecUncorrectable : Nat
  fecSymbols : Nat
  body : FrameBody
deriving DecidableEq, Repr

/-- What stage DIES finds (R469): a die that fails (the identifier of R514), and logical tiles that fail self-test. -/
structure DieFindings where
  failedDie : Option Nat
  badTiles : List Nat
deriving DecidableEq, Repr

/-- A DDR5 module as read at start-up (R189): capacity in GiB, ECC, device width, ranks, speed bin in MT/s. -/
structure Dimm where
  gib : Nat
  ecc : Bool
  width : Nat
  ranks : Nat
  speed : Nat
deriving DecidableEq, Repr

/-- The two positions of one DDR5 channel. -/
structure DimmPair where
  channel : Nat
  a : Option Dimm
  b : Option Dimm
deriving DecidableEq, Repr

/-- The parts of stage BRINGUP (R470). -/
inductive BringUnit where
  | hbm (stack : Nat)
  | ddr (channel : Nat)
  | optics
  | preload
deriving DecidableEq, Repr

/-- The power domains of the Coppice states (R483, R484); a spare stands for itself until it is in service. -/
inductive Domain where
  | tile (t : Nat)
  | spare (s : Nat)
  | hedge (q : Nat)
  | laurel
  | mesh
deriving DecidableEq, Repr

/-- Which limit a LIMIT_WRITE names (R492). -/
inductive LimitTarget where
  | sustained
  | sealFloor (part : Nat)
deriving DecidableEq, Repr

/-- A sensor reading in eighths of a degree Celsius (R493): the sensor number and a signed temperature. -/
structure SensorReading where
  sensor : Nat
  temp : Int
deriving DecidableEq, Repr


/-- The commands: one constructor per row of the table of operations and events. -/
inductive Instr where
  /-- REGISTER_WRITE (R14). -/
  | registerWrite (src : Source) (off width val : Nat)
  /-- LINK_DIRECTION_REBALANCE (R38). -/
  | linkDirectionRebalance (hedge toHedge fromHedge : Nat)
  /-- LINK_GROUP_REVERSAL_END (R38). -/
  | linkGroupReversalEnd (hedge group : Nat)
  /-- RING_ENABLE (R91). -/
  | ringEnable (ring : Nat)
  /-- RING_DISABLE (R91). -/
  | ringDisable (ring : Nat)
  /-- RING_RESTART (R90). -/
  | ringRestart (ring : Nat)
  /-- RING_DOORBELL (R242). -/
  | ringDoorbell (win width val : Nat)
  /-- QUEUE_REFETCH (R242). -/
  | queueRefetch (q : QueueId)
  /-- DISPATCHER_TURN (R87). -/
  | dispatcherTurn (row : Nat)
  /-- ACTIVE_SET_ADJUST (R96). -/
  | activeSetAdjust (row part stallPct : Nat)
  /-- MATRIX (R99). -/
  | matrix (tile : Nat)
  /-- MATRIX_COMPLETE (R68). -/
  | matrixComplete (tile : Nat)
  /-- VECTOR_SEQUENCE (R100). -/
  | vectorSequence (tile : Nat)
  /-- VECTOR_SEQUENCE_COMPLETE (R103). -/
  | vectorSequenceComplete (tile : Nat)
  /-- LOAD (R102). -/
  | load (tile : Nat)
  /-- STORE (R102). -/
  | store (tile : Nat)
  /-- BCAST (R102). -/
  | bcast (tile : Nat)
  /-- IOTA (R102). -/
  | iota (tile : Nat)
  /-- FADD (R102). -/
  | fadd (tile : Nat)
  /-- FSUB (R102). -/
  | fsub (tile : Nat)
  /-- FMUL (R102). -/
  | fmul (tile : Nat)
  /-- FMA (R102). -/
  | fma (tile : Nat)
  /-- FMIN (R102). -/
  | fmin (tile : Nat)
  /-- FMAX (R102). -/
  | fmax (tile : Nat)
  /-- FABS (R102). -/
  | fabs (tile : Nat)
  /-- FNEG (R102). -/
  | fneg (tile : Nat)
  /-- FCOPYSIGN (R102). -/
  | fcopysign (tile : Nat)
  /-- FCMP (R102). -/
  | fcmp (tile : Nat)
  /-- SELECT (R102). -/
  | select (tile : Nat)
  /-- IADD (R102). -/
  | iadd (tile : Nat)
  /-- ISUB (R102). -/
  | isub (tile : Nat)
  /-- VECTOR_AND (R102). -/
  | vectorAnd (tile : Nat)
  /-- VECTOR_OR (R102). -/
  | vectorOr (tile : Nat)
  /-- XOR (R102). -/
  | xor (tile : Nat)
  /-- SHL (R102). -/
  | shl (tile : Nat)
  /-- SHR (R102). -/
  | shr (tile : Nat)
  /-- SRA (R102). -/
  | sra (tile : Nat)
  /-- ITOF (R102). -/
  | itof (tile : Nat)
  /-- FTOI (R80). -/
  | ftoi (tile : Nat)
  /-- EXP (R102). -/
  | exp (tile : Nat)
  /-- EXP2 (R102). -/
  | exp2 (tile : Nat)
  /-- RCP (R80). -/
  | rcp (tile : Nat)
  /-- RSQRT (R80). -/
  | rsqrt (tile : Nat)
  /-- SUM (R102). -/
  | sum (tile : Nat)
  /-- LMAX (R102). -/
  | lmax (tile : Nat)
  /-- DATAPATH_CHECK_FAILED (R82). -/
  | datapathCheckFailed (tile : Nat) (onVector : Bool)
  /-- MOVE (R105). -/
  | move (tile : Nat)
  /-- MOVE_COMPLETE (R291). -/
  | moveComplete (tile : Nat)
  /-- FAULT_SLOT_RETRY (R217). -/
  | faultSlotRetry (part : Nat)
  /-- ATTENTION (R140). -/
  | attention (tile : Nat)
  /-- ATTENTION_BATCH (R149). -/
  | attentionBatch (tile : Nat)
  /-- ATTENTION_PAGE_DONE (R145). -/
  | attentionPageDone (tile page : Nat)
  /-- ATTENTION_COMPLETE (R152). -/
  | attentionComplete (tile : Nat)
  /-- FAR_TIMEOUT (R167). -/
  | farTimeout (tile req : Nat)
  /-- FAR_RETRY (R168). -/
  | farRetry (tile req : Nat)
  /-- UTILISATION_SAMPLE (R154). -/
  | utilisationSample (sub pct : Nat)
  /-- HOME_COMPUTE_DONE (R165). -/
  | homeComputeDone (req : Nat)
  /-- REGISTER_SET (R113). -/
  | registerSet (uid : Nat)
  /-- TOKEN_ADD (R114). -/
  | tokenAdd (uid : Nat)
  /-- WAIT_GE (R115). -/
  | waitGe (uid : Nat)
  /-- TOKEN_RELEASE (R113). -/
  | tokenRelease (uid : Nat)
  /-- TOKEN_WAIT_MET (R116). -/
  | tokenWaitMet (uid : Nat)
  /-- TOKEN_WAIT_TIMEOUT (R119). -/
  | tokenWaitTimeout (uid : Nat)
  /-- WORK_ITEM_SIGNAL (R117). -/
  | workItemSignal (uid : Nat)
  /-- FENCE (R109). -/
  | fence (uid : Nat)
  /-- FENCE_COMPLETE (R110). -/
  | fenceComplete (uid : Nat)
  /-- STEP_GRAPH (R111). -/
  | stepGraph (uid : Nat)
  /-- STEP_ISSUE (R121). -/
  | stepIssue (uid : Nat)
  /-- STEP_GRAPH_COMPLETE (R126). -/
  | stepGraphComplete (uid : Nat)
  /-- FLIT_READ (R273). -/
  | flitRead (f : Flit) (up : List Upset)
  /-- FLIT_WRITE (R273). -/
  | flitWrite (fs : List Flit) (up : List Upset) (lost : List Nat)
  /-- READ_DATA (R273). -/
  | readData (src txn : Nat)
  /-- WRITE_ACK (R273). -/
  | writeAck (src txn : Nat)
  /-- ATOMIC_RESULT (R272). -/
  | atomicResult (src txn : Nat)
  /-- TOKEN_NOTIFY (R272). -/
  | tokenNotify (row : Nat)
  /-- WORK_ITEM (R272). -/
  | workItem (dest : Nat)
  /-- REMOTE (R291). -/
  | remote
  /-- ERROR_FLIT (R272). -/
  | errorFlit (src txn : Nat)
  /-- ATOMIC_ADD (R179). -/
  | atomicAdd (f : Flit)
  /-- ATOMIC_FETCH_ADD (R179). -/
  | atomicFetchAdd (f : Flit)
  /-- ATOMIC_SWAP (R179). -/
  | atomicSwap (f : Flit)
  /-- ATOMIC_CAS (R179). -/
  | atomicCas (f : Flit)
  /-- ATOMIC_UMAX (R179). -/
  | atomicUmax (f : Flit)
  /-- ATOMIC_UMIN (R179). -/
  | atomicUmin (f : Flit)
  /-- ATOMIC_AND (R179). -/
  | atomicAnd (f : Flit)
  /-- ATOMIC_OR (R179). -/
  | atomicOr (f : Flit)
  /-- SCRATCHPAD_SCRUB (R184). -/
  | scratchpadScrub (tile bank : Nat) (up : List Upset)
  /-- HBM_PATROL (R192). -/
  | hbmPatrol (hedge : Nat) (up : List Upset)
  /-- DDR_PATROL (R192). -/
  | ddrPatrol (hedge : Nat) (up : List Upset)
  /-- DDR_CHANNEL_FAILURE (R194). -/
  | ddrChannelFailure (channel : Nat)
  /-- CMP_REGION_ENABLE (R198). -/
  | cmpRegionEnable (region : Nat)
  /-- CMP_REGION_DISABLE (R198). -/
  | cmpRegionDisable (region : Nat)
  /-- CMP_REGION_BUSY_END (R198). -/
  | cmpRegionBusyEnd (region : Nat)
  /-- CMDQ_ENABLE (R559). -/
  | cmdqEnable (cfg : Nat)
  /-- CMDQ_DISABLE (R559). -/
  | cmdqDisable
  /-- CMDQ_DOORBELL (R559). -/
  | cmdqDoorbell (val : Nat)
  /-- INVAL_RANGE (R226). -/
  | invalRange
  /-- INVAL_PARTITION (R226). -/
  | invalPartition
  /-- INVALIDATION_COMPLETE (R227). -/
  | invalidationComplete (id : Nat)
  /-- RESUME_RETRY (R220). -/
  | resumeRetry
  /-- RESUME_ABORT (R220). -/
  | resumeAbort
  /-- SYNC (R224). -/
  | sync
  /-- MODULE_LINK_UP (R233). -/
  | moduleLinkUp (module : Nat)
  /-- MODULE_LINK_DOWN (R233). -/
  | moduleLinkDown (module : Nat) (at16 : Bool)
  /-- CONFIG_REQUEST (R234). -/
  | configRequest (req : CfgReq)
  /-- APERTURE_READ (R237). -/
  | apertureRead (req : ApReq) (len : Nat)
  /-- APERTURE_WRITE (R237). -/
  | apertureWrite (req : ApReq) (data : List Byte)
  /-- APERTURE_FETCHADD (R237). -/
  | apertureFetchadd (req : ApReq) (bits operand : Nat)
  /-- APERTURE_SWAP (R237). -/
  | apertureSwap (req : ApReq) (bits operand : Nat)
  /-- APERTURE_CAS (R237). -/
  | apertureCas (req : ApReq) (bits compare swap : Nat)
  /-- CQ_DOORBELL (R250). -/
  | cqDoorbell (win width val : Nat)
  /-- CQ_ARM (R250). -/
  | cqArm (win width val : Nat)
  /-- EQ_DOORBELL (R253). -/
  | eqDoorbell (win width val : Nat)
  /-- EQ_ARM (R253). -/
  | eqArm (win width val : Nat)
  /-- MSIX_SEND (R253). -/
  | msixSend (eq : Nat)
  /-- CQ_ENABLE (R249). -/
  | cqEnable (cq : Nat)
  /-- CQ_DISABLE (R249). -/
  | cqDisable (cq : Nat)
  /-- EQ_ENABLE (R251). -/
  | eqEnable (eq : Nat)
  /-- EQ_DISABLE (R251). -/
  | eqDisable (eq : Nat)
  /-- HL_DOWN_TIMEOUT (R259). -/
  | hlDownTimeout
  /-- HOT_RESET (R259). -/
  | hotReset (module : Nat)
  /-- HL_HEARTBEAT (R264). -/
  | hlHeartbeat (val : Nat)
  /-- HL_HEARTBEAT_TIMEOUT (R259). -/
  | hlHeartbeatTimeout
  /-- HL_DETACH (R259). -/
  | hlDetach
  /-- HL_REJOIN (R261). -/
  | hlRejoin (epoch : Nat)
  /-- FUNCTION_LEVEL_RESET (R263). -/
  | functionLevelReset (fn : Nat)
  /-- HPA_COMPLETION_TIMEOUT (R238). -/
  | hpaCompletionTimeout (tile : Nat)
  /-- DIE_LINK_CRC_FAIL (R281). -/
  | dieLinkCrcFail (crossing group : Nat)
  /-- DIE_LINK_LOCK_LOSS (R281). -/
  | dieLinkLockLoss (crossing group : Nat)
  /-- FLIT_HEADER_ERROR (R282). -/
  | flitHeaderError (eid : Nat)
  /-- TXN_TIMEOUT (R282). -/
  | txnTimeout (src txn : Nat)
  /-- ROUTE_ENTRY_WRITE (R287). -/
  | routeEntryWrite
  /-- ROUTE_COMMIT (R287). -/
  | routeCommit
  /-- ROUTE_DRAIN_COMPLETE (R287). -/
  | routeDrainComplete
  /-- ROUTE_DRAIN_SLOW (R289). -/
  | routeDrainSlow
  /-- NODE_MAP_INVAL (R290). -/
  | nodeMapInval (part node : Nat)
  /-- WRITE_CONTEXT (R312). -/
  | writeContext (qpn addr : Nat)
  /-- READ_CONTEXT (R314). -/
  | readContext (qpn addr : Nat)
  /-- READY (R315). -/
  | ready (qpn : Nat)
  /-- DRAIN (R313). -/
  | drain (qpn : Nat)
  /-- QP_ERROR (R316). -/
  | qpError (qpn : Nat)
  /-- QP_RESET (R313). -/
  | qpReset (qpn : Nat)
  /-- SQ_DOORBELL (R307). -/
  | sqDoorbell (win width val : Nat)
  /-- RQ_DOORBELL (R307). -/
  | rqDoorbell (win width val : Nat)
  /-- SQ_WRITE (R305). -/
  | sqWrite (qpn : Nat)
  /-- SQ_READ (R305). -/
  | sqRead (qpn : Nat)
  /-- SQ_SEND (R305). -/
  | sqSend (qpn : Nat)
  /-- SQ_ATOMIC (R305). -/
  | sqAtomic (qpn : Nat)
  /-- CLAHIM_WRITE (R321). -/
  | clahimWrite
  /-- READ_REQ (R322). -/
  | readReq
  /-- READ_RESP (R323). -/
  | readResp
  /-- SEND (R328). -/
  | send
  /-- CLAHIM_ATOMIC (R322). -/
  | clahimAtomic
  /-- ATOMIC_RESP (R323). -/
  | atomicResp
  /-- ATTEND (R324). -/
  | attend
  /-- ATTEND_REPLY (R324). -/
  | attendReply
  /-- REDUCE (R404). -/
  | reduce
  /-- ACK (R331). -/
  | ack
  /-- NAK (R303). -/
  | nak
  /-- PROBE (R347). -/
  | probe
  /-- PROBE_REPLY (R348). -/
  | probeReply
  /-- CONTEXT_FETCH_DONE (R325). -/
  | contextFetchDone (qpn : Nat)
  /-- ACK_DELAY_EXPIRY (R330). -/
  | ackDelayExpiry (qpn : Nat)
  /-- RTO_EXPIRY (R332). -/
  | rtoExpiry (qpn psn : Nat)
  /-- RNR_RESEND (R303). -/
  | rnrResend (qpn psn : Nat)
  /-- HELD_RESEND (R303). -/
  | heldResend (qpn psn : Nat)
  /-- PATH_EXHAUSTED_TIMER (R334). -/
  | pathExhaustedTimer (qpn : Nat)
  /-- PATHSET_INVAL (R342). -/
  | pathsetInval (set : Nat)
  /-- PROBE_TIMER (R346). -/
  | probeTimer (set : Nat)
  /-- METER_REFILL (R358). -/
  | meterRefill (port : Nat)
  /-- TRANSMIT_OPPORTUNITY (R360). -/
  | transmitOpportunity (sub : Nat)
  /-- PORT_ENABLE (R366). -/
  | portEnable (port val : Nat)
  /-- SUBPORT_LOSS_OF_SIGNAL (R370). -/
  | subportLossOfSignal (sub : Nat)
  /-- LINK_HOLD_EXPIRY (R370). -/
  | linkHoldExpiry (sub : Nat)
  /-- ETHERNET_FRAME_RECEIVE (R372). -/
  | ethernetFrameReceive (sub : Nat) (f : Frame)
  /-- TIME_NOW_READ (R376). -/
  | timeNowRead (src : Source)
  /-- TIME_SET (R376). -/
  | timeSet (val : Nat)
  /-- TIME_STEP (R376). -/
  | timeStep (val : Nat)
  /-- TIME_ADJUST (R376). -/
  | timeAdjust (val : Nat)
  /-- GATE_CHANGE (R379). -/
  | gateChange (sub : Nat)
  /-- GATE_CANCEL (R380). -/
  | gateCancel (sub : Nat)
  /-- GATE_START (R380). -/
  | gateStart (sub : Nat)
  /-- GATE_ENTRY_END (R378). -/
  | gateEntryEnd (sub : Nat)
  /-- RAW_RX_DOORBELL (R382). -/
  | rawRxDoorbell (win width val : Nat)
  /-- RAW_TX_DOORBELL (R382). -/
  | rawTxDoorbell (win width val : Nat)
  /-- RAW_TRANSMIT (R384). -/
  | rawTransmit (sub : Nat)
  /-- RAW_FRAME_RECEIVE (R385). -/
  | rawFrameReceive (sub : Nat)
  /-- GROUP_LOAD (R393). -/
  | groupLoad (group : Nat)
  /-- GROUP_UNLOAD (R393). -/
  | groupUnload (group : Nat)
  /-- COLL_DOORBELL (R394). -/
  | collDoorbell (win width val : Nat)
  /-- ALL_REDUCE (R398). -/
  | allReduce (part : Nat)
  /-- REDUCE_SCATTER (R398). -/
  | reduceScatter (part : Nat)
  /-- ALL_GATHER (R398). -/
  | allGather (part : Nat)
  /-- COLLECTIVE_REPEAT_START (R397). -/
  | collectiveRepeatStart (group : Nat)
  /-- COLLECTIVE_SIGNAL (R408). -/
  | collectiveSignal (group : Nat)
  /-- COLLECTIVE_ROUND_TIMEOUT (R406). -/
  | collectiveRoundTimeout (group : Nat)
  /-- YEW_ENGINE_MISMATCH (R413). -/
  | yewEngineMismatch (engine : Nat)
  /-- LOAD_CLEAR (R421). -/
  | loadClear (slot : Nat)
  /-- LOAD_WRAPPED (R421). -/
  | loadWrapped (slot kek : Nat)
  /-- ERASE (R425). -/
  | erase (slot : Nat)
  /-- ERASE_COMPLETE (R425). -/
  | eraseComplete (slot : Nat)
  /-- SAVE_CLEAR (R434). -/
  | saveClear (slot : Nat)
  /-- SAVE_WRAPPED (R421). -/
  | saveWrapped (slot kek : Nat)
  /-- RX_GRACE_EXPIRY (R424). -/
  | rxGraceExpiry (slot : Nat)
  /-- KEY_WORD_ERROR (R426). -/
  | keyWordError (slot : Nat)
  /-- PHYSICAL_ATTACK_ALARM (R427). -/
  | physicalAttackAlarm (source : Nat)
  /-- TABLE_INVAL (R432). -/
  | tableInval (val : Nat)
  /-- ATTEST_GO (R436). -/
  | attestGo (part : Nat)
  /-- ATTEST_REPORT_DONE (R436). -/
  | attestReportDone (part : Nat)
  /-- TILE_ASSIGN (R446). -/
  | tileAssign (tile part : Nat)
  /-- TILE_RELEASE (R446). -/
  | tileRelease (tile part : Nat)
  /-- TILE_RELEASE_TIMEOUT (R446). -/
  | tileReleaseTimeout (tile : Nat)
  /-- TILE_RELEASE_DONE (R446). -/
  | tileReleaseDone (tile : Nat)
  /-- FREEZE (R453). -/
  | freeze (part : Nat)
  /-- FREEZE_TIMEOUT (R453). -/
  | freezeTimeout (part : Nat)
  /-- PARTITION_FROZEN (R454). -/
  | partitionFrozen (part : Nat)
  /-- SAVE (R455). -/
  | save (part : Nat)
  /-- SAVE_DONE (R455). -/
  | saveDone (part : Nat)
  /-- RESTORE (R456). -/
  | restore (part : Nat)
  /-- RESTORE_DONE (R456). -/
  | restoreDone (part : Nat)
  /-- THAW (R457). -/
  | thaw (part : Nat)
  /-- SEAL (R449). -/
  | sealPartition (part : Nat)
  /-- UNSEAL (R449). -/
  | unsealPartition (part : Nat)
  /-- POWER_ON (R460). -/
  | powerOn
  /-- BROWNOUT (R460). -/
  | brownout
  /-- FUSES (R469). -/
  | fuses
  /-- VERIFY (R466). -/
  | verify (readOk : Bool)
  /-- RAILS (R469). -/
  | rails
  /-- DIES (R469). -/
  | dies (findings : DieFindings)
  /-- CONFIG (R464). -/
  | config (sameBytes : Bool)
  /-- REG_RECORD (R464). -/
  | regRecord
  /-- ROUTE_RECORD (R464). -/
  | routeRecord
  /-- BLOB_RECORD (R464). -/
  | blobRecord
  /-- END_RECORD (R463). -/
  | endRecord
  /-- BRINGUP (R470). -/
  | bringup (modules : List DimmPair)
  /-- BRINGUP_PART_DONE (R470). -/
  | bringupPartDone (unit : BringUnit) (ok : Bool)
  /-- OPTICS_LIMIT (R470). -/
  | opticsLimit
  /-- BRINGUP_END (R470). -/
  | bringupEnd
  /-- FLASH_READ (R473). -/
  | flashRead
  /-- FLASH_PROGRAM (R473). -/
  | flashProgram
  /-- FLASH_ERASE_SECTOR (R473). -/
  | flashEraseSector
  /-- FLASH_ERASE_ALL (R473). -/
  | flashEraseAll
  /-- FLASH_CMD_COMPLETE (R473). -/
  | flashCmdComplete
  /-- COLD_RESET (R475). -/
  | coldReset (confirm : Nat)
  /-- WARM_RESET (R476). -/
  | warmReset (confirm : Nat)
  /-- MANAGEMENT_RESET (R556). -/
  | managementReset
  /-- POWER_SAMPLE (R489). -/
  | powerSample (centivolts milliamps : Nat)
  /-- CONTROLLER_STEP (R490). -/
  | controllerStep
  /-- OVER_CURRENT_TRIP (R491). -/
  | overCurrentTrip (die : Nat)
  /-- COPPICE_ENTRY (R485). -/
  | coppiceEntry (dom : Domain) (target : Nat)
  /-- COPPICE_EXIT_DONE (R483). -/
  | coppiceExitDone (dom : Domain)
  /-- LTR_WRITE (R486). -/
  | ltrWrite (isRing : Bool) (index val : Nat)
  /-- LIMIT_WRITE (R492). -/
  | limitWrite (target : LimitTarget) (val : Nat)
  /-- PLL_LOCK_TIMEOUT (R481). -/
  | pllLockTimeout (dom : Domain)
  /-- THERMAL_CAP_STEP (R494). -/
  | thermalCapStep (readings : List SensorReading)
  /-- MEMORY_HOT_STEP (R495). -/
  | memoryHotStep (readings : List SensorReading)
  /-- THERMAL_TRIP (R496). -/
  | thermalTrip (pair : Nat) (readings : List SensorReading)
  /-- VOTE_SCRUB (R502). -/
  | voteScrub
  /-- WATCHDOG_EXPIRY (R505). -/
  | watchdogExpiry (tile : Nat)
  /-- SPARE_COPY_DONE (R507). -/
  | spareCopyDone (tile : Nat)
  /-- TILE_RETIRE (R509). -/
  | tileRetire (tile : Nat)
  /-- HBM_STACK_FAILURE (R511). -/
  | hbmStackFailure (stack : Nat)
  /-- HEDGE_DIE_FAILURE (R511). -/
  | hedgeDieFailure (hedge : Nat)
  /-- DEVICE_HALT (R513). -/
  | deviceHalt (die : Nat)
  /-- LOCKSTEP_MISMATCH (R513). -/
  | lockstepMismatch
  /-- MODULE_OVER_POWER (R549). -/
  | moduleOverPower (position : Nat)
  /-- STALL_TIMEOUT (R532). -/
  | stallTimeout
  /-- COMMIT (R536). -/
  | commit
  /-- COMPAT_POSTED_WRITE (R541). -/
  | compatPostedWrite (off width val : Nat)
  /-- COMPAT_QUEUE_APPLY (R541). -/
  | compatQueueApply
  /-- I3C_READ (R554). -/
  | i3cRead (off : Nat)
  /-- I3C_WRITE (R554). -/
  | i3cWrite (off val : Nat)
  /-- I3C_ALERT (R555). -/
  | i3cAlert
  /-- BYPASS (R557). -/
  | bypass
  /-- IDCODE (R557). -/
  | idcode
  /-- SAMPLE_PRELOAD (R557). -/
  | samplePreload
  /-- EXTEST (R557). -/
  | extest
  /-- SUBPORT_SIGNAL_RESTORED (R370). -/
  | subportSignalRestored (sub : Nat)
  /-- CURRENT_GUARD_RELEASE (R491). -/
  | currentGuardRelease (die : Nat)
  /-- TRIP_PAIR_DISAGREEMENT (R496). -/
  | tripPairDisagreement (pair : Nat) (readings : List SensorReading)
  /-- TRIP_COOLDOWN (R496). -/
  | tripCooldown (readings : List SensorReading)
deriving DecidableEq, Repr

end Sys2Proof
end

