-- ==== Sys2Proof/Config.lean ====
section
/-!
DEFINITION. The values the spec leaves open. Every constant here is opaque: nothing in Lean can evaluate it, so a
statement about it holds for every value. Each is named in notes/assumptions.
-/
namespace Sys2Proof.Config

/-- The k-th free value: a choice the spec does not make (replacement victims, tie picks, unstated values). -/
opaque freeNat : Nat → Nat

/-- The pick among the results an approximate operation's error bound allows: operation code, operand bits. -/
opaque ulpPick : Nat → Nat → Nat

/-- Whether a collective's MAX or MIN of a number and a NaN is the number: R400 says that it follows maximumNumber or
minimumNumber, by which it is, and that a NaN operand gives NaN. Reduction code, operand bits. -/
opaque numberWins : Nat → Nat → Nat → Bool

end Sys2Proof.Config
end

