-- ==== Sys2Proof/Machine/Fields.lean ====
section
/-!
DEFINITION. Every register field of the register tables of the spec: its place in the control window (bit address
of entry 0 and the strides of its entries), width, access code (R14), whether it is held as three voted copies
(R537), and its cold-reset value. The tables are R89, R90, R158, R159, R163, R199, R230, R239, R248, R251, R264,
R293, R307, R336, R364, R365, R373, R376, R382, R389, R394, R409, R437, R442, R452, R478, R497, R515, R540 and R545.
A register wider than 8 bytes is an array of 8-byte pieces (R530).
-/
namespace Sys2Proof.Machine

/-- Access codes of R14; `rwv` is an RW field held as three copies. -/
inductive Access where
  | ro | rw | rwv | rwc | w1c | w1s
deriving DecidableEq, Repr

/-- Where a field lies and how it behaves. `dims` are (count, stride in bits), outermost first. -/
structure FldInfo where
  base : Nat
  width : Nat
  dims : List (Nat × Nat)
  access : Access
  voted : Bool
  reset : Nat
deriving DecidableEq, Repr

/-- The register fields, named as the spec names them (GLOBAL's block name left off). -/
inductive Fld where
  /-- DISPATCH.CTRL.ENABLE (R89). -/
  | dispatchCtrlEnable
  /-- DISPATCH.WAIT_TIMEOUT (R89). -/
  | dispatchWaitTimeout
  /-- DISPATCH.OCC_CTRL.GROW_PCT (R89). -/
  | dispatchOccCtrlGrowPct
  /-- DISPATCH.OCC_CTRL.SHRINK_PCT (R89). -/
  | dispatchOccCtrlShrinkPct
  /-- DISPATCH.OCC_CTRL.SHRINK_HOLD (R89). -/
  | dispatchOccCtrlShrinkHold
  /-- DISPATCH.STEP_AHEAD (R89). -/
  | dispatchStepAhead
  /-- DISPATCH.JOURNAL_BASE (R89). -/
  | dispatchJournalBase
  /-- DISPATCH.JOURNAL_BROKEN (R89). -/
  | dispatchJournalBroken
  /-- DISPATCH.ROW_ACTIVE (R89). -/
  | dispatchRowActive
  /-- RING_BASE.ADDR (R90). -/
  | ringBaseAddr
  /-- RING_CFG.LOG2_SIZE (R90). -/
  | ringCfgLog2Size
  /-- RING_CFG.PARTITION (R90). -/
  | ringCfgPartition
  /-- RING_CFG.HOME_ROW (R90). -/
  | ringCfgHomeRow
  /-- RING_CFG.EQ (R90). -/
  | ringCfgEq
  /-- RING_CFG.CQ (R90). -/
  | ringCfgCq
  /-- RING_STATE.STATE (R90). -/
  | ringStateState
  /-- RING_STATE.ENABLE (R90). -/
  | ringStateEnable
  /-- RING_STATE.RESTART (R90). -/
  | ringStateRestart
  /-- RING_STATE.LAST_CAUSE (R90). -/
  | ringStateLastCause
  /-- RING_HEAD.INDEX (R90). -/
  | ringHeadIndex
  /-- RING_HEAD.EXPECTED_PHASE (R90). -/
  | ringHeadExpectedPhase
  /-- RING_DOORBELL_HINT (R90). -/
  | ringDoorbellHint
  /-- RING_INFLIGHT (R90). -/
  | ringInflight
  /-- DISPATCH.ATTN_CTRL.FAR_ENABLE (R158). -/
  | dispatchAttnCtrlFarEnable
  /-- DISPATCH.ATTN_CTRL.FAR_TIMEOUT (R158). -/
  | dispatchAttnCtrlFarTimeout
  /-- DISPATCH.ATTN_FAR_SENT (R158). -/
  | dispatchAttnFarSent
  /-- DISPATCH.ATTN_PULLED (R158). -/
  | dispatchAttnPulled
  /-- DISPATCH.ATTN_FALLBACK (R158). -/
  | dispatchAttnFallback
  /-- DISPATCH.ATTN_LATE (R158). -/
  | dispatchAttnLate
  /-- DISPATCH.HOME_ADMITTED (R158). -/
  | dispatchHomeAdmitted
  /-- DISPATCH.HOME_REFUSED (R158). -/
  | dispatchHomeRefused
  /-- ATTN_TUNE.BATCH_MAX (R159). -/
  | attnTuneBatchMax
  /-- ATTN_TUNE.FAR_WEIGHT (R159). -/
  | attnTuneFarWeight
  /-- ATTN_TUNE.DEFAULT_CAP (R159). -/
  | attnTuneDefaultCap
  /-- ATTN_TUNE.FAR_MIN_BATCH (R159). -/
  | attnTuneFarMinBatch
  /-- ATTN_TUNE.T_PAGE_HOME (R159). -/
  | attnTuneTPageHome
  /-- ATTN_TUNE.FAR_OUTSTANDING (R159). -/
  | attnTuneFarOutstanding
  /-- ATTN_TUNE.CAP_AGE (R159). -/
  | attnTuneCapAge
  /-- ATTN_TUNE.RETRY_US (R159). -/
  | attnTuneRetryUs
  /-- ATTN_TUNE.RETRY_MAX (R159). -/
  | attnTuneRetryMax
  /-- DISPATCH.HOME_CFG.ROW_FIRST (R163). -/
  | dispatchHomeCfgRowFirst
  /-- DISPATCH.HOME_CFG.ROW_LAST (R163). -/
  | dispatchHomeCfgRowLast
  /-- DISPATCH.HOME_CFG.QUEUE_MAX (R163). -/
  | dispatchHomeCfgQueueMax
  /-- MEMORY.HBM_CFG.INTERLEAVE (R199). -/
  | memoryHbmCfgInterleave
  /-- MEMORY.DDR_CFG.USED (R199). -/
  | memoryDdrCfgUsed
  /-- MEMORY.DDR_CFG.REFUSED (R199). -/
  | memoryDdrCfgRefused
  /-- MEMORY.DDR_CAP.TOTAL_GIB (R199). -/
  | memoryDdrCapTotalGib
  /-- MEMORY.DDR_CAP.INTERLEAVED_GIB (R199). -/
  | memoryDdrCapInterleavedGib
  /-- MEMORY.SCRUB_CFG.HBM_HOURS (R199). -/
  | memoryScrubCfgHbmHours
  /-- MEMORY.SCRUB_CFG.DDR_HOURS (R199). -/
  | memoryScrubCfgDdrHours
  /-- MEMORY.CE_THRESH.MEM (R199). -/
  | memoryCeThreshMem
  /-- MEMORY.CE_THRESH.TILE (R199). -/
  | memoryCeThreshTile
  /-- MEMORY.EVENT_EQ (R199). -/
  | memoryEventEq
  /-- MEMORY.UE_TOTAL (R199). -/
  | memoryUeTotal
  /-- MEMORY.HBM_STAT.CE (R199). -/
  | memoryHbmStatCe
  /-- MEMORY.HBM_STAT.UE (R199). -/
  | memoryHbmStatUe
  /-- MEMORY.HBM_STAT.FUSE_REPAIRS (R199). -/
  | memoryHbmStatFuseRepairs
  /-- MEMORY.DDR_STAT.CE (R199). -/
  | memoryDdrStatCe
  /-- MEMORY.DDR_STAT.UE (R199). -/
  | memoryDdrStatUe
  /-- MEMORY.DDR_STAT.SPEED (R199). -/
  | memoryDdrStatSpeed
  /-- MEMORY.DDR_STAT.MODULES (R199). -/
  | memoryDdrStatModules
  /-- MEMORY.DDR_STAT.STATE (R199). -/
  | memoryDdrStatState
  /-- MEMORY.SP_SEL.TILE (R199). -/
  | memorySpSelTile
  /-- MEMORY.SP_SEL.BANK (R199). -/
  | memorySpSelBank
  /-- MEMORY.SP_DATA.COLLISIONS (R199). -/
  | memorySpDataCollisions
  /-- MEMORY.SP_DATA.CE (R199). -/
  | memorySpDataCe
  /-- MEMORY.SP_DATA.UE (R199). -/
  | memorySpDataUe
  /-- MEMORY.SP_DATA.REPAIRED_COLUMNS (R199). -/
  | memorySpDataRepairedColumns
  /-- MEMORY.CMP_META_BASE (R199). -/
  | memoryCmpMetaBase
  /-- MEMORY.CMP_REGION.BASE (R199). -/
  | memoryCmpRegionBase
  /-- MEMORY.CMP_REGION.ENABLE (R199). -/
  | memoryCmpRegionEnable
  /-- MEMORY.CMP_REGION.BUSY (R199). -/
  | memoryCmpRegionBusy
  /-- MEMORY.CMP_REGION.REFUSED (R199). -/
  | memoryCmpRegionRefused
  /-- MEMORY.CMP_REGION.LIMIT (R199). -/
  | memoryCmpRegionLimit
  /-- XLATE.CMDQ_BASE (R230). -/
  | xlateCmdqBase
  /-- XLATE.CMDQ_CFG.LOG2_SIZE (R230). -/
  | xlateCmdqCfgLog2Size
  /-- XLATE.CMDQ_CFG.ENABLE (R230). -/
  | xlateCmdqCfgEnable
  /-- XLATE.CMDQ_CFG.CQ (R230). -/
  | xlateCmdqCfgCq
  /-- XLATE.CMDQ_HEAD.INDEX (R230). -/
  | xlateCmdqHeadIndex
  /-- XLATE.CMDQ_HEAD.EXPECTED_PHASE (R230). -/
  | xlateCmdqHeadExpectedPhase
  /-- XLATE.CMDQ_DOORBELL (R230). -/
  | xlateCmdqDoorbell
  /-- XLATE.FAULT_EQ (R230). -/
  | xlateFaultEq
  /-- XLATE.FAULTS (R230). -/
  | xlateFaults
  /-- XLATE.SLOT_WAITS (R230). -/
  | xlateSlotWaits
  /-- XLATE.WALKS (R230). -/
  | xlateWalks
  /-- XLATE.INVAL_STALLS (R230). -/
  | xlateInvalStalls
  /-- XLATE.PT_BASE.EN (R230). -/
  | xlatePtBaseEn
  /-- XLATE.PT_BASE.BASE (R230). -/
  | xlatePtBaseBase
  /-- XLATE.SLOT_HELD (R230). -/
  | xlateSlotHeld
  /-- XLATE.SLOT_REC (R230). -/
  | xlateSlotRec
  /-- PWIN.RING_DB.INDEX (R239). -/
  | pwinRingDbIndex
  /-- PWIN.RING_DB.RING (R239). -/
  | pwinRingDbRing
  /-- PWIN.CQ_DB.INDEX (R239). -/
  | pwinCqDbIndex
  /-- PWIN.CQ_DB.CQ (R239). -/
  | pwinCqDbCq
  /-- PWIN.CQ_DB.ARM (R239). -/
  | pwinCqDbArm
  /-- PWIN.EQ_DB.INDEX (R239). -/
  | pwinEqDbIndex
  /-- PWIN.EQ_DB.EQ (R239). -/
  | pwinEqDbEq
  /-- PWIN.EQ_DB.ARM (R239). -/
  | pwinEqDbArm
  /-- PWIN.STATUS.EPOCH (R239). -/
  | pwinStatusEpoch
  /-- PWIN.STATUS.ATTACHED (R239). -/
  | pwinStatusAttached
  /-- PWIN.DB_DISCARDS (R239). -/
  | pwinDbDiscards
  /-- CQ.BASE (R248). -/
  | cqBase
  /-- CQ.LOG2_SIZE (R248). -/
  | cqLog2Size
  /-- CQ.PARTITION (R248). -/
  | cqPartition
  /-- CQ.DOMAIN (R248). -/
  | cqDomain
  /-- CQ.EQ (R248). -/
  | cqEq
  /-- CQ.STATE (R248). -/
  | cqState
  /-- CQ.ENABLE (R248). -/
  | cqEnable
  /-- CQ.ARMED (R248). -/
  | cqArmed
  /-- CQ.LAST_CAUSE (R248). -/
  | cqLastCause
  /-- CQ.LOST (R248). -/
  | cqLost
  /-- CQ.PRODUCER (R248). -/
  | cqProducer
  /-- CQ.CONSUMER (R248). -/
  | cqConsumer
  /-- GLOBAL.HL_STATUS.MOD0 (R264). -/
  | hlStatusMod0
  /-- GLOBAL.HL_STATUS.MOD1 (R264). -/
  | hlStatusMod1
  /-- GLOBAL.HL_STATUS.CFG_MODULE (R264). -/
  | hlStatusCfgModule
  /-- GLOBAL.HL_STATUS.ATTACHED (R264). -/
  | hlStatusAttached
  /-- GLOBAL.HL_EPOCH (R264). -/
  | hlEpoch
  /-- GLOBAL.HL_REJOIN.EPOCH (R264). -/
  | hlRejoinEpoch
  /-- GLOBAL.HL_REJOIN.REQUEST (R264). -/
  | hlRejoinRequest
  /-- GLOBAL.HL_REJOIN.RESULT (R264). -/
  | hlRejoinResult
  /-- GLOBAL.HL_CFG.DOWN_MS (R264). -/
  | hlCfgDownMs
  /-- GLOBAL.HL_CFG.HB_MS (R264). -/
  | hlCfgHbMs
  /-- GLOBAL.HL_HEARTBEAT (R264). -/
  | hlHeartbeat
  /-- GLOBAL.HL_CTRL.DETACH (R264). -/
  | hlCtrlDetach
  /-- GLOBAL.HL_EVENT_EQ (R264). -/
  | hlEventEq
  /-- GLOBAL.HL_FLUSH_HPA (R264). -/
  | hlFlushHpa
  /-- GLOBAL.HL_HOST_RID.ID (R264). -/
  | hlHostRidId
  /-- GLOBAL.HL_HOST_RID.MASK (R264). -/
  | hlHostRidMask
  /-- GLOBAL.HL_PARKS (R264). -/
  | hlParks
  /-- GLOBAL.HL_HPA_DISCARDS (R264). -/
  | hlHpaDiscards
  /-- GLOBAL.HL_APERTURE_ERRS (R264). -/
  | hlApertureErrs
  /-- GLOBAL.HL_PEER_REFUSED (R264). -/
  | hlPeerRefused
  /-- GLOBAL.HL_PEER_WIN.BASE (R264). -/
  | hlPeerWinBase
  /-- GLOBAL.HL_PEER_WIN.LOG2_SIZE (R264). -/
  | hlPeerWinLog2Size
  /-- GLOBAL.HL_PEER_RID.ID (R264). -/
  | hlPeerRidId
  /-- GLOBAL.HL_PEER_RID.VALID (R264). -/
  | hlPeerRidValid
  /-- MESH.ROUTE_CTRL.EPOCH (R293). -/
  | meshRouteCtrlEpoch
  /-- MESH.ROUTE_CTRL.DRAINING (R293). -/
  | meshRouteCtrlDraining
  /-- MESH.ROUTE_CTRL.PENDING (R293). -/
  | meshRouteCtrlPending
  /-- MESH.ROUTE_WR_CMD.CROSSING (R293). -/
  | meshRouteWrCmdCrossing
  /-- MESH.ROUTE_WR_CMD.INDEX (R293). -/
  | meshRouteWrCmdIndex
  /-- MESH.ROUTE_WR_CMD.COMMIT (R293). -/
  | meshRouteWrCmdCommit
  /-- MESH.ROUTE_WR_DATA (R293). -/
  | meshRouteWrData
  /-- MESH.DRAIN_COUNT (R293). -/
  | meshDrainCount
  /-- MESH.THROTTLE.HI (R293). -/
  | meshThrottleHi
  /-- MESH.THROTTLE.LO (R293). -/
  | meshThrottleLo
  /-- MESH.THROTTLE.GAP (R293). -/
  | meshThrottleGap
  /-- MESH.CONG.MARK_CYCLES (R293). -/
  | meshCongMarkCycles
  /-- MESH.CONG.MAX_OUT (R293). -/
  | meshCongMaxOut
  /-- MESH.CONG.MIN_OUT (R293). -/
  | meshCongMinOut
  /-- MESH.EVENT_EQ (R293). -/
  | meshEventEq
  /-- MESH.NODE_ID (R293). -/
  | meshNodeId
  /-- MESH.TXN_TIMEOUT (R293). -/
  | meshTxnTimeout
  /-- MESH.ROUTE_CFG.DRAIN_LIMIT (R293). -/
  | meshRouteCfgDrainLimit
  /-- MESH.ROUTE_CHANGES (R293). -/
  | meshRouteChanges
  /-- MESH.NO_ROUTE_DROPS (R293). -/
  | meshNoRouteDrops
  /-- MESH.CROSS_PART_REFUSED (R293). -/
  | meshCrossPartRefused
  /-- MESH.HEADER_DROPS (R293). -/
  | meshHeaderDrops
  /-- MESH.LINK_REPLAYS (R293). -/
  | meshLinkReplays
  /-- MESH.NODE_MAP.EN (R293). -/
  | meshNodeMapEn
  /-- MESH.NODE_MAP.BASE (R293). -/
  | meshNodeMapBase
  /-- MESH.NODE_MAP_INVAL.PARTITION (R293). -/
  | meshNodeMapInvalPartition
  /-- MESH.NODE_MAP_INVAL.NODE (R293). -/
  | meshNodeMapInvalNode
  /-- MESH.LINK_STATUS.UP (R293). -/
  | meshLinkStatusUp
  /-- MESH.ROUTE_TABLE (R293). -/
  | meshRouteTable
  /-- PWIN.QP_DB.INDEX (R307). -/
  | pwinQpDbIndex
  /-- PWIN.QP_DB.QPN (R307). -/
  | pwinQpDbQpn
  /-- PWIN.QP_DB.QUEUE (R307). -/
  | pwinQpDbQueue
  /-- TRANSPORT.CTRL.ENABLE (R336). -/
  | transportCtrlEnable
  /-- TRANSPORT.CFG.UDP_PORT (R336). -/
  | transportCfgUdpPort
  /-- TRANSPORT.CFG.HOP_LIMIT (R336). -/
  | transportCfgHopLimit
  /-- TRANSPORT.QP_CMD.QPN (R336). -/
  | transportQpCmdQpn
  /-- TRANSPORT.QP_CMD.OP (R336). -/
  | transportQpCmdOp
  /-- TRANSPORT.QP_CMD.GO (R336). -/
  | transportQpCmdGo
  /-- TRANSPORT.QP_CMD.BUSY (R336). -/
  | transportQpCmdBusy
  /-- TRANSPORT.QP_CMD.RESULT (R336). -/
  | transportQpCmdResult
  /-- TRANSPORT.QP_CMD_ADDR (R336). -/
  | transportQpCmdAddr
  /-- TRANSPORT.RTO_CFG.MIN (R336). -/
  | transportRtoCfgMin
  /-- TRANSPORT.RTO_CFG.MAX (R336). -/
  | transportRtoCfgMax
  /-- TRANSPORT.RTO_CFG.INIT (R336). -/
  | transportRtoCfgInit
  /-- TRANSPORT.RETX_CFG.RNR_DELAY (R336). -/
  | transportRetxCfgRnrDelay
  /-- TRANSPORT.RETX_CFG.ACK_EVERY (R336). -/
  | transportRetxCfgAckEvery
  /-- TRANSPORT.RETX_CFG.ACK_DELAY (R336). -/
  | transportRetxCfgAckDelay
  /-- TRANSPORT.RETX_CFG.LOSS_GAP (R336). -/
  | transportRetxCfgLossGap
  /-- TRANSPORT.EVENT_EQ (R336). -/
  | transportEventEq
  /-- TRANSPORT.RETX_BASE (R336). -/
  | transportRetxBase
  /-- TRANSPORT.MISS_PARK_LEVEL (R336). -/
  | transportMissParkLevel
  /-- TRANSPORT.RESIDENT (R336). -/
  | transportResident
  /-- TRANSPORT.STICKY (R336). -/
  | transportSticky
  /-- TRANSPORT.PARK_DROPS (R336). -/
  | transportParkDrops
  /-- TRANSPORT.RX_NO_CONTEXT (R336). -/
  | transportRxNoContext
  /-- TRANSPORT.RX_MALFORMED (R336). -/
  | transportRxMalformed
  /-- TRANSPORT.RX_STATE_DROPS (R336). -/
  | transportRxStateDrops
  /-- TRANSPORT.RX_AUTH_FAIL (R336). -/
  | transportRxAuthFail
  /-- TRANSPORT.RX_REPLAY_DROPS (R336). -/
  | transportRxReplayDrops
  /-- TRANSPORT.RX_DUPLICATES (R336). -/
  | transportRxDuplicates
  /-- TRANSPORT.RX_BEYOND_WINDOW (R336). -/
  | transportRxBeyondWindow
  /-- TRANSPORT.OPEN_MSG_DROPS (R336). -/
  | transportOpenMsgDrops
  /-- TRANSPORT.RETRANSMITS (R336). -/
  | transportRetransmits
  /-- TRANSPORT.RTO_EXPIRIES (R336). -/
  | transportRtoExpiries
  /-- TRANSPORT.CTX_FETCHES (R336). -/
  | transportCtxFetches
  /-- TRANSPORT.CTX_EVICTIONS (R336). -/
  | transportCtxEvictions
  /-- TRANSPORT.CTX_FETCH_FAILS (R336). -/
  | transportCtxFetchFails
  /-- TRANSPORT.RETX_RECORD_WAITS (R336). -/
  | transportRetxRecordWaits
  /-- TRANSPORT.QPC_DIR.VALID (R336). -/
  | transportQpcDirValid
  /-- TRANSPORT.QPC_DIR.HOST (R336). -/
  | transportQpcDirHost
  /-- TRANSPORT.QPC_DIR.BASE (R336). -/
  | transportQpcDirBase
  /-- TRANSPORT.LOCAL_IP.ADDR (R336). -/
  | transportLocalIpAddr
  /-- TRANSPORT.LOCAL_IP.VALID (R336). -/
  | transportLocalIpValid
  /-- TRANSPORT.PATHSET_BASE (R364). -/
  | transportPathsetBase
  /-- TRANSPORT.PATHSET_INVAL.SET (R364). -/
  | transportPathsetInvalSet
  /-- TRANSPORT.PLEACH_CFG.SPRAY_LOOK (R364). -/
  | transportPleachCfgSprayLook
  /-- TRANSPORT.PLEACH_CFG.MARK_PENALTY (R364). -/
  | transportPleachCfgMarkPenalty
  /-- TRANSPORT.PLEACH_CFG.PROBE_US (R364). -/
  | transportPleachCfgProbeUs
  /-- TRANSPORT.WND_CFG.INIT_KIB (R364). -/
  | transportWndCfgInitKib
  /-- TRANSPORT.WND_CFG.MAX_KIB (R364). -/
  | transportWndCfgMaxKib
  /-- TRANSPORT.WND_CFG.AI_BYTES (R364). -/
  | transportWndCfgAiBytes
  /-- TRANSPORT.WND_CFG.HAI_ROUNDS (R364). -/
  | transportWndCfgHaiRounds
  /-- TRANSPORT.WND_CFG.DELAY_TARGET (R364). -/
  | transportWndCfgDelayTarget
  /-- TRANSPORT.WND_CFG.DELAY_BETA (R364). -/
  | transportWndCfgDelayBeta
  /-- TRANSPORT.WND_CFG.BASE_WINDOW (R364). -/
  | transportWndCfgBaseWindow
  /-- TRANSPORT.PATHS_DOWNED (R364). -/
  | transportPathsDowned
  /-- TRANSPORT.PATHS_RESTORED (R364). -/
  | transportPathsRestored
  /-- TRANSPORT.PROBES_SENT (R364). -/
  | transportProbesSent
  /-- TRANSPORT.LIVE_SETS (R364). -/
  | transportLiveSets
  /-- TRANSPORT.WND_CUTS (R364). -/
  | transportWndCuts
  /-- TRANSPORT.LIVE_SEL.SLOT (R364). -/
  | transportLiveSelSlot
  /-- TRANSPORT.LIVE_SEL.PATH (R364). -/
  | transportLiveSelPath
  /-- TRANSPORT.LIVE_DATA.UP (R364). -/
  | transportLiveDataUp
  /-- TRANSPORT.LIVE_DATA.MARK (R364). -/
  | transportLiveDataMark
  /-- TRANSPORT.LIVE_DATA.DELAY (R364). -/
  | transportLiveDataDelay
  /-- TRANSPORT.LIVE_DATA.LAST_HEARD (R364). -/
  | transportLiveDataLastHeard
  /-- TRANSPORT.LIVE_SET.SET (R364). -/
  | transportLiveSetSet
  /-- TRANSPORT.LIVE_SET.IN_USE (R364). -/
  | transportLiveSetInUse
  /-- TRANSPORT.LIVE_SET.OWNER (R364). -/
  | transportLiveSetOwner
  /-- TOPIARY.CFG.OVERHEAD (R365). -/
  | topiaryCfgOverhead
  /-- TOPIARY.CFG.CTRL_CLASS (R365). -/
  | topiaryCfgCtrlClass
  /-- TOPIARY.DSCP (R365). -/
  | topiaryDscp
  /-- TOPIARY.QUANTUM (R365). -/
  | topiaryQuantum
  /-- TOPIARY.SENT_BYTES (R365). -/
  | topiarySentBytes
  /-- TOPIARY.SENT_FRAMES (R365). -/
  | topiarySentFrames
  /-- TOPIARY.METER_MAP (R365). -/
  | topiaryMeterMap
  /-- TOPIARY.METER.CIR (R365). -/
  | topiaryMeterCir
  /-- TOPIARY.METER.PIR (R365). -/
  | topiaryMeterPir
  /-- TOPIARY.METER.CBS (R365). -/
  | topiaryMeterCbs
  /-- TOPIARY.METER.PBS (R365). -/
  | topiaryMeterPbs
  /-- TOPIARY.METER.GREEN (R365). -/
  | topiaryMeterGreen
  /-- TOPIARY.METER.YELLOW (R365). -/
  | topiaryMeterYellow
  /-- TOPIARY.METER.RED_HOLDS (R365). -/
  | topiaryMeterRedHolds
  /-- GLOBAL.TIME.NOW_NS (R376). -/
  | timeNowNs
  /-- GLOBAL.TIME.NOW_FRAC (R376). -/
  | timeNowFrac
  /-- GLOBAL.TIME.SET_NS (R376). -/
  | timeSetNs
  /-- GLOBAL.TIME.STEP_NS (R376). -/
  | timeStepNs
  /-- GLOBAL.TIME.ADJ_PPB (R376). -/
  | timeAdjPpb
  /-- GLOBAL.TIME.STEPS (R376). -/
  | timeSteps
  /-- PWIN.RAW_DB.INDEX (R382). -/
  | pwinRawDbIndex
  /-- PWIN.RAW_DB.SUBPORT (R382). -/
  | pwinRawDbSubport
  /-- PWIN.RAW_DB.RING (R382). -/
  | pwinRawDbRing
  /-- PORT.CTRL.ENABLE (R389). -/
  | portCtrlEnable
  /-- PORT.CFG.MODE (R389). -/
  | portCfgMode
  /-- PORT.CFG.FEC_THRESH (R389). -/
  | portCfgFecThresh
  /-- PORT.EVENT_EQ (R389). -/
  | portEventEq
  /-- PORT.TS_CFG.TX_DELAY (R389). -/
  | portTsCfgTxDelay
  /-- PORT.TS_CFG.RX_DELAY (R389). -/
  | portTsCfgRxDelay
  /-- SUB.MAC (R389). -/
  | portsubMac
  /-- SUB.VLAN.VID (R389). -/
  | portsubVlanVid
  /-- SUB.VLAN.TAG_EN (R389). -/
  | portsubVlanTagEn
  /-- SUB.VLAN.PCP_MAP (R389). -/
  | portsubVlanPcpMap
  /-- SUB.RAW_RX_BASE (R389). -/
  | portsubRawRxBase
  /-- SUB.RAW_TX_BASE (R389). -/
  | portsubRawTxBase
  /-- SUB.RAW_CFG.RX_LOG2 (R389). -/
  | portsubRawCfgRxLog2
  /-- SUB.RAW_CFG.TX_LOG2 (R389). -/
  | portsubRawCfgTxLog2
  /-- SUB.RAW_CFG.RX_EN (R389). -/
  | portsubRawCfgRxEn
  /-- SUB.RAW_CFG.TX_EN (R389). -/
  | portsubRawCfgTxEn
  /-- SUB.RAW_CFG.CQ (R389). -/
  | portsubRawCfgCq
  /-- SUB.RAW_STATE.RX_HEAD (R389). -/
  | portsubRawStateRxHead
  /-- SUB.RAW_STATE.TX_HEAD (R389). -/
  | portsubRawStateTxHead
  /-- SUB.LINK.STATE (R389). -/
  | portsubLinkState
  /-- SUB.LINK.LOS (R389). -/
  | portsubLinkLos
  /-- SUB.CNT_HALF (R389). -/
  | portsubCntHalf
  /-- SUB.CNT_HALF_EN (R389). -/
  | portsubCntHalfEn
  /-- SUB.GATE_ADMIN.BASE (R389). -/
  | portsubGateAdminBase
  /-- SUB.GATE_ADMIN.CYCLE_NS (R389). -/
  | portsubGateAdminCycleNs
  /-- SUB.GATE_ADMIN.ENTRIES (R389). -/
  | portsubGateAdminEntries
  /-- SUB.GATE_ADMIN.ENABLE (R389). -/
  | portsubGateAdminEnable
  /-- SUB.GATE_CTRL.CHANGE (R389). -/
  | portsubGateCtrlChange
  /-- SUB.GATE_CTRL.CANCEL (R389). -/
  | portsubGateCtrlCancel
  /-- SUB.GATE_CTRL.PENDING (R389). -/
  | portsubGateCtrlPending
  /-- SUB.GATE_CTRL.OPER_BANK (R389). -/
  | portsubGateCtrlOperBank
  /-- SUB.GATE_CTRL.RUNNING (R389). -/
  | portsubGateCtrlRunning
  /-- SUB.GATE_START (R389). -/
  | portsubGateStart
  /-- SUB.GATE_LATE_STARTS (R389). -/
  | portsubGateLateStarts
  /-- SUB.GATE_WRITE_DISCARDS (R389). -/
  | portsubGateWriteDiscards
  /-- SUB.GATE_ENTRY (R389). -/
  | portsubGateEntry
  /-- PWIN.COLL_DB.INDEX (R394). -/
  | pwinCollDbIndex
  /-- TRANSPORT.COLL_CTRL.ENABLE (R409). -/
  | transportCollCtrlEnable
  /-- TRANSPORT.COLL_CFG.BUF_MAX_KIB (R409). -/
  | transportCollCfgBufMaxKib
  /-- TRANSPORT.COLL_CMD.GROUP (R409). -/
  | transportCollCmdGroup
  /-- TRANSPORT.COLL_CMD.OP (R409). -/
  | transportCollCmdOp
  /-- TRANSPORT.COLL_CMD.GO (R409). -/
  | transportCollCmdGo
  /-- TRANSPORT.COLL_CMD.BUSY (R409). -/
  | transportCollCmdBusy
  /-- TRANSPORT.COLL_CMD.RESULT (R409). -/
  | transportCollCmdResult
  /-- TRANSPORT.COLL_CMD_ADDR (R409). -/
  | transportCollCmdAddr
  /-- TRANSPORT.COLL_EVENT_EQ (R409). -/
  | transportCollEventEq
  /-- TRANSPORT.COLL_BUF_LEVEL (R409). -/
  | transportCollBufLevel
  /-- TRANSPORT.COLL_STARTED (R409). -/
  | transportCollStarted
  /-- TRANSPORT.COLL_FAILED (R409). -/
  | transportCollFailed
  /-- TRANSPORT.COLL_RNR_SENT (R409). -/
  | transportCollRnrSent
  /-- TRANSPORT.COLL_RESENT (R409). -/
  | transportCollResent
  /-- TRANSPORT.COLL_Q.BASE (R409). -/
  | transportCollQBase
  /-- TRANSPORT.COLL_Q.LOG2 (R409). -/
  | transportCollQLog2
  /-- TRANSPORT.COLL_Q.ENABLE (R409). -/
  | transportCollQEnable
  /-- TRANSPORT.COLL_Q.CQ (R409). -/
  | transportCollQCq
  /-- TRANSPORT.COLL_Q.EQ (R409). -/
  | transportCollQEq
  /-- TRANSPORT.COLL_Q.HEAD (R409). -/
  | transportCollQHead
  /-- TRANSPORT.COLL_Q.EXPECTED_PHASE (R409). -/
  | transportCollQExpectedPhase
  /-- TRANSPORT.COLL_Q.STATE (R409). -/
  | transportCollQState
  /-- TRANSPORT.COLL_Q.LAST_CAUSE (R409). -/
  | transportCollQLastCause
  /-- TRANSPORT.COLL_GROUP.STATE (R409). -/
  | transportCollGroupState
  /-- TRANSPORT.COLL_GROUP.PARTITION (R409). -/
  | transportCollGroupPartition
  /-- TRANSPORT.COLL_GROUP.LAST_CAUSE (R409). -/
  | transportCollGroupLastCause
  /-- TRANSPORT.COLL_GROUP.ROUND (R409). -/
  | transportCollGroupRound
  /-- PWIN.ATTEST_ADDR (R437). -/
  | pwinAttestAddr
  /-- PWIN.ATTEST_CTRL.GO (R437). -/
  | pwinAttestCtrlGo
  /-- PWIN.ATTEST_CTRL.BUSY (R437). -/
  | pwinAttestCtrlBusy
  /-- PWIN.ATTEST_CTRL.ERR (R437). -/
  | pwinAttestCtrlErr
  /-- YEW.STATUS.ALARM (R442). -/
  | yewStatusAlarm
  /-- YEW.STATUS.ALARM_SRC (R442). -/
  | yewStatusAlarmSrc
  /-- YEW.CFG.CLEAR_SAVE_EN (R442). -/
  | yewCfgClearSaveEn
  /-- YEW.CFG.RX_GRACE_US (R442). -/
  | yewCfgRxGraceUs
  /-- YEW.ENGINE_OK.LOW (R442). -/
  | yewEngineOkLow
  /-- YEW.ENGINE_OK.HIGH (R442). -/
  | yewEngineOkHigh
  /-- YEW.EVENT_EQ (R442). -/
  | yewEventEq
  /-- YEW.SLOT_CMD.SLOT (R442). -/
  | yewSlotCmdSlot
  /-- YEW.SLOT_CMD.OP (R442). -/
  | yewSlotCmdOp
  /-- YEW.SLOT_CMD.GO (R442). -/
  | yewSlotCmdGo
  /-- YEW.SLOT_CMD.BUSY (R442). -/
  | yewSlotCmdBusy
  /-- YEW.SLOT_CMD.RESULT (R442). -/
  | yewSlotCmdResult
  /-- YEW.SLOT_CMD.KEK (R442). -/
  | yewSlotCmdKek
  /-- YEW.SLOT_CMD_ADDR (R442). -/
  | yewSlotCmdAddr
  /-- YEW.PD_BASE (R442). -/
  | yewPdBase
  /-- YEW.REGION_BASE (R442). -/
  | yewRegionBase
  /-- YEW.REGION_CFG.LOG2 (R442). -/
  | yewRegionCfgLog2
  /-- YEW.TABLE_INVAL.INDEX (R442). -/
  | yewTableInvalIndex
  /-- YEW.TABLE_INVAL.TABLE (R442). -/
  | yewTableInvalTable
  /-- YEW.TABLE_INVAL.ALL (R442). -/
  | yewTableInvalAll
  /-- YEW.ENGINE_MISMATCHES (R442). -/
  | yewEngineMismatches
  /-- YEW.UNWRAP_FAILS (R442). -/
  | yewUnwrapFails
  /-- YEW.NO_KEY_DROPS (R442). -/
  | yewNoKeyDrops
  /-- YEW.ACCESS_REFUSED (R442). -/
  | yewAccessRefused
  /-- YEW.SEAL_REFUSED (R442). -/
  | yewSealRefused
  /-- YEW.SEAL_STATUS.SEALED (R442). -/
  | yewSealStatusSealed
  /-- YEW.SEAL_STATUS.LOST (R442). -/
  | yewSealStatusLost
  /-- YEW.ENGINE_OWNER.PARTITION (R442). -/
  | yewEngineOwnerPartition
  /-- YEW.ENGINE_OWNER.RESERVED (R442). -/
  | yewEngineOwnerReserved
  /-- YEW.IDENT_PUBKEY (R442). -/
  | yewIdentPubkey
  /-- YEW.IDENT_CERT (R442). -/
  | yewIdentCert
  /-- YEW.SLOT.STATE (R442). -/
  | yewSlotState
  /-- YEW.SLOT.KIND (R442). -/
  | yewSlotKind
  /-- YEW.SLOT.OWNER (R442). -/
  | yewSlotOwner
  /-- YEW.SLOT.SHADOW (R442). -/
  | yewSlotShadow
  /-- YEW.SLOT.PREV (R442). -/
  | yewSlotPrev
  /-- YEW.SLOT.INFLIGHT (R442). -/
  | yewSlotInflight
  /-- YEW.SLOT.USER_QPN (R442). -/
  | yewSlotUserQpn
  /-- YEW.SLOT.SEAL_COUNT (R442). -/
  | yewSlotSealCount
  /-- YEW.SLOT.NC_FLOOR (R442). -/
  | yewSlotNcFloor
  /-- GLOBAL.TILE_CMD.TILE (R452). -/
  | tileCmdTile
  /-- GLOBAL.TILE_CMD.PARTITION (R452). -/
  | tileCmdPartition
  /-- GLOBAL.TILE_CMD.OP (R452). -/
  | tileCmdOp
  /-- GLOBAL.TILE_CMD.GO (R452). -/
  | tileCmdGo
  /-- GLOBAL.TILE_CMD.BUSY (R452). -/
  | tileCmdBusy
  /-- GLOBAL.TILE_CMD.RESULT (R452). -/
  | tileCmdResult
  /-- GLOBAL.TILE_OWNER.PARTITION (R452). -/
  | tileOwnerPartition
  /-- GLOBAL.TILE_OWNER.ASSIGNED (R452). -/
  | tileOwnerAssigned
  /-- GLOBAL.TILE_OWNER.RELEASING (R452). -/
  | tileOwnerReleasing
  /-- PART.CTRL.FREEZE (R452). -/
  | partCtrlFreeze
  /-- PART.CTRL.THAW (R452). -/
  | partCtrlThaw
  /-- PART.CTRL.SAVE (R452). -/
  | partCtrlSave
  /-- PART.CTRL.RESTORE (R452). -/
  | partCtrlRestore
  /-- PART.CTRL.SEAL (R452). -/
  | partCtrlSeal
  /-- PART.CTRL.UNSEAL (R452). -/
  | partCtrlUnseal
  /-- PART.STATUS.STATE (R452). -/
  | partStatusState
  /-- PART.STATUS.BUSY (R452). -/
  | partStatusBusy
  /-- PART.STATUS.SEALED (R452). -/
  | partStatusSealed
  /-- PART.STATUS.RESULT (R452). -/
  | partStatusResult
  /-- PART.QUOTA.RING_MAX (R452). -/
  | partQuotaRingMax
  /-- PART.QUOTA.CQ_MAX (R452). -/
  | partQuotaCqMax
  /-- PART.QUOTA.EQ_MAX (R452). -/
  | partQuotaEqMax
  /-- PART.QUOTA.SLOT_MAX (R452). -/
  | partQuotaSlotMax
  /-- PART.QUOTA.QP_MAX (R452). -/
  | partQuotaQpMax
  /-- PART.COUNT.RINGS (R452). -/
  | partCountRings
  /-- PART.COUNT.CQS (R452). -/
  | partCountCqs
  /-- PART.COUNT.EQS (R452). -/
  | partCountEqs
  /-- PART.COUNT.SLOTS (R452). -/
  | partCountSlots
  /-- PART.COUNT.QPS (R452). -/
  | partCountQps
  /-- PART.COUNT.TILES (R452). -/
  | partCountTiles
  /-- PART.SEAL_CFG.HEDGE (R452). -/
  | partSealCfgHedge
  /-- PART.SEAL_CFG.SHARE (R452). -/
  | partSealCfgShare
  /-- PART.SEAL_CFG.RES_SHARE (R452). -/
  | partSealCfgResShare
  /-- PART.SUBPORTS (R452). -/
  | partSubports
  /-- PART.CFG.FREEZE_MS (R452). -/
  | partCfgFreezeMs
  /-- PART.CMD_ADDR (R452). -/
  | partCmdAddr
  /-- PART.REFUSALS (R452). -/
  | partRefusals
  /-- BOOT.STATUS.STAGE (R478). -/
  | bootStatusStage
  /-- BOOT.STATUS.HOLDBACK (R478). -/
  | bootStatusHoldback
  /-- BOOT.STATUS.CAUSE (R478). -/
  | bootStatusCause
  /-- BOOT.STATUS.RESET_KIND (R478). -/
  | bootStatusResetKind
  /-- BOOT.STATUS.OWNER_SLOT (R478). -/
  | bootStatusOwnerSlot
  /-- BOOT.STATUS.FAILED_DIE (R478). -/
  | bootStatusFailedDie
  /-- BOOT.SVN.IMAGE (R478). -/
  | bootSvnImage
  /-- BOOT.SVN.FUSED (R478). -/
  | bootSvnFused
  /-- BOOT.START_US (R478). -/
  | bootStartUs
  /-- BOOT.CTRL.COLD (R478). -/
  | bootCtrlCold
  /-- BOOT.CTRL.WARM (R478). -/
  | bootCtrlWarm
  /-- BOOT.CTRL.CONFIRM (R478). -/
  | bootCtrlConfirm
  /-- BOOT.IMAGE_DIGEST (R478). -/
  | bootImageDigest
  /-- BOOT.IMAGE_ID (R478). -/
  | bootImageId
  /-- BOOT.FLASH_CMD.OP (R478). -/
  | bootFlashCmdOp
  /-- BOOT.FLASH_CMD.GO (R478). -/
  | bootFlashCmdGo
  /-- BOOT.FLASH_CMD.BUSY (R478). -/
  | bootFlashCmdBusy
  /-- BOOT.FLASH_CMD.RESULT (R478). -/
  | bootFlashCmdResult
  /-- BOOT.FLASH_ADDR (R478). -/
  | bootFlashAddr
  /-- BOOT.FLASH_OPS (R478). -/
  | bootFlashOps
  /-- BOOT.FLASH_BUF (R478). -/
  | bootFlashBuf
  /-- BOOT.OWNER.DIGEST (R478). -/
  | bootOwnerDigest
  /-- BOOT.OWNER.VALID (R478). -/
  | bootOwnerValid
  /-- BOOT.OWNER.USED (R478). -/
  | bootOwnerUsed
  /-- POWER.LIMIT.SUSTAINED_W (R497). -/
  | powerLimitSustainedW
  /-- POWER.LIMIT.TAU_MS (R497). -/
  | powerLimitTauMs
  /-- POWER.INPUT.AVG_1MS_W (R497). -/
  | powerInputAvg1msW
  /-- POWER.INPUT.AVG_TAU_W (R497). -/
  | powerInputAvgTauW
  /-- POWER.INPUT.VOLTS (R497). -/
  | powerInputVolts
  /-- POWER.RATE.SHARED (R497). -/
  | powerRateShared
  /-- POWER.RATE.THERMAL (R497). -/
  | powerRateThermal
  /-- POWER.RATE.HEDGE (R497). -/
  | powerRateHedge
  /-- POWER.RATE.CAPPING (R497). -/
  | powerRateCapping
  /-- POWER.RATE.FLOOR_BROKEN (R497). -/
  | powerRateFloorBroken
  /-- POWER.ENTRY.CS2_US (R497). -/
  | powerEntryCs2Us
  /-- POWER.ENTRY.CS3_US (R497). -/
  | powerEntryCs3Us
  /-- POWER.ENTRY.CS4_MS (R497). -/
  | powerEntryCs4Ms
  /-- POWER.THERMAL.THROTTLE_C (R497). -/
  | powerThermalThrottleC
  /-- POWER.THERMAL.MEM_LIMIT_C (R497). -/
  | powerThermalMemLimitC
  /-- POWER.THERMAL.TRIP_C (R497). -/
  | powerThermalTripC
  /-- POWER.EVENT_EQ (R497). -/
  | powerEventEq
  /-- POWER.TRIP_RECORD.TRIPPED (R497). -/
  | powerTripRecordTripped
  /-- POWER.TRIP_RECORD.PAIR (R497). -/
  | powerTripRecordPair
  /-- POWER.CAP_US (R497). -/
  | powerCapUs
  /-- POWER.GUARD_TRIPS (R497). -/
  | powerGuardTrips
  /-- POWER.WAKE_DROPS (R497). -/
  | powerWakeDrops
  /-- POWER.REFUSALS (R497). -/
  | powerRefusals
  /-- POWER.ENERGY_MJ (R497). -/
  | powerEnergyMj
  /-- POWER.PART_LTR (R497). -/
  | powerPartLtr
  /-- POWER.SEAL_FLOOR (R497). -/
  | powerSealFloor
  /-- POWER.RING_LTR (R497). -/
  | powerRingLtr
  /-- POWER.SENSOR.TEMP (R497). -/
  | powerSensorTemp
  /-- POWER.SENSOR.VALID (R497). -/
  | powerSensorValid
  /-- POWER.TILE_STATE (R497). -/
  | powerTileState
  /-- POWER.HEDGE_STATE (R497). -/
  | powerHedgeState
  /-- POWER.LAUREL_STATE (R497). -/
  | powerLaurelState
  /-- POWER.MESH_STATE (R497). -/
  | powerMeshState
  /-- SAFETY.STATUS.HALTED (R515). -/
  | safetyStatusHalted
  /-- SAFETY.STATUS.HALT_CAUSE (R515). -/
  | safetyStatusHaltCause
  /-- SAFETY.STATUS.HALT_DIE (R515). -/
  | safetyStatusHaltDie
  /-- SAFETY.CFG.WATCHDOG_US (R515). -/
  | safetyCfgWatchdogUs
  /-- SAFETY.CFG.SPARE_LOW (R515). -/
  | safetyCfgSpareLow
  /-- SAFETY.EVENT_EQ (R515). -/
  | safetyEventEq
  /-- SAFETY.TILE_RETIRE.TILE (R515). -/
  | safetyTileRetireTile
  /-- SAFETY.TILE_RETIRE.GO (R515). -/
  | safetyTileRetireGo
  /-- SAFETY.TILE_RETIRE.BUSY (R515). -/
  | safetyTileRetireBusy
  /-- SAFETY.TILE_RETIRE.RESULT (R515). -/
  | safetyTileRetireResult
  /-- SAFETY.FAULT_SEQ (R515). -/
  | safetyFaultSeq
  /-- SAFETY.VOTE_REPAIRS (R515). -/
  | safetyVoteRepairs
  /-- SAFETY.VOTE_LOSSES (R515). -/
  | safetyVoteLosses
  /-- SAFETY.SCRUB_PASSES (R515). -/
  | safetyScrubPasses
  /-- SAFETY.TILES_REPLAYED (R515). -/
  | safetyTilesReplayed
  /-- SAFETY.TILES_RETIRED (R515). -/
  | safetyTilesRetired
  /-- SAFETY.TILE_FAILED (R515). -/
  | safetyTileFailed
  /-- SAFETY.LAST_RECORD (R515). -/
  | safetyLastRecord
  /-- COMPAT.ID.CLASS (R540). -/
  | compatIdClass
  /-- COMPAT.ID.PART (R540). -/
  | compatIdPart
  /-- COMPAT.STATUS.BUSY (R540). -/
  | compatStatusBusy
  /-- COMPAT.STATUS.OVERFLOW (R540). -/
  | compatStatusOverflow
  /-- COMPAT.STATUS.HALF_DROPPED (R540). -/
  | compatStatusHalfDropped
  /-- COMPAT.STATUS.QUEUED (R540). -/
  | compatStatusQueued
  /-- COMPAT.DISCARDS (R540). -/
  | compatDiscards
  /-- GLOBAL.ID.PART (R545). -/
  | idPart
  /-- GLOBAL.ID.VARIANT (R545). -/
  | idVariant
  /-- GLOBAL.ID.STEPPING (R545). -/
  | idStepping
  /-- GLOBAL.DEVICE_ID.LOW (R545). -/
  | deviceIdLow
  /-- GLOBAL.DEVICE_ID.HIGH (R545). -/
  | deviceIdHigh
  /-- GLOBAL.SPARES.FUSED (R545). -/
  | sparesFused
  /-- GLOBAL.SPARES.RUNTIME_LEFT (R545). -/
  | sparesRuntimeLeft
  /-- GLOBAL.SPARES.IN_SERVICE (R545). -/
  | sparesInService
  /-- GLOBAL.SPARE_MAP.USE (R545). -/
  | spareMapUse
  /-- GLOBAL.SPARE_MAP.TILE (R545). -/
  | spareMapTile
  /-- GLOBAL.DISCARDED_WRITES (R545). -/
  | discardedWrites
  /-- GLOBAL.LAST_DISCARD.OFFSET (R545). -/
  | lastDiscardOffset
  /-- GLOBAL.LAST_DISCARD.SOURCE (R545). -/
  | lastDiscardSource
  /-- GLOBAL.LAST_DISCARD.PARTITION (R545). -/
  | lastDiscardPartition
  /-- GLOBAL.STALL_TIMEOUTS (R545). -/
  | stallTimeouts
  /-- GLOBAL.ACCESS_STATUS.STALL_TIMEOUT (R545). -/
  | accessStatusStallTimeout
  /-- GLOBAL.MGMT_ALERT.MASK (R545). -/
  | mgmtAlertMask
  /-- GLOBAL.COMMIT.GO (R545). -/
  | commitGo
  /-- GLOBAL.MGMT_ALERT.PENDING (R545). -/
  | mgmtAlertPending
  /-- EQ.BASE (R251). -/
  | eqBase
  /-- EQ.LOG2_SIZE (R251). -/
  | eqLog2Size
  /-- EQ.PARTITION (R251). -/
  | eqPartition
  /-- EQ.VECTOR (R251). -/
  | eqVector
  /-- EQ.MOD_US (R251). -/
  | eqModUs
  /-- EQ.STATE (R251). -/
  | eqState
  /-- EQ.ENABLE (R251). -/
  | eqEnable
  /-- EQ.ARMED (R251). -/
  | eqArmed
  /-- EQ.LAST_CAUSE (R251). -/
  | eqLastCause
  /-- EQ.LOST (R251). -/
  | eqLost
  /-- EQ.PRODUCER (R251). -/
  | eqProducer
  /-- EQ.CONSUMER (R251). -/
  | eqConsumer
  /-- PORT.COUNTER (R373). -/
  | portCounter
deriving DecidableEq, Repr

/-- Bit 8 x (control-window offset) + bit, of entry 0. -/
def fldAt (offset bit width : Nat) (dims : List (Nat × Nat)) (access : Access) (reset : Nat) (voted : Bool := false) : FldInfo :=
  { base := 8 * offset + bit, width := width, dims := dims.map (fun d => (d.1, 8 * d.2)), access := access, voted := voted || access == .rwv, reset := reset }

/-- The table entry of a field. -/
def Fld.info : Fld → FldInfo
  | .dispatchCtrlEnable => fldAt 0x800000 0 1 [] .rw 0
  | .dispatchWaitTimeout => fldAt 0x800008 0 32 [] .rw 0x186a0
  | .dispatchOccCtrlGrowPct => fldAt 0x800010 0 8 [] .rw 0x32
  | .dispatchOccCtrlShrinkPct => fldAt 0x800010 8 8 [] .rw 0x14
  | .dispatchOccCtrlShrinkHold => fldAt 0x800010 16 8 [] .rw 0xa
  | .dispatchStepAhead => fldAt 0x800018 0 3 [] .rw 2
  | .dispatchJournalBase => fldAt 0x800020 16 32 [] .rw 0
  | .dispatchJournalBroken => fldAt 0x800028 0 32 [] .ro 0
  | .dispatchRowActive => fldAt 0x800100 0 6 [(24, 0x8)] .ro 0
  | .ringBaseAddr => fldAt 0x810000 12 52 [(4096, 0x40)] .rw 0
  | .ringCfgLog2Size => fldAt 0x810008 0 5 [(4096, 0x40)] .rw 6
  | .ringCfgPartition => fldAt 0x810008 5 6 [(4096, 0x40)] .rwv 0
  | .ringCfgHomeRow => fldAt 0x810008 11 5 [(4096, 0x40)] .rw 0
  | .ringCfgEq => fldAt 0x810008 16 8 [(4096, 0x40)] .rw 0
  | .ringCfgCq => fldAt 0x810008 32 16 [(4096, 0x40)] .rw 0
  | .ringStateState => fldAt 0x810010 0 2 [(4096, 0x40)] .ro 0
  | .ringStateEnable => fldAt 0x810010 2 1 [(4096, 0x40)] .rw 0
  | .ringStateRestart => fldAt 0x810010 3 1 [(4096, 0x40)] .w1s 0
  | .ringStateLastCause => fldAt 0x810010 8 8 [(4096, 0x40)] .ro 0
  | .ringHeadIndex => fldAt 0x810018 0 32 [(4096, 0x40)] .ro 0
  | .ringHeadExpectedPhase => fldAt 0x810018 32 1 [(4096, 0x40)] .ro 1
  | .ringDoorbellHint => fldAt 0x810020 0 32 [(4096, 0x40)] .ro 0
  | .ringInflight => fldAt 0x810028 0 32 [(4096, 0x40)] .ro 0
  | .dispatchAttnCtrlFarEnable => fldAt 0x800400 0 1 [] .rw 1
  | .dispatchAttnCtrlFarTimeout => fldAt 0x800400 16 16 [] .rw 0xc8
  | .dispatchAttnFarSent => fldAt 0x800408 0 32 [] .ro 0
  | .dispatchAttnPulled => fldAt 0x800410 0 32 [] .ro 0
  | .dispatchAttnFallback => fldAt 0x800418 0 32 [] .ro 0
  | .dispatchAttnLate => fldAt 0x800420 0 32 [] .ro 0
  | .dispatchHomeAdmitted => fldAt 0x800428 0 32 [] .ro 0
  | .dispatchHomeRefused => fldAt 0x800430 0 32 [] .ro 0
  | .attnTuneBatchMax => fldAt 0x800800 0 6 [(64, 0x10)] .rw 0x10
  | .attnTuneFarWeight => fldAt 0x800800 8 8 [(64, 0x10)] .rw 0x40
  | .attnTuneDefaultCap => fldAt 0x800800 16 8 [(64, 0x10)] .rw 0x80
  | .attnTuneFarMinBatch => fldAt 0x800800 24 6 [(64, 0x10)] .rw 2
  | .attnTuneTPageHome => fldAt 0x800800 32 16 [(64, 0x10)] .rw 0x190
  | .attnTuneFarOutstanding => fldAt 0x800800 48 5 [(64, 0x10)] .rw 4
  | .attnTuneCapAge => fldAt 0x800808 0 16 [(64, 0x10)] .rw 0x32
  | .attnTuneRetryUs => fldAt 0x800808 16 8 [(64, 0x10)] .rw 0x14
  | .attnTuneRetryMax => fldAt 0x800808 24 4 [(64, 0x10)] .rw 8
  | .dispatchHomeCfgRowFirst => fldAt 0x800c00 0 5 [(64, 0x8)] .rw 0
  | .dispatchHomeCfgRowLast => fldAt 0x800c00 5 5 [(64, 0x8)] .rw 0x17
  | .dispatchHomeCfgQueueMax => fldAt 0x800c00 16 8 [(64, 0x8)] .rw 0
  | .memoryHbmCfgInterleave => fldAt 0x2800000 0 2 [] .ro 0
  | .memoryDdrCfgUsed => fldAt 0x2800008 0 8 [] .ro 0
  | .memoryDdrCfgRefused => fldAt 0x2800008 8 8 [] .ro 0
  | .memoryDdrCapTotalGib => fldAt 0x2800010 0 13 [] .ro 0
  | .memoryDdrCapInterleavedGib => fldAt 0x2800010 13 13 [] .ro 0
  | .memoryScrubCfgHbmHours => fldAt 0x2800018 0 8 [] .rw 8
  | .memoryScrubCfgDdrHours => fldAt 0x2800018 8 8 [] .rw 0x18
  | .memoryCeThreshMem => fldAt 0x2800020 0 16 [] .rw 0x40
  | .memoryCeThreshTile => fldAt 0x2800020 16 16 [] .rw 0x10
  | .memoryEventEq => fldAt 0x2800028 0 8 [] .rw 0
  | .memoryUeTotal => fldAt 0x2800030 0 32 [] .ro 0
  | .memoryHbmStatCe => fldAt 0x2800100 0 32 [(12, 0x8)] .ro 0
  | .memoryHbmStatUe => fldAt 0x2800100 32 16 [(12, 0x8)] .ro 0
  | .memoryHbmStatFuseRepairs => fldAt 0x2800100 48 8 [(12, 0x8)] .ro 0
  | .memoryDdrStatCe => fldAt 0x2800180 0 32 [(8, 0x8)] .ro 0
  | .memoryDdrStatUe => fldAt 0x2800180 32 16 [(8, 0x8)] .ro 0
  | .memoryDdrStatSpeed => fldAt 0x2800180 48 3 [(8, 0x8)] .ro 0
  | .memoryDdrStatModules => fldAt 0x2800180 51 2 [(8, 0x8)] .ro 0
  | .memoryDdrStatState => fldAt 0x2800180 53 2 [(8, 0x8)] .ro 0
  | .memorySpSelTile => fldAt 0x2800200 0 11 [] .rw 0
  | .memorySpSelBank => fldAt 0x2800200 11 6 [] .rw 0
  | .memorySpDataCollisions => fldAt 0x2800208 0 32 [] .ro 0
  | .memorySpDataCe => fldAt 0x2800208 32 16 [] .ro 0
  | .memorySpDataUe => fldAt 0x2800208 48 8 [] .ro 0
  | .memorySpDataRepairedColumns => fldAt 0x2800208 56 4 [] .ro 0
  | .memoryCmpMetaBase => fldAt 0x2800300 16 32 [] .rw 0
  | .memoryCmpRegionBase => fldAt 0x2800400 16 32 [(16, 0x10)] .rw 0
  | .memoryCmpRegionEnable => fldAt 0x2800408 0 1 [(16, 0x10)] .rw 0
  | .memoryCmpRegionBusy => fldAt 0x2800408 1 1 [(16, 0x10)] .ro 0
  | .memoryCmpRegionRefused => fldAt 0x2800408 2 1 [(16, 0x10)] .ro 0
  | .memoryCmpRegionLimit => fldAt 0x2800408 16 32 [(16, 0x10)] .rw 0
  | .xlateCmdqBase => fldAt 0x400000 16 32 [] .rw 0
  | .xlateCmdqCfgLog2Size => fldAt 0x400008 0 4 [] .rw 6
  | .xlateCmdqCfgEnable => fldAt 0x400008 4 1 [] .rw 0
  | .xlateCmdqCfgCq => fldAt 0x400008 5 16 [] .rw 0
  | .xlateCmdqHeadIndex => fldAt 0x400010 0 32 [] .ro 0
  | .xlateCmdqHeadExpectedPhase => fldAt 0x400010 32 1 [] .ro 1
  | .xlateCmdqDoorbell => fldAt 0x400018 0 32 [] .rw 0
  | .xlateFaultEq => fldAt 0x400020 0 8 [] .rw 0
  | .xlateFaults => fldAt 0x400028 0 32 [] .ro 0
  | .xlateSlotWaits => fldAt 0x400030 0 32 [] .ro 0
  | .xlateWalks => fldAt 0x400038 0 32 [] .ro 0
  | .xlateInvalStalls => fldAt 0x400040 0 32 [] .ro 0
  | .xlatePtBaseEn => fldAt 0x400100 0 1 [(64, 0x8)] .rwv 0
  | .xlatePtBaseBase => fldAt 0x400100 16 32 [(64, 0x8)] .rwv 0
  | .xlateSlotHeld => fldAt 0x400400 0 64 [(16, 0x8)] .ro 0
  | .xlateSlotRec => fldAt 0x408000 0 64 [(1024, 0x20), (4, 0x8)] .ro 0
  | .pwinRingDbIndex => fldAt 0x3800000 0 32 [(64, 0x10000)] .rw 0
  | .pwinRingDbRing => fldAt 0x3800000 32 12 [(64, 0x10000)] .rw 0
  | .pwinCqDbIndex => fldAt 0x3800008 0 32 [(64, 0x10000)] .rw 0
  | .pwinCqDbCq => fldAt 0x3800008 32 14 [(64, 0x10000)] .rw 0
  | .pwinCqDbArm => fldAt 0x3800008 46 1 [(64, 0x10000)] .rw 0
  | .pwinEqDbIndex => fldAt 0x3800010 0 32 [(64, 0x10000)] .rw 0
  | .pwinEqDbEq => fldAt 0x3800010 32 8 [(64, 0x10000)] .rw 0
  | .pwinEqDbArm => fldAt 0x3800010 40 1 [(64, 0x10000)] .rw 0
  | .pwinStatusEpoch => fldAt 0x3800020 0 32 [(64, 0x10000)] .ro 1
  | .pwinStatusAttached => fldAt 0x3800020 32 1 [(64, 0x10000)] .ro 0
  | .pwinDbDiscards => fldAt 0x3800028 0 32 [(64, 0x10000)] .ro 0
  | .cqBase => fldAt 0x80000 12 52 [(16384, 0x20)] .rw 0
  | .cqLog2Size => fldAt 0x80008 0 5 [(16384, 0x20)] .rw 6
  | .cqPartition => fldAt 0x80008 5 6 [(16384, 0x20)] .rwv 0
  | .cqDomain => fldAt 0x80008 11 2 [(16384, 0x20)] .rw 0
  | .cqEq => fldAt 0x80008 16 8 [(16384, 0x20)] .rw 0
  | .cqState => fldAt 0x80010 0 2 [(16384, 0x20)] .ro 0
  | .cqEnable => fldAt 0x80010 2 1 [(16384, 0x20)] .rw 0
  | .cqArmed => fldAt 0x80010 3 1 [(16384, 0x20)] .ro 0
  | .cqLastCause => fldAt 0x80010 8 8 [(16384, 0x20)] .ro 0
  | .cqLost => fldAt 0x80010 32 32 [(16384, 0x20)] .ro 0
  | .cqProducer => fldAt 0x80018 0 32 [(16384, 0x20)] .ro 0
  | .cqConsumer => fldAt 0x80018 32 32 [(16384, 0x20)] .ro 0
  | .hlStatusMod0 => fldAt 0x60000 0 2 [] .ro 0
  | .hlStatusMod1 => fldAt 0x60000 2 2 [] .ro 0
  | .hlStatusCfgModule => fldAt 0x60000 4 1 [] .ro 0
  | .hlStatusAttached => fldAt 0x60000 5 1 [] .ro 0
  | .hlEpoch => fldAt 0x60008 0 32 [] .ro 1
  | .hlRejoinEpoch => fldAt 0x60010 0 32 [] .rw 0
  | .hlRejoinRequest => fldAt 0x60010 32 1 [] .w1s 0
  | .hlRejoinResult => fldAt 0x60010 33 2 [] .ro 0
  | .hlCfgDownMs => fldAt 0x60018 0 16 [] .rw 0xa
  | .hlCfgHbMs => fldAt 0x60018 16 16 [] .rw 0
  | .hlHeartbeat => fldAt 0x60020 0 32 [] .rw 0
  | .hlCtrlDetach => fldAt 0x60028 0 1 [] .w1s 0
  | .hlEventEq => fldAt 0x60030 0 8 [] .rw 0
  | .hlFlushHpa => fldAt 0x60038 0 64 [] .rw 0
  | .hlHostRidId => fldAt 0x60040 0 16 [] .rw 0
  | .hlHostRidMask => fldAt 0x60040 16 16 [] .rw 0
  | .hlParks => fldAt 0x60048 0 32 [] .ro 0
  | .hlHpaDiscards => fldAt 0x60050 0 32 [] .ro 0
  | .hlApertureErrs => fldAt 0x60058 0 32 [] .ro 0
  | .hlPeerRefused => fldAt 0x60060 0 32 [] .ro 0
  | .hlPeerWinBase => fldAt 0x60100 12 52 [(8, 0x10)] .rw 0
  | .hlPeerWinLog2Size => fldAt 0x60108 0 6 [(8, 0x10)] .rw 0
  | .hlPeerRidId => fldAt 0x61000 0 16 [(64, 0x20), (8, 0x4)] .rwv 0
  | .hlPeerRidValid => fldAt 0x61000 16 1 [(64, 0x20), (8, 0x4)] .rwv 0
  | .meshRouteCtrlEpoch => fldAt 0x2400000 0 1 [] .ro 0
  | .meshRouteCtrlDraining => fldAt 0x2400000 1 1 [] .ro 0
  | .meshRouteCtrlPending => fldAt 0x2400000 2 9 [] .ro 0
  | .meshRouteWrCmdCrossing => fldAt 0x2400008 0 4 [] .rw 0
  | .meshRouteWrCmdIndex => fldAt 0x2400008 4 10 [] .rw 0
  | .meshRouteWrCmdCommit => fldAt 0x2400008 14 1 [] .rw 0
  | .meshRouteWrData => fldAt 0x2400010 0 64 [] .rw 0
  | .meshDrainCount => fldAt 0x2400018 0 32 [] .ro 0
  | .meshThrottleHi => fldAt 0x2400020 0 6 [] .rw 0x18
  | .meshThrottleLo => fldAt 0x2400020 8 6 [] .rw 8
  | .meshThrottleGap => fldAt 0x2400020 16 8 [] .rw 4
  | .meshCongMarkCycles => fldAt 0x2400028 0 8 [] .rw 8
  | .meshCongMaxOut => fldAt 0x2400028 8 8 [] .rw 0x40
  | .meshCongMinOut => fldAt 0x2400028 16 8 [] .rw 4
  | .meshEventEq => fldAt 0x2400030 0 8 [] .rw 0
  | .meshNodeId => fldAt 0x2400038 0 16 [] .ro 0
  | .meshTxnTimeout => fldAt 0x2400040 0 32 [] .rw 0x64
  | .meshRouteCfgDrainLimit => fldAt 0x2400048 0 32 [] .rw 0x3e8
  | .meshRouteChanges => fldAt 0x2400050 0 32 [] .ro 0
  | .meshNoRouteDrops => fldAt 0x2400058 0 32 [] .ro 0
  | .meshCrossPartRefused => fldAt 0x2400060 0 32 [] .ro 0
  | .meshHeaderDrops => fldAt 0x2400068 0 32 [] .ro 0
  | .meshLinkReplays => fldAt 0x2400070 0 32 [] .ro 0
  | .meshNodeMapEn => fldAt 0x2400100 0 1 [(64, 0x8)] .rwv 0
  | .meshNodeMapBase => fldAt 0x2400100 16 32 [(64, 0x8)] .rwv 0
  | .meshNodeMapInvalPartition => fldAt 0x2400300 0 6 [] .rw 0
  | .meshNodeMapInvalNode => fldAt 0x2400300 16 16 [] .rw 0
  | .meshLinkStatusUp => fldAt 0x2400400 0 34 [(10, 0x8)] .ro 0
  | .meshRouteTable => fldAt 0x2410000 0 64 [(10, 0x4000), (2, 0x2000), (1024, 0x8)] .ro 0
  | .pwinQpDbIndex => fldAt 0x3800030 0 32 [(64, 0x10000)] .rw 0
  | .pwinQpDbQpn => fldAt 0x3800030 32 24 [(64, 0x10000)] .rw 0
  | .pwinQpDbQueue => fldAt 0x3800030 56 1 [(64, 0x10000)] .rw 0
  | .transportCtrlEnable => fldAt 0x1000000 0 1 [] .rw 0
  | .transportCfgUdpPort => fldAt 0x1000008 0 16 [] .rw 0xc1a4
  | .transportCfgHopLimit => fldAt 0x1000008 16 8 [] .rw 0x40
  | .transportQpCmdQpn => fldAt 0x1000010 0 24 [] .rw 0
  | .transportQpCmdOp => fldAt 0x1000010 24 4 [] .rw 0
  | .transportQpCmdGo => fldAt 0x1000010 28 1 [] .w1s 0
  | .transportQpCmdBusy => fldAt 0x1000010 29 1 [] .ro 0
  | .transportQpCmdResult => fldAt 0x1000010 32 8 [] .ro 0
  | .transportQpCmdAddr => fldAt 0x1000018 9 39 [] .rw 0
  | .transportRtoCfgMin => fldAt 0x1000020 0 16 [] .rw 0x14
  | .transportRtoCfgMax => fldAt 0x1000020 16 16 [] .rw 0xfa0
  | .transportRtoCfgInit => fldAt 0x1000020 32 16 [] .rw 0x64
  | .transportRetxCfgRnrDelay => fldAt 0x1000028 0 8 [] .rw 0xa
  | .transportRetxCfgAckEvery => fldAt 0x1000028 8 8 [] .rw 4
  | .transportRetxCfgAckDelay => fldAt 0x1000028 16 8 [] .rw 0xa
  | .transportRetxCfgLossGap => fldAt 0x1000028 24 4 [] .rw 3
  | .transportEventEq => fldAt 0x1000030 0 8 [] .rw 0
  | .transportRetxBase => fldAt 0x1000038 16 32 [] .rw 0
  | .transportMissParkLevel => fldAt 0x1000040 0 23 [] .ro 0
  | .transportResident => fldAt 0x1000048 0 16 [] .ro 0
  | .transportSticky => fldAt 0x1000048 16 16 [] .ro 0
  | .transportParkDrops => fldAt 0x1000050 0 32 [] .ro 0
  | .transportRxNoContext => fldAt 0x1000058 0 32 [] .ro 0
  | .transportRxMalformed => fldAt 0x1000060 0 32 [] .ro 0
  | .transportRxStateDrops => fldAt 0x1000068 0 32 [] .ro 0
  | .transportRxAuthFail => fldAt 0x1000070 0 32 [] .ro 0
  | .transportRxReplayDrops => fldAt 0x1000078 0 32 [] .ro 0
  | .transportRxDuplicates => fldAt 0x1000080 0 32 [] .ro 0
  | .transportRxBeyondWindow => fldAt 0x1000088 0 32 [] .ro 0
  | .transportOpenMsgDrops => fldAt 0x1000090 0 32 [] .ro 0
  | .transportRetransmits => fldAt 0x1000098 0 32 [] .ro 0
  | .transportRtoExpiries => fldAt 0x10000a0 0 32 [] .ro 0
  | .transportCtxFetches => fldAt 0x10000a8 0 32 [] .ro 0
  | .transportCtxEvictions => fldAt 0x10000b0 0 32 [] .ro 0
  | .transportCtxFetchFails => fldAt 0x10000b8 0 32 [] .ro 0
  | .transportRetxRecordWaits => fldAt 0x10000c0 0 32 [] .ro 0
  | .transportQpcDirValid => fldAt 0x1000100 0 1 [(256, 0x8)] .rw 0
  | .transportQpcDirHost => fldAt 0x1000100 1 1 [(256, 0x8)] .rw 0
  | .transportQpcDirBase => fldAt 0x1000100 16 48 [(256, 0x8)] .rw 0
  | .transportLocalIpAddr => fldAt 0x1000900 0 64 [(16, 0x20), (2, 0x8)] .rw 0
  | .transportLocalIpValid => fldAt 0x1000910 0 1 [(16, 0x20)] .rw 0
  | .transportPathsetBase => fldAt 0x1020000 16 32 [] .rw 0
  | .transportPathsetInvalSet => fldAt 0x1020008 0 16 [] .rw 0
  | .transportPleachCfgSprayLook => fldAt 0x1020010 0 4 [] .rw 4
  | .transportPleachCfgMarkPenalty => fldAt 0x1020010 8 8 [] .rw 0x40
  | .transportPleachCfgProbeUs => fldAt 0x1020010 16 16 [] .rw 0x64
  | .transportWndCfgInitKib => fldAt 0x1020018 0 14 [] .rw 0x400
  | .transportWndCfgMaxKib => fldAt 0x1020018 16 14 [] .rw 0x2000
  | .transportWndCfgAiBytes => fldAt 0x1020020 0 24 [] .rw 0x4000
  | .transportWndCfgHaiRounds => fldAt 0x1020020 24 3 [] .rw 5
  | .transportWndCfgDelayTarget => fldAt 0x1020020 32 16 [] .rw 0xfa0
  | .transportWndCfgDelayBeta => fldAt 0x1020020 48 4 [] .rw 8
  | .transportWndCfgBaseWindow => fldAt 0x1020028 0 16 [] .rw 0xa
  | .transportPathsDowned => fldAt 0x1020040 0 32 [] .ro 0
  | .transportPathsRestored => fldAt 0x1020048 0 32 [] .ro 0
  | .transportProbesSent => fldAt 0x1020050 0 32 [] .ro 0
  | .transportLiveSets => fldAt 0x1020058 0 13 [] .ro 0
  | .transportWndCuts => fldAt 0x1020060 0 32 [] .ro 0
  | .transportLiveSelSlot => fldAt 0x1020080 0 12 [] .rw 0
  | .transportLiveSelPath => fldAt 0x1020080 12 6 [] .rw 0
  | .transportLiveDataUp => fldAt 0x1020088 0 1 [] .ro 0
  | .transportLiveDataMark => fldAt 0x1020088 1 1 [] .ro 0
  | .transportLiveDataDelay => fldAt 0x1020088 2 8 [] .ro 0
  | .transportLiveDataLastHeard => fldAt 0x1020088 32 32 [] .ro 0
  | .transportLiveSetSet => fldAt 0x1020090 0 16 [] .ro 0
  | .transportLiveSetInUse => fldAt 0x1020090 16 1 [] .ro 0
  | .transportLiveSetOwner => fldAt 0x1020090 24 24 [] .ro 0
  | .topiaryCfgOverhead => fldAt 0x1c00000 0 6 [] .rw 0x14
  | .topiaryCfgCtrlClass => fldAt 0x1c00000 8 3 [] .rw 1
  | .topiaryDscp => fldAt 0x1c00040 0 6 [(8, 0x8)] .rw 0
  | .topiaryQuantum => fldAt 0x1c10010 0 24 [(32, 0x1000), (6, 0x8)] .rw 0x4000
  | .topiarySentBytes => fldAt 0x1c10100 0 48 [(32, 0x1000), (8, 0x8)] .ro 0
  | .topiarySentFrames => fldAt 0x1c10180 0 48 [(32, 0x1000), (8, 0x8)] .ro 0
  | .topiaryMeterMap => fldAt 0x1c10200 0 8 [(32, 0x1000), (64, 0x8), (8, 0x1)] .rw 0xff
  | .topiaryMeterCir => fldAt 0x1d00000 0 24 [(8, 0x10000), (255, 0x20)] .rw 0x186a00
  | .topiaryMeterPir => fldAt 0x1d00000 32 24 [(8, 0x10000), (255, 0x20)] .rw 0x186a00
  | .topiaryMeterCbs => fldAt 0x1d00008 0 24 [(8, 0x10000), (255, 0x20)] .rw 0x10000
  | .topiaryMeterPbs => fldAt 0x1d00008 32 24 [(8, 0x10000), (255, 0x20)] .rw 0x10000
  | .topiaryMeterGreen => fldAt 0x1d00010 0 32 [(8, 0x10000), (255, 0x20)] .ro 0
  | .topiaryMeterYellow => fldAt 0x1d00010 32 32 [(8, 0x10000), (255, 0x20)] .ro 0
  | .topiaryMeterRedHolds => fldAt 0x1d00018 0 32 [(8, 0x10000), (255, 0x20)] .ro 0
  | .timeNowNs => fldAt 0x50000 0 64 [] .ro 0
  | .timeNowFrac => fldAt 0x50008 0 32 [] .ro 0
  | .timeSetNs => fldAt 0x50010 0 64 [] .rw 0
  | .timeStepNs => fldAt 0x50018 0 64 [] .rw 0
  | .timeAdjPpb => fldAt 0x50020 0 32 [] .rw 0
  | .timeSteps => fldAt 0x50028 0 32 [] .ro 0
  | .pwinRawDbIndex => fldAt 0x3800038 0 32 [(64, 0x10000)] .rw 0
  | .pwinRawDbSubport => fldAt 0x3800038 32 5 [(64, 0x10000)] .rw 0
  | .pwinRawDbRing => fldAt 0x3800038 37 1 [(64, 0x10000)] .rw 0
  | .portCtrlEnable => fldAt 0x1800000 0 1 [(8, 0x10000)] .rw 0
  | .portCfgMode => fldAt 0x1800008 0 2 [(8, 0x10000)] .rw 0
  | .portCfgFecThresh => fldAt 0x1800008 16 16 [(8, 0x10000)] .rw 1
  | .portEventEq => fldAt 0x1800010 0 8 [(8, 0x10000)] .rw 0
  | .portTsCfgTxDelay => fldAt 0x1800018 0 16 [(8, 0x10000)] .rw 0
  | .portTsCfgRxDelay => fldAt 0x1800018 16 16 [(8, 0x10000)] .rw 0
  | .portsubMac => fldAt 0x1800100 0 48 [(8, 0x10000), (4, 0x40)] .rw 0
  | .portsubVlanVid => fldAt 0x1800108 0 12 [(8, 0x10000), (4, 0x40)] .rw 0
  | .portsubVlanTagEn => fldAt 0x1800108 12 1 [(8, 0x10000), (4, 0x40)] .rw 1
  | .portsubVlanPcpMap => fldAt 0x1800108 16 24 [(8, 0x10000), (4, 0x40)] .rw 0x53977
  | .portsubRawRxBase => fldAt 0x1800110 12 52 [(8, 0x10000), (4, 0x40)] .rw 0
  | .portsubRawTxBase => fldAt 0x1800118 12 52 [(8, 0x10000), (4, 0x40)] .rw 0
  | .portsubRawCfgRxLog2 => fldAt 0x1800120 0 5 [(8, 0x10000), (4, 0x40)] .rw 6
  | .portsubRawCfgTxLog2 => fldAt 0x1800120 5 5 [(8, 0x10000), (4, 0x40)] .rw 6
  | .portsubRawCfgRxEn => fldAt 0x1800120 10 1 [(8, 0x10000), (4, 0x40)] .rw 0
  | .portsubRawCfgTxEn => fldAt 0x1800120 11 1 [(8, 0x10000), (4, 0x40)] .rw 0
  | .portsubRawCfgCq => fldAt 0x1800120 16 14 [(8, 0x10000), (4, 0x40)] .rw 0
  | .portsubRawStateRxHead => fldAt 0x1800128 0 32 [(8, 0x10000), (4, 0x40)] .ro 0
  | .portsubRawStateTxHead => fldAt 0x1800128 32 32 [(8, 0x10000), (4, 0x40)] .ro 0
  | .portsubLinkState => fldAt 0x1800130 0 2 [(8, 0x10000), (4, 0x40)] .ro 0
  | .portsubLinkLos => fldAt 0x1800130 2 1 [(8, 0x10000), (4, 0x40)] .ro 0
  | .portsubCntHalf => fldAt 0x1800138 0 16 [(8, 0x10000), (4, 0x40)] .w1c 0
  | .portsubCntHalfEn => fldAt 0x1800138 16 16 [(8, 0x10000), (4, 0x40)] .rw 0
  | .portsubGateAdminBase => fldAt 0x1802000 0 64 [(8, 0x10000), (4, 0x100)] .rw 0
  | .portsubGateAdminCycleNs => fldAt 0x1802008 0 32 [(8, 0x10000), (4, 0x100)] .rw 0xf4240
  | .portsubGateAdminEntries => fldAt 0x1802008 32 9 [(8, 0x10000), (4, 0x100)] .rw 1
  | .portsubGateAdminEnable => fldAt 0x1802008 41 1 [(8, 0x10000), (4, 0x100)] .rw 0
  | .portsubGateCtrlChange => fldAt 0x1802010 0 1 [(8, 0x10000), (4, 0x100)] .w1s 0
  | .portsubGateCtrlCancel => fldAt 0x1802010 1 1 [(8, 0x10000), (4, 0x100)] .w1s 0
  | .portsubGateCtrlPending => fldAt 0x1802010 2 1 [(8, 0x10000), (4, 0x100)] .ro 0
  | .portsubGateCtrlOperBank => fldAt 0x1802010 3 1 [(8, 0x10000), (4, 0x100)] .ro 0
  | .portsubGateCtrlRunning => fldAt 0x1802010 4 1 [(8, 0x10000), (4, 0x100)] .ro 0
  | .portsubGateStart => fldAt 0x1802018 0 64 [(8, 0x10000), (4, 0x100)] .ro 0
  | .portsubGateLateStarts => fldAt 0x1802020 0 32 [(8, 0x10000), (4, 0x100)] .ro 0
  | .portsubGateWriteDiscards => fldAt 0x1802028 0 32 [(8, 0x10000), (4, 0x100)] .ro 0
  | .portsubGateEntry => fldAt 0x1804000 0 64 [(8, 0x10000), (4, 0x1000), (2, 0x800), (256, 0x8)] .rw 0
  | .pwinCollDbIndex => fldAt 0x3800040 0 32 [(64, 0x10000)] .rw 0
  | .transportCollCtrlEnable => fldAt 0x1040000 0 1 [] .rw 0
  | .transportCollCfgBufMaxKib => fldAt 0x1040008 0 16 [] .rw 0x2000
  | .transportCollCmdGroup => fldAt 0x1040010 0 8 [] .rw 0
  | .transportCollCmdOp => fldAt 0x1040010 8 4 [] .rw 0
  | .transportCollCmdGo => fldAt 0x1040010 12 1 [] .w1s 0
  | .transportCollCmdBusy => fldAt 0x1040010 13 1 [] .ro 0
  | .transportCollCmdResult => fldAt 0x1040010 32 8 [] .ro 0
  | .transportCollCmdAddr => fldAt 0x1040018 6 42 [] .rw 0
  | .transportCollEventEq => fldAt 0x1040020 0 8 [] .rw 0
  | .transportCollBufLevel => fldAt 0x1040028 0 26 [] .ro 0
  | .transportCollStarted => fldAt 0x1040030 0 32 [] .ro 0
  | .transportCollFailed => fldAt 0x1040038 0 32 [] .ro 0
  | .transportCollRnrSent => fldAt 0x1040040 0 32 [] .ro 0
  | .transportCollResent => fldAt 0x1040048 0 32 [] .ro 0
  | .transportCollQBase => fldAt 0x1041000 12 52 [(64, 0x20)] .rw 0
  | .transportCollQLog2 => fldAt 0x1041008 0 5 [(64, 0x20)] .rw 6
  | .transportCollQEnable => fldAt 0x1041008 5 1 [(64, 0x20)] .rw 0
  | .transportCollQCq => fldAt 0x1041008 8 14 [(64, 0x20)] .rw 0
  | .transportCollQEq => fldAt 0x1041008 24 8 [(64, 0x20)] .rw 0
  | .transportCollQHead => fldAt 0x1041010 0 32 [(64, 0x20)] .ro 0
  | .transportCollQExpectedPhase => fldAt 0x1041010 32 1 [(64, 0x20)] .ro 1
  | .transportCollQState => fldAt 0x1041018 0 2 [(64, 0x20)] .ro 0
  | .transportCollQLastCause => fldAt 0x1041018 8 8 [(64, 0x20)] .ro 0
  | .transportCollGroupState => fldAt 0x1042000 0 2 [(256, 0x10)] .ro 0
  | .transportCollGroupPartition => fldAt 0x1042000 2 6 [(256, 0x10)] .ro 0
  | .transportCollGroupLastCause => fldAt 0x1042000 8 8 [(256, 0x10)] .ro 0
  | .transportCollGroupRound => fldAt 0x1042008 0 32 [(256, 0x10)] .ro 0
  | .pwinAttestAddr => fldAt 0x3800048 6 58 [(64, 0x10000)] .rw 0
  | .pwinAttestCtrlGo => fldAt 0x3800050 0 1 [(64, 0x10000)] .w1s 0
  | .pwinAttestCtrlBusy => fldAt 0x3800050 1 1 [(64, 0x10000)] .ro 0
  | .pwinAttestCtrlErr => fldAt 0x3800050 2 1 [(64, 0x10000)] .ro 0
  | .yewStatusAlarm => fldAt 0x2000000 0 1 [] .ro 0
  | .yewStatusAlarmSrc => fldAt 0x2000000 1 4 [] .ro 0
  | .yewCfgClearSaveEn => fldAt 0x2000008 0 1 [] .rwv 0
  | .yewCfgRxGraceUs => fldAt 0x2000008 16 16 [] .rw 0x64
  | .yewEngineOkLow => fldAt 0x2000010 0 64 [] .ro 0xffffffffffffffff
  | .yewEngineOkHigh => fldAt 0x2000018 0 64 [] .ro 0xffffffffffffffff
  | .yewEventEq => fldAt 0x2000020 0 8 [] .rw 0
  | .yewSlotCmdSlot => fldAt 0x2000040 0 16 [] .rw 0
  | .yewSlotCmdOp => fldAt 0x2000040 16 4 [] .rw 0
  | .yewSlotCmdGo => fldAt 0x2000040 20 1 [] .w1s 0
  | .yewSlotCmdBusy => fldAt 0x2000040 21 1 [] .ro 0
  | .yewSlotCmdResult => fldAt 0x2000040 24 8 [] .ro 0
  | .yewSlotCmdKek => fldAt 0x2000040 32 16 [] .rw 0
  | .yewSlotCmdAddr => fldAt 0x2000048 6 42 [] .rw 0
  | .yewPdBase => fldAt 0x2000050 16 32 [] .rw 0
  | .yewRegionBase => fldAt 0x2000058 16 32 [] .rw 0
  | .yewRegionCfgLog2 => fldAt 0x2000060 0 5 [] .rw 0xb
  | .yewTableInvalIndex => fldAt 0x2000068 0 20 [] .rw 0
  | .yewTableInvalTable => fldAt 0x2000068 20 1 [] .rw 0
  | .yewTableInvalAll => fldAt 0x2000068 21 1 [] .rw 0
  | .yewEngineMismatches => fldAt 0x2000080 0 32 [] .ro 0
  | .yewUnwrapFails => fldAt 0x2000088 0 32 [] .ro 0
  | .yewNoKeyDrops => fldAt 0x2000090 0 32 [] .ro 0
  | .yewAccessRefused => fldAt 0x2000098 0 32 [] .ro 0
  | .yewSealRefused => fldAt 0x20000a0 0 32 [] .ro 0
  | .yewSealStatusSealed => fldAt 0x2000100 0 1 [(64, 0x8)] .ro 0
  | .yewSealStatusLost => fldAt 0x2000100 1 1 [(64, 0x8)] .ro 0
  | .yewEngineOwnerPartition => fldAt 0x2000400 0 6 [(128, 0x10)] .rwv 0
  | .yewEngineOwnerReserved => fldAt 0x2000400 6 1 [(128, 0x10)] .rwv 0
  | .yewIdentPubkey => fldAt 0x2001000 0 64 [(12, 0x8)] .ro 0
  | .yewIdentCert => fldAt 0x2002000 0 64 [(512, 0x8)] .ro 0
  | .yewSlotState => fldAt 0x2100000 0 2 [(65536, 0x20)] .ro 0
  | .yewSlotKind => fldAt 0x2100000 2 2 [(65536, 0x20)] .rwv 0
  | .yewSlotOwner => fldAt 0x2100000 4 6 [(65536, 0x20)] .rwv 0
  | .yewSlotShadow => fldAt 0x2100000 10 1 [(65536, 0x20)] .ro 0
  | .yewSlotPrev => fldAt 0x2100000 11 1 [(65536, 0x20)] .ro 0
  | .yewSlotInflight => fldAt 0x2100000 16 16 [(65536, 0x20)] .ro 0
  | .yewSlotUserQpn => fldAt 0x2100000 32 24 [(65536, 0x20)] .ro 0
  | .yewSlotSealCount => fldAt 0x2100008 0 49 [(65536, 0x20)] .ro 0
  | .yewSlotNcFloor => fldAt 0x2100010 0 64 [(65536, 0x20)] .ro 0
  | .tileCmdTile => fldAt 0x2f000 0 11 [] .rw 0
  | .tileCmdPartition => fldAt 0x2f000 11 6 [] .rw 0
  | .tileCmdOp => fldAt 0x2f000 17 2 [] .rw 0
  | .tileCmdGo => fldAt 0x2f000 19 1 [] .w1s 0
  | .tileCmdBusy => fldAt 0x2f000 20 1 [] .ro 0
  | .tileCmdResult => fldAt 0x2f000 24 8 [] .ro 0
  | .tileOwnerPartition => fldAt 0x30000 0 6 [(1152, 0x8)] .ro 0 true
  | .tileOwnerAssigned => fldAt 0x30000 6 1 [(1152, 0x8)] .ro 0 true
  | .tileOwnerReleasing => fldAt 0x30000 7 1 [(1152, 0x8)] .ro 0 true
  | .partCtrlFreeze => fldAt 0x40000 0 1 [(64, 0x100)] .w1s 0
  | .partCtrlThaw => fldAt 0x40000 1 1 [(64, 0x100)] .w1s 0
  | .partCtrlSave => fldAt 0x40000 2 1 [(64, 0x100)] .w1s 0
  | .partCtrlRestore => fldAt 0x40000 3 1 [(64, 0x100)] .w1s 0
  | .partCtrlSeal => fldAt 0x40000 4 1 [(64, 0x100)] .w1s 0
  | .partCtrlUnseal => fldAt 0x40000 5 1 [(64, 0x100)] .w1s 0
  | .partStatusState => fldAt 0x40008 0 2 [(64, 0x100)] .ro 0
  | .partStatusBusy => fldAt 0x40008 2 1 [(64, 0x100)] .ro 0
  | .partStatusSealed => fldAt 0x40008 3 1 [(64, 0x100)] .ro 0
  | .partStatusResult => fldAt 0x40008 8 8 [(64, 0x100)] .ro 0
  | .partQuotaRingMax => fldAt 0x40010 0 7 [(64, 0x100)] .rw 0x40
  | .partQuotaCqMax => fldAt 0x40010 8 11 [(64, 0x100)] .rw 0x400
  | .partQuotaEqMax => fldAt 0x40010 20 9 [(64, 0x100)] .rw 0x100
  | .partQuotaSlotMax => fldAt 0x40010 32 17 [(64, 0x100)] .rw 0x10000
  | .partQuotaQpMax => fldAt 0x40018 0 25 [(64, 0x100)] .rw 0xffffff
  | .partCountRings => fldAt 0x40020 0 7 [(64, 0x100)] .ro 0
  | .partCountCqs => fldAt 0x40020 8 11 [(64, 0x100)] .ro 0
  | .partCountEqs => fldAt 0x40020 20 9 [(64, 0x100)] .ro 0
  | .partCountSlots => fldAt 0x40020 32 17 [(64, 0x100)] .ro 0
  | .partCountQps => fldAt 0x40028 0 25 [(64, 0x100)] .ro 0
  | .partCountTiles => fldAt 0x40028 32 11 [(64, 0x100)] .ro 0
  | .partSealCfgHedge => fldAt 0x40030 0 4 [(64, 0x100)] .rwv 0
  | .partSealCfgShare => fldAt 0x40030 4 6 [(64, 0x100)] .rw 0
  | .partSealCfgResShare => fldAt 0x40030 10 6 [(64, 0x100)] .rw 0
  | .partSubports => fldAt 0x40038 0 32 [(64, 0x100)] .rwv 0
  | .partCfgFreezeMs => fldAt 0x40040 0 16 [(64, 0x100)] .rw 0x64
  | .partCmdAddr => fldAt 0x40048 16 32 [(64, 0x100)] .rw 0
  | .partRefusals => fldAt 0x40050 0 32 [(64, 0x100)] .ro 0
  | .bootStatusStage => fldAt 0x100000 0 4 [] .ro 0
  | .bootStatusHoldback => fldAt 0x100000 4 1 [] .ro 0
  | .bootStatusCause => fldAt 0x100000 8 8 [] .ro 0
  | .bootStatusResetKind => fldAt 0x100000 16 2 [] .ro 0
  | .bootStatusOwnerSlot => fldAt 0x100000 18 3 [] .ro 0
  | .bootStatusFailedDie => fldAt 0x100000 21 4 [] .ro 0
  | .bootSvnImage => fldAt 0x100008 0 6 [] .ro 0
  | .bootSvnFused => fldAt 0x100008 8 6 [] .ro 0
  | .bootStartUs => fldAt 0x100010 0 32 [] .ro 0
  | .bootCtrlCold => fldAt 0x100018 0 1 [] .w1s 0
  | .bootCtrlWarm => fldAt 0x100018 1 1 [] .w1s 0
  | .bootCtrlConfirm => fldAt 0x100018 16 16 [] .rw 0
  | .bootImageDigest => fldAt 0x100040 0 64 [(6, 0x8)] .ro 0
  | .bootImageId => fldAt 0x100080 0 64 [(2, 0x8)] .ro 0
  | .bootFlashCmdOp => fldAt 0x100100 0 3 [] .rw 0
  | .bootFlashCmdGo => fldAt 0x100100 3 1 [] .w1s 0
  | .bootFlashCmdBusy => fldAt 0x100100 4 1 [] .ro 0
  | .bootFlashCmdResult => fldAt 0x100100 8 8 [] .ro 0
  | .bootFlashAddr => fldAt 0x100108 0 26 [] .rw 0
  | .bootFlashOps => fldAt 0x100110 0 32 [] .ro 0
  | .bootFlashBuf => fldAt 0x100200 0 64 [(32, 0x8)] .rw 0
  | .bootOwnerDigest => fldAt 0x100400 0 64 [(4, 0x40), (6, 0x8)] .ro 0
  | .bootOwnerValid => fldAt 0x100430 0 1 [(4, 0x40)] .ro 0
  | .bootOwnerUsed => fldAt 0x100430 1 1 [(4, 0x40)] .ro 0
  | .powerLimitSustainedW => fldAt 0x200000 0 12 [] .rw 0x834
  | .powerLimitTauMs => fldAt 0x200000 16 10 [] .rw 0x64
  | .powerInputAvg1msW => fldAt 0x200008 0 16 [] .ro 0
  | .powerInputAvgTauW => fldAt 0x200008 16 16 [] .ro 0
  | .powerInputVolts => fldAt 0x200008 32 13 [] .ro 0
  | .powerRateShared => fldAt 0x200010 0 7 [] .ro 0x40
  | .powerRateThermal => fldAt 0x200010 8 7 [] .ro 0x40
  | .powerRateHedge => fldAt 0x200010 16 3 [] .ro 0
  | .powerRateCapping => fldAt 0x200010 19 1 [] .ro 0
  | .powerRateFloorBroken => fldAt 0x200010 20 1 [] .ro 0
  | .powerEntryCs2Us => fldAt 0x200018 0 16 [] .rw 0x14
  | .powerEntryCs3Us => fldAt 0x200018 16 16 [] .rw 0xc8
  | .powerEntryCs4Ms => fldAt 0x200018 32 16 [] .rw 0x14
  | .powerThermalThrottleC => fldAt 0x200020 0 8 [] .rw 0x5f
  | .powerThermalMemLimitC => fldAt 0x200020 8 8 [] .rw 0x5f
  | .powerThermalTripC => fldAt 0x200020 16 8 [] .rwv 0x6e
  | .powerEventEq => fldAt 0x200028 0 8 [] .rw 0
  | .powerTripRecordTripped => fldAt 0x200030 0 1 [] .w1c 0
  | .powerTripRecordPair => fldAt 0x200030 1 3 [] .ro 0
  | .powerCapUs => fldAt 0x200038 0 32 [] .ro 0
  | .powerGuardTrips => fldAt 0x200040 0 32 [] .ro 0
  | .powerWakeDrops => fldAt 0x200048 0 32 [] .ro 0
  | .powerRefusals => fldAt 0x200050 0 32 [] .ro 0
  | .powerEnergyMj => fldAt 0x200058 0 48 [] .ro 0
  | .powerPartLtr => fldAt 0x200100 0 32 [(64, 0x8)] .rw 0x9c40
  | .powerSealFloor => fldAt 0x200300 0 7 [(64, 0x8)] .rw 0
  | .powerRingLtr => fldAt 0x210000 0 32 [(4096, 0x8)] .rw 0xffffffff
  | .powerSensorTemp => fldAt 0x220000 0 12 [(168, 0x8)] .ro 0
  | .powerSensorValid => fldAt 0x220000 12 1 [(168, 0x8)] .ro 0
  | .powerTileState => fldAt 0x230000 0 3 [(1152, 0x8)] .ro 0
  | .powerHedgeState => fldAt 0x234000 0 3 [(4, 0x8)] .ro 0
  | .powerLaurelState => fldAt 0x234020 0 3 [] .ro 0
  | .powerMeshState => fldAt 0x234028 0 3 [] .ro 0
  | .safetyStatusHalted => fldAt 0x300000 0 1 [] .ro 0
  | .safetyStatusHaltCause => fldAt 0x300000 8 8 [] .ro 0
  | .safetyStatusHaltDie => fldAt 0x300000 16 8 [] .ro 0
  | .safetyCfgWatchdogUs => fldAt 0x300008 0 16 [] .rw 0x3e8
  | .safetyCfgSpareLow => fldAt 0x300008 16 5 [] .rw 2
  | .safetyEventEq => fldAt 0x300010 0 8 [] .rw 0
  | .safetyTileRetireTile => fldAt 0x300018 0 11 [] .rw 0
  | .safetyTileRetireGo => fldAt 0x300018 11 1 [] .w1s 0
  | .safetyTileRetireBusy => fldAt 0x300018 12 1 [] .ro 0
  | .safetyTileRetireResult => fldAt 0x300018 16 8 [] .ro 0
  | .safetyFaultSeq => fldAt 0x300020 0 32 [] .ro 0
  | .safetyVoteRepairs => fldAt 0x300028 0 32 [] .ro 0
  | .safetyVoteLosses => fldAt 0x300030 0 32 [] .ro 0
  | .safetyScrubPasses => fldAt 0x300038 0 32 [] .ro 0
  | .safetyTilesReplayed => fldAt 0x300040 0 32 [] .ro 0
  | .safetyTilesRetired => fldAt 0x300048 0 32 [] .ro 0
  | .safetyTileFailed => fldAt 0x300100 0 64 [(18, 0x8)] .ro 0
  | .safetyLastRecord => fldAt 0x300200 0 64 [(4, 0x8)] .ro 0
  | .compatIdClass => fldAt 0x3000000 0 16 [] .ro 0x400
  | .compatIdPart => fldAt 0x3000000 16 16 [] .ro 0x1280
  | .compatStatusBusy => fldAt 0x3000000 32 1 [] .ro 0
  | .compatStatusOverflow => fldAt 0x3000000 33 1 [] .w1c 0
  | .compatStatusHalfDropped => fldAt 0x3000000 34 1 [] .w1c 0
  | .compatStatusQueued => fldAt 0x3000000 40 7 [] .ro 0
  | .compatDiscards => fldAt 0x3000008 0 32 [] .ro 0
  | .idPart => fldAt 0x0 0 16 [] .ro 0x1280
  | .idVariant => fldAt 0x0 16 2 [] .ro 0
  | .idStepping => fldAt 0x0 24 8 [] .ro 0xa0
  | .deviceIdLow => fldAt 0x8 0 64 [] .ro 0
  | .deviceIdHigh => fldAt 0x10 0 64 [] .ro 0
  | .sparesFused => fldAt 0x18 0 5 [] .ro 0
  | .sparesRuntimeLeft => fldAt 0x18 8 5 [] .ro 0
  | .sparesInService => fldAt 0x18 16 5 [] .ro 0
  | .spareMapUse => fldAt 0x100 0 2 [(16, 0x8)] .ro 0
  | .spareMapTile => fldAt 0x100 2 11 [(16, 0x8)] .ro 0
  | .discardedWrites => fldAt 0x200 0 32 [] .ro 0
  | .lastDiscardOffset => fldAt 0x208 0 26 [] .ro 0
  | .lastDiscardSource => fldAt 0x208 26 2 [] .ro 0
  | .lastDiscardPartition => fldAt 0x208 28 6 [] .ro 0
  | .stallTimeouts => fldAt 0x210 0 32 [] .ro 0
  | .accessStatusStallTimeout => fldAt 0x218 0 1 [] .w1c 0
  | .mgmtAlertMask => fldAt 0x300 0 8 [] .rwc 0xf
  | .commitGo => fldAt 0x308 0 1 [] .w1s 0
  | .mgmtAlertPending => fldAt 0x310 0 8 [] .w1c 0
  | .eqBase => fldAt 0x70000 12 52 [(256, 0x20)] .rw 0
  | .eqLog2Size => fldAt 0x70008 0 5 [(256, 0x20)] .rw 6
  | .eqPartition => fldAt 0x70008 5 6 [(256, 0x20)] .rwv 0
  | .eqVector => fldAt 0x70008 16 8 [(256, 0x20)] .rw 0
  | .eqModUs => fldAt 0x70008 24 16 [(256, 0x20)] .rw 0
  | .eqState => fldAt 0x70010 0 2 [(256, 0x20)] .ro 0
  | .eqEnable => fldAt 0x70010 2 1 [(256, 0x20)] .rw 0
  | .eqArmed => fldAt 0x70010 3 1 [(256, 0x20)] .ro 0
  | .eqLastCause => fldAt 0x70010 8 8 [(256, 0x20)] .ro 0
  | .eqLost => fldAt 0x70010 32 32 [(256, 0x20)] .ro 0
  | .eqProducer => fldAt 0x70018 0 32 [(256, 0x20)] .ro 0
  | .eqConsumer => fldAt 0x70018 32 32 [(256, 0x20)] .ro 0
  | .portCounter => fldAt 0x1801000 0 48 [(8, 0x10000), (4, 0x100), (16, 0x8)] .ro 0

/-- Fields 0 to 59 in table order. -/
def fldList0 : List Fld := [
   .dispatchCtrlEnable, .dispatchWaitTimeout, .dispatchOccCtrlGrowPct, .dispatchOccCtrlShrinkPct, .dispatchOccCtrlShrinkHold,
   .dispatchStepAhead, .dispatchJournalBase, .dispatchJournalBroken, .dispatchRowActive, .ringBaseAddr,
   .ringCfgLog2Size, .ringCfgPartition, .ringCfgHomeRow, .ringCfgEq, .ringCfgCq,
   .ringStateState, .ringStateEnable, .ringStateRestart, .ringStateLastCause, .ringHeadIndex,
   .ringHeadExpectedPhase, .ringDoorbellHint, .ringInflight, .dispatchAttnCtrlFarEnable, .dispatchAttnCtrlFarTimeout,
   .dispatchAttnFarSent, .dispatchAttnPulled, .dispatchAttnFallback, .dispatchAttnLate, .dispatchHomeAdmitted,
   .dispatchHomeRefused, .attnTuneBatchMax, .attnTuneFarWeight, .attnTuneDefaultCap, .attnTuneFarMinBatch,
   .attnTuneTPageHome, .attnTuneFarOutstanding, .attnTuneCapAge, .attnTuneRetryUs, .attnTuneRetryMax,
   .dispatchHomeCfgRowFirst, .dispatchHomeCfgRowLast, .dispatchHomeCfgQueueMax, .memoryHbmCfgInterleave, .memoryDdrCfgUsed,
   .memoryDdrCfgRefused, .memoryDdrCapTotalGib, .memoryDdrCapInterleavedGib, .memoryScrubCfgHbmHours, .memoryScrubCfgDdrHours,
   .memoryCeThreshMem, .memoryCeThreshTile, .memoryEventEq, .memoryUeTotal, .memoryHbmStatCe,
   .memoryHbmStatUe, .memoryHbmStatFuseRepairs, .memoryDdrStatCe, .memoryDdrStatUe, .memoryDdrStatSpeed]

/-- Fields 60 to 119 in table order. -/
def fldList1 : List Fld := [
   .memoryDdrStatModules, .memoryDdrStatState, .memorySpSelTile, .memorySpSelBank, .memorySpDataCollisions,
   .memorySpDataCe, .memorySpDataUe, .memorySpDataRepairedColumns, .memoryCmpMetaBase, .memoryCmpRegionBase,
   .memoryCmpRegionEnable, .memoryCmpRegionBusy, .memoryCmpRegionRefused, .memoryCmpRegionLimit, .xlateCmdqBase,
   .xlateCmdqCfgLog2Size, .xlateCmdqCfgEnable, .xlateCmdqCfgCq, .xlateCmdqHeadIndex, .xlateCmdqHeadExpectedPhase,
   .xlateCmdqDoorbell, .xlateFaultEq, .xlateFaults, .xlateSlotWaits, .xlateWalks,
   .xlateInvalStalls, .xlatePtBaseEn, .xlatePtBaseBase, .xlateSlotHeld, .xlateSlotRec,
   .pwinRingDbIndex, .pwinRingDbRing, .pwinCqDbIndex, .pwinCqDbCq, .pwinCqDbArm,
   .pwinEqDbIndex, .pwinEqDbEq, .pwinEqDbArm, .pwinStatusEpoch, .pwinStatusAttached,
   .pwinDbDiscards, .cqBase, .cqLog2Size, .cqPartition, .cqDomain,
   .cqEq, .cqState, .cqEnable, .cqArmed, .cqLastCause,
   .cqLost, .cqProducer, .cqConsumer, .hlStatusMod0, .hlStatusMod1,
   .hlStatusCfgModule, .hlStatusAttached, .hlEpoch, .hlRejoinEpoch, .hlRejoinRequest]

/-- Fields 120 to 179 in table order. -/
def fldList2 : List Fld := [
   .hlRejoinResult, .hlCfgDownMs, .hlCfgHbMs, .hlHeartbeat, .hlCtrlDetach,
   .hlEventEq, .hlFlushHpa, .hlHostRidId, .hlHostRidMask, .hlParks,
   .hlHpaDiscards, .hlApertureErrs, .hlPeerRefused, .hlPeerWinBase, .hlPeerWinLog2Size,
   .hlPeerRidId, .hlPeerRidValid, .meshRouteCtrlEpoch, .meshRouteCtrlDraining, .meshRouteCtrlPending,
   .meshRouteWrCmdCrossing, .meshRouteWrCmdIndex, .meshRouteWrCmdCommit, .meshRouteWrData, .meshDrainCount,
   .meshThrottleHi, .meshThrottleLo, .meshThrottleGap, .meshCongMarkCycles, .meshCongMaxOut,
   .meshCongMinOut, .meshEventEq, .meshNodeId, .meshTxnTimeout, .meshRouteCfgDrainLimit,
   .meshRouteChanges, .meshNoRouteDrops, .meshCrossPartRefused, .meshHeaderDrops, .meshLinkReplays,
   .meshNodeMapEn, .meshNodeMapBase, .meshNodeMapInvalPartition, .meshNodeMapInvalNode, .meshLinkStatusUp,
   .meshRouteTable, .pwinQpDbIndex, .pwinQpDbQpn, .pwinQpDbQueue, .transportCtrlEnable,
   .transportCfgUdpPort, .transportCfgHopLimit, .transportQpCmdQpn, .transportQpCmdOp, .transportQpCmdGo,
   .transportQpCmdBusy, .transportQpCmdResult, .transportQpCmdAddr, .transportRtoCfgMin, .transportRtoCfgMax]

/-- Fields 180 to 239 in table order. -/
def fldList3 : List Fld := [
   .transportRtoCfgInit, .transportRetxCfgRnrDelay, .transportRetxCfgAckEvery, .transportRetxCfgAckDelay, .transportRetxCfgLossGap,
   .transportEventEq, .transportRetxBase, .transportMissParkLevel, .transportResident, .transportSticky,
   .transportParkDrops, .transportRxNoContext, .transportRxMalformed, .transportRxStateDrops, .transportRxAuthFail,
   .transportRxReplayDrops, .transportRxDuplicates, .transportRxBeyondWindow, .transportOpenMsgDrops, .transportRetransmits,
   .transportRtoExpiries, .transportCtxFetches, .transportCtxEvictions, .transportCtxFetchFails, .transportRetxRecordWaits,
   .transportQpcDirValid, .transportQpcDirHost, .transportQpcDirBase, .transportLocalIpAddr, .transportLocalIpValid,
   .transportPathsetBase, .transportPathsetInvalSet, .transportPleachCfgSprayLook, .transportPleachCfgMarkPenalty, .transportPleachCfgProbeUs,
   .transportWndCfgInitKib, .transportWndCfgMaxKib, .transportWndCfgAiBytes, .transportWndCfgHaiRounds, .transportWndCfgDelayTarget,
   .transportWndCfgDelayBeta, .transportWndCfgBaseWindow, .transportPathsDowned, .transportPathsRestored, .transportProbesSent,
   .transportLiveSets, .transportWndCuts, .transportLiveSelSlot, .transportLiveSelPath, .transportLiveDataUp,
   .transportLiveDataMark, .transportLiveDataDelay, .transportLiveDataLastHeard, .transportLiveSetSet, .transportLiveSetInUse,
   .transportLiveSetOwner, .topiaryCfgOverhead, .topiaryCfgCtrlClass, .topiaryDscp, .topiaryQuantum]

/-- Fields 240 to 299 in table order. -/
def fldList4 : List Fld := [
   .topiarySentBytes, .topiarySentFrames, .topiaryMeterMap, .topiaryMeterCir, .topiaryMeterPir,
   .topiaryMeterCbs, .topiaryMeterPbs, .topiaryMeterGreen, .topiaryMeterYellow, .topiaryMeterRedHolds,
   .timeNowNs, .timeNowFrac, .timeSetNs, .timeStepNs, .timeAdjPpb,
   .timeSteps, .pwinRawDbIndex, .pwinRawDbSubport, .pwinRawDbRing, .portCtrlEnable,
   .portCfgMode, .portCfgFecThresh, .portEventEq, .portTsCfgTxDelay, .portTsCfgRxDelay,
   .portsubMac, .portsubVlanVid, .portsubVlanTagEn, .portsubVlanPcpMap, .portsubRawRxBase,
   .portsubRawTxBase, .portsubRawCfgRxLog2, .portsubRawCfgTxLog2, .portsubRawCfgRxEn, .portsubRawCfgTxEn,
   .portsubRawCfgCq, .portsubRawStateRxHead, .portsubRawStateTxHead, .portsubLinkState, .portsubLinkLos,
   .portsubCntHalf, .portsubCntHalfEn, .portsubGateAdminBase, .portsubGateAdminCycleNs, .portsubGateAdminEntries,
   .portsubGateAdminEnable, .portsubGateCtrlChange, .portsubGateCtrlCancel, .portsubGateCtrlPending, .portsubGateCtrlOperBank,
   .portsubGateCtrlRunning, .portsubGateStart, .portsubGateLateStarts, .portsubGateWriteDiscards, .portsubGateEntry,
   .pwinCollDbIndex, .transportCollCtrlEnable, .transportCollCfgBufMaxKib, .transportCollCmdGroup, .transportCollCmdOp]

/-- Fields 300 to 359 in table order. -/
def fldList5 : List Fld := [
   .transportCollCmdGo, .transportCollCmdBusy, .transportCollCmdResult, .transportCollCmdAddr, .transportCollEventEq,
   .transportCollBufLevel, .transportCollStarted, .transportCollFailed, .transportCollRnrSent, .transportCollResent,
   .transportCollQBase, .transportCollQLog2, .transportCollQEnable, .transportCollQCq, .transportCollQEq,
   .transportCollQHead, .transportCollQExpectedPhase, .transportCollQState, .transportCollQLastCause, .transportCollGroupState,
   .transportCollGroupPartition, .transportCollGroupLastCause, .transportCollGroupRound, .pwinAttestAddr, .pwinAttestCtrlGo,
   .pwinAttestCtrlBusy, .pwinAttestCtrlErr, .yewStatusAlarm, .yewStatusAlarmSrc, .yewCfgClearSaveEn,
   .yewCfgRxGraceUs, .yewEngineOkLow, .yewEngineOkHigh, .yewEventEq, .yewSlotCmdSlot,
   .yewSlotCmdOp, .yewSlotCmdGo, .yewSlotCmdBusy, .yewSlotCmdResult, .yewSlotCmdKek,
   .yewSlotCmdAddr, .yewPdBase, .yewRegionBase, .yewRegionCfgLog2, .yewTableInvalIndex,
   .yewTableInvalTable, .yewTableInvalAll, .yewEngineMismatches, .yewUnwrapFails, .yewNoKeyDrops,
   .yewAccessRefused, .yewSealRefused, .yewSealStatusSealed, .yewSealStatusLost, .yewEngineOwnerPartition,
   .yewEngineOwnerReserved, .yewIdentPubkey, .yewIdentCert, .yewSlotState, .yewSlotKind]

/-- Fields 360 to 419 in table order. -/
def fldList6 : List Fld := [
   .yewSlotOwner, .yewSlotShadow, .yewSlotPrev, .yewSlotInflight, .yewSlotUserQpn,
   .yewSlotSealCount, .yewSlotNcFloor, .tileCmdTile, .tileCmdPartition, .tileCmdOp,
   .tileCmdGo, .tileCmdBusy, .tileCmdResult, .tileOwnerPartition, .tileOwnerAssigned,
   .tileOwnerReleasing, .partCtrlFreeze, .partCtrlThaw, .partCtrlSave, .partCtrlRestore,
   .partCtrlSeal, .partCtrlUnseal, .partStatusState, .partStatusBusy, .partStatusSealed,
   .partStatusResult, .partQuotaRingMax, .partQuotaCqMax, .partQuotaEqMax, .partQuotaSlotMax,
   .partQuotaQpMax, .partCountRings, .partCountCqs, .partCountEqs, .partCountSlots,
   .partCountQps, .partCountTiles, .partSealCfgHedge, .partSealCfgShare, .partSealCfgResShare,
   .partSubports, .partCfgFreezeMs, .partCmdAddr, .partRefusals, .bootStatusStage,
   .bootStatusHoldback, .bootStatusCause, .bootStatusResetKind, .bootStatusOwnerSlot, .bootStatusFailedDie,
   .bootSvnImage, .bootSvnFused, .bootStartUs, .bootCtrlCold, .bootCtrlWarm,
   .bootCtrlConfirm, .bootImageDigest, .bootImageId, .bootFlashCmdOp, .bootFlashCmdGo]

/-- Fields 420 to 479 in table order. -/
def fldList7 : List Fld := [
   .bootFlashCmdBusy, .bootFlashCmdResult, .bootFlashAddr, .bootFlashOps, .bootFlashBuf,
   .bootOwnerDigest, .bootOwnerValid, .bootOwnerUsed, .powerLimitSustainedW, .powerLimitTauMs,
   .powerInputAvg1msW, .powerInputAvgTauW, .powerInputVolts, .powerRateShared, .powerRateThermal,
   .powerRateHedge, .powerRateCapping, .powerRateFloorBroken, .powerEntryCs2Us, .powerEntryCs3Us,
   .powerEntryCs4Ms, .powerThermalThrottleC, .powerThermalMemLimitC, .powerThermalTripC, .powerEventEq,
   .powerTripRecordTripped, .powerTripRecordPair, .powerCapUs, .powerGuardTrips, .powerWakeDrops,
   .powerRefusals, .powerEnergyMj, .powerPartLtr, .powerSealFloor, .powerRingLtr,
   .powerSensorTemp, .powerSensorValid, .powerTileState, .powerHedgeState, .powerLaurelState,
   .powerMeshState, .safetyStatusHalted, .safetyStatusHaltCause, .safetyStatusHaltDie, .safetyCfgWatchdogUs,
   .safetyCfgSpareLow, .safetyEventEq, .safetyTileRetireTile, .safetyTileRetireGo, .safetyTileRetireBusy,
   .safetyTileRetireResult, .safetyFaultSeq, .safetyVoteRepairs, .safetyVoteLosses, .safetyScrubPasses,
   .safetyTilesReplayed, .safetyTilesRetired, .safetyTileFailed, .safetyLastRecord, .compatIdClass]

/-- Fields 480 to 517 in table order. -/
def fldList8 : List Fld := [
   .compatIdPart, .compatStatusBusy, .compatStatusOverflow, .compatStatusHalfDropped, .compatStatusQueued,
   .compatDiscards, .idPart, .idVariant, .idStepping, .deviceIdLow,
   .deviceIdHigh, .sparesFused, .sparesRuntimeLeft, .sparesInService, .spareMapUse,
   .spareMapTile, .discardedWrites, .lastDiscardOffset, .lastDiscardSource, .lastDiscardPartition,
   .stallTimeouts, .accessStatusStallTimeout, .mgmtAlertMask, .commitGo, .mgmtAlertPending,
   .eqBase, .eqLog2Size, .eqPartition, .eqVector, .eqModUs,
   .eqState, .eqEnable, .eqArmed, .eqLastCause, .eqLost,
   .eqProducer, .eqConsumer, .portCounter]

/-- Every field. -/
def allFlds : List Fld := fldList0 ++ fldList1 ++ fldList2 ++ fldList3 ++ fldList4 ++ fldList5 ++ fldList6 ++ fldList7 ++ fldList8

end Sys2Proof.Machine
end

