-- ==== Sys2Proof/Machine/State.lean ====
section
/-!
DEFINITION. The machine's state as plain data, and the state after reset. `Perm` is what fuses and identity
provisioning hold (only stage VERIFY's fuse commands change it), `Dev` is everything else, `pending` the queue of
commands waiting, first in, first out.
-/
namespace Sys2Proof.Machine

/-- Why a command ends without a next state. -/
inductive Fault where
  /-- Raised by a meaning of an event inside the block, named by its mnemonic, in a state in which the spec lets that
  event not arise (a matrix completion with no matrix work item running). Safe: the hardware never takes such a step. -/
  | notEnabled (command : String)
  /-- Raised by a command whose operand names an object that does not exist (tile 1,152, ring 4,096). Safe: no bus or
  pin can carry it. -/
  | noSuchObject (command : String)
deriving DecidableEq, Repr

/-- Why a command has no meaning. -/
inductive Refusal where
  /-- Raised by an arm of exec whose command is not modelled yet. Safe. -/
  | notModelled (mnemonic : String)
deriving DecidableEq, Repr

/-! ### Memory (R171 to R200) -/

/-- The error state of a protected word (scratchpad) or line (HBM4, DDR5); unlisted ones hold no error. -/
inductive Ecc where
  | corrected
  | uncorrectable
  | poisoned
deriving DecidableEq, Repr

/-- The counters behind SP_DATA of one scratchpad bank (R176, R185, R199). -/
structure BankStat where
  collisions : Nat := 0
  ce : Nat := 0
  ue : Nat := 0
  repaired : Nat := 0
deriving DecidableEq, Repr

/-- Corrected errors of one unit in its current second (R185, R194). -/
structure CeWin where
  start : Nat
  count : Nat
deriving DecidableEq, Repr

/-- The memories of the package, and the host's as the device sees it; `flips` holds the flipped bits behind a word or line that
is not poisoned (site, bit), `ddrX8` the used channels built from x8 devices, `sram` the groups with an uncorrectable word in the contribution
SRAM (R510). -/
structure MemSt where
  bytes : KMap Byte := []
  host : KMap Byte := []
  ecc : KMap Ecc := []
  flips : KMap (List (Nat × Nat)) := []
  banks : KMap BankStat := []
  ceWin : KMap CeWin := []
  ddrGib : KMap Nat := []
  ddrX8 : List Nat := []
  stacksFailed : List Nat := []
  hedgeFailed : List Nat := []
  spScrub : KMap Nat := []
  hbmPatrol : KMap Nat := []
  ddrPatrol : KMap Nat := []
  sram : List Nat := []
deriving DecidableEq, Repr

/-! ### Translation (R201 to R231) -/

/-- The caches of R210: a tile's, the transport engine's, and a Hedge slice's leaf and table entries. -/
inductive CacheId where
  | tile (t : Nat)
  | transport
  | sliceLeaf (q : Nat)
  | sliceTable (q : Nat)
deriving DecidableEq, Repr

/-- A cached table entry: its partition, its level, the DVA bits that index down to it, the entry itself. -/
structure TlbEntry where
  cache : CacheId
  part : Nat
  level : Nat
  tag : Nat
  pte : Nat
deriving DecidableEq, Repr

/-- What a held transfer belongs to (R212): a move or attention work item, a send or a receive of a QP. -/
inductive HeldWork where
  | item (uid : Nat)
  | send (qpn : Nat)
  | recv (qpn psn : Nat)
deriving DecidableEq, Repr

/-- A fault slot in use (R217): its work and its cause. -/
structure HeldXfer where
  work : HeldWork
  cause : Nat
deriving DecidableEq, Repr

/-- A transfer that waits for a free slot of its partition (R217): whether a slot has been freed since its footprint last failed,
and whether the retry for that is under way. -/
structure SlotWait where
  part : Nat
  work : HeldWork
  due : Bool := false
  trying : Bool := false
deriving DecidableEq, Repr

/-- A lookup that an invalidation stalls (R226): who made it, its partition, DVA and access. -/
structure Lookup where
  src : Nat
  part : Nat
  dva : Nat
  access : Nat
deriving DecidableEq, Repr

/-- An invalidation in progress (R226): its command, its DVA page range (all of the partition when whole), the work
items whose transfers it waits for, and how many it waited for at its start. -/
structure Inval where
  id : Nat
  part : Nat
  whole : Bool
  firstPage : Nat
  pages : Nat
  cmd : Desc
  waits : List Nat
  waited : Nat
deriving DecidableEq, Repr

/-- Translation state. -/
structure XlSt where
  tlb : List TlbEntry := []
  slotGen : KMap Nat := []
  slotRec : KMap Entry := []
  held : KMap HeldXfer := []
  waiting : List SlotWait := []
  cmdBase : Nat := 0
  cmdLog2 : Nat := 6
  cmdCq : Nat := 0
  commands : List Desc := []
  invals : List Inval := []
  nextInval : Nat := 0
  stalled : List Instr := []
  lookups : List Lookup := []
  parked : List HeldWork := []
  stopped : List Nat := []
deriving DecidableEq, Repr

/-! ### Host link (R232 to R266) -/

/-- The operation a data write belongs to (R176, R255): a work item, a message that has been sent or received on a queue pair, an
operation of a collective group, a frame of a raw ring, or none that completes in a CQ. -/
inductive Writer where
  | item (uid : Nat)
  | sent (qpn id : Nat)
  | recv (qpn ssn : Nat)
  | coll (group : Nat)
  | raw (sub : Nat)
  | other
deriving DecidableEq, Repr

/-- Data writes to host memory that no flush has covered yet (R255): whose they are with its partition and ring, the module that
carried them, and in the list of peer writes the window. -/
structure Dirty where
  by_ : Writer
  part : Nat
  ring : Nat
  module : Nat
  peer : Nat := 0
deriving DecidableEq, Repr

/-- An entry on its way to a queue (R245): EQ or CQ, the queue's number, the entry without its phase, the operation that
completes, and whether a lookup for it has been stalled. -/
structure QEntry where
  toEq : Bool
  num : Nat
  entry : Entry
  op : Writer := .other
  stalled : Bool := false
deriving DecidableEq, Repr

/-- Host-link state beside its registers: queues between fetches with their interval, entries on their way, writes to host memory
and to peer windows since their flush, the ranges of host memory (base, bytes) whose accesses the host answers with an error or
poisoned data (R265), MSI-X vectors by function × 256 + vector (bit 0 masked, bit 1 pending), the
number of virtual functions, the size codes of apertures that are not 64 GiB (R236), when each EQ sent its last message, and the index each CQ was armed with. -/
structure HlSt where
  sleeping : List (QueueId × Nat) := []
  entries : List QEntry := []
  dirty : List Dirty := []
  peerDirty : List Dirty := []
  refusing : List (Nat × Nat) := []
  msix : KMap Nat := []
  numVfs : Nat := 0
  apSize : KMap Nat := []
  lastMsi : KMap Nat := []
  cqArmIndex : KMap Nat := []
deriving DecidableEq, Repr

/-! ### Work items, lanes, tokens, journals (R84 to R132) -/

/-- Where a fetched work item stands: at its home dispatcher unchecked, in a tile lane or at its dispatcher waiting to
start, started, finished but for a remote signal (R118), or cut by a freeze (R453). -/
inductive ItemPhase where
  | fetched
  | placed
  | started
  | signalling
  | cut
deriving DecidableEq, Repr

/-- What a work item runs on (R94). -/
inductive Lane where
  | matrix
  | vector
  | move
  | token
  | home
deriving DecidableEq, Repr

/-- A fetched work item that has not completed. `uid` rises in fetch (or issue) order; `stamp` in placement order. A
graph copy names its step-graph item and carries its step; `index` is its image index or its ring slot index. -/
structure Item where
  uid : Nat
  ring : Nat
  part : Nat
  index : Nat
  graph : Option Nat := none
  step : Nat := 0
  wi : Desc
  lane : Lane := .home
  tile : Nat := 0
  phase : ItemPhase := .fetched
  stamp : Nat := 0
  waitMet : Bool := false
  patched : Bool := false
  opIdx : Nat := 0
  prog : Nat := 0
  remote : Nat := 0
  held : Bool := false
  faultHeld : Bool := false
  collision : Bool := false
  replayed : Bool := false
  rerun : Bool := false
  flags : Nat := 0
  cycles : Nat := 0
  cause : Nat := 0
deriving DecidableEq, Repr

/-- A vector sequence in progress (R100 to R104): the program as read during start-up, next slot, iteration, registers by number, the store ordinal, and
the issue clock with each register's ready time (R103). -/
structure VecRun where
  uid : Nat
  prog : List Nat := []
  slot : Nat := 0
  iter : Nat := 0
  ordinal : Nat := 0
  regs : KMap (List Nat) := []
  clock : Nat := 0
  ready : KMap Nat := []
  sfuFree : Nat := 0
  last : Nat := 0
deriving DecidableEq, Repr

/-- A journal entry (R128): its slot in its list, the work item as started, ring, step and state 0 placed, 1 started,
2 complete. -/
structure JEntry where
  slot : Nat
  uid : Nat
  wi : Desc
  ring : Nat
  step : Nat
  state : Nat
  retired : Bool := false
deriving DecidableEq, Repr

/-- A tile's journal (R128 to R130). -/
structure Journal where
  keep : List JEntry := []
  rolling : List JEntry := []
  broken : Bool := false
deriving DecidableEq, Repr

/-- A step graph being replayed (R121): the step being issued and its next image index, whether its issue has begun,
copies of each step still incomplete, the patch table as checked, and why the image or the table could not be read. -/
structure GraphRun where
  uid : Nat
  step : Nat := 0
  next : Nat := 0
  open_ : KMap Nat := []
  patches : List Nat := []
  begun : Bool := false
  cause : Nat := 0
deriving DecidableEq, Repr

/-- A signal to be issued (R117). -/
structure Signal where
  uid : Nat
  part : Nat
  tile : Nat
  fa : Nat
  add : Nat
deriving DecidableEq, Repr

/-- Whose REMOTE transaction a flit run is (R291): a move's piece, a work item's signal, a token operation's ADD, a
pull or a far request of an attention work item with its own number, or a mesh source's own (its EID and tag). -/
inductive RemoteWho where
  | piece (uid : Nat)
  | signal (uid : Nat)
  | token (uid : Nat)
  | pull (uid seq : Nat)
  | flit (src txn : Nat)
deriving DecidableEq, Repr

/-- A REMOTE transaction on its way to the transport engine: its flits, and for a read the places its data goes to
(scratchpad DPA). -/
structure Remote where
  who : RemoteWho
  flits : List Flit
  dest : Nat := 0
deriving DecidableEq, Repr

/-- The measured state behind a row's active set (R96): its columns and the µs the stall has stayed below. -/
structure ActiveSet where
  cols : List Nat := []
  lowUs : Nat := 0
deriving DecidableEq, Repr

/-- A TOKEN_NOTIFY flit on its way: the row it goes to, the token word, its value before and after, the route epoch. -/
structure Notify where
  row : Nat
  addr : Nat
  old : Nat
  new : Nat
  epoch : Nat
deriving DecidableEq, Repr

/-- A WORK_ITEM flit pair on its way to a tile (R272): the work item, the route epoch, and whether one of its flits has been
discarded, so that the pair never arrives (R282). -/
structure Carried where
  tile : Nat
  uid : Nat
  epoch : Nat
  lost : Bool := false
deriving DecidableEq, Repr

/-- Dispatcher state beside its registers. `notifies` holds TOKEN_NOTIFY flits and `carried` WORK_ITEM flit pairs on their way,
oldest first; `stale` holds, for a token word whose notification was discarded, the value its waiters still see. -/
structure DispSt where
  items : List Item := []
  nextUid : Nat := 0
  nextStamp : Nat := 0
  ringPtr : KMap Nat := []
  active : KMap ActiveSet := []
  tokens : KMap Nat := []
  vec : KMap VecRun := []
  moveIx : KMap (List Nat) := []
  graphs : List GraphRun := []
  signals : List Signal := []
  journals : KMap Journal := []
  notifies : List Notify := []
  stale : KMap Nat := []
  remotes : List Remote := []
  carried : List Carried := []
  blocked : List Nat := []
  replay : KMap (List Nat) := []
deriving DecidableEq, Repr

/-! ### Power (R480 to R498) -/

/-- Power state beside its registers: domains on their way to CS0 (R483), failed starts of each PLL (R481), input power
samples in mW, newest first (R489), energy not yet a whole mJ in nJ, and of the controller (R490): whether the last step was below
the limits, the µs spent at the floor of steps 1 and 2 and since sealed rows were last lowered, by how much they are
lowered; halvings of the memory units' admission (stacks 0 to 11, channels 12 to 19, R495), dies whose over-current
guard acts with the time of the last 0xAA event (R491), a cold reset that waits for the package to cool (R496), and the Coppice states of
spares (R484). -/
structure PwrSt where
  waking : List Domain := []
  pllFails : KMap Nat := []
  samples : List Nat := []
  energyNj : Nat := 0
  below : Bool := false
  floorUs : Nat := 0
  hedgeUs : Nat := 0
  sealUs : Nat := 0
  sealDrop : Nat := 0
  memRate : KMap Nat := []
  guards : List Nat := []
  guardEvent : Option Nat := none
  heldReset : Option Nat := none
  spares : KMap Nat := []
deriving DecidableEq, Repr

/-! ### Clahim transport (R295 to R337) -/

/-- A queue pair's context (R312, R355), one copy of its voted words. -/
structure Qp where
  part : Nat := 0
  pd : Nat := 0
  txSlot : Nat := 0
  rxSlot : Nat := 0
  state : Nat := 0
  cls : Nat := 0
  sticky : Nat := 0
  faEnable : Nat := 0
  attendEnable : Nat := 0
  pathSet : Nat := 0
  remoteQpn : Nat := 0
  remoteIp : Nat := 0
  remoteNode : Nat := 0
  localIp : Nat := 0
  eq : Nat := 0
  retryMax : Nat := 0
  rnrRetry : Nat := 0
  sqLog2 : Nat := 0
  sqBase : Nat := 0
  rqLog2 : Nat := 0
  rqBase : Nat := 0
  sqCq : Nat := 0
  rqCq : Nat := 0
  sqHead : Nat := 0
  sqDone : Nat := 0
  rqHead : Nat := 0
  rqDone : Nat := 0
  nextSsn : Nat := 0
  rxSsn : Nat := 0
  nextPsn : Nat := 0
  unaPsn : Nat := 0
  nextMsg : Nat := 0
  unaMsg : Nat := 0
  rxExpected : Nat := 0
  rxHigh : Nat := 0
  txNonce : Nat := 0
  rxNcHigh : Nat := 0
  srtt : Nat := 0
  rttvar : Nat := 0
  rto : Nat := 0
  lastCause : Nat := 0
  atomicRec : List (Nat × Nat) := []
  rxMap : Nat := 0
  cwnd : Nat := 0
  inflight : Nat := 0
  baseRtt : Nat := 0
  baseStamp : Nat := 0
  roundEnd : Nat := 0
  roundMinQ : Nat := 0
  alpha : Nat := 0
  cursor : Nat := 0
  cleanRounds : Nat := 0
  roundCe : Nat := 0
  roundCut : Nat := 0
  roundAcked : Nat := 0
  roundMarked : Nat := 0
  liveSlot : Nat := 0
deriving DecidableEq, Repr

/-- A received SEND that has ended (R310, R329): the bytes of its message, its immediate, the nonce counter that completed it, its
cause. -/
structure RqDone where
  bytes : Nat
  imm : Nat
  nonce : Nat
  cause : Nat
deriving DecidableEq, Repr

/-- The window constants of a round (R353, R364). -/
structure WndConst where
  aiBytes : Nat
  haiRounds : Nat
  delayTarget : Nat
  delayBeta : Nat
  baseWindow : Nat
deriving DecidableEq, Repr

/-- What the engine keeps for a queue pair beside its context: doorbell hints, fetched work requests not yet started, packets placed
since the last ACK, marks to report, the packet to echo, the ms of the last authentication event, whether the 0x30 event stands,
whose turn it is (SQ or internal), RQ entries fetched and SENDs finished out of order by SSN, whether a placed packet is not yet
reported, whether a wait for a retransmission record has been counted, and the window constants of the round in progress. -/
structure QpRun where
  sqHint : Nat := 0
  rqHint : Nat := 0
  wrs : List (Nat × Desc) := []
  unreported : Nat := 0
  oldest : Nat := 0
  ece : Nat := 0
  echoTs : Nat := 0
  echoPath : Nat := 0
  authMs : Option Nat := none
  lostEvent : Bool := false
  internalTurn : Bool := false
  rqEntries : KMap Desc := []
  rqReady : KMap RqDone := []
  pending : Bool := false
  recWait : Bool := false
  wnd : Option WndConst := none
  noPathSince : Option Nat := none
deriving DecidableEq, Repr

/-- Who a message belongs to (R296): an SQ work request by its index, an engine of the package, the home service's
reply to a request, or a collective's contribution (group, record). -/
inductive MsgWho where
  | sq (index : Nat)
  | engine (who : RemoteWho)
  | far (uid slot : Nat)
  | home (req : Nat)
  | coll (group rec_ : Nat)
deriving DecidableEq, Repr

/-- A message being sent (R301, R305): opcode, target, payload source (a DVA, or bytes of its own), what has been cut
into packets, what has been acknowledged, and how it stands. -/
structure SendMsg where
  id : Nat
  qpn : Nat
  who : MsgWho
  op : Nat
  fa : Bool := false
  addr : Nat := 0
  rh : Nat := 0
  len : Nat := 0
  loc : Nat := 0
  data : List Byte := []
  operand : Nat := 0
  compare : Nat := 0
  code : Nat := 0
  imm : Nat := 0
  ssn : Nat := 0
  ext : Nat := 0
  solicit : Bool := false
  cqe : Bool := true
  tag : Nat := 0
  fence : Bool := false
  msgNo : Option Nat := none
  cut_ : Nat := 0
  begun : Bool := false
  allCut : Bool := false
  nonce : Option Nat := none
  got : KMap Byte := []
  gotBytes : Nat := 0
  old : Nat := 0
  cause : Nat := 0
  held : Bool := false
  done : Bool := false
  src : Nat := 0
  txn : Nat := 0
  dest : Nat := 0
  epoch : Nat := 0
  abortEnd : Bool := false
  mustEnd : Bool := false
  parts : Option (KMap (List Byte)) := none
  stalled : Bool := false
  heldPsn : Option Nat := none
deriving DecidableEq, Repr

/-- How an unacknowledged packet stands: charged and waiting for a path, queued in Topiary, sent, lost and waiting to be
admitted again, refused RNR, answered HELD. -/
inductive RecState where
  | unplaced
  | queued
  | sent
  | lost
  | rnrWait
  | heldWait
deriving DecidableEq, Repr

/-- A retransmission record (R317): its pool slot, PSNs, message and range, and its last sending. -/
structure Rec where
  slot : Nat
  qpn : Nat
  psn : Nat
  n : Nat
  msg : Nat
  off : Nat
  len : Nat
  ending : Bool := false
  aborted : Bool := false
  state : RecState := .queued
  path : Nat := 0
  avoid : Option Nat := none
  seq : Nat := 0
  sentAt : Nat := 0
  sentTs : Nat := 0
  expiries : Nat := 0
  rnr : Nat := 0
  charged : Nat := 0
  resent : Bool := false
  passed : Nat := 0
  reported : Bool := false
  answered : List Nat := []
deriving DecidableEq, Repr

/-- A received packet with its sub-port, receive timestamp and frame length. -/
structure RxPkt where
  sub : Nat
  ts : Nat
  len : Nat
  p : Packet
deriving DecidableEq, Repr

/-- An open received message (R328). -/
structure OpenMsg where
  qpn : Nat
  msg : Nat
  op : Nat
  count : Nat := 0
  total : Option Nat := none
  failed : Nat := 0
  key : Nat := 0
  imm : Nat := 0
  nonce : Nat := 0
  late : Bool := false
  data : KMap Byte := []
  hdr : Nat := 0
  buf : Nat := 0
  blen : Nat := 0
  rq : Bool := false
deriving DecidableEq, Repr

/-- A receive held on a translation fault (R327), or a PSN whose hold ended in ABORT. -/
structure RxHold where
  qpn : Nat
  psn : Nat
  aborted : Bool := false
  cause : Nat := 0
deriving DecidableEq, Repr

/-- A live set's path (R341). -/
structure PathSt where
  up : Bool := true
  mark : Bool := false
  delay : Nat := 0
  lastHeard : Nat := 0
deriving DecidableEq, Repr

/-- A live-set slot (R340): its set, descriptors as read, path states, owner. -/
structure LiveSet where
  set : Nat
  descs : List Nat
  paths : List PathSt
  owner : Nat := 0
  probeSeq : Nat := 0
deriving DecidableEq, Repr

/-- What a queued packet is: a request by its QP and PSN, a packet ready but for its seal, or a raw frame (ring index,
descriptor's tag, bytes, whether its transmit timestamp and its completion are asked for). -/
inductive TxBody where
  | req (qpn psn : Nat)
  | ready (qpn : Nat) (p : Packet)
  | raw (index tag : Nat) (bytes : List Byte) (tsReq cqe : Bool)
deriving DecidableEq, Repr

/-- A queued packet: its sub-port, class, partition, length and whether it has been found red. -/
structure TxPkt where
  sub : Nat
  cls : Nat
  part : Nat
  qpn : Nat
  len : Nat
  path : Nat
  body : TxBody
  red : Bool := false
deriving DecidableEq, Repr

/-- What waits for a queue pair's context to be fetched (R259, R326): a command (its OP and address), a doorbell (window, width,
value), an operation of an engine, a queue's refetch, a group's load, the queue pair's ERROR, its THAW. -/
inductive CtxUser where
  | command (op addr : Nat)
  | doorbell (win width val : Nat)
  | message (part : Nat) (m : SendMsg)
  | refetch (rq : Bool) (wait : Nat)
  | group (g : Nat)
  | error (cause : Nat)
  | thaw
deriving DecidableEq, Repr

/-- A cached entry of the region or PD table, and the partition it was read for (R432, R449). -/
structure CachedEntry where
  val : Nat
  part : Nat
deriving DecidableEq, Repr

/-- Transport-engine state beside its registers. `stallRx` holds received packets whose placement waits for an invalidation
or for a module of the host link (R226, R259). -/
structure TrSt where
  qps : KMap Qp := []
  runs : KMap QpRun := []
  msgs : List SendMsg := []
  nextMsgId : Nat := 0
  recs : List Rec := []
  rx : List RxPkt := []
  rawRx : List (Nat × Nat × Frame) := []
  parked : List RxPkt := []
  fetching : List Nat := []
  openMsgs : List OpenMsg := []
  holds : List RxHold := []
  nodeCache : KMap Nat := []
  live : KMap LiveSet := []
  seqNo : Nat := 0
  regionCache : KMap CachedEntry := []
  pdCache : KMap CachedEntry := []
  lru : List Nat := []
  known : List Nat := []
  waitTx : List TxPkt := []
  stallRx : List RxPkt := []
  ctxWait : List (Nat × CtxUser) := []
deriving DecidableEq, Repr

/-! ### Topiary (R356 to R365) -/

/-- Buckets of a meter in 1/1,024 byte. -/
structure Buckets where
  tc : Nat
  tp : Nat
deriving DecidableEq, Repr

/-- Deficit round robin of a sub-port (R361). -/
structure Drr where
  deficit : KMap Nat := []
  ptr : Nat := 2
  inVisit : Bool := false
deriving DecidableEq, Repr

/-- Topiary state beside its registers: queued packets in order, buckets by port and meter, deficits, partition and QP
pointers. -/
structure TopSt where
  queue : List TxPkt := []
  buckets : KMap Buckets := []
  drr : KMap Drr := []
  partPtr : KMap Nat := []
  qpPtr : KMap Nat := []
deriving DecidableEq, Repr

/-! ### Attention (R134 to R170) -/

/-- A page to be computed: its position index, and its bytes and sidecar once they have been read. -/
structure AttPage where
  index : Nat
  kv : List Byte
  side : List Byte
deriving DecidableEq, Repr

/-- A row's running triple (R146): m, l and o as FP32 words. -/
structure Triple where
  m : Nat
  l : Nat
  o : List Nat
deriving DecidableEq, Repr

/-- How a far request of a work item stands: outstanding, or waiting for its next try. -/
inductive FarState where
  | out
  | retry
deriving DecidableEq, Repr

/-- A far request (R151, R160): its slot and generation, its batch, its reservation and its tries, and the tunables its
batch was formed under (R159). -/
structure FarReq where
  slot : Nat
  tag : Nat
  home : Nat
  first : Nat
  entries : List Nat
  base : Nat
  bytes : Nat
  tries : Nat := 1
  state : FarState := .out
  reply : KMap Byte := []
  outMax : Nat := 0
  retryMax : Nat := 0
deriving DecidableEq, Repr

/-- A pull in progress: its page, the reads answered by number, and the reads still unanswered. -/
structure PullPage where
  seq : Nat
  index : Nat
  parts : KMap (List Byte) := []
  need : Nat
deriving DecidableEq, Repr

/-- An attention work item's walk (R149 to R152): header, home table, next entry, pages read and not yet computed, its
pulls, its far requests, its running state; the batch formed and not yet taken up with the FAR_OUTSTANDING and RETRY_MAX
of that moment (R159); an entry read that begins the next batch, with the cause of its read (R149); and partials received
while the work item is held, by tag (R167). -/
structure AttRun where
  uid : Nat
  header : Nat
  homes : List Nat
  next : Nat
  pages : List AttPage := []
  pulls : List PullPage := []
  nextSeq : Nat := 0
  far : List FarReq := []
  q : List (List Nat)
  qpos : List Nat
  rows : List Triple
  flags : Nat := 0
  failed : Nat := 0
  batch : List Nat := []
  batchFirst : Nat := 0
  remoteBatch : Bool := false
  outMax : Nat := 0
  retryMax : Nat := 0
  peek : Option (Nat × Nat) := none
  kept : List (Nat × List Byte) := []
deriving DecidableEq, Repr

/-- A capacity record (R155). -/
structure CapRec where
  part : Nat
  node : Nat
  cap : Nat
  at_ : Nat
deriving DecidableEq, Repr

/-- A request of the home service (R164, R165): its QP, message, tag and payload, the tile it holds once admitted, and
whether an invalidation stalls a lookup of it (R226). -/
structure HomeReq where
  id : Nat
  part : Nat
  qpn : Nat
  pd : Nat
  addr : Nat
  payload : List Byte
  tile : Nat
  stamp : Nat := 0
  base : Nat := 0
  stalled : Bool := false
deriving DecidableEq, Repr

/-- Attention state beside its registers: walks, tile slot generations, reception-buffer reservations (base, bytes) by
request tag, capacity records newest first, requests held as home, requests whose region check waits for an
invalidation, smoothed receive utilisation by sub-port in 1/65,536. -/
structure AttSt where
  runs : KMap AttRun := []
  gens : KMap Nat := []
  resv : List (Nat × Nat × Nat) := []
  caps : List CapRec := []
  homes : List HomeReq := []
  homeWait : List HomeReq := []
  nextHome : Nat := 0
  util : KMap Nat := []
deriving DecidableEq, Repr

/-! ### Ports, gates and time (R366 to R390) -/

/-- A running gate list (R378 to R381): cycle time and entries as they took effect, base, start of the current cycle,
the entry that applies next, the instant it does, and the gates open now. -/
structure GateRun where
  base : Nat
  cycle : Nat
  entries : Nat
  cycleStart : Nat
  next : Nat
  endAt : Nat
  gates : Nat
deriving DecidableEq, Repr

/-- Uncorrectable codewords of a sub-port within the last second, with the times of their frames, newest first, and whether an event has
been sent for a second that still runs (R369). -/
structure FecWin where
  seen : List (Nat × Nat) := []
  sentAt : Option Nat := none
deriving DecidableEq, Repr

/-- A raw receive buffer claimed or fetched ahead (R383, R385). -/
structure RawBuf where
  index : Nat
  addr : Nat
  len : Nat
deriving DecidableEq, Repr

/-- Port state beside its registers: fraction of device time in 2^-32 ns and the remainder of the rate adjustment,
running gate lists, codeword windows, raw buffers fetched ahead, raw descriptors fetched and not yet queued, the producer index
announced for each raw transmit ring, and the delays TX_DELAY + 2^16 × RX_DELAY that the image loaded for each port (R377). -/
structure PortSt where
  frac : Nat := 0
  adjRem : Nat := 0
  gates : KMap GateRun := []
  fec : KMap FecWin := []
  bufs : KMap (List RawBuf) := []
  rawTx : KMap (List (Nat × Desc)) := []
  txHint : KMap Nat := []
  cal : KMap Nat := []
deriving DecidableEq, Repr

/-! ### Partitions (R444 to R459) -/

/-- Partition state beside its registers: the partitions whose BUSY stands for a RESTORE and not a SAVE. -/
structure PartSt where
  restoring : List Nat := []
deriving DecidableEq, Repr

/-! ### Faults (R499 to R516) -/

/-- A tile that is being replaced by its spare (R506, R507): the fault's class, whether its scratchpad is copied, whether the
spare has taken its EID, whether TILE_RETIRE asked for it, and the journal entries run so far. -/
structure Swap where
  cls : Nat
  copy : Bool
  taken : Bool := false
  retire : Bool := false
  ran : Nat := 0
deriving DecidableEq, Repr

/-- Fault state beside the SAFETY registers: voted entries whose lost vote has been reported, tiles being replaced. -/
structure SafeSt where
  lost : List Nat := []
  swaps : KMap Swap := []
deriving DecidableEq, Repr

/-! ### Start-up (R460 to R479) -/

/-- A flash command in progress: its OP, its address, the 32 words of FLASH_BUF it was started with. -/
structure FlashCmd where
  op : Nat
  addr : Nat
  data : List Nat
deriving DecidableEq, Repr

/-- The fuse changes of a start-up between their beginning and stage RAILS (R467): the owner slot being programmed with its
digest, and the security version the minimum is raised to. -/
structure FuseWrite where
  enrol : Option (Nat × Nat) := none
  svn : Option Nat := none
deriving DecidableEq, Repr

/-- Start-up state beside its registers: whether the always-on domain has power, the flash (an unlisted byte is an
erased one, 0xFF), the stage due next (1 to 6; 7 while records are applied, 8 while the parts of BRINGUP run, 0 none),
the next record's image offset, a record's command that BUSY stands for, whether the start-up is a warm one, when it
began, the parts of BRINGUP that are done, the fuse changes begun, the kind of a cold reset that waits for them, and the
flash command in progress. -/
structure BootSt where
  powered : Bool := false
  flash : KMap Byte := []
  due : Nat := 0
  recAt : Nat := 0
  waiting : Option (Fld × Nat) := none
  warm : Bool := false
  startNs : Nat := 0
  done : List BringUnit := []
  fuse : Option FuseWrite := none
  coldAfter : Option Nat := none
  flashCmd : Option FlashCmd := none
deriving DecidableEq, Repr

/-! ### Register accesses (R528 to R543) -/

/-- A register access that waits behind a stalled write, or is one (R531): a read without a value. -/
structure HeldAcc where
  src : Source
  off : Nat
  width : Nat
  val : Option Nat
deriving DecidableEq, Repr

/-- A write in the COMPAT queue (R541), by control-window offset. -/
structure PostedWrite where
  off : Nat
  width : Nat
  val : Nat
deriving DecidableEq, Repr

/-- Accesses that wait, in arrival order, the COMPAT queue, the lower half it holds (R542), and when the I3C target last raised its
alert (R555). -/
structure AccSt where
  held : List HeldAcc := []
  posted : List PostedWrite := []
  half : Option (Nat × Nat) := none
  alertNs : Option Nat := none
deriving DecidableEq, Repr


/-! ### Yew key slots and engines (R411 to R442) -/

/-- One half of a key slot: a 256-bit key, its salt, and the NC_HIGH its record carried (R422, R433). -/
structure KeyHalf where
  key : Nat
  salt : Nat
  nc : Nat := 0
deriving DecidableEq, Repr

/-- The key material of a slot (R419, R424) and the highest NONCE_CTR sealed under the active key. -/
structure SlotKeys where
  active : Option KeyHalf := none
  shadow : Option KeyHalf := none
  prev : Option KeyHalf := none
  ncHigh : Nat := 0
deriving DecidableEq, Repr

/-- Yew state beside its registers: the slots' keys, the engine served next (R414), the partition whose report is signed
next, and the reports signed since cold reset (R436). -/
structure YewSt where
  keys : KMap SlotKeys := []
  engPtr : Nat := 0
  attPtr : Nat := 0
  reports : Nat := 0
deriving DecidableEq, Repr

/-! ### Mesh (R267 to R293) -/

/-- What answers a mesh transaction (R272). -/
inductive AnsKind where
  | readData
  | writeAck
  | atomicResult
  | error
deriving DecidableEq, Repr

/-- An answer on its way to its source: the transaction's source EID and tag, the endpoint that answers, whose transaction
it is, a cause for an ERROR flit or poisoned data, the data or old value, its route epoch and congestion mark, the
flits still to arrive, and the crossing and link group it has been sent on (R278). -/
structure MeshAns where
  src : Nat
  txn : Nat
  kind : AnsKind
  who : RemoteWho
  dest : Nat := 0
  cause : Nat := 0
  bytes : List Byte := []
  from_ : Nat := 0x2000
  epoch : Nat := 0
  cong : Bool := false
  left : Nat := 1
  group : Option (Nat × Nat) := none
deriving DecidableEq, Repr

/-- A queued route command (R287): the words of ROUTE_WR_CMD and ROUTE_WR_DATA as written. -/
structure RouteCmd where
  cmd : Nat
  data : Nat
deriving DecidableEq, Repr

/-- A source's limit on outstanding transactions (R285) and its responses since it was last halved. -/
structure SrcLimit where
  limit : Nat
  since : Nat
deriving DecidableEq, Repr

/-- Mesh state beside its registers: answers in flight, transactions of the flit rows without a response (source, tag),
source limits, route commands queued, whether the slow drain has been reported,
the times of a link group's replays within the last ms (crossing × 64 + group), a source's REMOTE transactions without a
response, and for each Hedge link the groups that carry flits
towards the Hedge die and those in reversal (R38). -/
structure MeshSt where
  flight : List MeshAns := []
  waiting : List (Nat × Nat) := []
  limits : KMap SrcLimit := []
  routeQ : List RouteCmd := []
  slowSent : Bool := false
  replays : KMap (List Nat) := []
  remoteOut : KMap Nat := []
  toHedge : KMap Nat := []
  reversing : KMap Nat := []
deriving DecidableEq, Repr
/-! ### Collectives (R391 to R410) -/

/-- A loaded group (R392): its partition, this device's rank, its schedule, its round limit in ms, and by rank the
member's connection and its group number there. -/
structure CollGroup where
  part : Nat
  rank : Nat
  direct : Bool
  timeoutMs : Nat
  members : List (Nat × Nat)
deriving DecidableEq, Repr

/-- A packet of a contribution not yet taken: group, round, phase 0 reduce or 1 gather, step, chunk, sending rank, the OP, RED
and FMT it was sent under, its bytes and their offset in the chunk, the message's length on its last packet, and the
contribution-buffer bytes it holds. One from this device's own rank stands for the copy of SRC that starts an ALL_GATHER. -/
structure CollMsg where
  group : Nat
  round : Nat
  phase : Nat
  step : Nat
  chunk : Nat
  from_ : Nat
  op : Nat
  red : Nat
  fmt : Nat
  off : Nat
  bytes : List Byte
  total : Option Nat := none
  space : Nat
  aborted : Bool := false
deriving DecidableEq, Repr

/-- A contribution record (R402): its number, the round, phase, step, chunk and member of its message, and the buffer bytes the message
holds. The message itself names the source of its bytes. -/
structure CollRec where
  id : Nat
  round : Nat
  phase : Nat
  step : Nat
  chunk : Nat
  member : Nat
  space : Nat
deriving DecidableEq, Repr

/-- A running collective (R397): its descriptor, repeats completed, the round of its last repeat, whether a repeat runs,
when the first repeat and the round began, flags, packets resent, the bytes written of each chunk, the owner's running result in FP32
with the bytes of contributions in it and its buffer bytes, and the records not yet acknowledged. -/
structure CollRun where
  part : Nat
  desc : Desc
  rep : Nat := 0
  round : Nat := 0
  active : Bool := false
  startNs : Option Nat := none
  roundNs : Nat := 0
  flags : Nat := 0
  resent : Nat := 0
  written : KMap Nat := []
  acc : Option (List Nat) := none
  got : Nat := 0
  accSpace : Nat := 0
  recs : List CollRec := []
deriving DecidableEq, Repr

/-- Collective-engine state beside its registers: groups and running collectives by slot, descriptors fetched and not
started by partition, contributions waiting, buffer bytes held by group, the next record number. -/
structure CollSt where
  groups : KMap CollGroup := []
  runs : KMap CollRun := []
  queue : KMap (List (Nat × Desc)) := []
  waiting : List CollMsg := []
  level : KMap Nat := []
  nextRec : Nat := 0
deriving DecidableEq, Repr


/-! ### What leaves the block -/

/-- PCIe completion status (R234, R237): success, Unsupported Request, Completer Abort, Configuration Request Retry. -/
inductive Cpl where
  | success
  | unsupported
  | abort
  | retry
deriving DecidableEq, Repr

/-- What has left the block's pins and links, newest first. -/
inductive Out where
  | completion (module : Nat) (status : Cpl) (data : List Byte) (poisoned : Bool)
  | regRead (src : Source) (off val : Nat)
  | flushRead (module hpa : Nat)
  | msix (module fn vector : Nat)
  | frame (sub : Nat) (f : Frame)
  | i3c (bytes : List Nat)
  | inBandInterrupt (byte : Nat)
  | tdo (bits val : Nat)
  | meshDone (src txn cause : Nat) (data : List Byte)
deriving DecidableEq, Repr

/-- Everything but fuses, identity and the command queue. `regs`, `regsB`, `regsC` are the register fields by key
(the second and third copies hold voted fields only); `shadow` the RWC shadows (R15); `free` counts the free values
drawn so far; `upNs` is time since power came, in ns. -/
structure Dev where
  regs : KMap Nat := []
  regsB : KMap Nat := []
  regsC : KMap Nat := []
  shadow : KMap Nat := []
  free : Nat := 0
  upNs : Nat := 0
  out : List Out := []
  mem : MemSt := {}
  xl : XlSt := {}
  hl : HlSt := {}
  disp : DispSt := {}
  pwr : PwrSt := {}
  tr : TrSt := {}
  top : TopSt := {}
  att : AttSt := {}
  port : PortSt := {}
  parts : PartSt := {}
  safe : SafeSt := {}
  boot : BootSt := {}
  acc : AccSt := {}
  yew : YewSt := {}
  mesh : MeshSt := {}
  coll : CollSt := {}
deriving DecidableEq, Repr

/-- An owner slot of the fuses (R465): its 384-bit digest, its check word's verdict, whether it has been written. -/
structure OwnerSlot where
  digest : Nat := 0
  valid : Bool := false
  used : Bool := false
deriving DecidableEq, Repr

/-- Fuses and identity (R435, R462, R465, R545). -/
structure Perm where
  owners : List OwnerSlot := [{}, {}, {}, {}]
  vendorDigest : Nat := 0
  svnMin : Nat := 0
  deviceId : Nat := 0
  variant : Nat := 0
  spares : KMap Nat := []
  repairedColumns : KMap Nat := []
  hbmRepairs : KMap Nat := []
  identKey : Nat := 0
  identCert : Nat := 0
deriving DecidableEq, Repr

/-- The whole machine. -/
structure State where
  pending : List Instr
  perm : Perm
  dev : Dev
deriving DecidableEq, Repr

/-- The machine right after reset: no command waiting, every register field at its cold-reset value, no power yet, and
an unprogrammed fuse array. -/
def State.reset : State := { pending := [], perm := {}, dev := {} }

end Sys2Proof.Machine
end

