-- ==== Sys2Proof/Machine/Ops.lean ====
section
/-!
DEFINITION. The shared operations: sparse maps, register fields with their voted copies (R14 to R17, R537), little-
endian bytes, free values, and the two ways a command's meaning answers.
-/
namespace Sys2Proof.Machine

/-! ### Sparse maps -/

/-- The value at key `k`. -/
def find? {α : Type} : KMap α → Nat → Option α
  | [], _ => none
  | (k', v) :: t, k => if k = k' then some v else find? t k

/-- The value at key `k`, or `d`. -/
def getD {α : Type} (m : KMap α) (k : Nat) (d : α) : α := (find? m k).getD d

/-- The map with `v` at key `k`. -/
def put {α : Type} : KMap α → Nat → α → KMap α
  | [], k, v => [(k, v)]
  | (k', v') :: t, k, v =>
    if k = k' then (k, v) :: t else if k < k' then (k, v) :: (k', v') :: t else (k', v') :: put t k v

/-- The map without key `k`. -/
def del {α : Type} : KMap α → Nat → KMap α
  | [], _ => []
  | (k', v') :: t, k => if k = k' then del t k else (k', v') :: del t k

/-- The map with `v` at key `k`, unlisted when `v` is the default `d`. -/
def putD {α : Type} [DecidableEq α] (m : KMap α) (k : Nat) (v d : α) : KMap α := if v = d then del m k else put m k v

/-- Keys strictly rising. -/
def rising {α : Type} : KMap α → Bool
  | [] => true
  | (_, _) :: [] => true
  | (k, _) :: (k', v') :: t => decide (k < k') && rising ((k', v') :: t)

/-- The canonical form of a map with default `d`: keys strictly rising, no entry equal to `d`. -/
def canonical {α : Type} [DecidableEq α] (d : α) (m : KMap α) : Bool := rising m && m.all (fun e => decide (e.2 ≠ d))

/-! ### Bytes -/

/-- `n` bytes of a number, lowest first. -/
def toBytes : Nat → Nat → List Byte
  | 0, _ => []
  | n + 1, x => BitVec.ofNat 8 x :: toBytes n (x >>> 8)

/-- The number a byte list spells, lowest first. -/
def fromBytes : List Byte → Nat
  | [] => 0
  | b :: t => b.toNat + 256 * fromBytes t

/-- `n` bytes of a sparse memory from address `a`; unlisted bytes read as zero. -/
def readSparse (m : KMap Byte) (a : Nat) : Nat → List Byte
  | 0 => []
  | n + 1 => getD m a 0 :: readSparse m (a + 1) n

/-- A sparse memory with the given bytes written from address `a`, canonical. -/
def writeSparse (m : KMap Byte) (a : Nat) : List Byte → KMap Byte
  | [] => m
  | b :: t => writeSparse (putD m a b 0) (a + 1) t

/-! ### Register fields -/

/-- The key of entry `i` of field `f`: one for each field and entry. -/
def fkey (f : Fld) (i : Nat) : Nat := i * 1024 + f.ctorIdx

/-- The majority of three copies; none when all differ (R16). -/
def majority (a b c : Nat) : Option Nat := if a = b then some a else if a = c then some a else if b = c then some b else none

/-- The three stored copies of entry `i` of a voted field. -/
def copies (d : Dev) (f : Fld) (i : Nat) : Nat × Nat × Nat :=
  let r := f.info.reset
  (getD d.regs (fkey f i) r, getD d.regsB (fkey f i) r, getD d.regsC (fkey f i) r)

/-- The fields voted together as one register resource: a lost vote of one makes the others of its register read their
fallback too (R503). -/
def votedWith : Fld → List Fld
  | .tileOwnerPartition => [.tileOwnerPartition, .tileOwnerAssigned, .tileOwnerReleasing]
  | .tileOwnerAssigned => [.tileOwnerPartition, .tileOwnerAssigned, .tileOwnerReleasing]
  | .tileOwnerReleasing => [.tileOwnerPartition, .tileOwnerAssigned, .tileOwnerReleasing]
  | .hlPeerRidId => [.hlPeerRidId, .hlPeerRidValid]
  | .hlPeerRidValid => [.hlPeerRidId, .hlPeerRidValid]
  | .xlatePtBaseEn => [.xlatePtBaseEn, .xlatePtBaseBase]
  | .xlatePtBaseBase => [.xlatePtBaseEn, .xlatePtBaseBase]
  | .meshNodeMapEn => [.meshNodeMapEn, .meshNodeMapBase]
  | .meshNodeMapBase => [.meshNodeMapEn, .meshNodeMapBase]
  | .yewEngineOwnerPartition => [.yewEngineOwnerPartition, .yewEngineOwnerReserved]
  | .yewEngineOwnerReserved => [.yewEngineOwnerPartition, .yewEngineOwnerReserved]
  | .yewSlotKind => [.yewSlotKind, .yewSlotOwner]
  | .yewSlotOwner => [.yewSlotKind, .yewSlotOwner]
  | f => [f]

/-- What a voted field reads while no two copies agree (R503). -/
def fallback : Fld → Nat
  | .tileOwnerReleasing => 1
  | .powerThermalTripC => 90
  | _ => 0

/-- Whether the three copies of a voted entry have a majority. -/
def voteHolds (d : Dev) (f : Fld) (i : Nat) : Bool :=
  let c := copies d f i
  (majority c.1 c.2.1 c.2.2).isSome

/-- The value of entry `i` of a field as the device uses it: the stored value, or the majority, or the fallback. -/
def rd (d : Dev) (f : Fld) (i : Nat := 0) : Nat :=
  if f.info.voted then
    if (votedWith f).all (fun g => voteHolds d g i) then
      let c := copies d f i
      (majority c.1 c.2.1 c.2.2).getD (fallback f)
    else fallback f
  else getD d.regs (fkey f i) f.info.reset

/-- Set entry `i` of a field, cut to its width; every copy of a voted field. -/
def wr (d : Dev) (f : Fld) (i : Nat) (v : Nat) : Dev :=
  let x := f.info
  let v := v % 2 ^ x.width
  let k := fkey f i
  if x.voted then
    { d with regs := putD d.regs k v x.reset, regsB := putD d.regsB k v x.reset, regsC := putD d.regsC k v x.reset }
  else { d with regs := putD d.regs k v x.reset }

/-- Add to a counter field, which wraps. -/
def bump (d : Dev) (f : Fld) (i : Nat := 0) (n : Nat := 1) : Dev := wr d f i (rd d f i + n)

/-- Subtract from a count field. -/
def drop1 (d : Dev) (f : Fld) (i : Nat := 0) : Dev := wr d f i (rd d f i - 1)

/-- Every entry of a field back at its cold-reset value. -/
def clearFld (d : Dev) (f : Fld) : Dev :=
  let keep := fun (e : Nat × Nat) => e.1 % 1024 != f.ctorIdx
  { d with regs := d.regs.filter keep, regsB := d.regsB.filter keep, regsC := d.regsC.filter keep }

/-- A boolean as a register bit. -/
def bit (b : Bool) : Nat := if b then 1 else 0

/-- Whether a one-bit field is set. -/
def isSet (d : Dev) (f : Fld) (i : Nat := 0) : Bool := rd d f i == 1

/-- Clamp to a range (R159, R364, R497: a value outside its range is used as the nearer end). -/
def clampTo (lo hi v : Nat) : Nat := if v < lo then lo else if v > hi then hi else v

/-- A field that a value of zero is read as one. -/
def atLeast1 (v : Nat) : Nat := if v = 0 then 1 else v

/-! ### Free values and outputs -/

/-- Draw the next free value. -/
def fresh (d : Dev) : Nat × Dev := (Config.freeNat d.free, { d with free := d.free + 1 })

/-- Draw a free choice below `n`. -/
def choose (d : Dev) (n : Nat) : Nat × Dev := let f := fresh d; (f.1 % n, f.2)

/-- `n` free bytes. -/
def freeBytes : Nat → Dev → Dev × List Byte
  | 0, d => (d, [])
  | n + 1, d =>
    let c := choose d 256
    let r := freeBytes n c.2
    (r.1, BitVec.ofNat 8 c.1 :: r.2)

/-- Record something leaving the block. -/
def emit (d : Dev) (o : Out) : Dev := { d with out := o :: d.out }

/-- A discarded register write is counted and noted (R545): its source's code, its offset, the partition it acted for. -/
def discardWrite (d : Dev) (src off part : Nat) : Dev :=
  wr (wr (wr (bump d .discardedWrites) .lastDiscardOffset 0 off) .lastDiscardSource 0 src) .lastDiscardPartition 0 part

/-! ### Nested updates -/

def onMem (d : Dev) (f : MemSt → MemSt) : Dev := { d with mem := f d.mem }
def onXl (d : Dev) (f : XlSt → XlSt) : Dev := { d with xl := f d.xl }
def onHl (d : Dev) (f : HlSt → HlSt) : Dev := { d with hl := f d.hl }
def onDisp (d : Dev) (f : DispSt → DispSt) : Dev := { d with disp := f d.disp }
def onTr (d : Dev) (f : TrSt → TrSt) : Dev := { d with tr := f d.tr }
def onTop (d : Dev) (f : TopSt → TopSt) : Dev := { d with top := f d.top }
def onAtt (d : Dev) (f : AttSt → AttSt) : Dev := { d with att := f d.att }
def onPwr (d : Dev) (f : PwrSt → PwrSt) : Dev := { d with pwr := f d.pwr }
def onPort (d : Dev) (f : PortSt → PortSt) : Dev := { d with port := f d.port }
def onBoot (d : Dev) (f : BootSt → BootSt) : Dev := { d with boot := f d.boot }
def onParts (d : Dev) (f : PartSt → PartSt) : Dev := { d with parts := f d.parts }
def onSafe (d : Dev) (f : SafeSt → SafeSt) : Dev := { d with safe := f d.safe }
def onYew (d : Dev) (f : YewSt → YewSt) : Dev := { d with yew := f d.yew }
def onAcc (d : Dev) (f : AccSt → AccSt) : Dev := { d with acc := f d.acc }
def onColl (d : Dev) (f : CollSt → CollSt) : Dev := { d with coll := f d.coll }
def onMesh (d : Dev) (f : MeshSt → MeshSt) : Dev := { d with mesh := f d.mesh }

/-! ### Fixed geometry (R10, R23, R171) -/

def tiles : Nat := 1152
def tileRow (t : Nat) : Nat := t / 48
def tileCol (t : Nat) : Nat := t % 48
def tileAt (row col : Nat) : Nat := row * 48 + col

/-- The PLACE layout of a tile with MODE zero (R97). -/
def placeOf (t : Nat) : Nat := tileCol t + tileRow t * 64

/-! ### Coppice states (R483) -/

/-- A domain's Coppice state, as its register shows it; a spare's has none. -/
def domState (d : Dev) : Domain → Nat
  | .tile t => rd d .powerTileState t
  | .spare s => getD d.pwr.spares s 0
  | .hedge q => rd d .powerHedgeState q
  | .laurel => rd d .powerLaurelState
  | .mesh => rd d .powerMeshState

def setDomState (d : Dev) (dom : Domain) (v : Nat) : Dev :=
  match dom with
  | .tile t => wr d .powerTileState t v
  | .spare s => onPwr d fun p => { p with spares := putD p.spares s v 0 }
  | .hedge q => wr d .powerHedgeState q v
  | .laurel => wr d .powerLaurelState 0 v
  | .mesh => wr d .powerMeshState 0 v

/-- A wake event: a domain below CS0 starts its exit (R483, R484). -/
def wake (d : Dev) (dom : Domain) : Dev :=
  if domState d dom = 0 || d.pwr.waking.contains dom then d else onPwr d fun p => { p with waking := dom :: p.waking }

/-! ### Shares of a sealed partition (R439, R449) -/

def sealedNow (d : Dev) (p : Nat) : Bool := isSet d .yewSealStatusSealed p

/-- Entries of a shared table that are reserved to a sealed partition. -/
def shareOf (d : Dev) (size p : Nat) : Nat := max 1 (size * rd d .partSealCfgResShare p / 64)

/-- Entries of a shared table that a partition may hold: its share when it is sealed, and what no share takes otherwise. -/
def tableMax (d : Dev) (size p : Nat) : Nat :=
  if sealedNow d p then shareOf d size p else size - (((List.range 64).filter (sealedNow d)).map (shareOf d size)).sum

/-- Whether a partition's entries of a shared table compete with another's. -/
def samePool (d : Dev) (p o : Nat) : Bool := if sealedNow d p then o == p else !sealedNow d o

/-- Whether a partition may take `n` more entries of a shared table whose entries belong to the partitions listed. -/
def hasRoom (d : Dev) (size p n : Nat) (owners : List Nat) : Bool :=
  decide ((owners.filter (samePool d p)).length + n ≤ tableMax d size p)

end Sys2Proof.Machine
end

