-- ==== Sys2Proof/Machine/Mem.lean ====
section
/-!
DEFINITION. The package's memories: the fixed address decode (R171, R172, R187, R190), protected words and lines with
their error states (R182 to R195), compression metadata (R197, R198), and queue entries on their way to an EQ or CQ
(R245).
-/
namespace Sys2Proof.Machine

/-! ### Queue entries -/

/-- A 32-byte entry: the common header of R245 (phase left 0) and fields at byte offsets. -/
def entryOf (ty part cause source : Nat) (fs : List (Nat × Nat)) : Entry :=
  BitVec.ofNat 256 (fs.foldl (fun a f => a + f.2 <<< (8 * f.1))
    ((ty % 128) * 2 + (part % 64) * 2 ^ 8 + (cause % 256) * 2 ^ 16 + (source % 2 ^ 32) * 2 ^ 32))

/-- Send an entry to event queue `eq`; entries reach their queues in production order (R254). -/
def postEq (d : Dev) (eq : Nat) (e : Entry) : Dev :=
  onHl d fun h => { h with entries := h.entries ++ [{ toEq := true, num := eq, entry := e }] }

/-- Send an entry to completion queue `cq` for the operation that completes. -/
def postCq (d : Dev) (cq : Nat) (e : Entry) (op : Writer := .other) : Dev :=
  onHl d fun h => { h with entries := h.entries ++ [{ toEq := false, num := cq, entry := e, op := op }] }

/-! ### Address decode -/

/-- What a DPA names (R171). -/
inductive Place where
  | hbm (stack : Nat)
  | ddr (channel : Nat)
  | scratch (tile off : Nat)
  | control (off : Nat)
  | hole
deriving DecidableEq, Repr

def hbmEnd : Nat := 0xC000000000
def ddrBase : Nat := 0x40000000000
def spBase : Nat := 0x80000000000
def ctlBase : Nat := 0xC0000000000
def spBytes : Nat := 0x180000
def gibi : Nat := 2 ^ 30

/-- First DPA of a tile's scratchpad. -/
def spAddr (tile off : Nat) : Nat := spBase + tile * 0x200000 + off

/-- The stack of an HBM4 DPA (R187). -/
def hbmStack (d : Dev) (a : Nat) : Nat :=
  if rd d .memoryHbmCfgInterleave = 1 then
    let q := a / 0x3000000000
    3 * q + ((a - q * 0x3000000000) / 256) % 3
  else (a / 256) % 12

/-- Total used DDR5 capacity in bytes. -/
def ddrBytes (d : Dev) : Nat := (d.mem.ddrGib.map (·.2)).sum * gibi

/-- The channel whose own capacity above the interleaved part holds offset `o` (R190). -/
def ddrTail (m : Nat) : List (Nat × Nat) → Nat → Option Nat
  | [], _ => none
  | (c, g) :: t, o => if o < g * gibi - m then some c else ddrTail m t (o - (g * gibi - m))

/-- The channel of DDR5 offset `o` (R190). -/
def ddrChannel (d : Dev) (o : Nat) : Option Nat :=
  let chans := d.mem.ddrGib
  let n := chans.length
  let m := ((chans.map (·.2)).min?.getD 0) * gibi
  if o < n * m then (chans.map (·.1))[(o / 256) % n]? else ddrTail m chans (o - n * m)

/-- What DPA `a` names. -/
def place (d : Dev) (a : Nat) : Place :=
  if a < hbmEnd then .hbm (hbmStack d a)
  else if ddrBase ≤ a ∧ a < 2 * ddrBase then
    match ddrChannel d (a - ddrBase) with
    | some c => .ddr c
    | none => .hole
  else if spBase ≤ a ∧ a < spBase + tiles * 0x200000 then
    let o := (a - spBase) % 0x200000
    if o < spBytes then .scratch ((a - spBase) / 0x200000) o else .hole
  else if ctlBase ≤ a ∧ a < ctlBase + 0x4000000 then .control (a - ctlBase)
  else .hole

/-- Whether a DPA lies in HBM4 or the DDR5 tier. -/
def isDram (d : Dev) (a : Nat) : Bool :=
  match place d a with
  | .hbm _ => true
  | .ddr _ => true
  | _ => false

/-- Bytes of one protected unit: an 8-byte word of a scratchpad, a 64-byte line elsewhere. -/
def grain : Place → Nat
  | .scratch _ _ => 8
  | _ => 64

/-- The Hedge die behind a stack or channel (R28). -/
def dieOf : Place → Nat
  | .hbm s => s / 3
  | .ddr c => c / 2
  | _ => 4

/-- Whether the unit behind a DPA has failed in service, so that every line of it is poisoned (R194, R511). -/
def unitFailed (d : Dev) : Place → Bool
  | .hbm s => d.mem.stacksFailed.contains s || d.mem.hedgeFailed.contains (s / 3)
  | .ddr c => rd d .memoryDdrStatState c == 3 || d.mem.hedgeFailed.contains (c / 2)
  | _ => false

/-- The partition that owns a tile; none when unassigned (R445). -/
def tileOwner (d : Dev) (t : Nat) : Option Nat :=
  if isSet d .tileOwnerAssigned t then some (rd d .tileOwnerPartition t) else none

/-- The bank of a scratchpad offset (R173). -/
def bankOf (off : Nat) : Nat := (off / 64) % 64

def bankStat (d : Dev) (t b : Nat) : BankStat := getD d.mem.banks (t * 64 + b) {}

def onBank (d : Dev) (t b : Nat) (f : BankStat → BankStat) : Dev :=
  onMem d fun m => { m with banks := putD m.banks (t * 64 + b) (f (getD m.banks (t * 64 + b) {})) {} }

/-! ### Memory events (R195) -/

/-- The fields of a memory event for an address: the location word and the counter. -/
def memEvent (d : Dev) (p : Place) (cause dpa counter : Nat) : Dev :=
  let loc := match p with
    | .scratch t o => t + bankOf o * 2 ^ 11 + ((tileOwner d t).getD 0) * 2 ^ 17
    | .hbm s => s
    | .ddr c => c + 16
    | _ => 0
  let part := match p with
    | .scratch t _ => (tileOwner d t).getD 0
    | _ => 0
  postEq d (rd d .memoryEventEq) (entryOf 4 part cause (dieOf p) [(8, dpa), (0x10, loc), (0x14, counter % 2 ^ 32)])

/-- Note a corrected error in a unit's current second: the window, and whether this one crosses the threshold. -/
def ceStep (d : Dev) (key thr : Nat) : Dev × Bool :=
  let w := match find? d.mem.ceWin key with
    | some w => if d.upNs - w.start < 1000000000 then w else { start := d.upNs, count := 0 }
    | none => { start := d.upNs, count := 0 }
  let w' : CeWin := { w with count := w.count + 1 }
  (onMem d fun m => { m with ceWin := put m.ceWin key w' }, decide (w'.count = thr + 1))

/-- Count a corrected error at `a` and send 0x66 when it crosses the unit's threshold (R185, R194). -/
def countCe (d : Dev) (p : Place) (a : Nat) : Dev :=
  match p with
  | .hbm s =>
    let d := bump d .memoryHbmStatCe s
    let r := ceStep d s (rd d .memoryCeThreshMem)
    if r.2 then memEvent r.1 p 0x66 a (rd r.1 .memoryHbmStatCe s) else r.1
  | .ddr c =>
    let d := bump d .memoryDdrStatCe c
    let r := ceStep d (16 + c) (rd d .memoryCeThreshMem)
    if r.2 then memEvent r.1 p 0x66 a (rd r.1 .memoryDdrStatCe c) else r.1
  | .scratch t o =>
    let d := onBank d t (bankOf o) fun b => { b with ce := (b.ce + 1) % 2 ^ 16 }
    let r := ceStep d (1000 + t * 64 + bankOf o) (rd d .memoryCeThreshTile)
    if r.2 then memEvent r.1 p 0x66 a (bankStat r.1 t (bankOf o)).ce else r.1
  | _ => d

/-- Count an uncorrectable error found at `a` (R199). -/
def countUe (d : Dev) (p : Place) : Dev :=
  let d := bump d .memoryUeTotal
  match p with
  | .hbm s => bump d .memoryHbmStatUe s
  | .ddr c => bump d .memoryDdrStatUe c
  | .scratch t o => onBank d t (bankOf o) fun b => { b with ue := (b.ue + 1) % 2 ^ 8 }
  | _ => d

/-- The uncorrectable-error counter of a unit. -/
def ueOf (d : Dev) : Place → Nat
  | .hbm s => rd d .memoryHbmStatUe s
  | .ddr c => rd d .memoryDdrStatUe c
  | .scratch t o => (bankStat d t (bankOf o)).ue
  | _ => 0

/-! ### Error states -/

/-- The error state of the word or line at its first address. -/
def eccAt (d : Dev) (p : Place) (base : Nat) : Option Ecc :=
  if unitFailed d p then some .poisoned else find? d.mem.ecc base

/-- Set the error state of a word or line; one that holds no error, or is stored anew as poisoned, has no flipped bit left. -/
def setEcc (d : Dev) (base : Nat) (e : Option Ecc) : Dev :=
  onMem d fun m =>
    let m := { m with ecc := match e with | some x => put m.ecc base x | none => del m.ecc base }
    if e = none ∨ e = some .poisoned then { m with flips := del m.flips base } else m

/-! ### Error codes (R182, R188, R191) -/

/-- What a code says of a word or line: clean, corrected, detected, or beyond what it promises. -/
inductive Verdict where
  | clean
  | corrected
  | uncorrectable
  | beyond
deriving DecidableEq, Repr

/-- A code that corrects one error and detects two. -/
def verdictOf : Nat → Verdict
  | 0 => .clean
  | 1 => .corrected
  | 2 => .uncorrectable
  | _ => .beyond

/-- The largest count of flipped bits at one site. -/
def worstSite (fs : List (Nat × Nat)) : Nat := (fs.map fun f => (fs.filter fun g => g.1 = f.1).length).foldl max 0

/-- The verdict on flipped bits: by bits in a scratchpad word, by symbols in an HBM4 line, by bits of a beat on a x8 channel; on
a x4 channel an error of one device is corrected and nothing more is promised. -/
def verdict (d : Dev) (p : Place) (fs : List (Nat × Nat)) : Verdict :=
  let sites := (fs.map (·.1)).eraseDups.length
  match p with
  | .scratch _ _ => verdictOf fs.length
  | .ddr c => if d.mem.ddrX8.contains c then verdictOf (worstSite fs) else if sites ≤ 1 then verdictOf sites else .beyond
  | _ => verdictOf sites

/-- A bit flips; one that flips twice is as it was. -/
def toggle (x : Nat × Nat) (fs : List (Nat × Nat)) : List (Nat × Nat) := if fs.contains x then fs.erase x else fs ++ [x]

/-- The stored bit an upset names, by its code's own numbering. -/
def upsetBit (p : Place) (u : Upset) : Nat × Nat :=
  match p with
  | .scratch _ _ => (0, u.bit % 72)
  | .hbm _ => (u.site % 36, u.bit % 16)
  | _ => (u.site, u.bit)

/-- Errors beyond a code's promise: found all the same, or not found, and then the data is what it happens to be. The spec leaves
it open, so a free choice decides (DESIGN CHOICE, log 129). -/
def beyondCode (d : Dev) (base g : Nat) : Dev :=
  let c := choose d 2
  if c.1 = 0 then setEcc c.2 base (some .uncorrectable)
  else
    let d := setEcc c.2 base none
    onMem { d with free := d.free + g } fun m =>
      { m with bytes := writeSparse m.bytes base ((List.range g).map fun i => BitVec.ofNat 8 (Config.freeNat (d.free + i))) }

/-- Whether a place is a memory with a code. -/
def isMemory : Place → Bool
  | .hole => false
  | .control _ => false
  | _ => true

/-- A word of the contribution SRAM that a group's contributions fill becomes uncorrectable (R510). -/
def strikeSram (d : Dev) (g : Nat) : Dev :=
  if getD d.coll.level g 0 = 0 ∨ d.mem.sram.contains g then d else onMem d fun m => { m with sram := g :: m.sram }

/-- A bit of a word or line flips, unless it is poisoned already. -/
def strikeOne (d : Dev) (u : Upset) : Dev :=
  let p := place d u.addr
  let b := u.addr / grain p * grain p
  if 2 ^ 48 ≤ u.addr then strikeSram d (u.addr - 2 ^ 48)
  else if !isMemory p || eccAt d p b == some .poisoned then d
  else
    let fs := toggle (upsetBit p u) (getD d.mem.flips b [])
    let d := onMem d fun m => { m with flips := putD m.flips b fs [] }
    match verdict d p fs with
    | .clean => setEcc d b none
    | .corrected => setEcc d b (some .corrected)
    | .uncorrectable => setEcc d b (some .uncorrectable)
    | .beyond => beyondCode d b (grain p)

/-- Bit errors strike, one after another. -/
def strike (d : Dev) (l : List Upset) : Dev := l.foldl strikeOne d

/-- The value the row dispatcher's shadow holds for a registered token word (R113, R183). -/
def tokenAt (d : Dev) (a : Nat) : Option Nat := find? d.disp.tokens a

def setBytes (d : Dev) (a : Nat) (bs : List Byte) : Dev := onMem d fun m => { m with bytes := writeSparse m.bytes a bs }

def getBytes (d : Dev) (a n : Nat) : List Byte := readSparse d.mem.bytes a n

/-- An access reaches its tile or Hedge die, which wakes for it, the mesh with a die (R484). -/
def touch_ (d : Dev) : Place → Dev
  | .scratch t _ => wake d (.tile t)
  | .hbm s => wake (wake d (.hedge (s / 3))) .mesh
  | .ddr c => wake (wake d (.hedge (c / 2))) .mesh
  | _ => d

/-! ### Compression metadata (R197, R198) -/

/-- Chunks of an enabled region. -/
def cmpChunks (d : Dev) (k : Nat) : Nat :=
  if isSet d .memoryCmpRegionEnable k then (rd d .memoryCmpRegionLimit k + 1 - rd d .memoryCmpRegionBase k) * 256 else 0

/-- Chunks of the enabled regions numbered below `k`. -/
def cmpSum (d : Dev) : Nat → Nat
  | 0 => 0
  | k + 1 => cmpSum d k + cmpChunks d k

/-- The enabled region holding a DPA. -/
def cmpRegion (d : Dev) (a : Nat) : Option Nat :=
  (List.range 16).find? fun k => isSet d .memoryCmpRegionEnable k
    && decide (rd d .memoryCmpRegionBase k * 65536 ≤ a ∧ a < (rd d .memoryCmpRegionLimit k + 1) * 65536)

/-- The global chunk number of a DPA in region `k`. -/
def cmpIndex (d : Dev) (k a : Nat) : Nat := cmpSum d k + (a - rd d .memoryCmpRegionBase k * 65536) / 256

/-- The metadata byte that holds a chunk's code. -/
def cmpMetaAddr (d : Dev) (ix : Nat) : Nat := rd d .memoryCmpMetaBase * 65536 + ix / 4

/-- The first chunk whose code a metadata line holds; none for a line outside the codes of the enabled regions. -/
def cmpMetaFirst (d : Dev) (line : Nat) : Option Nat :=
  let b := rd d .memoryCmpMetaBase * 65536
  if b ≤ line ∧ 4 * (line - b) < cmpSum d 16 then some (4 * (line - b)) else none

/-- Whether the metadata line of a chunk has been lost (R198): its codes can be neither read nor kept. -/
def cmpMetaLost (d : Dev) (ix : Nat) : Bool :=
  let line := cmpMetaAddr d ix / 64 * 64
  eccAt d (place d line) line == some .poisoned

/-- A chunk's 2-bit code; one whose metadata is lost counts as uncompressed (DEDUCED, log 130). -/
def codeAt (d : Dev) (ix : Nat) : Nat :=
  if cmpMetaLost d ix then 3 else cut (fromBytes (getBytes d (cmpMetaAddr d ix) 1)) (2 * (ix % 4)) 2

/-- Write a chunk's 2-bit code. -/
def setCode (d : Dev) (ix code : Nat) : Dev :=
  let a := cmpMetaAddr d ix
  let old := fromBytes (getBytes d a 1)
  let sh := 2 * (ix % 4)
  if cmpMetaLost d ix then d else setBytes d a (toBytes 1 (old - cut old sh 2 * 2 ^ sh + code * 2 ^ sh))

/-- The DPA of the first byte of global chunk `ix`, walking regions from `k`. -/
def chunkAddr (d : Dev) : Nat → Nat → Nat → Option Nat
  | 0, _, _ => none
  | n + 1, k, ix =>
    let c := cmpChunks d k
    if ix < c then some (rd d .memoryCmpRegionBase k * 65536 + ix * 256) else chunkAddr d n (k + 1) (ix - c)

/-- Poison every line of the chunks a metadata line describes: 256 codes from the line's first. -/
def poisonChunks (d : Dev) (firstIx : Nat) : Dev :=
  (List.range 256).foldl (fun d j =>
    match chunkAddr d 16 0 (firstIx + j) with
    | none => d
    | some a => (List.range 4).foldl (fun d l => setEcc d (a + 64 * l) (some .poisoned)) d) d

/-- A line that has become poisoned, when it holds codes, takes the chunks it describes with it, and 0x68 is sent (R198). -/
def metaLoss (d : Dev) (p : Place) (line : Nat) : Dev :=
  match cmpMetaFirst d line with
  | none => d
  | some ix => memEvent (poisonChunks d ix) p 0x68 line (ueOf d p)

/-- Mark a unit poisoned and count it; lines report it at once with the given cause (R182, R193). -/
def poison (d : Dev) (p : Place) (base : Nat) (event : Option Nat) : Dev :=
  let d := countUe (setEcc d base (some .poisoned)) p
  let d := match event with
    | some c => memEvent d p c base (ueOf d p)
    | none => d
  metaLoss d p base

/-- Visit one word or line for a demand read: correct it, poison it or find it poisoned (R182, R183, R193); a hole has nothing to
visit (R172). -/
def demand (d : Dev) (p : Place) (base : Nat) : Dev × Option Nat :=
  let d := touch_ d p
  if !isMemory p then (d, some 0x64)
  else
    match eccAt d p base with
    | none => (d, none)
    | some .corrected => (countCe (setEcc d base none) p base, none)
    | some .poisoned => (d, some 0x60)
    | some .uncorrectable =>
      match tokenAt d base with
      | some v => (countCe (setEcc (setBytes d base (toBytes 8 v)) base none) p base, none)
      | none =>
        match p with
        | .scratch _ _ => (poison d p base none, some 0x61)
        | _ => (poison d p base (some 0x61), some 0x61)

/-- The agent consults a chunk's metadata: an uncorrectable metadata line poisons what it describes and sends 0x68, and so does
one that its failed stack or channel has taken, when it is met first. -/
def cmpCheck (d : Dev) (a : Nat) : Dev :=
  match cmpRegion d a with
  | none => d
  | some k =>
    let line := cmpMetaAddr d (cmpIndex d k a) / 64 * 64
    let p := place d line
    match eccAt d p line with
    | some .corrected => countCe (setEcc d line none) p line
    | some .uncorrectable => poison d p line none
    | some .poisoned => if unitFailed d p && find? d.mem.ecc line != some .poisoned then poison d p line none else d
    | none => d

/-- After a write, the agent stores the chunk's code: 0 for an all-zero chunk, otherwise the code its compressor
reaches, which the spec leaves to the design (1, 2 or 3); the lines it stores are whole. -/
def cmpNote (d : Dev) (k a : Nat) : Dev :=
  let base := a / 256 * 256
  let store := fun (d : Dev) (code : Nat) =>
    (List.range (if code = 3 then 4 else code)).foldl (fun d l => setEcc d (base + 64 * l) none) (setCode d (cmpIndex d k a) code)
  if (getBytes d base 256).all (fun b => b == 0) then store d 0
  else let c := choose d 3; store c.2 (1 + c.1)

/-- Visit lines in turn; the first cause found stands. -/
def visitLines (p : Place) : List Nat → Dev → Dev × Option Nat
  | [], d => (d, none)
  | l :: t, d =>
    let r := demand d p l
    let s := visitLines p t r.1
    (s.1, r.2.orElse fun _ => s.2)

/-- The lines of a chunk that a read of [a, a+n) in it needs: of a compressed chunk the lines it is stored in, of an uncompressed
one those it touches. -/
def chunkLines (code a n : Nat) : List Nat :=
  let base := a / 256 * 256
  ((List.range 4).map fun l => base + 64 * l).filter fun x => if code = 3 then decide (x < a + n ∧ a < x + 64) else decide (x < base + 64 * code)

/-- The lines of a chunk that must be read before a write of part of it, [a, a+n), is merged: those it is stored in, but of an
uncompressed chunk not the lines the write covers whole. -/
def mergeLines (code a n : Nat) : List Nat :=
  let base := a / 256 * 256
  ((List.range 4).map fun l => base + 64 * l).filter fun x =>
    if code = 3 then !decide (a ≤ x ∧ x + 64 ≤ a + n) else decide (x < base + 64 * code)

/-! ### Reads and writes by DPA -/

/-- Walk the words or lines that [a, a+n) touches with a demand read, chunk by chunk in a compressed region; the first cause found
stands. -/
def demandRange (d : Dev) : Nat → Nat → Nat → Dev × Option Nat
  | 0, _, _ => (d, none)
  | fuel + 1, a, n =>
    if n = 0 then (d, none)
    else
      let p := place d a
      match cmpRegion d a with
      | some k =>
        let d := cmpCheck d a
        let take := min n (256 - a % 256)
        let r := visitLines p (chunkLines (codeAt d (cmpIndex d k a)) a take) d
        let s := demandRange r.1 fuel (a + take) (n - take)
        (s.1, r.2.orElse fun _ => s.2)
      | none =>
        let base := a / grain p * grain p
        let take := min n (base + grain p - a)
        let r := demand d p base
        let s := demandRange r.1 fuel (a + take) (n - take)
        (s.1, r.2.orElse fun _ => s.2)

/-- A demand read of `n` bytes at a DPA: the bytes, 0x60 or 0x61 when a word or line is poisoned, 0x64 at a hole. -/
def memRead (d : Dev) (a n : Nat) : Dev × Option Nat × List Byte :=
  let r := demandRange d n a n
  (r.1, r.2, getBytes r.1 a n)

/-- The token shadow takes what the bank keeps in a registered word (R120). -/
def shadowNote (d : Dev) (base : Nat) : Dev :=
  match tokenAt d base with
  | some _ => onDisp d fun s => { s with tokens := put s.tokens base (fromBytes (getBytes d base 8)) }
  | none => d

/-- Write bytes that lie in one word or line (R182, R193, R194): the state and a cause when the write is discarded. -/
def writeUnit (d : Dev) (p : Place) (base a : Nat) (bs : List Byte) (byItem : Bool) : Dev × Option Nat :=
  let store := fun (d : Dev) => shadowNote (setBytes d a bs) base
  if !isMemory p then (d, some 0x64)
  else if unitFailed d p then (d, some 0x60)
  else if bs.length == grain p then (store (setEcc (touch_ d p) base none), none)
  else
    match demand d p base with
    | (d, none) => (store d, none)
    | (d, some c) =>
      match p with
      | .scratch _ _ => (if c = 0x61 ∧ ¬ byItem then memEvent d p 0x61 base (ueOf d p) else d, some c)
      | _ => (d, some c)

/-- Write bytes that lie in one chunk of region `k`: a whole chunk is compressed as it is written; for a part of one the agent
reads the chunk, merges and compresses it again (R193, R197). -/
def writeChunk (d : Dev) (k : Nat) (p : Place) (a : Nat) (bs : List Byte) : Dev × Option Nat :=
  if unitFailed d p then (d, some 0x60)
  else
    let d := cmpCheck (touch_ d p) a
    match visitLines p (mergeLines (codeAt d (cmpIndex d k a)) a bs.length) d with
    | (d, some c) => (d, some c)
    | (d, none) =>
      let d := ((List.range 4).map fun l => a / 256 * 256 + 64 * l).foldl (fun d x =>
        if a ≤ x ∧ x + 64 ≤ a + bs.length then setEcc d x none else d) d
      (cmpNote (setBytes d a bs) k a, none)

/-- Write bytes from a DPA, word by word, line by line or chunk by chunk; the first cause of a discarded part stands. -/
def memWrite (d : Dev) (byItem : Bool) : Nat → Nat → List Byte → Dev × Option Nat
  | 0, _, _ => (d, none)
  | fuel + 1, a, bs =>
    if bs.isEmpty then (d, none)
    else
      let p := place d a
      match cmpRegion d a with
      | some k =>
        let take := min bs.length (256 - a % 256)
        let r := writeChunk d k p a (bs.take take)
        let s := memWrite r.1 byItem fuel (a + take) (bs.drop take)
        (s.1, r.2.orElse fun _ => s.2)
      | none =>
        let base := a / grain p * grain p
        let take := min bs.length (base + grain p - a)
        let r := writeUnit d p base a (bs.take take) byItem
        let s := memWrite r.1 byItem fuel (a + take) (bs.drop take)
        (s.1, r.2.orElse fun _ => s.2)

/-- Whether any byte of [a, a+n) is a hole (R172), or, for a unit other than register sources, control window. -/
def touchesHole (d : Dev) (a n : Nat) : Bool :=
  (List.range ((n + 63) / 64 + 1)).any fun j => !isMemory (place d (min (a + 64 * j) (a + n - 1)))

/-! ### The canonical form -/

/-- Bytes of the package and of host memory are listed by strictly rising address, none equal to the zero an unlisted byte reads
as; error states are listed by strictly rising address. -/
def Memory.wf (m : MemSt) : Bool := canonical 0 m.bytes && canonical 0 m.host && rising m.ecc && rising m.flips

/-! ### Atomics (R179) -/

/-- The word an atomic leaves: code, old value, operand, compare operand. -/
def atomicWord (code old operand compare : Nat) : Nat :=
  match code with
  | 0 => (old + operand) % 2 ^ 64
  | 1 => (old + operand) % 2 ^ 64
  | 2 => operand
  | 3 => if old = compare then operand else old
  | 4 => max old operand
  | 5 => min old operand
  | 6 => old &&& operand
  | _ => old ||| operand

/-- Notify the row dispatchers of a registered token's new value (R272 TOKEN_NOTIFY): row, word address, values. -/
def notifyToken (d : Dev) (a old v : Nat) : Dev :=
  match tokenAt d a, place d a with
  | some _, .scratch t _ => onDisp (wake d .mesh) fun s => { s with
      notifies := s.notifies ++ [{ row := tileRow t, addr := a, old := old, new := v, epoch := rd d .meshRouteCtrlEpoch }] }
  | _, _ => d

/-- The value a waiter outside the word's tile sees: a notification on its way has not reached it yet, and one that was discarded
leaves what the last to arrive said (R116, R279). -/
def tokenSeen (d : Dev) (a : Nat) : Option Nat :=
  match tokenAt d a, find? d.disp.stale a, d.disp.notifies.find? fun n => n.addr = a with
  | some _, some v, _ => some v
  | some _, none, some n => some n.old
  | v, _, _ => v

/-- The demand read of an atomic or of a partial write: the word or line, or the chunk it lies in. -/
def atomicRead (d : Dev) (p : Place) (a : Nat) : Dev × Option Nat :=
  match cmpRegion d a with
  | some k =>
    let d := cmpCheck (touch_ d p) a
    visitLines p (mergeLines (codeAt d (cmpIndex d k a)) a 8) d
  | none => demand d p (a / grain p * grain p)

/-- The chunk of an atomic is compressed again. -/
def atomicNote (d : Dev) (a : Nat) : Dev :=
  match cmpRegion d a with
  | some k => cmpNote d k a
  | none => d

/-- Perform an atomic at an aligned DPA of a memory: state, cause, old value. -/
def memAtomic (d : Dev) (code a operand compare : Nat) : Dev × Option Nat × Nat :=
  match atomicRead d (place d a) a with
  | (d, some c) => (d, some c, 0)
  | (d, none) =>
    let old := fromBytes (getBytes d a 8)
    let new := atomicWord code old (operand % 2 ^ 64) (compare % 2 ^ 64)
    let d := setBytes d a (toBytes 8 new)
    let d := notifyToken (shadowNote d a) a old new
    (atomicNote d a, none, old)

end Sys2Proof.Machine
end

