-- ==== Sys2Proof/Machine/Route.lean ====
section
/-!
DEFINITION. Endpoint IDs (R270), crossings and their route banks (R275 to R279), the direction of link groups (R37,
R38), and fabric events (R294).
-/
namespace Sys2Proof.Machine

/-- The dies of R276, as sides of crossings. -/
inductive Side where
  | espalier
  | hedge (q : Nat)
  | laurel
deriving DecidableEq, Repr

/-- The die an endpoint lies on; none for an EID that names no endpoint (R270). -/
def sideOf (e : Nat) : Option Side :=
  if e < 0x480 then some .espalier
  else if 0x800 ≤ e ∧ e < 0x818 then some .espalier
  else if 0x1000 ≤ e ∧ e < 0x1400 ∧ e % 0x100 < 0x28 then some (.hedge ((e - 0x1000) / 0x100))
  else if 0x2000 ≤ e ∧ e < 0x200E then some .laurel
  else none

/-- The crossings a flit passes, each named by the side it leaves. -/
def crossings (a b : Side) : List Nat :=
  match a, b with
  | .espalier, .hedge q => [q]
  | .espalier, .laurel => [8]
  | .hedge q, .espalier => [4 + q]
  | .hedge q, .hedge r => if q = r then [] else [4 + q, r]
  | .hedge q, .laurel => [4 + q, 8]
  | .laurel, .espalier => [9]
  | .laurel, .hedge q => [9, q]
  | _, _ => []

/-- Link groups of a crossing (R276). -/
def groupsOf (c : Nat) : Nat := if c < 8 then 34 else 16

/-- The crossing at the other end of a crossing's link. -/
def otherEnd (c : Nat) : Nat := if c < 4 then c + 4 else if c < 8 then c - 4 else 17 - c

/-- Groups towards a Hedge die: 17 of the 34 until the die first re-balances. -/
def towardHedge (d : Dev) (q : Nat) : Nat := getD d.mesh.toHedge q (2 ^ 17 - 1)

/-- Whether group `g` of crossing `c` carries flits that leave this side. -/
def carries (d : Dev) (c g : Nat) : Bool :=
  if c < 4 then bitOf (towardHedge d c) g && !bitOf (getD d.mesh.reversing c 0) g
  else if c < 8 then !bitOf (towardHedge d (c - 4)) g && !bitOf (getD d.mesh.reversing (c - 4) 0) g
  else if c = 8 then decide (g < 8) else decide (8 ≤ g)

/-- Entry `i` of a bank of a crossing. -/
def routeEntry (d : Dev) (c bank i : Nat) : Nat := rd d .meshRouteTable ((c * 2 + bank) * 1024 + i)

def setRoute (d : Dev) (c bank i v : Nat) : Dev := wr d .meshRouteTable ((c * 2 + bank) * 1024 + i) v

/-- What becomes of a flit on its way: it arrives, a crossing has no route for it (R279), or a crossing delivers it on the near side
(LOCAL, R277), where no endpoint has its EID, so that it is lost. -/
inductive RouteRes where
  | arrives
  | noRoute
  | lost
deriving DecidableEq, Repr

/-- The groups of a crossing a flit for an endpoint may take (R278): set in GROUPS, up, and in its direction. -/
def usableGroups (d : Dev) (epoch dest c : Nat) : List Nat :=
  (List.range (groupsOf c)).filter fun g =>
    bitOf (routeEntry d c epoch (dest / 64)) (8 + g) && bitOf (rd d .meshLinkStatusUp c) g && carries d c g

/-- What a crossing does with a flit for an endpoint (R277 to R279). -/
def crosses (d : Dev) (epoch dest c : Nat) : RouteRes :=
  let e := routeEntry d c epoch (dest / 64)
  if !bitOf e 0 then .noRoute else if bitOf e 1 then .lost else if (usableGroups d epoch dest c).isEmpty then .noRoute else .arrives

/-- A flit passes crossings in turn; the first that does not send it across decides. -/
def passes (d : Dev) (epoch dest : Nat) : List Nat → RouteRes
  | [] => .arrives
  | c :: t => if crosses d epoch dest c = .arrives then passes d epoch dest t else crosses d epoch dest c

/-- What becomes of a flit from its source to its destination; an EID that names no endpoint is refused at a crossing (R275). -/
def routeOf (d : Dev) (epoch src dest : Nat) : RouteRes :=
  match sideOf src, sideOf dest with
  | some a, some b => passes d epoch dest (crossings a b)
  | _, _ => .noRoute

/-- Whether a flit finds a route from its source to its destination. -/
def routed (d : Dev) (epoch src dest : Nat) : Bool := routeOf d epoch src dest == .arrives

/-- The cause that ends a request which does not arrive: 0xC3 from the crossing, 0xC8 when nothing answers (R279, R282). -/
def requestCause (d : Dev) (src dest : Nat) : Option Nat :=
  match routeOf d (rd d .meshRouteCtrlEpoch) src dest with
  | .arrives => none
  | .noRoute => some 0xC3
  | .lost => some 0xC8

/-- A response does not arrive: it is discarded and counted, and the transaction ends by time-out (R279, R282). -/
def responseCause (d : Dev) (src dest : Nat) : Dev × Option Nat :=
  match routeOf d (rd d .meshRouteCtrlEpoch) dest src with
  | .arrives => (d, none)
  | .noRoute => (bump d .meshNoRouteDrops, some 0xC8)
  | .lost => (d, some 0xC8)

/-- The endpoint that serves an address: a tile, an HBM4 stack or a DDR5 channel; for an atomic, the atomic agent. -/
def endpointAt (d : Dev) (a : Nat) (atomic : Bool) : Option Nat :=
  match place d a with
  | .scratch t _ => some t
  | .hbm s => some (0x1000 + 0x100 * (s / 3) + if atomic then 5 else s % 3)
  | .ddr c => some (0x1000 + 0x100 * (c / 2) + if atomic then 5 else 3 + c % 2)
  | _ => none

/-- The group an answer is sent on at the first crossing it meets: one of those it may take, by a hash that the spec does not give, so
a free choice (R278, log 132); none within one die. -/
def pickGroup (d : Dev) (a : MeshAns) : Dev × Option (Nat × Nat) :=
  match sideOf a.from_, sideOf a.src with
  | some x, some y =>
    match crossings x y with
    | [] => (d, none)
    | c :: _ =>
      let us := usableGroups d a.epoch a.src c
      let k := choose d us.length
      match us[k.1]? with
      | some g => (k.2, some (c, g))
      | none => (d, none)
  | _, _ => (d, none)

/-- The flits of an answer: as many READ_DATA flits as its bytes need (R273), else one. -/
def answerFlits (a : MeshAns) : Nat := if a.kind = .readData then max 1 ((a.bytes.length + 31) / 32) else 1

/-- A flit is injected: the mesh wakes, and the Hedge die or the Laurel engines it is addressed to (R484). -/
def inject (d : Dev) (dest : Nat) : Dev :=
  let d := wake d .mesh
  match sideOf dest with
  | some (.hedge q) => wake d (.hedge q)
  | some .laurel => wake d .laurel
  | _ => d

/-- A mesh answer sets out (R272). -/
def sendAnswer (d : Dev) (a : MeshAns) : Dev :=
  let g := pickGroup d a
  onMesh (inject g.1 a.src) fun m => { m with flight := m.flight ++ [{ a with left := answerFlits a, group := g.2 }] }

/-- The answers on a group that goes down are replayed on a group chosen again (R278, R281). -/
def regroup (d : Dev) (c g : Nat) : Dev :=
  let r := d.mesh.flight.foldl (fun (r : Dev × List MeshAns) a =>
    if a.group = some (c, g) then let k := pickGroup r.1 a; (k.1, r.2 ++ [{ a with group := k.2 }]) else (r.1, r.2 ++ [a])) (d, [])
  onMesh r.1 fun m => { m with flight := r.2 }

/-! ### Sources' limits (R285) -/

def limitOf (d : Dev) (src : Nat) : SrcLimit := (find? d.mesh.limits src).getD { limit := rd d .meshCongMaxOut, since := 64 }

/-- A source's transactions without a response: those of the flit rows and its REMOTE transactions. -/
def outstanding (d : Dev) (src : Nat) : Nat := (d.mesh.waiting.filter fun w => w.1 == src).length + getD d.mesh.remoteOut src 0

/-- Whether a source may start one more transaction. -/
def belowLimit (d : Dev) (src : Nat) : Bool := decide (outstanding d src < atLeast1 (limitOf d src).limit)

/-- The blocks of 64 EIDs that hold an endpoint. -/
def eidBlocks : List Nat := List.range 18 ++ [0x20, 0x40, 0x44, 0x48, 0x4C, 0x80]

/-- Whether a block's endpoints lie on the side of a crossing. -/
def blockLocal (c i : Nat) : Bool :=
  match sideOf (64 * i) with
  | some .espalier => decide (c < 4 ∨ c = 8)
  | some (.hedge q) => c == 4 + q
  | some .laurel => c == 9
  | none => false

/-- A default route entry: valid, LOCAL on the endpoint's own side, every group (R464). -/
def defaultEntry (c i : Nat) : Nat := 1 + 2 * bit (blockLocal c i) + (2 ^ groupsOf c - 1) <<< 8

/-- Both banks of every crossing at their default entries, every link group up. -/
def defaultRoutes (d : Dev) : Dev :=
  let d := (List.range 10).foldl (fun d c => wr d .meshLinkStatusUp c (2 ^ groupsOf c - 1)) d
  (List.range 20).foldl (fun d k => eidBlocks.foldl (fun d i => setRoute d (k / 2) (k % 2) i (defaultEntry (k / 2) i)) d) d

/-- A fabric event (R294): SOURCE, where no endpoint of the event is named, is a free value. -/
def fabricEvent (d : Dev) (cause : Nat) (eid : Option Nat) (crossing group counter : Nat) : Dev :=
  let c := match eid with
    | some e => (e, d)
    | none => choose d (2 ^ 16)
  postEq c.2 (rd d .meshEventEq) (entryOf 0x38 0 cause c.1 [(8, crossing), (9, group), (0xC, counter)])

end Sys2Proof.Machine
end

