-- ==== Sys2Proof/Machine/Ports.lean ====
section
/-!
DEFINITION. Writes by units (R48, R120, R176, R182): whose write a store to memory is, and the words of a scratchpad that it loses
to a unit with a lower port number which writes them in the same cycle.
-/
namespace Sys2Proof.Machine

/-! ### The list of work items -/

def itemOf (d : Dev) (uid : Nat) : Option Item := d.disp.items.find? fun x => x.uid = uid

def modItem (d : Dev) (uid : Nat) (f : Item → Item) : Dev :=
  onDisp d fun s => { s with items := s.items.map fun x => if x.uid = uid then f x else x }

/-! ### Scratchpad ports -/

/-- The scratchpad port of a lane's unit (R48); a dispatcher reaches a tile by its mesh remote port. -/
def lanePort : Lane → Nat
  | .move => 0
  | .matrix => 1
  | .vector => 2
  | _ => 3

/-- The work item that writes. -/
def Writer.uid : Writer → Option Nat
  | .item u => some u
  | _ => none

/-- The port a write to tile `t` takes: its unit's own on that unit's tile, the mesh remote port everywhere else. -/
def portAt (d : Dev) (w : Writer) (t : Nat) : Nat :=
  match w.uid.bind (itemOf d) with
  | some it => if it.tile = t then lanePort it.lane else 3
  | none => 3

/-- Whether a unit with a lower port number runs a work item on a tile, so that it may write a word in the same cycle. -/
def contested (d : Dev) (t port : Nat) : Bool :=
  d.disp.items.any fun x => x.phase = .started && x.tile = t && decide (lanePort x.lane < port)

/-- Count a lost word and report the loss (R176): COLLISION of the work item that wrote, or the event 0x65 for direct placement, the
collective engine and another package. -/
def collide (d : Dev) (w : Writer) (src a : Nat) : Dev :=
  match place d a with
  | .scratch t o =>
    let d := onBank d t (bankOf o) fun b => { b with collisions := b.collisions + 1 }
    match w.uid with
    | some u => modItem d u fun y => { y with collision := true }
    | none =>
      if src = 0x2000 ∨ src = 0x2001 then memEvent d (place d a) 0x65 (a / 8 * 8) (bankStat d t (bankOf o)).collisions else d
  | _ => d

/-- Write bytes but for the words that are lost. -/
def writeKept (d : Dev) (byItem : Bool) (lost : List Nat) : Nat → Nat → List Byte → Dev × Option Nat
  | 0, _, _ => (d, none)
  | fuel + 1, a, bs =>
    if bs.isEmpty then (d, none)
    else
      let take := min bs.length (8 - a % 8)
      let w := if lost.contains (a / 8 * 8) then (d, none) else memWrite d byItem take a (bs.take take)
      let r := writeKept w.1 byItem lost fuel (a + take) (bs.drop take)
      (r.1, w.2.orElse fun _ => r.2)

/-- Which of the words of [a, a+n) a unit with a lower port number writes in the same cycle. Commands do not say which cycles they
share, so each word is a free choice (DEDUCED, log 68). -/
def drawLost : Nat → Nat → Nat → Dev → Dev × List Nat
  | 0, _, _, d => (d, [])
  | fuel + 1, a, n, d =>
    if n = 0 then (d, [])
    else
      let c := choose d 2
      let take := min n (8 - a % 8)
      let r := drawLost fuel (a + take) (n - take) c.2
      (r.1, if c.1 = 0 then r.2 else a / 8 * 8 :: r.2)

/-- A unit's plain write at a DPA: whole, but in a scratchpad where a unit with a lower port number runs, words may be lost. -/
def memStore (d : Dev) (w : Writer) (src a : Nat) (bs : List Byte) : Dev × Option Nat :=
  match place d a with
  | .scratch t _ =>
    if contested d t (portAt d w t) then
      let l := drawLost (bs.length + 1) a bs.length d
      let d := l.2.foldl (fun d x => collide d w src x) l.1
      writeKept d w.uid.isSome l.2 (bs.length + 1) a bs
    else memWrite d w.uid.isSome bs.length a bs
  | _ => memWrite d w.uid.isSome bs.length a bs

end Sys2Proof.Machine
end

