-- ==== Sys2Proof/Machine/Xlate.lean ====
section
/-!
DEFINITION. Device page tables: the walk and its re-walk (R201 to R209), the translation caches and slices (R210,
R211), invalidation stalls (R226), footprints (R214), and accesses made for a partition to the DPA or HPA a
translation gives (R172, R213, R259, R260, R274, R440).
-/
namespace Sys2Proof.Machine

/-- Kinds of access (R204). -/
inductive Kind where
  | read
  | write
  | atomic
deriving DecidableEq, Repr

/-- The code of an access in a fault record (R218). -/
def accessCode : Kind → Nat
  | .read => 0
  | .write => 1
  | .atomic => 2

/-- The answer of a translation: an output address, a failure (cause, level, entry flags), or a stall (R226). -/
inductive XRes where
  | ok (host : Bool) (addr : Nat)
  | fail (cause level flags : Nat)
  | stall
deriving DecidableEq, Repr

/-- Who translates and accesses memory: a tile's engines or the transport engine, each with a cache of its own (R210), or another
endpoint, by its EID (R270). -/
inductive Agent where
  | tile (t : Nat)
  | transport
  | at_ (eid : Nat)
deriving DecidableEq, Repr

def Agent.cache : Agent → Option CacheId
  | .tile t => some (.tile t)
  | .transport => some .transport
  | .at_ _ => none

def Agent.eid : Agent → Nat
  | .tile t => t
  | .transport => 0x2000
  | .at_ e => e

/-- The always-on domain, which acts for CQ, EQ and command-queue accesses (R270). -/
def device : Agent := .at_ 0x2005

/-- The collective engine. -/
def collAgent : Agent := .at_ 0x2001

/-- A row's dispatcher. -/
def rowAgent (row : Nat) : Agent := .at_ (0x800 + row)

/-- Index shift of a level: 42, 29, 16. -/
def lvlShift (lvl : Nat) : Nat := 16 + 13 * (3 - lvl)

/-- Output address bits [63:16] of an entry, in place. -/
def pteOa (e : Nat) : Nat := e >>> 16 <<< 16

/-- Malformed entries (R203), for an entry with V = 1. -/
def pteMalformed (e lvl : Nat) : Bool :=
  let leaf := bitOf e 1
  cut e 7 5 != 0
  || (!leaf && cut e 2 5 != 0)
  || (!leaf && lvl == 3)
  || (leaf && lvl == 1 && cut e 16 26 != 0)
  || (leaf && lvl == 2 && cut e 16 13 != 0)
  || (leaf && !bitOf e 6 && cut e 48 16 != 0)
  || (leaf && bitOf e 4 && !(bitOf e 2 && bitOf e 3))
  || (leaf && bitOf e 4 && bitOf e 6)

/-- Whether a leaf permits an access (R204). -/
def permitted (e : Nat) : Kind → Bool
  | .read => bitOf e 2
  | .write => bitOf e 3
  | .atomic => bitOf e 4

/-- The cause of a denied access (R207). -/
def deniedCause : Kind → Nat
  | .read => 0x02
  | .write => 0x03
  | .atomic => 0x04

/-! ### Eligible sets and slices (R211) -/

/-- The Hedge dies a partition may use for lookups. -/
def eligible (d : Dev) (p : Nat) : List Nat :=
  let mask := fun q => if isSet d .yewSealStatusSealed p then bitOf (rd d .partSealCfgHedge p) q
    else (List.range 64).all fun o => !(isSet d .yewSealStatusSealed o && bitOf (rd d .partSealCfgHedge o) q)
  (List.range 4).filter fun q => mask q && !d.mem.hedgeFailed.contains q

/-- The slice a lookup goes to. -/
def sliceOf (d : Dev) (p dva : Nat) : Option Nat :=
  let set := eligible d p
  let h := cut dva 29 2 ^^^ cut dva 31 2 ^^^ p % 4
  if set.isEmpty then none else set[h % set.length]?

/-- The entries of every partition leave the slices that are not, or no longer, in its eligible set (R211). -/
def dropIneligible (d : Dev) : Dev :=
  let sets := (List.range 64).map (eligible d)
  let stays := fun (e : TlbEntry) => match e.cache with
    | .sliceLeaf q => (sets.getD e.part []).contains q
    | .sliceTable q => (sets.getD e.part []).contains q
    | _ => true
  onXl d fun s => { s with tlb := s.tlb.filter stays }

/-! ### Caches (R210) -/

def cacheSize : CacheId → Nat
  | .tile _ => 64
  | .transport => 4096
  | .sliceLeaf _ => 16384
  | .sliceTable _ => 1024

/-- The cached entry of a partition that covers a DVA. -/
def tlbFind (d : Dev) (c : CacheId) (p dva : Nat) : Option TlbEntry :=
  d.xl.tlb.find? fun e => e.cache = c ∧ e.part = p ∧ e.tag = dva >>> lvlShift e.level

/-- The cached table entry of one level. -/
def tlbTable (d : Dev) (q p lvl dva : Nat) : Option Nat :=
  (d.xl.tlb.find? fun e => e.cache = .sliceTable q ∧ e.part = p ∧ e.level = lvl ∧ e.tag = dva >>> lvlShift lvl).map (·.pte)

/-- Drop element `i`. -/
def dropAt {α : Type} (l : List α) (i : Nat) : List α := l.take i ++ l.drop (i + 1)

/-- Whether two entries compete for the room of a cache: in one that partitions share, a sealed one's share is apart (R449). -/
def sameRoom (d : Dev) (e x : TlbEntry) : Bool :=
  x.cache == e.cache && match e.cache with
    | .tile _ => true
    | _ => samePool d e.part x.part

/-- Entries of a cache that a partition may hold. -/
def cacheRoom (d : Dev) (c : CacheId) (p : Nat) : Nat := match c with
  | .tile _ => cacheSize c
  | _ => tableMax d (cacheSize c) p

/-- Put an entry into its cache, in place of the same entry, or of a victim of the design's choice where the room is full. -/
def tlbPut (d : Dev) (e : TlbEntry) : Dev :=
  let rest := d.xl.tlb.filter fun x => ¬ (x.cache = e.cache ∧ x.part = e.part ∧ x.level = e.level ∧ x.tag = e.tag)
  let mine := rest.filter (sameRoom d e)
  if mine.length < cacheRoom d e.cache e.part then onXl d fun s => { s with tlb := e :: rest }
  else
    let c := choose d mine.length
    onXl c.2 fun s => { s with tlb := e :: (rest.filter fun x => !sameRoom d e x) ++ dropAt mine c.1 }

/-- Drop every cached entry a DVA would meet, before the re-walk's own entries replace them (R209). -/
def tlbForget (d : Dev) (p dva : Nat) : Dev :=
  onXl d fun s => { s with tlb := s.tlb.filter fun e => ¬ (e.part = p ∧ e.tag = dva >>> lvlShift e.level) }

/-! ### The walk (R207) -/

/-- What keeps a request of endpoint `src` from the endpoint of a DPA: no route. -/
def noWay (d : Dev) (src a : Nat) : Option Nat := (endpointAt d a false).bind (requestCause d src)

/-- A walk's answer: the leaf entry and its level with the table entries read, or a failure. -/
inductive WRes where
  | leaf (pte level : Nat) (tables : List (Nat × Nat))
  | fail (cause level flags : Nat)
deriving DecidableEq, Repr

/-- Walk from level `lvl` with table address `t`; `prev` is the entry that held the pointer. A table that no route of the walker
reaches cannot be read (DEDUCED, log 131). Table entries of the
slice's cache are used only when `cached`. -/
def walkFrom (q p dva : Nat) (kind : Kind) (needPin cached : Bool) : Nat → Nat → Nat → Nat → Dev → Dev × WRes
  | 0, _, _, _, d => (d, .fail 0x06 3 0)
  | fuel + 1, lvl, t, prev, d =>
    if !isDram d t then (d, .fail 0x07 lvl (if lvl = 1 then 0 else prev % 2 ^ 16))
    else
      let a := t + (dva >>> lvlShift lvl) % 8192 * 8
      let got : Dev × Option Nat × Nat := match if cached then tlbTable d q p lvl dva else none with
        | some e => (d, none, e)
        | none =>
          match noWay d (0x1008 + 0x100 * q) a with
          | some c => (d, some c, 0)
          | none => let r := memRead d a 8; (r.1, r.2.1, fromBytes r.2.2)
      match got with
      | (d, some _, _) => (d, .fail 0x08 lvl 0)
      | (d, none, e) =>
        if !bitOf e 0 then (d, .fail 0x01 lvl (e % 2 ^ 16))
        else if pteMalformed e lvl then (d, .fail 0x06 lvl (e % 2 ^ 16))
        else if bitOf e 1 then
          if !permitted e kind then (d, .fail (deniedCause kind) lvl (e % 2 ^ 16))
          else if needPin && !bitOf e 5 then (d, .fail 0x01 lvl (e % 2 ^ 16))
          else (d, .leaf e lvl [])
        else
          match walkFrom q p dva kind needPin cached fuel (lvl + 1) (pteOa e) e d with
          | (d, .leaf e' l' ts) => (d, .leaf e' l' ((lvl, e) :: ts))
          | r => r

/-- Whether a partition has page tables: PT_BASE.EN, and not stopped (R504). -/
def tablesOn (d : Dev) (p : Nat) : Bool := isSet d .xlatePtBaseEn p && !d.xl.stopped.contains p

/-- One walk from PT_BASE, counted in XLATE.WALKS. -/
def walk (d : Dev) (q p dva : Nat) (kind : Kind) (needPin cached : Bool) : Dev × WRes :=
  walkFrom q p dva kind needPin cached 3 1 (rd d .xlatePtBaseBase p * 65536) 0 (bump d .xlateWalks)

/-- The output of a leaf. -/
def leafOut (e lvl dva : Nat) : XRes := .ok (bitOf e 6) (pteOa e + dva % 2 ^ lvlShift lvl)

/-- Cache a successful walk in the engine's cache, if it has one, and in the slice. -/
def cacheWalk (d : Dev) (c : Option CacheId) (q p dva pte lvl : Nat) (ts : List (Nat × Nat)) : Dev :=
  let d := ts.foldl (fun d te => tlbPut d { cache := .sliceTable q, part := p, level := te.1, tag := dva >>> lvlShift te.1, pte := te.2 }) d
  let d := tlbPut d { cache := .sliceLeaf q, part := p, level := lvl, tag := dva >>> lvlShift lvl, pte := pte }
  match c with
  | some c => tlbPut d { cache := c, part := p, level := lvl, tag := dva >>> lvlShift lvl, pte := pte }
  | none => d

/-- Whether an invalidation in progress covers a page of a partition (R226). -/
def invalCovers (d : Dev) (p dva : Nat) : Bool :=
  d.xl.invals.any fun v => v.part = p && (v.whole || decide (v.firstPage ≤ dva / 65536 ∧ dva / 65536 < v.firstPage + v.pages))

/-- Count a lookup that an invalidation stalls: once, however often the stalled access is tried again (R226). -/
def noteStall (d : Dev) (k : Lookup) : Dev :=
  if d.xl.lookups.contains k then d else bump (onXl d fun s => { s with lookups := k :: s.lookups }) .xlateInvalStalls

/-- Translate one DVA of a partition (R207 to R211, R213): engine cache, slice, walk, and before any failure at level
1 to 3 a second walk from memory alone. -/
def xlate (d : Dev) (who : Agent) (p dva : Nat) (kind : Kind) (needPin : Bool) : Dev × XRes :=
  if dva ≥ 2 ^ 55 then (d, .fail 0x05 0 0)
  else if invalCovers d p dva then (noteStall d { src := who.eid, part := p, dva := dva, access := accessCode kind }, .stall)
  else
    let c := who.cache
    let good := fun (e : TlbEntry) => permitted e.pte kind && (!needPin || bitOf e.pte 5)
    let engine := match c with
      | some c => tlbFind d c p dva
      | none => none
    match engine with
    | some e =>
      if good e then (d, leafOut e.pte e.level dva) else again d
    | none =>
      match sliceOf d p dva with
      | none => if tablesOn d p then (d, .fail 0x07 1 0) else (d, .fail 0x09 0 0)
      | some q =>
        match tlbFind d (.sliceLeaf q) p dva with
        | some e =>
          if good e then
            (match c with
             | some c => tlbPut d { e with cache := c }
             | none => d, leafOut e.pte e.level dva)
          else again d
        | none =>
          if !tablesOn d p then (d, .fail 0x09 0 0)
          else
            match walk d q p dva kind needPin true with
            | (d, .leaf pte lvl ts) => (cacheWalk d c q p dva pte lvl ts, leafOut pte lvl dva)
            | (d, .fail _ _ _) => again d
where
  /-- The second walk of R209. -/
  again (d : Dev) : Dev × XRes :=
    if !tablesOn d p then (d, .fail 0x09 0 0)
    else
      match sliceOf d p dva with
      | none => (d, .fail 0x07 1 0)
      | some q =>
        match walk d q p dva kind needPin false with
        | (d, .leaf pte lvl ts) => (cacheWalk (tlbForget d p dva) who.cache q p dva pte lvl ts, leafOut pte lvl dva)
        | (d, .fail x l f) => (d, .fail x l f)

/-- A piece of an output range: in host memory or not, address, bytes, and the EID whose access it is. -/
structure Seg where
  host : Bool
  addr : Nat
  len : Nat
  src : Nat
deriving DecidableEq, Repr

/-- The answer for a footprint: its pieces in order, the failure of its lowest failing page, or a stall. -/
inductive FRes where
  | ok (segs : List Seg)
  | fail (page cause level flags : Nat)
  | stall
deriving DecidableEq, Repr

/-- Translate every page of [dva, dva+len) before any access (R214). -/
def footprint (c : Agent) (p : Nat) (kind : Kind) (needPin : Bool) : Nat → Nat → Nat → Dev → Dev × FRes
  | 0, _, _, d => (d, .ok [])
  | fuel + 1, dva, len, d =>
    if len = 0 then (d, .ok [])
    else
      let take := min len (65536 - dva % 65536)
      match xlate d c p dva kind needPin with
      | (d, .stall) => (d, .stall)
      | (d, .fail x l f) => (d, .fail (dva / 65536 * 65536) x l f)
      | (d, .ok h a) =>
        match footprint c p kind needPin fuel (dva + take) (len - take) d with
        | (d, .ok segs) => (d, .ok ({ host := h, addr := a, len := take, src := c.eid } :: segs))
        | r => r

/-- A whole range's footprint. -/
def translate (d : Dev) (c : Agent) (p dva len : Nat) (kind : Kind) (needPin : Bool) : Dev × FRes :=
  footprint c p kind needPin (len / 65536 + 2) dva len d

/-- Translate several ranges, given in rising order, as one footprint. -/
def translateAll (c : Agent) (p : Nat) (kind : Kind) (needPin : Bool) : List (Nat × Nat) → Dev → Dev × Except FRes (List (List Seg))
  | [], d => (d, .ok [])
  | r :: t, d =>
    match translate d c p r.1 r.2 kind needPin with
    | (d, .ok s) =>
      match translateAll c p kind needPin t d with
      | (d, .ok l) => (d, .ok (s :: l))
      | x => x
    | (d, x) => (d, .error x)

/-- The pieces of `n` bytes from byte `o` of a translated range. -/
def cutSegs : List Seg → Nat → Nat → List Seg
  | [], _, _ => []
  | s :: t, o, n =>
    if n = 0 then []
    else if s.len ≤ o then cutSegs t (o - s.len) n
    else let k := min n (s.len - o); { s with addr := s.addr + o, len := k } :: cutSegs t 0 (n - k)

/-! ### Accesses made for a partition -/

/-- Whether a Hedge die refuses a partition's access across a sealed boundary (R440). -/
def sealRefuses (d : Dev) (p a : Nat) : Bool :=
  match place d a with
  | .hbm _ => cross (dieOf (place d a))
  | .ddr _ => cross (dieOf (place d a))
  | _ => false
where
  cross (q : Nat) : Bool :=
    (isSet d .yewSealStatusSealed p && !bitOf (rd d .partSealCfgHedge p) q)
    || (List.range 64).any fun o => o ≠ p && isSet d .yewSealStatusSealed o && bitOf (rd d .partSealCfgHedge o) q

/-- Whether a tile's mesh remote port refuses a partition's access (R274). -/
def tileRefuses (d : Dev) (p a : Nat) : Bool :=
  match place d a with
  | .scratch t _ => tileOwner d t ≠ some p
  | _ => false

/-- Whether a tile is being replaced without a copy: its port 3 refuses every request until the spare stands in (R507). -/
def tileAbsent (d : Dev) (a : Nat) : Bool :=
  match place d a with
  | .scratch t _ => (find? d.safe.swaps t).any fun w => !w.copy && !w.taken
  | _ => false

/-- The check a request of endpoint `src` for a partition meets on its way to a DPA: hole, no route, foreign tile, sealed boundary,
a tile that is away. A request that leaves its endpoint is injected (R484). Accesses of the always-on domain for P0 pass tiles and boundaries (R270, R274, R440). -/
def reach (d : Dev) (src p a n : Nat) : Dev × Option Nat :=
  if touchesHole d a n then (d, some 0x64)
  else
    let d := match endpointAt d a false with
      | some e => if e = src then d else inject d e
      | none => d
    if (noWay d src a).isSome then (d, noWay d src a)
    else if tileAbsent d a then (d, some 0xEC)
    else if src = 0x2005 ∧ p = 0 then (d, none)
    else if tileRefuses d p a then (bump d .meshCrossPartRefused, some 0xC7)
    else if sealRefuses d p a then (bump d .yewSealRefused, some 0x8A)
    else (d, none)

/-- Whether a module of the host link is up. -/
def moduleUp (d : Dev) (m : Nat) : Bool := if m = 0 then rd d .hlStatusMod0 != 0 else rd d .hlStatusMod1 != 0

/-- Whether host memory can be reached: attached to a host with a module up. -/
def hostUp (d : Dev) : Bool := moduleUp d 0 || moduleUp d 1

def attached (d : Dev) : Bool := isSet d .hlStatusAttached

/-- The module a data access to an HPA uses (R234). -/
def hpaModule (d : Dev) (a : Nat) : Nat :=
  if moduleUp d 0 && moduleUp d 1 then cut a 12 1 else if moduleUp d 0 then 0 else 1

/-- The peer window an HPA lies in (R258). -/
def peerWindow (d : Dev) (a : Nat) : Option Nat :=
  (List.range 8).find? fun i =>
    let l := rd d .hlPeerWinLog2Size i
    let b := rd d .hlPeerWinBase i * 4096
    decide (12 ≤ l ∧ l ≤ 50 ∧ b ≤ a ∧ a < b + 2 ^ l)

/-- Add a write to a list of unflushed writes. -/
def noteDirty (l : List Dirty) (x : Dirty) : List Dirty := if l.contains x then l else x :: l

/-- An operation's data write has gone to a 4 KiB block of host memory: the module and peer window that a flush must cover. -/
def dirtyBlock (d : Dev) (x : Dirty) (a : Nat) : Dev :=
  let x := { x with module := hpaModule d a }
  onHl d fun h => { h with
    dirty := noteDirty h.dirty x
    peerDirty := match peerWindow d a with
      | some i => noteDirty h.peerDirty { x with peer := i }
      | none => h.peerDirty }

/-- An operation's data write of `n` bytes has gone to host memory, block by block (R234, R255). -/
def dirtied (d : Dev) (w : Writer) (p a n : Nat) : Dev :=
  if w = .other then d
  else
    let x : Dirty := { by_ := w, part := p, ring := ((w.uid.bind (itemOf d)).map (·.ring)).getD 0, module := 0 }
    (List.range ((a % 4096 + n + 4095) / 4096)).foldl (fun d j => dirtyBlock d x (a / 4096 * 4096 + 4096 * j)) d

/-- The EID of a host-link module. -/
def moduleEid (m : Nat) : Nat := 0x2003 + m

/-- Whether the host answers an access with Unsupported Request, Completer Abort or poisoned data (R265). -/
def hostRefuses (d : Dev) (a n : Nat) : Bool := d.hl.refusing.any fun r => decide (a < r.1 + r.2 ∧ r.1 < a + n)

/-- What an access of endpoint `src` to host memory meets (R260, R265, R279): the host detached, no route, an error of the host. -/
def hostReach (d : Dev) (src m a n : Nat) : Dev × Option Nat :=
  if !attached d then (bump d .hlHpaDiscards, some 0xE3)
  else
    match requestCause d src (moduleEid m) with
    | some c => (d, some c)
    | none => (d, if hostRefuses d a n then some 0xE6 else none)

/-- The end of an access whose request has arrived: its response comes back, or the transaction times out (R279, R282). -/
def answered {α : Type} (src dest : Nat) (r : Dev × Option Nat × α) : Dev × Option Nat × α :=
  let b := responseCause r.1 src dest
  (b.1, b.2.orElse (fun _ => r.2.1), r.2.2)

/-- Read one piece for a partition: state, cause, bytes. A host piece fails with 0xE3 while detached (R260). -/
def segRead (d : Dev) (p : Nat) (s : Seg) : Dev × Option Nat × List Byte :=
  if s.host then
    let m := hpaModule d s.addr
    match hostReach d s.src m s.addr s.len with
    | (d, some c) => (d, some c, List.replicate s.len 0)
    | (d, none) => answered s.src (moduleEid m) (d, none, readSparse d.mem.host s.addr s.len)
  else
    match reach d s.src p s.addr s.len with
    | (d, some c) => (d, some c, List.replicate s.len 0)
    | (d, none) => answered s.src ((endpointAt d s.addr false).getD 0) (memRead d s.addr s.len)

/-- Read pieces in order; the first cause stands. -/
def segsRead (d : Dev) (p : Nat) : List Seg → Dev × Option Nat × List Byte
  | [] => (d, none, [])
  | s :: t =>
    let r := segRead d p s
    let u := segsRead r.1 p t
    (u.1, r.2.1.orElse (fun _ => u.2.1), r.2.2 ++ u.2.2)

/-- Write bytes to host memory on a module. -/
def hostWrite (d : Dev) (src m a : Nat) (bs : List Byte) : Dev × Option Nat :=
  match hostReach d src m a bs.length with
  | (d, some c) => (d, some c)
  | (d, none) =>
    let d := onMem d fun x => { x with host := writeSparse x.host a bs }
    let r := answered src (moduleEid m) (d, none, ())
    (r.1, r.2.1)

/-- Write one piece for a partition. -/
def segWrite (d : Dev) (p : Nat) (w : Writer) (s : Seg) (bs : List Byte) : Dev × Option Nat :=
  if s.host then
    match hostWrite d s.src (hpaModule d s.addr) s.addr bs with
    | (d, none) => (dirtied d w p s.addr bs.length, none)
    | r => r
  else
    match reach d s.src p s.addr s.len with
    | (d, some c) => (d, some c)
    | (d, none) =>
      let x := memStore d w s.src s.addr bs
      let r := answered s.src ((endpointAt x.1 s.addr false).getD 0) (x.1, x.2, ())
      (r.1, r.2.1)

/-- Write pieces in order; the first cause stands. -/
def segsWrite (d : Dev) (p : Nat) (w : Writer) : List Seg → List Byte → Dev × Option Nat
  | [], _ => (d, none)
  | s :: t, bs =>
    let r := segWrite d p w s (bs.take s.len)
    let u := segsWrite r.1 p w t (bs.drop s.len)
    (u.1, r.2.orElse fun _ => u.2)

/-- Read bytes at a DPA that the device itself names, for endpoint `src` (R172, R279): a hole, no route, poison, or the bytes. -/
def dpaRead (d : Dev) (src a n : Nat) : Dev × Option Nat × List Byte :=
  if touchesHole d a n then (d, some 0x64, List.replicate n 0)
  else
    match noWay d src a with
    | some c => (d, some c, List.replicate n 0)
    | none => answered src ((endpointAt d a false).getD 0) (memRead d a n)

/-- Write bytes at a DPA that the device itself names. -/
def dpaWrite (d : Dev) (src a : Nat) (bs : List Byte) : Dev × Option Nat :=
  if touchesHole d a bs.length then (d, some 0x64)
  else
    match noWay d src a with
    | some c => (d, some c)
    | none =>
      let w := memWrite d false bs.length a bs
      let r := answered src ((endpointAt w.1 a false).getD 0) (w.1, w.2, ())
      (r.1, r.2.1)

/-- Whether any piece is a host piece that must wait because no module is up and the host is still attached (R259). -/
def mustWait (d : Dev) (segs : List Seg) : Bool := segs.any (·.host) && attached d && !hostUp d

/-- The answer of a partition's access by DVA. -/
inductive ARes where
  | ok (bs : List Byte)
  | xfail (page cause level flags : Nat)
  | mfail (cause : Nat)
  | wait
deriving DecidableEq, Repr

/-- Read a DVA range for a partition. -/
def dvaRead (d : Dev) (c : Agent) (p dva len : Nat) (needPin : Bool) : Dev × ARes :=
  match translate d c p dva len .read needPin with
  | (d, .stall) => (d, .wait)
  | (d, .fail pg x l f) => (d, .xfail pg x l f)
  | (d, .ok segs) =>
    if mustWait d segs then (d, .wait)
    else
      match segsRead d p segs with
      | (d, some x, _) => (d, .mfail x)
      | (d, none, bs) => (d, .ok bs)

/-- Write a DVA range for a partition. -/
def dvaWrite (d : Dev) (c : Agent) (p dva : Nat) (bs : List Byte) (needPin : Bool) (w : Writer) : Dev × ARes :=
  match translate d c p dva bs.length .write needPin with
  | (d, .stall) => (d, .wait)
  | (d, .fail pg x l f) => (d, .xfail pg x l f)
  | (d, .ok segs) =>
    if mustWait d segs then (d, .wait)
    else
      match segsWrite d p w segs bs with
      | (d, some x) => (d, .mfail x)
      | (d, none) => (d, .ok [])

end Sys2Proof.Machine
end

