-- ==== Sys2Proof/Machine/HostQ.lean ====
section
/-!
DEFINITION. Completion and event queues (R245 to R253), the flush reads of the visibility domains (R255), the fetch
procedure every queue follows (R241 to R244, R560), and how a command's meaning answers.
-/
namespace Sys2Proof.Machine

/-! ### Flushes (R255) -/

/-- The flush read of a module covers every write it carried before (R255). -/
def flushModule (d : Dev) (m : Nat) : Dev :=
  let d := emit d (.flushRead m (rd d .hlFlushHpa))
  onHl d fun h => { h with dirty := h.dirty.filter fun x => x.module ≠ m }

/-- The flush read of a peer window on a module. -/
def flushPeer (d : Dev) (m i : Nat) : Dev :=
  let d := emit d (.flushRead m (rd d .hlPeerWinBase i * 4096))
  onHl d fun h => { h with peerDirty := h.peerDirty.filter fun x => ¬ (x.module = m ∧ x.peer = i) }

/-- Make the flush reads that a domain requires for the writes `covers` picks: on each module that carried some since its last
flush, and in domains 1 and 2 for each peer window they went to. -/
def flush (d : Dev) (domain : Nat) (covers : Dirty → Bool) : Dev :=
  let d := (((d.hl.dirty.filter covers).map (·.module)).eraseDups).foldl flushModule d
  if domain = 0 then d
  else (((d.hl.peerDirty.filter covers).map fun x => (x.module, x.peer)).eraseDups).foldl (fun d x => flushPeer d x.1 x.2) d

/-! ### Writing an entry -/

/-- Write one piece of an entry: to host memory on CFG_MODULE (R234, R254). -/
def entryPiece (d : Dev) (p : Nat) (s : Seg) (bs : List Byte) : Dev × Option Nat :=
  if s.host then hostWrite d s.src (rd d .hlStatusCfgModule) s.addr bs else segWrite d p .other s bs

/-- Write 32 bytes of an entry for the queue's owner; it lies in one page, by its alignment. -/
def entryWrite (d : Dev) (p dva : Nat) (e : Entry) : Dev × ARes :=
  match translate d device p dva 32 .write true with
  | (d, .stall) => (d, .wait)
  | (d, .fail pg x l f) => (d, .xfail pg x l f)
  | (d, .ok segs) =>
    if mustWait d segs then (d, .wait)
    else
      match segs with
      | [s] =>
        match entryPiece d p s (toBytes 32 e.toNat) with
        | (d, some x) => (d, .mfail x)
        | (d, none) => (d, .ok [])
      | _ => (d, .mfail 0x64)

/-- The phase of queue index `j` (R241, R246). -/
def phaseAt (j log2 : Nat) : Nat := 1 - (j >>> log2) % 2

/-- Stop an EQ (R252): state 2 with a cause. -/
def eqStop (d : Dev) (e cause : Nat) : Dev := wr (wr d .eqState e 2) .eqLastCause e cause

/-- Stop a CQ (R250): state 2 with a cause, the entry counted lost, the event sent to the CQ's EQ. -/
def cqStop (d : Dev) (c cause : Nat) : Dev :=
  let d := bump (wr (wr d .cqState c 2) .cqLastCause c cause) .cqLost c
  postEq d (rd d .cqEq c) (entryOf 7 (rd d .cqPartition c) cause c [(8, rd d .cqLost c)])

/-- Put an entry into an EQ's next slot. -/
def eqPut (d : Dev) (e : Nat) (x : Entry) : Dev × ARes :=
  let j := rd d .eqProducer e
  let l := rd d .eqLog2Size e
  match entryWrite d (rd d .eqPartition e) (rd d .eqBase e * 4096 + j % 2 ^ l * 32) (x ||| BitVec.ofNat 256 (phaseAt j l)) with
  | (d, .ok b) => (bump d .eqProducer e, .ok b)
  | r => r

/-- Deliver one entry to an EQ (R252); the flag is false when it must wait. -/
def eqDeliver (d : Dev) (e : Nat) (x : Entry) : Dev × Bool :=
  if rd d .eqState e != 1 then (bump d .eqLost e, true)
  else
    let free := 2 ^ rd d .eqLog2Size e - (rd d .eqProducer e + 2 ^ 32 - rd d .eqConsumer e) % 2 ^ 32
    if free ≤ 1 then
      let lost := (rd d .eqLost e + 1) % 2 ^ 32
      match eqPut d e (entryOf 7 (rd d .eqPartition e) 0xE2 e [(8, lost)]) with
      | (d, .wait) => (d, false)
      | (d, .ok _) => (eqStop (bump d .eqLost e) e 0xE2, true)
      | (d, _) => (eqStop (bump d .eqLost e) e 0xE1, true)
    else
      match eqPut d e x with
      | (d, .wait) => (d, false)
      | (d, .ok _) => (d, true)
      | (d, _) => (eqStop (bump d .eqLost e) e 0xE1, true)

/-- An armed CQ whose producer has moved past the armed index notifies its EQ and disarms (R250). -/
def cqNotify (d : Dev) (c : Nat) : Dev :=
  if isSet d .cqArmed c && rd d .cqProducer c != getD d.hl.cqArmIndex c 0 then
    postEq (wr d .cqArmed c 0) (rd d .cqEq c) (entryOf 6 (rd d .cqPartition c) 0 c [])
  else d

/-- Deliver one entry to a CQ (R250, R255): the writes of the operation that completes are made visible first. -/
def cqDeliver (d : Dev) (c : Nat) (x : Entry) (op : Writer) : Dev × Bool :=
  if rd d .cqState c != 1 then (bump d .cqLost c, true)
  else
    let l := rd d .cqLog2Size c
    let j := rd d .cqProducer c
    if (j + 2 ^ 32 - rd d .cqConsumer c) % 2 ^ 32 = 2 ^ l then (cqStop d c 0xE0, true)
    else
      let p := rd d .cqPartition c
      let d := flush d (rd d .cqDomain c) fun w => w.by_ == op
      match entryWrite d p (rd d .cqBase c * 4096 + j % 2 ^ l * 32) (x ||| BitVec.ofNat 256 (phaseAt j l)) with
      | (d, .wait) => (d, false)
      | (d, .ok _) => (cqNotify (bump d .cqProducer c) c, true)
      | (d, _) => (cqStop d c 0xE1, true)

/-- Whether an invalidation in progress still stalls an entry that has waited for one: it is not looked up again until then. -/
def entryStalled (d : Dev) (q : QEntry) : Bool :=
  q.stalled &&
  if q.toEq then invalCovers d (rd d .eqPartition q.num) (rd d .eqBase q.num * 4096 + rd d .eqProducer q.num % 2 ^ rd d .eqLog2Size q.num * 32)
  else invalCovers d (rd d .cqPartition q.num) (rd d .cqBase q.num * 4096 + rd d .cqProducer q.num % 2 ^ rd d .cqLog2Size q.num * 32)

/-- Deliver waiting entries in production order until none is left or the first must wait. -/
def deliverN : Nat → Dev → Dev
  | 0, d => d
  | fuel + 1, d =>
    match d.hl.entries with
    | [] => d
    | q :: t =>
      if entryStalled d q then d else
      let d' := onHl d fun h => { h with entries := t }
      let r := if q.toEq then eqDeliver d' q.num q.entry else cqDeliver d' q.num q.entry q.op
      if r.2 then deliverN fuel r.1
      else onHl r.1 fun h => { h with entries := { q with stalled := true } :: h.entries }

/-- Deliver what is waiting, and what that delivery itself sends. -/
def deliver (d : Dev) : Dev := deliverN (4 * d.hl.entries.length + 16) d

/-! ### Fault events (R514) -/

/-- Send a fault event (TYPE 0x40) or replay event (0x41): partition concerned (R245), die, cause, class, region, unit,
detail, journal entries run, work items lost; SEQ counts them and LAST_RECORD keeps the last. -/
def safetyEvent (d : Dev) (ty part die cause cls region unit detail run lost : Nat) : Dev :=
  let d := bump d .safetyFaultSeq
  let e := entryOf ty part cause die [(8, cls), (9, region), (0xA, unit % 2 ^ 16), (0xC, rd d .safetyFaultSeq),
    (0x10, detail % 2 ^ 64), (0x18, min run 65535), (0x1A, min lost 65535)]
  let d := (List.range 4).foldl (fun d i => wr d .safetyLastRecord i (cut e.toNat (64 * i) 64)) d
  postEq d (rd d .safetyEventEq) e

/-- A fault event of no replay. -/
def faultEvent (d : Dev) (part die cause cls region unit detail : Nat) : Dev :=
  safetyEvent d 0x40 part die cause cls region unit detail 0 0

/-- A voted word in memory without a majority (R503). -/
def voteLostAt (d : Dev) (dpa : Nat) : Dev := faultEvent (bump d .safetyVoteLosses) 0 5 0xEE 22 0 0 dpa

/-- Set a bit of GLOBAL.MGMT_ALERT.PENDING (R546). -/
def alert (d : Dev) (i : Nat) : Dev := wr d .mgmtAlertPending 0 (rd d .mgmtAlertPending ||| 2 ^ i)

/-! ### How a meaning answers -/

/-- The answer of an event inside the block: its effect where it can arise, otherwise not enabled. -/
def act (s : State) (name : String) (enabled : Bool) (effect : Dev) : Host.Outcome State Fault Refusal :=
  if enabled then .next { s with dev := deliver effect } else .fault (.notEnabled name)

/-- The answer of a command from outside: its effect, unless its operands name no object. -/
def cmd (s : State) (name : String) (exists_ : Bool) (effect : Dev) : Host.Outcome State Fault Refusal :=
  if exists_ then .next { s with dev := deliver effect } else .fault (.noSuchObject name)

/-- The answer of an event of a unit that must exist. -/
def evt (s : State) (name : String) (exists_ enabled : Bool) (effect : Dev) : Host.Outcome State Fault Refusal :=
  if exists_ then act s name enabled effect else .fault (.noSuchObject name)

/-- Whether the dies have power (R31): from stage DIES on, outside holdback. -/
def diesOn (d : Dev) : Bool := decide (4 ≤ rd d .bootStatusStage ∧ rd d .bootStatusStage ≤ 8)

/-- The answer of a register command: refused without effect in holdback (R471) and while the device is halted (R513). -/
def drv (s : State) (name : String) (exists_ : Bool) (effect : Dev) : Host.Outcome State Fault Refusal :=
  cmd s name exists_ (if rd s.dev .bootStatusStage = 15 ∨ isSet s.dev .safetyStatusHalted then s.dev else effect)

/-! ### The fetch procedure (R242) -/

/-- What reading a queue slot gives: a descriptor, a failure, or a wait. -/
inductive SlotRes where
  | got (x : Desc)
  | bad (cause : Nat)
  | wait
deriving DecidableEq, Repr

/-- The registers and operations of one queue, for the fetch procedure. -/
structure Fetch where
  id : QueueId
  head : Dev → Nat
  setHead : Dev → Nat → Dev
  hint : Dev → Nat
  log2 : Dev → Nat
  read : Dev → Nat → Dev × SlotRes
  accept : Dev → Nat → Desc → Dev
  onBad : Dev → Nat → Dev
  running : Dev → Dev
  parked : Dev → Dev

/-- The interval a queue sleeps, 0 while it is between turns of an unfinished procedure. -/
def sleepOf (d : Dev) (q : QueueId) : Option Nat := (d.hl.sleeping.find? fun e => e.1 = q).map (·.2)

def setSleep (d : Dev) (q : QueueId) (w : Option Nat) : Dev :=
  onHl d fun h =>
    let rest := h.sleeping.filter fun e => e.1 ≠ q
    { h with sleeping := match w with | some x => (q, x) :: rest | none => rest }

/-- Whether slots are announced beyond HEAD. -/
def announced (hint head : Nat) : Bool := let x := (hint + 2 ^ 32 - head) % 2 ^ 32; decide (1 ≤ x ∧ x < 2 ^ 31)

/-- Run the procedure of R242 for at most `fuel` slots, with the next interval `w`. A slot that cannot be read yet is read again with
the same next interval: the schedule stands where it is. -/
def fetchRun (F : Fetch) : Nat → Nat → Dev → Dev
  | 0, _, d => setSleep d F.id (some 0)
  | fuel + 1, w, d =>
    let h := F.head d
    match F.read d h with
    | (d, .bad c) => F.onBad (setSleep d F.id none) c
    | (d, .wait) => setSleep d F.id (some (if w ≤ 64 then 0 else w / 2))
    | (d, .got x) =>
      if fieldAt x 0 0 1 = phaseAt h (F.log2 d) then
        fetchRun F fuel 64 (F.setHead (F.accept d h x) ((h + 1) % 2 ^ 32))
      else if !announced (F.hint d) h then F.running (setSleep d F.id none)
      else if w > 16384 then bump (F.parked (setSleep d F.id none)) .hlParks
      else setSleep d F.id (some w)

end Sys2Proof.Machine
end

