-- ==== Sys2Proof/Machine/CollBase.lean ====
section
/-!
DEFINITION. What a collective shares with the transport (R402, R406, R408): buffer space, completion, failure, and the
end of a contribution's message.
-/
namespace Sys2Proof.Machine

/-! ### The contribution buffer (R402) -/

def collBuffer : Nat := 32 * 1048576

def collMax (d : Dev) : Nat := clampTo 64 32768 (rd d .transportCollCfgBufMaxKib) * 1024

def collLevel (d : Dev) (g : Nat) : Nat := getD d.coll.level g 0

def collTotal (d : Dev) : Nat := (d.coll.level.map (·.2)).sum

def collShow (d : Dev) : Dev := wr d .transportCollBufLevel 0 (collTotal d)

/-- Whether a group can take `n` more bytes. -/
def collRoom (d : Dev) (g n : Nat) : Bool := decide (collLevel d g + n ≤ collMax d ∧ collTotal d + n ≤ collBuffer)

def collTake (d : Dev) (g n : Nat) : Dev := collShow (onColl d fun c => { c with level := putD c.level g (getD c.level g 0 + n) 0 })

def collFree (d : Dev) (g n : Nat) : Dev := collShow (onColl d fun c => { c with level := putD c.level g (getD c.level g 0 - n) 0 })

/-! ### Runs -/

def collRun? (d : Dev) (g : Nat) : Option CollRun := find? d.coll.runs g

def setCollRun (d : Dev) (g : Nat) (r : CollRun) : Dev := onColl d fun c => { c with runs := put c.runs g r }

def collOp (w : Desc) : Nat := fieldAt w 0 1 2
def collCqe (w : Desc) : Bool := fieldAt w 0 3 1 == 1
def collRed (w : Desc) : Nat := fieldAt w 0 4 2
def collFmt (w : Desc) : Nat := fieldAt w 1 0 4
def collGroupOf (w : Desc) : Nat := fieldAt w 2 0 8
def collAdd (w : Desc) : Nat := fieldAt w 3 0 8
def collTag (w : Desc) : Nat := fieldAt w 4 0 32
def collSrc (w : Desc) : Nat := fieldAt w 8 0 64
def collDst (w : Desc) : Nat := fieldAt w 0x10 0 64
def collElems (w : Desc) : Nat := fieldAt w 0x18 0 28
def collRepeat (w : Desc) : Nat := fieldAt w 0x1C 0 32
def collWaitValue (w : Desc) : Nat := fieldAt w 0x24 0 32
def collSignal (w : Desc) : Nat := fieldAt w 0x28 0 64

/-- Bytes of a chunk (R396). -/
def collS (w : Desc) : Nat := collElems w * (if collFmt w = 0 then 4 else 2)

/-- ROUND and TIME_US of a collective's completion (R408); the spec states neither for one none of whose repeats has run, so they are free
(DESIGN CHOICE, log 136). -/
def collRoundTime (d : Dev) (r : CollRun) : Nat × Nat × Dev :=
  match r.startNs with
  | some t => (r.round, min (2 ^ 32 - 1) ((d.upNs - t) / 1000), d)
  | none =>
    let a := choose d (2 ^ 32)
    let b := choose a.2 (2 ^ 32)
    (a.1, b.1, b.2)

/-- The completion entry of R408. -/
def collEntry (g : Nat) (r : CollRun) (cause round us : Nat) : Entry :=
  entryOf 0x20 r.part cause g [(8, collTag r.desc), (0xC, round), (0x10, r.rep), (0x14, r.flags % 4), (0x18, r.resent % 2 ^ 32), (0x1C, us)]

/-- Write a collective's completion. -/
def collPost (d : Dev) (g : Nat) (r : CollRun) (cause : Nat) : Dev :=
  let x := collRoundTime d r
  postCq x.2.2 (rd d .transportCollQCq r.part) (collEntry g r cause x.1 x.2.1) (.coll g)

/-- A collective leaves its group, with its completion when CQE or the cause asks for one; the contribution buffer it gives up will be
written anew. -/
def collEnd (d : Dev) (g : Nat) (r : CollRun) (cause : Nat) : Dev :=
  let d := onColl d fun c => { c with
    runs := del c.runs g, level := del c.level g, waiting := c.waiting.filter fun m => m.group ≠ g || (cause == 0 && m.round != r.round) }
  let held : Nat := ((d.coll.waiting.filter fun m => m.group = g).map (·.space)).sum
  let d := if held = 0 then onMem d fun m => { m with sram := m.sram.filter (· ≠ g) } else d
  let d := collShow (onColl d fun c => { c with level := putD c.level g held 0 })
  if collCqe r.desc || cause != 0 then collPost d g r cause else d

/-- Contributions already on their way when their group fails go on as packets of no group; one not wholly cut ends
ABORTED. -/
def collOrphan (d : Dev) (g : Nat) : Dev :=
  let ours := fun (w : MsgWho) => match w with
    | .coll g' _ => g' == g
    | _ => false
  onTr d fun t => { t with
    msgs := t.msgs.map fun m => match m.who with
      | .coll g' r => if g' = g then { m with who := .coll (g + 256) r, abortEnd := m.abortEnd || !m.allCut } else m
      | _ => m
    ctxWait := t.ctxWait.filter fun u => match u.2 with
      | .message _ m => !ours m.who
      | _ => true }

/-- DST's place of a chunk. -/
def dstChunk (w : Desc) (chunk : Nat) : Nat := if collOp w = 2 then collDst w else collDst w + chunk * collS w

/-- The chunks of DST that a round writes (R396). -/
def dstChunks (c : CollGroup) (w : Desc) : List Nat := if collOp w = 2 then [c.rank] else List.range c.members.length

/-- The chunks of DST not yet wholly written hold free bytes (R406). -/
def collLoose (d : Dev) (g : Nat) (r : CollRun) : Dev :=
  match find? d.coll.groups g with
  | none => d
  | some c =>
    let s := collS r.desc
    let open_ := if r.active then (dstChunks c r.desc).filter fun k => decide (getD r.written k 0 < s) else []
    open_.foldl (fun d k =>
      let x := freeBytes s d
      match dvaWrite x.1 collAgent r.part (dstChunk r.desc k) x.2 true (.coll g) with
      | (d', .ok _) => d'
      | _ => x.1) d

/-- A collective fails (R406): the group is failed, the collective completes with the cause, one group event names the
rank concerned. -/
def collFail (d : Dev) (g cause rank : Nat) : Dev :=
  match collRun? d g with
  | none => d
  | some r =>
    let d := wr (wr (bump (collLoose d g r) .transportCollFailed) .transportCollGroupState g 3) .transportCollGroupLastCause g cause
    let d := collEnd (collOrphan d g) g r cause
    postEq d (rd d .transportCollQEq r.part) (entryOf 0x21 r.part cause g [(8, r.round), (0xC, rank)])

/-- The cause of a failed access to SRC or DST (R406). -/
def collMemCause (c : Nat) : Nat := if c = 0x60 ∨ c = 0x61 then 0xDE else 0xDC

/-- A contribution's message has ended: its record and its space are released, or the collective fails. -/
def collSent (d : Dev) (g id cause : Nat) : Dev :=
  match collRun? d g with
  | none => d
  | some r =>
    match r.recs.find? fun x => x.id = id with
    | none => d
    | some x =>
      if cause = 0 then collFree (setCollRun d g { r with recs := r.recs.filter fun y => y.id ≠ id }) g x.space
      else collFail d g (if cause = 0xDC ∨ cause = 0xDE then cause else 0xD8) x.member

end Sys2Proof.Machine
end

