-- ==== Sys2Proof/Machine/Num.lean ====
section
/-!
DEFINITION. The tile's arithmetic (R49 to R65, R73 to R80): exact dyadic values, FP32 and BF16 rounding, block-format
decoding and encoding, and the vector unit's scalar operations. A value is a sign, a magnitude `m` and an exponent
`e`, standing for m times 2^e; nothing is rounded before the place where the spec rounds.
-/
namespace Sys2Proof.Machine

/-- A floating-point datum before encoding. -/
inductive FV where
  | nan
  | inf (neg : Bool)
  | fin (neg : Bool) (m : Nat) (e : Int)
deriving DecidableEq, Repr

/-- Arithmetic flag masks of R81. -/
def flInvalid : Nat := 1
def flOverflow : Nat := 2
def flDivzero : Nat := 4
def flSaturated : Nat := 8
def flNanBlock : Nat := 16
def flSparseMeta : Nat := 32
def flNanInput : Nat := 64

/-- The canonical NaN of R75 and R79. -/
def nan32 : Nat := 0x7FC00000

/-- Exponent of the leading bit of a non-zero magnitude. -/
def leadExp (m : Nat) (e : Int) : Int := e + (Nat.log2 m : Int)

/-- m times 2^e compared with m' times 2^e': whether the first is at most the second. -/
def dyLe (m : Nat) (e : Int) (m' : Nat) (e' : Int) : Bool :=
  if e ≤ e' then decide (m ≤ m' <<< (e' - e).toNat) else decide (m <<< (e - e').toNat ≤ m')

/-- Decode an IEEE-like code with `eb` exponent bits, `mb` mantissa bits and the given bias; no special codes. -/
def decodePlain (eb mb : Nat) (bias : Int) (code : Nat) : FV :=
  let m := code % 2 ^ mb
  let e := (code >>> mb) % 2 ^ eb
  let s := bitOf code (eb + mb)
  if e = 0 then .fin s m (1 - bias - mb) else .fin s (2 ^ mb + m) ((e : Int) - bias - mb)

/-- Decode with the IEEE special codes (all-ones exponent). -/
def decodeIeee (eb mb : Nat) (bias : Int) (code : Nat) : FV :=
  if (code >>> mb) % 2 ^ eb = 2 ^ eb - 1 then
    if code % 2 ^ mb = 0 then .inf (bitOf code (eb + mb)) else .nan
  else decodePlain eb mb bias code

def decode32 (x : Nat) : FV := decodeIeee 8 23 127 x
def decodeBf16 (x : Nat) : FV := decodeIeee 8 7 127 x

/-- The quantum exponent of the binade of m times 2^e at `p` bits of precision with least quantum `qmin`. -/
def quantum (p : Nat) (qmin : Int) (m : Nat) (e : Int) : Int := max (leadExp m e - (p - 1 : Nat)) qmin

/-- Truncation of m times 2^e to quantum 2^q, and the discarded part's numerator over 2^sh. -/
def truncAt (m : Nat) (e q : Int) : Nat × Nat × Nat :=
  if q ≤ e then (m <<< (e - q).toNat, 0, 0)
  else let sh := (q - e).toNat; (m >>> sh, m % 2 ^ sh, sh)

/-- Round to nearest, ties to even, at quantum 2^q. -/
def rneAt (m : Nat) (e q : Int) : Nat :=
  let t := truncAt m e q
  if t.2.2 = 0 then t.1
  else if 2 * t.2.1 > 2 ^ t.2.2 then t.1 + 1
  else if 2 * t.2.1 = 2 ^ t.2.2 then t.1 + t.1 % 2 else t.1

/-- The 16 random bits of R64. -/
def srBits (seed ordinal index : Nat) : Nat :=
  let w := 2 ^ 32
  let x := (seed ^^^ index) % w
  let x := x ^^^ (x >>> 16)
  let x := (x * 0x6A5D39E9) % w
  let x := x ^^^ (x >>> 15)
  let x := x ^^^ ((ordinal * 0x9E3779B9) % w)
  let x := (x * 0x8CB92BA7) % w
  let x := x ^^^ (x >>> 16)
  x >>> 16

/-- Stochastic rounding at quantum 2^q with random bits `r` (R64). -/
def srAt (m : Nat) (e q : Int) (r : Nat) : Nat :=
  let t := truncAt m e q
  let d := (t.2.1 <<< 16) >>> t.2.2
  if d + r ≥ 65536 then t.1 + 1 else t.1

/-- The rounding mode of a conversion: nearest even, or stochastic with its 16 random bits (R59). -/
inductive Rnd where
  | rne
  | sr (r : Nat)
deriving DecidableEq, Repr

def roundAt (r : Rnd) (m : Nat) (e q : Int) : Nat :=
  match r with
  | .rne => rneAt m e q
  | .sr x => srAt m e q x

/-- Encode k times 2^q, already on the grid of an IEEE format, overflowing to infinity; the flag says it overflowed. -/
def encodeIeee (eb mb : Nat) (bias : Int) (neg : Bool) (k : Nat) (q : Int) : Nat × Bool :=
  let s := if neg then 2 ^ (eb + mb) else 0
  let kq := if k ≥ 2 ^ (mb + 1) then (k / 2, q + 1) else (k, q)
  if kq.1 < 2 ^ mb then (s + kq.1, false)
  else
    let ex := kq.2 + mb + bias
    if ex ≥ ((2 ^ eb - 1 : Nat) : Int) then (s + (2 ^ eb - 1) * 2 ^ mb, true)
    else (s + ex.toNat * 2 ^ mb + (kq.1 - 2 ^ mb), false)

/-- Round an exact magnitude to FP32: the bits and the flags. -/
def toF32 (neg : Bool) (m : Nat) (e : Int) : Nat × Nat :=
  if m = 0 then (if neg then 2 ^ 31 else 0, 0)
  else
    let q := quantum 24 (-149) m e
    let r := encodeIeee 8 23 127 neg (rneAt m e q) q
    (r.1, if r.2 then flOverflow else 0)

/-- The FP32 code of a datum (rounded to nearest even), with flags. -/
def encode32 : FV → Nat × Nat
  | .nan => (nan32, 0)
  | .inf neg => (if neg then 0xFF800000 else 0x7F800000, 0)
  | .fin neg m e => toF32 neg m e

/-- A finite signed value as an integer at exponent `e0`, with e0 at most its exponent. -/
def scaleTo (neg : Bool) (m : Nat) (e e0 : Int) : Int :=
  let v : Int := ((m <<< (e - e0).toNat : Nat) : Int)
  if neg then -v else v

/-- Exact sum of two finite data; an exact zero is +0 unless both are negative zeros (IEEE 754). -/
def addFin (n1 : Bool) (m1 : Nat) (e1 : Int) (n2 : Bool) (m2 : Nat) (e2 : Int) : FV :=
  let e0 := min e1 e2
  let v := scaleTo n1 m1 e1 e0 + scaleTo n2 m2 e2 e0
  if v = 0 then .fin (n1 && n2) 0 e0 else .fin (decide (v < 0)) v.natAbs e0

/-- Exact sum of two data with the INVALID flag of R75 and R80. -/
def addFV : FV → FV → FV × Nat
  | .nan, _ => (.nan, 0)
  | _, .nan => (.nan, 0)
  | .inf a, .inf b => if a = b then (.inf a, 0) else (.nan, flInvalid)
  | .inf a, .fin _ _ _ => (.inf a, 0)
  | .fin _ _ _, .inf b => (.inf b, 0)
  | .fin n1 m1 e1, .fin n2 m2 e2 => (addFin n1 m1 e1 n2 m2 e2, 0)

/-- Exact product of two data. -/
def mulFV : FV → FV → FV × Nat
  | .nan, _ => (.nan, 0)
  | _, .nan => (.nan, 0)
  | .inf a, .inf b => (.inf (a != b), 0)
  | .inf a, .fin n m _ => if m = 0 then (.nan, flInvalid) else (.inf (a != n), 0)
  | .fin n m _, .inf b => if m = 0 then (.nan, flInvalid) else (.inf (n != b), 0)
  | .fin n1 m1 e1, .fin n2 m2 e2 => (.fin (n1 != n2) (m1 * m2) (e1 + e2), 0)

def negFV : FV → FV
  | .nan => .nan
  | .inf n => .inf (!n)
  | .fin n m e => .fin (!n) m e

/-- Multiply by 2^k exactly. -/
def shiftFV (k : Int) : FV → FV
  | .fin n m e => .fin n m (e + k)
  | v => v

/-- Round a datum to FP32 and join its flags to those already raised. -/
def close32 (r : FV × Nat) : Nat × Nat := let x := encode32 r.1; (x.1, x.2 ||| r.2)

/-! ### Vector-unit scalar operations (R78 to R80), on FP32 bit patterns, answering bits and flags -/

def fAdd (a b : Nat) : Nat × Nat := close32 (addFV (decode32 a) (decode32 b))
def fSub (a b : Nat) : Nat × Nat := close32 (addFV (decode32 a) (negFV (decode32 b)))
def fMul (a b : Nat) : Nat × Nat := close32 (mulFV (decode32 a) (decode32 b))

/-- Fused multiply-add with one rounding; a NaN operand raises no flag of its own (R81 bit 0). -/
def fFma (a b c : Nat) : Nat × Nat :=
  if decode32 c = .nan then (nan32, 0)
  else
    let p := mulFV (decode32 a) (decode32 b)
    let r := addFV p.1 (decode32 c)
    close32 (r.1, p.2 ||| r.2)

/-- The order of finite and infinite data, -0 below +0, as needed by minimumNumber and maximumNumber. -/
def ltFV : FV → FV → Bool
  | .nan, _ => false
  | _, .nan => false
  | .inf a, .inf b => a && !b
  | .inf a, .fin _ _ _ => a
  | .fin _ _ _, .inf b => !b
  | .fin n1 m1 e1, .fin n2 m2 e2 =>
    let e0 := min e1 e2
    let x := scaleTo n1 m1 e1 e0
    let y := scaleTo n2 m2 e2 e0
    if x = 0 ∧ y = 0 then n1 && !n2 else decide (x < y)

/-- IEEE 754 numeric equality (+0 equals -0). -/
def eqFV : FV → FV → Bool
  | .inf a, .inf b => a = b
  | .fin n1 m1 e1, .fin n2 m2 e2 => let e0 := min e1 e2; scaleTo n1 m1 e1 e0 = scaleTo n2 m2 e2 e0
  | _, _ => false

def fMin (a b : Nat) : Nat :=
  let x := decode32 a; let y := decode32 b
  if x = .nan then (if y = .nan then nan32 else b) else if y = .nan then a else if ltFV y x then b else a

def fMax (a b : Nat) : Nat :=
  let x := decode32 a; let y := decode32 b
  if x = .nan then (if y = .nan then nan32 else b) else if y = .nan then a else if ltFV x y then b else a

/-- Whether the bits are a NaN. -/
def isNan32 (a : Nat) : Bool := decode32 a = .nan

/-- A result that is a NaN is written as the canonical NaN (R79). -/
def canon32 (a : Nat) : Nat := if isNan32 a then nan32 else a

def fAbs (a : Nat) : Nat := canon32 (a % 2 ^ 31)
def fNeg (a : Nat) : Nat := canon32 (a ^^^ 2 ^ 31)
def fCopysign (a b : Nat) : Nat := canon32 (a % 2 ^ 31 + (b >>> 31) % 2 * 2 ^ 31)

/-- FCMP's predicate (R101): 0 equal, 1 less, 2 less or equal, 3 unordered. -/
def fCmp (pred a b : Nat) : Bool :=
  let x := decode32 a; let y := decode32 b
  let un := x = .nan || y = .nan
  let less := !eqFV x y && ltFV x y
  match pred with
  | 0 => eqFV x y
  | 1 => less
  | 2 => less || eqFV x y
  | _ => un

/-- 32-bit integer to FP32 (RNE). -/
def iToF (a : Nat) : Nat × Nat := let v := signed 32 a; toF32 (decide (v < 0)) v.natAbs 0

/-- FP32 to 32-bit integer, RNE, saturating (R80). -/
def fToI (a : Nat) : Nat × Nat :=
  match decode32 a with
  | .nan => (0, flInvalid)
  | .inf n => (if n then 0x80000000 else 0x7FFFFFFF, flInvalid)
  | .fin n m e =>
    let k := rneAt m e 0
    if n then (if k > 2 ^ 31 then (0x80000000, flInvalid) else ((2 ^ 32 - k) % 2 ^ 32, 0))
    else if k ≥ 2 ^ 31 then (0x7FFFFFFF, flInvalid) else (k, 0)

/-! ### Special functions: a value within the bound of R78, the pick among those allowed left open (R79) -/

/-- The FP32 magnitude code of the largest finite value that is at most m times 2^e. -/
def floorCode (m : Nat) (e : Int) : Nat :=
  if m = 0 then 0
  else
    let q := quantum 24 (-149) m e
    let r := encodeIeee 8 23 127 false (truncAt m e q).1 q
    if r.2 then 0x7F7FFFFF else r.1

/-- The FP32 magnitude code of the smallest value that is at least m times 2^e. -/
def ceilCode (m : Nat) (e : Int) : Nat :=
  if m = 0 then 0 else floorCode m e + if (truncAt m e (quantum 24 (-149) m e)).2.1 = 0 then 0 else 1

/-- Among the FP32 magnitudes whose distance from `a` times 2^e is at most `b` units in its last place, or for a subnormal one
at most 2^-149 (R79), the one the design fixes. The approximation `a` is within one unit of the exact value, so
the set offered is never smaller than the spec's. -/
def pickNear (b : Nat) (pick : Nat) (neg : Bool) (a : Nat) (e : Int) : Nat × Nat :=
  if a = 0 then (if neg then 2 ^ 31 else 0, 0)
  else
    let q := quantum 24 (-149) a e
    let sh := (q - e).toNat
    let b := if leadExp (a + 1 + b <<< sh) e < -126 then 1 else b
    let lo := max (ceilCode (a - 1 - b <<< sh) e) (min (2 ^ 23) (ceilCode (a - 1 - 1 <<< sh) e))
    let hi := floorCode (a + 1 + b <<< sh) e
    (lo + pick % (hi + 1 - lo) + if neg then 2 ^ 31 else 0, 0)

/-- log2(e) times 2^160, truncated. -/
def log2e160 : Nat := 0x171547652B82FE1777D0FFDA0D23A7D11D6AEF551

/-- ln 2 times 2^160, truncated. -/
def ln2q160 : Nat := 0xB17217F7D1CF79ABC9E3B39803F2F6AF40F34326

/-- Taylor series of e^y for y = n / 2^160 below 1, in units of 2^-160: `fuel` terms. -/
def expSeries (n : Nat) : Nat → Nat → Nat → Nat → Nat
  | 0, _, _, acc => acc
  | fuel + 1, k, term, acc => let t := ((term * n) >>> 160) / k; expSeries n fuel (k + 1) t (acc + t)

/-- 2^(t / 2^160) for any integer t: magnitude and exponent, magnitude near 2^160. -/
def pow2q (t : Int) : Nat × Int :=
  let n := Int.fdiv t (2 ^ 160 : Nat)
  let f := (t - n * (2 ^ 160 : Nat)).toNat
  let y := (f * ln2q160) >>> 160
  ((expSeries y 40 1 (2 ^ 160) (2 ^ 160)) >>> 60, n - 100)

/-- x times 2^160 as an integer, for a finite datum, floor. -/
def fix160 (neg : Bool) (m : Nat) (e : Int) : Int :=
  let s := e + 160
  let v : Int := if s ≥ 0 then ((m <<< s.toNat : Nat) : Int) else ((m >>> (-s).toNat : Nat) : Int)
  if neg then -v else v

/-- Close an exponential whose exact logarithm (base 2, in 2^-160) is `t`. -/
def closeExp (op x : Nat) (t : Int) : Nat × Nat :=
  if t > (128 : Int) * (2 ^ 160 : Nat) then (0x7F800000, flOverflow)
  else if t < (-149 : Int) * (2 ^ 160 : Nat) then (0, 0)
  else
    let p := pow2q t
    if dyLe (0xFFFFFF + 1) 104 p.1 p.2 then (0x7F800000, flOverflow)
    else if !dyLe p.1 p.2 0xFFFFFF 104 then (0x7F800000, flOverflow)
    else pickNear 2 (Config.ulpPick op x) false p.1 p.2

/-- e^x (operation code 0x30). -/
def fExp (x : Nat) : Nat × Nat :=
  match decode32 x with
  | .nan => (nan32, 0)
  | .inf n => if n then (0, 0) else (0x7F800000, 0)
  | .fin n m e =>
    if m ≠ 0 ∧ leadExp m e > 10 then (if n then (0, 0) else (0x7F800000, flOverflow))
    else closeExp 0x30 x (Int.fdiv (fix160 n m e * log2e160) (2 ^ 160 : Nat))

/-- 2^x (operation code 0x31). -/
def fExp2 (x : Nat) : Nat × Nat :=
  match decode32 x with
  | .nan => (nan32, 0)
  | .inf n => if n then (0, 0) else (0x7F800000, 0)
  | .fin n m e =>
    if m ≠ 0 ∧ leadExp m e > 10 then (if n then (0, 0) else (0x7F800000, flOverflow))
    else closeExp 0x31 x (fix160 n m e)

/-- Reciprocal (operation code 0x32). -/
def fRcp (x : Nat) : Nat × Nat :=
  match decode32 x with
  | .nan => (nan32, 0)
  | .inf n => (if n then 2 ^ 31 else 0, 0)
  | .fin n m e =>
    let infb := if n then 0xFF800000 else 0x7F800000
    if m = 0 then (infb, flDivzero)
    else
      let a := 2 ^ 200 / m
      let ex := -e - 200
      if !dyLe a ex 0xFFFFFF 104 then (infb, flOverflow)
      else pickNear 1 (Config.ulpPick 0x32 x) n a ex

/-- Reciprocal square root (operation code 0x33). -/
def fRsqrt (x : Nat) : Nat × Nat :=
  match decode32 x with
  | .nan => (nan32, 0)
  | .inf n => if n then (nan32, flInvalid) else (0, 0)
  | .fin n m e =>
    if m = 0 then (if n then 0xFF800000 else 0x7F800000, flDivzero)
    else if n then (nan32, flInvalid)
    else
      let me := if e % 2 = 0 then (m, e) else (2 * m, e - 1)
      pickNear 2 (Config.ulpPick 0x33 x) false (Nat.sqrt (2 ^ 240 / me.1)) (-(me.2 / 2) - 120)

/-- One level of the pairwise tree of R80. -/
def pairLevel (f : Nat → Nat → Nat × Nat) : List Nat → List Nat × Nat
  | a :: b :: t => let r := f a b; let s := pairLevel f t; (r.1 :: s.1, r.2 ||| s.2)
  | l => (l, 0)

/-- A reduction through `n` levels of adjacent pairs. -/
def pairTree (f : Nat → Nat → Nat × Nat) : Nat → List Nat → Nat → Nat × Nat
  | 0, l, fl => (l.headD 0, fl)
  | n + 1, l, fl => let r := pairLevel f l; pairTree f n r.1 (fl ||| r.2)

/-- The lane sum of 256 lanes: eight levels, RNE at each (R78, R80). -/
def laneSum (l : List Nat) : Nat × Nat := pairTree fAdd 8 l 0

/-- The lane maximum of 256 lanes, by maximumNumber. -/
def laneMax (l : List Nat) : Nat := (pairTree (fun a b => (fMax a b, 0)) 8 l 0).1

/-! ### Formats (R49, R50, R53) -/

def fmtReserved (f : Nat) : Bool := decide (f > 7)
def isBlock (f : Nat) : Bool := decide (2 ≤ f ∧ f ≤ 7)
def isB8 (f : Nat) : Bool := f = 2 || f = 3
def isB6 (f : Nat) : Bool := f = 4 || f = 5
def isB4 (f : Nat) : Bool := f = 6 || f = 7

/-- Exponent bits, mantissa bits and bias of a block format's element (R50). -/
def elemShape (f : Nat) : Nat × Nat × Nat :=
  match f with
  | 2 => (4, 3, 7)
  | 3 => (5, 2, 15)
  | 4 => (3, 2, 3)
  | 5 => (2, 3, 1)
  | _ => (2, 1, 1)

/-- Largest finite element as m times 2^e. -/
def elemMax (f : Nat) : Nat × Int :=
  match f with
  | 2 => (7, 6)
  | 3 => (7, 13)
  | 4 => (7, 2)
  | 5 => (15, -1)
  | _ => (3, 1)

/-- emax of R50. -/
def elemEmax (f : Nat) : Int :=
  match f with
  | 2 => 8
  | 3 => 15
  | 4 => 4
  | _ => 2

/-- Bits of one stored element. -/
def elemBits (f : Nat) : Nat :=
  match f with
  | 0 => 32
  | 1 => 16
  | 2 => 8
  | 3 => 8
  | 4 => 6
  | 5 => 6
  | _ => 4

/-- Bytes of one block's scale entry. -/
def scaleBytes (f : Nat) : Nat := if f = 7 then 2 else if isBlock f then 1 else 0

/-- Decode one element code, with the special codes of R50. -/
def decodeElem (f code : Nat) : FV :=
  let sh := elemShape f
  match f with
  | 2 => if code % 128 = 127 then .nan else decodePlain 4 3 7 code
  | 3 => decodeIeee 5 2 15 code
  | _ => decodePlain sh.1 sh.2.1 sh.2.2 code

/-- The exponent the scale entry gives element `i` of a block (R52): k - 127, less the micro-offset of B4M. -/
def scaleExp (f entry i : Nat) : Int :=
  let k := entry % 256
  let o := if f = 7 ∧ k ≠ 0 ∧ bitOf entry (8 + i / 8) then 1 else 0
  (k : Int) - 127 - (o : Nat)

/-- Element `i` of a block as a datum, with NAN_INPUT (R63). -/
def blockElem (f entry i code : Nat) : FV × Nat :=
  if entry % 256 = 255 then (.nan, flNanInput)
  else
    match decodeElem f code with
    | .fin n m e => (.fin n m (e + scaleExp f entry i), 0)
    | v => (v, flNanInput)

/-! ### Conversion to a narrower format (R57 to R64) -/

/-- The largest magnitude of finite data; none when all are zero. -/
def maxMag : List FV → Option (Nat × Int)
  | [] => none
  | .fin _ m e :: t =>
    match maxMag t with
    | none => if m = 0 then none else some (m, e)
    | some (m', e') => if dyLe m e m' e' then some (m', e') else some (m, e)
  | _ :: t => maxMag t

/-- The shared exponent of R57, clamped to -127 to 127. -/
def sharedExp (f rule : Nat) (m : Nat) (e : Int) : Int :=
  let x0 := leadExp m e - elemEmax f
  let mx := elemMax f
  let x := if rule = 0 then x0 else if dyLe m e mx.1 (mx.2 + x0) then x0 else x0 + 1
  max (-127) (min 127 x)

/-- Round a magnitude (already divided by its scale) to the element grid and encode it, saturating (R59, R60). -/
def roundElem (f : Nat) (r : Rnd) (neg : Bool) (m : Nat) (e : Int) : Nat × Nat :=
  let sh := elemShape f
  let s := if neg then 2 ^ (sh.1 + sh.2.1) else 0
  if m = 0 then (s, 0)
  else
    let qmin : Int := 1 - (sh.2.2 : Int) - sh.2.1
    let q := quantum (sh.2.1 + 1) qmin m e
    let k := roundAt r m e q
    let mx := elemMax f
    if !dyLe k q mx.1 mx.2 then
      let kq := (mx.1, mx.2)
      let ex := kq.2 + sh.2.2 + sh.2.1
      let up := sh.2.1 - (Nat.log2 kq.1)
      let mant := kq.1 <<< up
      (s + (ex - up).toNat * 2 ^ sh.2.1 + (mant - 2 ^ sh.2.1), flSaturated)
    else
      let kq := if k ≥ 2 ^ (sh.2.1 + 1) then (k / 2, q + 1) else (k, q)
      if kq.1 < 2 ^ sh.2.1 then (s + kq.1, 0)
      else (s + (kq.2 + sh.2.1 + sh.2.2).toNat * 2 ^ sh.2.1 + (kq.1 - 2 ^ sh.2.1), 0)

/-- Whether a datum is finite. -/
def isFin : FV → Bool
  | .fin _ _ _ => true
  | _ => false

/-- The micro-offset byte of R58 for shared exponent `x`. -/
def microBits (x : Int) (l : List FV) : Nat :=
  (List.range 4).foldl (fun acc j =>
    let fits := match maxMag ((l.drop (8 * j)).take 8) with
      | none => true
      | some (m, e) => dyLe m e 3 x
    if fits then acc + 2 ^ j else acc) 0

/-- One block of 32 FP32 data converted: element codes, scale entry, flags. `rnd i` is the rounding of element i. -/
def toBlock (f rule : Nat) (rnd : Nat → Rnd) (l : List FV) : List Nat × Nat × Nat :=
  if l.any (fun v => !isFin v) then (List.replicate 32 0, 255, flNanBlock)
  else
    let xk : Int × Nat := match maxMag l with
      | none => (-127, 0)
      | some (m, e) => let x := sharedExp f rule m e; (x, (x + 127).toNat)
    let micro := if f = 7 ∧ xk.2 ≠ 0 then microBits xk.1 l else 0
    let entry := xk.2 + 256 * micro
    let conv := l.zipIdx.map (fun vi =>
      match vi.1 with
      | .fin n m e => roundElem f (rnd vi.2) n m (e - scaleExp f entry vi.2)
      | _ => (0, 0))
    (conv.map (·.1), entry, conv.foldl (fun a c => a ||| c.2) 0)

/-- FP32 datum to BF16 (R61). -/
def toBf16 (r : Rnd) : FV → Nat × Nat
  | .nan => (0x7FC0, 0)
  | .inf n => (if n then 0xFF80 else 0x7F80, 0)
  | .fin n m e =>
    if m = 0 then (if n then 0x8000 else 0, 0)
    else
      let q := quantum 8 (-133) m e
      let x := encodeIeee 8 7 127 n (roundAt r m e q) q
      (x.1, if x.2 then flOverflow else 0)

/-! ### Accumulation (R73 to R75) -/

/-- Exact sum of data, with the flags of R75. -/
def sumFV : List FV → FV × Nat
  | [] => (.fin true 0 0, 0)
  | v :: t => let s := sumFV t; let r := addFV v s.1; (r.1, s.2 ||| r.2)

/-- Exact products of two lists of data, with flags. -/
def prodFV (a b : List FV) : List FV × Nat :=
  let ps := List.zipWith mulFV a b
  (ps.map (·.1), ps.foldl (fun x p => x ||| p.2) 0)

/-- Overflow of a step counts only when its terms were finite (R81). -/
def stepClose (terms : List FV) (acc : Nat) (fl : Nat) : Nat × Nat :=
  let nanIn := terms.any (fun v => v = .nan) || isNan32 acc
  if nanIn then (nan32, fl)
  else let r := sumFV (decode32 acc :: terms); let x := encode32 r.1; (x.1, x.2 ||| r.2 ||| fl)

/-- One block-format step: 32 products whose scales are already in the data, summed exactly with the accumulator's
single rounding (R73). -/
def blockStep (a b : List FV) (acc : Nat) : Nat × Nat :=
  let p := prodFV a b
  stepClose p.1 acc p.2

/-- Truncate a finite datum's magnitude towards zero at quantum 2^q. -/
def truncFV (q : Int) : FV → FV
  | .fin n m e => if e ≥ q then .fin n m e else .fin n (m >>> (q - e).toNat) q
  | v => v

/-- Leading exponent of the largest finite non-zero datum. -/
def topExp (l : List FV) : Option Int := (maxMag l).map (fun me => leadExp me.1 me.2)

/-- One BF16 step of 16 products (R74): every term, the accumulator's too, cut 48 places below the largest. -/
def bf16Step (a b : List FV) (acc : Nat) : Nat × Nat :=
  let p := prodFV a b
  let terms := decode32 acc :: p.1
  let cutT := match topExp terms with
    | none => terms
    | some t => terms.map (truncFV (t - 48))
  if terms.any (fun v => v = .nan) then (nan32, p.2)
  else let r := sumFV cutT; let x := encode32 r.1; (x.1, x.2 ||| r.2 ||| p.2)

end Sys2Proof.Machine
end

