-- ==== Sys2Proof/Machine/Work.lean ====
section
/-!
DEFINITION. Work items at rest and in flight: the common header (R97), lanes (R92 to R95), order and fences (R92,
R110, R122), waits (R115), the journal (R128 to R130), signals (R117, R118), completion and the stop of a ring (R126,
R127, R91).
-/
namespace Sys2Proof.Machine

/-! ### The common header (R97) -/

def wiType (w : Desc) : Nat := fieldAt w 0 1 4
def wiCqe (w : Desc) : Bool := fieldAt w 0 5 1 == 1
def wiOrder (w : Desc) : Bool := fieldAt w 0 6 1 == 1
def wiKeep (w : Desc) : Bool := fieldAt w 0 7 1 == 1
def wiSignalAdd (w : Desc) : Nat := fieldAt w 0 8 8
def wiColumn (w : Desc) : Nat := fieldAt w 2 0 6
def wiRow (w : Desc) : Nat := fieldAt w 2 6 5
def wiMode (w : Desc) : Nat := fieldAt w 2 11 2
def wiTag (w : Desc) : Nat := fieldAt w 4 0 32
def wiWaitEn (w : Desc) : Bool := fieldAt w 8 31 1 == 1
def wiWaitWord (w : Desc) : Nat := fieldAt w 8 0 18
def wiWaitCol (w : Desc) : Nat := fieldAt w 8 18 6
def wiWaitRow (w : Desc) : Nat := fieldAt w 8 24 5
def wiWaitValue (w : Desc) : Nat := fieldAt w 12 0 32
def wiSignalFa (w : Desc) : Nat := fieldAt w 16 0 64

/-! ### The list of work items -/

def dropItem (d : Dev) (uid : Nat) : Dev := onDisp d fun s => { s with items := s.items.filter fun x => x.uid ≠ uid }

/-- Work items placed and not started in a lane of a tile. -/
def laneItems (d : Dev) (t : Nat) (l : Lane) : List Item :=
  d.disp.items.filter fun x => x.phase = .placed && x.tile = t && x.lane = l

/-- The earliest placed of a list. -/
def firstStamp : List Item → Option Item
  | [] => none
  | x :: t =>
    match firstStamp t with
    | none => some x
    | some y => if x.stamp ≤ y.stamp then some x else some y

def laneHead (d : Dev) (t : Nat) (l : Lane) : Option Item := firstStamp (laneItems d t l)

/-- The started work item on a unit of a tile. -/
def running? (d : Dev) (t : Nat) (l : Lane) : Option Item :=
  d.disp.items.find? fun x => x.phase = .started && x.tile = t && x.lane = l

/-- Whether the device runs: stage RUN, not halted (R469, R513). -/
def inRun (d : Dev) : Bool := rd d .bootStatusStage == 8 && !isSet d .safetyStatusHalted

/-! ### Journals (R128 to R130) -/

def journalOf (d : Dev) (t : Nat) : Journal := getD d.disp.journals t {}

def setJournal (d : Dev) (t : Nat) (j : Journal) : Dev :=
  onDisp d fun s => { s with journals := putD s.journals t j {} }

/-- DPA of an entry: 256 keep entries, then 768 rolling ones, 128 bytes each. -/
def journalAddr (d : Dev) (t slot : Nat) (keep : Bool) : Nat :=
  rd d .dispatchJournalBase * 65536 + t * 131072 + (if keep then 0 else 256 * 128) + slot * 128

def journalBytes (e : JEntry) : List Byte :=
  toBytes 64 e.wi.toNat ++ toBytes 4 e.ring ++ toBytes 4 e.step ++ toBytes 1 e.state ++ toBytes 55 0

def journalStore (d : Dev) (t : Nat) (keep : Bool) (e : JEntry) : Dev :=
  let a := journalAddr d t e.slot keep
  (dpaWrite d (0x800 + tileRow t) a (journalBytes e)).1

/-- The lowest slot no entry of a list takes. -/
def freeSlot (l : List JEntry) (n : Nat) : Option Nat := (List.range n).find? fun i => !l.any fun e => e.slot = i

/-- Drop the first completed entry of a list. -/
def dropComplete : List JEntry → List JEntry
  | [] => []
  | e :: t => if e.state = 2 then t else e :: dropComplete t

/-- Record a placement (R128): the entry at state 0; none when the keep list is full (R129). -/
def journalPlace (d : Dev) (it : Item) : Option Dev :=
  let j := journalOf d it.tile
  let mk := fun (slot : Nat) => ({ slot := slot, uid := it.uid, wi := it.wi, ring := it.ring, step := it.step, state := 0 } : JEntry)
  if wiKeep it.wi then
    match freeSlot j.keep 256 with
    | none => none
    | some i => some (journalStore (setJournal d it.tile { j with keep := j.keep ++ [mk i] }) it.tile true (mk i))
  else
    let full := decide (j.rolling.length ≥ 768)
    let d := if full && !j.broken then bump d .dispatchJournalBroken else d
    let j := if full then { j with rolling := dropComplete j.rolling, broken := true } else j
    match freeSlot j.rolling 768 with
    | none => some (setJournal d it.tile j)
    | some i => some (journalStore (setJournal d it.tile { j with rolling := j.rolling ++ [mk i] }) it.tile false (mk i))

/-- Change the entry of a work item and store it. -/
def journalSet (d : Dev) (t uid : Nat) (f : JEntry → JEntry) : Dev :=
  let j := journalOf d t
  let g := fun (e : JEntry) => if e.uid = uid then f e else e
  let d := setJournal d t { j with keep := j.keep.map g, rolling := j.rolling.map g }
  match j.keep.find? fun e => e.uid = uid with
  | some e => journalStore d t true (f e)
  | none =>
    match j.rolling.find? fun e => e.uid = uid with
    | some e => journalStore d t false (f e)
    | none => d

/-- A mark (R129): the rolling entries of completed work items are retired, the window is whole again. -/
def journalMark (d : Dev) (t : Nat) : Dev :=
  let j := journalOf d t
  setJournal d t { j with rolling := j.rolling.filter fun e => e.state ≠ 2, broken := false }

/-- KEEP_RESET (R109): the keep list is emptied. -/
def journalKeepReset (d : Dev) (t : Nat) : Dev := setJournal d t { journalOf d t with keep := [] }

/-- The tiles of a partition. -/
def tilesOf (d : Dev) (p : Nat) : List Nat := (List.range tiles).filter fun t => tileOwner d t = some p

/-! ### Tokens (R113 to R115) -/

def tokensOn (d : Dev) (t : Nat) : Nat :=
  (d.disp.tokens.filter fun e => decide (spAddr t 0 ≤ e.1 ∧ e.1 < spAddr t spBytes)).length

/-- DPA of the token a WAIT_REF names; none where R115 refuses it apart from registration. -/
def waitRef (d : Dev) (p : Nat) (w : Desc) : Option Nat :=
  if wiWaitRow w > 23 || wiWaitCol w > 47 || wiWaitWord w > 0x2FFFF then none
  else
    let t := tileAt (wiWaitRow w) (wiWaitCol w)
    if tileOwner d t = some p then some (spAddr t (8 * wiWaitWord w)) else none

/-- How a header wait stands. -/
inductive WaitState where
  | met
  | pending
  | bad
deriving DecidableEq, Repr

/-- The header wait's test (R115). -/
def headerMet (v value : Nat) : Bool := decide ((v + 2 ^ 32 - value) % 2 ^ 32 < 2 ^ 31)

/-- How an item's header wait stands; a word of the waiter's own tile is seen at once, any other when notified (R116). -/
def waitOf (d : Dev) (it : Item) : WaitState :=
  if !wiWaitEn it.wi || it.waitMet then .met
  else
    match waitRef d it.part it.wi with
    | none => .bad
    | some a =>
      match (if (it.lane = .matrix || it.lane = .vector || it.lane = .move) && (a - spBase) / 0x200000 == it.tile then tokenAt d a else tokenSeen d a) with
      | none => .bad
      | some v => if headerMet v (wiWaitValue it.wi) then .met else .pending

/-! ### Order (R92, R110, R122) -/

/-- Whether `x` is in the ORDER and scope-0 scope of `it`: the earlier items of its ring, or of its replay. -/
def before (it x : Item) : Bool := x.ring = it.ring && x.graph = it.graph && decide (x.uid < it.uid)

def orderOk (d : Dev) (it : Item) : Bool := !wiOrder it.wi || !d.disp.items.any (before it)

/-- No earlier fence of its scope stands before it. DESIGN CHOICE: a fence copy of a step graph holds back the later copies of
its own replay alone, and no ring item fetched after it (R110, R122, log 121). -/
def fenceOk (d : Dev) (it : Item) : Bool := !d.disp.items.any fun x => before it x && wiType x.wi == 6

/-! ### Stopping and completing -/

def ringOwnerLost (d : Dev) (r : Nat) : Bool := !voteHolds d .ringCfgPartition r

/-- R91: a ring with ENABLE 0 and nothing in flight is disabled and no longer counts. -/
def settle (d : Dev) (r : Nat) : Dev :=
  if !isSet d .ringStateEnable r && rd d .ringInflight r == 0 && rd d .ringStateState r != 0 then
    let d := wr d .ringStateState r 0
    if ringOwnerLost d r then d else drop1 d .partCountRings (rd d .ringCfgPartition r)
  else d

/-- The tile field of a completion (R126). DESIGN CHOICE: zero for token work items and for work items rejected before they are
placed, and the tile of a placed work item that ends before it starts (log 122). -/
def ranOn (it : Item) : Nat :=
  match it.lane, it.phase with
  | .token, _ => 0
  | .home, _ => 0
  | _, .fetched => 0
  | _, _ => placeOf it.tile

/-- The completion entry of R126. -/
def workEntry (d : Dev) (it : Item) (cause : Nat) : Entry :=
  let item := if it.graph.isSome then it.index else it.index % 2 ^ rd d .ringCfgLog2Size it.ring
  entryOf 1 (rd d .ringCfgPartition it.ring) cause it.ring
    [(0x08, wiTag it.wi), (0x0C, it.ring), (0x0E, ranOn it), (0x10, it.flags % 128),
     (0x11, bit it.collision + 2 * bit it.replayed + 4 * bit it.faultHeld), (0x14, it.step), (0x18, item),
     (0x1C, min it.cycles (2 ^ 32 - 1))]

/-- A copy of a graph leaves its replay (R126): one fewer open in its step. -/
def graphDone (d : Dev) (it : Item) : Dev :=
  match it.graph with
  | none => d
  | some g => onDisp d fun s => { s with graphs := s.graphs.map fun r =>
      if r.uid = g then { r with open_ := putD r.open_ it.step (getD r.open_ it.step 0 - 1) 0 } else r }

/-- The spare wired below a tile (R506). -/
def spareOf (t : Nat) : Nat := tileCol t / 3

/-- A tile's replay is over (R508): the replay event, and placement goes on. -/
def replayEnd (d : Dev) (t lost : Nat) : Dev :=
  match find? d.safe.swaps t with
  | none => d
  | some w =>
    let d := onSafe d fun x => { x with swaps := del x.swaps t }
    let d := if w.retire then wr (wr d .safetyTileRetireBusy 0 0) .safetyTileRetireResult 0 0 else d
    let d := onDisp d fun s => { s with blocked := s.blocked.filter (· ≠ t), replay := del s.replay t }
    let d := safetyEvent d 0x41 ((tileOwner d t).getD 0) 0 0 w.cls 1 t (spareOf t) w.ran lost
    bump d .safetyTilesReplayed

/-- A journal entry of a replay has run, or its work item is gone: the next entry follows (R131, R508). -/
def popReplay (d : Dev) (t uid : Nat) : Dev :=
  match find? d.disp.replay t with
  | none => d
  | some l =>
    if l.contains uid then
      let rest := l.filter fun u => u ≠ uid
      let d := onSafe d fun x => match find? x.swaps t with
        | some w => { x with swaps := put x.swaps t { w with ran := w.ran + 1 } }
        | none => x
      let d := onDisp d fun s => { s with replay := put s.replay t rest }
      if rest.isEmpty then replayEnd d t 0 else d
    else d

/-- A work item leaves the device: its entry when CQE or the cause asks for one, its journal state, its count. -/
def leave (d : Dev) (it : Item) (cause : Nat) : Dev :=
  let d := dropItem d it.uid
  let d := onDisp d fun s => { s with graphs := s.graphs.filter fun r => r.uid ≠ it.uid, vec := del s.vec it.uid, moveIx := del s.moveIx it.uid }
  let d := if it.lane = .token || it.lane = .home || it.phase = .fetched then d
    else journalSet d it.tile it.uid fun e => { e with state := 2, retired := cause != 0 }
  let d := if wiCqe it.wi || cause != 0 then postCq d (rd d .ringCfgCq it.ring) (workEntry d it cause) (.item it.uid) else d
  let d := popReplay (graphDone d it) it.tile it.uid
  if it.graph.isSome then d else drop1 d .ringInflight it.ring

/-- A work item leaves, and its ring with it when it is the last of a disabled one (R91). -/
def retire (d : Dev) (it : Item) (cause : Nat) : Dev := settle (leave d it cause) it.ring

/-- Work items of a ring that have been fetched and not started, in order; one that started on a tile that then faulted has
started (R127, R131). -/
def unstarted (d : Dev) (r : Nat) : List Item :=
  d.disp.items.filter fun x => x.ring = r && (x.phase = .fetched || x.phase = .placed) && !x.rerun && !x.patched

/-- R127: the ring enters state 3 with the cause, its EQ is told, its unstarted work items complete with 0x52. -/
def ringStop (d : Dev) (r cause : Nat) : Dev :=
  if rd d .ringStateState r = 0 || rd d .ringStateState r = 3 then d
  else
    let d := setSleep (wr (wr d .ringStateState r 3) .ringStateLastCause r cause) (.ring r) none
    let d := postEq d (rd d .ringCfgEq r) (entryOf 5 (rd d .ringCfgPartition r) cause r [])
    settle ((unstarted d r).foldl (fun d it => retire d it 0x52) d) r

/-- Work items complete with a non-zero cause at once, and stop their rings (R126, R127). -/
def completeAll (d : Dev) (l : List Item) (cause : Nat) : Dev :=
  let d := l.foldl (fun d x => leave d x cause) d
  let d := l.foldl (fun d x => ringStop d x.ring cause) d
  l.foldl (fun d x => settle d x.ring) d

/-- A work item completes with a cause (R126, R127). -/
def complete (d : Dev) (it : Item) (cause : Nat) : Dev :=
  if cause = 0 then retire d it 0 else completeAll d [it] cause

/-- Whether a signal goes to a word of the item's own partition in this package, which the item's completion does not
wait for; any other signal's failure is reported by the item (R114, R117, R118). -/
def signalOwn (d : Dev) (it : Item) : Bool :=
  let fa := wiSignalFa it.wi
  fa >>> 48 == rd d .meshNodeId &&
    match place d (fa % 2 ^ 48) with
    | .scratch t _ => tileOwner d t = some it.part
    | _ => false

/-- The end of a work item's own work: journal, signal, completion (R117, R118). -/
def finish (d : Dev) (it : Item) (cause : Nat) : Dev :=
  let d := popReplay d it.tile it.uid
  if it.rerun then dropItem d it.uid
  else if cause = 0 ∧ wiSignalAdd it.wi ≠ 0 then
    let sig : Signal := { uid := it.uid, part := it.part, tile := it.tile, fa := wiSignalFa it.wi, add := wiSignalAdd it.wi }
    let d := onDisp d fun s => { s with signals := s.signals ++ [sig] }
    if signalOwn d it then complete d it 0
    else
      let d := if it.lane = .token || it.lane = .home then d
        else journalSet d it.tile it.uid fun e => { e with state := 2 }
      modItem d it.uid fun x => { x with phase := .signalling }
  else complete d it cause

/-- Finish a work item by its number; nothing when it is gone. -/
def finishUid (d : Dev) (uid cause : Nat) : Dev :=
  match itemOf d uid with
  | some it => finish d it cause
  | none => d

end Sys2Proof.Machine
end

