-- ==== Sys2Proof/Machine/Rings.lean ====
section
/-!
DEFINITION. Work rings: enable, disable, restart, doorbell and fetch (R84 to R91, R240 to R244), the home dispatcher's
turn with its checks and placement (R87, R95, R112, R133), and the active set (R96).
-/
namespace Sys2Proof.Machine

def rings : Nat := 4096

/-- Whether a partition's queues may be fetched: stage RUN and not freezing or frozen (R453). -/
def mayFetch (d : Dev) (p : Nat) : Bool := inRun d && rd d .partStatusState p == 0

/-! ### Fetch -/

def fetchedOf (d : Dev) (r : Nat) : List Item := d.disp.items.filter fun x => x.ring = r && x.phase = .fetched && x.graph.isNone

def setRingHead (d : Dev) (r h : Nat) : Dev :=
  wr (wr d .ringHeadIndex r h) .ringHeadExpectedPhase r (phaseAt h (rd d .ringCfgLog2Size r))

/-- A new work item record, with the next number. -/
def newItem (d : Dev) (it : Item) : Dev :=
  onDisp d fun s => { s with items := s.items ++ [{ it with uid := s.nextUid }], nextUid := s.nextUid + 1 }

/-- The row of a ring's home dispatcher. -/
def homeRow (d : Dev) (r : Nat) : Nat := rd d .ringCfgHomeRow r

/-- A ring as a queue of R242; a slot that cannot be translated stops it with 0x4D (R88). -/
def ringFetch (r : Nat) : Fetch where
  id := .ring r
  head d := rd d .ringHeadIndex r
  setHead d h := setRingHead d r h
  hint d := rd d .ringDoorbellHint r
  log2 d := rd d .ringCfgLog2Size r
  read d h :=
    let a := rd d .ringBaseAddr r * 4096 + h % 2 ^ rd d .ringCfgLog2Size r * 64
    match dvaRead d (rowAgent (homeRow d r)) (rd d .ringCfgPartition r) a 64 true with
    | (d, .ok bs) => (d, .got (BitVec.ofNat 512 (fromBytes bs)))
    | (d, .xfail _ _ _ _) => (d, .bad 0x4D)
    | (d, .mfail c) => (d, .bad c)
    | (d, .wait) => (d, .wait)
  accept d h x := newItem (bump d .ringInflight r)
    { uid := 0, ring := r, part := rd d .ringCfgPartition r, index := h, wi := x }
  onBad d c := ringStop d r c
  running d := wr d .ringStateState r 1
  parked d := wr d .ringStateState r 2

/-- Fetch for a ring with the next interval `w`, as far as its eight places at the home dispatcher allow. -/
def ringGo (d : Dev) (r w : Nat) : Dev :=
  if isSet d .dispatchCtrlEnable && mayFetch d (rd d .ringCfgPartition r) then
    fetchRun (ringFetch r) (8 - (fetchedOf d r).length) w d
  else setSleep d (.ring r) (some 0)

/-! ### Ring commands -/

/-- The cause that refuses an enable (R84, R90, R448); 0 for none. -/
def ringRefusal (d : Dev) (r : Nat) : Nat :=
  let p := rd d .ringCfgPartition r
  let l := rd d .ringCfgLog2Size r
  if l < 6 || l > 16 || rd d .ringCfgHomeRow r > 23 || rd d .ringCfgCq r > 16383 then 0x51
  else if ringOwnerLost d r || rd d .partCountRings p ≥ min 64 (rd d .partQuotaRingMax p) then 0x49
  else 0

def ringEnableEffect (d : Dev) (r : Nat) : Dev :=
  if isSet d .ringStateEnable r then d
  else if rd d .ringStateState r != 0 then wr d .ringStateEnable r 1
  else
    let c := ringRefusal d r
    if c ≠ 0 then wr d .ringStateLastCause r c
    else
      let d := wr (wr d .ringStateEnable r 1) .ringStateState r 1
      setRingHead (bump d .partCountRings (rd d .ringCfgPartition r)) r (rd d .ringHeadIndex r)

/-- RING_ENABLE (R91, R84, R90). -/
def execRingEnable (ring : Nat) (s : State) : Host.Outcome State Fault Refusal :=
  drv s "RING_ENABLE" (decide (ring < rings)) (ringEnableEffect s.dev ring)

def ringDisableEffect (d : Dev) (r : Nat) : Dev := settle (setSleep (wr d .ringStateEnable r 0) (.ring r) none) r

/-- RING_DISABLE (R91). -/
def execRingDisable (ring : Nat) (s : State) : Host.Outcome State Fault Refusal :=
  drv s "RING_DISABLE" (decide (ring < rings)) (ringDisableEffect s.dev ring)

def ringRestartEffect (d : Dev) (r : Nat) : Dev :=
  if isSet d .ringStateEnable r && rd d .ringStateState r == 3 then
    setSleep (wr d .ringStateState r 1) (.ring r) (some 0)
  else d

/-- RING_RESTART (R90, R127): fetch resumes at HEAD in the ring's next turn. -/
def execRingRestart (ring : Nat) (s : State) : Host.Outcome State Fault Refusal :=
  drv s "RING_RESTART" (decide (ring < rings)) (ringRestartEffect s.dev ring)

/-- Whether a doorbell is discarded (R240): narrower than 8 bytes, a reserved bit set, or not owned. -/
def dbRefused (width val top : Nat) (owned : Bool) : Bool := width != 8 || val >>> top != 0 || !owned

def ringDoorbellEffect (d : Dev) (win width val : Nat) : Dev :=
  let d := wake d .laurel
  let r := cut val 32 12
  let i := cut val 0 32
  if dbRefused width val 44 (!ringOwnerLost d r && rd d .ringCfgPartition r == win) then bump d .pwinDbDiscards win
  else
    let d := wr (wr d .pwinRingDbIndex win i) .pwinRingDbRing win r
    let d := wr d .ringDoorbellHint r i
    if (rd d .ringStateState r == 1 || rd d .ringStateState r == 2) && isSet d .ringStateEnable r then
      ringGo (wr d .ringStateState r 1) r 64
    else d

/-- RING_DOORBELL (R239 to R244, R91). -/
def execRingDoorbell (win width val : Nat) (s : State) : Host.Outcome State Fault Refusal :=
  drv s "RING_DOORBELL" (decide (win < 64)) (ringDoorbellEffect s.dev win width val)

/-! ### Checks of the row dispatcher (R133) -/

/-- Reserved bits of the fields of a matrix work item; those of a plane that its settings do not use are ignored (R99). -/
def matrixReserved (w : Desc) : Bool :=
  let block := fun lo => isBlock (fieldAt w 0x34 lo 4)
  fieldAt w 0x18 15 1 != 0 || fieldAt w 0x1A 15 1 != 0 || (fieldAt w 0x3C 3 1 == 1 && fieldAt w 0x1C 15 1 != 0)
  || fieldAt w 0x1E 15 1 != 0 || (block 20 && fieldAt w 0x20 17 15 != 0) || (block 24 && fieldAt w 0x24 17 15 != 0)
  || (fieldAt w 0x3C 4 1 == 1 && fieldAt w 0x28 17 15 != 0) || (block 28 && fieldAt w 0x2C 17 15 != 0)
  || fieldAt w 0x30 15 1 != 0 || fieldAt w 0x32 15 1 != 0 || fieldAt w 0x3C 5 3 != 0 || fieldAt w 0x3D 0 24 != 0

/-- A reserved bit or value that no other code covers (R112). DESIGN CHOICE: set reserved bits of an attention or step-graph
work item give 0x51 too, since 0x5B and 0x50 are named for their fields (log 117). -/
def wiReserved (w : Desc) : Bool :=
  fieldAt w 2 13 3 != 0 || fieldAt w 8 29 2 != 0 ||
  match wiType w with
  | 1 => matrixReserved w
  | 2 => fieldAt w 0x18 21 11 != 0 || fieldAt w 0x1E 0 16 != 0 || fieldAt w 0x20 25 7 != 0 || fieldAt w 0x28 0 192 != 0
  | 3 => fieldAt w 0x2C 21 11 != 0 || fieldAt w 0x38 4 4 != 0 || fieldAt w 0x3A 0 16 != 0 || fieldAt w 0x3C 21 11 != 0
  | 4 => fieldAt w 0x20 21 11 != 0 || fieldAt w 0x24 21 11 != 0 || fieldAt w 0x28 24 8 != 0 || fieldAt w 0x2C 24 8 != 0
    || fieldAt w 0x36 4 4 != 0 || fieldAt w 0x38 2 30 != 0 || fieldAt w 0x3C 4 28 != 0
  | 5 => fieldAt w 0x18 4 4 != 0 || fieldAt w 0x19 4 4 != 0 || fieldAt w 0x1A 0 48 != 0
    || decide (fieldAt w 0x18 0 4 > 4) || decide (fieldAt w 0x19 0 4 > 4)
  | 6 => decide (fieldAt w 0x18 0 8 > 1) || decide (fieldAt w 0x19 0 8 > 2) || fieldAt w 0x1A 2 6 != 0
    || fieldAt w 0x1B 0 296 != 0
  | 7 => fieldAt w 0x3A 1 15 != 0
  | _ => false

/-- Whether a work item of this type runs in a tile lane. -/
def wiOnTile (w : Desc) : Bool := decide (1 ≤ wiType w ∧ wiType w ≤ 4)

/-- Whether new work may be placed on a tile for a partition. -/
def tileTakes (d : Dev) (p t : Nat) : Bool := tileOwner d t = some p && !isSet d .tileOwnerReleasing t

/-- Columns of a row on which a partition's work may be placed. -/
def rowColumns (d : Dev) (row p : Nat) : List Nat := (List.range 48).filter fun c => tileTakes d p (tileAt row c)

/-- The active set of a row and partition (R96): what has been grown, of the tiles still owned; never empty. -/
def activeSet (d : Dev) (row p : Nat) : List Nat :=
  let own := rowColumns d row p
  let set := own.filter fun c => (getD d.disp.active (row * 64 + p) {}).cols.contains c
  if set.isEmpty then own.take 1 else set

def laneOf (w : Desc) : Lane :=
  match wiType w with
  | 1 => .matrix
  | 2 => .vector
  | 3 => .move
  | 4 => .matrix
  | 5 => .token
  | _ => .home

/-- The placement check (R95). -/
def placeBad (d : Dev) (p : Nat) (w : Desc) : Bool :=
  if wiOnTile w then
    decide (wiMode w > 1) || decide (wiRow w > 23) || (wiMode w == 0 && decide (wiColumn w > 47))
      || (if wiMode w = 0 then !tileTakes d p (tileAt (wiRow w) (wiColumn w)) else (rowColumns d (wiRow w) p).isEmpty)
  else wiType w == 5 && decide (wiRow w > 23)

/-- A signal FA that is not aligned, or names no scratchpad word (R114). -/
def faBad (d : Dev) (fa : Nat) : Bool :=
  fa % 8 != 0 || match place d (fa % 2 ^ 48) with
    | .scratch _ _ => false
    | _ => true

/-- The token references of the header (R114, R115), apart from registration, which is itself a work item's effect. -/
def refBad (d : Dev) (p : Nat) (w : Desc) : Bool :=
  (wiWaitEn w && (waitRef d p w).isNone) || (wiSignalAdd w != 0 && faBad d (wiSignalFa w))

/-- The row dispatcher's checks, in order, with the verdict on the placement; 0 for none. -/
def causeBy (d : Dev) (p : Nat) (w : Desc) (badPlace : Bool) : Nat :=
  if wiType w = 0 || wiType w > 7 then 0x48
  else if wiReserved w then 0x51
  else if badPlace then 0x49
  else if refBad d p w then 0x4A
  else 0

/-- The row dispatcher's checks of a work item to be placed (R133). -/
def dispatchCause (d : Dev) (p : Nat) (w : Desc) : Nat := causeBy d p w (placeBad d p w)

/-- The placement check of a copy that has its tile already, which a release of the tile no longer affects (R446). -/
def copyPlaceBad (d : Dev) (p : Nat) (w : Desc) : Bool :=
  if wiOnTile w then
    decide (wiMode w > 1) || decide (wiRow w > 23) || (wiMode w == 0 && decide (wiColumn w > 47))
      || (if wiMode w = 0 then tileOwner d (tileAt (wiRow w) (wiColumn w)) != some p
          else (List.range 48).all fun c => tileOwner d (tileAt (wiRow w) c) != some p)
  else wiType w == 5 && decide (wiRow w > 23)

/-- The checks at issue of a copy that is still to be patched: its type, its tile and its wait (R124). -/
def issueCause (d : Dev) (p : Nat) (w : Desc) : Nat :=
  if wiType w = 0 || wiType w > 7 then 0x48
  else if placeBad d p w then 0x49
  else if wiWaitEn w && (waitRef d p w).isNone then 0x4A
  else 0

/-! ### Placement -/

/-- The tile of a row choice: fewest work items in the lane, then the lowest column (R95). -/
def fewest (d : Dev) (row : Nat) (l : Lane) : List Nat → Option (Nat × Nat)
  | [] => none
  | c :: t =>
    let n := (laneItems d (tileAt row c) l).length
    match fewest d row l t with
    | none => some (n, c)
    | some x => if n ≤ x.1 then some (n, c) else some x

/-- The tile a checked work item goes to. -/
def chosenTile (d : Dev) (p : Nat) (w : Desc) : Nat :=
  if wiMode w = 0 then tileAt (wiRow w) (wiColumn w)
  else
    let free := (activeSet d (wiRow w) p).filter fun c => !d.disp.blocked.contains (tileAt (wiRow w) c)
    match fewest d (wiRow w) (laneOf w) free with
    | some x => tileAt (wiRow w) x.2
    | none => tileAt (wiRow w) ((activeSet d (wiRow w) p).headD 0)

/-- Put a work item that has passed its checks into its lane; false when the lane is full or its tile not taking work. -/
def placeItem (d : Dev) (it : Item) : Dev × Bool :=
  let l := laneOf it.wi
  let put_ := fun (d : Dev) (t : Nat) =>
    modItem (onDisp d fun s => { s with nextStamp := s.nextStamp + 1 }) it.uid
      fun x => { x with lane := l, tile := t, phase := .placed, stamp := d.disp.nextStamp }
  if wiOnTile it.wi then
    let t := chosenTile d it.part it.wi
    if d.disp.blocked.contains t || decide ((laneItems d t l).length ≥ 16) then (d, false)
    else
      match journalPlace d { it with tile := t } with
      | none => (complete d it 0x54, true)
      | some d => (onDisp (put_ (wake (wake d .mesh) (.tile t)) t) fun s => { s with 
        carried := s.carried ++ [{ tile := t, uid := it.uid, epoch := rd d .meshRouteCtrlEpoch }] }, true)
  else (put_ d (if l = .token then tileAt (wiRow it.wi) 0 else 0), true)

/-- Forward one checked work item; false when it must stay first in line. -/
def forwardBy (c : Nat) (d : Dev) (it : Item) : Dev × Bool := if c ≠ 0 then (complete d it c, true) else placeItem d it

/-- Check and forward one fetched work item. -/
def forward (d : Dev) (it : Item) : Dev × Bool := forwardBy (dispatchCause d it.part it.wi) d it

/-- Forward up to `n` fetched work items of a ring, until one must stay. -/
def forwardN : Nat → Nat → Dev → Dev
  | 0, _, d => d
  | n + 1, r, d =>
    match fetchedOf d r with
    | [] => d
    | it :: _ =>
      let f := forward d it
      if f.2 then forwardN n r f.1 else f.1

/-! ### The turn (R87) -/

/-- Rings of a home row with something to do: a work item to forward or a fetch between turns. -/
def turnRings (d : Dev) (row : Nat) : List Nat :=
  let a := (d.disp.items.filter fun x => x.phase = .fetched && x.graph.isNone).map (·.ring)
  let b := d.hl.sleeping.filterMap fun e => match e with
    | (.ring r, 0) => some r
    | _ => none
  (a ++ b).filter fun r => rd d .ringCfgHomeRow r = row

/-- The ring that is first from the pointer on, in ring order (R283). -/
def firstFrom (p : Nat) : List Nat → Option Nat
  | [] => none
  | r :: t =>
    match firstFrom p t with
    | none => some r
    | some x => if (r + rings - p) % rings ≤ (x + rings - p) % rings then some r else some x

/-! ### The active set (R96) -/

/-- The measurement of a row and partition. DESIGN CHOICE: once a tile has left, the microseconds below SHRINK_PCT are counted
from 0 again before another may leave (R96, log 120). -/
def activeAdjust (d : Dev) (row p stall : Nat) : Dev :=
  let k := row * 64 + p
  let set := activeSet d row p
  let low := (getD d.disp.active k {}).lowUs
  let store := fun (d : Dev) (c : List Nat) (l : Nat) => onDisp d fun s => { s with active := put s.active k { cols := c, lowUs := l } }
  if stall > rd d .dispatchOccCtrlGrowPct then
    let more := (rowColumns d row p).filter fun c => !set.contains c
    if more.isEmpty then store d set 0
    else
      let f := choose d more.length
      store f.2 (set ++ (more[f.1]?).toList) 0
  else if stall < rd d .dispatchOccCtrlShrinkPct then
    let top := set.foldl max 0
    let t := tileAt row top
    let idle := (laneItems d t .matrix).isEmpty && (laneItems d t .vector).isEmpty && (laneItems d t .move).isEmpty
    if low + 1 ≥ rd d .dispatchOccCtrlShrinkHold && idle && decide (set.length > 1) then store d (set.filter (· ≠ top)) 0
    else store d set (low + 1)
  else store d set 0

/-- ACTIVE_SET_ADJUST (R96): the measured load-stall share is the operand. -/
def execActiveSetAdjust (row part stallPct : Nat) (s : State) : Host.Outcome State Fault Refusal :=
  cmd s "ACTIVE_SET_ADJUST" (decide (row < 24 ∧ part < 64 ∧ stallPct ≤ 100)) (activeAdjust s.dev row part stallPct)

end Sys2Proof.Machine
end

