-- ==== Sys2Proof/Machine/Units.lean ====
section
/-!
DEFINITION. Taking a work item to its unit: which work item a unit starts next (R47, R92, R94, R508), a graph copy's
patches (R123 to R125), and what a completed unit leaves.
-/
namespace Sys2Proof.Machine

/-! ### Patches (R123) -/

def patchItem (p : Nat) : Nat := cut p 0 16
def patchOff (p : Nat) : Nat := cut p 16 8
def patchBytes (p : Nat) : Nat := 2 ^ cut p 24 2
def patchOp (p : Nat) : Nat := cut p 26 2
def patchSlot (p : Nat) : Nat := cut p 32 32
def patchOperand (p : Nat) : Nat := cut p 64 64

/-- Whether an entry breaks R124 apart from order. -/
def patchBad (items p : Nat) : Bool :=
  decide (patchItem p ≥ items) || decide (patchOff p < 2) || decide (patchOff p % patchBytes p ≠ 0)
    || decide (patchOff p + patchBytes p > 64) || cut p 28 4 != 0 || patchOp p == 3

/-- Whether a patch writes the wait fields, and is applied at issue (R125). -/
def patchEarly (p : Nat) : Bool := decide (8 ≤ patchOff p ∧ patchOff p + patchBytes p ≤ 16)

/-- A work item with a field of `n` bytes at byte `off` replaced. -/
def setField (w : Desc) (off n v : Nat) : Desc :=
  BitVec.ofNat 512 (w.toNat - fieldAt w off 0 (8 * n) <<< (8 * off) + (v % 2 ^ (8 * n)) <<< (8 * off))

/-- What applying patches gives: the work item, a cause, or a stall. -/
inductive PatchRes where
  | ok (w : Desc)
  | bad (cause : Nat)
  | wait
deriving DecidableEq, Repr

/-- Apply patches in table order (R124); `values` is the value area, `step` the step number, `orig` the work item before
them, to whose field STEP_LINEAR adds (R123). -/
def applyPatches (ag : Agent) (part values step : Nat) (orig : Desc) : List Nat → Desc → Dev → Dev × PatchRes
  | [], w, d => (d, .ok w)
  | p :: t, w, d =>
    let n := patchBytes p
    if patchOp p = 1 then
      applyPatches ag part values step orig t (setField w (patchOff p) n (fieldAt orig (patchOff p) 0 (8 * n) + step * patchOperand p)) d
    else
      let slot := if patchOp p = 2 then patchSlot p + step else patchSlot p
      match dvaRead d ag part (values + 8 * slot) 8 true with
      | (d, .ok bs) => applyPatches ag part values step orig t (setField w (patchOff p) n (fromBytes bs)) d
      | (d, .xfail _ _ _ _) => (d, .bad 0x4D)
      | (d, .mfail c) => (d, .bad c)
      | (d, .wait) => (d, .wait)

/-! ### Starting -/

/-- Whether an attention work item holds a tile (R94). -/
def attentionOn (d : Dev) (t : Nat) : Bool :=
  match running? d t .matrix with
  | some x => wiType x.wi == 4
  | none => false

def unitFree (d : Dev) (t : Nat) (l : Lane) : Bool := (running? d t l).isNone && !attentionOn d t

/-- The work item a unit would take next: the head of its lane, or in a replay the entry whose turn it is. -/
def nextOf (d : Dev) (t : Nat) (l : Lane) : Option Item :=
  match find? d.disp.replay t with
  | some (u :: _) => (itemOf d u).filter fun x => x.phase = .placed && x.lane = l
  | _ => if d.disp.blocked.contains t then none else laneHead d t l

/-- Whether the next work item of a lane may leave it, to run or, its wait naming no token, to complete (R92); its flits
have reached its tile (R272 WORK_ITEM). -/
def canStart (d : Dev) (it : Item) : Bool :=
  inRun d && !d.disp.carried.any (fun c => c.uid == it.uid) && (it.rerun || (orderOk d it && fenceOk d it)) && waitOf d it != .pending

/-- Whether an attention work item stands at the head of the matrix lane and waits for the units' current work items alone, so
that the move and vector units start nothing before it (R94). -/
def attentionNext (d : Dev) (t : Nat) : Bool :=
  (running? d t .matrix).isNone && (nextOf d t .matrix).any fun x => wiType x.wi == 4 && canStart d x

/-- Whether a home request is first in a tile's matrix lane: it holds the tile as an attention work item does (R165). -/
def homeHolds (d : Dev) (t : Nat) : Bool :=
  (running? d t .matrix).isNone && d.att.homes.any fun h => h.tile == t && !(laneItems d t .matrix).any fun x => decide (x.stamp < h.stamp)

/-- Whether the lane's next work item has a type and its unit is free. -/
def startable (d : Dev) (t : Nat) (l : Lane) (ty : Nat) : Bool :=
  match nextOf d t l with
  | none => false
  | some it => decide (t < tiles) && wiType it.wi == ty && canStart d it && domState d (.tile t) == 0 && unitFree d t l
      && (l == .matrix || !(attentionNext d t || homeHolds d t))
      && (ty != 4 || ((running? d t .vector).isNone && (running? d t .move).isNone))
      && (l != .matrix || !d.att.homes.any fun h => h.tile == t && decide (h.stamp < it.stamp))

/-- What a start finds: the work item as it runs, an immediate completion, or nothing yet. -/
inductive StartRes where
  | go (it : Item)
  | end_ (it : Item) (cause : Nat)
  | wait
deriving DecidableEq, Repr

/-- A graph copy's late patches, and the checks made again on the copy as patched (R124, R125). -/
def latePatch (d : Dev) (it : Item) : Dev × StartRes :=
  match it.graph with
  | none => (d, .go it)
  | some g =>
    match d.disp.graphs.find? fun r => r.uid = g, itemOf d g with
    | some run, some parent =>
      let ps := run.patches.filter fun p => patchItem p == it.index && !patchEarly p
      match applyPatches (rowAgent (homeRow d it.ring)) it.part (fieldAt parent.wi 0x28 0 64) it.step it.wi ps it.wi d with
      | (d, .ok w) =>
        let it := { it with wi := w }
        let c := causeBy d it.part w (copyPlaceBad d it.part w)
        if c ≠ 0 then (d, .end_ it c) else (d, .go it)
      | (d, .bad c) => (d, .end_ it c)
      | (d, .wait) => (d, .wait)
    | _, _ => (d, .go it)

/-- Take a work item from its lane (or its dispatcher) to run: waits first, then late patches, then the journal. -/
def begin_ (d : Dev) (it : Item) : Dev × StartRes :=
  if waitOf d it = .bad then (d, .end_ it 0x4A)
  else
    match (if it.rerun || it.patched then (d, StartRes.go it) else latePatch d it) with
    | (d, .go it) =>
      let it := { it with phase := .started, waitMet := true, patched := true }
      let d := modItem d it.uid fun _ => it
      let d := if it.lane = .token || it.lane = .home then d
        else journalSet d it.tile it.uid fun e => { e with wi := it.wi, state := if it.rerun then 2 else 1 }
      (d, .go it)
    | r => r

/-- Begin and go on with the unit's own start. -/
def startWith (d : Dev) (it : Item) (k : Dev → Item → Dev) : Dev :=
  match begin_ d it with
  | (d, .go it) => k d it
  | (d, .end_ it c) => finish d it c
  | (d, .wait) => d

/-- Start the next work item of a lane. -/
def startLane (d : Dev) (t : Nat) (l : Lane) (k : Dev → Item → Dev) : Dev :=
  match nextOf d t l with
  | some it => startWith d it k
  | none => d

/-! ### Scratchpad accesses of a tile's units -/

/-- Read bytes of a tile's own scratchpad. -/
def spRead (d : Dev) (t off n : Nat) : Dev × Option Nat × List Byte := memRead d (spAddr t off) n

/-- Write bytes of a tile's own scratchpad for a work item that runs there. -/
def spWrite (d : Dev) (uid t off : Nat) (bs : List Byte) : Dev × Option Nat := memStore d (.item uid) t (spAddr t off) bs

def roundUp (x n : Nat) : Nat := (x + n - 1) / n * n
def ceilDiv (x n : Nat) : Nat := (x + n - 1) / n

end Sys2Proof.Machine
end

