-- ==== Sys2Proof/Machine/FaultSlots.lean ====
section
/-!
DEFINITION. Fault slots and records (R217, R218), and work parked while an invalidation stalls its lookup or no module
of the host link is up (R226, R259).
-/
namespace Sys2Proof.Machine

/-- The fault slots of a partition that hold nothing (R217). -/
def freeSlots (d : Dev) (p : Nat) : List Nat := (List.range 16).filterMap fun i =>
  if (find? d.xl.held (16 * p + i)).isNone then some (16 * p + i) else none

/-- What a fault record names beside its cause (R218). -/
structure FaultInfo where
  engine : Nat
  access : Nat
  tile : Nat
  id : Nat
deriving DecidableEq, Repr

/-- A transfer finds no slot free: it waits, and a retry that fails again goes on with the same wait (R217). -/
def waitForSlot (d : Dev) (p : Nat) (work : HeldWork) : Dev :=
  if d.xl.waiting.any fun w => w.work = work then
    onXl d fun s => { s with waiting := s.waiting.map fun w => if w.work = work then { w with trying := false } else w }
  else bump (onXl d fun s => { s with waiting := s.waiting ++ [{ part := p, work := work }] }) .xlateSlotWaits

/-- Hold a transfer: a free slot takes the record, sent to FAULT_EQ; with no slot free the transfer waits (R217). -/
def raiseFault (d : Dev) (p : Nat) (work : HeldWork) (i : FaultInfo) (cause dva level flags : Nat) : Dev :=
  let free := freeSlots d p
  if free.isEmpty then waitForSlot d p work
  else
    let c := choose d free.length
    let d := c.2
    let slot := free.getD c.1 (16 * p)
    let gen := (getD d.xl.slotGen slot 0 + 1) % 2 ^ 16
    let e := entryOf 3 p cause slot [(8, dva), (0x10, slot), (0x12, gen), (0x14, i.engine + 8 * i.access + 32 * level),
      (0x16, i.tile), (0x18, i.id), (0x1C, flags)]
    let d := onXl d fun s => { s with slotGen := put s.slotGen slot gen, slotRec := put s.slotRec slot e,
                                      held := put s.held slot { work := work, cause := cause } }
    postEq (bump d .xlateFaults) (rd d .xlateFaultEq) e

/-- A slot is free again: its record reads zero, and every transfer of its partition that waits for one is to retry (R217). -/
def releaseSlot (d : Dev) (slot : Nat) : Dev :=
  onXl d fun s => { s with
    slotRec := del s.slotRec slot
    held := del s.held slot
    waiting := s.waiting.map fun w => if w.part = slot / 16 then { w with due := true } else w }

/-- Park work until lookups resume or a module comes up. -/
def park (d : Dev) (w : HeldWork) : Dev :=
  onXl d fun s => { s with parked := if s.parked.contains w then s.parked else s.parked ++ [w] }

/-- Whether a partition has a work item held on a translation fault, which stops WAIT_TIMEOUT (R119). -/
def anyHeld (d : Dev) (p : Nat) : Bool := d.disp.items.any fun x => x.part = p && x.held

end Sys2Proof.Machine
end

