-- ==== Sys2Proof/Machine/Tick.lean ====
section
/-!
DEFINITION. Time: the root clock's 80 ns tick (R480) and device time with its rate adjustment (R375, R376). An idle
block advances by one tick; commands themselves take no time in the model.
-/
namespace Sys2Proof.Machine

/-- Nanoseconds of one root-clock tick (12.5 MHz). -/
def rootNs : Nat := 80

/-- The rate adjustment, clamped to its range (R376). -/
def adjPpb (d : Dev) : Int := max (-100000) (min 100000 (signed 32 (rd d .timeAdjPpb)))

/-- Device time in whole ns. -/
def now (d : Dev) : Nat := rd d .timeNowNs

/-- Device time gains one tick: 80 ns times (1 + ADJ_PPB / 10^9), kept in 2^-32 ns with the remainder carried. -/
def advanceTime (d : Dev) : Dev :=
  let num := rootNs * 2 ^ 32 * ((10 ^ 9 : Int) + adjPpb d).toNat + d.port.adjRem
  let t := now d * 2 ^ 32 + d.port.frac + num / 10 ^ 9
  onPort (wr d .timeNowNs 0 (t / 2 ^ 32)) fun p => { p with frac := t % 2 ^ 32, adjRem := num % 10 ^ 9 }

/-- What an empty queue does: one root-clock tick while the always-on domain is powered. -/
def idleTick (d : Dev) : Dev :=
  if d.boot.powered then advanceTime { d with upNs := d.upNs + rootNs } else d

end Sys2Proof.Machine
end

