-- ==== Sys2Proof/Machine/Gates.lean ====
section
/-!
DEFINITION. Port counters and events (R373, R374, R390), device time commands (R375, R376) and gate lists (R378 to
R381).
-/
namespace Sys2Proof.Machine

def subports : Nat := 32

/-! ### Events and counters -/

/-- A port event (R390): the sub-port and its information word. -/
def portEvent (d : Dev) (sub cause info : Nat) : Dev :=
  postEq d (rd d .portEventEq (sub / 4)) (entryOf 0x3B 0 cause sub [(8, info)])

/-- Whether a sub-port exists in its port's mode (R366). -/
def subExists (d : Dev) (sub : Nat) : Bool :=
  decide (sub < subports) && match rd d .portCfgMode (sub / 4) with
    | 0 => sub % 4 == 0
    | 1 => decide (sub % 4 < 2)
    | 2 => true
    | _ => false

/-- A sub-port's rate in bytes per ns (R366). -/
def subRate (d : Dev) (sub : Nat) : Nat :=
  match rd d .portCfgMode (sub / 4) with
  | 0 => 200
  | 1 => 100
  | _ => 50

/-- Add to counter `k` of a sub-port: a change of bit 47 sets CNT_HALF and, when enabled and not already set, sends
0xD2 (R374). -/
def portCount (d : Dev) (sub k n : Nat) : Dev :=
  let i := sub * 16 + k
  let old := rd d .portCounter i
  let d := wr d .portCounter i (old + n)
  if bitOf old 47 == bitOf (rd d .portCounter i) 47 then d
  else
    let half := rd d .portsubCntHalf sub
    let d' := wr d .portsubCntHalf sub (half ||| 2 ^ k)
    if bitOf (rd d .portsubCntHalfEn sub) k && !bitOf half k then portEvent d' sub 0xD2 k else d'

/-! ### Gate lists (R378 to R381) -/

/-- Entry `i` of a bank. -/
def gateEntry (d : Dev) (sub bank i : Nat) : Nat := rd d .portsubGateEntry ((sub * 2 + bank) * 256 + i)

/-- The gates open on a sub-port now: every one when no list runs. -/
def openGates (d : Dev) (sub : Nat) : Nat :=
  match find? d.port.gates sub with
  | some g => g.gates
  | none => 0xFF

/-- The next entry of a list takes effect at its instant: its gate states, its end, the entry after it. -/
def gateAdvance (d : Dev) (sub : Nat) (g : GateRun) : GateRun :=
  let e := gateEntry d sub (rd d .portsubGateCtrlOperBank sub) g.next
  let start := if g.next = 0 then g.endAt else g.cycleStart
  let cycleEnd := start + g.cycle
  let ends := if g.next + 1 ≥ g.entries then cycleEnd else min cycleEnd (g.endAt + cut e 8 32)
  { g with gates := cut e 0 8, cycleStart := start, endAt := ends, next := if ends = cycleEnd then 0 else g.next + 1 }

def setGate (d : Dev) (sub : Nat) (g : Option GateRun) : Dev :=
  let d := wr d .portsubGateCtrlRunning sub (bit g.isSome)
  onPort d fun p => { p with gates := match g with | some x => put p.gates sub x | none => del p.gates sub }

/-- Whether the admin configuration may take effect (R379). -/
def gateAdminOk (d : Dev) (sub : Nat) : Bool :=
  let cyc := rd d .portsubGateAdminCycleNs sub
  let n := rd d .portsubGateAdminEntries sub
  let bank := 1 - rd d .portsubGateCtrlOperBank sub
  decide (1000 ≤ cyc ∧ cyc ≤ 1000000000 ∧ 1 ≤ n ∧ n ≤ 256) && (List.range n).all fun i =>
    let e := gateEntry d sub bank i
    decide (cut e 8 32 ≥ 64) && cut e 40 24 == 0

def gateChangeEffect (d : Dev) (sub : Nat) : Dev :=
  if isSet d .portsubGateCtrlPending sub then bump d .portsubGateWriteDiscards sub
  else if !gateAdminOk d sub then portEvent d sub 0xD4 0
  else
    let base := rd d .portsubGateAdminBase sub
    let cyc := rd d .portsubGateAdminCycleNs sub
    let d := wr d .portsubGateCtrlPending sub 1
    if base ≥ now d then wr d .portsubGateStart sub base
    else
      let n := (now d + cyc - base + cyc - 1) / cyc
      portEvent (bump (wr d .portsubGateStart sub (base + n * cyc)) .portsubGateLateStarts sub) sub 0xD3 0

/-- GATE_CHANGE (R379, R380). -/
def execGateChange (sub : Nat) (s : State) : Host.Outcome State Fault Refusal :=
  drv s "GATE_CHANGE" (decide (sub < subports)) (gateChangeEffect s.dev sub)

/-- A start instant that has come is started, not cancelled. -/
def gateCancelEffect (d : Dev) (sub : Nat) : Dev :=
  if isSet d .portsubGateCtrlPending sub && decide (now d < rd d .portsubGateStart sub) then wr d .portsubGateCtrlPending sub 0 else d

/-- GATE_CANCEL (R380). -/
def execGateCancel (sub : Nat) (s : State) : Host.Outcome State Fault Refusal :=
  drv s "GATE_CANCEL" (decide (sub < subports)) (gateCancelEffect s.dev sub)

def gateStartEffect (d : Dev) (sub : Nat) : Dev :=
  let d := wr (wr d .portsubGateCtrlPending sub 0) .portsubGateCtrlOperBank sub (1 - rd d .portsubGateCtrlOperBank sub)
  if isSet d .portsubGateAdminEnable sub then
    let g : GateRun := {
      base := rd d .portsubGateAdminBase sub, cycle := rd d .portsubGateAdminCycleNs sub,
      entries := rd d .portsubGateAdminEntries sub, cycleStart := rd d .portsubGateStart sub, next := 0,
      endAt := rd d .portsubGateStart sub, gates := openGates d sub }
    setGate d sub (some (gateAdvance d sub g))
  else setGate d sub none

/-- GATE_START (R380, R381). -/
def execGateStart (sub : Nat) (s : State) : Host.Outcome State Fault Refusal :=
  act s "GATE_START" (decide (sub < subports) && isSet s.dev .portsubGateCtrlPending sub
    && decide (rd s.dev .portsubGateStart sub ≤ now s.dev)) (gateStartEffect s.dev sub)

/-- The list whose current entry has ended. -/
def gateDue (d : Dev) (sub : Nat) : Option GateRun := (find? d.port.gates sub).filter fun g => decide (g.endAt ≤ now d)

def gateEntryEndEffect (d : Dev) (sub : Nat) : Dev :=
  match gateDue d sub with
  | some g => setGate d sub (some (gateAdvance d sub g))
  | none => d

/-- GATE_ENTRY_END (R378). -/
def execGateEntryEnd (sub : Nat) (s : State) : Host.Outcome State Fault Refusal :=
  act s "GATE_ENTRY_END" ((gateDue s.dev sub).isSome) (gateEntryEndEffect s.dev sub)

/-! ### Device time (R375, R376) -/

/-- A running list restarts from entry 0 at its first instant not before the new time; its gates stay (R381). -/
def gateRestart (t : Nat) (g : GateRun) : GateRun :=
  let n := if t ≤ g.base then 0 else (t - g.base + g.cycle - 1) / g.cycle
  { g with next := 0, endAt := g.base + n * g.cycle, cycleStart := g.base + n * g.cycle }

/-- Device time takes a new value: counted, and running lists restart. -/
def timeMoved (d : Dev) (ns frac : Nat) : Dev :=
  let d := bump (wr d .timeNowNs 0 ns) .timeSteps
  onPort d fun p => { p with frac := frac, gates := p.gates.map fun e => (e.1, gateRestart (rd d .timeNowNs) e.2) }

/-- A timestamp of a frame at a sub-port's connector, with the delay at bit `at_` of TS_CFG subtracted: within ±3 ns of device time with
the delay the image loaded, and off by as much as the field is off that (R377). -/
def stamp (d : Dev) (sub at_ : Nat) : Nat × Dev :=
  let f : Fld := if at_ = 0 then .portTsCfgTxDelay else .portTsCfgRxDelay
  let c := choose d 7
  let off : Int := ((cut (getD d.port.cal (sub / 4) 0) at_ 16 : Nat) : Int) - (rd d f (sub / 4) : Nat)
  ((((now d : Int) + (c.1 : Int) - 3 + off / 16) % 2 ^ 64).toNat, c.2)

/-- Reading NOW_NS latches NOW_FRAC. -/
def timeLatch (d : Dev) : Dev := wr d .timeNowFrac 0 d.port.frac

/-- TIME_SET (R376). -/
def execTimeSet (val : Nat) (s : State) : Host.Outcome State Fault Refusal :=
  drv s "TIME_SET" true (timeMoved (wr s.dev .timeSetNs 0 val) val 0)

/-- TIME_STEP (R376): the value is signed; adding it modulo 2^64 is the same. -/
def execTimeStep (val : Nat) (s : State) : Host.Outcome State Fault Refusal :=
  drv s "TIME_STEP" true (timeMoved (wr s.dev .timeStepNs 0 val) (now s.dev + val) s.dev.port.frac)

/-- TIME_ADJUST (R376): the rate of the next ticks. -/
def execTimeAdjust (val : Nat) (s : State) : Host.Outcome State Fault Refusal :=
  drv s "TIME_ADJUST" true (wr s.dev .timeAdjPpb 0 val)

end Sys2Proof.Machine
end

