-- ==== Sys2Proof/Machine/Yew.lean ====
section
/-!
DEFINITION. Key slots in use (R416 to R424), cipher engines (R413, R414), and protection domains and regions (R428 to
R430).
-/
namespace Sys2Proof.Machine

/-! ### Slots -/

def keysOf (d : Dev) (s : Nat) : SlotKeys := getD d.yew.keys s {}

def setKeys (d : Dev) (s : Nat) (k : SlotKeys) : Dev := onYew d fun y => { y with keys := putD y.keys s k {} }

/-- A slot event (R443): the slot, the queue pair concerned. -/
def slotEvent (d : Dev) (eq slot cause qpn : Nat) : Dev :=
  postEq d eq (entryOf 0x28 (rd d .yewSlotOwner slot) cause slot [(8, qpn)])

/-- Whether a slot is loaded, of a kind, and of a partition. -/
def slotLoaded (d : Dev) (s part kind : Nat) : Bool :=
  rd d .yewSlotState s == 1 && rd d .yewSlotKind s == kind && rd d .yewSlotOwner s == part

/-- The shadow half becomes active (R422 to R424): SEAL_COUNT restarts, an RX slot keeps the old key as previous. -/
def activate (d : Dev) (s : Nat) : Dev :=
  let k := keysOf d s
  match k.shadow with
  | none => d
  | some h =>
    let rx := rd d .yewSlotKind s == 2
    let d := setKeys d s { active := some h, shadow := none, prev := if rx then k.active else none, ncHigh := h.nc }
    let d := wr (wr (wr d .yewSlotShadow s 0) .yewSlotSealCount s 0) .yewSlotNcFloor s h.nc
    if rx then wr d .yewSlotPrev s 1 else d

/-- Zero a slot's key material. -/
def zeroKeys (d : Dev) (s : Nat) : Dev :=
  let d := setKeys d s {}
  wr (wr (wr (wr d .yewSlotShadow s 0) .yewSlotPrev s 0) .yewSlotSealCount s 0) .yewSlotNcFloor s 0

/-- The cause with which a queue pair that needs a slot enters ERROR (R425 to R427, R503). -/
def slotCause (d : Dev) (s : Nat) : Nat :=
  if isSet d .yewStatusAlarm then 0x82
  else if !(voteHolds d .yewSlotKind s && voteHolds d .yewSlotOwner s) then 0xEE
  else if rd d .yewSlotState s = 3 then 0x87 else 0x83

/-! ### Engines -/

def engineIn (d : Dev) (e : Nat) : Bool :=
  if e < 64 then bitOf (rd d .yewEngineOkLow) e else bitOf (rd d .yewEngineOkHigh) (e - 64)

/-- Engines in service that a partition's packets may use (R414, R441). -/
def enginesOf (d : Dev) (p : Nat) : List Nat := (List.range 128).filter fun e =>
  let o := rd d .yewEngineOwnerPartition e
  let res := isSet d .yewEngineOwnerReserved e
  engineIn d e && if sealedNow d p && !isSet d .yewSealStatusLost p then res && o == p
    else !(res && sealedNow d o)

/-- Take the next engine in turn (R283); none when no engine may serve the partition. -/
def takeEngine (d : Dev) (p : Nat) : Option Dev :=
  let es := enginesOf d p
  match (es.filter fun e => decide (d.yew.engPtr ≤ e)) ++ es with
  | [] => none
  | e :: _ => some (onYew d fun y => { y with engPtr := (e + 1) % 128 })

/-! ### Sealing -/

/-- What sealing a packet needs: its key and salt with the nonce counter, or why it cannot be sealed now. -/
inductive SealRes where
  | ok (key salt nonce : Nat)
  | absent (cause : Nat)
  | exhausted
  | noEngine
deriving DecidableEq, Repr

/-- Whether a TX key has sealed its last packet (R418). -/
def exhausted (d : Dev) (s : Nat) : Bool := decide (rd d .yewSlotSealCount s ≥ 2 ^ 48) && !isSet d .yewSlotShadow s

/-- Seal the next packet of a queue pair (R416 to R418, R422). -/
def sealNext (d : Dev) (part slot qpn txNonce eq : Nat) : Dev × SealRes :=
  if !slotLoaded d slot part 1 then (d, .absent (slotCause d slot))
  else
    let d := activate d slot
    match (keysOf d slot).active with
    | none => (d, .absent 0x83)
    | some k =>
      let n := rd d .yewSlotSealCount slot
      if n ≥ 2 ^ 48 then (d, .exhausted)
      else
        match takeEngine d part with
        | none => (d, .noEngine)
        | some d =>
          let nonce := max txNonce (rd d .yewSlotNcFloor slot + 1)
          let d := wr d .yewSlotSealCount slot (n + 1)
          let d := setKeys d slot { keysOf d slot with ncHigh := max (keysOf d slot).ncHigh nonce }
          (if n + 1 = 2 ^ 47 then slotEvent d eq slot 0x81 qpn else d, .ok k.key k.salt nonce)

/-- How opening a packet under an RX slot ends (R321 step 6, R424, R425). -/
inductive OpenRes where
  | ok
  | noKey
  | bad
deriving DecidableEq, Repr

def openUnder (d : Dev) (part slot : Nat) (m : SealMark) : OpenRes :=
  if !slotLoaded d slot part 2 then .noKey
  else
    let fits := fun (h : Option KeyHalf) => match h with
      | some k => k.key == m.key && k.salt == m.salt
      | none => false
    let k := keysOf d slot
    if m.intact && (fits k.active || fits k.prev) then .ok else .bad

/-! ### Protection domains and regions (R428 to R430, R432) -/

/-- Cache a table entry read for a partition, in place of one of the design's choice where the 8,192 entries, or the partition's part of
them, are held (R432, R449). -/
def cacheEntry (d : Dev) (isPd : Bool) (part i v : Nat) : Dev :=
  let m := if isPd then d.tr.pdCache else d.tr.regionCache
  let mine := (m.filter fun e => samePool d part e.2.part).map (·.1)
  let keep : Dev × KMap CachedEntry := if mine.length < tableMax d 8192 part then (d, m)
    else let c := choose d mine.length; (c.2, del m (mine.getD c.1 i))
  let m := put keep.2 i { val := v, part := part }
  onTr keep.1 fun t => if isPd then { t with pdCache := m } else { t with regionCache := m }

/-- Read a table entry for a partition through its cache; none when its line is poisoned. -/
def tableEntry (d : Dev) (isPd : Bool) (part i : Nat) : Dev × Option Nat :=
  match find? (if isPd then d.tr.pdCache else d.tr.regionCache) i with
  | some v => (d, some v.val)
  | none =>
    let a := if isPd then rd d .yewPdBase * 65536 + 8 * i else rd d .yewRegionBase * 65536 + 32 * i
    match dpaRead d 0x2000 a (if isPd then 8 else 32) with
    | (d, some _, _) => (d, none)
    | (d, none, bs) => (cacheEntry d isPd part i (fromBytes bs), some (fromBytes bs))

/-- The voted partition of a PD entry; a minority copy is written back (R428, R502), a lost vote reported (R503). -/
def pdPart (d : Dev) (i e : Nat) : Dev × Option Nat :=
  let a := rd d .yewPdBase * 65536 + 8 * i
  let x := cut e 1 6
  let y := cut e 7 6
  let z := cut e 13 6
  match majority x y z with
  | some p =>
    if x = y ∧ y = z then (d, some p)
    else
      let e' := e - cut e 1 18 * 2 + (p + p * 64 + p * 4096) * 2
      let w := dpaWrite d 0x2000 a (toBytes 8 e')
      (onTr w.1 fun t => { t with pdCache := t.pdCache.map fun c => if c.1 = i then (i, { c.2 with val := e' }) else c }, some p)
  | none => (voteLostAt d a, none)

/-- A valid protection domain, read for a partition: its own partition and FA window. An entry with a reserved bit set is none (R13, R428). -/
def pdOf (d : Dev) (part i : Nat) : Dev × Option (Nat × Option Nat) :=
  match tableEntry d true part i with
  | (d, none) => (d, none)
  | (d, some e) =>
    if !bitOf e 0 || cut e 20 12 != 0 || cut e 52 12 != 0 then (d, none)
    else
      match pdPart d i e with
      | (d, none) => (d, none)
      | (d, some p) => (d, some (p, if bitOf e 19 then some (cut e 32 20) else none))

/-- A region entry that is valid, has no reserved bit set and a LENGTH in its range (R13, R429). -/
def regValid (e : Nat) : Bool := bitOf e 0 && cut e 6 2 == 0 && cut e 20 12 == 0 && cut e 52 12 == 0 && cut e 192 64 == 0
  && decide (1 ≤ cut e 128 64 ∧ cut e 128 64 ≤ 2 ^ 48)
def regKind (e : Nat) : Bool := bitOf e 1
def regKey (e : Nat) : Nat := cut e 8 12
def regPd (e : Nat) : Nat := cut e 32 20
def regBase (e : Nat) : Nat := cut e 64 64
def regLength (e : Nat) : Nat := cut e 128 64

/-- Checks 1 and 2 of R430: the region a handle (or the FA window) names, belonging to PD `pd` of partition `part`. -/
def regionFind (d : Dev) (part pd : Nat) (fa faEnable : Bool) (rh : Nat) : Dev × Option Nat :=
  match pdOf d part pd with
  | (d, none) => (d, none)
  | (d, some (p, win)) =>
    let ix := if fa then win else if rh % 2 ^ 20 < 2 ^ clampTo 11 20 (rd d .yewRegionCfgLog2) then some (rh % 2 ^ 20) else none
    if p ≠ part ∨ (fa ∧ ¬ faEnable) then (d, none)
    else
      match ix with
      | none => (d, none)
      | some i =>
        match tableEntry d false part i with
        | (d, none) => (d, none)
        | (d, some e) =>
          let found := regValid e && regKind e == fa && (fa || regKey e == rh >>> 20)
          if found && regPd e == pd then (d, some e) else (d, none)

/-- Where an allowed access goes. -/
inductive Target where
  | dva (a : Nat)
  | dpa (a : Nat)
deriving DecidableEq, Repr

/-- The region check of R430 for a permission bit; a refusal counts in ACCESS_REFUSED. -/
def regionCheck (d : Dev) (part pd : Nat) (fa faEnable : Bool) (rh addr span perm : Nat) : Dev × Option Target :=
  match regionFind d part pd fa faEnable rh with
  | (d, none) => (bump d .yewAccessRefused, none)
  | (d, some e) =>
    let inside := if fa then decide (regBase e ≤ addr ∧ addr + span ≤ regBase e + regLength e)
      else decide (addr + span ≤ regLength e)
    if bitOf e perm && inside then (d, some (if fa then .dpa addr else .dva ((regBase e + addr) % 2 ^ 64)))
    else (bump d .yewAccessRefused, none)

end Sys2Proof.Machine
end

