-- ==== Sys2Proof/Machine/Qp.lean ====
section
/-!
DEFINITION. Queue-pair contexts: the image (R312, R355), the backing store and residency (R311, R325, R326, R337),
sequence arithmetic, queue-pair events (R310), live path sets (R338 to R342, R346).
-/
namespace Sys2Proof.Machine

/-! ### The image (R312, R355) -/

/-- One packed field: bit position, width, value. -/
def packFields (l : List (Nat × Nat × Nat)) : Nat := l.foldl (fun a f => a + (f.2.2 % 2 ^ f.2.1) <<< f.1) 0

def qpPartWord (q : Qp) : Nat := packFields [(0, 6, q.part), (6, 20, q.pd), (26, 16, q.txSlot), (42, 16, q.rxSlot)]

/-- The context as 512 bytes. -/
def qpImage (q : Qp) : List Byte :=
  let w := qpPartWord q
  let head := packFields [
    (0, 64, w), (64, 64, w), (128, 64, w),
    (0xC0, 4, q.state), (0xC4, 3, q.cls), (0xC7, 1, q.sticky), (0xC8, 1, q.faEnable), (0xC9, 1, q.attendEnable),
    (0xD0, 16, q.pathSet), (0xE0, 24, q.remoteQpn), (0x100, 128, q.remoteIp),
    (0x180, 16, q.remoteNode), (0x190, 4, q.localIp), (0x194, 8, q.eq), (0x19C, 4, q.retryMax), (0x1A0, 3, q.rnrRetry),
    (0x1C0, 5, q.sqLog2), (0x1CC, 52, q.sqBase), (0x200, 5, q.rqLog2), (0x20C, 52, q.rqBase),
    (0x240, 14, q.sqCq), (0x250, 14, q.rqCq), (0x280, 32, q.sqHead), (0x2A0, 32, q.sqDone),
    (0x2C0, 32, q.rqHead), (0x2E0, 32, q.rqDone), (0x300, 32, q.nextSsn), (0x320, 32, q.rxSsn),
    (0x340, 32, q.nextPsn), (0x360, 32, q.unaPsn), (0x380, 32, q.nextMsg), (0x3A0, 32, q.unaMsg),
    (0x3C0, 32, q.rxExpected), (0x3E0, 32, q.rxHigh), (0x400, 64, q.txNonce), (0x440, 64, q.rxNcHigh),
    (0x480, 32, q.srtt), (0x4A0, 32, q.rttvar), (0x4C0, 32, q.rto), (0x4E0, 8, q.lastCause)]
  let recs := packFields (q.atomicRec.zipIdx.flatMap fun r => [(96 * r.2, 32, r.1.1), (96 * r.2 + 32, 64, r.1.2)])
  let path := packFields [
    (0, 32, q.cwnd), (32, 32, q.inflight), (0x40, 32, q.baseRtt), (0x60, 32, q.baseStamp), (0x80, 32, q.roundEnd),
    (0xA0, 32, q.roundMinQ), (0xC0, 10, q.alpha), (0xCA, 6, q.cursor), (0xD0, 3, q.cleanRounds), (0xD3, 1, q.roundCe),
    (0xD4, 1, q.roundCut), (0xE0, 16, q.roundAcked), (0xF0, 16, q.roundMarked), (0x100, 12, q.liveSlot)]
  toBytes 160 head ++ toBytes 96 recs ++ toBytes 128 path ++ toBytes 128 q.rxMap

/-- Read a context from the number its 512 bytes spell, with the first of its voted words. -/
def qpOf (x : Nat) : Qp where
  part := cut x 0 6
  pd := cut x 6 20
  txSlot := cut x 26 16
  rxSlot := cut x 42 16
  state := cut x 0xC0 4
  cls := cut x 0xC4 3
  sticky := cut x 0xC7 1
  faEnable := cut x 0xC8 1
  attendEnable := cut x 0xC9 1
  pathSet := cut x 0xD0 16
  remoteQpn := cut x 0xE0 24
  remoteIp := cut x 0x100 128
  remoteNode := cut x 0x180 16
  localIp := cut x 0x190 4
  eq := cut x 0x194 8
  retryMax := cut x 0x19C 4
  rnrRetry := cut x 0x1A0 3
  sqLog2 := cut x 0x1C0 5
  sqBase := cut x 0x1CC 52
  rqLog2 := cut x 0x200 5
  rqBase := cut x 0x20C 52
  sqCq := cut x 0x240 14
  rqCq := cut x 0x250 14
  sqHead := cut x 0x280 32
  sqDone := cut x 0x2A0 32
  rqHead := cut x 0x2C0 32
  rqDone := cut x 0x2E0 32
  nextSsn := cut x 0x300 32
  rxSsn := cut x 0x320 32
  nextPsn := cut x 0x340 32
  unaPsn := cut x 0x360 32
  nextMsg := cut x 0x380 32
  unaMsg := cut x 0x3A0 32
  rxExpected := cut x 0x3C0 32
  rxHigh := cut x 0x3E0 32
  txNonce := cut x 0x400 64
  rxNcHigh := cut x 0x440 64
  srtt := cut x 0x480 32
  rttvar := cut x 0x4A0 32
  rto := cut x 0x4C0 32
  lastCause := cut x 0x4E0 8
  atomicRec := (List.range 8).map fun i => (cut x (0x500 + 96 * i) 32, cut x (0x520 + 96 * i) 64)
  rxMap := cut x 0xC00 1024
  cwnd := cut x 0x800 32
  inflight := cut x 0x820 32
  baseRtt := cut x 0x840 32
  baseStamp := cut x 0x860 32
  roundEnd := cut x 0x880 32
  roundMinQ := cut x 0x8A0 32
  alpha := cut x 0x8C0 10
  cursor := cut x 0x8CA 6
  cleanRounds := cut x 0x8D0 3
  roundCe := cut x 0x8D3 1
  roundCut := cut x 0x8D4 1
  roundAcked := cut x 0x8E0 16
  roundMarked := cut x 0x8F0 16
  liveSlot := cut x 0x900 12

/-- Reserved bits of an image (R312, R355). -/
def imageReserved (x : Nat) : Bool :=
  cut x 58 6 != 0 || cut x 122 6 != 0 || cut x 186 6 != 0 || cut x 0xCA 6 != 0 || cut x 0xF8 8 != 0
  || cut x 0x1A3 29 != 0 || cut x 0x1C5 7 != 0 || cut x 0x205 7 != 0 || cut x 0x24E 2 != 0 || cut x 0x25E 34 != 0
  || cut x 0x4E8 24 != 0 || cut x 0x8D5 11 != 0 || cut x 0x90C 52 != 0 || cut x 0x940 704 != 0

/-! ### Sequence arithmetic -/

def w32 : Nat := 2 ^ 32
def seqAdd (a b : Nat) : Nat := (a + b) % w32
def seqSub (a b : Nat) : Nat := (a + w32 - b % w32) % w32
/-- a is before b in serial-number order. -/
def seqLt (a b : Nat) : Bool := let x := seqSub b a; decide (1 ≤ x ∧ x < 2 ^ 31)

/-! ### Resident contexts -/

def qpAt (d : Dev) (n : Nat) : Option Qp := find? d.tr.qps n

def setQp (d : Dev) (n : Nat) (q : Qp) : Dev := onTr d fun t => { t with qps := put t.qps n q }

def modQp (d : Dev) (n : Nat) (f : Qp → Qp) : Dev :=
  match qpAt d n with
  | some q => setQp d n (f q)
  | none => d

def runOf (d : Dev) (n : Nat) : QpRun := getD d.tr.runs n {}

def modRun (d : Dev) (n : Nat) (f : QpRun → QpRun) : Dev := onTr d fun t => { t with runs := putD t.runs n (f (getD t.runs n {})) {} }

def msgsOf (d : Dev) (n : Nat) : List SendMsg := d.tr.msgs.filter fun m => m.qpn = n
def recsOf (d : Dev) (n : Nat) : List Rec := d.tr.recs.filter fun r => r.qpn = n

/-- States in which a queue pair receives (R313). -/
def qpReceives (q : Qp) : Bool := decide (2 ≤ q.state ∧ q.state ≤ 4)
def qpSends (q : Qp) : Bool := q.state = 2 || q.state = 3

/-- A queue-pair event (R310). -/
def qpEvent (d : Dev) (n : Nat) (q : Qp) (cause : Nat) : Dev :=
  postEq d q.eq (entryOf 0x12 q.part cause n [(8, q.lastCause)])

/-- Where a context lies: in host memory or not, and its address; none in a chunk that is not VALID. -/
def qpPlace (d : Dev) (n : Nat) : Option (Bool × Nat) :=
  let c := n / 65536
  if n = 0 ∨ n ≥ 2 ^ 24 ∨ ¬ isSet d .transportQpcDirValid c then none
  else some (isSet d .transportQpcDirHost c, rd d .transportQpcDirBase c * 65536 + n % 65536 * 512)

/-- Whether a context may be evicted (R326). -/
def evictable (d : Dev) (n : Nat) (q : Qp) : Bool :=
  !(q.sticky = 1 && qpSends q) && (recsOf d n).isEmpty && (msgsOf d n).isEmpty && (runOf d n).wrs.isEmpty
    && (runOf d n).rqReady.isEmpty && !(runOf d n).pending
    && !d.tr.openMsgs.any (fun o => o.qpn = n) && !d.tr.rx.any (fun r => r.p.destQpn = n)
    && !d.tr.parked.any (fun r => r.p.destQpn = n) && !d.tr.holds.any (fun h => h.qpn = n)
    && !d.tr.stallRx.any (fun r => r.p.destQpn = n)
    && match qpPlace d n with
       | some (true, _) => attached d && hostUp d
       | some (false, _) => true
       | none => false

/-- Write a context back and make room. -/
def writeBack (d : Dev) (n : Nat) (q : Qp) : Dev :=
  match qpPlace d n with
  | some (true, a) => (hostWrite d 0x2000 (hpaModule d a) a (qpImage q)).1
  | some (false, a) => (dpaWrite d 0x2000 a (qpImage q)).1
  | none => d

/-- STICKY contexts of queue pairs that send (R326, R336). -/
def stickyCount (d : Dev) : Nat := (d.tr.qps.filter fun e => e.2.sticky = 1 && qpSends e.2).length

def setSticky (d : Dev) : Dev := wr d .transportSticky 0 (stickyCount d)

/-- A context is resident no more; its fetched RQ entries are read again when they are needed. -/
def dropResident (d : Dev) (n : Nat) : Dev :=
  let d := modRun d n fun r => { r with rqEntries := [] }
  let d := onTr d fun t => { t with qps := del t.qps n, lru := t.lru.filter (· ≠ n) }
  setSticky (wr d .transportResident 0 d.tr.qps.length)

def evict (d : Dev) (n : Nat) (q : Qp) : Dev := dropResident (bump (writeBack d n q) .transportCtxEvictions) n

def touch (d : Dev) (n : Nat) : Dev := onTr d fun t => { t with lru := n :: t.lru.filter (· ≠ n) }

/-- The voted words of a fetched context: the number with the majority in the first place, or none (R312, R502). -/
def voteContext (x : Nat) : Option Nat :=
  (majority (cut x 0 64) (cut x 64 64) (cut x 128 64)).map fun w => x - cut x 0 192 + w + w * 2 ^ 64 + w * 2 ^ 128

/-- The bytes of a context as they stand, whatever an access to them meets. -/
def ctxBytes (d : Dev) (host : Bool) (a : Nat) : List Byte := readSparse (if host then d.mem.host else d.mem.bytes) a 512

/-- A context as it stands, without fetching it. -/
def peekQp (d : Dev) (n : Nat) : Option Qp :=
  match qpAt d n with
  | some q => some q
  | none =>
    match qpPlace d n with
    | none => none
    | some (host, a) =>
      if host && !attached d then none else (voteContext (fromBytes (ctxBytes d host a))).map qpOf

/-- The least recently used context that may be evicted for one of a partition (R326, R449). -/
def victim (d : Dev) (p : Nat) : Option (Nat × Qp) :=
  d.tr.lru.reverse.findSome? fun n => match qpAt d n with
    | some q => if samePool d p q.part && evictable d n q then some (n, q) else none
    | none => none

/-- The partition of a queue pair's context as it stands; 0 where there is none to be read. -/
def partOfQp (d : Dev) (n : Nat) : Nat := ((peekQp d n).map (·.part)).getD 0

/-- What loading a context gives; `wait` while no context may be evicted for it, or no module of the host link is up (R259, R326). -/
inductive LoadRes where
  | ok (q : Qp)
  | noContext
  | poisoned
  | hostGone
  | wait
deriving DecidableEq, Repr

/-- Checks that an image passes as WRITE_CONTEXT checks it (R312, R420); quotas apart. -/
def imageBad (d : Dev) (x : Nat) (q : Qp) : Dev × Bool :=
  let pdr := pdOf d q.part q.pd
  let d := pdr.1
  (d, imageReserved x || decide (q.sqLog2 < 6 ∨ q.sqLog2 > 16 ∨ q.rqLog2 < 6 ∨ q.rqLog2 > 16)
    || rd d .cqPartition q.sqCq != q.part || rd d .cqPartition q.rqCq != q.part || rd d .eqPartition q.eq != q.part
    || !isSet d .transportLocalIpValid q.localIp || q.retryMax == 0
    || rd d .yewSlotOwner q.txSlot != q.part || rd d .yewSlotKind q.txSlot != 1
    || rd d .yewSlotOwner q.rxSlot != q.part || rd d .yewSlotKind q.rxSlot != 2
    || match pdr.2 with
       | some (p, _) => p != q.part
       | none => true)

/-- A context enters ERROR as it is fetched, before anything of it runs (R325, R337); it counts for its partition from then on. -/
def bornError (d : Dev) (n : Nat) (q : Qp) (cause : Nat) (counted : Bool) : Dev × Qp :=
  let q := { q with state := 5, lastCause := cause }
  (qpEvent (if counted then d else bump d .partCountQps q.part) n q cause, q)

/-- Install a fetched context, checking it on the first fetch since its chunk became VALID (R337). -/
def install (d : Dev) (n x : Nat) (lost : Bool) : Dev × Qp :=
  let q := qpOf x
  let first := !d.tr.known.contains n
  let d := onTr d fun t => { t with known := if first then n :: t.known else t.known }
  let r : Dev × Qp :=
    if lost then bornError d n q 0x2B (!first && q.state ≠ 0)
    else if first && q.state = 6 then
      let b := imageBad d x q
      if b.2 then bornError b.1 n q 0x2D false else (bump b.1 .partCountQps q.part, q)
    else if first && q.state ≠ 0 then bornError d n q 0x2D false
    else (d, q)
  let d := touch (setQp r.1 n r.2) n
  (setSticky (wr d .transportResident 0 d.tr.qps.length), r.2)

/-- Whether a context can be reached: one in host memory waits while the host is attached and no module is up (R259). -/
def ctxWaits (d : Dev) (n : Nat) : Bool := (qpPlace d n).any fun x => x.1 && attached d && !hostUp d

/-- Read a context's 512 bytes for the transport engine. -/
def ctxRead (d : Dev) (host : Bool) (a : Nat) : Dev × Option Nat × List Byte :=
  if host then
    let m := hpaModule d a
    match hostReach d 0x2000 m a 512 with
    | (d, some c) => (d, some c, List.replicate 512 0)
    | (d, none) => answered 0x2000 (moduleEid m) (d, none, readSparse d.mem.host a 512)
  else dpaRead d 0x2000 a 512

/-- Room for one more resident context of a partition, by evicting the least recently used one that may be evicted. -/
def makeRoom (d : Dev) (p : Nat) : Option Dev :=
  if hasRoom d 32768 p 1 (d.tr.qps.map (·.2.part)) then some d else (victim d p).map fun v => evict d v.1 v.2

/-- Fetch a context that is not resident. -/
def fetchQp (d : Dev) (n : Nat) : Dev × LoadRes :=
  match qpPlace d n, makeRoom d (partOfQp d n) with
  | none, _ => (d, .noContext)
  | some _, none => (d, .wait)
  | some (host, a), some e =>
    if ctxWaits d n then (d, .wait)
    else
      match ctxRead (bump e .transportCtxFetches) host a with
      | (d, some c, _) =>
        if host && c == 0xE3 then (d, .hostGone) else ((install d n (fromBytes (ctxBytes d host a)) true).1, .poisoned)
      | (d, none, bs) =>
        match voteContext (fromBytes bs) with
        | none => ((install (if host then d else voteLostAt d a) n (fromBytes bs) true).1, .poisoned)
        | some x => let i := install d n x false; (i.1, .ok i.2)

/-- A context for a user on the device: the resident one, or fetched. -/
def loadQp (d : Dev) (n : Nat) : Dev × LoadRes :=
  match qpAt d n with
  | some q => (touch d n, .ok q)
  | none => fetchQp d n

/-- A user waits for a queue pair's context. -/
def awaitCtx (d : Dev) (n : Nat) (u : CtxUser) : Dev := onTr d fun t => { t with ctxWait := t.ctxWait ++ [(n, u)] }

/-! ### Paths (R338 to R341) -/

def pathSport (x : Nat) : Nat := cut x 0 16
/-- The sub-port index of a path. -/
def pathSub (x : Nat) : Nat := 4 * cut x 16 3 + cut x 19 2

/-- Whether a descriptor is valid (R339). -/
def pathValid (d : Dev) (x : Nat) : Bool := bitOf x 21 && cut x 22 10 == 0 && subExists d (pathSub x)

/-- Read a set's 64 descriptors; a set in a poisoned line has no valid path. -/
def readSet (d : Dev) (n : Nat) : Dev × List Nat :=
  match dpaRead d 0x2000 (rd d .transportPathsetBase * 65536 + 256 * n) 256 with
  | (d, some _, _) => (d, List.replicate 64 0)
  | (d, none, bs) => (d, (List.range 64).map fun i => fromBytes ((bs.drop (4 * i)).take 4))

def now32 (d : Dev) : Nat := now d % w32

def freshPath (d : Dev) (x : Nat) : PathSt := { up := pathValid d x, mark := false, delay := 0, lastHeard := now32 d }

/-- The live-set slot that holds a set. -/
def liveSlotOf (d : Dev) (set : Nat) : Option Nat := (d.tr.live.find? fun e => e.2.set = set).map (·.1)

def liveOf (d : Dev) (set : Nat) : Option LiveSet := (d.tr.live.find? fun e => e.2.set = set).map (·.2)

def modLive (d : Dev) (set : Nat) (f : LiveSet → LiveSet) : Dev :=
  onTr d fun t => { t with live := t.live.map fun e => if e.2.set = set then (e.1, f e.2) else e }

/-- The partition a live set is held for: that of a queue pair that names it. -/
def partOfSet (d : Dev) (set : Nat) : Nat := ((d.tr.qps.find? fun e => e.2.pathSet = set && qpReceives e.2).map (·.2.part)).getD 0

/-- The lowest free live-set slot, where a partition may take one. -/
def freeLive (d : Dev) (p : Nat) : Option Nat :=
  if hasRoom d 4096 p 1 (d.tr.live.map fun e => partOfSet d e.2.set) then (List.range (d.tr.live.length + 1)).find? fun i => (find? d.tr.live i).isNone
  else none

def setLiveCount (d : Dev) : Dev := wr d .transportLiveSets 0 d.tr.live.length

/-- Make a set live (R340, R341): its slot; none when every slot is taken. -/
def makeLive (d : Dev) (set owner : Nat) : Dev × Option Nat :=
  match liveSlotOf d set with
  | some i => (modLive d set fun l => { l with owner := owner }, some i)
  | none =>
    match freeLive d (partOfQp d owner) with
    | none => (d, none)
    | some i =>
      let r := readSet d set
      let l : LiveSet := { set := set, descs := r.2, paths := r.2.map (freshPath r.1), owner := owner }
      (setLiveCount (onTr r.1 fun t => { t with live := put t.live i l }), some i)

/-- Free a set's slot when no queue pair in READY, DRAINING or DRAINED names it; an owner that has left is gone. -/
def liveCheck (d : Dev) (set : Nat) : Dev :=
  let users := d.tr.qps.filter fun e => qpReceives e.2 && e.2.pathSet == set
  if users.isEmpty then setLiveCount (onTr d fun t => { t with live := t.live.filter fun e => e.2.set ≠ set })
  else modLive d set fun l =>
    if (find? d.tr.qps l.owner).any (fun q => qpSends q && q.pathSet == set) then l else { l with owner := 0 }

/-- Whether any path of a live set is up. -/
def anyUp (d : Dev) (set : Nat) : Bool := match liveOf d set with
  | some l => l.paths.any (·.up)
  | none => false

/-! ### Messages and records -/

def modMsg (d : Dev) (id : Nat) (f : SendMsg → SendMsg) : Dev :=
  onTr d fun t => { t with msgs := t.msgs.map fun m => if m.id = id then f m else m }

def dropMsg (d : Dev) (id : Nat) : Dev := onTr d fun t => { t with msgs := t.msgs.filter fun m => m.id ≠ id }

def newMsg (d : Dev) (m : SendMsg) : Dev :=
  onTr d fun t => { t with msgs := t.msgs ++ [{ m with id := t.nextMsgId }], nextMsgId := t.nextMsgId + 1 }

def modRec (d : Dev) (n psn : Nat) (f : Rec → Rec) : Dev :=
  onTr d fun t => { t with recs := t.recs.map fun r => if r.qpn = n ∧ r.psn = psn then f r else r }

/-- Release a record's charge (R351). -/
def uncharge (d : Dev) (n c : Nat) : Dev := modQp d n fun q => { q with inflight := q.inflight - c }

/-- UNA_PSN and UNA_MSG follow what is still unacknowledged (R331). -/
def settleUna (d : Dev) (n : Nat) : Dev :=
  modQp d n fun q =>
    let open_ := (recsOf d n).map fun r => ((List.range r.n).filter fun k => !r.answered.contains k).map (seqAdd r.psn)
    let una := open_.flatten.foldl (fun a p => if seqLt p a then p else a) q.nextPsn
    let msgs := (msgsOf d n).filterMap fun m => if m.allCut && (recsOf d n).all (fun r => r.msg ≠ m.id) then none else m.msgNo
    { q with unaPsn := una, unaMsg := msgs.foldl (fun a m => if seqLt m a then m else a) q.nextMsg }

end Sys2Proof.Machine
end

