-- ==== Sys2Proof/Machine/Send.lean ====
section
/-!
DEFINITION. The sending side of a queue pair: completions in posting order (R310, R329), entering ERROR (R316), the
congestion window (R351 to R354), path choice (R349, R350), acknowledgement and loss (R331 to R334), paths going down
(R343 to R345), and cutting messages into packets (R301, R309, R317 to R320).
-/
namespace Sys2Proof.Machine

/-! ### Completions -/

/-- The SQ completion entry of R310. -/
def sqEntry (q : Qp) (n index : Nat) (m : SendMsg) : Entry :=
  entryOf 0x10 q.part m.cause n [(8, m.tag), (0xC, index), (0x10, m.gotBytes % w32), (0x18, m.nonce.getD 0)]

/-- Deliver finished SQ work requests in posting order (R329). -/
def drainSq : Nat → Dev → Nat → Dev
  | 0, d, _ => d
  | fuel + 1, d, n =>
    match qpAt d n with
    | none => d
    | some q =>
      match d.tr.msgs.find? fun m => m.qpn = n ∧ m.who = .sq q.sqDone ∧ m.done with
      | none => d
      | some m =>
        let d := if m.cqe || m.cause != 0 then postCq d q.sqCq (sqEntry q n q.sqDone m) (.sent n m.id) else d
        drainSq fuel (setQp (dropMsg d m.id) n { q with sqDone := seqAdd q.sqDone 1 }) n

/-- DRAINING becomes DRAINED when every fetched work request has completed and UNA_PSN = NEXT_PSN (R313). -/
def drainedCheck (d : Dev) (n : Nat) : Dev :=
  match qpAt d n with
  | some q =>
    if q.state = 3 ∧ q.sqHead = q.sqDone ∧ (recsOf d n).isEmpty then setSticky (liveCheck (setQp d n { q with state := 4 }) q.pathSet) else d
  | none => d

/-- The cause an internal operation answers its engine with (R292). -/
def engineCause (c : Nat) : Nat := if c = 0x23 then 0xC2 else if 0x20 ≤ c ∧ c ≤ 0x3F ∧ c ≠ 0x24 ∧ c ≠ 0x25 then 0xC1 else c

/-- A message ends: an SQ work request waits its turn, an engine is answered by its flit (R291, R296), a collective is
told. -/
def endMsg (d : Dev) (m : SendMsg) (cause : Nat) : Dev :=
  match m.who with
  | .sq _ => modMsg d m.id fun x => { x with done := true, cause := cause, held := false, allCut := true }
  | .engine w =>
    let kind : AnsKind := if cause ≠ 0 then .error else if m.op = 2 then .readData else if m.op = 5 then .atomicResult else .writeAck
    let bs := if m.op = 2 then readSparse m.got 0 m.len else if m.op = 5 then toBytes 8 m.old else []
    sendAnswer (dropMsg d m.id)
      { src := m.src, txn := m.txn, kind := kind, who := w, dest := m.dest, cause := engineCause cause, bytes := if cause = 0 then bs else [], epoch := m.epoch }
  | .coll g r => collSent (dropMsg d m.id) g r cause
  | _ => dropMsg d m.id

/-- End messages all of whose packets are cut and acknowledged. -/
def endDone (d : Dev) (n : Nat) : Dev :=
  let fin := (msgsOf d n).filter fun m => m.allCut && !m.done && (recsOf d n).all fun r => r.msg ≠ m.id
  let d := fin.foldl (fun d m => endMsg d m m.cause) d
  drainedCheck (drainSq (fin.length + (msgsOf d n).length + 1) (settleUna d n) n) n

/-! ### Entering ERROR (R316) -/

/-- The RQ completion entry of R310. -/
def rqEntry (q : Qp) (n ssn tag bytes imm nonce cause : Nat) : Entry :=
  entryOf 0x11 q.part cause n [(8, tag), (0xC, ssn), (0x10, bytes % w32), (0x14, imm), (0x18, nonce)]

/-- Remove a queue pair's packets from the transmit queues. -/
def purgeTx (d : Dev) (n : Nat) : Dev :=
  onTr (onTop d fun t => { t with queue := t.queue.filter fun p => p.qpn ≠ n })
    fun t => { t with waitTx := t.waitTx.filter fun p => p.qpn ≠ n }

/-- The RQ entry of a finished SEND, when that entry has been fetched. -/
def rqDoneEntry (d : Dev) (n : Nat) (q : Qp) (ssn : Nat) : Option Entry :=
  match find? (runOf d n).rqEntries ssn, find? (runOf d n).rqReady ssn with
  | some x, some e => some (rqEntry q n ssn (fieldAt x 4 0 32) e.bytes e.imm e.nonce e.cause)
  | _, _ => none

/-- Write the completion of SEND `ssn` and go on to the next SSN. -/
def rqPost (d : Dev) (n : Nat) (q : Qp) (ssn : Nat) (e : Entry) : Dev :=
  let d := modRun (postCq d q.rqCq e (.recv n ssn)) n fun r => { r with rqReady := del r.rqReady ssn, rqEntries := del r.rqEntries ssn }
  modQp d n fun q => { q with rxSsn := seqAdd ssn 1, rqDone := seqAdd q.rqDone 1 }

/-- Open received SENDs of a queue pair end with 0x26; their RQ entries complete in SSN order (R316). -/
def flushRecv (d : Dev) (n : Nat) (q : Qp) : Dev :=
  let sends := d.tr.openMsgs.filter fun o => o.qpn = n && o.op = 4
  let d := sends.foldl (fun d o => modRun d n fun r =>
    { r with rqReady := put r.rqReady o.hdr { bytes := o.count, imm := o.imm, nonce := o.nonce, cause := 0x26 } }) d
  let order := (List.range 2048).map (seqAdd q.rxSsn)
  let d := order.foldl (fun d ssn => match rqDoneEntry d n q ssn with
    | some e => rqPost d n q ssn e
    | none => d) d
  onTr (modRun d n fun r => { r with rqReady := [], rqEntries := [] })
    fun t => { t with openMsgs := t.openMsgs.filter (fun o => o.qpn ≠ n), holds := t.holds.filter fun h => h.qpn ≠ n }

/-- Fetched work requests not yet started, as messages that end at once with a cause. -/
def wrEnded (d : Dev) (n : Nat) (w : Nat × Desc) (cause : Nat) : Dev :=
  newMsg d { id := 0, qpn := n, who := .sq w.1, op := 0, tag := fieldAt w.2 4 0 32, cqe := fieldAt w.2 0 5 1 == 1,
             cause := cause, done := true, allCut := true }

/-- A queue pair enters ERROR; `event` is false only in a warm reset (R316). -/
def qpErrorWith (d : Dev) (n cause : Nat) (event : Bool) : Dev :=
  match qpAt d n with
  | none => d
  | some q =>
    if q.state = 0 ∨ q.state = 5 then d
    else
      let q := { q with state := 5, lastCause := cause, inflight := 0 }
      let d := setQp d n q
      let d := if event then qpEvent d n q cause else d
      let d := purgeTx (onTr d fun t => { t with recs := t.recs.filter fun r => r.qpn ≠ n }) n
      let d := setSticky (setSleep (setSleep d (.sq n) none) (.rq n) none)
      if event then
        let d := (msgsOf d n).foldl (fun d m => if m.done then d else endMsg d m 0x26) d
        let d := (runOf d n).wrs.foldl (fun d w => wrEnded d n w 0x26) d
        let d := modRun d n fun r => { r with wrs := [], unreported := 0, pending := false }
        let d := drainSq ((msgsOf d n).length + 1) d n
        liveCheck (flushRecv (settleUna d n) n q) q.pathSet
      else
        let d := onTr d fun t => { t with
          msgs := t.msgs.filter (fun m => m.qpn ≠ n), openMsgs := t.openMsgs.filter (fun o => o.qpn ≠ n),
          holds := t.holds.filter (fun h => h.qpn ≠ n), runs := del t.runs n }
        liveCheck (settleUna d n) q.pathSet

def qpError (d : Dev) (n cause : Nat) : Dev := qpErrorWith d n cause true

/-! ### The window (R351 to R354) -/

def tagLen (d : Dev) (sub : Nat) : Nat := if isSet d .portsubVlanTagEn sub then 4 else 0

/-- Frame length from the destination MAC address through the FCS (R297). -/
def frameLen (d : Dev) (sub ext pay : Nat) : Nat := 138 + tagLen d sub + ext + pay

/-- Extension bytes of an opcode (R300). -/
def extLen (op : Nat) : Nat :=
  match op with
  | 2 => 8
  | 5 => 16
  | 6 => 8
  | 9 => 16
  | 10 => 32
  | 11 => 32
  | 12 => 16
  | 13 => 16
  | _ => 0

def sprayLook (d : Dev) : Nat := clampTo 1 8 (rd d .transportPleachCfgSprayLook)
def maxWnd (d : Dev) : Nat := clampTo 64 8192 (rd d .transportWndCfgMaxKib) * 1024

/-- A loss under R332 cuts the window once a round (R354). -/
def lossCut (d : Dev) (n : Nat) : Dev :=
  match qpAt d n with
  | some q =>
    if q.roundCut = 1 then d
    else bump (setQp d n { q with cwnd := max 9216 (q.cwnd / 2), roundCut := 1, cleanRounds := 0 }) .transportWndCuts
  | none => d

/-- The window constants as the registers give them, each within its range. -/
def wndNow (d : Dev) : WndConst where
  aiBytes := rd d .transportWndCfgAiBytes
  haiRounds := clampTo 1 7 (rd d .transportWndCfgHaiRounds)
  delayTarget := rd d .transportWndCfgDelayTarget
  delayBeta := rd d .transportWndCfgDelayBeta
  baseWindow := clampTo 1 4000 (rd d .transportWndCfgBaseWindow)

/-- The constants of a queue pair's round: those its start found (R364). -/
def wndOf (d : Dev) (n : Nat) : WndConst := (runOf d n).wnd.getD (wndNow d)

/-- A round starts: it takes the constants as they stand. -/
def takeWnd (d : Dev) (n : Nat) : Dev := modRun d n fun r => { r with wnd := some (wndNow d) }

/-- The end of a round (R353). -/
def endRound (d : Dev) (n : Nat) : Dev :=
  match qpAt d n with
  | none => d
  | some q =>
    if seqLt q.unaPsn q.roundEnd then d
    else
      let f := if q.roundAcked = 0 then 0 else min 1024 (q.roundMarked * 1024 / q.roundAcked)
      let alpha := ((q.alpha : Int) + Int.tdiv ((f : Int) - q.alpha) 16).toNat
      let cut0 := if q.roundCe = 1 then alpha / 2 else 0
      let w := wndOf d n
      let beta := w.delayBeta
      let target := w.delayTarget
      let cut_ := if beta ≠ 0 ∧ q.roundMinQ ≠ 0xFFFFFFFF ∧ q.roundMinQ > target
        then max cut0 (min 512 (beta * (q.roundMinQ - target) * 64 / q.roundMinQ)) else cut0
      let q1 : Qp :=
        if q.roundCut = 1 then q
        else if cut_ ≠ 0 then { q with cwnd := max 9216 (q.cwnd - q.cwnd * cut_ / 1024), cleanRounds := 0 }
        else
          let clean := min 7 (q.cleanRounds + 1)
          { q with cleanRounds := clean, cwnd := min (maxWnd d) (q.cwnd + w.aiBytes * (if clean ≥ w.haiRounds then 8 else 1)) }
      let d := if q.roundCut = 0 ∧ cut_ ≠ 0 then bump d .transportWndCuts else d
      setQp (takeWnd d n) n { q1 with
        alpha := alpha, roundEnd := q.nextPsn, roundMinQ := 0xFFFFFFFF, roundAcked := 0, roundMarked := 0, roundCe := 0, roundCut := 0 }

/-- A delay sample `s` on path `p` (R352); `marks` is the ECE_COUNT of an ACK or NAK, which names its path even where the sample is
discarded (R341). -/
def delaySample (d : Dev) (n p s : Nat) (marks : Option Nat) : Dev :=
  match qpAt d n with
  | none => d
  | some q =>
    let t := now32 d
    let noteMark := fun (x : PathSt) => match marks with
      | some c => { x with mark := decide (c > 0) }
      | none => x
    let onPath := fun (d : Dev) (f : PathSt → PathSt) =>
      modLive d q.pathSet fun l => { l with paths := l.paths.zipIdx.map fun e => if e.2 = p then f e.1 else e.1 }
    if s ≥ 2 ^ 31 then (if marks.isSome then onPath d fun x => { noteMark x with lastHeard := t } else d)
    else
      let window := (wndOf d n).baseWindow * 1000000
      let restart := decide (seqSub t q.baseStamp ≥ window) || q.baseRtt == 0xFFFFFFFF
      let base := if restart then s else min s q.baseRtt
      let qd := s - base
      let d := setQp d n { q with baseRtt := base, baseStamp := if restart then t else q.baseStamp, roundMinQ := min q.roundMinQ qd }
      let code := min 255 (qd / 128)
      onPath d fun x => { noteMark x with delay := ((x.delay : Int) + Int.tdiv ((code : Int) - x.delay) 4).toNat, lastHeard := t }

/-- Round-trip time and RTO (R331, RFC 6298). -/
def rttSample (d : Dev) (n s : Nat) : Dev :=
  if s ≥ 2 ^ 31 then d
  else
    let lo := rd d .transportRtoCfgMin * 1000
    let hi := rd d .transportRtoCfgMax * 1000
    modQp d n fun q =>
      let first := q.srtt = 0 && q.rttvar = 0
      let dev := if q.srtt ≥ s then q.srtt - s else s - q.srtt
      let var := if first then s / 2 else (3 * q.rttvar + dev) / 4
      let srtt := if first then s else (7 * q.srtt + s) / 8
      { q with srtt := srtt, rttvar := var, rto := max lo (min hi (srtt + 4 * var)) }

/-- Count acknowledged packets and marks of the round, saturating (R352). -/
def roundCount (d : Dev) (n acked marked : Nat) : Dev :=
  modQp d n fun q => { q with
    roundAcked := min 65535 (q.roundAcked + acked), roundMarked := min 65535 (q.roundMarked + marked),
    roundCe := if marked > 0 then 1 else q.roundCe }

/-! ### Path choice (R349, R350) -/

def classOf (d : Dev) (q : Qp) (op : Nat) : Nat := if op ≥ 10 then rd d .topiaryCfgCtrlClass else q.cls

/-- Whether a class queue of a sub-port has room (R356). -/
def queueRoom (d : Dev) (sub cls : Nat) : Bool :=
  decide ((d.top.queue.filter fun p => p.sub = sub && p.cls = cls).length < 4096)

/-- The best of the examined paths: index and score. -/
def bestPath (l : List (Nat × Nat)) : Option Nat :=
  (l.foldl (fun (a : Option (Nat × Nat)) x => match a with
    | none => some x
    | some y => if x.2 < y.2 then some x else some y) none).map (·.1)

/-- Choose a path for a packet of a class; `avoid` is the path it was lost on. -/
def choosePath (d : Dev) (q : Qp) (cls : Nat) (avoid : Option Nat) : Option (Nat × Nat) :=
  match liveOf d q.pathSet with
  | none => none
  | some l =>
    let usable := (List.range 64).filterMap fun k =>
      let i := (q.cursor + 1 + k) % 64
      match l.paths[i]?, l.descs[i]? with
      | some p, some x =>
        if p.up && pathValid d x && queueRoom d (pathSub x) cls then
          some (i, p.delay + (if p.mark then rd d .transportPleachCfgMarkPenalty else 0))
        else none
      | _, _ => none
    let others := usable.filter fun x => some x.1 ≠ avoid
    let look := (if others.isEmpty then usable else others).take (sprayLook d)
    (bestPath look).map fun i => (i, pathSub (l.descs.getD i 0))

/-- Queue a packet on the path Pleach chooses; none when no path qualifies. -/
def enqueue (d : Dev) (n : Nat) (q : Qp) (cls ext pay : Nat) (body : TxBody) (avoid : Option Nat) : Option (Dev × Nat) :=
  match choosePath d q cls avoid with
  | none => none
  | some (i, sub) =>
    let p : TxPkt := { sub := sub, cls := cls, part := q.part, qpn := n, len := frameLen d sub ext pay, path := i, body := body }
    some (setQp (onTop d fun t => { t with queue := t.queue ++ [p] }) n { q with cursor := i }, i)

/-- Queue a response, ACK, NAK or probe; one that finds no path waits for one. -/
def enqueueReady (d : Dev) (n : Nat) (p : Packet) : Dev :=
  match qpAt d n with
  | none => d
  | some q =>
    let cls := classOf d q p.opcode
    match enqueue d n q cls (extLen p.opcode) p.payload.length (.ready n p) none with
    | some r => r.1
    | none => onTr d fun t => { t with waitTx := t.waitTx ++
        [{ sub := 0, cls := cls, part := q.part, qpn := n, len := 0, path := 64, body := .ready n p }] }

def localIp (d : Dev) (i : Nat) : Nat := rd d .transportLocalIpAddr (2 * i) + rd d .transportLocalIpAddr (2 * i + 1) * 2 ^ 64

/-- The ECN field of a packet: ECT(0) in requests and READ_RESP, Not-ECT in all others (R298). -/
def ecnOf (op : Nat) : Nat := if op ≤ 5 ∨ (7 ≤ op ∧ op ≤ 9) then 2 else 0

/-- A packet of a queue pair with everything but opcode fields, path, flow label, nonce and time (R297 to R299). -/
def basePacket (d : Dev) (n : Nat) (q : Qp) (op : Nat) : Packet := {
  srcIp := localIp d q.localIp, dstIp := q.remoteIp, udpSrc := 0, udpDst := rd d .transportCfgUdpPort, ipOk := true,
  udpOk := true, dscp := 0, ecn := ecnOf op, hopLimit := rd d .transportCfgHopLimit, flowLabel := 0, version := 1, opcode := op, last := false, solicit := false, retx := false,
  fa := false, aborted := false, atomicCode := 0, path := 0, reserved := 0, destQpn := q.remoteQpn, psn := 0,
  msg := 0, nonce := 0, addr := 0, rh := 0, msgOffset := 0, length := 0, total := 0, txTs := 0, srcQpn := n, ext := 0,
  payload := [], mark := { key := 0, salt := 0, intact := true } }

/-! ### Loss and path state -/

/-- A record's packet is lost: its charge released, to be admitted again (R332, R351). -/
def loseRec (d : Dev) (r : Rec) : Dev :=
  modRec (uncharge d r.qpn r.charged) r.qpn r.psn fun x => { x with state := .lost, charged := 0, avoid := some r.path, passed := 0 }

/-- A connection with no path up sends one event and waits (R334). -/
def pathsLostCheck (d : Dev) (set : Nat) : Dev :=
  if anyUp d set then
    d.tr.qps.foldl (fun d e => if e.2.pathSet = set then modRun d e.1 fun r => { r with lostEvent := false, noPathSince := none } else d) d
  else
    d.tr.qps.foldl (fun d e =>
      if e.2.pathSet = set && qpReceives e.2 && !(runOf d e.1).lostEvent then
        qpEvent (modRun d e.1 fun r => { r with lostEvent := true, noPathSince := some d.upNs }) e.1 e.2 0x30
      else d) d

/-- Path `i` of a set goes down (R334, R343 to R345). -/
def pathDown (d : Dev) (set i : Nat) : Dev :=
  match liveOf d set with
  | none => d
  | some l =>
    if !(l.paths[i]?).any (·.up) then d
    else
      let d := bump (modLive d set fun l => { l with paths := l.paths.zipIdx.map fun e => if e.2 = i then { e.1 with up := false } else e.1 })
        .transportPathsDowned
      let mine := fun (n : Nat) => (qpAt d n).any fun q => q.pathSet == set
      let back := d.top.queue.filter fun p => p.path = i && mine p.qpn
      let d := onTop d fun t => { t with queue := t.queue.filter fun p => !(p.path = i && mine p.qpn) }
      let d := back.foldl (fun d p => match p.body with
        | .req n psn => modRec d n psn fun r => { r with state := .unplaced }
        | .ready _ _ => onTr d fun t => { t with waitTx := t.waitTx ++ [p] }
        | .raw _ _ _ _ _ => d) d
      let lost := d.tr.recs.filter fun r => r.state = .sent && r.path = i && mine r.qpn
      let d := lost.foldl (fun d r => bump (loseRec d r) .transportRetransmits) d
      pathsLostCheck d set

/-- Whether a queue pair has work waiting for a path. -/
def waitsForPath (d : Dev) (n : Nat) : Bool :=
  (recsOf d n).any (fun r => r.state = .unplaced || r.state = .lost) || (msgsOf d n).any (fun m => !m.allCut && !m.done)
    || d.tr.waitTx.any fun p => p.qpn = n

/-- The owner that sends a set's probes (R346). -/
def probeOwner (d : Dev) (l : LiveSet) : Option (Nat × Qp) :=
  let ok := fun (n : Nat) => match qpAt d n with
    | some q => if qpSends q && q.pathSet == l.set then some (n, q) else none
    | none => none
  match ok l.owner with
  | some x => some x
  | none => (d.tr.qps.map (·.1)).findSome? fun n => if waitsForPath d n then ok n else none

/-- Every path on a sub-port goes down (R343). -/
def subDown (d : Dev) (sub : Nat) : Dev :=
  d.tr.live.foldl (fun d e =>
    (List.range 64).foldl (fun d i => if pathSub (e.2.descs.getD i 0) = sub then pathDown d e.2.set i else d) d) d

/-! ### Acknowledgement (R331) -/

/-- The record that covers a PSN. -/
def recAt (d : Dev) (n psn : Nat) : Option Rec := d.tr.recs.find? fun r => r.qpn = n && decide (seqSub psn r.psn < r.n)

def msgById (d : Dev) (id : Nat) : Option SendMsg := d.tr.msgs.find? fun m => m.id = id

/-- A packet of a record has been reported: packets sent before it on its path have been passed (R332). -/
def notePassed (d : Dev) (r : Rec) : Dev :=
  if r.reported then d
  else onTr d fun t => { t with recs := t.recs.map fun x =>
    if x.qpn = r.qpn ∧ x.path = r.path ∧ x.seq < r.seq ∧ x.state = .sent then { x with passed := x.passed + 1 } else x }

/-- Free a record: its charge released, its bytes counted. -/
def freeRec (d : Dev) (r : Rec) : Dev :=
  let d := onTr d fun t => { t with recs := t.recs.filter fun x => !(x.qpn = r.qpn && x.psn = r.psn) }
  let d := onTop d fun t => { t with queue := t.queue.filter fun p => p.body ≠ .req r.qpn r.psn }
  modMsg (uncharge d r.qpn r.charged) r.msg fun m => { m with gotBytes := m.gotBytes + r.len }

/-- Acknowledge one record by an ACK or NAK; READ_REQ and ATOMIC packets are acknowledged by their responses (R323), and once
reported they count for the packets sent before them (R332). -/
def ackRec (d : Dev) (r : Rec) : Dev :=
  match msgById d r.msg with
  | some m =>
    if (m.op = 2 || m.op = 5) && !r.aborted then modRec (notePassed d r) r.qpn r.psn fun x => { x with reported := true }
    else roundCount (freeRec (notePassed d r) r) r.qpn 1 0
  | none => freeRec d r

/-- Packets passed by LOSS_GAP later ones on their path are lost (R332), with the window's cut (R354). -/
def gapLoss (d : Dev) (n : Nat) : Dev :=
  let gap := atLeast1 (rd d .transportRetxCfgLossGap)
  (recsOf d n).foldl (fun d r => if r.state = .sent && decide (r.passed ≥ gap) then lossCut (loseRec d r) n else d) d

/-- UNA_PSN follows the acknowledgements, and a round ends when they move it to ROUND_END or beyond (R353). -/
def ackMoves (d : Dev) (n : Nat) : Dev :=
  let e := settleUna d n
  if (qpAt e n).map (·.unaPsn) = (qpAt d n).map (·.unaPsn) then e else endRound e n

/-- After acknowledgements: UNA, rounds, losses, completions, in the order of R345. -/
def afterAck (d : Dev) (n : Nat) : Dev := endDone (gapLoss (ackMoves d n) n) n

/-! ### Cutting messages into packets -/

/-- Whether a message's source is a DVA read by the send engine (R212). -/
def dvaSource (m : SendMsg) : Bool :=
  match m.who with
  | .sq _ => m.op = 1 || m.op = 4
  | _ => false

/-- Whether a contribution's bytes are read from SRC (R402). -/
def collSource (m : SendMsg) : Bool :=
  match m.who with
  | .coll _ _ => m.data.isEmpty && m.parts.isNone
  | _ => false

/-- Whether a message is an atomic of the SQ, whose answer goes to a DVA. -/
def ownsWord (m : SendMsg) : Bool :=
  match m.who with
  | .sq _ => true
  | _ => false

/-- The send engine translates the 8-byte word of an atomic before it builds the packet (R212). -/
def wordWay (d : Dev) (q : Qp) (m : SendMsg) : Dev × ARes :=
  match translate d .transport q.part m.loc 8 .write false with
  | (d, .ok _) => (d, .ok [])
  | (d, .fail pg x l f) => (d, .xfail pg x l f)
  | (d, .stall) => (d, .wait)

/-- The payload of bytes [off, off+len) of a message, or why it cannot be had. -/
def msgPayload (d : Dev) (q : Qp) (m : SendMsg) (off len : Nat) : Dev × ARes :=
  if m.op = 5 && ownsWord m then wordWay d q m
  else if m.op = 2 || m.op = 5 || len = 0 then (d, .ok [])
  else if dvaSource m then dvaRead d .transport q.part (m.loc + off) len false
  else if collSource m then
    match dvaRead d collAgent q.part (m.loc + off) len true with
    | (d, .xfail _ _ _ _) => (d, .mfail 0xDC)
    | (d, .mfail c) => (d, .mfail (collMemCause c))
    | r => r
  else
    match m.parts with
    | some l => (d, .ok (getD l off []))
    | none => (d, .ok ((m.data.drop off).take len))

/-- Whether the bytes of a message's next packet are there: those of a contribution that is still arriving may not be (R398). -/
def nextHere (m : SendMsg) : Bool := m.abortEnd || m.parts.all fun l => (find? l m.cut_).isSome

/-- A message's packet cannot be built yet: the packet at a PSN, or the next to be cut. -/
def stopMsg (d : Dev) (m : SendMsg) (psn : Option Nat) (fault : Bool) : Dev :=
  modMsg d m.id fun x => { x with held := x.held || fault, stalled := x.stalled || !fault, heldPsn := psn }

/-- Hold a message on a translation fault (R319). -/
def holdSend (d : Dev) (n : Nat) (q : Qp) (m : SendMsg) (psn : Option Nat) (pg c l f : Nat) : Dev :=
  raiseFault (stopMsg d m psn true) q.part (.send n) { engine := 1, access := if m.op = 5 then 1 else 0, tile := 0, id := n } c pg l f

/-- A packet's source cannot be read before an invalidation ends or a module of the host link is up (R226, R259). -/
def stallSend (d : Dev) (n : Nat) (m : SendMsg) (psn : Option Nat) : Dev := park (stopMsg d m psn false) (.send n)

/-- Messages of a queue pair whose packet is held or stalled. -/
def stopped (d : Dev) (n : Nat) : List SendMsg := (msgsOf d n).filter fun m => m.held || m.stalled

/-- Whether a record's packet has never been sent. -/
def neverSent (r : Rec) : Bool := !r.resent && (r.state = .queued || r.state = .unplaced)

/-- Whether a record's packet waits behind a held one: it is that packet, or a later one never sent (R319). -/
def recBlocked (d : Dev) (r : Rec) : Bool :=
  (stopped d r.qpn).any fun m => m.heldPsn.any fun h => r.psn = h || (seqLt h r.psn && neverSent r)

/-- A message ends at record `r`, whose packet becomes the ABORTED end (R319, R335). Packets cut after it are cut again, unless one
of them has been sent. -/
def endAt (d : Dev) (m : SendMsg) (r : Rec) (cause : Nat) : Dev :=
  let later := (recsOf d r.qpn).filter fun x => seqLt r.psn x.psn
  let d := modMsg d m.id fun x => { x with
    cause := if x.cause = 0 then cause else x.cause, allCut := true, held := false, stalled := false, heldPsn := none }
  let d := modRec d r.qpn r.psn fun x => { x with aborted := true, ending := true, len := 0 }
  if later.all neverSent then
    let gone := fun (x : Rec) => x.qpn = r.qpn && seqLt r.psn x.psn
    let again := (later.map (·.msg)).filter (· ≠ m.id)
    let d := later.foldl (fun d x => uncharge d x.qpn x.charged) d
    let d := onTop d fun t => { t with queue := t.queue.filter fun p => !later.any fun x => p.body = .req x.qpn x.psn }
    let d := onTr d fun t => { t with
      recs := t.recs.filter fun x => !gone x
      msgs := t.msgs.map fun x => if again.contains x.id then { x with cut_ := 0, begun := false, allCut := false, msgNo := none } else x }
    modQp d r.qpn fun q => { q with nextPsn := seqAdd r.psn r.n, nextMsg := seqAdd (m.msgNo.getD q.nextMsg) 1 }
  else d

/-- The bytes of the next packet of a message: length, PSNs it takes, whether it is the last. -/
def nextCut (m : SendMsg) : Nat × Nat × Bool :=
  let left := m.len - m.cut_
  if m.op = 2 then let c := min left 1048576; (c, (c + 8191) / 8192, decide (m.cut_ + c ≥ m.len))
  else if m.op = 5 then (0, 1, true)
  else let c := min left 8192; (c, 1, decide (m.cut_ + c ≥ m.len))

/-- The charge of a request packet (R351). -/
def chargeOf (d : Dev) (sub op len : Nat) : Nat :=
  if op = 2 then len + 142 * ((len + 8191) / 8192) else frameLen d sub (extLen op) len

/-- A queue pair as its next admission finds it: its window within MAX_KIB (R364). -/
def atMost (d : Dev) (q : Qp) : Qp := { q with cwnd := min q.cwnd (maxWnd d) }

/-- Whether the window admits a charge. -/
def admits (q : Qp) (c : Nat) : Bool := decide (q.inflight + c ≤ q.cwnd) || q.inflight == 0

/-- What one turn of a queue pair's pump did: a packet moved, nothing can. -/
inductive PumpRes where
  | moved
  | stuck
deriving DecidableEq, Repr

/-- Give a record a path and a place in its queue. -/
def placeRec (d : Dev) (n : Nat) (q : Qp) (r : Rec) (op : Nat) : Option Dev :=
  let pay := if op = 2 ∨ op = 5 ∨ r.aborted then 0 else r.len
  (enqueue d n q q.cls (extLen op) pay (.req n r.psn) r.avoid).map fun x =>
    modRec x.1 n r.psn fun y => { y with state := .queued, path := x.2 }

/-- A sender waits for a retransmission record; the wait is counted once (R317). -/
def waitRecord (d : Dev) (n : Nat) : Dev :=
  if (runOf d n).recWait then d else modRun (bump d .transportRetxRecordWaits) n fun r => { r with recWait := true }

/-- The pool slot of a new retransmission record: a free one, which of them being a free choice (R317, log 154). -/
def takeSlot (d : Dev) : Dev × Nat :=
  let c := choose d 1048576
  let used := d.tr.recs.map (·.slot)
  (c.2, if used.contains c.1 then ((List.range (used.length + 1)).find? fun k => !used.contains k).getD 0 else c.1)

/-- Cut the next packet of a message. -/
def cutNext (d : Dev) (n : Nat) (q : Qp) (m : SendMsg) : Dev × PumpRes :=
  let c := if m.abortEnd then (0, 1, true) else nextCut m
  if !nextHere m then (d, .stuck)
  else if m.abortEnd && !m.begun && !m.mustEnd then (endDone (modMsg d m.id fun x => { x with allCut := true }) n, .moved)
  else if decide (seqSub q.nextPsn q.unaPsn ≥ 1024) || (m.msgNo.isNone && decide (seqSub q.nextMsg q.unaMsg ≥ 64)) then (d, .stuck)
  else if m.op = 5 && decide (((recsOf d n).filter fun r => (msgById d r.msg).any (·.op == 5)).length ≥ 8) then (d, .stuck)
  else if !hasRoom d 1048576 q.part 1 (d.tr.recs.map fun r => partOfQp d r.qpn) then (waitRecord d n, .stuck)
  else
    match choosePath d q q.cls none with
    | none => (d, .stuck)
    | some (_, sub) =>
      let ch := chargeOf d sub m.op c.1
      let q := atMost d q
      if !admits q ch then (d, .stuck)
      else
        match if m.abortEnd then (d, .ok []) else msgPayload d q m m.cut_ c.1 with
        | (d, .wait) => (stallSend d n m none, .stuck)
        | (d, .xfail pg x l f) => (holdSend d n q m none pg x l f, .stuck)
        | (d, .mfail x) => (modMsg d m.id fun y => { y with abortEnd := true, mustEnd := true, cause := x }, .moved)
        | (d, .ok _) =>
          let num := m.msgNo.getD q.nextMsg
          let q := { q with inflight := q.inflight + ch, nextPsn := seqAdd q.nextPsn c.2.1, nextMsg := if m.msgNo.isNone then seqAdd q.nextMsg 1 else q.nextMsg }
          let k := takeSlot d
          let d := k.1
          let r : Rec := {
            slot := k.2, qpn := n, psn := seqAdd q.nextPsn (w32 - c.2.1), n := c.2.1, msg := m.id, off := m.cut_,
            len := c.1, ending := c.2.2, aborted := m.abortEnd, charged := ch }
          let d := onTr (setQp d n q) fun t => { t with recs := t.recs ++ [r] }
          let d := modRun d n fun x => { x with recWait := false }
          let d := modMsg d m.id fun y => { y with msgNo := some num, cut_ := m.cut_ + c.1, begun := true, allCut := c.2.2 }
          ((placeRec d n q r m.op).getD (modRec d n r.psn fun y => { y with state := .unplaced }), .moved)

/-- The messages a queue pair sends next: the one it has begun, whose packets take consecutive PSNs (R301), or else its SQ's and its
internal operations' oldest unfinished ones, in turn (R318). -/
def nextMsgs (d : Dev) (n : Nat) : List SendMsg :=
  let open_ := (msgsOf d n).filter fun m => !m.allCut && !m.done && (m.begun || nextHere m)
  let isSq := fun (m : SendMsg) => match m.who with
    | .sq _ => true
    | _ => false
  match open_.find? (·.begun) with
  | some m => [m]
  | none =>
    let a := (open_.find? isSq).toList
    let b := (open_.find? fun m => !isSq m).toList
    if (runOf d n).internalTurn then b ++ a else a ++ b

def turnOf (m : SendMsg) : Bool := match m.who with
  | .sq _ => true
  | _ => false

/-- Try messages in order until one gives a packet. -/
def tryMsgs (d : Dev) (n : Nat) : List SendMsg → Dev × PumpRes
  | [] => (d, .stuck)
  | m :: t =>
    match qpAt d n with
    | none => (d, .stuck)
    | some q =>
      match cutNext d n q m with
      | (d, .moved) => (modRun d n fun r => { r with internalTurn := turnOf m }, .moved)
      | (d, .stuck) => if (stopped d n).isEmpty then tryMsgs d n t else (d, .stuck)

/-- The part of a READ_REQ still unanswered: its first packet and its bytes, up to the last unanswered one (R332). -/
def readSpan (r : Rec) : Nat × Nat :=
  match (List.range r.n).filter fun k => !r.answered.contains k with
  | [] => (0, r.len)
  | k :: t => (k, min r.len (8192 * (t.getLastD k + 1)) - 8192 * k)

/-- Admit a lost packet again (R332, R351). -/
def readmit (d : Dev) (n : Nat) (q : Qp) (r : Rec) : Dev × PumpRes :=
  match msgById d r.msg, choosePath d q q.cls r.avoid with
  | some m, some (_, sub) =>
    let len := if m.op = 2 then (readSpan r).2 else r.len
    let ch := chargeOf d sub m.op len
    let q := atMost d q
    if admits q ch then
      let d := setQp d n { q with inflight := q.inflight + ch }
      (modRec d n r.psn fun x => { x with state := .unplaced, charged := ch, resent := true }, .moved)
    else (d, .stuck)
  | _, _ => (d, .stuck)

/-- One move of a queue pair's pump: packets waiting for a path, then lost ones, then new ones, which wait behind a held packet
(R319). -/
def pumpOne (d : Dev) (n : Nat) : Dev × PumpRes :=
  match qpAt d n with
  | none => (d, .stuck)
  | some q =>
    if !qpSends q || exhausted d q.txSlot then (d, .stuck)
    else
      match (recsOf d n).find? fun r => r.state = .unplaced && !recBlocked d r with
      | some r =>
        match placeRec d n q r (((msgById d r.msg).map (·.op)).getD 1) with
        | some d => (d, .moved)
        | none => (d, .stuck)
      | none =>
        match (recsOf d n).find? fun r => r.state = .lost with
        | some r => readmit d n q r
        | none => if (stopped d n).isEmpty then tryMsgs d n (nextMsgs d n) else (d, .stuck)

def pumpQp : Nat → Dev → Nat → Dev
  | 0, d, _ => d
  | fuel + 1, d, n =>
    match pumpOne d n with
    | (d, .moved) => pumpQp fuel d n
    | (d, .stuck) => d

/-- Give waiting responses, ACKs and probes another choice of path. -/
def pumpWaiting (d : Dev) : Dev :=
  let w := d.tr.waitTx
  w.foldl (fun d p => match p.body with
    | .ready n x => enqueueReady d n x
    | _ => d) (onTr d fun t => { t with waitTx := [] })

/-- Move everything that may move towards the transmit queues. -/
def pumpAll (d : Dev) : Dev :=
  if isSet d .transportCtrlEnable && inRun d then (d.tr.qps.map (·.1)).foldl (fun d n => pumpQp 1100 d n) (pumpWaiting d) else d

end Sys2Proof.Machine
end

