-- ==== Sys2Proof/Machine/Internal.lean ====
section
/-!
DEFINITION. Internal operations: a partition's node map (R290), starting a message for an engine of the package (R296),
and REMOTE transactions (R291).
-/
namespace Sys2Proof.Machine

/-- Cache a valid node-map entry, in place of one of the design's choice when 4,096 are held. -/
def cacheNode (d : Dev) (k v : Nat) : Dev :=
  let m := d.tr.nodeCache
  if m.length < 4096 then onTr d fun t => { t with nodeCache := put m k v }
  else let c := choose d m.length; onTr c.2 fun t => { t with nodeCache := put (dropAt m c.1) k v }

/-- The partition's connection to a node, or the cause that ends the access (R290). -/
def nodeMap (d : Dev) (p node : Nat) : Dev × Except Nat Nat :=
  if !isSet d .meshNodeMapEn p || d.xl.stopped.contains p then (d, .error 0xC0)
  else
    match find? d.tr.nodeCache (p * 65536 + node) with
    | some q => (d, .ok q)
    | none =>
      let a := rd d .meshNodeMapBase p * 65536 + 4 * node
      match dpaRead d 0x2000 a 4 with
      | (d, some c, _) => (d, .error c)
      | (d, none, bs) =>
        let e := fromBytes bs
        if bitOf e 24 && cut e 25 7 == 0 then (cacheNode d (p * 65536 + node) (e % 2 ^ 24), .ok (e % 2 ^ 24))
        else (d, .error 0xC0)

/-- Start a message of the partition's own on its connection `n` (R296): 0, or the cause that ends it. One whose context cannot be
fetched yet waits for it. -/
def startOn (d : Dev) (p n : Nat) (m : SendMsg) : Dev × Nat :=
  match loadQp d n with
  | (d, .ok q) =>
    if q.part ≠ p ∨ q.state ≠ 2 then (d, 0xC1)
    else if exhausted d q.txSlot then (d, 0x80)
    else (newMsg d { m with qpn := n }, 0)
  | (d, .wait) => (awaitCtx d n (.message p { m with qpn := n }), 0)
  | (d, _) => (d, 0xC1)

/-- Start a message on the partition's connection to a node. -/
def startInternal (d : Dev) (p node : Nat) (m : SendMsg) : Dev × Nat :=
  match nodeMap d p node with
  | (d, .error c) => (d, c)
  | (d, .ok n) => startOn d p n m

/-- The data a write's flits after the first carry. -/
def flitBytes (fs : List Flit) : List Byte := fs.flatMap fun f => (toBytes 32 f.payload).drop f.byteFirst |>.take (f.byteLast + 1 - f.byteFirst)

/-- The transport engine takes a REMOTE transaction (R291). -/
def takeRemote (d : Dev) (r : Remote) : Dev :=
  match r.flits with
  | [] => d
  | f :: t =>
    let node := cut f.payload 0 16
    let kind := cut f.payload 48 8
    let m : SendMsg := {
      id := 0, qpn := 0, who := .engine r.who, op := if kind = 0 then 2 else if kind = 1 then 1 else 5, fa := true, addr := f.addr,
      len := if kind = 2 then 0 else cut f.payload 16 32, data := if kind = 1 then flitBytes t else [],
      operand := cut f.payload 64 64, compare := cut f.payload 128 64, code := f.atomic, src := f.src, txn := f.txn,
      dest := r.dest, epoch := f.epoch }
    let fail := fun (d : Dev) (c : Nat) =>
      sendAnswer d { src := f.src, txn := f.txn, kind := .error, who := r.who, dest := r.dest, cause := c, epoch := f.epoch }
    let d := onMesh d fun x => { x with remoteOut := put x.remoteOut f.src (getD x.remoteOut f.src 0 + 1) }
    match routeOf d f.epoch f.src f.dest with
    | .noRoute => fail d 0xC3
    | .lost => d
    | .arrives =>
      match startInternal d f.part node m with
      | (d, 0) => d
      | (d, c) => fail d (engineCause c)

/-- Whether a REMOTE transaction may set out: its source is below its limit (R285). -/
def remoteMay (d : Dev) (r : Remote) : Bool :=
  match r.flits with
  | f :: _ => belowLimit d f.src
  | [] => true

/-- The oldest REMOTE transaction that may set out. -/
def remoteFront (d : Dev) : Option Remote := d.disp.remotes.find? (remoteMay d)

/-- REMOTE (R291): the transport engine takes the next REMOTE transaction that has reached it. -/
def execRemote (s : State) : Host.Outcome State Fault Refusal :=
  act s "REMOTE" (inRun s.dev && isSet s.dev .transportCtrlEnable && (remoteFront s.dev).isSome)
    (match remoteFront s.dev with
     | some r => takeRemote (onDisp s.dev fun x => { x with remotes := x.remotes.erase r }) r
     | none => s.dev)

end Sys2Proof.Machine
end

