-- ==== Sys2Proof/Machine/Aperture.lean ====
section
/-!
DEFINITION. Requests from the host link: which module and function take them (R234 to R236, R257, R470), configuration
space, and the aperture (R237, R266). A request whose lookup an invalidation stalls waits (R226).
-/
namespace Sys2Proof.Machine

/-- Whether a requester may use a function: the host's ID, or for a virtual function's aperture a peer of its partition
(R257). -/
def hostRid (d : Dev) (rid : Nat) : Bool := (rid ^^^ rd d .hlHostRidId) &&& rd d .hlHostRidMask == 0

def peerRid (d : Dev) (fn rid : Nat) : Bool :=
  fn != 0 && (List.range 8).any fun j => isSet d .hlPeerRidValid (fn * 8 + j) && rd d .hlPeerRidId (fn * 8 + j) == rid

/-- Functions present: the physical one, and the virtual ones up to NumVFs (R235). -/
def fnPresent (d : Dev) (fn : Nat) : Bool := decide (fn ≤ d.hl.numVfs)

/-- The device answers requests with their effect only in RUN (R470). -/
def serving (d : Dev) : Bool := rd d .bootStatusStage == 8

def answer (d : Dev) (m : Nat) (st : Cpl) (bs : List Byte) (poisoned : Bool) : Dev := emit d (.completion m st bs poisoned)

def refused (d : Dev) (m : Nat) : Dev := answer d m .unsupported [] false

/-! ### Configuration space -/

/-- MSI-X vectors of a function (R238). -/
def vectors (fn : Nat) : Nat := if fn = 0 then 256 else 32

/-- A vector's state: masked and not pending unless listed. -/
def vecState (d : Dev) (fn v : Nat) : Nat := getD d.hl.msix (fn * 256 + v) 1

def setMsix (d : Dev) (fn v x : Nat) : Dev := onHl d fun h => { h with msix := putD h.msix (fn * 256 + v) x 1 }

/-- The EQs whose messages a vector carries. -/
def vecEqs (d : Dev) (fn v : Nat) : List Nat :=
  (List.range 256).filter fun e => isSet d .eqEnable e && rd d .eqPartition e == fn && rd d .eqVector e == v

/-- An MSI-X message of a vector leaves; its EQs' next waits MOD_US from now (R253). -/
def sendMsix (d : Dev) (fn v : Nat) : Dev :=
  let es := vecEqs d fn v
  onHl (emit d (.msix (rd d .hlStatusCfgModule) fn v)) fun h => { h with lastMsi := es.foldl (fun m e => put m e d.upNs) h.lastMsi }

/-- A vector's mask bit is written; a pending message leaves when it is unmasked, unless the host is detached (R253, R260). -/
def maskVec (d : Dev) (fn v m : Nat) : Dev :=
  let x := vecState d fn v
  if m % 2 = 0 ∧ bitOf x 1 ∧ attached d then setMsix (sendMsix d fn v) fn v 0
  else setMsix d fn v (m % 2 + x / 2 * 2)

/-- Size code n of a function's aperture (R236), 2^n MiB; 64 GiB unless listed. -/
def apCode (d : Dev) (fn : Nat) : Nat := getD d.hl.apSize fn 16

/-- What a configuration read returns: the registers R235, R236 and R238 give, a free value for any other. -/
def cfgRead (d : Dev) (fn : Nat) : CfgRegister → Dev × Nat
  | .numVfs => (d, d.hl.numVfs)
  | .totalVfs => (d, 63)
  | .firstVfOffset => (d, 1)
  | .vfStride => (d, 1)
  | .apertureSize => (d, apCode d fn)
  | .vectorControl v => (d, vecState d fn v % 2)
  | .other _ => let c := choose d (2 ^ 32); (c.2, c.1)

/-- What a configuration write does. A size outside 1 GiB to 256 TiB gives one of these. -/
def cfgWrite (d : Dev) (fn v : Nat) : CfgRegister → Dev
  | .numVfs => if fn = 0 then onHl d fun h => { h with numVfs := min 63 (v % 2 ^ 16) } else d
  | .apertureSize =>
    if 10 ≤ v ∧ v ≤ 28 then onHl d fun h => { h with apSize := putD h.apSize fn v 16 }
    else let c := choose d 19; onHl c.2 fun h => { h with apSize := putD h.apSize fn (10 + c.1) 16 }
  | .vectorControl k => if k < vectors fn then maskVec d fn k v else d
  | _ => d

def cfgEffect (d : Dev) (q : CfgReq) : Dev :=
  if !serving d then if q.fn = 0 then answer d q.module .retry [] false else refused d q.module
  else if q.module ≠ rd d .hlStatusCfgModule || !fnPresent d q.fn then refused d q.module
  else if !hostRid d q.rid then refused (bump d .hlPeerRefused) q.module
  else
    match q.write with
    | some v => answer (cfgWrite d q.fn v q.reg) q.module .success [] false
    | none => let r := cfgRead d q.fn q.reg; answer r.1 q.module .success (toBytes 4 r.2) false

/-- CONFIG_REQUEST (R234, R235, R257, R470). -/
def execConfigRequest (req : CfgReq) (s : State) : Host.Outcome State Fault Refusal :=
  cmd s "CONFIG_REQUEST" (decide (req.module < 2 ∧ req.fn < 64) && moduleUp s.dev req.module) (cfgEffect s.dev req)

/-! ### The aperture (R237) -/

/-- Count and report a failed aperture access. -/
def apFail (d : Dev) (q : ApReq) (cause : Nat) : Dev :=
  let d := bump d .hlApertureErrs
  postEq d (rd d .hlEventEq) (entryOf 7 q.fn cause q.module [(8, rd d .hlApertureErrs), (0x10, q.off)])

/-- What an aperture access reaches: an address in the package, a failure, or a stall. -/
inductive ApPlace where
  | at_ (dpa : Nat)
  | bad (cause : Nat)
  | wait
deriving DecidableEq, Repr

/-- The endpoint of the module a request came by. -/
def apEid (q : ApReq) : Nat := moduleEid q.module

/-- Translate an access that lies in one page; a leaf with HOST = 1 fails with 0x01, a hole with 0x64, an atomic aimed at the control
window with 0x62 (R179). -/
def apPlace (d : Dev) (q : ApReq) (len : Nat) (kind : Kind) : Dev × ApPlace :=
  match xlate d device q.fn q.off kind true with
  | (d, .stall) => (d, .wait)
  | (d, .fail c _ _) => (d, .bad c)
  | (d, .ok true _) => (d, .bad 0x01)
  | (d, .ok false a) =>
    if kind = .atomic ∧ ctlBase ≤ a ∧ a < ctlBase + 0x4000000 then (d, .bad 0x62)
    else
      match reach d (apEid q) q.fn a len with
      | (d, some c) => (d, .bad c)
      | (d, none) => (d, .at_ a)

/-- The response of an access that has reached its endpoint. -/
def apBack {α : Type} (q : ApReq) (a : Nat) (r : Dev × Option Nat × α) : Dev × Option Nat × α :=
  answered (apEid q) ((endpointAt r.1 a false).getD 0) r

/-- The function checks every request meets; none when it may go on. -/
def apRefused (d : Dev) (q : ApReq) : Option Dev :=
  if !serving d || !fnPresent d q.fn then some (refused d q.module)
  else if !hostRid d q.rid && !peerRid d q.fn q.rid then some (refused (bump d .hlPeerRefused) q.module)
  else none

/-- A request waits until the invalidation that stalls its lookup completes. -/
def apStall (d : Dev) (i : Instr) : Dev := onXl d fun x => { x with stalled := x.stalled ++ [i] }

def apReadEffect (d : Dev) (q : ApReq) (len : Nat) : Dev :=
  match apRefused d q with
  | some d => d
  | none =>
    match apPlace d q len .read with
    | (d, .wait) => apStall d (.apertureRead q len)
    | (d, .bad c) => answer (apFail d q c) q.module .abort [] false
    | (d, .at_ a) =>
      match apBack q a (memRead d a len) with
      | (d, some c, bs) => if c = 0xC8 then answer (apFail d q c) q.module .abort [] false else answer (apFail d q c) q.module .success bs true
      | (d, none, bs) => answer d q.module .success bs false

def apWriteEffect (d : Dev) (q : ApReq) (bs : List Byte) : Dev :=
  match (if !serving d || !fnPresent d q.fn then some d
         else if !hostRid d q.rid && !peerRid d q.fn q.rid then some (bump d .hlPeerRefused) else none) with
  | some d => d
  | none =>
    match apPlace d q bs.length .write with
    | (d, .wait) => apStall d (.apertureWrite q bs)
    | (d, .bad c) => apFail d q c
    | (d, .at_ a) =>
      let w := memStore d .other (apEid q) a bs
      match apBack q a (w.1, w.2, ()) with
      | (d, some c, _) => apFail d q c
      | (d, none, _) => d

/-- A 64-bit AtomicOp; `self` is the request as it came. -/
def apAtomicEffect (d : Dev) (self : Instr) (q : ApReq) (bits code operand compare : Nat) : Dev :=
  match apRefused d q with
  | some d => d
  | none =>
    if bits ≠ 64 then refused d q.module
    else
      match apPlace d q 8 .atomic with
      | (d, .wait) => apStall d self
      | (d, .bad c) => answer (apFail d q c) q.module .abort [] false
      | (d, .at_ a) =>
        match apBack q a (memAtomic d code a operand compare) with
        | (d, some c, _) => answer (apFail d q c) q.module .abort [] false
        | (d, none, old) => answer d q.module .success (toBytes 8 old) false

/-- Whether a request can be on the link: a module that is up, inside the function's BAR, within one 4 KiB block. -/
def apPossible (d : Dev) (q : ApReq) (len top : Nat) : Bool :=
  decide (q.module < 2 ∧ q.fn < 64 ∧ 1 ≤ len ∧ len ≤ top ∧ q.off + len ≤ 2 ^ (apCode d q.fn + 20) ∧ q.off % 4096 + len ≤ 4096) && moduleUp d q.module

/-- Whether an AtomicOp can be on the link: naturally aligned. -/
def apAtomicPossible (d : Dev) (q : ApReq) (bits : Nat) : Bool :=
  (bits == 32 || bits == 64 || bits == 128) && q.off % (bits / 8) == 0 && apPossible d q (bits / 8) 16

/-- APERTURE_READ (R237, R257). -/
def execApertureRead (req : ApReq) (len : Nat) (s : State) : Host.Outcome State Fault Refusal :=
  cmd s "APERTURE_READ" (apPossible s.dev req len 4096) (apReadEffect s.dev req len)

/-- APERTURE_WRITE (R237, R257); a refused posted write has no completion. -/
def execApertureWrite (req : ApReq) (data : List Byte) (s : State) : Host.Outcome State Fault Refusal :=
  cmd s "APERTURE_WRITE" (apPossible s.dev req data.length 512) (apWriteEffect s.dev req data)

/-- APERTURE_FETCHADD (R237, R179). -/
def execApertureFetchadd (req : ApReq) (bits operand : Nat) (s : State) : Host.Outcome State Fault Refusal :=
  cmd s "APERTURE_FETCHADD" (apAtomicPossible s.dev req bits)
    (apAtomicEffect s.dev (.apertureFetchadd req bits operand) req bits 1 operand 0)

/-- APERTURE_SWAP (R237, R179). -/
def execApertureSwap (req : ApReq) (bits operand : Nat) (s : State) : Host.Outcome State Fault Refusal :=
  cmd s "APERTURE_SWAP" (apAtomicPossible s.dev req bits) (apAtomicEffect s.dev (.apertureSwap req bits operand) req bits 2 operand 0)

/-- APERTURE_CAS (R237, R179). -/
def execApertureCas (req : ApReq) (bits compare swap : Nat) (s : State) : Host.Outcome State Fault Refusal :=
  cmd s "APERTURE_CAS" (apAtomicPossible s.dev req bits) (apAtomicEffect s.dev (.apertureCas req bits compare swap) req bits 3 swap compare)

/-- A request that has waited tries again. -/
def apRetry (d : Dev) : Instr → Dev
  | .apertureRead q len => apReadEffect d q len
  | .apertureWrite q bs => apWriteEffect d q bs
  | .apertureFetchadd q bits x => apAtomicEffect d (.apertureFetchadd q bits x) q bits 1 x 0
  | .apertureSwap q bits x => apAtomicEffect d (.apertureSwap q bits x) q bits 2 x 0
  | .apertureCas q bits c x => apAtomicEffect d (.apertureCas q bits c x) q bits 3 x c
  | _ => d

/-- Every request that has waited tries again, in order. -/
def apRetryAll (d : Dev) : Dev := d.xl.stalled.foldl apRetry (onXl d fun x => { x with stalled := [] })

end Sys2Proof.Machine
end

