-- ==== Sys2Proof/Machine/Matrix.lean ====
section
/-!
DEFINITION. Matrix work items: fields (R99), checks (R83), operands as they lie in the scratchpad (R53, R69, R98), the
product (R66 to R75), the result (R57 to R67) and the cycle count (R68).
-/
namespace Sys2Proof.Machine

/-- The fields of a matrix work item (R99); plane addresses in bytes. -/
structure MatrixWi where
  a : Nat
  b : Nat
  c0 : Nat
  out : Nat
  aScale : Nat
  bScale : Nat
  bMeta : Nat
  outScale : Nat
  m : Nat
  n : Nat
  k : Nat
  aFmt : Nat
  bFmt : Nat
  outFmt : Nat
  seed : Nat
  round : Nat
  rule : Nat
  accIn : Bool
  pruned : Bool
deriving DecidableEq, Repr

def matrixWi (w : Desc) : MatrixWi where
  a := 64 * fieldAt w 0x18 0 15
  b := 64 * fieldAt w 0x1A 0 15
  c0 := 64 * fieldAt w 0x1C 0 15
  out := 64 * fieldAt w 0x1E 0 15
  aScale := 16 * fieldAt w 0x20 0 17
  bScale := 16 * fieldAt w 0x24 0 17
  bMeta := 16 * fieldAt w 0x28 0 17
  outScale := 16 * fieldAt w 0x2C 0 17
  m := fieldAt w 0x30 0 15
  n := fieldAt w 0x32 0 15
  k := fieldAt w 0x34 0 20
  aFmt := fieldAt w 0x34 20 4
  bFmt := fieldAt w 0x34 24 4
  outFmt := fieldAt w 0x34 28 4
  seed := fieldAt w 0x38 0 32
  round := fieldAt w 0x3C 0 2
  rule := fieldAt w 0x3C 2 1
  accIn := fieldAt w 0x3C 3 1 == 1
  pruned := fieldAt w 0x3C 4 1 == 1

/-- Bytes of a row of `n` elements in a format's element plane; a pruned row stores half of them (R53, R69). -/
def elemRow (f n : Nat) (pruned : Bool) : Nat := ceilDiv ((if pruned then n / 2 else n) * elemBits f) 8

/-- Bytes of a row's scale entries. -/
def scaleRow (f n : Nat) : Nat := n / 32 * scaleBytes f

/-- Whether a plane of rows ends beyond the scratchpad (R55, R98). -/
def planeOver (base rows len align : Nat) : Bool := rows != 0 && decide (base + (rows - 1) * roundUp len align + len > spBytes)

/-- Operand pairs of R66, dense. -/
def pairOk (a b : Nat) : Bool := (isBlock a && isBlock b) || (a == 1 && b == 1)

/-- Pairs whose B may be pruned. -/
def prunedOk (a b : Nat) : Bool := (isB4 a && isB4 b) || (isB8 a && isB8 b)

/-- Whether any plane of a matrix work item ends beyond the scratchpad. -/
def matrixOver (x : MatrixWi) : Bool :=
  planeOver x.a x.m (elemRow x.aFmt x.k false) 64
  || planeOver x.b x.n (elemRow x.bFmt x.k x.pruned) 64
  || (isBlock x.aFmt && planeOver x.aScale x.m (scaleRow x.aFmt x.k) 16)
  || (isBlock x.bFmt && planeOver x.bScale x.n (scaleRow x.bFmt x.k) 16)
  || (x.pruned && planeOver x.bMeta x.n (x.k / 32 * 4) 16)
  || (x.accIn && planeOver x.c0 x.m (4 * x.n) 64)
  || planeOver x.out x.m (elemRow x.outFmt x.n false) 64
  || (isBlock x.outFmt && planeOver x.outScale x.m (scaleRow x.outFmt x.n) 16)

/-- The checks of R83 in order; 0 for none. Planes are aligned by their units and strides, so 0x45 does not arise. -/
def matrixCause (x : MatrixWi) : Nat :=
  if fmtReserved x.aFmt || fmtReserved x.bFmt || fmtReserved x.outFmt || !pairOk x.aFmt x.bFmt then 0x40
  else if x.outFmt != 0 && decide (x.round ≥ 2) then 0x41
  else if x.pruned && !prunedOk x.aFmt x.bFmt then 0x47
  else if x.m * x.n > 16384 || x.m = 0 || x.n = 0 || x.k = 0 then 0x43
  else if (isBlock x.aFmt && x.k % 32 != 0) || (isBlock x.outFmt && x.n % 32 != 0) then 0x42
  else if matrixOver x then 0x44
  else 0

/-- MAC step of an operand pair: columns and K (R66). -/
def stepShape (x : MatrixWi) : Nat × Nat :=
  if x.aFmt = 1 then (8, 16)
  else if isB4 x.aFmt && isB4 x.bFmt then (16, if x.pruned then 64 else 32)
  else (8, if x.pruned then 64 else 32)

/-- Cycles of R68. -/
def matrixCycles (x : MatrixWi) : Nat :=
  let st := stepShape x
  let steps := ceilDiv x.k st.2
  let aRow := elemRow x.aFmt x.k false + scaleRow x.aFmt x.k
  let bCol := elemRow x.bFmt x.k x.pruned + scaleRow x.bFmt x.k + (if x.pruned then x.k / 32 * 4 else 0)
  let p := ceilDiv x.n st.1
  let panels := (List.range p).map fun j =>
    max (ceilDiv x.m 8 * steps) (ceilDiv (min st.1 (x.n - j * st.1) * bCol + x.m * aRow) 512)
  40 + (if x.accIn then ceilDiv (x.m * x.n * 4) 512 else 0)
    + ceilDiv (x.m * x.n * (32 * elemBits x.outFmt + 8 * scaleBytes x.outFmt)) (32 * 8 * 256) + panels.sum

/-! ### Operands -/

/-- Read rows of a plane: state, the first cause, the rows' bytes. -/
def rowsRead (t base len stride : Nat) : Nat → Nat → Dev → Dev × Option Nat × List (List Byte)
  | 0, _, d => (d, none, [])
  | fuel + 1, r, d =>
    let x := spRead d t (base + r * stride) len
    let y := rowsRead t base len stride fuel (r + 1) x.1
    (y.1, x.2.1.orElse (fun _ => y.2.1), x.2.2 :: y.2.2)

def plane (d : Dev) (t base rows len align : Nat) : Dev × Option Nat × List (List Byte) :=
  rowsRead t base len (roundUp len align) rows 0 d

/-- The codes of `n` elements of a row. -/
def codes (bits n : Nat) (bs : List Byte) : List Nat :=
  let x := fromBytes bs
  (List.range n).map fun i => cut x (i * bits) bits

def zeroFV : FV := .fin false 0 0

/-- A dense row's data with flags. -/
def denseRow (f n : Nat) (es ss : List Byte) : List FV × Nat :=
  let cs := codes (elemBits f) n es
  if f = 0 then (cs.map decode32, 0)
  else if f = 1 then (cs.map decodeBf16, 0)
  else
    let sc := codes (8 * scaleBytes f) (n / 32) ss
    let v := cs.zipIdx.map fun ci => blockElem f (sc.getD (ci.2 / 32) 0) (ci.2 % 32) ci.1
    (v.map (·.1), v.foldl (fun a x => a ||| x.2) 0)

/-- The four dense elements of group `g` of a pruned block (R69, R70). DESIGN CHOICE: a group with broken metadata reads as zero
and sets SPARSE_META alone in a block with scale code 0xFF too, where R63 makes every element NaN (log 116). -/
def prunedGroup (f entry meta_ g : Nat) (k1 k2 : Nat) : List (FV × Nat) :=
  let nib := cut meta_ (4 * g) 4
  let p1 := nib % 4
  let p2 := nib / 4
  if p1 < p2 then
    (List.range 4).map fun j =>
      if j = p1 then blockElem f entry (4 * g + j) k1
      else if j = p2 then blockElem f entry (4 * g + j) k2
      else if entry % 256 = 255 then (.nan, flNanInput) else (zeroFV, 0)
  else List.replicate 4 (zeroFV, flSparseMeta)

/-- A pruned row's dense data with flags. -/
def prunedRow (f n : Nat) (es ss ms : List Byte) : List FV × Nat :=
  let cs := codes (elemBits f) (n / 2) es
  let sc := codes (8 * scaleBytes f) (n / 32) ss
  let me := codes 32 (n / 32) ms
  let v := ((List.range (n / 32)).map fun b =>
    ((List.range 8).map fun g => prunedGroup f (sc.getD b 0) (me.getD b 0) g (cs.getD (16 * b + 2 * g) 0) (cs.getD (16 * b + 2 * g + 1) 0)).flatten).flatten
  (v.map (·.1), v.foldl (fun a x => a ||| x.2) 0)

/-- Cut a list into runs of `n`, the last filled with zeros. -/
def runs (n : Nat) : Nat → List FV → List (List FV)
  | 0, _ => []
  | fuel + 1, l =>
    if l.isEmpty then [] else
      let h := l.take n
      (h ++ List.replicate (n - h.length) zeroFV) :: runs n fuel (l.drop n)

/-- One output: the steps along K in ascending order from an accumulator value (R73, R74). -/
def dot (bf : Bool) : List (List FV) → List (List FV) → Nat → Nat → Nat × Nat
  | a :: as, b :: bs, acc, fl => let r := if bf then bf16Step a b acc else blockStep a b acc; dot bf as bs r.1 (fl ||| r.2)
  | _, _, acc, fl => (acc, fl)

/-! ### The result -/

/-- Pack element codes into the bytes of a row. -/
def packCodes (bits : Nat) (cs : List Nat) : List Byte :=
  toBytes (ceilDiv (cs.length * bits) 8) (cs.zipIdx.foldl (fun a ci => a + ci.1 <<< (bits * ci.2)) 0)

def rndOf (round seed ordinal index : Nat) : Rnd := if round = 1 then .sr (srBits seed ordinal index) else .rne

/-- Convert FP32 values to a format (R57 to R64): element codes, scale entries, flags. `ix` is the first index. -/
def convert (f rule round seed ordinal : Nat) : Nat → Nat → List Nat → List Nat × List Nat × Nat
  | 0, _, _ => ([], [], 0)
  | fuel + 1, ix, l =>
    if f = 0 then (l, [], 0)
    else if f = 1 then
      let c := l.zipIdx.map fun vi => toBf16 (rndOf round seed ordinal (ix + vi.2)) (decode32 vi.1)
      (c.map (·.1), [], c.foldl (fun a x => a ||| x.2) 0)
    else if l.isEmpty then ([], [], 0)
    else
      let b := toBlock f rule (fun i => rndOf round seed ordinal (ix + i)) ((l.take 32).map decode32)
      let r := convert f rule round seed ordinal fuel (ix + 32) (l.drop 32)
      (b.1 ++ r.1, b.2.1 :: r.2.1, b.2.2 ||| r.2.2)

/-- Write the result's rows: state, cause, flags. -/
def resultRows (uid t : Nat) (x : MatrixWi) : Nat → List (List Nat) → Dev → Dev × Option Nat × Nat
  | _, [], d => (d, none, 0)
  | i, row :: rest, d =>
    let c := convert x.outFmt x.rule x.round x.seed 0 (x.n / 32 + 1) (i * x.n) row
    let es := spWrite d uid t (x.out + i * roundUp (elemRow x.outFmt x.n false) 64) (packCodes (elemBits x.outFmt) c.1)
    let ss := if isBlock x.outFmt then
        spWrite es.1 uid t (x.outScale + i * roundUp (scaleRow x.outFmt x.n) 16) (packCodes (8 * scaleBytes x.outFmt) c.2.1)
      else (es.1, none)
    let r := resultRows uid t x (i + 1) rest ss.1
    (r.1, (es.2.orElse fun _ => ss.2).orElse (fun _ => r.2.1), c.2.2 ||| r.2.2)

/-- The product on a tile: state, cause, flags. -/
def product (d : Dev) (uid t : Nat) (x : MatrixWi) : Dev × Option Nat × Nat :=
  let ae := plane d t x.a x.m (elemRow x.aFmt x.k false) 64
  let as := if isBlock x.aFmt then plane ae.1 t x.aScale x.m (scaleRow x.aFmt x.k) 16 else (ae.1, none, List.replicate x.m [])
  let be := plane as.1 t x.b x.n (elemRow x.bFmt x.k x.pruned) 64
  let bs := if isBlock x.bFmt then plane be.1 t x.bScale x.n (scaleRow x.bFmt x.k) 16 else (be.1, none, List.replicate x.n [])
  let bm := if x.pruned then plane bs.1 t x.bMeta x.n (x.k / 32 * 4) 16 else (bs.1, none, List.replicate x.n [])
  let c0 := if x.accIn then plane bm.1 t x.c0 x.m (4 * x.n) 64 else (bm.1, none, List.replicate x.m [])
  match [ae.2.1, as.2.1, be.2.1, bs.2.1, bm.2.1, c0.2.1].findSome? id with
  | some c => (c0.1, some c, 0)
  | none =>
    let st := (stepShape x).2
    let n := ceilDiv x.k st
    let av := List.zipWith (fun e s => denseRow x.aFmt x.k e s) ae.2.2 as.2.2
    let bv := List.zipWith (fun (e : List Byte) (sm : List Byte × List Byte) =>
      if x.pruned then prunedRow x.bFmt x.k e sm.1 sm.2 else denseRow x.bFmt x.k e sm.1) be.2.2 (List.zip bs.2.2 bm.2.2)
    let fl := (av ++ bv).foldl (fun a r => a ||| r.2) 0
    let ac := av.map fun r => runs st n r.1
    let bc := bv.map fun r => runs st n r.1
    let rows := List.zipWith (fun a (c : List Byte) =>
      let c0r := if x.accIn then codes 32 x.n c else List.replicate x.n 0
      List.zipWith (fun b acc => dot (x.aFmt == 1) a b acc 0) bc c0r) ac c0.2.2
    let fl := rows.foldl (fun a r => r.foldl (fun a c => a ||| c.2) a) fl
    let w := resultRows uid t x 0 (rows.map fun r => r.map (·.1)) c0.1
    (w.1, w.2.1, fl ||| w.2.2)

/-! ### Commands -/

/-- A matrix work item begins: a rejected one completes at once and holds its unit for no cycle (R83). -/
def matrixStart (d : Dev) (it : Item) : Dev :=
  let c := matrixCause (matrixWi it.wi)
  if c ≠ 0 then finish d it c else d

/-- MATRIX (R99, R83, R92). -/
def execMatrix (tile : Nat) (s : State) : Host.Outcome State Fault Refusal :=
  act s "MATRIX" (startable s.dev tile .matrix 1) (startLane s.dev tile .matrix matrixStart)

/-- Set a work item's flags and cycles, with the COLLISION its writes have met, and finish it. -/
def finishWith (d : Dev) (it : Item) (fl cyc cause : Nat) : Dev :=
  let it := { it with flags := it.flags ||| fl, cycles := it.cycles + cyc, collision := it.collision || (itemOf d it.uid).any (·.collision) }
  finish (modItem d it.uid fun _ => it) it cause

/-- Finish with a cycle count the spec does not fix. -/
def finishFree (d : Dev) (it : Item) (fl cause : Nat) : Dev :=
  let f := fresh d
  finishWith f.2 it fl f.1 cause

def matrixEnd (d : Dev) (t : Nat) : Dev :=
  match running? d t .matrix with
  | none => d
  | some it =>
    match product d it.uid t (matrixWi it.wi) with
    | (d, none, fl) => finishWith d it fl (matrixCycles (matrixWi it.wi)) 0
    | (d, some c, fl) => finishFree d it fl c

/-- Whether a tile's unit runs a work item of a type. -/
def runsType (d : Dev) (t : Nat) (l : Lane) (ty : Nat) : Bool :=
  match running? d t l with
  | some it => wiType it.wi == ty && inRun d && (!d.disp.blocked.contains t || (find? d.disp.replay t).isSome)
  | none => false

/-- MATRIX_COMPLETE (R66 to R76). -/
def execMatrixComplete (tile : Nat) (s : State) : Host.Outcome State Fault Refusal :=
  act s "MATRIX_COMPLETE" (runsType s.dev tile .matrix 1) (matrixEnd s.dev tile)

end Sys2Proof.Machine
end

