-- ==== Sys2Proof/Machine/AttnMath.lean ====
section
/-!
DEFINITION. The arithmetic of attention: pages as they lie (R137, R138), a page's partial (R145), the merge and the
result (R146, R142).
-/
namespace Sys2Proof.Machine

/-- The geometry a spine header gives (R134, R137, R138): dimension, positions per page, format, bytes of a row, of a
row's scales, of both planes, of the sidecar. -/
structure AttGeom where
  dim : Nat
  ppp : Nat
  fmt : Nat
  row : Nat
  srow : Nat
deriving DecidableEq, Repr

def attGeom (headDim log2 fmt : Nat) : AttGeom :=
  let dim := 64 * 2 ^ headDim
  { dim := dim, ppp := 2 ^ log2, fmt := fmt, row := elemRow fmt dim false, srow := scaleRow fmt dim }

def kvBytes (g : AttGeom) : Nat := 2 * g.ppp * g.row
def sideBytes (g : AttGeom) : Nat := 2 * g.ppp * g.srow

/-- A datum rounded to BF16 with its flags (R145, R61). -/
def bf16FV (v : FV) : FV × Nat := let r := toBf16 .rne v; (decodeBf16 r.1, r.2)

/-- Row `j` of the K plane (`v` false) or V plane of a page, widened to BF16, with flags. -/
def kvRow (g : AttGeom) (kv side : List Byte) (v : Bool) (j : Nat) : List FV × Nat :=
  let i := if v then g.ppp + j else j
  let r := denseRow g.fmt g.dim ((kv.drop (i * g.row)).take g.row) ((side.drop (i * g.srow)).take g.srow)
  let w := r.1.map bf16FV
  (w.map (·.1), w.foldl (fun a x => a ||| x.2) r.2)

def negInf32 : Nat := 0xFF800000

/-- The larger of two scores; a NaN is passed on, as R146 asks of a row's result (DEDUCED, log 127). -/
def scoreMax (a b : Nat) : Nat := if isNan32 a || isNan32 b then nan32 else fMax a b

def emptyTriple (dim : Nat) : Triple := { m := negInf32, l := 0, o := List.replicate dim 0 }

/-- The columns of a list of rows. -/
def columns (dim : Nat) (rows : List (List FV)) : List (List FV) := (List.range dim).map fun i => rows.map fun r => r.getD i zeroFV

/-- A list begun at element `k`, wrapping. -/
def rotate (k : Nat) (l : List α) : List α := l.drop k ++ l.take k

/-- The partial of one query row over visible positions (R145): each position's K and V rows; the order of the sums
begins at a position the spec leaves open. -/
def rowPartial (dim scale start : Nat) (q : List FV) (ps : List (List FV × List FV)) : Triple × Nat :=
  if ps.isEmpty then (emptyTriple dim, 0)
  else
    let ps := rotate (start % ps.length) ps
    let qr := runs 16 (dim / 16 + 1) q
    let sc := ps.map fun p => let d := dot true qr (runs 16 (dim / 16 + 1) p.1) 0 0; let s := fMul scale d.1; (s.1, d.2 ||| s.2)
    let m := sc.foldl (fun a s => scoreMax a s.1) negInf32
    let ws := sc.map fun s => let x := fSub s.1 m; let e := fExp x.1; let b := toBf16 .rne (decode32 e.1); (b.1, s.2 ||| x.2 ||| e.2 ||| b.2)
    let w32s := ws.map fun w => (encode32 (decodeBf16 w.1)).1
    let l := w32s.foldl (fun (a : Nat × Nat) w => let r := fAdd a.1 w; (r.1, a.2 ||| r.2)) (0, 0)
    let wr_ := runs 16 (ps.length / 16 + 1) (ws.map fun w => decodeBf16 w.1)
    let o := (columns dim (ps.map (·.2))).map fun c => dot true wr_ (runs 16 (ps.length / 16 + 1) c) 0 0
    ({ m := m, l := l.1, o := o.map (·.1) },
     o.foldl (fun a x => a ||| x.2) (ws.foldl (fun a x => a ||| x.2) l.2))

/-- Whether position `p` is visible to a row (R140). -/
def visible (first last mode qpos p : Nat) : Bool := decide (first ≤ p ∧ p ≤ last) && (mode == 0 || decide (p ≤ qpos))

/-- A page's partials for every row, with flags. -/
def pagePartials (g : AttGeom) (scale start first last mode base : Nat) (q : List (List FV)) (qpos : List Nat) (kv side : List Byte) :
    List (Triple × Nat) :=
  let ks := (List.range g.ppp).map fun j => kvRow g kv side false j
  let vs := (List.range g.ppp).map fun j => kvRow g kv side true j
  q.zipIdx.map fun qi =>
    let vis := (List.range g.ppp).filter fun j => visible first last mode (qpos.getD qi.2 0) (base + j)
    let ps := vis.map fun j => ((ks.getD j ([], 0)).1, (vs.getD j ([], 0)).1)
    let fl := vis.foldl (fun a j => a ||| (ks.getD j ([], 0)).2 ||| (vs.getD j ([], 0)).2) 0
    let r := rowPartial g.dim scale start qi.1 ps
    (r.1, r.2 ||| fl)

/-- The merge of R146, with flags. -/
def mergeTriple (a b : Triple) : Triple × Nat :=
  let m := scoreMax a.m b.m
  if m = negInf32 then ({ m := m, l := 0, o := a.o.map fun _ => 0 }, 0)
  else
    let x1 := fSub a.m m
    let x2 := fSub b.m m
    let a1 := fExp x1.1
    let a2 := fExp x2.1
    let comb := fun (u v : Nat) => let p := fMul v a2.1; let r := fFma u a1.1 p.1; (r.1, p.2 ||| r.2)
    let l := comb a.l b.l
    let o := List.zipWith comb a.o b.o
    ({ m := m, l := l.1, o := o.map (·.1) }, o.foldl (fun f x => f ||| x.2) (x1.2 ||| x2.2 ||| a1.2 ||| a2.2 ||| l.2))

/-- Merge partials into running rows. -/
def mergeRows (rows : List Triple) (ps : List (Triple × Nat)) : List Triple × Nat :=
  let z := List.zipWith (fun a (b : Triple × Nat) => let r := mergeTriple a b.1; (r.1, r.2 ||| b.2)) rows ps
  (z.map (·.1), z.foldl (fun a x => a ||| x.2) 0)

/-- A row's result o / l as o times rcp(l); zero, with no flag, when l is zero (R146). -/
def rowResult (t : Triple) : List Nat × Nat :=
  if t.l % 2 ^ 31 = 0 then (t.o.map fun _ => 0, 0)
  else
    let r := fRcp t.l
    let c := t.o.map fun x => fMul x r.1
    (c.map (·.1), c.foldl (fun a x => a ||| x.2) r.2)

/-- The in-page positions of the page from position `base` on that lie in [first, last]: the first, and how many (R140). -/
def rowsIn (ppp first last base : Nat) : Nat × Nat :=
  let lo := max first base
  let hi := min (last + 1) (base + ppp)
  if lo < hi then (lo - base, hi - lo) else (0, 0)

/-- The bytes of two planes of `ppp` rows of `row` bytes that hold rows `j` to `j + n - 1`: offsets and lengths. -/
def planeParts (ppp row : Nat) (jn : Nat × Nat) : List (Nat × Nat) :=
  if row = 0 || jn.2 = 0 then []
  else if jn.2 = ppp then [(0, 2 * ppp * row)]
  else [(jn.1 * row, jn.2 * row), ((ppp + jn.1) * row, jn.2 * row)]

/-- Both planes with the bytes of those parts in place, zeros in the rows that are not read. -/
def planeFill (ppp row : Nat) (jn : Nat × Nat) : List (List Byte) → List Byte
  | [k, v] =>
    let z := fun (n : Nat) => List.replicate (n * row) (0 : Byte)
    z jn.1 ++ k ++ z (ppp - jn.2) ++ v ++ z (ppp - jn.1 - jn.2)
  | l => l.flatten

/-- Bytes of a query block and of a result (R141, R142). -/
def qBytes (rows dim : Nat) : Nat := roundUp (4 * rows) 64 + 4 * rows * dim

/-- Where the scale plane of a block result begins. -/
def outScaleAt (fmt rows dim : Nat) : Nat :=
  roundUp ((rows - 1) * roundUp (elemRow fmt dim false) 64 + elemRow fmt dim false) 16

def outBytes (fmt rows dim : Nat) : Nat :=
  if fmt = 0 then roundUp (8 * rows) 64 + 4 * rows * dim
  else if fmt = 1 then 2 * rows * dim
  else outScaleAt fmt rows dim + (rows - 1) * roundUp (scaleRow fmt dim) 16 + scaleRow fmt dim

/-- Pad bytes with zeros to a length. -/
def padTo (n : Nat) (bs : List Byte) : List Byte := bs ++ List.replicate (n - bs.length) 0

/-- What is written at OUT: (offset, bytes) runs, and flags (R142). -/
def outRuns (fmt dim : Nat) (rows : List Triple) : List (Nat × List Byte) × Nat :=
  if fmt = 0 then
    let head := padTo (roundUp (8 * rows.length) 64) (rows.flatMap fun t => toBytes 4 t.m ++ toBytes 4 t.l)
    ([(0, head ++ rows.flatMap fun t => t.o.flatMap (toBytes 4))], 0)
  else
    let rs := rows.map rowResult
    let cs := rs.map fun r => convert fmt 1 0 0 0 (dim / 32 + 1) 0 r.1
    let fl := cs.foldl (fun a c => a ||| c.2.2) (rs.foldl (fun a r => a ||| r.2) 0)
    let st := if fmt = 1 then 2 * dim else roundUp (elemRow fmt dim false) 64
    let es := cs.zipIdx.map fun c => (c.2 * st, packCodes (elemBits fmt) c.1.1)
    let ss := if fmt = 1 then [] else cs.zipIdx.map fun c =>
      (outScaleAt fmt rows.length dim + c.2 * roundUp (scaleRow fmt dim) 16, packCodes (8 * scaleBytes fmt) c.1.2.1)
    (es ++ ss, fl)

end Sys2Proof.Machine
end

