-- ==== Sys2Proof/Machine/Attention.lean ====
section
/-!
DEFINITION. Attention across packages: the work item's checks (R140 to R144), the walk and its batches (R149 to R153),
the placement rule (R154 to R157), far requests and partials (R160 to R162, R167 to R169) and the home service (R163 to
R166).
-/
namespace Sys2Proof.Machine

/-! ### The work item -/

/-- The fields of an attention work item (R107). -/
structure AttWi where
  spine : Nat
  q : Nat
  out : Nat
  first : Nat
  last : Nat
  scale : Nat
  rows : Nat
  fmt : Nat
  policy : Nat
  tune : Nat
  mask : Nat
  outFmt : Nat
deriving DecidableEq, Repr

def attWi (w : Desc) : AttWi where
  spine := fieldAt w 0x18 0 64
  q := fieldAt w 0x20 0 21
  out := fieldAt w 0x24 0 21
  first := fieldAt w 0x28 0 24
  last := fieldAt w 0x2C 0 24
  scale := fieldAt w 0x30 0 32
  rows := fieldAt w 0x34 0 16
  fmt := fieldAt w 0x36 0 4
  policy := fieldAt w 0x37 0 2
  tune := fieldAt w 0x37 2 6
  mask := fieldAt w 0x38 0 2
  outFmt := fieldAt w 0x3C 0 4

def hdrPages (h : Nat) : Nat := cut h 0 17
def hdrDim (h : Nat) : Nat := cut h 32 2
def hdrLog2 (h : Nat) : Nat := cut h 36 4
def hdrFmt (h : Nat) : Nat := cut h 40 4
def hdrHomes (h : Nat) : Nat := cut h 48 7
def hdrGeom (h : Nat) : AttGeom := attGeom (hdrDim h) (hdrLog2 h) (hdrFmt h)

/-- Checks of the work item alone (R144, R139). -/
def attItemCause (x : AttWi) : Nat :=
  if x.spine % 64 ≠ 0 then 0x58
  else if x.first > x.last then 0x59
  else if x.fmt = 0 || x.fmt > 7 || x.rows = 0 || x.mask > 1 || x.policy = 3 || x.outFmt > 7 then 0x5B
  else if x.q % 64 ≠ 0 || x.out % 64 ≠ 0 then 0x45
  else 0

/-- Largest number of pages whose request fits one packet (R162). -/
def maxFit (rows dim mask : Nat) : Nat :=
  let used := 64 + (if mask = 1 then roundUp (4 * rows) 64 else 0) + 2 * rows * dim
  if used + 16 > 8192 then 0 else (8192 - used) / 16

/-- Checks of the header and the home table (R144): `h` the 64 header bytes, `hs` the home entries in use. -/
def attHeaderCause (d : Dev) (x : AttWi) (h : Nat) (hs : List Nat) : Nat :=
  let g := hdrGeom h
  let qb := qBytes x.rows g.dim
  let ob := outBytes x.outFmt x.rows g.dim
  if hdrPages h = 0 || hdrPages h > 65536 || hdrDim h = 3 || hdrLog2 h < 6 || hdrLog2 h > 10 || hdrHomes h > 64
      || cut h 17 15 ≠ 0 || cut h 34 2 ≠ 0 || cut h 44 4 ≠ 0 || cut h 55 9 ≠ 0 || h >>> 64 ≠ 0 then 0x58
  else if hdrFmt h ≠ x.fmt then 0x5B
  else if kvBytes g > 65536 || hs.any (fun e => cut e 48 16 != 0 || cut e 0 16 == rd d .meshNodeId) then 0x58
  else if x.last ≥ hdrPages h * g.ppp then 0x59
  else if x.rows * g.dim > 16384 then 0x5B
  else if x.q + qb > spBytes || x.out + ob > spBytes then 0x44
  else if x.q < x.out + ob && x.out < x.q + qb then 0x5B
  else if x.policy = 2 && maxFit x.rows g.dim x.mask = 0 then 0x5B
  else if x.policy = 2 && !isSet d .dispatchAttnCtrlFarEnable then 0x5A
  else 0

def runAt (d : Dev) (uid : Nat) : Option AttRun := find? d.att.runs uid

def setRun (d : Dev) (r : AttRun) : Dev := onAtt d fun a => { a with runs := put a.runs r.uid r }

/-- The walk of a work item is over: its reservations are released (R153). -/
def dropWalk (d : Dev) (uid : Nat) : Dev :=
  match runAt d uid with
  | none => d
  | some r => onAtt d fun a => { a with
      runs := del a.runs uid, resv := a.resv.filter fun v => !r.far.any fun f => f.tag = v.1 && f.state = .out }

/-- An attention work item ends (R143): a non-zero cause writes nothing. -/
def attEnd (d : Dev) (it : Item) (fl cause : Nat) : Dev := finishFree (dropWalk d it.uid) it fl cause

/-- Hold the work item on a translation fault of the page fetcher (R212, R218). -/
def attHold (d : Dev) (it : Item) (pg c l f : Nat) : Dev :=
  let d := modItem d it.uid fun y => { y with held := true, faultHeld := true }
  raiseFault d it.part (.item it.uid) { engine := 3, access := 0, tile := placeOf it.tile, id := wiTag it.wi } c pg l f

/-- Translate ranges for the page fetcher as one footprint: their pieces, or a state in which the work item is held or waits. -/
def attFoot (d : Dev) (it : Item) (ranges : List (Nat × Nat)) : Except Dev (Dev × List (List Seg)) :=
  match translateAll (.tile it.tile) it.part .read true ranges d with
  | (d, .ok l) => if l.any (mustWait d) then .error (park d (.item it.uid)) else .ok (d, l)
  | (d, .error (.fail pg c l f)) => .error (attHold d it pg c l f)
  | (d, .error _) => .error (park d (.item it.uid))

/-- Read parts (offset, length) of a translated range. -/
def partsRead (p : Nat) (segs : List Seg) : List (Nat × Nat) → Dev → Dev × Option Nat × List (List Byte)
  | [], d => (d, none, [])
  | x :: t, d =>
    let r := segsRead d p (cutSegs segs x.1 x.2)
    let y := partsRead p segs t r.1
    (y.1, r.2.1.orElse (fun _ => y.2.1), r.2.2 :: y.2.2)

/-! ### Starting -/

/-- The walk's first state: query rows rounded to BF16 with the flags of R61, position words (R141, R145). -/
def firstRun (it : Item) (x : AttWi) (h : Nat) (homes : List Nat) (qb : List Byte) : AttRun :=
  let g := hdrGeom h
  let qpos := codes 32 x.rows qb
  let body := qb.drop (roundUp (4 * x.rows) 64)
  let q := (List.range x.rows).map fun r => (codes 32 g.dim (body.drop (4 * r * g.dim))).map fun v => toBf16 .rne (decode32 v)
  { uid := it.uid, header := h, homes := homes, next := x.first / g.ppp, q := q.map fun r => r.map (·.1), qpos := qpos,
    rows := List.replicate x.rows (emptyTriple g.dim), flags := q.foldl (fun a r => r.foldl (fun a v => a ||| v.2) a) 0 }

/-- The query block of a work item whose header and home table have passed their checks. -/
def attQuery (d : Dev) (it : Item) (x : AttWi) (h : Nat) (homes : List Nat) : Dev :=
  match spRead d it.tile x.q (qBytes x.rows (hdrGeom h).dim) with
  | (d, some c, _) => attEnd d it 0 c
  | (d, none, qb) =>
    let r := firstRun it x h homes qb
    if x.mask = 1 && r.qpos.any (fun p => decide (p ≥ 2 ^ 24)) then finish d it 0x5B else setRun d r

/-- Begin: checks, header with the home entries in use (R135), query block. -/
def attStart (d : Dev) (it : Item) : Dev :=
  let x := attWi it.wi
  let c := attItemCause x
  if c ≠ 0 then finish d it c
  else
    match attFoot d it [(x.spine, 0x240)] with
    | .error d => d
    | .ok (d, segs) =>
      match partsRead it.part segs.flatten [(0, 64)] d with
      | (d, some c, _) => attEnd d it 0 c
      | (d, none, hb) =>
        let h := fromBytes hb.flatten
        match partsRead it.part segs.flatten [(0x40, 8 * min 64 (hdrHomes h))] d with
        | (d, some c, _) => attEnd d it 0 c
        | (d, none, bs) =>
          let homes := codes 64 (min 64 (hdrHomes h)) bs.flatten
          let c := attHeaderCause d x h homes
          if c ≠ 0 then finish d it c else attQuery d it x h homes

/-- ATTENTION (R140, R144, R94). -/
def execAttention (tile : Nat) (s : State) : Host.Outcome State Fault Refusal :=
  act s "ATTENTION" (startable s.dev tile .matrix 4) (startLane s.dev tile .matrix attStart)

/-! ### Page entries -/

def entValid (e : Nat) : Bool := bitOf e 0
def entRemote (e : Nat) : Bool := bitOf e 1
def entHome (e : Nat) : Nat := cut e 2 6
def entAddr (e : Nat) : Nat := cut e 16 48 * 65536
def entSide (e : Nat) : Nat := cut e 72 56 * 256

/-- Whether an entry in the range breaks R144. -/
def entBad (g : AttGeom) (homes e : Nat) : Bool :=
  !entValid e || cut e 8 8 != 0 || cut e 64 8 != 0 || (entRemote e && decide (entHome e ≥ homes))
  || (g.srow != 0 && decide (entSide e % 65536 + sideBytes g > 65536))

/-- A batch being formed (R149): its entries, and the entry read that does not belong to it with the cause of its read. -/
structure Batch where
  entries : List Nat := []
  peek : Option (Nat × Nat) := none

/-- Read entries one by one into a batch of entries of one kind, at most as many as its first allows; `limit` gives that
number, `p` is an entry read already. The entry that does not fit is kept for the next batch. -/
def readBatch (part : Nat) (segs : List Seg) (g : AttGeom) (homes : Nat) (limit : Nat → Nat) :
    Nat → Nat → Option (Nat × Nat) → Batch → Dev → Dev × Batch
  | 0, _, _, b, d => (d, b)
  | fuel + 1, i, p, b, d =>
    if !b.entries.isEmpty && decide (b.entries.length ≥ limit (b.entries.headD 0)) then (d, b)
    else
      let s : Dev × (Nat × Nat) × Nat := match p with
        | some x => (d, x, i)
        | none => let r := segsRead d part (cutSegs segs (16 * i) 16); (r.1, (fromBytes r.2.2, r.2.1.getD 0), i + 1)
      let e := s.2.1.1
      let h := b.entries.headD e
      let same := entRemote e == entRemote h && (!entRemote e || entHome e == entHome h)
      if s.2.1.2 ≠ 0 || entBad g homes e || !same then (s.1, { b with peek := some s.2.1 })
      else readBatch part segs g homes limit fuel s.2.2 none { b with entries := b.entries ++ [e] } s.1

/-! ### Placement (R154 to R157) -/

def tune (d : Dev) (f : Fld) (t lo hi : Nat) : Nat := clampTo lo hi (rd d f t)

/-- Available receive rate of a set of paths, as the sum over its sub-ports of rate times max(1 - U, 1/64), in bytes a
microsecond times 65,536 (R154). -/
def availRate (d : Dev) (descs : List Nat) : Nat :=
  let subs := ((descs.filter (pathValid d)).map pathSub).eraseDups
  (subs.map fun s => subRate d s * 1000 * max (65536 - getD d.att.util s 0) 1024).sum

/-- The path set of the partition's connection to a node. -/
def homePaths (d : Dev) (p node : Nat) : Dev × List Nat :=
  match nodeMap d p node with
  | (d, .error _) => (d, [])
  | (d, .ok n) =>
    let r := loadQp d n
    match peekQp r.1 n with
    | some q =>
      match liveOf r.1 q.pathSet with
      | some l => (r.1, l.descs)
      | none => readSet r.1 q.pathSet
    | none => (r.1, [])

/-- The capacity counted for a home (R155). -/
def capacityOf (d : Dev) (p node t : Nat) : Nat :=
  match d.att.caps.find? fun c => c.part = p && c.node = node with
  | some c => if d.upNs - c.at_ ≤ rd d .attnTuneCapAge t * 1000 then c.cap else rd d .attnTuneDefaultCap t
  | none => rd d .attnTuneDefaultCap t

/-- Keep a capacity record, in place of the least recently updated when 1,024 are held (R155). -/
def noteCapacity (d : Dev) (p node cap : Nat) : Dev :=
  onAtt d fun a =>
    let rest := a.caps.filter fun c => ¬ (c.part = p ∧ c.node = node)
    { a with caps := { part := p, node := node, cap := cap, at_ := d.upNs } :: rest.take 1023 }

/-- The rule of R156 for a batch of `n` pages: whether it goes far. -/
def ruleFar (n bytes rate cap minBatch tPage weight : Nat) (fits : Bool) : Bool :=
  !(cap == 0 || decide (n < minBatch) || !fits) && decide (n * tPage * 255 * weight * rate < bytes * 256 * 65536 * 1000 * cap)

/-! ### Pull -/

/-- Read bytes of a page, or of its sidecar, of a home by Clahim. -/
def pullPart (d : Dev) (it : Item) (node rh seq addr len : Nat) : Dev × Nat :=
  startInternal d it.part node
    { id := 0, qpn := 0, who := .engine (.pull it.uid seq), op := 2, rh := rh, addr := addr, len := len, src := it.tile }

/-- The parts of a page that a work item reads: of the page (numbers 0 and 1) and of its sidecar (2 and 3), each with its
address and length (R140, R150). -/
def pullParts (x : AttWi) (g : AttGeom) (ix e : Nat) : List (Nat × Nat × Nat) :=
  let jn := rowsIn g.ppp x.first x.last (ix * g.ppp)
  (planeParts g.ppp g.row jn).zipIdx.map (fun p => (p.2, entAddr e + p.1.1, p.1.2))
    ++ (planeParts g.ppp g.srow jn).zipIdx.map fun p => (2 + p.2, entSide e + p.1.1, p.1.2)

def pullAll (it : Item) (node rh seq : Nat) : List (Nat × Nat × Nat) → Dev → Dev × Nat
  | [], d => (d, 0)
  | x :: t, d =>
    match pullPart d it node rh (4 * seq + x.1) x.2.1 x.2.2 with
    | (d, 0) => pullAll it node rh seq t d
    | (d, _) => (d, 0x5A)

/-- Pull the pages of a batch, in order; a connection that cannot be used gives 0x5A. -/
def pullPages (d : Dev) (it : Item) (g : AttGeom) (node rh : Nat) : Nat → List Nat → Dev × Nat
  | _, [] => (d, 0)
  | ix, e :: t =>
    match runAt d it.uid with
    | none => (d, 0)
    | some r =>
      let k := r.nextSeq
      let ps := pullParts (attWi it.wi) g ix e
      let d := setRun d { r with nextSeq := k + 1, pulls := r.pulls ++ [{ seq := k, index := ix, need := ps.length }] }
      match pullAll it node rh k ps d with
      | (d, 0) => pullPages d it g node rh (ix + 1) t
      | r => r

def pullBatch (d : Dev) (it : Item) (r : AttRun) (home first : Nat) (es : List Nat) : Dev :=
  let h := r.homes.getD home 0
  let x := pullPages (bump d .dispatchAttnPulled) it (hdrGeom r.header) (cut h 0 16) (cut h 16 32) first es
  if x.2 ≠ 0 then attEnd x.1 it r.flags x.2 else x.1

/-- A page all of whose reads are answered. -/
def pulledPage (x : AttWi) (g : AttGeom) (p : PullPage) : AttPage :=
  let jn := rowsIn g.ppp x.first x.last (p.index * g.ppp)
  let side := fun (b : Bool) => (p.parts.filter fun e => decide (e.1 ≥ 2) == b).map (·.2)
  { index := p.index, kv := planeFill g.ppp g.row jn (side false), side := planeFill g.ppp g.srow jn (side true) }

/-- A pull's answer: a page whose reads are all answered is ready to be computed. DESIGN CHOICE: 0x60 and 0x61 at the home end
the work item with that cause, and every other failure of the read with 0x5A (R168, log 126). -/
def pullAnswered (d : Dev) (uid seq cause : Nat) (bs : List Byte) : Dev :=
  match itemOf d uid, runAt d uid with
  | some it, some r =>
    if cause ≠ 0 then attEnd d it r.flags (if cause = 0x60 ∨ cause = 0x61 then cause else 0x5A)
    else
      match r.pulls.find? fun p => p.seq = seq / 4 with
      | none => d
      | some p =>
        let p : PullPage := { p with parts := put p.parts (seq % 4) bs, need := p.need - 1 }
        let rest := r.pulls.filter fun y => y.seq ≠ p.seq
        if p.need = 0 then setRun d { r with pulls := rest, pages := r.pages ++ [pulledPage (attWi it.wi) (hdrGeom r.header) p] }
        else setRun d { r with pulls := rest ++ [p] }
  | _, _ => d

/-! ### Far -/

def partialBytes (rows dim : Nat) : Nat := 32 + 8 * rows + 4 * rows * dim

/-- The lowest place for `n` bytes in the reception buffer. -/
def reserveAt (d : Dev) (n : Nat) : Option Nat :=
  let cands := 0 :: d.att.resv.map fun v => v.2.1 + v.2.2
  let free := fun (a : Nat) => decide (a + n ≤ 8388608) && d.att.resv.all fun v => decide (a + n ≤ v.2.1 ∨ v.2.1 + v.2.2 ≤ a)
  (cands.filter free).min?

/-- A slot of a tile that holds no request. -/
def freeFarSlot (r : AttRun) : Option Nat := (List.range 16).find? fun i => !r.far.any fun f => f.slot = i

/-- The payload of a far request (R160). -/
def farPayload (x : AttWi) (r : AttRun) (tag rh first : Nat) (es : List Nat) : List Byte :=
  let g := hdrGeom r.header
  let w := packFields [(0, 32, tag), (32, 32, rh), (64, 6, es.length % 64), (72, 4, x.fmt), (76, 2, hdrDim r.header),
    (80, 4, hdrLog2 r.header), (84, 2, x.mask), (96, 16, x.rows), (128, 32, x.scale), (160, 24, first * g.ppp),
    (192, 24, x.first), (224, 24, x.last)]
  toBytes 64 w
    ++ es.flatMap (fun e => toBytes 8 (entAddr e) ++ toBytes 8 (entSide e))
    ++ (if x.mask = 1 then padTo (roundUp (4 * x.rows) 64) (r.qpos.flatMap (toBytes 4)) else [])
    ++ r.q.flatMap (fun row => row.flatMap (toBytes 2))

/-- What trying to issue a far request gives: issued, no room or not allowed now (R151, R158), no usable connection. -/
inductive FarTry where
  | sent (d : Dev)
  | busy
  | noPath (d : Dev)

/-- Try to issue the far request of a batch (R151, R160, R169); `r` is the walk without the batch. -/
def farIssue (d : Dev) (it : Item) (r : AttRun) (f : FarReq) : FarTry :=
  let x := attWi it.wi
  let n := partialBytes x.rows (hdrGeom r.header).dim
  let out := (r.far.filter fun f => f.state = .out).length
  if !isSet d .dispatchAttnCtrlFarEnable || decide (out ≥ f.outMax) then .busy
  else
    match freeFarSlot r, reserveAt d n with
    | some slot, some base =>
      let k := it.tile * 16 + slot
      let gen := (getD d.att.gens k 0 + 1) % 2 ^ 17
      let tag := it.tile + slot * 2 ^ 11 + gen * 2 ^ 15
      let h := r.homes.getD f.home 0
      let m : SendMsg := {
        id := 0, qpn := 0, who := .far it.uid slot, op := 7, rh := tag, addr := base, len := 0,
        data := farPayload x r tag (cut h 16 32) f.first f.entries }
      let m := { m with len := m.data.length }
      match startInternal d it.part (cut h 0 16) m with
      | (d, 0) =>
        let f := { f with slot := slot, tag := tag, base := base, bytes := n, state := .out, reply := [] }
        let d := onAtt d fun a => { a with gens := put a.gens k gen, resv := (tag, base, n) :: a.resv }
        .sent (bump (setRun d { r with far := r.far ++ [f] }) .dispatchAttnFarSent)
      | (d, _) => .noPath d
    | _, _ => .busy

/-! ### The walk -/

/-- Read the positions of a local page that lie in the range, page and sidecar translated as one footprint (R140, R212, R214). -/
def localPage (d : Dev) (it : Item) (r : AttRun) (e : Nat) : Except Dev (Dev × AttPage) :=
  let x := attWi it.wi
  let g := hdrGeom r.header
  let jn := rowsIn g.ppp x.first x.last (r.batchFirst * g.ppp)
  let kv := (entAddr e, kvBytes g)
  let sd := (entSide e, sideBytes g)
  let low := g.srow ≠ 0 && decide (sd.1 < kv.1)
  match attFoot d it (if g.srow = 0 then [kv] else if low then [sd, kv] else [kv, sd]) with
  | .error d => .error d
  | .ok (d, segs) =>
    let k := partsRead it.part (segs.getD (if low then 1 else 0) []) (planeParts g.ppp g.row jn) d
    let s := partsRead it.part (segs.getD (if low then 0 else 1) []) (planeParts g.ppp g.srow jn) k.1
    match k.2.1.orElse fun _ => s.2.1 with
    | some c => .error (attEnd s.1 it 0 c)
    | none => .ok (s.1, { index := r.batchFirst, kv := planeFill g.ppp g.row jn k.2.2, side := planeFill g.ppp g.srow jn s.2.2 })

/-- Read local pages, at most two ahead of the one being computed (R150). -/
def feedLocal : Nat → Dev → Nat → Dev
  | 0, d, _ => d
  | fuel + 1, d, uid =>
    match itemOf d uid, runAt d uid with
    | some it, some r =>
      match r.batch with
      | [] => d
      | e :: t =>
        if r.remoteBatch || r.pages.length ≥ 3 || it.held then d
        else
          match localPage d it r e with
          | .error d => d
          | .ok (d, p) =>
            feedLocal fuel (setRun d { r with batch := t, batchFirst := r.batchFirst + 1, pages := r.pages ++ [p] }) uid
    | _, _ => d

/-- Choose and start a remote batch (R150, R151, R156, R157). -/
def remoteBatch (d : Dev) (it : Item) (r : AttRun) : Dev :=
  let x := attWi it.wi
  let g := hdrGeom r.header
  let es := r.batch
  let first := r.batchFirst
  let home := entHome (es.headD 0)
  let node := cut (r.homes.getD home 0) 0 16
  let done := { r with batch := [], batchFirst := 0, remoteBatch := false }
  let pull := fun (d : Dev) => pullBatch (setRun d done) it done home first es
  let f : FarReq := { slot := 0, tag := 0, home := home, first := first, entries := es, base := 0, bytes := 0,
                      outMax := r.outMax, retryMax := r.retryMax }
  if x.policy = 1 then pull d
  else if x.policy = 2 then
    match nodeMap d it.part node with
    | (d, .error _) => attEnd d it r.flags 0x5A
    | (d, .ok _) =>
      match farIssue d it done f with
      | .sent d => d
      | .busy => setRun d r
      | .noPath d => attEnd d it r.flags 0x5A
  else if !isSet d .dispatchAttnCtrlFarEnable then pull d
  else
    let ps := homePaths d it.part node
    let d := ps.1
    let far := ruleFar es.length (es.length * (kvBytes g + sideBytes g)) (availRate d ps.2) (capacityOf d it.part node x.tune)
      (tune d .attnTuneFarMinBatch x.tune 1 32) (rd d .attnTuneTPageHome x.tune) (tune d .attnTuneFarWeight x.tune 1 255)
      (maxFit x.rows g.dim x.mask != 0)
    if far then
      match farIssue d it done f with
      | .sent d => d
      | .busy => pull d
      | .noPath d => pull d
    else pull d

/-- Last entry of a work item's range. -/
def lastEntry (it : Item) (r : AttRun) : Nat := (attWi it.wi).last / (hdrGeom r.header).ppp

/-- The most entries a batch that begins with an entry holds (R149). DESIGN CHOICE: where not even a one-page request fits a
packet, a remote batch, which can then only be pulled, is limited by BATCH_MAX alone (log 125). -/
def batchLimit (d : Dev) (x : AttWi) (g : AttGeom) (e : Nat) : Nat :=
  let fit := maxFit x.rows g.dim x.mask
  let bm := tune d .attnTuneBatchMax x.tune 1 32
  if entRemote e then (if fit = 0 then bm else min bm fit) else 16

/-- Form the next batch, or take up one that waits. -/
def formBatch (d : Dev) (it : Item) (r : AttRun) : Dev :=
  if r.remoteBatch then remoteBatch d it r
  else
    let x := attWi it.wi
    let g := hdrGeom r.header
    let i := r.next + (if r.peek.isSome then 1 else 0)
    let n := min 64 (lastEntry it r + 1 - i)
    match attFoot d it [(x.spine + 0x240 + 16 * i, 16 * n)] with
    | .error d => d
    | .ok (d, segs) =>
      let y := readBatch it.part segs.flatten g (hdrHomes r.header) (batchLimit d x g) (n + if r.peek.isSome then 1 else 0) 0 r.peek {} d
      let d := y.1
      let b := y.2.entries
      if b.isEmpty then
        let c := (y.2.peek.map (·.2)).getD 0
        attEnd d it r.flags (if c = 0 then 0x58 else c)
      else
        let r := { r with
          batch := b, batchFirst := r.next, next := r.next + b.length, remoteBatch := entRemote (b.headD 0), peek := y.2.peek
          outMax := tune d .attnTuneFarOutstanding x.tune 1 16, retryMax := tune d .attnTuneRetryMax x.tune 1 15 }
        if r.remoteBatch then remoteBatch (setRun d r) it r else feedLocal 17 (setRun d r) it.uid

/-- The attention work item a tile runs, with its walk. -/
def attOn (d : Dev) (t : Nat) : Option (Item × AttRun) :=
  match running? d t .matrix with
  | some it => if wiType it.wi = 4 && !it.held && !d.xl.parked.contains (.item it.uid) then (runAt d it.uid).map fun r => (it, r) else none
  | none => none

/-- Whether a batch may be formed: the walk not ended and the last batch taken up. -/
def batchReady (it : Item) (r : AttRun) : Bool := if r.batch.isEmpty then decide (r.next ≤ lastEntry it r) else r.remoteBatch

/-- ATTENTION_BATCH (R149 to R151, R156). -/
def execAttentionBatch (tile : Nat) (s : State) : Host.Outcome State Fault Refusal :=
  act s "ATTENTION_BATCH" (inRun s.dev && (attOn s.dev tile).any fun x => batchReady x.1 x.2)
    (match attOn s.dev tile with
     | some (it, r) => formBatch s.dev it r
     | none => s.dev)

/-- A page is computed and merged, and the next local page read. -/
def pageDone (d : Dev) (it : Item) (r : AttRun) (p : AttPage) : Dev :=
  let x := attWi it.wi
  let g := hdrGeom r.header
  let c := fresh d
  let q := r.q.map fun row => row.map decodeBf16
  let ps := pagePartials g x.scale c.1 x.first x.last x.mask (p.index * g.ppp) q r.qpos p.kv p.side
  let m := mergeRows r.rows ps
  let r := { r with rows := m.1, flags := r.flags ||| m.2, pages := r.pages.filter fun y => y.index ≠ p.index }
  feedLocal 17 (setRun c.2 r) it.uid

def pageOf (d : Dev) (t page : Nat) : Option (Item × AttRun × AttPage) :=
  match attOn d t with
  | some (it, r) => (r.pages.find? fun p => p.index = page).map fun p => (it, r, p)
  | none => none

/-- ATTENTION_PAGE_DONE (R145, R146). -/
def execAttentionPageDone (tile page : Nat) (s : State) : Host.Outcome State Fault Refusal :=
  act s "ATTENTION_PAGE_DONE" (inRun s.dev && (pageOf s.dev tile page).isSome)
    (match pageOf s.dev tile page with
     | some (it, r, p) => pageDone s.dev it r p
     | none => s.dev)

/-- Write the result's runs; the first cause stands. -/
def writeRuns (d : Dev) (uid t out : Nat) : List (Nat × List Byte) → Dev × Option Nat
  | [] => (d, none)
  | r :: rest =>
    let w := spWrite d uid t (out + r.1) r.2
    let x := writeRuns w.1 uid t out rest
    (x.1, w.2.orElse fun _ => x.2)

/-- Visit the words that a write of `n` bytes at a scratchpad address covers in part; the first cause found stands. -/
def visitEdges (d : Dev) (a n : Nat) : Dev × Option Nat :=
  let go := fun (d : Dev) (base : Nat) => if a ≤ base ∧ base + 8 ≤ a + n then (d, none) else demand d (place d base) base
  let u := a / 8 * 8
  let v := (a + n - 1) / 8 * 8
  let x := go d u
  if n = 0 then (d, none) else if u = v then x else let y := go x.1 v; (y.1, x.2.orElse fun _ => y.2)

/-- Whether the result can be written whole: a poisoned word that a run covers in part ends the work item before anything is
written (R143). -/
def visitRuns (d : Dev) (t out : Nat) : List (Nat × List Byte) → Dev × Option Nat
  | [] => (d, none)
  | r :: rest =>
    let x := visitEdges d (spAddr t (out + r.1)) r.2.length
    let y := visitRuns x.1 t out rest
    (y.1, x.2.orElse fun _ => y.2)

/-- The result is written at OUT, or the work item ends with nothing written (R142, R143). -/
def attWrite (d : Dev) (it : Item) (r : AttRun) : Dev :=
  let x := attWi it.wi
  let o := outRuns x.outFmt (hdrGeom r.header).dim r.rows
  match visitRuns d it.tile x.out o.1 with
  | (d, some c) => attEnd d it (r.flags ||| o.2) c
  | (d, none) => let w := writeRuns d it.uid it.tile x.out o.1; attEnd w.1 it (r.flags ||| o.2) (w.2.getD 0)

/-- Everything of a walk is merged (R152). -/
def walkDone (it : Item) (r : AttRun) : Bool :=
  r.batch.isEmpty && decide (r.next > lastEntry it r) && r.pages.isEmpty && r.pulls.isEmpty && r.far.isEmpty

/-- ATTENTION_COMPLETE (R152, R142). -/
def execAttentionComplete (tile : Nat) (s : State) : Host.Outcome State Fault Refusal :=
  act s "ATTENTION_COMPLETE" (inRun s.dev && (attOn s.dev tile).any fun x => walkDone x.1 x.2)
    (match attOn s.dev tile with
     | some (it, r) => attWrite s.dev it r
     | none => s.dev)

/-! ### Partials, timeouts, retries -/

/-- A far request leaves its reservation (R153). -/
def releaseFar (d : Dev) (f : FarReq) : Dev := onAtt d fun a => { a with resv := a.resv.filter fun v => v.1 ≠ f.tag }

/-- A refusal or an abandoned request (R168). -/
def farFallback (d : Dev) (it : Item) (r : AttRun) (f : FarReq) : Dev :=
  let d := releaseFar (bump d .dispatchAttnFallback) f
  let rest := r.far.filter fun y => y.slot ≠ f.slot
  if (attWi it.wi).policy = 2 then setRun d { r with far := rest ++ [{ f with state := .retry, reply := [] }] }
  else
    let r := { r with far := rest }
    pullBatch (setRun d r) it r f.home f.first f.entries

/-- The outstanding request a tag names (R324). -/
def farByTag (d : Dev) (tag : Nat) : Option (Item × AttRun × FarReq) :=
  d.att.runs.findSome? fun e =>
    match e.2.far.find? (fun f => f.tag = tag && f.state = .out), itemOf d e.1 with
    | some f, some it => some (it, e.2, f)
    | _, _ => none

/-- The triples of a partial (R161). -/
def partialRows (rows dim : Nat) (bs : List Byte) : List Triple :=
  let ml := codes 32 (2 * rows) (bs.drop 32)
  let o := codes 32 (rows * dim) (bs.drop (32 + 8 * rows))
  (List.range rows).map fun r => { m := ml.getD (2 * r) 0, l := ml.getD (2 * r + 1) 0, o := (o.drop (r * dim)).take dim }

/-- A received partial acts on its walk (R161, R168). -/
def partialTake (d : Dev) (tag : Nat) (bs : List Byte) : Dev :=
  match farByTag d tag with
  | none => d
  | some (it, r, f) =>
    let st := fromBytes ((bs.drop 4).take 1)
    let x := attWi it.wi
    let g := hdrGeom r.header
    if st = 0 then
      if fromBytes ((bs.drop 8).take 2) ≠ x.rows || fromBytes ((bs.drop 10).take 1) % 4 ≠ hdrDim r.header
          || bs.length ≠ partialBytes x.rows g.dim then attEnd d it r.flags 0x5A
      else
        let m := mergeRows r.rows ((partialRows x.rows g.dim bs).map fun t => (t, 0))
        setRun (releaseFar d f) { r with rows := m.1, flags := r.flags ||| m.2, far := r.far.filter fun y => y.slot ≠ f.slot }
    else if st = 1 || st = 2 || st = 5 then farFallback d it r f
    else attEnd d it r.flags (if st = 3 then 0x58 else 0x5A)

/-- A whole partial has been received (R155); one received while its work item is held is kept until the resume (R167). -/
def partialArrived (d : Dev) (tag : Nat) (bs : List Byte) : Dev :=
  match farByTag d tag with
  | none => bump d .dispatchAttnLate
  | some (it, r, f) =>
    let d := noteCapacity d it.part (cut (r.homes.getD f.home 0) 0 16) (fromBytes ((bs.drop 5).take 1))
    if it.held then setRun d { r with kept := r.kept ++ [(tag, bs)] } else partialTake d tag bs

/-- The work item a tile runs and its walk, held or not. -/
def attAny (d : Dev) (t : Nat) : Option (Item × AttRun) :=
  match running? d t .matrix with
  | some it => (runAt d it.uid).map fun r => (it, r)
  | none => none

def farOf (d : Dev) (t slot : Nat) (st : FarState) : Option (Item × AttRun × FarReq) :=
  match attOn d t with
  | some (it, r) => (r.far.find? fun f => f.slot = slot && f.state = st).map fun f => (it, r, f)
  | none => none

/-- FAR_TIMEOUT (R167): `req` is the request's slot; a held work item's requests do not time out. -/
def execFarTimeout (tile req : Nat) (s : State) : Host.Outcome State Fault Refusal :=
  act s "FAR_TIMEOUT" (farOf s.dev tile req .out).isSome
    (match farOf s.dev tile req .out with
     | some (it, r, f) => farFallback s.dev it r f
     | none => s.dev)

/-- A POLICY 2 batch goes far again, or its work item ends after RETRY_MAX tries; a try whose connection cannot be used
counts (R168). -/
def farRetry (d : Dev) (it : Item) (r : AttRun) (f : FarReq) : Dev :=
  let rest := r.far.filter fun y => y.slot ≠ f.slot
  if f.tries ≥ f.retryMax then attEnd d it r.flags 0x5A
  else
    let f := { f with tries := f.tries + 1 }
    match farIssue d it { r with far := rest } f with
    | .sent d => d
    | .busy => d
    | .noPath d => setRun d { r with far := rest ++ [f] }

/-- FAR_RETRY (R168). -/
def execFarRetry (tile req : Nat) (s : State) : Host.Outcome State Fault Refusal :=
  act s "FAR_RETRY" (farOf s.dev tile req .retry).isSome
    (match farOf s.dev tile req .retry with
     | some (it, r, f) => farRetry s.dev it r f
     | none => s.dev)

/-- UTILISATION_SAMPLE (R154): U gains an eighth of the difference, in 1/65,536; the sample is a percentage. -/
def execUtilisationSample (sub pct : Nat) (s : State) : Host.Outcome State Fault Refusal :=
  cmd s "UTILISATION_SAMPLE" (subExists s.dev sub && decide (pct ≤ 100))
    (onAtt s.dev fun a =>
      let u := getD a.util sub 0
      { a with util := putD a.util sub ((u : Int) + Int.fdiv (((pct * 65536 / 100 : Nat) : Int) - u) 8).toNat 0 })

/-! ### The home service (R163 to R166) -/

def heldBy (d : Dev) (p : Nat) : Nat := (d.att.homes.filter fun h => h.part = p).length

/-- CAPACITY of R166. -/
def homeCapacity (d : Dev) (p : Nat) : Nat :=
  let m := rd d .dispatchHomeCfgQueueMax p
  if m = 0 then 0 else 255 * (m - heldBy d p) / m

/-- The tiles of a partition's far set. -/
def farSet (d : Dev) (p : Nat) : List Nat :=
  let first := rd d .dispatchHomeCfgRowFirst p
  let last := rd d .dispatchHomeCfgRowLast p
  if first < 24 ∧ last < 24 then (tilesOf d p).filter fun t => decide (first ≤ tileRow t ∧ tileRow t ≤ last) else []

/-- Send a partial or a refusal as the reply of the attend operation (R161). -/
def homeReply (d : Dev) (h : HomeReq) (status : Nat) (triples : List Byte) : Dev :=
  let w := fromBytes (h.payload.take 64)
  let head := packFields [(0, 32, cut w 0 32), (32, 8, status), (40, 8, homeCapacity d h.part), (64, 16, cut w 96 16), (80, 2, cut w 76 2)]
  let data := toBytes 32 head ++ triples
  (startOn d h.part h.qpn { id := 0, qpn := 0, who := .home h.id, op := 8, rh := cut w 0 32, addr := h.addr, len := data.length, data := data }).1

/-- The page list of a request. -/
def homePages (payload : List Byte) : List (Nat × Nat) :=
  let n := cut (fromBytes (payload.take 64)) 64 6
  (List.range n).map fun i => let e := fromBytes ((payload.drop (64 + 16 * i)).take 16); (cut e 0 64, cut e 64 64)

/-- Whether a request breaks step 2 of R164. -/
def homeMalformed (payload : List Byte) : Bool :=
  let w := fromBytes (payload.take 64)
  let n := cut w 64 6
  let rows := cut w 96 16
  let mask := cut w 84 2
  let g := attGeom (cut w 76 2) (cut w 80 4) (cut w 72 4)
  let pos := if mask = 1 then roundUp (4 * rows) 64 else 0
  cut w 70 2 != 0 || cut w 78 2 != 0 || cut w 86 10 != 0 || cut w 112 16 != 0 || cut w 184 8 != 0 || cut w 216 8 != 0
  || w >>> 248 != 0 || n == 0 || decide (n > 32) || cut w 72 4 == 0 || decide (cut w 72 4 > 7) || cut w 76 2 == 3
  || decide (cut w 80 4 < 6 ∨ cut w 80 4 > 10) || decide (mask > 1) || rows == 0 || decide (rows * g.dim > 16384)
  || decide (kvBytes g > 65536) || cut w 160 24 % g.ppp != 0 || decide (cut w 192 24 > cut w 224 24)
  || payload.length != 64 + 16 * n + pos + 2 * rows * g.dim
  || (homePages payload).any (fun e => e.1 % 65536 != 0 || e.2 % 256 != 0 || (g.srow != 0 && decide (e.2 % 65536 + sideBytes g > 65536)))
  || (mask == 1 && (codes 32 rows (payload.drop (64 + 16 * n))).any fun p => decide (p ≥ 2 ^ 24))

/-- Whether the pages and sidecars of a request translate for a user that may not be held (R213, R431); none when a lookup
stalls (R226). -/
def allPinned (p base : Nat) (g : AttGeom) : List (Nat × Nat) → Dev → Dev × Option Bool
  | [], d => (d, some true)
  | e :: t, d =>
    match translateAll (.at_ 0x2002) p .read true ((base + e.1, kvBytes g) :: if g.srow = 0 then [] else [(base + e.2, sideBytes g)]) d with
    | (d, .ok _) => allPinned p base g t d
    | (d, .error .stall) => (d, none)
    | (d, .error _) => (d, some false)

/-- The tile of the far set with the fewest work items in its matrix lane, then the lowest (R165). -/
def homeTile (d : Dev) (p : Nat) : Nat :=
  let load := fun (t : Nat) => (laneItems d t .matrix).length + (d.att.homes.filter fun h => h.tile = t).length
  match (farSet d p).filter fun t => !d.disp.blocked.contains t with
  | [] => (farSet d p).headD 0
  | t :: ts => ts.foldl (fun a x => if load x < load a then x else a) t

/-- An ATTEND request has been received (R164). -/
def homeReceive (d : Dev) (h : HomeReq) (pd : Nat) : Dev :=
  let w := fromBytes (h.payload.take 64)
  let refuse := fun (d : Dev) (s : Nat) => homeReply (bump d .dispatchHomeRefused) h s []
  let g := attGeom (cut w 76 2) (cut w 80 4) (cut w 72 4)
  if rd d .dispatchHomeCfgQueueMax h.part = 0 || (farSet d h.part).isEmpty || rd d .partStatusState h.part != 0 then refuse d 2
  else if homeMalformed h.payload then refuse d 4
  else
    match regionFind d h.part pd false false (cut w 32 32) with
    | (d, none) => refuse d 3
    | (d, some e) =>
      let pages := homePages h.payload
      let inside := pages.all fun x => decide (x.1 + 65536 ≤ regLength e) && (g.srow == 0 || decide (x.2 + sideBytes g ≤ regLength e))
      let ok : Dev × Option Bool := if bitOf e 5 && inside then allPinned h.part (regBase e) g pages d else (d, some false)
      let d := ok.1
      if ok.2 = none then onAtt d fun a => { a with homeWait := a.homeWait ++ [{ h with pd := pd }] }
      else if ok.2 = some false then refuse d 3
      else if heldBy d h.part ≥ rd d .dispatchHomeCfgQueueMax h.part then refuse d 1
      else
        let t := homeTile d h.part
        let d := wake (bump d .dispatchHomeAdmitted) (.tile t)
        onDisp (onAtt d fun a => { a with
            homes := a.homes ++ [{ h with id := a.nextHome, pd := pd, tile := t, base := regBase e, stamp := d.disp.nextStamp }]
            nextHome := a.nextHome + 1 })
          fun s => { s with nextStamp := s.nextStamp + 1 }

/-- What reading a request's pages gives: the pages with their sidecars, a STATUS, or a wait. -/
inductive HomeData where
  | pages (l : List (List Byte × List Byte))
  | status (s : Nat)
  | wait

/-- Read the positions of a request's pages, `ix` the position of the first: a walk that fails gives STATUS 3 (R212), memory
that cannot be read STATUS 5. -/
def homeRead (tile p base : Nat) (g : AttGeom) (first last : Nat) : Nat → List (Nat × Nat) → Dev → Dev × HomeData
  | _, [], d => (d, .pages [])
  | ix, e :: t, d =>
    match translateAll (.at_ tile) p .read true ((base + e.1, kvBytes g) :: if g.srow = 0 then [] else [(base + e.2, sideBytes g)]) d with
    | (d, .error .stall) => (d, .wait)
    | (d, .error _) => (d, .status 3)
    | (d, .ok segs) =>
      if segs.any (mustWait d) then (d, .wait)
      else
        let jn := rowsIn g.ppp first last ix
        let k := partsRead p (segs.getD 0 []) (planeParts g.ppp g.row jn) d
        let s := partsRead p (segs.getD 1 []) (planeParts g.ppp g.srow jn) k.1
        if (k.2.1.orElse fun _ => s.2.1).isSome then (s.1, .status 5)
        else
          match homeRead tile p base g first last (ix + g.ppp) t s.1 with
          | (d, .pages l) => (d, .pages ((planeFill g.ppp g.row jn k.2.2, planeFill g.ppp g.srow jn s.2.2) :: l))
          | r => r

/-- The geometry a request's payload names (R160). -/
def homeGeom (payload : List Byte) : AttGeom :=
  let w := fromBytes (payload.take 64)
  attGeom (cut w 76 2) (cut w 80 4) (cut w 72 4)

/-- The triples of a request's partial, merged over its pages in order (R145, R146, R161). -/
def homePartial (payload : List Byte) (seed : Nat) (pages : List (List Byte × List Byte)) : List Byte :=
  let w := fromBytes (payload.take 64)
  let n := cut w 64 6
  let rows := cut w 96 16
  let mask := cut w 84 2
  let g := homeGeom payload
  let pos := if mask = 1 then roundUp (4 * rows) 64 else 0
  let qpos := if mask = 1 then codes 32 rows (payload.drop (64 + 16 * n)) else []
  let qb := payload.drop (64 + 16 * n + pos)
  let q := (List.range rows).map fun r => (codes 16 g.dim (qb.drop (2 * r * g.dim))).map decodeBf16
  let res := pages.zipIdx.foldl (fun (acc : List Triple) p =>
    (mergeRows acc (pagePartials g (cut w 128 32) seed (cut w 192 24) (cut w 224 24) mask (cut w 160 24 + p.2 * g.ppp) q qpos p.1.1 p.1.2)).1)
    (List.replicate rows (emptyTriple g.dim))
  (res.flatMap fun t => toBytes 4 t.m ++ toBytes 4 t.l) ++ res.flatMap fun t => t.o.flatMap (toBytes 4)

/-- Read the pages a request names. -/
def homeFetch (d : Dev) (h : HomeReq) : Dev × HomeData :=
  let w := fromBytes (h.payload.take 64)
  homeRead h.tile h.part h.base (homeGeom h.payload) (cut w 192 24) (cut w 224 24) (cut w 160 24) (homePages h.payload) d

/-- A request has been answered: it is held no more (R164). -/
def homeDrop (d : Dev) (h : HomeReq) : Dev := onAtt d fun a => { a with homes := a.homes.filter fun y => y.id ≠ h.id }

/-- Compute a request's partial and send it (R165). -/
def homeDone (d : Dev) (h : HomeReq) : Dev :=
  match homeFetch d h with
  | (d, .status s) => homeDrop (homeReply d h s []) h
  | (d, .wait) => onAtt d fun a => { a with homes := a.homes.map fun y => if y.id = h.id then { y with stalled := true } else y }
  | (d, .pages pages) => let c := fresh d; homeDrop (homeReply c.2 h 0 (homePartial h.payload c.1 pages)) h

/-- The request whose turn it is on its tile: the tile's three units free and nothing before it in the matrix lane. -/
def homeReady (d : Dev) (req : Nat) : Option HomeReq :=
  (d.att.homes.find? fun h => h.id = req).filter fun h =>
    !h.stalled && domState d (.tile h.tile) == 0 && (running? d h.tile .matrix).isNone && (running? d h.tile .vector).isNone && (running? d h.tile .move).isNone
    && !(d.att.homes.any fun o => o.tile = h.tile && decide (o.stamp < h.stamp))
    && !((laneItems d h.tile .matrix).any fun x => decide (x.stamp < h.stamp)) && !d.disp.blocked.contains h.tile

/-- HOME_COMPUTE_DONE (R165, R166). -/
def execHomeComputeDone (req : Nat) (s : State) : Host.Outcome State Fault Refusal :=
  act s "HOME_COMPUTE_DONE" (inRun s.dev && (homeReady s.dev req).isSome)
    (match homeReady s.dev req with
     | some h => homeDone s.dev h
     | none => s.dev)

/-- A request whose tile faults or whose partition stops is answered STATUS 5 (R165). -/
def homeFail (d : Dev) (h : HomeReq) : Dev :=
  homeDrop (homeReply d h 5 []) h

/-- Requests whose lookup an invalidation stalled go on (R226). -/
def homeResume (d : Dev) : Dev :=
  let l := d.att.homeWait
  l.foldl (fun d h => homeReceive d h h.pd)
    (onAtt d fun a => { a with homeWait := [], homes := a.homes.map fun y => { y with stalled := false } })

/-- The partials kept while a work item was held act once it is held no more (R167). -/
def keptGo (d : Dev) (uid : Nat) : Dev :=
  match itemOf d uid, runAt d uid with
  | some it, some r =>
    if it.held then d
    else r.kept.foldl (fun d k => partialTake d k.1 k.2) (setRun d { r with kept := [] })
  | _, _ => d

/-- A held or parked attention work item goes on: from its start, or with its walk, whose footprint is translated again. -/
def attResume (d : Dev) (uid : Nat) : Dev :=
  match itemOf d uid with
  | none => d
  | some it =>
    let it := { it with held := false }
    let d := modItem d uid fun y => { y with held := false }
    let d := match runAt d uid with
      | none => attStart d it
      | some r =>
        if r.remoteBatch then d
        else if r.batch.isEmpty then (if batchReady it r then formBatch d it r else d)
        else feedLocal 17 d uid
    keptGo d uid

end Sys2Proof.Machine
end

