-- ==== Sys2Proof/Machine/Move.lean ====
section
/-!
DEFINITION. Moves (R105, R106): their pieces (R212, R291), the accesses of each, holding on a translation fault (R214
to R217), and completion.
-/
namespace Sys2Proof.Machine

/-- The fields of a move (R105). -/
structure MoveWi where
  src : Nat
  dst : Nat
  rowBytes : Nat
  rows : Nat
  srcStride : Nat
  dstStride : Nat
  srcView : Nat
  dstView : Nat
  shape : Nat
  index : Nat
deriving DecidableEq, Repr

def moveWi (w : Desc) : MoveWi where
  src := fieldAt w 0x18 0 64
  dst := fieldAt w 0x20 0 64
  rowBytes := fieldAt w 0x28 0 32
  rows := fieldAt w 0x2C 0 21
  srcStride := fieldAt w 0x30 0 32
  dstStride := fieldAt w 0x34 0 32
  srcView := fieldAt w 0x38 0 2
  dstView := fieldAt w 0x38 2 2
  shape := fieldAt w 0x39 0 8
  index := fieldAt w 0x3C 0 21

/-- The row number a side uses for row `r`. -/
def sideRow (x : MoveWi) (ix : List Nat) (isSrc : Bool) (r : Nat) : Nat :=
  if (x.shape = 1 && isSrc) || (x.shape = 2 && !isSrc) then ix.getD r 0 else r

def srcAddr (x : MoveWi) (ix : List Nat) (r : Nat) : Nat := (x.src + sideRow x ix true r * x.srcStride) % 2 ^ 64
def dstAddr (x : MoveWi) (ix : List Nat) (r : Nat) : Nat := (x.dst + sideRow x ix false r * x.dstStride) % 2 ^ 64

/-- R106's first code. -/
def moveShapeBad (x : MoveWi) : Bool :=
  decide (x.rowBytes = 0 ∨ x.rowBytes > 1572864) || decide (x.rows = 0 ∨ x.rows > 1048576)
  || x.srcView == 3 || x.dstView == 3 || decide (x.shape > 2) || (x.srcView != 0 && x.dstView != 0)
  || (x.shape != 0 && x.index % 4 != 0)

/-- A scratchpad side, or the index list, beyond the scratchpad (R106). -/
def moveOver (x : MoveWi) (ix : List Nat) : Bool :=
  (x.srcView == 0 && (List.range x.rows).any fun r => decide (srcAddr x ix r + x.rowBytes > spBytes))
  || (x.dstView == 0 && (List.range x.rows).any fun r => decide (dstAddr x ix r + x.rowBytes > spBytes))

/-! ### Accesses of a piece -/

/-- The pieces of memory a local side names: the tile's own scratchpad, or what a translation or a local FA gives. -/
structure Span where
  own : Bool
  seg : Seg
deriving DecidableEq, Repr

def spanRead (d : Dev) (p : Nat) (s : Span) : Dev × Option Nat × List Byte :=
  if s.own then memRead d s.seg.addr s.seg.len else segRead d p s.seg

def spanWrite (d : Dev) (uid p : Nat) (s : Span) (bs : List Byte) : Dev × Option Nat :=
  if s.own then memStore d (.item uid) s.seg.src s.seg.addr bs else segWrite d p (.item uid) { s.seg with len := bs.length } bs

/-- Bytes of a range before its first poisoned word or line. -/
def cleanBytes (d : Dev) : Nat → Nat → Nat → Nat
  | 0, _, _ => 0
  | fuel + 1, a, n =>
    if n = 0 then 0
    else
      let p := place d a
      let base := a / grain p * grain p
      let take := min n (base + grain p - a)
      if eccAt d p base = some .poisoned then 0 else take + cleanBytes d fuel (a + take) (n - take)

/-- Read spans in order; on a cause, only the bytes before the poison. -/
def spansRead (d : Dev) (p : Nat) : List Span → Dev × Option Nat × List Byte
  | [] => (d, none, [])
  | s :: t =>
    match spanRead d p s with
    | (d, some c, bs) =>
      let n := if (c = 0x60 ∨ c = 0x61) ∧ ¬ s.seg.host then cleanBytes d s.seg.len s.seg.addr s.seg.len else 0
      (d, some c, bs.take n)
    | (d, none, bs) =>
      let r := spansRead d p t
      (r.1, r.2.1, bs ++ r.2.2)

/-- Write bytes to spans in order until they end or a cause stands. -/
def spansWrite (d : Dev) (uid p : Nat) : List Span → List Byte → Dev × Option Nat
  | [], _ => (d, none)
  | s :: t, bs =>
    if bs.isEmpty then (d, none)
    else
      match spanWrite d uid p s (bs.take s.seg.len) with
      | (d, some c) => (d, some c)
      | (d, none) => spansWrite d uid p t (bs.drop s.seg.len)

/-- Copy between local spans: a cause of the read leaves what came before it written (R193). -/
def copySpans (d : Dev) (uid p : Nat) (src dst : List Span) : Dev × Option Nat :=
  let r := spansRead d p src
  let w := spansWrite r.1 uid p dst r.2.2
  (w.1, r.2.1.orElse fun _ => w.2)

/-! ### REMOTE transactions (R291) -/

/-- Data flits of a REMOTE write in WRITE layout (R271, R273): aligned slots of 32 bytes from the FA's low bits on, LAST on the
last. -/
def dataFlits (f : Flit) : Nat → Nat → List Byte → List Flit
  | 0, _, _ => []
  | fuel + 1, a, bs =>
    if bs.isEmpty then []
    else
      let o := a % 32
      let h := bs.take (32 - o)
      { f with addr := (a - o) % 2 ^ 48, byteFirst := o, byteLast := o + h.length - 1, payload := fromBytes h <<< (8 * o)
               last := (bs.drop (32 - o)).isEmpty } :: dataFlits f fuel (a - o + 32) (bs.drop (32 - o))

/-- The flits of a REMOTE transaction: node, length and kind in the first flit's payload, FA bits [47:0] in ADDR. -/
def remoteFlits (d : Dev) (src part fa len kind atomic operand compare : Nat) (bs : List Byte) : List Flit :=
  let f : Flit := {
    dest := 0x2000, src := src, txn := d.disp.nextStamp % 2 ^ 16, op := 8, epoch := rd d .meshRouteCtrlEpoch
    last := bs.isEmpty, poison := false, vc := 0, part := part, cong := false, addr := fa % 2 ^ 48, byteFirst := 0,
    byteLast := 31, atomic := atomic,
    payload := (fa >>> 48) % 2 ^ 16 + (len % 2 ^ 32) <<< 16 + kind <<< 48 + (operand % 2 ^ 64) <<< 64 + (compare % 2 ^ 64) <<< 128 }
  f :: dataFlits f (bs.length + 1) f.addr bs

/-- Hand a REMOTE transaction to the mesh, towards the transport engine. -/
def sendRemote (d : Dev) (who : RemoteWho) (fs : List Flit) (dest : Nat) : Dev :=
  onDisp (wake (wake d .mesh) .laurel) fun s => { s with remotes := s.remotes ++ [{ who := who, flits := fs, dest := dest }], nextStamp := s.nextStamp + 1 }

/-! ### Running -/

/-- What one piece did. -/
inductive PieceRes where
  | done
  | failed (cause : Nat)
  | fault (page cause level flags : Nat) (kind : Kind)
  | wait
deriving DecidableEq, Repr

/-- The bytes of the next piece of a row from offset `o`: of 4 KiB from the row's start, or within a 4 KiB page of an
FA side. -/
def pieceLen (x : MoveWi) (ix : List Nat) (r o : Nat) : Nat :=
  let left := x.rowBytes - o
  if x.srcView = 2 then min (4096 - (srcAddr x ix r + o) % 4096) left
  else if x.dstView = 2 then min (4096 - (dstAddr x ix r + o) % 4096) left
  else min 4096 left

def ownSpan (t off n : Nat) : List Span := [{ own := true, seg := { host := false, addr := spAddr t off, len := n, src := t } }]

/-- The spans of one side that is local: none where it is another node's. -/
def sideSpans (d : Dev) (it : Item) (view a n : Nat) (kind : Kind) : Dev × Option (Except PieceRes (List Span)) :=
  if view = 0 then (d, some (.ok (ownSpan it.tile a n)))
  else if view = 1 then
    match translate d (.tile it.tile) it.part a n kind true with
    | (d, .stall) => (d, some (.error .wait))
    | (d, .fail pg c l f) => (d, some (.error (.fault pg c l f kind)))
    | (d, .ok segs) =>
      if mustWait d segs then (d, some (.error .wait)) else (d, some (.ok (segs.map fun s => { own := false, seg := s })))
  else if a >>> 48 = rd d .meshNodeId then
    (d, some (.ok [{ own := false, seg := { host := false, addr := a % 2 ^ 48, len := n, src := it.tile } }]))
  else (d, none)

/-- Move one piece. -/
def movePiece (d : Dev) (it : Item) (x : MoveWi) (ix : List Nat) (r o n : Nat) : Dev × PieceRes :=
  let sa := (srcAddr x ix r + o) % 2 ^ 64
  let da := (dstAddr x ix r + o) % 2 ^ 64
  match sideSpans d it x.srcView sa n .read with
  | (d, some (.error e)) => (d, e)
  | (d, none) =>
    let fs := remoteFlits d it.tile it.part sa n 0 0 0 0 []
    (modItem (sendRemote d (.piece it.uid) fs (spAddr it.tile da)) it.uid fun y => { y with remote := y.remote + 1 }, .done)
  | (d, some (.ok ss)) =>
    match sideSpans d it x.dstView da n .write with
    | (d, some (.error e)) => (d, e)
    | (d, some (.ok ds)) =>
      match copySpans d it.uid it.part ss ds with
      | (d, none) => (d, .done)
      | (d, some c) => (d, .failed c)
    | (d, none) =>
      match spansRead d it.part ss with
      | (d, some c, _) => (d, .failed c)
      | (d, none, bs) =>
        let fs := remoteFlits d it.tile it.part da n 1 0 0 0 bs
        (modItem (sendRemote d (.piece it.uid) fs 0) it.uid fun y => { y with remote := y.remote + 1 }, .done)

/-- Bytes of a whole move. -/
def moveTotal (w : Desc) : Nat := (moveWi w).rows * (moveWi w).rowBytes

/-- Issue pieces in order until all are issued, 16 are outstanding, one fails or one is held (R215). -/
def moveRun : Nat → Dev → Nat → Dev
  | 0, d, _ => d
  | fuel + 1, d, uid =>
    match itemOf d uid with
    | none => d
    | some it =>
      let x := moveWi it.wi
      let ix := getD d.disp.moveIx uid []
      if it.phase ≠ .started ∨ it.prog ≥ moveTotal it.wi ∨ it.remote ≥ 16 then d
      else
        let r := it.prog / x.rowBytes
        let o := it.prog % x.rowBytes
        let n := pieceLen x ix r o
        match movePiece d it x ix r o n with
        | (d, .done) => moveRun fuel (modItem d uid fun y => { y with prog := y.prog + n, held := false }) uid
        | (d, .failed c) => modItem d uid fun y => { y with prog := moveTotal it.wi, cause := c, held := false }
        | (d, .wait) => park (modItem d uid fun y => { y with held := false }) (.item uid)
        | (d, .fault pg c l f k) =>
          let d := modItem d uid fun y => { y with held := true, faultHeld := true }
          raiseFault d it.part (.item uid) { engine := 0, access := accessCode k, tile := placeOf it.tile, id := wiTag it.wi } c pg l f

/-- Enough turns for every piece of a move. -/
def moveFuel (w : Desc) : Nat := (moveWi w).rows * ((moveWi w).rowBytes / 4096 + 2) + 1

def moveGo (d : Dev) (uid : Nat) : Dev :=
  match itemOf d uid with
  | some it => moveRun (moveFuel it.wi) d uid
  | none => d

/-- A move begins: checks, the index list, its pieces. -/
def moveStart (d : Dev) (it : Item) : Dev :=
  let x := moveWi it.wi
  if moveShapeBad x then finish d it 0x4F
  else if x.shape ≠ 0 ∧ x.index + 4 * x.rows > spBytes then finish d it 0x44
  else
    let rd_ : Dev × Option Nat × List Byte := if x.shape = 0 then (d, none, []) else spRead d it.tile x.index (4 * x.rows)
    match rd_ with
    | (d, some c, _) => finishFree d it 0 c
    | (d, none, bs) =>
      let ix := if x.shape = 0 then [] else codes 32 x.rows bs
      if moveOver x ix then finish d it 0x44
      else
        let d := onDisp d fun s => { s with moveIx := if x.shape = 0 then s.moveIx else put s.moveIx it.uid ix }
        moveGo d it.uid

/-- MOVE (R105, R106, R212, R291). -/
def execMove (tile : Nat) (s : State) : Host.Outcome State Fault Refusal :=
  act s "MOVE" (startable s.dev tile .move 3) (startLane s.dev tile .move moveStart)

/-- Whether a move has issued everything, waits for nothing and may complete. -/
def moveDone (d : Dev) (t : Nat) : Bool :=
  runsType d t .move 3 && match running? d t .move with
    | some it => !it.held && !d.xl.parked.contains (.item it.uid) && it.remote == 0 && decide (it.prog ≥ moveTotal it.wi)
    | none => false

def moveEnd (d : Dev) (t : Nat) : Dev :=
  match running? d t .move with
  | some it => finishFree d it 0 it.cause
  | none => d

/-- MOVE_COMPLETE (R291, R126). -/
def execMoveComplete (tile : Nat) (s : State) : Host.Outcome State Fault Refusal :=
  act s "MOVE_COMPLETE" (moveDone s.dev tile) (moveEnd s.dev tile)

/-- A remote piece of a move has been answered: its data written, its cause kept, the next pieces issued. -/
def pieceAnswered (d : Dev) (uid dest cause : Nat) (bs : List Byte) : Dev :=
  match itemOf d uid with
  | none => d
  | some it =>
    let w := if cause = 0 ∧ ¬ bs.isEmpty then memStore d (.item uid) it.tile dest bs else (d, none)
    let c := if cause ≠ 0 then cause else w.2.getD 0
    let d := modItem w.1 uid fun y =>
      if c ≠ 0 ∧ y.cause = 0 then { y with remote := y.remote - 1, cause := c, prog := moveTotal it.wi }
      else { y with remote := y.remote - 1 }
    if it.held || d.xl.parked.contains (.item uid) then d else moveGo d uid

end Sys2Proof.Machine
end

