-- ==== Sys2Proof/Machine/Tokens.lean ====
section
/-!
DEFINITION. Token work items (R108, R113 to R115), waits released and timed out (R116, R119), header signals (R114,
R117, R118) and fences (R109, R110).
-/
namespace Sys2Proof.Machine

/-! ### Token operations -/

/-- Operation `i` of a token work item: code, FA, value. -/
def tokOp (w : Desc) (i : Nat) : Nat × Nat × Nat :=
  (fieldAt w (0x18 + i) 0 4, fieldAt w (0x20 + 16 * i) 0 64, fieldAt w (0x28 + 16 * i) 0 64)

/-- The next operation of a token work item from its index on: index, code, FA, value. -/
def nextTokOp (it : Item) : Option (Nat × Nat × Nat × Nat) :=
  ((List.range 2).filterMap fun i => let o := tokOp it.wi i; if i ≥ it.opIdx ∧ o.1 ≠ 0 then some (i, o) else none).head?

/-- The word an FA names for REGISTER_SET, RELEASE and WAIT_GE: of this node, in a tile of the partition (R113, R115). -/
def ownWord (d : Dev) (p fa : Nat) : Option Nat :=
  let a := fa % 2 ^ 48
  if fa % 8 ≠ 0 || fa >>> 48 ≠ rd d .meshNodeId then none
  else
    match place d a with
    | .scratch t _ => if tileOwner d t = some p then some a else none
    | _ => none

/-- Whether an operation's FA is refused whatever is registered. -/
def tokOpBad (d : Dev) (p : Nat) (o : Nat × Nat × Nat) : Bool :=
  match o.1 with
  | 0 => false
  | 2 => faBad d o.2.1
  | _ => (ownWord d p o.2.1).isNone

/-- The token work item goes on to its next operation, or ends. -/
def tokAdvance (d : Dev) (it : Item) (i : Nat) : Dev :=
  let it := { it with opIdx := i + 1, prog := 0 }
  let d := modItem d it.uid fun _ => it
  if (nextTokOp it).isNone then finishFree d it 0 0 else d

/-- Whether a work item's header wait is pending: it is at the head of its lane (R119), or starts at its dispatcher. -/
def headerPending (d : Dev) (it : Item) : Bool :=
  it.phase = .placed && wiWaitEn it.wi && !it.waitMet
    && (if it.lane = .token || it.lane = .home then orderOk d it && fenceOk d it
        else (nextOf d it.tile it.lane).any fun x => x.uid = it.uid)

/-- Whether a WAIT_GE of a token work item is pending, and on which word. -/
def gePending (it : Item) : Option (Nat × Nat) :=
  if it.phase = .started && it.lane = .token && it.prog = 1 && it.remote = 0 then
    match nextTokOp it with
    | some (_, 3, fa, v) => some (fa % 2 ^ 48, v)
    | _ => none
  else none

/-- The word a pending wait is on. -/
def waitsOn (d : Dev) (it : Item) : Option Nat :=
  match gePending it with
  | some w => some w.1
  | none => if headerPending d it then waitRef d it.part it.wi else none

/-- RELEASE: the word leaves the shadow, and every wait pending on it ends at once with 0x4A, before any ring stops (R113). -/
def releaseToken (d : Dev) (a : Nat) : Dev :=
  let cut_ := d.disp.items.filter fun x => waitsOn d x = some a
  let d := onDisp d fun s => { s with tokens := del s.tokens a, notifies := s.notifies.filter (fun n => n.addr ≠ a), stale := del s.stale a }
  completeAll d cut_ 0x4A

/-- Whether the operations of a token work item name a word that is not registered, or a 65th word of a tile, each seen after
the ones before it, so that a rejected work item writes nothing (R113, R115, R133). -/
def tokRefsBad (p : Nat) : List (Nat × Nat × Nat) → Dev → Bool
  | [], _ => false
  | o :: t, d =>
    let a := o.2.1 % 2 ^ 48
    tokOpBad d p o ||
    match o.1 with
    | 1 => ((tokenAt d a).isNone && decide (tokensOn d ((a - spBase) / 0x200000) ≥ 64))
        || tokRefsBad p t (onDisp d fun s => { s with tokens := put s.tokens a (getD s.tokens a 0) })
    | 3 => (tokenAt d a).isNone || tokRefsBad p t d
    | 4 => (tokenAt d a).isNone || tokRefsBad p t (onDisp d fun s => { s with tokens := del s.tokens a })
    | _ => tokRefsBad p t d

/-- REGISTER_SET: at most 64 words a tile; the word takes its value and is registered (R113). -/
def registerToken (d : Dev) (it : Item) (i a v : Nat) : Dev :=
  let t := (a - spBase) / 0x200000
  if (tokenAt d a).isNone && decide (tokensOn d t ≥ 64) then finish d it 0x4A
  else
    let old := tokenAt d a
    let w := memWrite d true 8 a (toBytes 8 v)
    let d := onDisp w.1 fun s => { s with tokens := put s.tokens a v }
    tokAdvance (match old with
      | some o => notifyToken d a o v
      | none => d) it i

/-- ADD to a word of this node (R114). -/
def localAdd (d : Dev) (src p a v : Nat) : Dev × Option Nat :=
  match reach d src p a 8 with
  | (d, some c) => (d, some c)
  | (d, none) => let r := answered src ((endpointAt d a true).getD 0) (memAtomic d 0 a v 0); (r.1, r.2.1)

/-- Run the next operation of a started token work item. -/
def runTokOp (d : Dev) (it : Item) : Dev :=
  match nextTokOp it with
  | none => finishFree d it 0 0
  | some (i, 1, fa, v) => registerToken d it i (fa % 2 ^ 48) v
  | some (i, 2, fa, v) =>
    if fa >>> 48 = rd d .meshNodeId then
      match localAdd d (0x800 + tileRow it.tile) it.part (fa % 2 ^ 48) v with
      | (d, none) => tokAdvance d it i
      | (d, some c) => finish d it c
    else
      let fs := remoteFlits d (0x800 + tileRow it.tile) it.part fa 8 2 0 v 0 []
      sendRemote (modItem d it.uid fun x => { x with remote := 1 }) (.token it.uid) fs 0
  | some (i, 3, fa, v) =>
    match tokenSeen d (fa % 2 ^ 48) with
    | none => finish d it 0x4A
    | some x => if x ≥ v then tokAdvance d it i else modItem d it.uid fun y => { y with prog := 1 }
  | some (i, _, fa, _) =>
    if (tokenAt d (fa % 2 ^ 48)).isNone then finish d it 0x4A else tokAdvance (releaseToken d (fa % 2 ^ 48)) it i

/-- The flits of a remote token ADD have been answered (R114, R291). -/
def tokenAnswered (d : Dev) (uid cause : Nat) : Dev :=
  match itemOf d uid with
  | none => d
  | some it =>
    let it := { it with remote := 0 }
    if cause ≠ 0 then finish d it cause
    else
      match nextTokOp it with
      | some (i, _) => tokAdvance d it i
      | none => finishFree d it 0 0

/-- A token work item takes its next step: start with its checks, then one operation. -/
def tokenStep (d : Dev) (uid : Nat) : Dev :=
  match itemOf d uid with
  | none => d
  | some it =>
    if it.phase = .placed then
      startWith d it fun d it =>
        if tokRefsBad it.part [tokOp it.wi 0, tokOp it.wi 1] d then finish d it 0x4A else runTokOp d it
    else runTokOp d it

/-- Whether a token work item's next step is an operation of a code. -/
def tokReady (d : Dev) (uid code : Nat) : Bool :=
  match itemOf d uid with
  | none => false
  | some it =>
    it.lane = .token && inRun d && (nextTokOp it).any (fun o => o.2.1 = code)
      && ((it.phase = .placed && canStart d it) || (it.phase = .started && it.prog = 0 && it.remote = 0))

/-- REGISTER_SET (R113, R108). -/
def execRegisterSet (uid : Nat) (s : State) : Host.Outcome State Fault Refusal :=
  act s "REGISTER_SET" (tokReady s.dev uid 1) (tokenStep s.dev uid)

/-- TOKEN_ADD (R114, R108). -/
def execTokenAdd (uid : Nat) (s : State) : Host.Outcome State Fault Refusal :=
  act s "TOKEN_ADD" (tokReady s.dev uid 2) (tokenStep s.dev uid)

/-- WAIT_GE (R115, R108). -/
def execWaitGe (uid : Nat) (s : State) : Host.Outcome State Fault Refusal :=
  act s "WAIT_GE" (tokReady s.dev uid 3) (tokenStep s.dev uid)

/-- TOKEN_RELEASE (R113, R108). -/
def execTokenRelease (uid : Nat) (s : State) : Host.Outcome State Fault Refusal :=
  act s "TOKEN_RELEASE" (tokReady s.dev uid 4) (tokenStep s.dev uid)

/-! ### Waits -/

/-- Whether a token's value meets a work item's pending wait. -/
def waitMetNow (d : Dev) (it : Item) : Bool :=
  match gePending it with
  | some (a, v) => (tokenSeen d a).any fun x => decide (x ≥ v)
  | none => headerPending d it && waitOf d it == .met

def waitRelease (d : Dev) (uid : Nat) : Dev :=
  match itemOf d uid with
  | none => d
  | some it =>
    match gePending it, nextTokOp it with
    | some _, some (i, _) => tokAdvance d it i
    | _, _ => modItem d uid fun x => { x with waitMet := true }

/-- TOKEN_WAIT_MET (R115, R116). -/
def execTokenWaitMet (uid : Nat) (s : State) : Host.Outcome State Fault Refusal :=
  act s "TOKEN_WAIT_MET" ((itemOf s.dev uid).any fun it => waitMetNow s.dev it) (waitRelease s.dev uid)

/-- Whether a work item's wait may time out: pending, not met, and no work item of the partition held (R119). -/
def waitExpires (d : Dev) (it : Item) : Bool :=
  (waitsOn d it).isSome && !waitMetNow d it && !anyHeld d it.part && rd d .dispatchWaitTimeout != 0

/-- TOKEN_WAIT_TIMEOUT (R119). -/
def execTokenWaitTimeout (uid : Nat) (s : State) : Host.Outcome State Fault Refusal :=
  act s "TOKEN_WAIT_TIMEOUT" ((itemOf s.dev uid).any fun it => waitExpires s.dev it) (finishUid s.dev uid 0x4B)

/-! ### The turn (R87) -/

/-- Token work items with no operation, ready to complete in a row. -/
def emptyTokens (d : Dev) (row : Nat) : List Item :=
  d.disp.items.filter fun x => x.phase = .placed && x.lane = .token && tileRow x.tile == row
    && fieldAt x.wi 0x18 0 4 == 0 && fieldAt x.wi 0x19 0 4 == 0 && canStart d x

/-- Such a work item starts, with a copy's late patches (R125), and ends unless they give it an operation. -/
def emptyTokenGo (d : Dev) (uid : Nat) : Dev :=
  match itemOf d uid with
  | none => d
  | some it => startWith d it fun d it =>
      if tokRefsBad it.part [tokOp it.wi 0, tokOp it.wi 1] d then finish d it 0x4A
      else if (nextTokOp it).isNone then finishFree d it 0 0 else d

def turnEffect (d : Dev) (row : Nat) : Dev :=
  let d := (emptyTokens d row).foldl (fun d x => emptyTokenGo d x.uid) d
  match firstFrom (getD d.disp.ringPtr row 0) (turnRings d row) with
  | none => d
  | some r =>
    let d := onDisp d fun s => { s with ringPtr := put s.ringPtr row ((r + 1) % rings) }
    let d := forwardN 8 r d
    if (fetchedOf d r).isEmpty && sleepOf d (.ring r) = some 0 then ringGo d r 64 else d

/-- DISPATCHER_TURN (R87, R86, R95, R133). -/
def execDispatcherTurn (row : Nat) (s : State) : Host.Outcome State Fault Refusal :=
  act s "DISPATCHER_TURN"
    (decide (row < 24) && inRun s.dev && isSet s.dev .dispatchCtrlEnable
      && (!(turnRings s.dev row).isEmpty || !(emptyTokens s.dev row).isEmpty))
    (turnEffect s.dev row)

/-! ### Signals -/

/-- A signalling work item has its answer (R117, R118). -/
def signalAnswered (d : Dev) (uid cause : Nat) : Dev :=
  match itemOf d uid with
  | some it => if it.phase = .signalling then complete d it cause else d
  | none => d

/-- The row dispatcher issues a work item's signal. -/
def issueSignal (d : Dev) (g : Signal) : Dev :=
  let d := onDisp d fun s => { s with signals := s.signals.filter fun x => x.uid ≠ g.uid }
  if g.fa >>> 48 = rd d .meshNodeId then
    let r := localAdd d (0x800 + tileRow g.tile) g.part (g.fa % 2 ^ 48) g.add
    signalAnswered r.1 g.uid (r.2.getD 0)
  else sendRemote d (.signal g.uid) (remoteFlits d (0x800 + tileRow g.tile) g.part g.fa 8 2 0 g.add 0 []) 0

/-- WORK_ITEM_SIGNAL (R114, R117). -/
def execWorkItemSignal (uid : Nat) (s : State) : Host.Outcome State Fault Refusal :=
  act s "WORK_ITEM_SIGNAL" (inRun s.dev && (s.dev.disp.signals.find? fun g => g.uid = uid).isSome)
    (match s.dev.disp.signals.find? fun g => g.uid = uid with
     | some g => issueSignal s.dev g
     | none => s.dev)

/-! ### Fences (R109, R110) -/

/-- A work item at its home dispatcher that may start. -/
def homeStartable (d : Dev) (uid ty : Nat) : Option Item :=
  (itemOf d uid).filter fun it => it.phase = .placed && it.lane = .home && wiType it.wi == ty && canStart d it

/-- FENCE (R109, R110): the fence begins to wait for its scope. -/
def execFence (uid : Nat) (s : State) : Host.Outcome State Fault Refusal :=
  act s "FENCE" (homeStartable s.dev uid 6).isSome
    (match homeStartable s.dev uid 6 with
     | some it => startWith s.dev it fun d _ => d
     | none => s.dev)

def fenceScope (w : Desc) : Nat := fieldAt w 0x18 0 8
def fenceDomain (w : Desc) : Nat := fieldAt w 0x19 0 8
def fenceMark (w : Desc) : Bool := fieldAt w 0x1A 0 1 == 1
def fenceKeepReset (w : Desc) : Bool := fieldAt w 0x1A 1 1 == 1

/-- Whether a work item is in a fence's scope and was fetched before it. -/
def inScope (it x : Item) : Bool :=
  if fenceScope it.wi = 0 then before it x
  else x.part = it.part && decide (x.uid < it.uid) && it.graph != some x.uid

def fenceReady (d : Dev) (uid : Nat) : Option Item :=
  (itemOf d uid).filter fun it => it.phase = .started && wiType it.wi == 6 && inRun d && !d.disp.items.any (inScope it)

/-- Whether a write belongs to a work item in a fence's scope that was fetched before it. -/
def fenceCovers (it : Item) (x : Dirty) : Bool :=
  match x.by_ with
  | .item u => decide (u < it.uid) && (if fenceScope it.wi = 0 then x.ring == it.ring else x.part == it.part)
  | _ => false

def fenceEnd (d : Dev) (it : Item) : Dev :=
  let d := flush d (fenceDomain it.wi) (fenceCovers it)
  let ts := tilesOf d it.part
  let d := if fenceMark it.wi then ts.foldl journalMark d else d
  let d := if fenceKeepReset it.wi then ts.foldl journalKeepReset d else d
  finishFree d it 0 0

/-- FENCE_COMPLETE (R110). -/
def execFenceComplete (uid : Nat) (s : State) : Host.Outcome State Fault Refusal :=
  act s "FENCE_COMPLETE" (fenceReady s.dev uid).isSome
    (match fenceReady s.dev uid with
     | some it => fenceEnd s.dev it
     | none => s.dev)

end Sys2Proof.Machine
end

