-- ==== Sys2Proof/Machine/QpCmd.lean ====
section
/-!
DEFINITION. Queue-pair commands (R312 to R316), send and receive doorbells and the SQ fetch (R305 to R308), starting
work requests (R305, R309), and the timers of the sending side (R303, R332 to R334, R344).
-/
namespace Sys2Proof.Machine

/-! ### Commands -/

def qpResult (d : Dev) (qpn op c : Nat) : Dev :=
  wr (wr (wr (wr d .transportQpCmdBusy 0 0) .transportQpCmdQpn 0 qpn) .transportQpCmdOp 0 op) .transportQpCmdResult 0 c

/-- A GO while BUSY is 1 is discarded (R314). -/
def qpCommand (d : Dev) (f : Dev → Dev) : Dev := if isSet d .transportQpCmdBusy then d else f d

/-- A command whose context cannot be fetched yet stays BUSY (R259, R326). -/
def qpCmdWaits (d : Dev) (qpn op addr : Nat) : Dev :=
  awaitCtx (wr (wr (wr d .transportQpCmdBusy 0 1) .transportQpCmdQpn 0 qpn) .transportQpCmdOp 0 op) qpn (.command op addr)

def qpAddr (d : Dev) (addr : Nat) : Dev := wr d .transportQpCmdAddr 0 (addr / 512)

/-- Whether a DPA is a 512-byte aligned place in HBM4. -/
def imageAddr (addr : Nat) : Bool := addr % 512 == 0 && decide (addr + 512 ≤ hbmEnd)

/-- The context WRITE_CONTEXT makes of an image (R312, R355). -/
def freshQp (d : Dev) (x : Nat) : Qp :=
  let q := qpOf x
  let init := clampTo 9 8192 (rd d .transportWndCfgInitKib) * 1024
  { q with
    state := 1, sqHead := 0, sqDone := 0, rqHead := 0, rqDone := 0, nextSsn := 0, rxSsn := 0, unaPsn := q.nextPsn, nextMsg := 0,
    unaMsg := 0, rxHigh := seqAdd q.rxExpected (w32 - 1), txNonce := 0, rxNcHigh := 0, srtt := 0, rttvar := 0,
    rto := rd d .transportRtoCfgInit * 1000, lastCause := 0, atomicRec := List.replicate 8 (0, 0), rxMap := 0, cwnd := init, inflight := 0,
    baseRtt := 0xFFFFFFFF, baseStamp := 0, roundEnd := q.nextPsn, roundMinQ := 0xFFFFFFFF, alpha := 0, cursor := 63,
    cleanRounds := 0, roundCe := 0, roundCut := 0, roundAcked := 0, roundMarked := 0, liveSlot := 0 }

/-- WRITE_CONTEXT of a context in RESET: its result, with the image's partition words voted. -/
def writeContextGo (d : Dev) (qpn addr : Nat) (q : Qp) : Dev × Nat :=
  if q.state ≠ 0 ∨ ¬ imageAddr addr then (d, 0x2D)
  else
    match dpaRead d 0x2000 addr 512 with
    | (d, some _, _) => (d, 0x2D)
    | (d, none, bs) =>
      match voteContext (fromBytes bs) with
      | none => (d, 0x2D)
      | some x =>
        let b := imageBad d x (qpOf x)
        let d := b.1
        let p := (qpOf x).part
        if b.2 || decide (rd d .partCountQps p ≥ rd d .partQuotaQpMax p) then (d, 0x2D)
        else (bump (setQp d qpn (freshQp d x)) .partCountQps p, 0)

/-- A command on a queue pair: `go` with its context, or refused without one. -/
def onQp (d : Dev) (qpn op addr : Nat) (go : Dev → Qp → Dev) : Dev :=
  match loadQp d qpn with
  | (d, .ok q) => go d q
  | (d, .wait) => qpCmdWaits d qpn op addr
  | (d, _) => qpResult d qpn op 0x2D

def writeContextEffect (d : Dev) (qpn addr : Nat) : Dev :=
  qpCommand d fun d => onQp (qpAddr d addr) qpn 1 addr fun d q => let r := writeContextGo d qpn addr q; qpResult r.1 qpn 1 r.2

/-- WRITE_CONTEXT (R312, R314, R420, R448). -/
def execWriteContext (qpn addr : Nat) (s : State) : Host.Outcome State Fault Refusal :=
  drv s "WRITE_CONTEXT" true (writeContextEffect s.dev qpn addr)

def readContextEffect (d : Dev) (qpn addr : Nat) : Dev :=
  qpCommand d fun d => onQp (qpAddr d addr) qpn 2 addr fun d q =>
    if imageAddr addr then qpResult (dpaWrite d 0x2000 addr (qpImage q)).1 qpn 2 0 else qpResult d qpn 2 0x2D

/-- READ_CONTEXT (R314). -/
def execReadContext (qpn addr : Nat) (s : State) : Host.Outcome State Fault Refusal :=
  drv s "READ_CONTEXT" true (readContextEffect s.dev qpn addr)

/-- Whether a path set breaks a seal: a sealed partition's paths leave its sub-ports, or another's use them (R439). -/
def sealPathsBad (d : Dev) (p : Nat) (descs : List Nat) : Bool :=
  (descs.filter (pathValid d)).any fun x =>
    let s := pathSub x
    (sealedNow d p && !bitOf (rd d .partSubports p) s)
    || (List.range 64).any fun o => o ≠ p && sealedNow d o && bitOf (rd d .partSubports o) s

/-- Checks of READY (R315, R326, R416, R420, R439). -/
def readyOk (d : Dev) (qpn : Nat) (q : Qp) (descs : List Nat) : Bool :=
  (q.state == 1 || q.state == 4) && slotLoaded d q.txSlot q.part 1 && slotLoaded d q.rxSlot q.part 2
    && rd d .cqState q.sqCq == 1 && rd d .cqState q.rqCq == 1 && rd d .eqState q.eq == 1 && q.remoteQpn != 0
    && (rd d .yewSlotUserQpn q.txSlot == 0 || rd d .yewSlotUserQpn q.txSlot == qpn)
    && (q.sticky == 0 || decide (stickyCount d < 16384)) && !sealPathsBad d q.part descs

/-! ### The send queue -/

/-- The SQ as a queue of R242; a slot that cannot be read sends the queue pair to ERROR (R308). -/
def sqFetch (n : Nat) : Fetch where
  id := .sq n
  head d := ((qpAt d n).map (·.sqHead)).getD 0
  setHead d h := modQp d n fun q => { q with sqHead := h }
  hint d := (runOf d n).sqHint
  log2 d := ((qpAt d n).map (·.sqLog2)).getD 6
  read d h :=
    match qpAt d n with
    | none => (d, .bad 0x2E)
    | some q =>
      match dvaRead d .transport q.part (q.sqBase * 4096 + h % 2 ^ q.sqLog2 * 64) 64 true with
      | (d, .ok bs) => (d, .got (BitVec.ofNat 512 (fromBytes bs)))
      | (d, .xfail _ _ _ _) => (d, .bad 0x2E)
      | (d, .mfail c) => (d, .bad c)
      | (d, .wait) => (d, .wait)
  accept d h x :=
    match qpAt d n with
    | none => d
    | some q =>
      let op := fieldAt x 0 1 4
      if exhausted d q.txSlot then wrEnded d n (h, x) 0x80
      else if op = 0 ∨ op > 4 then wrEnded d n (h, x) 0x27
      else modRun d n fun r => { r with wrs := r.wrs ++ [(h, x)] }
  onBad d c := qpError d n c
  running d := d
  parked d := d

/-- Fetch for a queue pair in READY of a partition that may run. -/
def sqGo (d : Dev) (n w : Nat) : Dev :=
  match loadQp d n with
  | (d, .ok q) =>
    if q.state = 2 && inRun d && rd d .partStatusState q.part == 0 && isSet d .transportCtrlEnable then
      drainSq 65536 (fetchRun (sqFetch n) 65537 w d) n
    else d
  | (d, .wait) => awaitCtx (setSleep d (.sq n) none) n (.refetch false w)
  | (d, _) => d

/-! ### The receive queue (R306, R307) -/

/-- Deliver finished RQ entries in SSN order, as far as their RQ entries have been fetched (R329). -/
def drainRq : Nat → Dev → Nat → Dev
  | 0, d, _ => d
  | fuel + 1, d, n =>
    match qpAt d n with
    | none => d
    | some q =>
      match rqDoneEntry d n q q.rxSsn with
      | none => d
      | some e => drainRq fuel (rqPost d n q q.rxSsn e) n

/-- The RQ as a queue of R242; a slot that cannot be read sends the queue pair to ERROR (R308). -/
def rqFetch (n : Nat) : Fetch where
  id := .rq n
  head d := ((qpAt d n).map (·.rqHead)).getD 0
  setHead d h := modQp d n fun q => { q with rqHead := h }
  hint d := (runOf d n).rqHint
  log2 d := ((qpAt d n).map (·.rqLog2)).getD 6
  read d h :=
    match qpAt d n with
    | none => (d, .bad 0x2E)
    | some q =>
      match dvaRead d .transport q.part (q.rqBase * 4096 + h % 2 ^ q.rqLog2 * 64) 64 true with
      | (d, .ok bs) => (d, .got (BitVec.ofNat 512 (fromBytes bs)))
      | (d, .xfail _ _ _ _) => (d, .bad 0x2E)
      | (d, .mfail c) => (d, .bad c)
      | (d, .wait) => (d, .wait)
  accept d h x := modRun d n fun r => { r with rqEntries := put r.rqEntries h x }
  onBad d c := qpError d n c
  running d := d
  parked d := d

/-- Fetch RQ entries for a queue pair that receives. -/
def rqGo (d : Dev) (n w : Nat) : Dev :=
  match loadQp d n with
  | (d, .ok q) =>
    if qpReceives q && inRun d && isSet d .transportCtrlEnable then drainRq 65537 (fetchRun (rqFetch n) 65537 w d) n else d
  | (d, .wait) => awaitCtx (setSleep d (.rq n) none) n (.refetch true w)
  | (d, _) => d

/-- Fetch resumes where a doorbell has announced entries. -/
def fetchAnnounced (d : Dev) (n : Nat) : Dev :=
  let d := match qpAt d n with
    | some q => if announced (runOf d n).sqHint q.sqHead then sqGo d n 64 else d
    | none => d
  match qpAt d n with
  | some q => if announced (runOf d n).rqHint q.rqHead then rqGo d n 64 else d
  | none => d

/-- READY with the context at hand. -/
def readyGo (qpn : Nat) (d : Dev) (q : Qp) : Dev :=
  let ds : Dev × List Nat := match liveOf d q.pathSet with
    | some l => (d, l.descs)
    | none => readSet d q.pathSet
  let d := ds.1
  if !readyOk d qpn q ds.2 then qpResult d qpn 3 0x2D
  else
    match makeLive d q.pathSet qpn with
    | (d, none) => qpResult d qpn 3 0x2D
    | (d, some slot) =>
      let d := takeWnd (setSticky (setQp d qpn { q with state := 2, liveSlot := slot })) qpn
      let d := pathsLostCheck (wr d .yewSlotUserQpn q.txSlot qpn) q.pathSet
      fetchAnnounced (qpResult d qpn 3 0) qpn

def readyEffect (d : Dev) (qpn : Nat) : Dev := qpCommand d fun d => onQp d qpn 3 0 (readyGo qpn)

/-- READY (R315, R340, R346). -/
def execReady (qpn : Nat) (s : State) : Host.Outcome State Fault Refusal :=
  drv s "READY" true (readyEffect s.dev qpn)

def drainEffect (d : Dev) (qpn : Nat) : Dev :=
  qpCommand d fun d => onQp d qpn 4 0 fun d q =>
    if q.state = 2 then qpResult (drainedCheck (setSleep (setQp d qpn { q with state := 3 }) (.sq qpn) none) qpn) qpn 4 0
    else qpResult d qpn 4 0x2D

/-- DRAIN (R313). -/
def execDrain (qpn : Nat) (s : State) : Host.Outcome State Fault Refusal :=
  drv s "DRAIN" true (drainEffect s.dev qpn)

/-- ERROR with the context at hand: allowed from every state; from RESET the queue pair counts for its partition again (R448). -/
def qpErrorGo (qpn : Nat) (d : Dev) (q : Qp) : Dev :=
  let d := if q.state = 0 then bump (setQp d qpn { q with state := 1 }) .partCountQps q.part else d
  qpResult (qpError d qpn 0) qpn 5 0

def qpErrorEffect (d : Dev) (qpn : Nat) : Dev := qpCommand d fun d => onQp d qpn 5 0 (qpErrorGo qpn)

/-- QP_ERROR (R316). -/
def execQpError (qpn : Nat) (s : State) : Host.Outcome State Fault Refusal :=
  drv s "QP_ERROR" true (qpErrorEffect s.dev qpn)

/-- RESET with the context at hand. -/
def qpResetGo (qpn : Nat) (d : Dev) (q : Qp) : Dev :=
  if q.state = 1 ∨ q.state = 4 ∨ q.state = 5 ∨ q.state = 6 then
    let d := drop1 (setQp d qpn { q with state := 0 }) .partCountQps q.part
    let d := if rd d .yewSlotUserQpn q.txSlot = qpn then activate (wr d .yewSlotUserQpn q.txSlot 0) q.txSlot else d
    let d := purgeTx (onTr d fun t => { t with
      runs := del t.runs qpn, msgs := t.msgs.filter (fun m => m.qpn ≠ qpn), recs := t.recs.filter (fun r => r.qpn ≠ qpn),
      openMsgs := t.openMsgs.filter (fun o => o.qpn ≠ qpn), holds := t.holds.filter fun h => h.qpn ≠ qpn }) qpn
    qpResult (setSticky (liveCheck (setSleep (setSleep d (.sq qpn) none) (.rq qpn) none) q.pathSet)) qpn 6 0
  else qpResult d qpn 6 0x2D

def qpResetEffect (d : Dev) (qpn : Nat) : Dev := qpCommand d fun d => onQp d qpn 6 0 (qpResetGo qpn)

/-- QP_RESET (R313, R416, R448). -/
def execQpReset (qpn : Nat) (s : State) : Host.Outcome State Fault Refusal :=
  drv s "QP_RESET" true (qpResetEffect s.dev qpn)

/-! ### Doorbells (R307) -/

/-- Whether a doorbell may act on a queue pair: of the window's partition, in INIT, READY or DRAINING (R307). -/
def dbTakes (win : Nat) (q : Qp) : Bool := q.part == win && decide (1 ≤ q.state ∧ q.state ≤ 3)

/-- A doorbell taken: its register and its hint, and the fetch of its queue. -/
def qpDbGo (d : Dev) (win qpn i : Nat) (rq : Bool) : Dev :=
  let d := wr (wr (wr d .pwinQpDbIndex win i) .pwinQpDbQpn win qpn) .pwinQpDbQueue win (bit rq)
  if rq then rqGo (modRun d qpn fun x => { x with rqHint := i }) qpn 64
  else sqGo (modRun d qpn fun x => { x with sqHint := i }) qpn 64

def qpDbEffect (d : Dev) (win width val : Nat) (rq : Bool) : Dev :=
  let d := wake d .laurel
  let qpn := cut val 32 24
  if dbRefused width val 57 true then bump d .pwinDbDiscards win
  else
    match loadQp d qpn with
    | (d, .ok q) => if dbTakes win q then qpDbGo d win qpn (cut val 0 32) rq else bump d .pwinDbDiscards win
    | (d, .wait) => awaitCtx d qpn (.doorbell win width val)
    | (d, _) => bump d .pwinDbDiscards win

/-- SQ_DOORBELL (R307, R242). -/
def execSqDoorbell (win width val : Nat) (s : State) : Host.Outcome State Fault Refusal :=
  drv s "SQ_DOORBELL" (decide (win < 64) && cut val 56 1 == 0) (qpDbEffect s.dev win width val false)

/-- RQ_DOORBELL (R307). -/
def execRqDoorbell (win width val : Nat) (s : State) : Host.Outcome State Fault Refusal :=
  drv s "RQ_DOORBELL" (decide (win < 64) && cut val 56 1 == 1) (qpDbEffect s.dev win width val true)

/-! ### Work requests (R305) -/

/-- Whether a work request breaks R305 for its OP. -/
def wrBad (q : Qp) (x : Desc) : Bool :=
  let op := fieldAt x 0 1 4
  let fa := fieldAt x 1 0 1
  let len := fieldAt x 0x1C 0 32
  let rem := fieldAt x 0x10 0 64
  fieldAt x 1 4 4 != 0 || fieldAt x 2 0 16 != 0 || fieldAt x 0x24 0 32 != 0 || fieldAt x 0x38 0 64 != 0
  || (op != 4 && (fieldAt x 1 1 3 != 0 || fieldAt x 0x28 0 64 != 0))
  || (!(op == 4 && fieldAt x 1 1 3 == 3) && fieldAt x 0x30 0 64 != 0)
  || (op != 3 && fieldAt x 0x20 0 32 != 0)
  || (op == 3 && (fa != 0 || rem != 0 || fieldAt x 0x18 0 32 != 0))
  || (fa == 1 && (fieldAt x 0x18 0 32 != 0 || rem >>> 48 != q.remoteNode))
  || (if op = 4 then len != 0 else decide (len > 2 ^ 31) || (op != 3 && len == 0))

/-- Whether a fence lets a work request start: every earlier READ and ATOMIC of the SQ completed. -/
def sqFenceOk (d : Dev) (n : Nat) : Bool :=
  (msgsOf d n).all fun m => match m.who with
    | .sq _ => m.done || (m.op != 2 && m.op != 5)
    | _ => true

/-- The next work request of a queue pair, when it has an OP and may start. -/
def nextWr (d : Dev) (n op : Nat) : Option (Nat × Desc) :=
  match (qpAt d n), (runOf d n).wrs with
  | some q, w :: _ => if isSet d .transportCtrlEnable && qpSends q && fieldAt w.2 0 1 4 == op && (fieldAt w.2 0 6 1 == 0 || sqFenceOk d n) then some w else none
  | _, _ => none

/-- The message a work request becomes. -/
def wrMsg (n : Nat) (q : Qp) (w : Nat × Desc) : SendMsg :=
  let x := w.2
  let op := fieldAt x 0 1 4
  let rem := fieldAt x 0x10 0 64
  { id := 0, qpn := n, who := .sq w.1, op := if op = 3 then 4 else if op = 4 then 5 else op, fa := fieldAt x 1 0 1 == 1,
    addr := if op = 3 then q.nextSsn + fieldAt x 0x20 0 32 * w32 else if fieldAt x 1 0 1 = 1 then rem % 2 ^ 48 else rem,
    rh := fieldAt x 0x18 0 32, len := fieldAt x 0x1C 0 32, loc := fieldAt x 8 0 64, operand := fieldAt x 0x28 0 64,
    compare := fieldAt x 0x30 0 64, code := fieldAt x 1 1 3, ssn := q.nextSsn, solicit := fieldAt x 0 7 1 == 1,
    cqe := fieldAt x 0 5 1 == 1, tag := fieldAt x 4 0 32 }

/-- Start a work request: malformed ones complete with 0x27 and send nothing. -/
def startWr (d : Dev) (n op : Nat) : Dev :=
  match nextWr d n op, qpAt d n with
  | some w, some q =>
    let d := modRun d n fun r => { r with wrs := r.wrs.drop 1 }
    if wrBad q w.2 then drainedCheck (drainSq 65536 (wrEnded d n w 0x27) n) n
    else newMsg (setQp d n (if op = 3 then { q with nextSsn := seqAdd q.nextSsn 1 } else q)) (wrMsg n q w)
  | _, _ => d

/-- SQ_WRITE (R305, R309). -/
def execSqWrite (qpn : Nat) (s : State) : Host.Outcome State Fault Refusal :=
  act s "SQ_WRITE" (nextWr s.dev qpn 1).isSome (startWr s.dev qpn 1)

/-- SQ_READ (R305, R309). -/
def execSqRead (qpn : Nat) (s : State) : Host.Outcome State Fault Refusal :=
  act s "SQ_READ" (nextWr s.dev qpn 2).isSome (startWr s.dev qpn 2)

/-- SQ_SEND (R305). -/
def execSqSend (qpn : Nat) (s : State) : Host.Outcome State Fault Refusal :=
  act s "SQ_SEND" (nextWr s.dev qpn 3).isSome (startWr s.dev qpn 3)

/-- SQ_ATOMIC (R305). -/
def execSqAtomic (qpn : Nat) (s : State) : Host.Outcome State Fault Refusal :=
  act s "SQ_ATOMIC" (nextWr s.dev qpn 4).isSome (startWr s.dev qpn 4)

/-! ### Timers -/

/-- A record in a state, of a queue pair that sends, while the transport engine runs. -/
def recIn (d : Dev) (n psn : Nat) (st : RecState) : Option (Qp × Rec) :=
  match qpAt d n with
  | some q => if isSet d .transportCtrlEnable && qpSends q then (d.tr.recs.find? fun r => r.qpn = n ∧ r.psn = psn ∧ r.state = st).map fun r => (q, r) else none
  | none => none

/-- Whether a record's RTO may expire: a path up, the key not exhausted (R334, R418). -/
def rtoArmed (d : Dev) (n psn : Nat) : Option (Qp × Rec) :=
  (recIn d n psn .sent).filter fun x => anyUp d x.1.pathSet && !exhausted d x.1.txSlot

def rtoEffect (d : Dev) (n : Nat) (q : Qp) (r : Rec) : Dev :=
  let heard := (liveOf d q.pathSet).bind fun l => l.paths[r.path]?
  let silent := r.expiries = 0 && heard.any fun p => p.up && seqLt p.lastHeard r.sentTs
  if silent then pathDown d q.pathSet r.path
  else
    let d := bump (bump d .transportRtoExpiries) .transportRetransmits
    if r.expiries + 1 > q.retryMax then qpError d n 0x20
    else modRec (lossCut (loseRec d r) n) n r.psn fun x => { x with expiries := r.expiries + 1 }

/-- RTO_EXPIRY (R332, R333, R344). -/
def execRtoExpiry (qpn psn : Nat) (s : State) : Host.Outcome State Fault Refusal :=
  act s "RTO_EXPIRY" (rtoArmed s.dev qpn psn).isSome
    (match rtoArmed s.dev qpn psn with
     | some (q, r) => rtoEffect s.dev qpn q r
     | none => s.dev)

/-- RNR_RESEND (R303, R333). -/
def execRnrResend (qpn psn : Nat) (s : State) : Host.Outcome State Fault Refusal :=
  act s "RNR_RESEND" (recIn s.dev qpn psn .rnrWait).isSome
    (match recIn s.dev qpn psn .rnrWait with
     | some (q, r) =>
       if q.rnrRetry ≠ 7 ∧ r.rnr ≥ q.rnrRetry then qpError s.dev qpn 0x22
       else modRec (bump s.dev .transportRetransmits) qpn psn fun x => { x with state := .unplaced, rnr := r.rnr + 1, resent := true }
     | none => s.dev)

/-- HELD_RESEND (R303, R333): never limited. -/
def execHeldResend (qpn psn : Nat) (s : State) : Host.Outcome State Fault Refusal :=
  act s "HELD_RESEND" (recIn s.dev qpn psn .heldWait).isSome
    (modRec s.dev qpn psn fun x => { x with state := .unplaced, resent := true })

/-- PATH_EXHAUSTED_TIMER (R334). -/
def execPathExhaustedTimer (qpn : Nat) (s : State) : Host.Outcome State Fault Refusal :=
  act s "PATH_EXHAUSTED_TIMER"
    ((qpAt s.dev qpn).any fun q => isSet s.dev .transportCtrlEnable && qpReceives q && (runOf s.dev qpn).lostEvent && !anyUp s.dev q.pathSet)
    (qpError s.dev qpn 0x21)

end Sys2Proof.Machine
end

