-- ==== Sys2Proof/Machine/Recv.lean ====
section
/-!
DEFINITION. Receiving Clahim packets (R321 to R328): the checks in their order, the miss park, sequence classes,
acknowledgements (R330), placement, open messages, responses (R323), acknowledgement processing (R331, R303) and probes
(R347, R348). A command takes the oldest packet handed to the transport engine.
-/
namespace Sys2Proof.Machine

/-! ### Steps 2 to 7 (R321) -/

/-- The miss park's size (R325). -/
def parkBytes : Nat := 4 * 1048576

def parkLevel (d : Dev) : Nat := (d.tr.parked.map (·.len)).sum

/-- Whether a packet fits in what a sealed partition's share, or the other partitions', leaves free of the park (R325, R449). -/
def parkFits (d : Dev) (r : RxPkt) : Bool :=
  let p := partOfQp d r.p.destQpn
  let used := ((d.tr.parked.filter fun x => samePool d p (partOfQp d x.p.destQpn)).map (·.len)).sum
  decide (used + r.len ≤ tableMax d parkBytes p)

/-- Park a packet whose context is not resident; one that does not fit is dropped (R325). -/
def parkRx (d : Dev) (r : RxPkt) : Dev :=
  if !parkFits d r then bump d .transportParkDrops
  else
    let n := r.p.destQpn
    let d := onTr d fun t => { t with parked := t.parked ++ [r], fetching := if t.fetching.contains n then t.fetching else t.fetching ++ [n] }
    wr d .transportMissParkLevel 0 (parkLevel d)

/-- An authentication failure: counted, with at most one event per ms (R321 step 6). -/
def authFail (d : Dev) (n : Nat) (q : Qp) : Dev :=
  let d := bump d .transportRxAuthFail
  let ms := d.upNs / 1000000
  if (runOf d n).authMs = some ms then d
  else postEq (modRun d n fun x => { x with authMs := some ms }) q.eq (entryOf 0x12 q.part 0x2C n [(8, q.lastCause)])

/-- Step 7: replay by nonce counter. -/
def nonceOk (q : Qp) (nc : Nat) : Bool := decide (q.rxNcHigh < 2 ^ 20) || decide (nc > q.rxNcHigh - 2 ^ 20)

/-- Steps 2 to 7: the queue pair when the packet goes on. -/
def accept (d : Dev) (r : RxPkt) : Dev × Option Qp :=
  let n := r.p.destQpn
  if (qpPlace d n).isNone then (bump d .transportRxNoContext, none)
  else if d.tr.fetching.contains n then (parkRx d r, none)
  else
    match qpAt d n with
    | none => (parkRx d r, none)
    | some q =>
      if !qpReceives q then (bump d .transportRxStateDrops, none)
      else if r.p.srcIp ≠ q.remoteIp ∨ r.p.srcQpn ≠ q.remoteQpn then (bump d .transportRxMalformed, none)
      else
        let d := touch d n
        match openUnder d q.part q.rxSlot r.p.mark with
        | .noKey => (bump d .yewNoKeyDrops, none)
        | .bad => (authFail d n q, none)
        | .ok =>
          match takeEngine d q.part with
          | none => (d, none)
          | some d =>
            let d := if isSet d .yewSlotShadow q.rxSlot then activate d q.rxSlot else d
            if !nonceOk q r.p.nonce then (bump d .transportRxReplayDrops, none)
            else
              let q := { q with rxNcHigh := max q.rxNcHigh r.p.nonce }
              (setQp d n q, some q)

/-! ### Sequence class (R322) -/

/-- The class of a request packet. -/
inductive RxClass where
  | new
  | dup
  | beyond
deriving DecidableEq, Repr

def rxClass (q : Qp) (psn : Nat) : RxClass :=
  let x := seqSub psn q.rxExpected
  if x < 1024 then (if bitOf q.rxMap (psn % 1024) then .dup else .new)
  else if x ≥ 2 ^ 31 then .dup else .beyond

/-- RX_EXPECTED past every consecutive set bit, clearing each. -/
def rxAdvance : Nat → Qp → Qp
  | 0, q => q
  | fuel + 1, q =>
    let b := q.rxExpected % 1024
    if bitOf q.rxMap b then rxAdvance fuel { q with rxMap := q.rxMap - 2 ^ b, rxExpected := seqAdd q.rxExpected 1 } else q

/-- Set the bits of `n` PSNs from `psn`. -/
def rxMark (q : Qp) (psn n : Nat) : Qp :=
  let m := (List.range n).foldl (fun m i => m ||| 2 ^ ((psn + i) % 1024)) q.rxMap
  let last := seqAdd psn (n - 1)
  rxAdvance 1024 { q with rxMap := m, rxHigh := if seqLt q.rxHigh last then last else q.rxHigh }

/-- Whether a gap lies below RX_HIGH. -/
def rxGap (q : Qp) : Bool := q.rxExpected != seqAdd q.rxHigh 1

/-! ### Acknowledgements (R302, R330) -/

/-- SACK_BASE (R330). -/
def sackBase (q : Qp) : Nat :=
  let h := seqSub q.rxHigh q.rxExpected
  if h < 65 ∨ h ≥ 2 ^ 31 then seqAdd q.rxExpected 1 else seqSub q.rxHigh 63

def sackBits (q : Qp) : Nat :=
  packFields ((List.range 64).map fun i => (i, 1, bit (bitOf q.rxMap ((sackBase q + i) % 1024))))

/-- The extension of an ACK or NAK. -/
def ackExt (q : Qp) (ts path ece synd psn : Nat) : Nat :=
  packFields [(0, 32, q.rxExpected), (32, 32, sackBase q), (64, 64, sackBits q), (128, 32, ts), (160, 6, path), (168, 8, min 255 ece),
    (176, 8, synd), (192, 32, psn)]

/-- Send an ACK (syndrome 0) or a NAK; what has been placed is reported, and ACK_EVERY counts from the last ACK (R330). -/
def sendAck (d : Dev) (n ts path synd psn : Nat) : Dev :=
  match qpAt d n with
  | none => d
  | some q =>
    let x := ackExt q ts path (runOf d n).ece synd psn
    let d := modRun d n fun r => { r with
      unreported := if synd = 0 then 0 else r.unreported, pending := false, oldest := 0, ece := 0, echoTs := 0, echoPath := 0 }
    enqueueReady d n { basePacket d n q (if synd = 0 then 10 else 11) with ext := x }

/-- An ACK caused by a packet. -/
def ackFor (d : Dev) (r : RxPkt) : Dev := sendAck d r.p.destQpn r.p.txTs r.p.path 0 0

/-- A NAK for a packet's PSN. -/
def nakFor (d : Dev) (r : RxPkt) (synd : Nat) : Dev := sendAck d r.p.destQpn r.p.txTs r.p.path synd r.p.psn

/-- A packet has been placed: its PSNs received, and an ACK when R330 asks for one. -/
def placed (d : Dev) (r : RxPkt) (n : Nat) : Dev :=
  let qpn := r.p.destQpn
  match qpAt d qpn with
  | none => d
  | some q =>
    let q' := rxMark q r.p.psn n
    let d := setQp d qpn q'
    let d := modRun d qpn fun x =>
      let x := { x with unreported := x.unreported + 1 }
      if x.pending then x else { x with pending := true, oldest := d.upNs, echoTs := r.p.txTs, echoPath := r.p.path }
    if rxGap q || rxGap q' || r.p.last || r.p.solicit || decide ((runOf d qpn).unreported ≥ atLeast1 (rd d .transportRetxCfgAckEvery))
    then ackFor d r else d

/-- ACK_DELAY_EXPIRY (R330): the oldest placed packet not yet reported causes the ACK. -/
def execAckDelayExpiry (qpn : Nat) (s : State) : Host.Outcome State Fault Refusal :=
  act s "ACK_DELAY_EXPIRY" (isSet s.dev .transportCtrlEnable && (qpAt s.dev qpn).any qpReceives && (runOf s.dev qpn).pending)
    (sendAck s.dev qpn (runOf s.dev qpn).echoTs (runOf s.dev qpn).echoPath 0 0)

/-! ### Open messages (R328) -/

def openOf (d : Dev) (n msg : Nat) : Option OpenMsg := d.tr.openMsgs.find? fun o => o.qpn = n ∧ o.msg = msg

def setOpen (d : Dev) (o : OpenMsg) : Dev :=
  onTr d fun t => { t with openMsgs := (t.openMsgs.filter fun x => ¬ (x.qpn = o.qpn ∧ x.msg = o.msg)) ++ [o] }

def dropOpen (d : Dev) (n msg : Nat) : Dev := onTr d fun t => { t with openMsgs := t.openMsgs.filter fun x => ¬ (x.qpn = n ∧ x.msg = msg) }

/-- A cause noted in an open message: 256 above it, so that any cause marks it failed. -/
def failMark (c : Nat) : Nat := 256 + c

/-- The message of a packet, made by whichever comes first; none while the table is full. -/
def openFor (d : Dev) (p : Packet) : Option OpenMsg :=
  match openOf d p.destQpn p.msg with
  | some o => some o
  | none =>
    if hasRoom d 65536 (partOfQp d p.destQpn) 1 (d.tr.openMsgs.map fun o => partOfQp d o.qpn) then
      some (if p.opcode = 4 then { qpn := p.destQpn, msg := p.msg, op := 4, hdr := cut p.addr 0 32, imm := cut p.addr 32 32 }
            else { qpn := p.destQpn, msg := p.msg, op := p.opcode })
    else none

/-- A packet that would make an entry finds the table full: it is dropped (R328). -/
def openFull (d : Dev) : Dev := bump d .transportOpenMsgDrops

/-- Whether an opcode's messages hold an entry. -/
def keepsOpen (op : Nat) : Bool := op == 4 || op == 7 || op == 8 || op == 9

/-- A finished SEND: its RQ entry completes in its turn (R310, R329). -/
def finishSend (d : Dev) (o : OpenMsg) (nonce : Nat) : Dev :=
  let e : RqDone := { bytes := o.total.getD 0, imm := o.imm, nonce := nonce, cause := o.failed % 256 }
  let d := modRun d o.qpn fun r => { r with rqReady := put r.rqReady o.hdr e }
  drainRq ((runOf d o.qpn).rqReady.length + 1) d o.qpn

/-- The bytes that a reply has placed in its request's reservation (R324). -/
def replyBytes (d : Dev) (tag n : Nat) : List Byte := match farByTag d tag with
  | some (_, _, f) => readSparse f.reply 0 n
  | none => []

/-- A message all of whose bytes are accounted for; a REDUCE message's whole is taken by the collective engine. -/
def finishOpen (d : Dev) (q : Qp) (o : OpenMsg) (p : Packet) : Dev :=
  let d := dropOpen d o.qpn o.msg
  let bytes := readSparse o.data 0 (o.total.getD 0)
  if o.op = 4 then finishSend d o p.nonce
  else if o.op = 7 then
    if o.failed ≠ 0 then d
    else homeReceive d { id := 0, part := q.part, qpn := o.qpn, pd := q.pd, addr := o.key, payload := bytes, tile := 0 } q.pd
  else if o.op = 8 then
    if o.late then bump d .dispatchAttnLate
    else if o.failed ≠ 0 then d
    else partialArrived d o.key (replyBytes d o.key (o.total.getD 0))
  else d

/-- Count a packet in its message: its LENGTH, its TOTAL, a failure; the message ends when they meet. -/
def countIn (d : Dev) (q : Qp) (o : OpenMsg) (p : Packet) (fail : Nat) : Dev :=
  let o := { o with
    count := o.count + p.length, total := if p.last then some p.total else o.total,
    failed := if o.failed = 0 then fail else o.failed }
  if o.total = some o.count then finishOpen d q o p else setOpen d o

/-! ### Refusals -/

/-- Account for a refused packet and answer it (R303, R328). -/
def refuse (d : Dev) (q : Qp) (r : RxPkt) (n synd fail : Nat) : Dev :=
  if keepsOpen r.p.opcode && (openFor d r.p).isNone then openFull d else
  let d := setQp d r.p.destQpn (rxMark q r.p.psn n)
  let d := if keepsOpen r.p.opcode then
      match openFor d r.p, qpAt d r.p.destQpn with
      | some o, some q => countIn d q o r.p (failMark fail)
      | _, _ => d
    else d
  nakFor d r synd

/-- Whether the data fields of a request packet disagree with its opcode (R300, R301, R319). -/
def shapeBad (p : Packet) : Bool :=
  p.msgOffset % 8192 != 0 || (if p.aborted then !p.last || p.length != 0 || p.total != p.msgOffset
    else if p.last then p.total != p.msgOffset + p.length || (p.length == 0 && !(p.msgOffset == 0 && (p.opcode == 4 || p.opcode == 8)))
    else p.length != 8192 || p.total != 0)

def readLen (p : Packet) : Nat := cut p.ext 0 32
/-- PSNs a READ_REQ takes. -/
def readPsns (p : Packet) : Nat := (readLen p + 8191) / 8192

/-- Step 9 of R321. -/
def malformed (p : Packet) : Bool :=
  p.reserved != 0 || p.payload.length != p.length || decide (p.length > 8192) ||
  match p.opcode with
  | 2 => p.length != 0 || (if p.aborted then !p.last || p.total != p.msgOffset
      else cut p.ext 32 32 != 0 || readLen p == 0 || decide (readLen p > 1048576)
        || p.total != (if p.last then p.msgOffset + readLen p else 0))
  | 3 => p.length == 0 || p.msgOffset % 8192 != 0 || (if p.last then p.total != p.msgOffset + p.length else p.length != 8192 || p.total != 0)
  | 5 => p.length != 0 || p.msgOffset != 0 || p.total != 0 || !p.last
  | 6 => p.length != 0 || p.total != 0
  | 10 => p.length != 0 || p.total != 0 || cut p.ext 166 2 != 0 || cut p.ext 176 80 != 0
  | 11 => p.length != 0 || p.total != 0 || cut p.ext 166 2 != 0 || cut p.ext 184 8 != 0 || cut p.ext 224 32 != 0 || cut p.ext 176 8 == 0
          || decide (cut p.ext 176 8 > 5)
  | 12 => p.length != 0 || p.total != 0
  | 13 => p.length != 0 || p.total != 0 || cut p.ext 38 26 != 0 || cut p.ext 96 32 != 0
  | _ => shapeBad p

/-! ### Holds (R327) -/

def holdOf (d : Dev) (n psn : Nat) : Option RxHold := d.tr.holds.find? fun h => h.qpn = n ∧ h.psn = psn

def dropHold (d : Dev) (n psn : Nat) : Dev := onTr d fun t => { t with holds := t.holds.filter fun h => ¬ (h.qpn = n ∧ h.psn = psn) }

/-- Hold a receive on a translation fault; `psn` is 2^32 higher for a response of this end's own request. -/
def holdRx (d : Dev) (q : Qp) (n psn : Nat) (kind : Kind) (pg c l f : Nat) : Dev :=
  raiseFault (onTr d fun t => { t with holds := t.holds ++ [{ qpn := n, psn := psn }] }) q.part (.recv n psn)
    { engine := 2, access := accessCode kind, tile := 0, id := n } c pg l f

/-- A packet whose placement waits for an invalidation or for a module of the host link. -/
def stallPkt (d : Dev) (r : RxPkt) : Dev :=
  park (onTr d fun t => { t with stallRx := t.stallRx ++ [r] }) (.recv r.p.destQpn r.p.psn)

/-- The syndrome a failed placement is answered with. -/
def memSynd (c : Nat) : Nat := if c = 0x64 ∨ c = 0xC7 ∨ c = 0x8A then 3 else if c = 0x62 ∨ c = 0x63 then 4 else 5

/-! ### The frame of a request's meaning -/

/-- A received request packet through steps 2 to 9: `dup` answers a duplicate, `fresh` goes on from step 10. The cause of a SEND whose
packet is malformed is one of R335's, which the spec does not name. -/
def request (d : Dev) (r : RxPkt) (dup fresh : Dev → Qp → RxPkt → Dev) : Dev :=
  match accept d r with
  | (d, none) => d
  | (d, some q) =>
    let n := r.p.destQpn
    let d := if r.p.ecn = 3 then modRun d n fun x => { x with ece := x.ece + 1 } else d
    match rxClass q r.p.psn with
    | .beyond => bump d .transportRxBeyondWindow
    | .dup => dup (bump d .transportRxDuplicates) q r
    | .new =>
      match holdOf d n r.p.psn with
      | some h =>
        if h.aborted then refuse (dropHold d n r.p.psn) q r (if r.p.opcode = 2 then readPsns r.p else 1) 5 h.cause
        else nakFor d r 2
      | none =>
        if malformed r.p then
          let c := choose d 17
          refuse c.2 q r 1 4 (0x20 + c.1)
        else fresh d q r

/-- A duplicate that is only acknowledged. -/
def dupAck (d : Dev) (_ : Qp) (r : RxPkt) : Dev := ackFor d r

/-- The oldest received packet, when it has the opcode. -/
def rxFront (d : Dev) (op : Nat) : Option RxPkt :=
  if inRun d && isSet d .transportCtrlEnable && domState d .laurel == 0 then d.tr.rx.head?.filter fun r => r.p.opcode == op else none

/-- The meaning of a packet's row: the oldest packet is taken. -/
def rxRow (s : State) (name : String) (op : Nat) (effect : Dev → RxPkt → Dev) : Host.Outcome State Fault Refusal :=
  act s name (rxFront s.dev op).isSome
    (match rxFront s.dev op with
     | some r => effect (onTr s.dev fun t => { t with rx := t.rx.drop 1 }) r
     | none => s.dev)

/-! ### WRITE -/

/-- Write a payload where step 10 sent it. -/
def rxPlace (d : Dev) (q : Qp) (w : Writer) (t : Target) (bs : List Byte) : Dev × ARes :=
  match t with
  | .dva a => dvaWrite d .transport q.part a bs false w
  | .dpa a =>
    if bs.isEmpty then (d, .ok [])
    else
      match segWrite d q.part w { host := false, addr := a, len := bs.length, src := 0x2000 } bs with
      | (d, some c) => (d, .mfail c)
      | (d, none) => (d, .ok [])

def rxWrite (d : Dev) (q : Qp) (r : RxPkt) : Dev :=
  let p := r.p
  match regionCheck d q.part q.pd p.fa (q.faEnable = 1) p.rh p.addr p.length 3 with
  | (d, none) => refuse d q r 1 3 0x23
  | (d, some t) =>
    match rxPlace d q .other t p.payload with
    | (d, .wait) => stallPkt d r
    | (d, .xfail pg c l f) => nakFor (holdRx d q p.destQpn p.psn .write pg c l f) r 2
    | (d, .mfail c) => refuse d q r 1 (memSynd c) c
    | (d, .ok _) => placed d r 1

/-- CLAHIM_WRITE (R321, R322). -/
def execClahimWrite (s : State) : Host.Outcome State Fault Refusal :=
  rxRow s "CLAHIM_WRITE" 1 fun d r => request d r dupAck rxWrite

/-! ### READ_REQ -/

/-- Read the source of a READ_REQ, packet by packet: `fetch` reads `len` bytes at an offset. -/
def respond (n : Nat) (q : Qp) (r : RxPkt) (fetch : Dev → Nat → Nat → Dev × ARes) : Nat → Nat → Dev → Dev
  | 0, _, d => d
  | k + 1, i, d =>
    let total := readLen r.p
    let len := min 8192 (total - 8192 * i)
    let d := match fetch d (8192 * i) len with
      | (d, .ok bs) =>
        let last := r.p.last && decide (k = 0)
        enqueueReady d n { basePacket d n q 3 with
          psn := seqAdd r.p.psn i, msgOffset := r.p.msgOffset + 8192 * i, length := len, payload := bs, last := last,
          total := if last then r.p.msgOffset + total else 0 }
      | (d, _) => sendAck d n r.p.txTs r.p.path 5 (seqAdd r.p.psn i)
    respond n q r fetch k (i + 1) d

/-- What the source of a READ_REQ gives. -/
inductive SrcRes where
  | hold (pg c l f : Nat)
  | wait
  | bad (c : Nat)
  | ready (fetch : List Seg)
deriving DecidableEq, Repr

/-- The source of a READ_REQ as pieces of memory (steps 10, 11). -/
def readSource (d : Dev) (q : Qp) (t : Target) (len : Nat) : Dev × SrcRes :=
  match t with
  | .dpa a =>
    match reach d 0x2000 q.part a len with
    | (d, some c) => (d, .bad c)
    | (d, none) => (d, .ready [{ host := false, addr := a, len := len, src := 0x2000 }])
  | .dva a =>
    match translate d .transport q.part a len .read false with
    | (d, .stall) => (d, .wait)
    | (d, .fail pg x l f) => (d, .hold pg x l f)
    | (d, .ok segs) => if mustWait d segs then (d, .wait) else (d, .ready segs)

/-- The pieces of bytes [off, off+len) of a list of pieces. -/
def segsCut : List Seg → Nat → Nat → List Seg
  | [], _, _ => []
  | s :: t, off, len =>
    if len = 0 then []
    else if off ≥ s.len then segsCut t (off - s.len) len
    else
      let k := min len (s.len - off)
      { s with addr := s.addr + off, len := k } :: segsCut t 0 (len - k)

/-- Read pieces for a packet. -/
def segFetch (part : Nat) (segs : List Seg) (d : Dev) (off len : Nat) : Dev × ARes :=
  match segsRead d part (segsCut segs off len) with
  | (d, some c, _) => (d, .mfail c)
  | (d, none, bs) => (d, .ok bs)

def rxRead (again : Bool) (d : Dev) (q : Qp) (r : RxPkt) : Dev :=
  let p := r.p
  let n := readPsns p
  let deny := fun (d : Dev) (synd cause : Nat) => if again then nakFor d r synd else refuse d q r n synd cause
  if p.aborted then (if again then ackFor d r else placed d r 1)
  else if again && (readLen p == 0 || decide (readLen p > 1048576)) then d
  else
    match regionCheck d q.part q.pd p.fa (q.faEnable = 1) p.rh p.addr (readLen p) 2 with
    | (d, none) => deny d 3 0x23
    | (d, some t) =>
      match readSource d q t (readLen p) with
      | (d, .wait) => stallPkt d r
      | (d, .hold pg c l f) => nakFor (holdRx d q p.destQpn p.psn .read pg c l f) r 2
      | (d, .bad c) => deny d (memSynd c) c
      | (d, .ready segs) =>
        let d := respond p.destQpn q r (segFetch q.part segs) n 0 d
        if again then d else placed d r n

/-- A duplicate READ_REQ is served again in full (R322), unless a fault of its own serving holds it (R327). -/
def dupRead (d : Dev) (q : Qp) (r : RxPkt) : Dev :=
  match holdOf d r.p.destQpn r.p.psn with
  | some h => if h.aborted then nakFor (dropHold d r.p.destQpn r.p.psn) r 5 else nakFor d r 2
  | none => rxRead true d q r

/-- READ_REQ (R300, R321, R322). -/
def execReadReq (s : State) : Host.Outcome State Fault Refusal :=
  rxRow s "READ_REQ" 2 fun d r => request d r dupRead (rxRead false)

/-! ### SEND (R306, R328) -/

/-- What the RQ slot of a SEND gives. -/
inductive RqRes where
  | entry (buf len : Nat)
  | malformed
  | absent
  | bad (cause : Nat)
  | wait
deriving DecidableEq, Repr

/-- What a fetched RQ entry says (R306). -/
def rqRead (x : Desc) : RqRes :=
  if fieldAt x 0 1 31 ≠ 0 ∨ fieldAt x 0x14 0 352 ≠ 0 ∨ fieldAt x 0x10 0 32 > 2 ^ 31 then .malformed
  else .entry (fieldAt x 8 0 64) (fieldAt x 0x10 0 32)

/-- The RQ entry of a SEND number: one that has been fetched (R307) and has not completed; an entry dropped with its context is read
again. -/
def rqSlot (d : Dev) (n : Nat) (q : Qp) (ssn : Nat) : Dev × RqRes :=
  match find? (runOf d n).rqEntries ssn with
  | some x => (d, rqRead x)
  | none =>
    if seqSub ssn q.rqDone ≥ seqSub q.rqHead q.rqDone then (d, .absent)
    else
      match dvaRead d .transport q.part (q.rqBase * 4096 + ssn % 2 ^ q.rqLog2 * 64) 64 true with
      | (d, .wait) => (d, .wait)
      | (d, .xfail _ _ _ _) => (d, .bad 0x2E)
      | (d, .mfail c) => (d, .bad c)
      | (d, .ok bs) =>
        let x := BitVec.ofNat 512 (fromBytes bs)
        (modRun d n fun r => { r with rqEntries := put r.rqEntries ssn x }, rqRead x)

/-- The message of a SEND with its RQ entry read. -/
inductive SendRes where
  | open_ (o : OpenMsg)
  | rnr
  | full
  | bad (cause : Nat)
  | wait
deriving DecidableEq, Repr

def sendOpen (d : Dev) (q : Qp) (p : Packet) : Dev × SendRes :=
  match (openOf d p.destQpn p.msg).filter (·.rq) with
  | some o => (d, .open_ o)
  | none =>
    match rqSlot d p.destQpn q (cut p.addr 0 32) with
    | (d, .wait) => (d, .wait)
    | (d, .bad c) => (d, .bad c)
    | (d, .absent) => (d, .rnr)
    | (d, e) =>
      match openFor d p with
      | none => (d, .full)
      | some o => (d, .open_ (match e with
        | .entry buf len => { o with rq := true, buf := buf, blen := len }
        | _ => { o with rq := true, failed := failMark 0x27 }))

def rxSend (d : Dev) (q : Qp) (r : RxPkt) : Dev :=
  let p := r.p
  match sendOpen d q p with
  | (d, .wait) => stallPkt d r
  | (d, .rnr) => nakFor d r 1
  | (d, .full) => openFull d
  | (d, .bad c) => qpError d p.destQpn c
  | (d, .open_ o) =>
    if o.failed = failMark 0x27 then refuse (setOpen d o) q r 1 4 0x27
    else if p.msgOffset + p.length > o.blen then refuse (setOpen d o) q r 1 4 0x28
    else
      match rxPlace d q (.recv p.destQpn o.hdr) (.dva (o.buf + p.msgOffset)) p.payload with
      | (d, .wait) => stallPkt d r
      | (d, .xfail pg c l f) => nakFor (holdRx (setOpen d o) q p.destQpn p.psn .write pg c l f) r 2
      | (d, .mfail c) => refuse (setOpen d o) q r 1 (memSynd c) c
      | (d, .ok _) =>
        placed (countIn d q o p (if p.aborted then failMark 0x29 else 0)) r 1

/-- SEND (R306, R321, R328). -/
def execSend (s : State) : Host.Outcome State Fault Refusal :=
  rxRow s "SEND" 4 fun d r => request d r dupAck rxSend

/-! ### ATOMIC -/

/-- Answer an atomic. -/
def atomicReply (d : Dev) (q : Qp) (n psn old : Nat) : Dev := enqueueReady d n { basePacket d n q 6 with psn := psn, ext := old }

/-- ATOMIC_REC takes a result in place of the entry with the oldest PSN (R322). -/
def noteAtomic (l : List (Nat × Nat)) (psn old : Nat) : List (Nat × Nat) :=
  if l.length < 8 then l ++ [(psn, old)]
  else
    let oldest := l.foldl (fun a e => if seqLt e.1 a then e.1 else a) (l.headD (psn, old)).1
    (l.filter fun e => e.1 ≠ oldest) ++ [(psn, old)]

/-- Perform an atomic for a partition at the place step 10 and 11 give. -/
def rxAtomicAt (d : Dev) (q : Qp) (p : Packet) (a : Nat) : Dev × Except Nat Nat :=
  if a % 8 ≠ 0 ∨ (ctlBase ≤ a ∧ a < ctlBase + 0x4000000) then (d, .error 0x62)
  else
    match reach d 0x2000 q.part a 8 with
    | (d, some c) => (d, .error c)
    | (d, none) =>
      match answered 0x2000 ((endpointAt d a true).getD 0) (memAtomic d p.atomicCode a (cut p.ext 0 64) (cut p.ext 64 64)) with
      | (d, some c, _) => (d, .error c)
      | (d, none, old) => (d, .ok (if p.atomicCode = 0 then 0 else old))

def rxAtomicGo (d : Dev) (q : Qp) (r : RxPkt) (a : Nat) : Dev :=
  match rxAtomicAt d q r.p a with
  | (d, .error c) => refuse d q r 1 (memSynd c) c
  | (d, .ok old) =>
    let d := modQp d r.p.destQpn fun q => { q with atomicRec := noteAtomic q.atomicRec r.p.psn old }
    placed (atomicReply d q r.p.destQpn r.p.psn old) r 1

def rxAtomic (d : Dev) (q : Qp) (r : RxPkt) : Dev :=
  let p := r.p
  match regionCheck d q.part q.pd p.fa (q.faEnable = 1) p.rh p.addr 8 4 with
  | (d, none) => refuse d q r 1 3 0x23
  | (d, some (.dpa a)) => rxAtomicGo d q r a
  | (d, some (.dva v)) =>
    match translate d .transport q.part v 8 .atomic false with
    | (d, .stall) => stallPkt d r
    | (d, .fail pg c l f) => nakFor (holdRx d q p.destQpn p.psn .atomic pg c l f) r 2
    | (d, .ok segs) => rxAtomicGo d q r ((segs.map (·.addr)).headD 0)

/-- A duplicate atomic is answered from ATOMIC_REC or dropped. -/
def dupAtomic (d : Dev) (q : Qp) (r : RxPkt) : Dev :=
  match q.atomicRec.find? fun e => e.1 = r.p.psn with
  | some e => atomicReply d q r.p.destQpn r.p.psn e.2
  | none => d

/-- CLAHIM_ATOMIC (R179, R321, R322). -/
def execClahimAtomic (s : State) : Host.Outcome State Fault Refusal :=
  rxRow s "CLAHIM_ATOMIC" 5 fun d r => request d r dupAtomic rxAtomic

/-! ### ATTEND and ATTEND_REPLY (R324) -/

def rxAttend (d : Dev) (q : Qp) (r : RxPkt) : Dev :=
  let p := r.p
  if q.attendEnable ≠ 1 then refuse d q r 1 4 0x24
  else
    match openFor d p with
    | none => openFull d
    | some o =>
      let o := { o with key := if p.msgOffset = 0 then p.addr else o.key, data := writeSparse o.data p.msgOffset p.payload }
      placed (countIn d q o p (if p.aborted then failMark 0x29 else 0)) r 1

/-- ATTEND (R164, R324). -/
def execAttend (s : State) : Host.Outcome State Fault Refusal :=
  rxRow s "ATTEND" 7 fun d r => request d r dupAck rxAttend

/-- Whether a reply's packet may be placed. -/
def replyFits (d : Dev) (p : Packet) : Bool :=
  match farByTag d p.rh with
  | some (_, _, f) => decide (f.base ≤ p.addr ∧ p.addr + p.length ≤ f.base + f.bytes)
  | none => false

/-- Place a reply's payload at ADDR, in the reservation of its request. -/
def placeReply (d : Dev) (p : Packet) : Dev :=
  onAtt d fun a => { a with runs := a.runs.map fun e => (e.1, { e.2 with far := e.2.far.map fun f =>
    if f.tag = p.rh then { f with reply := writeSparse f.reply (p.addr - f.base) p.payload } else f }) }

def rxAttendReply (d : Dev) (q : Qp) (r : RxPkt) : Dev :=
  let p := r.p
  match openFor d p with
  | none => openFull d
  | some o =>
    let fits := replyFits d p
    let o := { o with key := p.rh, late := o.late || !fits }
    let d := if fits then placeReply d p else d
    placed (countIn d q o p (if p.aborted then failMark 0x29 else 0)) r 1

/-- ATTEND_REPLY (R161, R324). -/
def execAttendReply (s : State) : Host.Outcome State Fault Refusal :=
  rxRow s "ATTEND_REPLY" 8 fun d r => request d r dupAck rxAttendReply

/-! ### Responses (R323) -/

/-- A response packet through steps 2 to 7 and 9. -/
def response (d : Dev) (r : RxPkt) (effect : Dev → Qp → RxPkt → Dev) : Dev :=
  match accept d r with
  | (d, none) => d
  | (d, some q) => if malformed r.p then bump d .transportRxMalformed else effect d q r

/-- The record of an opcode that a response's PSN names. -/
def recFor (d : Dev) (n psn op : Nat) : Option (Rec × SendMsg) :=
  match recAt d n psn with
  | some r =>
    match msgById d r.msg with
    | some m => if m.op = op && !r.aborted && !r.answered.contains (seqSub psn r.psn) then some (r, m) else none
    | none => none
  | none => none

/-- A record all of whose PSNs are answered is freed. -/
def answerRec (d : Dev) (r : Rec) (k : Nat) : Dev :=
  let a := k :: r.answered
  if a.length ≥ r.n then roundCount (freeRec (notePassed d r) r) r.qpn 1 0
  else modRec d r.qpn r.psn fun x => { x with answered := a }

/-- What placing a response's data gives. -/
inductive RespRes where
  | ok
  | stall
  | held
deriving DecidableEq, Repr

/-- Place data at LOCAL + offset of a message (an engine's data goes back by its flit). -/
def respPlace (d : Dev) (q : Qp) (m : SendMsg) (psn off : Nat) (bs : List Byte) : Dev × RespRes :=
  match m.who with
  | .sq _ =>
    match holdOf d m.qpn (psn + w32) with
    | some h =>
      if h.aborted then (modMsg (dropHold d m.qpn (psn + w32)) m.id fun x => { x with cause := h.cause }, .ok)
      else (d, .held)
    | none =>
      match dvaWrite d .transport q.part (m.loc + off) bs false (.sent m.qpn m.id) with
      | (d, .ok _) => (d, .ok)
      | (d, .wait) => (d, .stall)
      | (d, .xfail pg c l f) => (holdRx d q m.qpn (psn + w32) .write pg c l f, .held)
      | (d, .mfail c) => (modMsg d m.id fun x => { x with cause := if x.cause = 0 then c else x.cause }, .ok)
  | _ => (modMsg d m.id fun x => { x with got := writeSparse x.got off bs }, .ok)

def rxReadResp (d : Dev) (q : Qp) (r : RxPkt) : Dev :=
  let p := r.p
  let n := p.destQpn
  match recFor d n p.psn 2 with
  | none => bump d .transportRxDuplicates
  | some (x, m) =>
    let k := seqSub p.psn x.psn
    if p.msgOffset ≠ x.off + 8192 * k ∨ p.length ≠ min 8192 (x.len - 8192 * k) then bump d .transportRxMalformed
    else
      match respPlace d q m p.psn p.msgOffset p.payload with
      | (d, .stall) => stallPkt d r
      | (d, .held) => modRec (uncharge d n x.charged) n x.psn fun y => { y with state := .heldWait, charged := 0 }
      | (d, .ok) =>
        let d := if x.answered.isEmpty then delaySample d n x.path (seqSub (now32 d) x.sentTs) none else d
        let back := min r.len x.charged
        let d := modRec (uncharge d n back) n x.psn fun y => { y with charged := y.charged - back }
        let d := roundCount d n 1 (bit (p.ecn == 3))
        match recAt d n x.psn with
        | some x => afterAck (answerRec d x k) n
        | none => afterAck d n

/-- READ_RESP (R323, R351, R352). -/
def execReadResp (s : State) : Host.Outcome State Fault Refusal :=
  rxRow s "READ_RESP" 3 fun d r => response d r rxReadResp

def rxAtomicResp (d : Dev) (q : Qp) (r : RxPkt) : Dev :=
  let p := r.p
  let n := p.destQpn
  match recFor d n p.psn 5 with
  | none => bump d .transportRxDuplicates
  | some (x, m) =>
    let old := cut p.ext 0 64
    match respPlace d q m p.psn 0 (toBytes 8 old) with
    | (d, .stall) => stallPkt d r
    | (d, .held) => modRec d n x.psn fun y => { y with state := .heldWait }
    | (d, .ok) => afterAck (answerRec (modMsg d m.id fun y => { y with old := old }) x 0) n

/-- ATOMIC_RESP (R323). -/
def execAtomicResp (s : State) : Host.Outcome State Fault Refusal :=
  rxRow s "ATOMIC_RESP" 6 fun d r => response d r rxAtomicResp

/-! ### ACK and NAK (R331, R303) -/

/-- Whether an acknowledgement reports a PSN. -/
def reports (ext psn : Nat) : Bool :=
  let i := seqSub psn (cut ext 32 32)
  seqLt psn (cut ext 0 32) || (decide (i < 64) && bitOf ext (64 + i))

/-- The common part of ACK and NAK: records acknowledged, the window's and the timer's samples. -/
def applyAck (d : Dev) (n : Nat) (p : Packet) : Dev :=
  let d := ((recsOf d n).filter fun r => reports p.ext r.psn).foldl ackRec d
  let s := seqSub (now32 d) (cut p.ext 128 32)
  let ece := cut p.ext 168 8
  roundCount (rttSample (delaySample d n (cut p.ext 160 6) s (some ece)) n s) n 0 ece

/-- ACK (R331, R345). -/
def execAck (s : State) : Host.Outcome State Fault Refusal :=
  rxRow s "ACK" 10 fun d r => response d r fun d _ r => afterAck (applyAck d r.p.destQpn r.p) r.p.destQpn

/-- The cause an accounted syndrome fails a message with (R303). -/
def syndCause (synd : Nat) : Nat := 0x20 + synd

/-- The refused PSN's record, by syndrome (R303). -/
def nakRec (d : Dev) (x : Rec) (m : SendMsg) (psn synd : Nat) : Dev :=
  let n := x.qpn
  if synd = 1 then modRec d n x.psn fun y => { y with state := .rnrWait }
  else if synd = 2 then modRec d n x.psn fun y => { y with state := .heldWait }
  else
    let d := modMsg d m.id fun y => { y with cause := if y.cause = 0 then syndCause synd else y.cause }
    if m.op = 2 ∧ synd = 5 then answerRec d x (seqSub psn x.psn)
    else roundCount (freeRec (notePassed d x) x) n 1 0

/-- NAK (R303, R331). -/
def execNak (s : State) : Host.Outcome State Fault Refusal :=
  rxRow s "NAK" 11 fun d r => response d r fun d _ r =>
    let n := r.p.destQpn
    let psn := cut r.p.ext 192 32
    let d := match recAt d n psn with
      | some x =>
        match msgById d x.msg with
        | some m => nakRec d x m psn (cut r.p.ext 176 8)
        | none => d
      | none => d
    afterAck (applyAck d n r.p) n

/-! ### Probes (R346 to R348) -/

/-- PROBE (R347): a packet that passes steps 1 to 7 is answered. -/
def execProbe (s : State) : Host.Outcome State Fault Refusal :=
  rxRow s "PROBE" 12 fun d r =>
    match accept d r with
    | (d, none) => d
    | (d, some q) =>
      let n := r.p.destQpn
      enqueueReady d n { basePacket d n q 13 with ext := packFields [(0, 32, cut r.p.ext 0 32), (32, 6, r.p.path), (64, 32, r.p.txTs)] }

/-- A probe reply brings its path up unless its port has no signal. -/
def probeBack (d : Dev) (q : Qp) (r : RxPkt) : Dev :=
  let n := r.p.destQpn
  let i := cut r.p.ext 32 6
  match liveOf d q.pathSet with
  | none => d
  | some l =>
    let x := l.descs.getD i 0
    if !pathValid d x || rd d .portsubLinkState (pathSub x) != 2 then d
    else
      let wasUp := (l.paths[i]?).any (·.up)
      let d := modLive d q.pathSet fun l => { l with paths := l.paths.zipIdx.map fun e => if e.2 = i then { e.1 with up := true, lastHeard := now32 d } else e.1 }
      let d := if wasUp then d else bump d .transportPathsRestored
      pathsLostCheck (delaySample d n i (seqSub (now32 d) (cut r.p.ext 64 32)) none) q.pathSet

/-- PROBE_REPLY (R348). -/
def execProbeReply (s : State) : Host.Outcome State Fault Refusal :=
  rxRow s "PROBE_REPLY" 13 fun d r => response d r probeBack

end Sys2Proof.Machine
end

