-- ==== Sys2Proof/Machine/Transmit.lean ====
section
/-!
DEFINITION. Topiary (R356 to R363): colours, gates, deficit round robin, and building and sealing the frame that goes
next (R297 to R304, R320); meter refill, path-set re-read (R342) and probes (R346).
-/
namespace Sys2Proof.Machine

/-! ### Meters (R357 to R359) -/

def counted (d : Dev) (p : TxPkt) : Nat := p.len + rd d .topiaryCfgOverhead

/-- The meter of a packet: its index over all ports; none when unmetered. -/
def meterOf (d : Dev) (p : TxPkt) : Option Nat :=
  let m := rd d .topiaryMeterMap ((p.sub * 64 + p.part) * 8 + p.cls)
  if m = 255 then none else some (p.sub / 4 * 255 + m)

/-- A bucket's size in bytes, at least the largest counted frame. -/
def bucketSize (d : Dev) (v : Nat) : Nat := max v (9216 + rd d .topiaryCfgOverhead)

def fullBuckets (d : Dev) (m : Nat) : Buckets :=
  { tc := bucketSize d (rd d .topiaryMeterCbs m) * 1024, tp := bucketSize d (rd d .topiaryMeterPbs m) * 1024 }

def bucketsOf (d : Dev) (m : Nat) : Buckets := (find? d.top.buckets m).getD (fullBuckets d m)

def setBuckets (d : Dev) (m : Nat) (b : Buckets) : Dev := onTop d fun t => { t with buckets := put t.buckets m b }

/-- A colour of RFC 2698. -/
inductive Colour where
  | green
  | yellow
  | red
deriving DecidableEq, Repr

def colourOf (d : Dev) (p : TxPkt) : Colour :=
  match meterOf d p with
  | none => .green
  | some m =>
    let b := bucketsOf d m
    let n := counted d p * 1024
    if b.tp < n then .red else if b.tc < n then .yellow else .green

/-- 8 ns of refill for every meter of a port that is not full. -/
def refillPort (d : Dev) (port : Nat) : Dev :=
  onTop d fun t => { t with buckets := t.buckets.map fun e =>
    if e.1 / 255 = port then
      let pir := rd d .topiaryMeterPir e.1
      let cir := min (rd d .topiaryMeterCir e.1) pir
      let full := fullBuckets d e.1
      (e.1, { tc := min full.tc (e.2.tc + cir * 1024 / 1000), tp := min full.tp (e.2.tp + pir * 1024 / 1000) })
    else e }

/-- METER_REFILL (R358). -/
def execMeterRefill (port : Nat) (s : State) : Host.Outcome State Fault Refusal :=
  act s "METER_REFILL" (decide (port < 8) && s.dev.boot.powered) (refillPort s.dev port)

/-! ### Gates (R362) -/

/-- The instant gate `c` closes when it is open now: the end of the last entry that leaves it open. -/
def gateCloses (d : Dev) (sub c : Nat) : Option Nat :=
  match find? d.port.gates sub with
  | none => none
  | some g => walk (g.entries + 1) g
where
  walk : Nat → GateRun → Option Nat
    | 0, _ => none
    | n + 1, g => let h := gateAdvance d sub g; if bitOf h.gates c then walk n h else some g.endAt

/-- The instant a pending list closes gate `c`, when it does. -/
def pendingCloses (d : Dev) (sub c : Nat) : Option Nat :=
  if isSet d .portsubGateCtrlPending sub && isSet d .portsubGateAdminEnable sub
      && !bitOf (gateEntry d sub (1 - rd d .portsubGateCtrlOperBank sub) 0) c
  then some (rd d .portsubGateStart sub) else none

/-- Whether the gates permit a frame now. -/
def gatePermits (d : Dev) (p : TxPkt) : Bool :=
  let fits := fun (o : Option Nat) => match o with
    | none => true
    | some t => decide (now d + (counted d p + subRate d p.sub - 1) / subRate d p.sub ≤ t)
  bitOf (openGates d p.sub) p.cls && fits (gateCloses d p.sub p.cls) && fits (pendingCloses d p.sub p.cls)

/-! ### Turns (R356, R360, R361) -/

/-- Whether a queued packet can be built now: a raw frame, or one of a running transport engine whose key is not exhausted, with an
engine for its partition. -/
def canBuild (d : Dev) (p : TxPkt) : Bool :=
  match p.body with
  | .raw _ _ _ _ _ => true
  | _ =>
    match qpAt d p.qpn with
    | some q => isSet d .transportCtrlEnable && !exhausted d q.txSlot && !(enginesOf d q.part).isEmpty && !waitsBehind d p.body
    | none => false
where
  /-- A request waits behind a held packet of its queue pair (R319). -/
  waitsBehind (d : Dev) : TxBody → Bool
    | .req n psn => d.tr.recs.any fun r => r.qpn = n && r.psn = psn && recBlocked d r
    | _ => false

/-- The first of a list that follows a number, else the first. -/
def afterNum (l : List Nat) (n : Nat) : List Nat := (l.filter fun x => decide (n < x)) ++ l.filter fun x => decide (x ≤ n)

def insertNat (x : Nat) : List Nat → List Nat
  | [] => [x]
  | y :: t => if x < y then x :: y :: t else if x = y then y :: t else y :: insertNat x t

def sortNat (l : List Nat) : List Nat := l.foldl (fun a x => insertNat x a) []

/-- The head frame of a partition's turn in a class: the first packet of the queue pair whose turn it is. -/
def turnHead (d : Dev) (sub c part : Nat) : Option TxPkt :=
  let mine := d.top.queue.filter fun p => p.sub = sub && p.cls = c && p.part = part && canBuild d p
  let order := afterNum (sortNat (mine.map (·.qpn))) (getD d.top.qpPtr ((sub * 8 + c) * 64 + part) (2 ^ 24))
  order.head?.bind fun n => mine.find? fun p => p.qpn = n

/-- The frame a class would send in a pass: the first partition in turn whose head counts. -/
def classFrame (d : Dev) (sub c : Nat) (yellow : Bool) : Option TxPkt :=
  let parts := sortNat ((d.top.queue.filter fun p => p.sub = sub && p.cls = c).map (·.part))
  (afterNum parts (getD d.top.partPtr (sub * 8 + c) 64)).findSome? fun part =>
    (turnHead d sub c part).filter fun p =>
      (match colourOf d p with
       | .green => true
       | .yellow => yellow
       | .red => false) && gatePermits d p

def quantumOf (d : Dev) (sub c : Nat) : Nat := max (rd d .topiaryQuantum (sub * 6 + (c - 2))) (9216 + rd d .topiaryCfgOverhead)

def drrOf (d : Dev) (sub : Nat) : Drr := getD d.top.drr sub {}

/-- The weighted group's loop (R361): the frame, and the deficits it leaves. -/
def drrLoop (d : Dev) (sub : Nat) (yellow : Bool) : Nat → Drr → Option TxPkt × Drr
  | 0, r => (none, r)
  | fuel + 1, r =>
    let order := (List.range 6).map fun k => 2 + (r.ptr - 2 + k) % 6
    match order.findSome? fun c => (classFrame d sub c yellow).map fun p => (c, p) with
    | none => (none, r)
    | some (c, p) =>
      let r := if c ≠ r.ptr ∨ ¬ r.inVisit then
          { r with ptr := c, inVisit := true, deficit := put r.deficit c (getD r.deficit c 0 + quantumOf d sub c) } else r
      let b := counted d p
      if b ≤ getD r.deficit c 0 then (some p, { r with deficit := put r.deficit c (getD r.deficit c 0 - b) })
      else drrLoop d sub yellow fuel { r with inVisit := false, ptr := 2 + (c - 1) % 6 }

/-- One pass (R360). -/
def onePass (d : Dev) (sub : Nat) (yellow : Bool) : Option TxPkt × Drr :=
  match (classFrame d sub 0 yellow).orElse fun _ => classFrame d sub 1 yellow with
  | some p => (some p, drrOf d sub)
  | none => drrLoop d sub yellow 16 (drrOf d sub)

/-- The frame that goes next and its pass's deficits. -/
def pick (d : Dev) (sub : Nat) : Option (TxPkt × Drr) :=
  match onePass d sub false with
  | (some p, r) => some (p, r)
  | (none, _) =>
    match onePass d sub true with
    | (some p, r) => some (p, r)
    | (none, _) => none

/-- Heads that wait red count once (R365). -/
def noteRed (d : Dev) (sub : Nat) : Dev :=
  let reds := d.top.queue.filter fun p => p.sub = sub && !p.red && turnHead d sub p.cls p.part == some p && colourOf d p == .red
  reds.foldl (fun d p =>
    let d := match meterOf d p with
      | some m => bump d .topiaryMeterRedHolds m
      | none => d
    onTop d fun t => { t with queue := t.queue.map fun x => if x = p then { x with red := true } else x }) d

/-! ### Building a frame (R297 to R304, R319, R320) -/

/-- The request packet of a record, its payload read. -/
def reqPacket (d : Dev) (n : Nat) (q : Qp) (m : SendMsg) (r : Rec) (pay : List Byte) : Packet :=
  let base := { basePacket d n q m.op with
    msg := m.msgNo.getD 0, psn := r.psn, rh := m.rh, fa := m.fa, retx := r.resent, last := r.ending,
    solicit := r.ending && m.solicit, msgOffset := r.off, total := if r.ending then m.len else 0,
    addr := if m.op = 4 ∨ m.op = 9 then m.addr else m.addr + r.off }
  if r.aborted then { base with last := true, aborted := true, total := r.off, length := 0 }
  else if m.op = 2 then
    let sp := readSpan r
    let off := r.off + 8192 * sp.1
    let last := r.ending && decide (off + sp.2 = m.len)
    { base with psn := seqAdd r.psn sp.1, addr := m.addr + off, msgOffset := off, ext := sp.2, last := last,
                solicit := last && m.solicit, total := if last then m.len else 0 }
  else if m.op = 5 then { base with atomicCode := m.code, ext := m.operand % 2 ^ 64 + (m.compare % 2 ^ 64) <<< 64 }
  else { base with payload := pay, length := pay.length, ext := m.ext }

/-- What building a queued packet gives: a packet, or a state in which the packet no longer stands to be sent. -/
inductive BuildRes where
  | ok (p : Packet)
  | not
deriving DecidableEq, Repr

def unqueue (d : Dev) (p : TxPkt) : Dev := onTop d fun t => { t with queue := t.queue.erase p }

/-- What the device finds where a packet's retransmission record lies. -/
inductive RecordRes where
  | ok
  | poison
  | lost
deriving DecidableEq, Repr

/-- A packet that is sent again needs its record, 32 bytes of the pool (R317, R510): in a poisoned line it is a poisoned source, and one lost
with its memory unit takes its queue pair to ERROR (R511). -/
def recordRead (d : Dev) (r : Rec) : Dev × RecordRes :=
  let a := rd d .transportRetxBase * 65536 + 32 * r.slot
  if neverSent r then (d, .ok)
  else if unitFailed d (place d a) then (d, .lost)
  else
    match dpaRead d 0x2000 a 32 with
    | (d, none, _) => (d, .ok)
    | (d, some _, _) => (d, .poison)

/-- Build a Clahim packet but for its seal. -/
def buildPkt (d : Dev) (p : TxPkt) : Dev × BuildRes :=
  match p.body, qpAt d p.qpn with
  | .ready _ x, some _ => (d, .ok x)
  | .req n psn, some q =>
    match d.tr.recs.find? fun r => r.qpn = n ∧ r.psn = psn with
    | none => (unqueue d p, .not)
    | some r =>
      match msgById d r.msg with
      | none => (unqueue d p, .not)
      | some m =>
        let loose := fun (d : Dev) => modRec (unqueue d p) n psn fun y => { y with state := .unplaced }
        if r.aborted then (d, .ok (reqPacket d n q m r []))
        else
          match recordRead d r with
          | (d, .lost) => (qpError d n 0x2B, .not)
          | (d, .poison) => (endAt (loose d) m r 0x60, .not)
          | (d, .ok) =>
            match msgPayload d q m r.off r.len with
            | (d, .ok bs) => (d, .ok (reqPacket d n q m r bs))
            | (d, .wait) => (stallSend d n m (some psn), .not)
            | (d, .xfail pg x l f) => (holdSend (loose d) n q m (some psn) pg x l f, .not)
            | (d, .mfail x) => (endAt (loose d) m r x, .not)
  | _, _ => (unqueue d p, .not)

/-- The frame a packet travels in (R297, R371). -/
def frameOf (d : Dev) (p : TxPkt) (x : Packet) : Dev × Frame :=
  let mac := fresh d
  let tag := if isSet d .portsubVlanTagEn p.sub then
      some (rd d .portsubVlanVid p.sub + cut (rd d .portsubVlanPcpMap p.sub) (3 * p.cls) 3 <<< 13) else none
  (mac.2, {
    dstMac := mac.1 % 2 ^ 48, srcMac := rd d .portsubMac p.sub, etherType := 0x86DD, tag := tag, length := p.len, fcsOk := true,
    fecCorrected := 0, fecUncorrectable := 0, fecSymbols := 0, body := .clahim x })

/-- Take a frame's tokens and count it. -/
def account (d : Dev) (p : TxPkt) (r : Drr) : Dev :=
  let b := counted d p
  let d := match meterOf d p with
    | none => d
    | some m =>
      let k := bucketsOf d m
      match colourOf d p with
      | .green => bump (setBuckets d m { tc := k.tc - b * 1024, tp := k.tp - b * 1024 }) .topiaryMeterGreen m
      | _ => bump (setBuckets d m { k with tp := k.tp - b * 1024 }) .topiaryMeterYellow m
  let i := p.sub * 8 + p.cls
  let d := bump (bump d .topiarySentBytes i b) .topiarySentFrames i
  let d := portCount (portCount d p.sub 0 1) p.sub 1 p.len
  let d := unqueue d p
  let empty := !d.top.queue.any fun x => x.sub = p.sub && x.cls = p.cls
  let r := if empty && decide (p.cls ≥ 2) then { r with deficit := del r.deficit p.cls } else r
  onTop d fun t => { t with
    drr := putD t.drr p.sub r {}, partPtr := put t.partPtr i p.part, qpPtr := put t.qpPtr (i * 64 + p.part) p.qpn }

/-- A request has left: its record's times and place in the order of sending, its message's first nonce. -/
def noteSent (d : Dev) (p : TxPkt) (nonce : Nat) : Dev :=
  match p.body with
  | .req n psn =>
    match d.tr.recs.find? fun r => r.qpn = n ∧ r.psn = psn with
    | none => d
    | some r =>
      let d := modRec d n psn fun y => { y with state := .sent, seq := d.tr.seqNo, sentAt := d.upNs, sentTs := now32 d, path := p.path, passed := 0 }
      let d := onTr d fun t => { t with seqNo := t.seqNo + 1 }
      let d := modMsg d r.msg fun m => { m with nonce := if m.nonce.isNone && r.off = 0 then some nonce else m.nonce }
      match msgById d r.msg with
      | some m =>
        match m.who with
        | .coll g _ =>
          if r.resent then
            match collRun? d g with
            | some c => bump (setCollRun d g { c with resent := c.resent + 1 }) .transportCollResent
            | none => bump d .transportCollResent
          else d
        | _ => d
      | none => d
  | .ready _ x => if x.opcode = 12 then bump d .transportProbesSent else d
  | .raw _ _ _ _ _ => d

/-- Seal and send a built packet; false when it could not be sealed. -/
def sendPkt (d : Dev) (p : TxPkt) (x : Packet) (r : Drr) : Dev × Bool :=
  match qpAt d p.qpn with
  | none => (unqueue d p, false)
  | some q =>
    match sealNext d q.part q.txSlot p.qpn q.txNonce q.eq with
    | (d, .absent c) => (setSticky (qpError d p.qpn c), false)
    | (d, .exhausted) => (d, false)
    | (d, .noEngine) => (d, false)
    | (d, .ok key salt nonce) =>
      let desc := ((liveOf d q.pathSet).map fun l => l.descs.getD p.path 0).getD 0
      let x := { x with
        udpSrc := pathSport desc, flowLabel := pathSport desc, path := p.path, dscp := rd d .topiaryDscp p.cls, nonce := nonce, txTs := now32 d,
        mark := { key := key, salt := salt, intact := true } }
      let d := modQp d p.qpn fun q => { q with txNonce := (nonce + 1) % 2 ^ 64 }
      let d := modLive d q.pathSet fun l => { l with owner := p.qpn }
      let d := noteSent (account d p r) p nonce
      let f := frameOf d p x
      (emit f.1 (.frame p.sub f.2), true)

/-- Send a raw frame and complete its descriptor (R384, R388). -/
def sendRaw (d : Dev) (p : TxPkt) (index tag : Nat) (bytes : List Byte) (ts cqe : Bool) (r : Drr) : Dev :=
  let d := portCount (account d p r) p.sub 15 1
  let f : Frame := {
    dstMac := fromBytes ((bytes.take 6).reverse), srcMac := fromBytes (((bytes.drop 6).take 6).reverse), etherType := fromBytes (((bytes.drop 12).take 2).reverse), tag := none,
    length := p.len, fcsOk := true, fecCorrected := 0, fecUncorrectable := 0, fecSymbols := 0, body := .raw bytes }
  let d := emit d (.frame p.sub f)
  let at_ := if ts then stamp d p.sub 0 else (0, d)
  if cqe then postCq at_.2 (rd d .portsubRawCfgCq p.sub) (entryOf 0x3A 0 0 p.sub [(8, tag), (0xC, index), (0x18, at_.1)]) else at_.2

/-- One transmit opportunity; a packet that falls away while it is built gives way to the next choice. -/
def opportunity (sub : Nat) : Nat → Dev → Dev
  | 0, d => d
  | fuel + 1, d =>
    match pick d sub with
    | none => d
    | some (p, r) =>
      match p.body with
      | .raw i tag bs ts cqe => sendRaw d p i tag bs ts cqe r
      | _ =>
        match buildPkt d p with
        | (d, .not) => opportunity sub fuel d
        | (d, .ok x) =>
          match sendPkt d p x r with
          | (d, true) => d
          | (d, false) => opportunity sub fuel d

/-- Whether a sub-port can send: its port enabled, its link up. -/
def subUp (d : Dev) (sub : Nat) : Bool := subExists d sub && isSet d .portCtrlEnable (sub / 4) && rd d .portsubLinkState sub == 2

def transmitEffect (d : Dev) (sub : Nat) : Dev :=
  let d := noteRed (pumpAll d) sub
  opportunity sub (d.top.queue.length + 1) d

/-- TRANSMIT_OPPORTUNITY (R356 to R362). -/
def execTransmitOpportunity (sub : Nat) (s : State) : Host.Outcome State Fault Refusal :=
  act s "TRANSMIT_OPPORTUNITY" (inRun s.dev && subUp s.dev sub) (transmitEffect s.dev sub)

/-! ### Path sets and probes (R342, R346) -/

def pathsetEffect (d : Dev) (set : Nat) : Dev :=
  let d := wr d .transportPathsetInvalSet 0 set
  match liveOf d set with
  | none => d
  | some l =>
    let r := readSet d set
    let d := r.1
    let was := fun (i : Nat) => pathValid d (l.descs.getD i 0)
    let gone := (List.range 64).filter fun i => !pathValid d (r.2.getD i 0)
    let d := gone.foldl (fun d i => pathDown d set i) d
    let d := modLive d set fun l => { l with
      descs := r.2,
      paths := l.paths.zipIdx.map fun e => if pathValid d (r.2.getD e.2 0) && !was e.2 then freshPath d (r.2.getD e.2 0) else e.1 }
    pathsLostCheck d set

/-- PATHSET_INVAL (R342). -/
def execPathsetInval (set : Nat) (s : State) : Host.Outcome State Fault Refusal :=
  drv s "PATHSET_INVAL" (decide (set < 65536)) (pathsetEffect s.dev set)

/-- Down paths of a set whose port has signal. -/
def probePaths (d : Dev) (l : LiveSet) : List Nat := (List.range 64).filter fun i =>
  let x := l.descs.getD i 0
  pathValid d x && !(l.paths[i]?).any (·.up) && rd d .portsubLinkState (pathSub x) == 2

def queueProbe (d : Dev) (n : Nat) (q : Qp) (sub path seq : Nat) : Dev :=
  let p := { basePacket d n q 12 with ext := seq % w32 }
  let cls := classOf d q 12
  if queueRoom d sub cls then
    onTop d fun t => { t with queue := t.queue ++
      [{ sub := sub, cls := cls, part := q.part, qpn := n, len := frameLen d sub 16 0, path := path, body := .ready n p }] }
  else d

def probeEffect (d : Dev) (l : LiveSet) (n : Nat) (q : Qp) : Dev :=
  let ps := probePaths d l
  let d := ps.zipIdx.foldl (fun d e => queueProbe d n q (pathSub (l.descs.getD e.1 0)) e.1 (l.probeSeq + e.2)) d
  modLive d l.set fun x => { x with owner := n, probeSeq := (x.probeSeq + ps.length) % w32 }

/-- PROBE_TIMER (R346). -/
def execProbeTimer (set : Nat) (s : State) : Host.Outcome State Fault Refusal :=
  act s "PROBE_TIMER"
    (inRun s.dev && isSet s.dev .transportCtrlEnable
      && (liveOf s.dev set).any fun l => (probeOwner s.dev l).isSome && !(probePaths s.dev l).isEmpty)
    (match liveOf s.dev set with
     | some l =>
       match probeOwner s.dev l with
       | some (n, q) => probeEffect s.dev l n q
       | none => s.dev
     | none => s.dev)

end Sys2Proof.Machine
end

