-- ==== Sys2Proof/Machine/Coll.lean ====
section
/-!
DEFINITION. The collective engine (R391 to R410): group commands, the collective queue, schedules, REDUCE packets, rounds,
repeats, signals, completion and failure.
-/
namespace Sys2Proof.Machine

/-! ### Groups (R391 to R393) -/

def collResult (d : Dev) (g op c : Nat) : Dev :=
  wr (wr (wr d .transportCollCmdGroup 0 g) .transportCollCmdOp 0 op) .transportCollCmdResult 0 c

/-- Whether the header and member words of a group descriptor break R392. -/
def groupBad (head : Nat) (members : List Nat) : Bool :=
  let n := cut head 0 8
  let rank := cut head 8 7
  cut head 22 10 != 0 || cut head 48 16 != 0 || head >>> 64 != 0 || decide (n < 2 ∨ n > 128 ∨ rank ≥ n) || cut head 32 16 == 0
    || members.zipIdx.any fun m => cut m.1 32 32 != 0 || (if m.2 = rank then cut m.1 0 24 != 0 else cut m.1 0 24 == 0)

/-- Whether a member's connection has a context of the partition; none while the context cannot be fetched yet. -/
def memberOk (d : Dev) (part qpn : Nat) : Dev × Option Bool :=
  match loadQp d qpn with
  | (d, .ok q) => (d, some (q.part == part))
  | (d, .wait) => (d, none)
  | (d, _) => (d, some false)

/-- Whether every member's is: or the first connection whose context must be waited for. -/
def membersOk (part : Nat) : List Nat → Dev → Dev × Except Nat Bool
  | [], d => (d, .ok true)
  | n :: t, d =>
    match if n = 0 then (d, some true) else memberOk d part n with
    | (d, none) => (d, .error n)
    | (d, some a) =>
      match membersOk part t d with
      | (d, .ok b) => (d, .ok (a && b))
      | r => r

/-- What GROUP_LOAD gives: its result, or the connection whose context it waits for. -/
def groupLoadGo (d : Dev) (g : Nat) : Dev × Except Nat Nat :=
  let addr := rd d .transportCollCmdAddr * 64
  if rd d .transportCollGroupState g ≠ 0 ∨ addr + 64 > hbmEnd then (d, .ok 0xDD)
  else
    match dpaRead d 0x2001 addr 64 with
    | (d, some _, _) => (d, .ok 0xDD)
    | (d, none, hb) =>
      let head := fromBytes hb
      let n := cut head 0 8
      if addr + 64 + 8 * n > hbmEnd then (d, .ok 0xDD)
      else
        match dpaRead d 0x2001 (addr + 64) (8 * n) with
        | (d, some _, _) => (d, .ok 0xDD)
        | (d, none, mb) =>
          let ms := (List.range n).map fun i => fromBytes ((mb.drop (8 * i)).take 8)
          let part := cut head 16 6
          if groupBad head ms then (d, .ok 0xDD)
          else
            match membersOk part (ms.map fun m => cut m 0 24) d with
            | (d, .error n) => (d, .error n)
            | (d, .ok false) => (d, .ok 0xDD)
            | (d, .ok true) =>
              let c : CollGroup := {
                part := part, rank := cut head 8 7, direct := bitOf head 15, timeoutMs := cut head 32 16,
                members := ms.map fun m => (cut m 0 24, cut m 24 8) }
              let d := onColl d fun x => { x with groups := put x.groups g c }
              (wr (wr (wr (wr d .transportCollGroupState g 1) .transportCollGroupPartition g part) .transportCollGroupRound g 0)
                .transportCollGroupLastCause g 0, .ok 0)

def groupLoadEffect (d : Dev) (g : Nat) : Dev :=
  if isSet d .transportCollCmdBusy then d
  else
    match groupLoadGo d g with
    | (d, .ok c) => collResult d g 1 c
    | (d, .error n) => awaitCtx (wr (wr (wr d .transportCollCmdBusy 0 1) .transportCollCmdGroup 0 g) .transportCollCmdOp 0 1) n (.group g)

/-- GROUP_LOAD (R391 to R393). -/
def execGroupLoad (group : Nat) (s : State) : Host.Outcome State Fault Refusal :=
  drv s "GROUP_LOAD" (decide (group < 256)) (groupLoadEffect s.dev group)

def groupUnloadEffect (d : Dev) (g : Nat) : Dev :=
  if isSet d .transportCollCmdBusy then d
  else if rd d .transportCollGroupState g = 2 then collResult d g 2 0xDD
  else
    let d := onColl d fun c => { c with groups := del c.groups g, waiting := c.waiting.filter (fun m => m.group ≠ g), level := del c.level g }
    let d := onTr d fun t => { t with openMsgs := t.openMsgs.filter fun o => !(o.op == 9 && o.key == g) }
    collResult (collShow (wr (wr (wr d .transportCollGroupState g 0) .transportCollGroupPartition g 0) .transportCollGroupRound g 0)) g 2 0

/-- GROUP_UNLOAD (R391, R393). -/
def execGroupUnload (group : Nat) (s : State) : Host.Outcome State Fault Refusal :=
  drv s "GROUP_UNLOAD" (decide (group < 256)) (groupUnloadEffect s.dev group)

/-! ### The queue (R394) -/

def collQueue (d : Dev) (p : Nat) : List (Nat × Desc) := getD d.coll.queue p []

def setCollQueue (d : Dev) (p : Nat) (l : List (Nat × Desc)) : Dev := onColl d fun c => { c with queue := putD c.queue p l [] }

/-- The log2 of a collective queue's size, within its range. -/
def collLog2 (d : Dev) (p : Nat) : Nat := clampTo 6 16 (rd d .transportCollQLog2 p)

/-- The queue is disabled with a cause, and its EQ is told. -/
def collQueueStop (d : Dev) (p c : Nat) : Dev :=
  let d := setSleep (wr (wr (wr d .transportCollQEnable p 0) .transportCollQState p 0) .transportCollQLastCause p c) (.coll p) none
  postEq d (rd d .transportCollQEq p) (entryOf 0x21 p c p [(0xC, 0xFF)])

/-- A descriptor that completes at once. -/
def collRefused (d : Dev) (p : Nat) (w : Desc) (c : Nat) : Dev := collPost d (collGroupOf w) { part := p, desc := w } c

/-- Descriptors of the reserved OP complete when they come to the head of their queue. -/
def collSkip (p : Nat) : List (Nat × Desc) → Dev → Dev
  | [], d => setCollQueue d p []
  | (h, w) :: t, d => if collOp w = 0 then collSkip p t (collRefused d p w 0xDD) else setCollQueue d p ((h, w) :: t)

/-- The collective queue as a queue of R242. -/
def collFetch (p : Nat) : Fetch where
  id := .coll p
  head d := rd d .transportCollQHead p
  setHead d h := wr (wr d .transportCollQHead p h) .transportCollQExpectedPhase p (phaseAt h (collLog2 d p))
  hint d := rd d .pwinCollDbIndex p
  log2 d := collLog2 d p
  read d h :=
    match dvaRead d collAgent p (rd d .transportCollQBase p * 4096 + h % 2 ^ collLog2 d p * 64) 64 true with
    | (d, .ok bs) => (d, .got (BitVec.ofNat 512 (fromBytes bs)))
    | (d, .xfail _ _ _ _) => (d, .bad 0xDC)
    | (d, .mfail c) => (d, .bad (collMemCause c))
    | (d, .wait) => (d, .wait)
  accept d h x := collSkip p (collQueue d p ++ [(h, x)]) d
  onBad d c := collQueueStop d p c
  running d := wr d .transportCollQState p 1
  parked d := wr d .transportCollQState p 2

def collOn (d : Dev) : Bool := inRun d && isSet d .transportCollCtrlEnable

/-- Fetch for an enabled queue of a partition that may run. -/
def collGo (d : Dev) (p w : Nat) : Dev :=
  if collOn d && isSet d .transportCollQEnable p && rd d .partStatusState p == 0 then fetchRun (collFetch p) 65537 w d else d

def collDbEffect (d : Dev) (win width val : Nat) : Dev :=
  let d := wake d .laurel
  if dbRefused width val 32 true then bump d .pwinDbDiscards win
  else collGo (wr d .pwinCollDbIndex win (cut val 0 32)) win 64

/-- COLL_DOORBELL (R394). -/
def execCollDoorbell (win width val : Nat) (s : State) : Host.Outcome State Fault Refusal :=
  drv s "COLL_DOORBELL" (decide (win < 64)) (collDbEffect s.dev win width val)

/-! ### Descriptors (R395, R396) -/

/-- Fields of a descriptor that are reserved or out of range whatever its group. -/
def collDescBad (w : Desc) : Bool :=
  fieldAt w 0 6 2 != 0 || fieldAt w 1 4 4 != 0 || (collRed w == 3 && collOp w != 3) || decide (collFmt w > 1) || fieldAt w 0x18 28 4 != 0
    || fieldAt w 0x30 0 128 != 0 || collRepeat w == 0 || collElems w == 0 || collElems w % 32 != 0
    || decide (collElems w > 268435424) || collSrc w % 64 != 0 || collDst w % 64 != 0
    || fieldAt w 0x20 29 2 != 0 || (fieldAt w 0x20 31 1 == 1 && decide (fieldAt w 0x20 24 5 > 23 ∨ fieldAt w 0x20 18 6 > 47 ∨ fieldAt w 0x20 0 18 > 0x2FFFF))

/-- Bytes of SRC and DST (R396). -/
def collSpans (w : Desc) (n : Nat) : Nat × Nat :=
  let s := collS w
  (if collOp w = 3 then s else n * s, if collOp w = 2 then s else n * s)

/-- Shapes and overlap of R396. -/
def collShapeBad (w : Desc) (g : CollGroup) : Bool :=
  let n := g.members.length
  let sp := collSpans w n
  let apart := decide (collSrc w + sp.1 ≤ collDst w ∨ collDst w + sp.2 ≤ collSrc w)
  let inPlace := if collOp w = 1 then collSrc w == collDst w else if collOp w = 3 then collSrc w == collDst w + g.rank * collS w else false
  !(apart || inPlace) || (g.direct && collOp w != 3 && decide (collS w > 1048576))

/-- The descriptor at the head of a queue, when it has the OP and need not wait for its group (R397). -/
def collHead (d : Dev) (p op : Nat) : Option Desc :=
  match collQueue d p with
  | [] => none
  | (_, w) :: _ =>
    let g := collGroupOf w
    let busy := rd d .transportCollGroupState g == 2 && rd d .transportCollGroupPartition g == p
    if collOn d && rd d .partStatusState p == 0 && collOp w == op && !(busy && !collDescBad w) && decide (d.coll.runs.length < 16)
    then some w else none

/-- Start the descriptor at the head, or complete it refused. -/
def collStart (d : Dev) (p : Nat) (w : Desc) : Dev :=
  let g := collGroupOf w
  let d := if collDescBad w then collRefused d p w 0xDD
    else
      match find? d.coll.groups g with
      | none => collRefused d p w 0xDB
      | some c =>
        if rd d .transportCollGroupState g = 3 then collRefused d p w 0xDB
        else if c.part ≠ p ∨ collShapeBad w c then collRefused d p w 0xDD
        else setCollRun (wr d .transportCollGroupState g 2) g { part := p, desc := w, round := rd d .transportCollGroupRound g }
  collSkip p ((collQueue d p).drop 1) d

def collRow (s : State) (name : String) (p op : Nat) : Host.Outcome State Fault Refusal :=
  act s name (collHead s.dev p op).isSome
    (match collHead s.dev p op with
     | some w => collStart s.dev p w
     | none => s.dev)

/-- ALL_REDUCE (R397, R398). -/
def execAllReduce (part : Nat) (s : State) : Host.Outcome State Fault Refusal := collRow s "ALL_REDUCE" part 1

/-- REDUCE_SCATTER (R397, R398). -/
def execReduceScatter (part : Nat) (s : State) : Host.Outcome State Fault Refusal := collRow s "REDUCE_SCATTER" part 2

/-- ALL_GATHER (R397, R398). -/
def execAllGather (part : Nat) (s : State) : Host.Outcome State Fault Refusal := collRow s "ALL_GATHER" part 3

/-! ### Arithmetic (R400) -/

/-- The FP32 values of a chunk's bytes. -/
def chunkIn (fmt n : Nat) (bs : List Byte) : List Nat :=
  (List.range n).map fun i => if fmt = 0 then fromBytes ((bs.drop (4 * i)).take 4) else fromBytes ((bs.drop (2 * i)).take 2) * 65536

/-- Elements in a number of bytes. -/
def elemsIn (fmt n : Nat) : Nat := if fmt = 0 then n / 4 else n / 2

/-- A chunk in its format, with the flags of rounding. -/
def chunkOut (fmt : Nat) (l : List Nat) : List Byte × Nat :=
  if fmt = 0 then (l.flatMap (toBytes 4), 0)
  else
    let r := l.map fun x => toBf16 .rne (decode32 x)
    (r.flatMap fun x => toBytes 2 x.1, r.foldl (fun a x => a ||| x.2) 0)

/-- One element combined (R400); with one NaN operand MAX and MIN have the result that Config.numberWins picks. -/
def combine1 (red a b : Nat) : Nat × Nat :=
  if red = 0 then fAdd a b
  else if isNan32 a != isNan32 b && !Config.numberWins red a b then (nan32, 0)
  else if red = 1 then (fMax (canon32 a) (canon32 b), 0)
  else (fMin (canon32 a) (canon32 b), 0)

def combine (red : Nat) (a b : List Nat) : List Nat × Nat :=
  let r := (a.zip b).map fun x => combine1 red x.1 x.2
  (r.map (·.1), r.foldl (fun f x => f ||| x.2) 0)

/-! ### Reading SRC and writing DST -/

/-- What one step of the engine gives: the state, a failure of the collective, or a wait. -/
inductive CollRes where
  | ok (d : Dev)
  | fail (cause : Nat)
  | wait (d : Dev)
deriving Repr

/-- Read `len` bytes of SRC. -/
def collRead (d : Dev) (r : CollRun) (dva len : Nat) : Dev × Except (Option Nat) (List Byte) :=
  match dvaRead d collAgent r.part dva len true with
  | (d, .ok bs) => (d, .ok bs)
  | (d, .xfail _ _ _ _) => (d, .error (some 0xDC))
  | (d, .mfail c) => (d, .error (some (collMemCause c)))
  | (d, .wait) => (d, .error none)

def collWrite (d : Dev) (r : CollRun) (dva : Nat) (bs : List Byte) : Dev × Option (Option Nat) :=
  match dvaWrite d collAgent r.part dva bs true (.coll (collGroupOf r.desc)) with
  | (d, .ok _) => (d, none)
  | (d, .xfail _ _ _ _) => (d, some (some 0xDC))
  | (d, .mfail c) => (d, some (some (collMemCause c)))
  | (d, .wait) => (d, some none)

/-- SRC's bytes for a chunk. -/
def srcChunk (w : Desc) (chunk : Nat) : Nat := if collOp w = 3 then collSrc w else collSrc w + chunk * collS w

/-! ### Sending contributions (R398, R402, R404) -/

/-- The extension of a REDUCE packet to a member. -/
def reduceExt (r : CollRun) (remote chunk : Nat) : Nat :=
  packFields [(0, 32, remote), (32, 32, r.round), (64, 32, chunk), (96, 2, collOp r.desc), (98, 2, collRed r.desc), (100, 4, collFmt r.desc)]

/-- Begin a message to a member under a record of its own (R402). One whose connection cannot carry it fails the collective. -/
def collSend (d : Dev) (g : Nat) (c : CollGroup) (to_ phase step chunk : Nat) (bytes : List Byte) (parts : Option (KMap (List Byte))) (space : Nat) :
    Dev :=
  match collRun? d g, c.members[to_]? with
  | some r, some (qpn, remote) =>
    let id := d.coll.nextRec
    let d := onColl d fun x => { x with nextRec := id + 1 }
    let x : CollRec := { id := id, round := r.round, phase := phase, step := step, chunk := chunk, member := to_, space := space }
    let d := setCollRun d g { r with recs := r.recs ++ [x] }
    let m : SendMsg := {
      id := 0, qpn := qpn, who := .coll g id, op := 9, addr := phase + 2 * step, len := collS r.desc,
      loc := srcChunk r.desc chunk, data := bytes, parts := parts, ext := reduceExt r remote chunk }
    match startOn d c.part qpn m with
    | (d, 0) => d
    | (d, _) => collFail d g 0xD8 to_
  | _, _ => d

/-- Give a message that is still arriving the bytes of one more of its packets. -/
def addPart (g id off : Nat) (bytes : List Byte) (m : SendMsg) : SendMsg :=
  if m.who = .coll g id then { m with parts := m.parts.map fun l => put l off bytes } else m

/-- Send on the bytes at an offset of a chunk: a message of the ring begins with the first of its bytes to be there, and each packet is
built as soon as its own are (R398). -/
def collStream (d : Dev) (g : Nat) (c : CollGroup) (phase step chunk off : Nat) (bytes : List Byte) (space : Nat) : Dev :=
  let next := (c.rank + 1) % c.members.length
  match collRun? d g with
  | none => d
  | some r =>
    match r.recs.find? fun x => x.member = next ∧ x.phase = phase ∧ x.step = step ∧ x.chunk = chunk with
    | none => collSend d g c next phase step chunk [] (some [(off, bytes)]) space
    | some x =>
      let d := setCollRun d g { r with recs := r.recs.map fun y => if y.id = x.id then { y with space := y.space + space } else y }
      onTr d fun t => { t with
        msgs := t.msgs.map (addPart g x.id off bytes)
        ctxWait := t.ctxWait.map fun u => match u.2 with
          | .message p m => (u.1, .message p (addPart g x.id off bytes m))
          | _ => u }

/-- What the schedule makes of a chunk received at a step: sent on, or not. -/
def forwards (c : CollGroup) (op phase step : Nat) : Bool :=
  let n := c.members.length
  !c.direct && (if phase = 0 then decide (step + 2 < n) || op == 1 else decide (step + 2 < n))

/-- Whether a message fits the schedule from its sender (R398, R399). -/
def fitsSchedule (c : CollGroup) (op phase step chunk from_ : Nat) : Bool :=
  let n := c.members.length
  if c.direct then step == 0 && (if phase = 0 then op != 3 && chunk == c.rank else op != 2 && chunk == from_)
  else
    let pred := (c.rank + n - 1) % n
    from_ == pred && decide (step + 2 ≤ n)
      && (if phase = 0 then op != 3 && chunk == (pred + 2 * n - 1 - step) % n else op != 2 && chunk == (pred + n - step) % n)

/-! ### Taking a contribution -/

/-- Note bytes of a chunk written and any flags. -/
def noteWritten (d : Dev) (g chunk n fl : Nat) : Dev :=
  match collRun? d g with
  | some r => setCollRun d g { r with written := put r.written chunk (getD r.written chunk 0 + n), flags := r.flags ||| fl }
  | none => d

/-- The members other than this device. -/
def others (c : CollGroup) : List Nat := (List.range c.members.length).filter (· ≠ c.rank)

/-- Bytes of a chunk received in the gather phase: written, and sent on when the schedule asks. -/
def takeGather (d : Dev) (g : Nat) (c : CollGroup) (r : CollRun) (m : CollMsg) : CollRes :=
  match collWrite d r (dstChunk r.desc m.chunk + m.off) m.bytes with
  | (d, some none) => .wait d
  | (_, some (some x)) => .fail x
  | (d, none) =>
    let d := noteWritten d g m.chunk m.bytes.length 0
    .ok (if forwards c m.op 1 m.step then collStream d g c 1 (m.step + 1) m.chunk m.off m.bytes m.space else collFree d g m.space)

/-- Bytes of a partial of the ring's reduce phase: combined with SRC, then sent on or written as the chunk's result. -/
def takeRing (d : Dev) (g : Nat) (c : CollGroup) (r : CollRun) (m : CollMsg) : CollRes :=
  let w := r.desc
  match collRead d r (srcChunk w m.chunk + m.off) m.bytes.length with
  | (d, .error none) => .wait d
  | (_, .error (some x)) => .fail x
  | (d, .ok own) =>
    let n := elemsIn (collFmt w) m.bytes.length
    let s := combine (collRed w) (chunkIn (collFmt w) n m.bytes) (chunkIn (collFmt w) n own)
    let out := chunkOut (collFmt w) s.1
    let fl := s.2 ||| out.2
    if m.step + 2 < c.members.length then
      .ok (collStream (setCollRun d g { r with flags := r.flags ||| fl }) g c 0 (m.step + 1) m.chunk m.off out.1 m.space)
    else
      match collWrite d r (dstChunk w m.chunk + m.off) out.1 with
      | (d, some none) => .wait d
      | (_, some (some x)) => .fail x
      | (d, none) =>
        let d := noteWritten d g m.chunk out.1.length fl
        .ok (if collOp w = 1 then collStream d g c 1 0 m.chunk m.off out.1 m.space else collFree d g m.space)

/-- The owner's running result, which begins with its own SRC chunk (R399). -/
def ownResult (d : Dev) (c : CollGroup) (r : CollRun) : Dev × Except (Option Nat) (List Nat) :=
  match r.acc with
  | some a => (d, .ok a)
  | none =>
    match collRead d r (srcChunk r.desc c.rank) (collS r.desc) with
    | (d, .ok bs) => (d, .ok (chunkIn (collFmt r.desc) (collElems r.desc) bs))
    | (d, .error e) => (d, .error e)

/-- Bytes of a contribution to the chunk this device owns under the direct schedule (R399). -/
def takeDirect (d : Dev) (g : Nat) (c : CollGroup) (r : CollRun) (m : CollMsg) : CollRes :=
  let w := r.desc
  match ownResult d c r with
  | (d, .error none) => .wait d
  | (_, .error (some x)) => .fail x
  | (d, .ok a) =>
    let n := elemsIn (collFmt w) m.bytes.length
    let k := elemsIn (collFmt w) m.off
    let s := combine (collRed w) ((a.drop k).take n) (chunkIn (collFmt w) n m.bytes)
    let a := a.take k ++ s.1 ++ a.drop (k + n)
    let r := { r with acc := some a, got := r.got + m.bytes.length, flags := r.flags ||| s.2 }
    if r.got < (c.members.length - 1) * collS w then .ok (collFree (setCollRun d g r) g m.space)
    else
      let out := chunkOut (collFmt w) a
      match collWrite d r (dstChunk w c.rank) out.1 with
      | (d, some none) => .wait d
      | (_, some (some x)) => .fail x
      | (d, none) =>
        let d := noteWritten (collFree (setCollRun d g r) g m.space) g c.rank out.1.length out.2
        .ok (if collOp w = 1 then (others c).foldl (fun d to_ => if (collRun? d g).isSome then collSend d g c to_ 1 0 c.rank out.1 none 0 else d) d else d)

/-- The copy of SRC that starts an ALL_GATHER. -/
def takeOwn (d : Dev) (g : Nat) (c : CollGroup) (r : CollRun) : CollRes :=
  match collRead d r (collSrc r.desc) (collS r.desc) with
  | (d, .error none) => .wait d
  | (_, .error (some x)) => .fail x
  | (d, .ok bs) =>
    match collWrite d r (dstChunk r.desc c.rank) bs with
    | (d, some none) => .wait d
    | (_, some (some x)) => .fail x
    | (d, none) => .ok (noteWritten d g c.rank bs.length 0)

/-- Whether a waiting packet breaks the fourth check of R404. -/
def disagrees (c : CollGroup) (r : CollRun) (m : CollMsg) : Bool :=
  m.op != collOp r.desc || (m.op != 3 && m.red != collRed r.desc) || m.fmt != collFmt r.desc || decide (m.off + m.bytes.length > collS r.desc)
    || m.total.any (· != collS r.desc) || !fitsSchedule c m.op m.phase m.step m.chunk m.from_

/-- Take one packet of a contribution of the current round. -/
def takeMsg (d : Dev) (g : Nat) (c : CollGroup) (r : CollRun) (m : CollMsg) : CollRes :=
  if m.from_ = c.rank then takeOwn d g c r
  else if m.aborted then .fail 0xDE
  else if disagrees c r m then .fail 0xDA
  else if m.phase = 1 then takeGather d g c r m
  else if c.direct then takeDirect d g c r m
  else takeRing d g c r m

/-- Whether a waiting packet is of the current round and may be taken: a phase-1 message of the direct schedule is written when it is
complete (R399). -/
def canTake (d : Dev) (g : Nat) (c : CollGroup) (r : CollRun) (m : CollMsg) : Bool :=
  m.group == g && r.active && m.round == r.round &&
    (!(c.direct && m.phase == 1) || m.from_ == c.rank || m.aborted || disagrees c r m ||
      decide (getD r.written m.chunk 0 + ((d.coll.waiting.filter fun x =>
        x.group = g && x.round = m.round && x.from_ = m.from_ && x.phase = 1).map fun x => x.bytes.length).sum ≥ collS r.desc))

/-- Take every waiting packet of the current round that can be taken now; an uncorrectable word of the contribution SRAM fails the
collective (R510). -/
def collPump : Nat → Dev → Nat → Dev
  | 0, d, _ => d
  | fuel + 1, d, g =>
    match find? d.coll.groups g, collRun? d g with
    | some c, some r =>
      match d.coll.waiting.find? (canTake d g c r) with
      | none => d
      | some m =>
        let d' := onColl d fun x => { x with waiting := x.waiting.erase m }
        if d.mem.sram.contains g then collFail (onMem d' fun x => { x with sram := x.sram.filter (· ≠ g) }) g 0xDE 0xFF
        else match takeMsg d' g c r m with
        | .ok d => collPump fuel d g
        | .fail x => collFail d' g x (if x = 0xDA ∨ m.aborted then m.from_ else 0xFF)
        | .wait x => onColl x fun c => { c with waiting := d.coll.waiting }
    | _, _ => d

def collPumpAll (d : Dev) : Dev := (d.coll.runs.map (·.1)).foldl (fun d g => collPump (d.coll.waiting.length + 1) d g) d

/-! ### REDUCE packets (R404) -/

/-- The parts of a REDUCE packet: group, round, chunk, OP, RED, FMT, phase, step. -/
structure ReduceHdr where
  group : Nat
  round : Nat
  chunk : Nat
  op : Nat
  red : Nat
  fmt : Nat
  phase : Nat
  step : Nat
deriving DecidableEq, Repr

def reduceHdr (p : Packet) : ReduceHdr where
  group := cut p.ext 0 8
  round := cut p.ext 32 32
  chunk := cut p.ext 64 32
  op := cut p.ext 96 2
  red := cut p.ext 98 2
  fmt := cut p.ext 100 4
  phase := cut p.addr 0 1
  step := cut p.addr 1 7

/-- Reserved bits of the extension and of ADDR. -/
def reduceReserved (p : Packet) : Bool := cut p.ext 8 24 != 0 || cut p.ext 104 24 != 0 || p.addr >>> 8 != 0

/-- The rank a packet's queue pair stands for in a group; none when the group does not list it. -/
def senderRank (c : CollGroup) (qpn : Nat) : Option Nat := (List.range c.members.length).find? fun i => (c.members.getD i (0, 0)).1 = qpn

/-- Whether a packet agrees with the running collective (R404, fourth check). -/
def reduceAgrees (c : CollGroup) (r : CollRun) (h : ReduceHdr) (from_ : Nat) (p : Packet) : Bool :=
  h.op == collOp r.desc && (h.op == 3 || h.red == collRed r.desc) && h.fmt == collFmt r.desc
    && fitsSchedule c h.op h.phase h.step h.chunk from_ && decide (p.msgOffset + p.length ≤ collS r.desc)
    && (!p.last || p.aborted || p.total == collS r.desc)

/-- Buffer bytes a packet of the current round needs: what will be sent on, or the owner's running result once. -/
def reduceNeed (c : CollGroup) (r : CollRun) (h : ReduceHdr) (p : Packet) : Nat :=
  if c.direct then (if h.phase = 0 && r.accSpace == 0 then 4 * collElems r.desc else 0)
  else if forwards c h.op h.phase h.step then p.length else 0

/-- Count a delivered packet into its message (R328); its bytes wait for the engine. -/
def reduceCount (d : Dev) (r : RxPkt) (h : ReduceHdr) (from_ space : Nat) : Dev :=
  let p := r.p
  match openFor d p with
  | none => d
  | some o =>
    let o := { o with key := h.group, count := o.count + p.length, total := if p.last then some p.total else o.total }
    let m : CollMsg := {
      group := h.group, round := h.round, phase := h.phase, step := h.step, chunk := h.chunk, from_ := from_, op := h.op, red := h.red,
      fmt := h.fmt, off := p.msgOffset, bytes := p.payload, total := if p.last then some p.total else none, space := space,
      aborted := p.aborted }
    let d := if o.total = some o.count then dropOpen d o.qpn o.msg else setOpen d o
    if o.failed ≠ 0 then collFree d h.group space else onColl d fun c => { c with waiting := c.waiting ++ [m] }

/-- Answer NAK RNR for want of buffer space or for a round not yet due. -/
def reduceRnr (d : Dev) (r : RxPkt) : Dev := nakFor (bump d .transportCollRnrSent) r 1

/-- Deliver a REDUCE packet that may be taken, holding `need` bytes. -/
def reduceTake (d : Dev) (r : RxPkt) (h : ReduceHdr) (from_ need : Nat) : Dev :=
  let d := if need = 0 then d else collTake d h.group need
  let d := placed (reduceCount d r h from_ need) r 1
  collPump (d.coll.waiting.length + 1) d h.group

def rxReduce (d : Dev) (q : Qp) (r : RxPkt) : Dev :=
  let p := r.p
  let h := reduceHdr p
  let invalid := fun (d : Dev) => refuse d q r 1 4 0x24
  if reduceReserved p then invalid d
  else
    match find? d.coll.groups h.group with
    | none => invalid d
    | some c =>
      match senderRank c p.destQpn with
      | none => invalid d
      | some from_ =>
        let count := rd d .transportCollGroupRound h.group
        if c.part ≠ q.part ∨ rd d .transportCollGroupState h.group = 3 then invalid d
        else
          match (collRun? d h.group).filter fun x => x.active && x.round == h.round with
          | some x =>
            if !reduceAgrees c x h from_ p then collFail (invalid d) h.group 0xDA from_
            else
              let need := reduceNeed c x h p
              if need ≠ 0 ∧ ¬ collRoom d h.group need then reduceRnr d r
              else if (openFor d p).isNone then openFull d
              else if c.direct && h.phase == 0 && x.accSpace == 0 then
                let d := setCollRun (collTake d h.group need) h.group { x with accSpace := need }
                reduceTake d r h from_ 0
              else reduceTake d r h from_ need
          | none =>
            if h.round ≠ count ∨ ¬ collRoom d h.group p.length then reduceRnr d r
            else if (openFor d p).isNone then openFull d
            else reduceTake d r h from_ p.length

/-- REDUCE (R321, R404). -/
def execReduce (s : State) : Host.Outcome State Fault Refusal :=
  rxRow s "REDUCE" 9 fun d r => request d r dupAck rxReduce

/-! ### Rounds and repeats (R397, R408) -/

/-- Whether a run's wait is met for its next repeat (R397, R115). -/
def collWaitMet (d : Dev) (r : CollRun) : Bool :=
  fieldAt r.desc 0x20 31 1 == 0 ||
    match waitRef d r.part (BitVec.ofNat 512 (fieldAt r.desc 0x20 0 32 <<< 64)) with
    | none => false
    | some a =>
      match tokenSeen d a with
      | none => false
      | some v => headerMet v (collWaitValue r.desc + r.rep)

/-- The first sends of a round. -/
def collFirstSends (d : Dev) (g : Nat) (c : CollGroup) (w : Desc) : Dev :=
  let n := c.members.length
  let go := fun (d : Dev) (to_ phase chunk : Nat) => if (collRun? d g).isSome then collSend d g c to_ phase 0 chunk [] none 0 else d
  if c.direct then
    (others c).foldl (fun d to_ => if collOp w = 3 then go d to_ 1 c.rank else go d to_ 0 to_) d
  else if collOp w = 3 then go d ((c.rank + 1) % n) 1 c.rank
  else go d ((c.rank + 1) % n) 0 ((c.rank + n - 1) % n)

def repeatReady (d : Dev) (g : Nat) : Option (CollGroup × CollRun) :=
  match find? d.coll.groups g, collRun? d g with
  | some c, some r => if collOn d && !r.active && collWaitMet d r && rd d .partStatusState r.part == 0 then some (c, r) else none
  | _, _ => none

def repeatEffect (d : Dev) (g : Nat) (c : CollGroup) (r : CollRun) : Dev :=
  let round := rd d .transportCollGroupRound g
  let r := { r with
    round := round, active := true, startNs := some (r.startNs.getD d.upNs), roundNs := d.upNs, written := [], acc := none, got := 0 }
  let d := bump (wr (setCollRun d g r) .transportCollGroupRound g (round + 1)) .transportCollStarted
  let own : CollMsg := {
    group := g, round := round, phase := 1, step := 0, chunk := c.rank, from_ := c.rank, op := 3, red := 0, fmt := 0, off := 0,
    bytes := [], space := 0 }
  let d := if collOp r.desc = 3 then onColl d fun x => { x with waiting := own :: x.waiting } else d
  let d := collFirstSends d g c r.desc
  collPump (d.coll.waiting.length + 1) d g

/-- COLLECTIVE_REPEAT_START (R397). -/
def execCollectiveRepeatStart (group : Nat) (s : State) : Host.Outcome State Fault Refusal :=
  act s "COLLECTIVE_REPEAT_START" (repeatReady s.dev group).isSome
    (match repeatReady s.dev group with
     | some (c, r) => repeatEffect s.dev group c r
     | none => s.dev)

/-- Whether a round is complete: every chunk of DST written, every record acknowledged. -/
def roundDone (c : CollGroup) (r : CollRun) : Bool :=
  r.active && r.recs.isEmpty && (dstChunks c r.desc).all fun k => decide (getD r.written k 0 ≥ collS r.desc)

def roundReady (d : Dev) (g : Nat) : Option (CollGroup × CollRun) :=
  match find? d.coll.groups g, collRun? d g with
  | some c, some r => if collOn d && roundDone c r then some (c, r) else none
  | _, _ => none

/-- Signal a repeat's end (R117, R408): an ADD at SIGNAL_FA; the collective's status does not tell of one that fails. -/
def collSignalGo (d : Dev) (r : CollRun) : Dev :=
  let fa := collSignal r.desc
  if collAdd r.desc = 0 then d
  else if fa >>> 48 = rd d .meshNodeId then (localAdd d 0x2001 r.part (fa % 2 ^ 48) (collAdd r.desc)).1
  else
    (startInternal d r.part (fa >>> 48)
      { id := 0, qpn := 0, who := .engine (.flit 0x2001 0), op := 5, fa := true, addr := fa % 2 ^ 48, operand := collAdd r.desc,
        src := 0x2001 }).1

def roundEnd (d : Dev) (g : Nat) (r : CollRun) : Dev :=
  let d := collSignalGo (collFree d g r.accSpace) r
  let r := { r with rep := r.rep + 1, active := false, acc := none, accSpace := 0 }
  let d := setCollRun d g r
  if r.rep < collRepeat r.desc then d else collEnd (wr d .transportCollGroupState g 1) g r 0

/-- COLLECTIVE_SIGNAL (R408). -/
def execCollectiveSignal (group : Nat) (s : State) : Host.Outcome State Fault Refusal :=
  act s "COLLECTIVE_SIGNAL" (roundReady s.dev group).isSome
    (match roundReady s.dev group with
     | some (_, r) => roundEnd s.dev group r
     | none => s.dev)

/-- COLLECTIVE_ROUND_TIMEOUT (R406, R407). -/
def execCollectiveRoundTimeout (group : Nat) (s : State) : Host.Outcome State Fault Refusal :=
  act s "COLLECTIVE_ROUND_TIMEOUT"
    ((collRun? s.dev group).any fun r => r.active && (roundReady s.dev group).isNone)
    (collFail s.dev group 0xD9 0xFF)

end Sys2Proof.Machine
end

