-- ==== Sys2Proof/Machine/Graph.lean ====
section
/-!
DEFINITION. Step graphs: fields and checks (R111, R124), issue (R121, R122, R125), completion (R126).
-/
namespace Sys2Proof.Machine

/-- The fields of a step-graph work item (R111). -/
structure GraphWi where
  graph : Nat
  patch : Nat
  values : Nat
  first : Nat
  count : Nat
  items : Nat
  mark : Bool
  patches : Nat
deriving DecidableEq, Repr

def graphWi (w : Desc) : GraphWi where
  graph := fieldAt w 0x18 0 64
  patch := fieldAt w 0x20 0 64
  values := fieldAt w 0x28 0 64
  first := fieldAt w 0x30 0 32
  count := fieldAt w 0x34 0 32
  items := fieldAt w 0x38 0 16
  mark := fieldAt w 0x3A 0 1 == 1
  patches := fieldAt w 0x3C 0 32

def graphBad (x : GraphWi) : Bool :=
  x.count == 0 || x.items == 0 || decide (x.patches > 1048576) || x.graph % 64 != 0 || x.patch % 16 != 0 || x.values % 8 != 0

/-- Read the patch table's entries. -/
def readPatches (ag : Agent) (part a : Nat) : Nat → Dev → Dev × Except Nat (List Nat)
  | 0, d => (d, .ok [])
  | n + 1, d =>
    match dvaRead d ag part a 16 true with
    | (d, .ok bs) =>
      match readPatches ag part (a + 16) n d with
      | (d, .ok l) => (d, .ok (fromBytes bs :: l))
      | r => r
    | (d, .xfail _ _ _ _) => (d, .error 0x4D)
    | (d, .mfail c) => (d, .error c)
    | (d, .wait) => (d, .error 0)

def ascending : List Nat → Bool
  | a :: b :: t => decide (patchItem a ≤ patchItem b) && ascending (b :: t)
  | _ => true

/-- Begin a replay: fields, the whole patch table (R124). -/
def graphStart (d : Dev) (it : Item) : Dev :=
  let x := graphWi it.wi
  if graphBad x then finish d it 0x50
  else
    match readPatches (rowAgent (homeRow d it.ring)) it.part x.patch x.patches d with
    | (d, .error 0) => modItem d it.uid fun y => { y with phase := .placed, patched := false }
    | (d, .error c) => finish d it c
    | (d, .ok ps) =>
      if ps.any (patchBad x.items) || !ascending ps then finish d it 0x50
      else onDisp d fun s => { s with graphs := s.graphs ++ [{ uid := it.uid, patches := ps }] }

/-- STEP_GRAPH (R111, R124). -/
def execStepGraph (uid : Nat) (s : State) : Host.Outcome State Fault Refusal :=
  act s "STEP_GRAPH" (homeStartable s.dev uid 7).isSome
    (match homeStartable s.dev uid 7 with
     | some it => startWith s.dev it graphStart
     | none => s.dev)

def graphRunOf (d : Dev) (uid : Nat) : Option GraphRun := d.disp.graphs.find? fun r => r.uid = uid

def modGraph (d : Dev) (uid : Nat) (f : GraphRun → GraphRun) : Dev :=
  onDisp d fun s => { s with graphs := s.graphs.map fun r => if r.uid = uid then f r else r }

/-- A replay issues no more: its image, its patch table or its value area could not be read. A stopped ring does not end it,
since a running work item completes normally (R127). -/
def graphStopped (r : GraphRun) : Bool := r.cause != 0

/-- The image, or a value an early patch needs, cannot be read: the ring stops with the cause (R88), and the step-graph item
ends with it once the copies issued have completed. -/
def graphFail (d : Dev) (it : Item) (c : Nat) : Dev := ringStop (modGraph d it.uid fun r => { r with cause := c }) it.ring c

/-- The oldest incomplete step of a replay, counted from its first. -/
def oldestOpen (first : Nat) (r : GraphRun) : Option Nat := (r.open_.map fun e => (e.1 + 2 ^ 32 - first) % 2 ^ 32).min?

/-- Whether the next step may begin (R121). DESIGN CHOICE: a STEP_AHEAD outside 1 to 4 is used as the nearer end (R89, log 123). -/
def stepAllowed (d : Dev) (x : GraphWi) (r : GraphRun) : Bool :=
  match oldestOpen x.first r with
  | none => true
  | some o => decide (r.step ≤ o + clampTo 1 4 (rd d .dispatchStepAhead))

/-- Issue a copy of an image item with its early patches applied; false when it must stay first in line. A copy with late
patches is checked in full after them (R124); DEDUCED: at issue only what its placement needs is checked (log 118). A
step-graph item in an image is itself rejected (R122). -/
def issueCopy (d : Dev) (it : Item) (r : GraphRun) (n : Nat) (w : Desc) : Dev × Bool :=
  let u := d.disp.nextUid
  let c : Item := { uid := u, ring := it.ring, part := it.part, index := r.next, graph := some it.uid, step := n, wi := w }
  let d := modGraph (newItem d c) it.uid fun r => { r with open_ := put r.open_ n (getD r.open_ n 0 + 1) }
  let late := r.patches.any fun p => patchItem p == r.next && !patchEarly p
  forwardBy (if wiType w = 7 then 0x50 else if late then issueCause d it.part w else dispatchCause d it.part w) d { c with uid := u }

/-- Issue the image's items from the next one on, until one must wait. -/
def issueItems : Nat → Dev → Nat → Dev
  | 0, d, _ => d
  | fuel + 1, d, uid =>
    match itemOf d uid, graphRunOf d uid with
    | some it, some r =>
      let x := graphWi it.wi
      if r.next ≥ x.items then modGraph d uid fun r => { r with step := r.step + 1, next := 0, begun := false }
      else if graphStopped r then d
      else
        match dvaRead d (rowAgent (homeRow d it.ring)) it.part (x.graph + 64 * r.next) 64 true with
        | (d, .wait) => d
        | (d, .xfail _ _ _ _) => graphFail d it 0x4D
        | (d, .mfail c) => graphFail d it c
        | (d, .ok bs) =>
          let n := (x.first + r.step) % 2 ^ 32
          let ps := r.patches.filter fun p => patchItem p == r.next && patchEarly p
          let w := BitVec.ofNat 512 (fromBytes bs)
          match applyPatches (rowAgent (homeRow d it.ring)) it.part x.values n w ps w d with
          | (d, .wait) => d
          | (d, .bad c) => graphFail d it c
          | (d, .ok w) =>
            match issueCopy d it r n w with
            | (d', true) => issueItems fuel (modGraph d' uid fun r => { r with next := r.next + 1 }) uid
            | (_, false) => d
    | _, _ => d

/-- A replay that may issue. -/
def issueReady (d : Dev) (uid : Nat) : Option (Item × GraphRun) :=
  match itemOf d uid, graphRunOf d uid with
  | some it, some r =>
    let x := graphWi it.wi
    if it.phase = .started && inRun d && isSet d .dispatchCtrlEnable && (mayFetch d it.part || (decide (r.next > 0) && rd d .partStatusState it.part == 1)) && !graphStopped r && decide (r.step < x.count)
        && (decide (r.next > 0) || stepAllowed d x r) then some (it, r) else none
  | _, _ => none

/-- Go on with the issue of a step. DESIGN CHOICE: with STEP_MARK a step boundary passes when the issue of the next step
begins, it marks every tile of the partition, and none follows the last step (R129, log 119). -/
def issueStep (d : Dev) (it : Item) (r : GraphRun) : Dev :=
  let x := graphWi it.wi
  let d := modItem d it.uid fun y => { y with step := (x.first + r.step) % 2 ^ 32 }
  let d := if !r.begun && r.step > 0 && x.mark then (tilesOf d it.part).foldl journalMark d else d
  issueItems (x.items + 1) (modGraph d it.uid fun r => { r with begun := true }) it.uid

/-- STEP_ISSUE (R121, R122, R125). -/
def execStepIssue (uid : Nat) (s : State) : Host.Outcome State Fault Refusal :=
  act s "STEP_ISSUE" (issueReady s.dev uid).isSome
    (match issueReady s.dev uid with
     | some (it, r) => issueStep s.dev it r
     | none => s.dev)

/-- Whether a replay has ended, and with what. -/
def graphEnded (d : Dev) (uid : Nat) : Option (Item × Nat) :=
  match itemOf d uid, graphRunOf d uid with
  | some it, some r =>
    if r.open_.isEmpty && decide (r.step ≥ (graphWi it.wi).count) then some (it, 0)
    else if r.open_.isEmpty && graphStopped r then some (it, r.cause)
    else none
  | _, _ => none

/-- STEP_GRAPH_COMPLETE (R126). -/
def execStepGraphComplete (uid : Nat) (s : State) : Host.Outcome State Fault Refusal :=
  act s "STEP_GRAPH_COMPLETE" (inRun s.dev && (graphEnded s.dev uid).isSome)
    (match graphEnded s.dev uid with
     | some (it, c) => finishFree s.dev it 0 c
     | none => s.dev)

end Sys2Proof.Machine
end

