-- ==== Sys2Proof/Machine/Crypto.lean ====
section
/-!
DEFINITION. The algorithms the spec names by their standards: SHA-384 (R466, R468), ECDSA on brainpoolP384r1 (R435, R462),
and AES-256 key wrap with padding, RFC 5649 (R433). PRESUMED: FIPS 180-4, FIPS 197, RFC 3394, RFC 5639, RFC 5649 (assumption
log 13).
-/
namespace Sys2Proof.Machine

/-! ### Octet strings -/

/-- The big-endian integer of a list of octets. -/
def beNat (l : List Nat) : Nat := l.foldl (fun a b => a * 256 + b) 0

/-- `n` octets of a number, highest first. -/
def beBytes (n x : Nat) : List Nat := (List.range n).map fun i => cut x (8 * (n - 1 - i)) 8

/-- Octets `off` to `off + n - 1` of a number whose octet 0 is its lowest, as a big-endian integer. -/
def beCut (x off n : Nat) : Nat := beNat ((List.range n).map fun i => cut x (8 * (off + i)) 8)

/-- A number whose octet 0 is its lowest, from octets. -/
def leNat (l : List Nat) : Nat := l.foldr (fun b a => b + 256 * a) 0

/-! ### SHA-384 -/

/-- Round constants 0 to 9 of SHA-512. -/
def shaK0 : List Nat := [
  0x428A2F98D728AE22, 0x7137449123EF65CD, 0xB5C0FBCFEC4D3B2F, 0xE9B5DBA58189DBBC, 0x3956C25BF348B538,
  0x59F111F1B605D019, 0x923F82A4AF194F9B, 0xAB1C5ED5DA6D8118, 0xD807AA98A3030242, 0x12835B0145706FBE]

/-- Round constants 10 to 19 of SHA-512. -/
def shaK1 : List Nat := [
  0x243185BE4EE4B28C, 0x550C7DC3D5FFB4E2, 0x72BE5D74F27B896F, 0x80DEB1FE3B1696B1, 0x9BDC06A725C71235,
  0xC19BF174CF692694, 0xE49B69C19EF14AD2, 0xEFBE4786384F25E3, 0x0FC19DC68B8CD5B5, 0x240CA1CC77AC9C65]

/-- Round constants 20 to 29 of SHA-512. -/
def shaK2 : List Nat := [
  0x2DE92C6F592B0275, 0x4A7484AA6EA6E483, 0x5CB0A9DCBD41FBD4, 0x76F988DA831153B5, 0x983E5152EE66DFAB,
  0xA831C66D2DB43210, 0xB00327C898FB213F, 0xBF597FC7BEEF0EE4, 0xC6E00BF33DA88FC2, 0xD5A79147930AA725]

/-- Round constants 30 to 39 of SHA-512. -/
def shaK3 : List Nat := [
  0x06CA6351E003826F, 0x142929670A0E6E70, 0x27B70A8546D22FFC, 0x2E1B21385C26C926, 0x4D2C6DFC5AC42AED,
  0x53380D139D95B3DF, 0x650A73548BAF63DE, 0x766A0ABB3C77B2A8, 0x81C2C92E47EDAEE6, 0x92722C851482353B]

/-- Round constants 40 to 49 of SHA-512. -/
def shaK4 : List Nat := [
  0xA2BFE8A14CF10364, 0xA81A664BBC423001, 0xC24B8B70D0F89791, 0xC76C51A30654BE30, 0xD192E819D6EF5218,
  0xD69906245565A910, 0xF40E35855771202A, 0x106AA07032BBD1B8, 0x19A4C116B8D2D0C8, 0x1E376C085141AB53]

/-- Round constants 50 to 59 of SHA-512. -/
def shaK5 : List Nat := [
  0x2748774CDF8EEB99, 0x34B0BCB5E19B48A8, 0x391C0CB3C5C95A63, 0x4ED8AA4AE3418ACB, 0x5B9CCA4F7763E373,
  0x682E6FF3D6B2B8A3, 0x748F82EE5DEFB2FC, 0x78A5636F43172F60, 0x84C87814A1F0AB72, 0x8CC702081A6439EC]

/-- Round constants 60 to 69 of SHA-512. -/
def shaK6 : List Nat := [
  0x90BEFFFA23631E28, 0xA4506CEBDE82BDE9, 0xBEF9A3F7B2C67915, 0xC67178F2E372532B, 0xCA273ECEEA26619C,
  0xD186B8C721C0C207, 0xEADA7DD6CDE0EB1E, 0xF57D4F7FEE6ED178, 0x06F067AA72176FBA, 0x0A637DC5A2C898A6]

/-- Round constants 70 to 79 of SHA-512. -/
def shaK7 : List Nat := [
  0x113F9804BEF90DAE, 0x1B710B35131C471B, 0x28DB77F523047D84, 0x32CAAB7B40C72493, 0x3C9EBE0A15C9BEBC,
  0x431D67C49C100D4C, 0x4CC5D4BECB3E42B6, 0x597F299CFC657E2A, 0x5FCB6FAB3AD6FAEC, 0x6C44198C4A475817]

def shaK : List Nat := shaK0 ++ shaK1 ++ shaK2 ++ shaK3 ++ shaK4 ++ shaK5 ++ shaK6 ++ shaK7

/-- The working variables. -/
structure ShaVars where
  a : Nat
  b : Nat
  c : Nat
  d : Nat
  e : Nat
  f : Nat
  g : Nat
  h : Nat
deriving DecidableEq, Repr

/-- The initial hash value. -/
def shaInit : ShaVars where
  a := 0xCBBB9D5DC1059ED8
  b := 0x629A292A367CD507
  c := 0x9159015A3070DD17
  d := 0x152FECD8F70E5939
  e := 0x67332667FFC00B31
  f := 0x8EB44A8768581511
  g := 0xDB0C2E0D64F98FA7
  h := 0x47B5481DBEFA4FA4

def rotr64 (x n : Nat) : Nat := x >>> n ||| (x % 2 ^ n) <<< (64 - n)

def shaSig0 (x : Nat) : Nat := rotr64 x 1 ^^^ rotr64 x 8 ^^^ x >>> 7
def shaSig1 (x : Nat) : Nat := rotr64 x 19 ^^^ rotr64 x 61 ^^^ x >>> 6

/-- One round with its constant and its schedule word. -/
def shaRound (v : ShaVars) (k w : Nat) : ShaVars :=
  let ch := (v.e &&& v.f) ^^^ ((v.e ^^^ (2 ^ 64 - 1)) &&& v.g)
  let t1 := v.h + (rotr64 v.e 14 ^^^ rotr64 v.e 18 ^^^ rotr64 v.e 41) + ch + k + w
  let maj := (v.a &&& v.b) ^^^ (v.a &&& v.c) ^^^ (v.b &&& v.c)
  let t2 := (rotr64 v.a 28 ^^^ rotr64 v.a 34 ^^^ rotr64 v.a 39) + maj
  { a := (t1 + t2) % 2 ^ 64, b := v.a, c := v.b, d := v.c, e := (v.d + t1) % 2 ^ 64, f := v.e, g := v.f, h := v.g }

/-- The rounds left, with a window of the next sixteen schedule words. -/
def shaRounds : List Nat → List Nat → ShaVars → ShaVars
  | [], _, v => v
  | k :: ks, win, v =>
    let next := (shaSig1 (win.getD 14 0) + win.getD 9 0 + shaSig0 (win.getD 1 0) + win.getD 0 0) % 2 ^ 64
    shaRounds ks (win.drop 1 ++ [next]) (shaRound v k (win.getD 0 0))

/-- One 128-octet block. -/
def shaBlock (v : ShaVars) (block : List Nat) : ShaVars :=
  let u := shaRounds shaK ((List.range 16).map fun i => beNat ((block.drop (8 * i)).take 8)) v
  { a := (v.a + u.a) % 2 ^ 64, b := (v.b + u.b) % 2 ^ 64, c := (v.c + u.c) % 2 ^ 64, d := (v.d + u.d) % 2 ^ 64,
    e := (v.e + u.e) % 2 ^ 64, f := (v.f + u.f) % 2 ^ 64, g := (v.g + u.g) % 2 ^ 64, h := (v.h + u.h) % 2 ^ 64 }

/-- `n` blocks of a padded message. -/
def shaBlocks : Nat → List Nat → ShaVars → ShaVars
  | 0, _, v => v
  | n + 1, l, v => shaBlocks n (l.drop 128) (shaBlock v (l.take 128))

/-- SHA-384 of a byte string: 48 octets as a number, octet 0 lowest. -/
def sha384 (bs : List Byte) : Nat :=
  let n := bs.length
  let pad := (128 - (n + 17) % 128) % 128
  let l := bs.map (·.toNat) ++ [0x80] ++ List.replicate pad 0 ++ beBytes 16 (8 * n)
  let v := shaBlocks (l.length / 128) l shaInit
  leNat ([v.a, v.b, v.c, v.d, v.e, v.f].flatMap (beBytes 8))

/-! ### brainpoolP384r1 -/

def bpP : Nat := 0x8CB91E82A3386D280F5D6F7E50E641DF152F7109ED5456B412B1DA197FB71123ACD3A729901D1A71874700133107EC53
def bpA : Nat := 0x7BC382C63D8C150C3C72080ACE05AFA0C2BEA28E4FB22787139165EFBA91F90F8AA5814A503AD4EB04A8C7DD22CE2826
def bpB : Nat := 0x04A8C7DD22CE28268B39B55416F0447C2FB77DE107DCD2A62E880EA53EEB62D57CB4390295DBC9943AB78696FA504C11
def bpGx : Nat := 0x1D1C64F068CF45FFA2A63A81B7C13F6B8847A3E77EF14FE3DB7FCAFE0CBD10E8E826E03436D646AAEF87B2E247D4AF1E
def bpGy : Nat := 0x8ABE1D7520F9C2A45CB1EB8E95CFD55262B70B29FEEC5864E19C054FF99129280E4646217791811142820341263C5315
def bpN : Nat := 0x8CB91E82A3386D280F5D6F7E50E641DF152F7109ED5456B31F166E6CAC0425A7CF3AB6AF6B7FC3103B883202E9046565

/-- A point in Jacobian coordinates; at infinity where `z` is 0. -/
structure EcPoint where
  x : Nat
  y : Nat
  z : Nat
deriving DecidableEq, Repr

def ecZero : EcPoint := { x := 1, y := 1, z := 0 }

/-- Difference modulo the field's prime of two residues. -/
def bpSub (x y : Nat) : Nat := (x + bpP - y) % bpP

def ecDouble (p : EcPoint) : EcPoint :=
  if p.z = 0 ∨ p.y = 0 then ecZero
  else
    let yy := p.y * p.y % bpP
    let s := 4 * p.x * yy % bpP
    let zz := p.z * p.z % bpP
    let m := (3 * p.x * p.x + bpA * (zz * zz % bpP)) % bpP
    let x := bpSub (m * m % bpP) (2 * s % bpP)
    { x := x, y := bpSub (m * bpSub s x % bpP) (8 * yy * yy % bpP), z := 2 * p.y * p.z % bpP }

def ecAdd (p q : EcPoint) : EcPoint :=
  if p.z = 0 then q
  else if q.z = 0 then p
  else
    let zp := p.z * p.z % bpP
    let zq := q.z * q.z % bpP
    let u := p.x * zq % bpP
    let s := p.y * (zq * q.z % bpP) % bpP
    let h := bpSub (q.x * zp % bpP) u
    let r := bpSub (q.y * (zp * p.z % bpP) % bpP) s
    if h = 0 then (if r = 0 then ecDouble p else ecZero)
    else
      let hh := h * h % bpP
      let hhh := hh * h % bpP
      let v := u * hh % bpP
      let x := bpSub (bpSub (r * r % bpP) hhh) (2 * v % bpP)
      { x := x, y := bpSub (r * bpSub v x % bpP) (s * hhh % bpP), z := h * (p.z * q.z % bpP) % bpP }

/-- `k` times a point, over the low `n` bits of `k`. -/
def ecMul (k : Nat) (p : EcPoint) : Nat → EcPoint
  | 0 => ecZero
  | n + 1 =>
    let q := ecDouble (ecMul (k >>> 1) p n)
    if k % 2 = 1 then ecAdd q p else q

/-- `x ^ e` modulo `m`, over the low `n` bits of `e`. -/
def powMod (m x e : Nat) : Nat → Nat
  | 0 => 1
  | n + 1 =>
    let r := powMod m (x * x % m) (e >>> 1) n
    if e % 2 = 1 then x * r % m else r

/-- Inverse modulo a 384-bit prime. -/
def invMod (m x : Nat) : Nat := powMod m (x % m) (m - 2) 384

/-- The affine x coordinate of a point that is not at infinity. -/
def ecX (p : EcPoint) : Nat := let i := invMod bpP p.z; p.x * (i * i % bpP) % bpP

def bpG : EcPoint := { x := bpGx, y := bpGy, z := 1 }

/-- Whether an affine point lies on the curve. -/
def onCurve (x y : Nat) : Bool := decide (x < bpP ∧ y < bpP) && y * y % bpP == (x * x % bpP * x + bpA * x + bpB) % bpP

/-- Whether a signature (r then s, each 48 octets big-endian) verifies over a digest under a public key (X then Y, each 48 octets
big-endian). -/
def ecdsaVerify (pub dig sig : Nat) : Bool :=
  let qx := beCut pub 0 48
  let qy := beCut pub 48 48
  let r := beCut sig 0 48
  let s := beCut sig 48 48
  let e := beCut dig 0 48
  onCurve qx qy && decide (1 ≤ r ∧ r < bpN ∧ 1 ≤ s ∧ s < bpN) &&
    let w := invMod bpN s
    let p := ecAdd (ecMul (e * w % bpN) bpG 384) (ecMul (r * w % bpN) { x := qx, y := qy, z := 1 } 384)
    p.z != 0 && ecX p % bpN == r

/-- A signature over a digest under a private key: r then s. `k` picks the nonce, and the next one follows where r or s would
be 0. -/
def ecdsaSign (key dig : Nat) : Nat → Nat → Nat
  | 0, _ => 0
  | n + 1, k =>
    let k := 1 + k % (bpN - 1)
    let r := ecX (ecMul k bpG 384) % bpN
    let s := invMod bpN k * (beCut dig 0 48 + r * key) % bpN
    if r = 0 ∨ s = 0 then ecdsaSign key dig n k else leNat (beBytes 48 r ++ beBytes 48 s)

/-- The public key of a private one: X then Y, each 48 octets big-endian. -/
def ecPublic (key : Nat) : Nat :=
  let p := ecMul (key % bpN) bpG 384
  let i := invMod bpP p.z
  leNat (beBytes 48 (ecX p) ++ beBytes 48 (p.y * (i * i % bpP * i % bpP) % bpP))

/-! ### AES-256 -/

/-- The S-box and its inverse, entry `i` in bits [8 * i + 7 : 8 * i]. -/
def aesSbox : Nat :=
  0x16bb54b00f2d99416842e6bf0d89a18cdf2855cee9871e9b948ed9691198f8e19e1dc186b95735610ef6034866b53e708a8bbd4b1f74dde8c6b4a61c2e2578ba08ae7a65eaf4566ca94ed58d6d37c8e779e4959162acd3c25c2406490a3a32e0db0b5ede14b8ee4688902a22dc4f816073195d643d7ea7c41744975fec130ccdd2f3ff1021dab6bcf5389d928f40a351a89f3c507f02f94585334d43fbaaefd0cf584c4a39becb6a5bb1fc20ed00d153842fe329b3d63b52a05a6e1b1a2c830975b227ebe28012079a059618c323c7041531d871f1e5a534ccf73f362693fdb7c072a49cafa2d4adf04759fa7dc982ca76abd7fe2b670130c56f6bf27b777c63

def aesInvSbox : Nat :=
  0x7d0c2155631469e126d677ba7e042b17619953833cbbebc8b0f52aae4d3be0a0ef9cc9939f7ae52d0d4ab519a97f51605fec8027591012b131c7078833a8dd1ff45acd78fec0db9a2079d2c64b3e56fc1bbe18aa0e62b76f89c5291d711af1476edf751ce837f9e28535ade72274ac9673e6b4f0cecff297eadc674f4111913a6b8a130103bdafc1020f3fca8f1e2cd00645b3b80558e4f70ad3bc8c00abd890849d8da75746155edab9edfd5048706c92b6655dcc5ca4d41698688664f6f87225d18b6d49a25b76b224d92866a12e084ec3fa420b954cee3d23c2a632947b54cbe9dec444438e3487ff2f9b8239e37cfbd7f3819ea340bf38a53630d56a0952

def aesSub (b : Nat) : Nat := cut aesSbox (8 * b) 8
def aesInvSub (b : Nat) : Nat := cut aesInvSbox (8 * b) 8

def xtime (b : Nat) : Nat := if b < 128 then 2 * b else (2 * b) ^^^ 0x11B

/-- Product in the field of AES. -/
def gmul (a b : Nat) : Nat :=
  ((List.range 8).foldl (fun (x : Nat × Nat) i => (if bitOf b i then x.1 ^^^ x.2 else x.1, xtime x.2)) (0, a)).1

def xorList (a b : List Nat) : List Nat := (a.zip b).map fun x => x.1 ^^^ x.2

/-- The key schedule after `n` words, newest first: 60 words of four octets for a 256-bit key. -/
def aesWords (key : List Nat) : Nat → List (List Nat)
  | 0 => ((List.range 8).map fun i => (key.drop (4 * i)).take 4).reverse
  | n + 1 =>
    let l := aesWords key n
    let i := n + 8
    let p := l.headD []
    let t :=
      if i % 8 = 0 then xorList ((p.drop 1 ++ p.take 1).map aesSub) [2 ^ (i / 8 - 1), 0, 0, 0]
      else if i % 8 = 4 then p.map aesSub else p
    xorList (l.getD 7 []) t :: l

/-- The fifteen round keys, first used first. -/
def aesKeys (key : List Nat) : List (List Nat) :=
  let w := (aesWords key 52).reverse
  (List.range 15).map fun r => ((w.drop (4 * r)).take 4).flatten

/-- Octet `i` of the state lies in row `i % 4`, column `i / 4`. -/
def shiftRows (s : List Nat) : List Nat := (List.range 16).map fun i => s.getD ((i + 4 * (i % 4)) % 16) 0
def invShiftRows (s : List Nat) : List Nat := (List.range 16).map fun i => s.getD ((i + 16 - 4 * (i % 4)) % 16) 0

/-- Each column times a polynomial with the given coefficients. -/
def mixWith (c : List Nat) (s : List Nat) : List Nat :=
  (List.range 16).map fun i => (List.range 4).foldl (fun a k =>
    a ^^^ gmul (s.getD (i / 4 * 4 + k) 0) (c.getD ((k + 4 - i % 4) % 4) 0)) 0

/-- AES-256 of one 16-octet block. -/
def aesEncrypt (key block : List Nat) : List Nat :=
  let ks := aesKeys key
  let s := (ks.drop 1).take 13 |>.foldl (fun s k => xorList (mixWith [2, 3, 1, 1] (shiftRows (s.map aesSub))) k) (xorList block (ks.headD []))
  xorList (shiftRows (s.map aesSub)) (ks.getD 14 [])

/-- The inverse of `aesEncrypt`. -/
def aesDecrypt (key block : List Nat) : List Nat :=
  let ks := aesKeys key
  let s := invShiftRows (xorList block (ks.getD 14 [])) |>.map aesInvSub
  let s := ((ks.drop 1).take 13).reverse.foldl (fun s k => (invShiftRows (mixWith [14, 11, 13, 9] (xorList s k))).map aesInvSub) s
  xorList s (ks.headD [])

/-- The octets of a slot's 256-bit key. -/
def keyOctets (k : Nat) : List Nat := (List.range 32).map fun i => cut k (8 * i) 8

/-! ### AES-256-GCM (R304, R415) -/

/-- The product in GF(2^128) as GCM numbers its bits: bit 0 is the most significant of a block. -/
def gfMul (x y : Nat) : Nat :=
  ((List.range 128).foldl (fun (s : Nat × Nat) i =>
    (if bitOf x (127 - i) then s.1 ^^^ s.2 else s.1, if bitOf s.2 0 then s.2 >>> 1 ^^^ 0xE1 <<< 120 else s.2 >>> 1)) (0, y)).1

/-- A string as blocks of 16 octets, the last one padded with zeros. -/
def gcmBlocks (bs : List Byte) : List Nat :=
  (List.range ((bs.length + 15) / 16)).map fun i =>
    let l := ((bs.drop (16 * i)).take 16).map (·.toNat)
    beNat (l ++ List.replicate (16 - l.length) 0)

def ghash (h : Nat) (blocks : List Nat) : Nat := blocks.foldl (fun y x => gfMul (y ^^^ x) h) 0

/-- The key stream's block `i` after the IV's first. -/
def gcmPad (key : List Nat) (iv i : Nat) : List Nat := aesEncrypt key (beBytes 16 (iv * 2 ^ 32 + (i + 1) % 2 ^ 32))

/-- Ciphertext and tag of a text under a key and a 96-bit IV, with data that is authenticated only. -/
def gcmSeal (key : List Nat) (iv : Nat) (aad text : List Byte) : List Byte × List Byte :=
  let n := (text.length + 15) / 16
  let pad := (List.range n).flatMap fun i => gcmPad key iv (i + 1)
  let ct := (text.zip pad).map fun x => x.1 ^^^ BitVec.ofNat 8 x.2
  let s := ghash (beNat (aesEncrypt key (List.replicate 16 0)))
    (gcmBlocks aad ++ gcmBlocks ct ++ [8 * aad.length * 2 ^ 64 + 8 * ct.length])
  (ct, (beBytes 16 (s ^^^ beNat (gcmPad key iv 0))).map (BitVec.ofNat 8))

/-- The IV of R415: the salt and the nonce counter, each little-endian. -/
def gcmIv (salt nonce : Nat) : Nat := beNat ((List.range 4).map (fun i => cut salt (8 * i) 8) ++ (List.range 8).map fun i => cut nonce (8 * i) 8)

/-! ### RFC 5649 -/

/-- One pass of the wrap over the semiblocks from step `t` on, with the chaining value: both as big-endian 64-bit numbers. -/
def wrapPass (key : List Nat) : Nat → Nat → List Nat → Nat × List Nat
  | _, a, [] => (a, [])
  | t, a, r :: rs =>
    let b := beNat (aesEncrypt key (beBytes 8 a ++ beBytes 8 r))
    let x := wrapPass key (t + 1) (b / 2 ^ 64 ^^^ t) rs
    (x.1, b % 2 ^ 64 :: x.2)

/-- One pass of the unwrap, over the semiblocks last first, down from step `t`. -/
def unwrapPass (key : List Nat) : Nat → Nat → List Nat → Nat × List Nat
  | _, a, [] => (a, [])
  | t, a, r :: rs =>
    let b := beNat (aesDecrypt key (beBytes 8 (a ^^^ t) ++ beBytes 8 r))
    let x := unwrapPass key (t - 1) (b / 2 ^ 64) rs
    (x.1, b % 2 ^ 64 :: x.2)

/-- The semiblocks of a string padded with zeros. -/
def semiblocks (bs : List Byte) : List Nat :=
  (List.range ((bs.length + 7) / 8)).map fun i => let l := ((bs.drop (8 * i)).take 8).map (·.toNat); beNat (l ++ List.replicate (8 - l.length) 0)

/-- The bytes of semiblocks. -/
def ofSemiblocks (l : List Nat) : List Byte := (l.flatMap (beBytes 8)).map (BitVec.ofNat 8)

/-- Key wrap with padding of a string of more than one semiblock; the initial value holds the string's length. -/
def keyWrap (key : Nat) (bs : List Byte) : List Byte :=
  let r := semiblocks bs
  let x := (List.range 6).foldl (fun (x : Nat × List Nat) j => wrapPass (keyOctets key) (r.length * j + 1) x.1 x.2)
    (0xA65959A6 * 2 ^ 32 + bs.length, r)
  ofSemiblocks (x.1 :: x.2)

/-- Its inverse; none when the initial value, the length in it or the padding is not as it must be. -/
def keyUnwrap (key : Nat) (bs : List Byte) : Option (List Byte) :=
  match semiblocks bs with
  | [] => none
  | a :: r =>
    let n := r.length
    let x := (List.range 6).foldl (fun (x : Nat × List Nat) j =>
      let y := unwrapPass (keyOctets key) (n * (6 - j)) x.1 x.2.reverse
      (y.1, y.2.reverse)) (a, r)
    let len := x.1 % 2 ^ 32
    let out := ofSemiblocks x.2
    if x.1 / 2 ^ 32 = 0xA65959A6 ∧ len ≤ 8 * n ∧ 8 * n < len + 8 ∧ (out.drop len).all (· == 0) then some (out.take len) else none

end Sys2Proof.Machine
end

