-- ==== Sys2Proof/Machine/Links.lean ====
section
/-!
DEFINITION. Ports and their links (R366 to R370), what a received frame meets (R372, R369, R321 step 1), and the raw-frame
rings (R382 to R388).
-/
namespace Sys2Proof.Machine

/-! ### Links (R366, R370) -/

/-- The sub-ports of a port's mode. -/
def subsOf (d : Dev) (port : Nat) : List Nat := ((List.range 4).map fun k => 4 * port + k).filter (subExists d)

/-- A sub-port stops: its link down, and when it was up, its paths too. -/
def linkDown (d : Dev) (sub : Nat) : Dev :=
  let was := rd d .portsubLinkState sub
  let d := wr d .portsubLinkState sub 0
  if was = 2 then subDown (portEvent (portCount d sub 14 1) sub 0xD0 0) sub else d

def portEnableEffect (d : Dev) (port val : Nat) : Dev :=
  let on := bitOf val 0
  if on && rd d .portCfgMode port = 3 then d
  else if on && isSet d .portCtrlEnable port then d
  else
    let d := wr d .portCtrlEnable port (bit on)
    (subsOf d port).foldl (fun d s => wr (linkDown d s) .portsubLinkLos s (bit on)) d

/-- PORT_ENABLE (R366, R367): a port that starts has no signal until its lanes align. -/
def execPortEnable (port val : Nat) (s : State) : Host.Outcome State Fault Refusal :=
  drv s "PORT_ENABLE" (decide (port < 8)) (portEnableEffect s.dev port val)

/-- Whether a sub-port of a running port is there to lose or gain signal. -/
def subRuns (d : Dev) (sub : Nat) : Bool := subExists d sub && isSet d .portCtrlEnable (sub / 4)

/-- SUBPORT_LOSS_OF_SIGNAL (R370, R343). -/
def execSubportLossOfSignal (sub : Nat) (s : State) : Host.Outcome State Fault Refusal :=
  act s "SUBPORT_LOSS_OF_SIGNAL" (subRuns s.dev sub && !isSet s.dev .portsubLinkLos sub)
    (linkDown (wr s.dev .portsubLinkLos sub 1) sub)

/-- SUBPORT_SIGNAL_RESTORED (R370): the 1 ms hold starts. -/
def execSubportSignalRestored (sub : Nat) (s : State) : Host.Outcome State Fault Refusal :=
  act s "SUBPORT_SIGNAL_RESTORED" (subRuns s.dev sub && isSet s.dev .portsubLinkLos sub)
    (wr (wr s.dev .portsubLinkLos sub 0) .portsubLinkState sub 1)

/-- LINK_HOLD_EXPIRY (R370). -/
def execLinkHoldExpiry (sub : Nat) (s : State) : Host.Outcome State Fault Refusal :=
  act s "LINK_HOLD_EXPIRY" (subRuns s.dev sub && rd s.dev .portsubLinkState sub == 1 && !isSet s.dev .portsubLinkLos sub)
    (portEvent (wr s.dev .portsubLinkState sub 2) sub 0xD1 2)

/-! ### Received frames (R369, R372) -/

/-- Codeword counts of a frame, with the event when the uncorrectable ones of any 1 s exceed the threshold, one event a second
(R369). -/
def fecCount (d : Dev) (sub : Nat) (f : Frame) : Dev :=
  let d := portCount (portCount (portCount d sub 11 f.fecCorrected) sub 12 f.fecUncorrectable) sub 13 f.fecSymbols
  let lately := fun t => decide (d.upNs - t < 1000000000)
  let w := getD d.port.fec sub {}
  let seen := (d.upNs, f.fecUncorrectable) :: w.seen.filter fun e => lately e.1
  let sent := w.sentAt.filter lately
  let due := decide ((seen.map (·.2)).sum > rd d .portCfgFecThresh (sub / 4)) && decide (f.fecUncorrectable > 0) && sent.isNone
  let d := onPort d fun p => { p with fec := put p.fec sub { seen := seen, sentAt := if due then some d.upNs else sent } }
  if due then portEvent d sub 0xD7 0 else d

/-- Step 2: the destination addresses a sub-port takes. -/
def macTaken (d : Dev) (sub mac : Nat) : Bool :=
  mac == rd d .portsubMac sub || mac == 0xFFFFFFFFFFFF || mac == 0x011B19000000 || mac == 0x0180C200000E || mac == 0x0180C2000000

/-- Step 3: untagged, or tagged with VID 0 or the sub-port's. -/
def vidTaken (d : Dev) (sub : Nat) (f : Frame) : Bool :=
  match f.tag with
  | none => true
  | some t => t % 4096 == 0 || t % 4096 == rd d .portsubVlanVid sub

/-- A PAUSE or priority flow control frame (IEEE 802.3 MAC control opcodes 0x0001 and 0x0101). -/
def isPause (f : Frame) : Bool :=
  f.etherType == 0x8808 && match f.body with
    | .raw bs => let at_ := if f.tag.isSome then 18 else 14
                 let op := fromBytes (((bs.drop at_).take 2).reverse)
                 op == 1 || op == 0x101
    | .clahim _ => false

def isLocalIp (d : Dev) (ip : Nat) : Bool := (List.range 16).any fun i => isSet d .transportLocalIpValid i && localIp d i == ip

/-- Step 5: a frame for the transport engine. -/
def clahimOf (d : Dev) (f : Frame) : Option Packet :=
  match f.body with
  | .clahim p => if f.etherType = 0x86DD ∧ p.udpDst = rd d .transportCfgUdpPort ∧ isLocalIp d p.dstIp then some p else none
  | .raw _ => none

/-- Step 1 of R321. -/
def clahimBad (p : Packet) : Bool :=
  !p.ipOk || !p.udpOk || p.version != 1 || p.opcode == 0 || decide (p.opcode > 13)

/-- Bytes of the frames of a sub-port that wait for the transport engine. -/
def rxWaiting (d : Dev) (sub : Nat) : Nat := ((d.tr.rx.filter fun r => r.sub = sub).map (·.len)).sum

/-- Hand a packet to the transport engine, which wakes for it; one that does not run takes nothing, and one in CS2 no more
than its sub-port's buffer holds (R484, R487). -/
def toTransport (d : Dev) (sub : Nat) (f : Frame) (p : Packet) : Dev :=
  let d := wake d .laurel
  if !isSet d .transportCtrlEnable then d
  else if domState d .laurel = 2 ∧ rxWaiting d sub + f.length > 1048576 then bump d .powerWakeDrops
  else if clahimBad p then bump d .transportRxMalformed
  else onTr d fun t => { t with rx := t.rx ++ [{ sub := sub, ts := now d, len := f.length, p := p }] }

def frameEffect (d : Dev) (sub : Nat) (f : Frame) : Dev :=
  if !subUp d sub then d
  else
    let d := fecCount d sub f
    if !f.fcsOk || f.fecUncorrectable != 0 then portCount d sub 4 1
    else if f.length < 64 then portCount d sub 6 1
    else if f.length > 9216 then portCount d sub 5 1
    else
      let d := portCount (portCount d sub 2 1) sub 3 f.length
      if !macTaken d sub f.dstMac || !vidTaken d sub f || isPause f then portCount d sub 7 1
      else
        match clahimOf d f with
        | some p => toTransport d sub f p
        | none =>
          if !isSet d .portsubRawCfgRxEn sub then portCount d sub 7 1
          else
            let ts := stamp d sub 16
            portCount (onTr ts.2 fun t => { t with rawRx := t.rawRx ++ [(sub, ts.1, f)] }) sub 8 1

/-- ETHERNET_FRAME_RECEIVE (R372): nothing is received on a link that is not up. -/
def execEthernetFrameReceive (sub : Nat) (f : Frame) (s : State) : Host.Outcome State Fault Refusal :=
  cmd s "ETHERNET_FRAME_RECEIVE" (decide (sub < subports)) (frameEffect s.dev sub f)

/-! ### Raw rings (R382 to R384) -/

/-- Both raw rings of a sub-port are disabled (R388). -/
def rawStop (d : Dev) (sub : Nat) : Dev :=
  portEvent (setSleep (wr (wr d .portsubRawCfgRxEn sub 0) .portsubRawCfgTxEn sub 0) (.rawTx sub) none) sub 0xD5 0

/-- The raw-frame path of a sub-port's port (R270). -/
def rawAgent (sub : Nat) : Agent := .at_ (0x2006 + sub / 4)

def rawLog2 (v : Nat) : Nat := clampTo 6 16 v

/-- The raw transmit ring as a queue of R242. -/
def rawFetch (sub : Nat) : Fetch where
  id := .rawTx sub
  head d := rd d .portsubRawStateTxHead sub
  setHead d h := wr d .portsubRawStateTxHead sub h
  hint d := getD d.port.txHint sub 0
  log2 d := rawLog2 (rd d .portsubRawCfgTxLog2 sub)
  read d h :=
    match dvaRead d (rawAgent sub) 0 (rd d .portsubRawTxBase sub * 4096 + h % 2 ^ rawLog2 (rd d .portsubRawCfgTxLog2 sub) * 64) 64 true with
    | (d, .ok bs) => (d, .got (BitVec.ofNat 512 (fromBytes bs)))
    | (d, .wait) => (d, .wait)
    | (d, _) => (d, .bad 0xD5)
  accept d h x := onPort d fun p => { p with rawTx := putD p.rawTx sub (getD p.rawTx sub [] ++ [(h, x)]) [] }
  onBad d _ := rawStop d sub
  running d := d
  parked d := d

def rawGo (d : Dev) (sub w : Nat) : Dev :=
  if inRun d && isSet d .portsubRawCfgTxEn sub then fetchRun (rawFetch sub) 65537 w d else d

/-- What reading a raw receive slot gives. -/
inductive BufRes where
  | got (b : RawBuf)
  | absent
  | broken
  | bad
  | wait
deriving DecidableEq, Repr

/-- Read the receive ring's slot at an index (R383). -/
def bufSlot (d : Dev) (sub i : Nat) : Dev × BufRes :=
  let l := rawLog2 (rd d .portsubRawCfgRxLog2 sub)
  match dvaRead d (rawAgent sub) 0 (rd d .portsubRawRxBase sub * 4096 + i % 2 ^ l * 16) 16 true with
  | (d, .wait) => (d, .wait)
  | (d, .ok bs) =>
    let x := fromBytes bs
    let len := cut x 32 32
    if cut x 0 1 ≠ phaseAt i l then (d, .absent)
    else if cut x 1 31 ≠ 0 ∨ len < 256 ∨ len > 65536 ∨ len % 64 ≠ 0 ∨ cut x 64 64 % 64 ≠ 0 then (d, .broken)
    else (d, .got { index := i, addr := cut x 64 64, len := len })
  | (d, _) => (d, .bad)

def bufsOf (d : Dev) (sub : Nat) : List RawBuf := getD d.port.bufs sub []

def setBufs (d : Dev) (sub : Nat) (l : List RawBuf) : Dev := onPort d fun p => { p with bufs := putD p.bufs sub l [] }

/-- Fetch buffers ahead, up to 16. -/
def prefetch (sub : Nat) : Nat → Dev → Dev
  | 0, d => d
  | fuel + 1, d =>
    let l := bufsOf d sub
    if l.length ≥ 16 then d
    else
      match bufSlot d sub ((rd d .portsubRawStateRxHead sub + l.length) % 2 ^ 32) with
      | (d, .got b) => prefetch sub fuel (setBufs d sub (l ++ [b]))
      | (d, .broken) => portCount d sub 9 1
      | (d, .bad) => rawStop d sub
      | (d, _) => d

def rawDbEffect (d : Dev) (win width val : Nat) : Dev :=
  let d := wake d .laurel
  let sub := cut val 32 5
  let i := cut val 0 32
  if win ≠ 0 then d
  else if dbRefused width val 38 true then bump d .pwinDbDiscards win
  else
    let d := wr (wr (wr d .pwinRawDbIndex win i) .pwinRawDbSubport win sub) .pwinRawDbRing win (cut val 37 1)
    if bitOf val 37 then rawGo (onPort d fun p => { p with txHint := putD p.txHint sub i 0 }) sub 64
    else if inRun d && isSet d .portsubRawCfgRxEn sub then prefetch sub 17 d else d

/-- RAW_RX_DOORBELL (R382). -/
def execRawRxDoorbell (win width val : Nat) (s : State) : Host.Outcome State Fault Refusal :=
  drv s "RAW_RX_DOORBELL" (decide (win < 64) && !bitOf val 37) (rawDbEffect s.dev win width val)

/-- RAW_TX_DOORBELL (R382). -/
def execRawTxDoorbell (win width val : Nat) (s : State) : Host.Outcome State Fault Refusal :=
  drv s "RAW_TX_DOORBELL" (decide (win < 64) && bitOf val 37) (rawDbEffect s.dev win width val)

/-! ### Transmitting (R384) -/

/-- Whether a raw descriptor breaks R384. -/
def rawBad (x : Desc) : Bool :=
  fieldAt x 0 1 4 != 0 || fieldAt x 0 7 1 != 0 || fieldAt x 1 3 5 != 0 || fieldAt x 2 0 16 != 0 || fieldAt x 0x12 0 368 != 0
    || decide (fieldAt x 0x10 0 16 < 60 ∨ fieldAt x 0x10 0 16 > 9212)

/-- The completion of a raw descriptor that is not sent. -/
def rawFails (d : Dev) (sub i : Nat) (x : Desc) (c : Nat) : Dev :=
  postCq d (rd d .portsubRawCfgCq sub) (entryOf 0x3A 0 c sub [(8, fieldAt x 4 0 32), (0xC, i)])

def rawFront (d : Dev) (sub : Nat) : Option (Nat × Desc) :=
  match getD d.port.rawTx sub [] with
  | [] => none
  | e :: _ => if inRun d && isSet d .portsubRawCfgTxEn sub && queueRoom d sub (fieldAt e.2 1 0 3) then some e else none

def rawTransmitEffect (d : Dev) (sub i : Nat) (x : Desc) : Dev :=
  let pop := fun (d : Dev) => onPort d fun p => { p with rawTx := putD p.rawTx sub ((getD p.rawTx sub []).drop 1) [] }
  if rawBad x then rawFails (pop d) sub i x 0xD6
  else if !subUp d sub then rawFails (pop d) sub i x 0xD0
  else
    let len := fieldAt x 0x10 0 16
    match dvaRead d (rawAgent sub) 0 (fieldAt x 8 0 64) len true with
    | (d, .wait) => d
    | (d, .xfail _ _ _ _) => rawStop (rawFails (pop d) sub i x 0xD5) sub
    | (d, .mfail c) => rawFails (pop d) sub i x c
    | (d, .ok bs) =>
      let p : TxPkt := {
        sub := sub, cls := fieldAt x 1 0 3, part := 0, qpn := 0, len := len + 4, path := 64,
        body := .raw i (fieldAt x 4 0 32) bs (fieldAt x 0 6 1 == 1) (fieldAt x 0 5 1 == 1) }
      onTop (pop d) fun t => { t with queue := t.queue ++ [p] }

/-- RAW_TRANSMIT (R384). -/
def execRawTransmit (sub : Nat) (s : State) : Host.Outcome State Fault Refusal :=
  act s "RAW_TRANSMIT" (rawFront s.dev sub).isSome
    (match rawFront s.dev sub with
     | some (i, x) => rawTransmitEffect s.dev sub i x
     | none => s.dev)

/-! ### Receiving (R385 to R388) -/

/-- A number of `n` bytes in network byte order. -/
def netBytes (n x : Nat) : List Byte := (toBytes n x).reverse

/-- The Clahim base header (R299). -/
def headerBytes (p : Packet) : List Byte :=
  toBytes 56 (packFields [
    (0, 4, p.version), (4, 4, p.opcode), (8, 1, bit p.last), (9, 1, bit p.solicit), (10, 1, bit p.retx), (11, 1, bit p.fa),
    (12, 1, bit p.aborted), (13, 3, p.atomicCode), (16, 6, p.path), (22, 10, p.reserved), (32, 24, p.destQpn),
    (56, 8, p.reserved / 2 ^ 10), (64, 32, p.psn), (96, 32, p.msg), (128, 64, p.nonce), (192, 64, p.addr), (256, 32, p.rh),
    (288, 32, p.msgOffset), (320, 14, p.length), (334, 18, p.reserved / 2 ^ 18), (352, 32, p.total), (384, 32, p.txTs),
    (416, 24, p.srcQpn), (440, 8, p.reserved / 2 ^ 36)])

/-- The IPv6 header of a packet with `len` bytes after it (R297). -/
def ipBytes (p : Packet) (len : Nat) : List Byte :=
  netBytes 4 (6 * 2 ^ 28 + p.dscp * 2 ^ 22 + p.ecn * 2 ^ 20 + p.flowLabel) ++ netBytes 2 len ++ [17, BitVec.ofNat 8 p.hopLimit]
    ++ netBytes 16 p.srcIp ++ netBytes 16 p.dstIp

/-- The Ethernet header with its 802.1Q tag. -/
def macBytes (f : Frame) : List Byte :=
  netBytes 6 f.dstMac ++ netBytes 6 f.srcMac ++ (match f.tag with
    | some t => netBytes 2 0x8100 ++ netBytes 2 t
    | none => []) ++ netBytes 2 f.etherType

/-- What a packet carries after its base header: extension and payload sealed under its mark's key, and the tag (R304, R415). -/
def sealedBytes (p : Packet) : List Byte :=
  let x := gcmSeal (keyOctets p.mark.key) (gcmIv p.mark.salt p.nonce) (headerBytes p) (toBytes (extLen p.opcode) p.ext ++ p.payload)
  x.1 ++ x.2

/-- The Internet checksum of a string in network byte order; a sum of zero is sent as all ones (IPv6's UDP checksum). -/
def netSum (bs : List Byte) : Nat :=
  let s := (List.range ((bs.length + 1) / 2)).foldl (fun a i => a + (bs.getD (2 * i) 0).toNat * 256 + (bs.getD (2 * i + 1) 0).toNat) 0
  let r := 0xFFFF - (if s = 0 then 0 else (s - 1) % 0xFFFF + 1)
  if r = 0 then 0xFFFF else r

/-- The UDP header and what follows it, under its checksum (R297). -/
def udpBytes (p : Packet) (body : List Byte) : List Byte :=
  let len := body.length + 8
  let pseudo := netBytes 16 p.srcIp ++ netBytes 16 p.dstIp ++ netBytes 4 len ++ netBytes 4 17
  let head := netBytes 2 p.udpSrc ++ netBytes 2 p.udpDst ++ netBytes 2 len
  head ++ netBytes 2 (netSum (pseudo ++ head ++ [0, 0] ++ body)) ++ body

/-- A Clahim frame from its MAC addresses to its tag (R297). -/
def clahimBytes (f : Frame) (p : Packet) : List Byte :=
  let udp := udpBytes p (headerBytes p ++ sealedBytes p)
  macBytes f ++ ipBytes p udp.length ++ udp

/-- The bytes of a frame without FCS. Those of a Clahim frame with a broken IPv6 or UDP part, or a seal that is not its mark's, are
free. -/
def frameBytes (d : Dev) (f : Frame) : Dev × List Byte :=
  match f.body with
  | .raw bs => (d, bs)
  | .clahim p =>
    let sent := if p.ipOk && p.udpOk && p.mark.intact then clahimBytes f p else []
    let rest := freeBytes (f.length - 4 - sent.length) d
    (rest.1, (sent ++ rest.2).take (f.length - 4))

/-- Claim the next buffer, reading its slot once when none is fetched ahead. -/
def claim (d : Dev) (sub : Nat) : Dev × BufRes :=
  let go := fun (d : Dev) (b : RawBuf) => (bump d .portsubRawStateRxHead sub, BufRes.got b)
  match bufsOf d sub with
  | b :: t => go (setBufs d sub t) b
  | [] =>
    match bufSlot d sub (rd d .portsubRawStateRxHead sub) with
    | (d, .got b) => go d b
    | (d, .broken) => (portCount d sub 9 1, .absent)
    | r => r

/-- How placing a frame ended: the bytes and buffers placed with the first buffer, and whether the ring ran out. -/
inductive PlaceRes where
  | done (first count bytes : Nat) (short : Bool)
  | bad
  | wait
deriving DecidableEq, Repr

/-- Fill buffers in ring order (R385). -/
def fillBufs (sub : Nat) : Nat → List Byte → Nat → Nat → Nat → Dev → Dev × PlaceRes
  | 0, _, first, n, put_, d => (d, .done first n put_ true)
  | fuel + 1, bs, first, n, put_, d =>
    if bs.isEmpty then (d, .done first n put_ false)
    else
      match claim d sub with
      | (d, .got b) =>
        (match dvaWrite d (rawAgent sub) 0 b.addr (bs.take b.len) true (.raw sub) with
         | (d, .ok _) => fillBufs sub fuel (bs.drop b.len) (if n = 0 then b.index else first) (n + 1) (put_ + min b.len bs.length) d
         | (d, .wait) => (d, .wait)
         | (d, _) => (d, .bad))
      | (d, .wait) => (d, .wait)
      | (d, .bad) => (d, .bad)
      | (d, _) => (d, .done first n put_ true)

/-- The receive completion of R388. -/
def rawEntry (sub first n len placed ts : Nat) (short tagged : Bool) : Entry :=
  entryOf 0x39 0 0 sub [(8, first), (0xC, n + bit short * 2 ^ 16 + bit tagged * 2 ^ 17), (0x10, len), (0x12, placed), (0x18, ts)]

def rawReceiveEffect (d0 : Dev) (sub ts : Nat) (f : Frame) : Dev :=
  let pop := fun (d : Dev) => onTr d fun t => { t with rawRx := t.rawRx.erase (sub, ts, f) }
  let fb := frameBytes d0 f
  match fillBufs sub 64 fb.2 0 0 0 fb.1 with
  | (d, .wait) => wr (onXl d0 fun x => { x with lookups := d.xl.lookups }) .xlateInvalStalls 0 (rd d .xlateInvalStalls)
  | (d, .bad) => portCount (rawStop (pop d) sub) sub 9 1
  | (d, .done first n put_ short) =>
    let d := pop d
    if n = 0 then portCount d sub 9 1
    else
      let d := if short then portCount d sub 10 1 else d
      postCq d (rd d .portsubRawCfgCq sub) (rawEntry sub first n (f.length - 4) put_ ts short f.tag.isSome) (.raw sub)

def rawRxFront (d : Dev) (sub : Nat) : Option (Nat × Frame) :=
  if inRun d then (d.tr.rawRx.find? fun e => e.1 = sub).map (·.2) else none

/-- RAW_FRAME_RECEIVE (R385 to R387). -/
def execRawFrameReceive (sub : Nat) (s : State) : Host.Outcome State Fault Refusal :=
  act s "RAW_FRAME_RECEIVE" (rawRxFront s.dev sub).isSome
    (match rawRxFront s.dev sub with
     | some (ts, f) => rawReceiveEffect s.dev sub ts f
     | none => s.dev)

end Sys2Proof.Machine
end

