-- ==== Sys2Proof/Machine/Resume.lean ====
section
/-!
DEFINITION. Going on with work that was held on a translation fault (R217, R220, R319, R327) or parked while an
invalidation stalled its lookup or no module of the host link was up (R226, R259); the translation command queue (R223
to R227, R559); fault slots that become free.
-/
namespace Sys2Proof.Machine

/-- A started move or attention work item translates its footprint again. -/
def itemGo (d : Dev) (uid : Nat) : Dev :=
  match itemOf d uid with
  | none => d
  | some it =>
    if it.phase ≠ .started then d
    else if wiType it.wi = 3 then moveGo (modItem d uid fun y => { y with held := false }) uid
    else attResume d uid

/-- The held messages of a queue pair go on. -/
def sendGo (d : Dev) (n : Nat) : Dev :=
  pumpAll (onTr d fun t => { t with msgs := t.msgs.map fun m => if m.qpn = n ∧ m.held then { m with held := false, heldPsn := none } else m })

/-- Held work tries again (R220 RETRY, R217): a held receive waits for the packet's next arrival (R327). -/
def retryWork (d : Dev) : HeldWork → Dev
  | .item uid => itemGo d uid
  | .send n => sendGo d n
  | .recv n psn => dropHold d n psn

/-- A held message ends with its fault's cause: at the held packet, or at the next of its PSNs when any packet of it was sent (R319). -/
def abortSend (d : Dev) (m : SendMsg) (cause : Nat) : Dev :=
  match m.heldPsn.bind fun psn => d.tr.recs.find? fun r => r.qpn = m.qpn ∧ r.psn = psn with
  | some r => endAt d m r cause
  | none => modMsg d m.id fun x => { x with held := false, abortEnd := true, cause := cause }

/-- Held work ends with its fault's cause (R220 ABORT, R319, R327). -/
def abortWork (d : Dev) (w : HeldWork) (cause : Nat) : Dev :=
  match w with
  | .item uid =>
    match itemOf d uid with
    | none => d
    | some it => finishFree (dropWalk d uid) { it with held := false, faultHeld := true } it.flags cause
  | .send n => pumpAll (((msgsOf d n).filter (·.held)).foldl (fun d m => abortSend d m cause) d)
  | .recv n psn => onTr d fun t => { t with holds := t.holds.map fun h =>
      if h.qpn = n ∧ h.psn = psn then { h with aborted := true, cause := cause } else h }

/-- Parked work goes on: a stalled packet is the next the transport engine takes. -/
def unparkWork (d : Dev) : HeldWork → Dev
  | .item uid => itemGo d uid
  | .send n => pumpAll (onTr d fun t => { t with msgs := t.msgs.map fun m =>
      if m.qpn = n ∧ m.stalled then { m with stalled := false, heldPsn := if m.held then m.heldPsn else none } else m })
  | .recv n psn =>
    onTr d fun t => { t with
      rx := (t.stallRx.filter fun r => r.p.destQpn = n ∧ r.p.psn = psn) ++ t.rx
      stallRx := t.stallRx.filter fun r => ¬ (r.p.destQpn = n ∧ r.p.psn = psn) }

/-- Everything parked tries again; what still cannot go on parks again. -/
def resumeParked (d : Dev) : Dev :=
  let ws := d.xl.parked
  let d := ws.foldl unparkWork (onXl d fun x => { x with parked := [] })
  apRetryAll (collPumpAll (homeResume d))

/-! ### The command queue (R559) -/

def cmdOp (c : Desc) : Nat := fieldAt c 0 1 4
def cmdPart (c : Desc) : Nat := fieldAt c 1 0 6
def cmdDva (c : Desc) : Nat := fieldAt c 8 0 64
def cmdPages (c : Desc) : Nat := fieldAt c 0x10 0 32
def cmdSlot (c : Desc) : Nat := fieldAt c 0x14 0 10
def cmdGen (c : Desc) : Nat := fieldAt c 0x16 0 16
def cmdAction (c : Desc) : Nat := fieldAt c 0x18 0 2

/-- A completion of a translation command (R225); a SYNC ignores its PARTITION, and concerns none (R223, R245). -/
def cmdEntry (d : Dev) (c : Desc) (cause waited : Nat) : Dev :=
  postCq d d.xl.cmdCq (entryOf 2 (if cmdOp c = 4 then 0 else cmdPart c) cause (if cmdOp c = 3 then cmdSlot c else 0) [(8, fieldAt c 4 0 32), (0xC, fieldAt c 0 1 4), (0x10, min waited (2 ^ 32 - 1))])

/-- Complete a command: with an error always, otherwise when CQE asks for it. -/
def cmdDone (d : Dev) (c : Desc) (cause waited : Nat) : Dev :=
  if cause ≠ 0 || fieldAt c 0 5 1 == 1 then cmdEntry d c cause waited else d

/-- What R223 rejects with 0x10. -/
def cmdMalformed (c : Desc) : Bool :=
  let op := cmdOp c
  op == 0 || decide (op > 4) || fieldAt c 0 6 2 != 0 || fieldAt c 1 6 2 != 0 || fieldAt c 2 0 16 != 0 || fieldAt c 0x14 10 6 != 0
  || fieldAt c 0x18 2 6 != 0 || fieldAt c 0x19 0 312 != 0
  || (if op = 1 then cmdDva c % 65536 != 0 || decide (cmdDva c ≥ 2 ^ 55) || cmdPages c == 0
      else cmdDva c != 0 || cmdPages c != 0)
  || (if op = 3 then decide (cmdAction c > 1) || cmdPart c != cmdSlot c / 16
      else cmdSlot c != 0 || cmdGen c != 0 || cmdAction c != 0)

/-- The cause a command is rejected with (R223); 0 for none. SYNC ignores PARTITION. -/
def cmdCause (d : Dev) (c : Desc) : Nat :=
  if cmdMalformed c then 0x10
  else if cmdOp c ≠ 4 && !isSet d .xlatePtBaseEn (cmdPart c) then 0x12
  else 0

/-- Commands at the head whose OP no row of the table names complete at once with 0x10. -/
def dropReserved : List Desc → Dev → Dev
  | [], d => d
  | c :: t, d => if cmdOp c = 0 ∨ cmdOp c > 4 then dropReserved t (cmdDone (onXl d fun x => { x with commands := t }) c 0x10 0) else d

def settleCmds (d : Dev) : Dev := dropReserved d.xl.commands d

/-- The command queue as a queue of R242; its slots are read by DPA (R270's always-on EID). -/
def cmdqFetch : Fetch where
  id := .cmdq
  head d := rd d .xlateCmdqHeadIndex
  setHead d h := wr (wr d .xlateCmdqHeadIndex 0 h) .xlateCmdqHeadExpectedPhase 0 (phaseAt h d.xl.cmdLog2)
  hint d := rd d .xlateCmdqDoorbell
  log2 d := d.xl.cmdLog2
  read d h :=
    let a := d.xl.cmdBase * 65536 + h % 2 ^ d.xl.cmdLog2 * 64
    match dpaRead d 0x2005 a 64 with
    | (d, some c, _) => (d, .bad c)
    | (d, none, bs) => (d, .got (BitVec.ofNat 512 (fromBytes bs)))
  accept d _ x := onXl d fun s => { s with commands := s.commands ++ [x] }
  onBad d _ := d
  running d := d
  parked d := d

/-- Fetch translation commands with the next interval `w`. -/
def cmdqGo (d : Dev) (w : Nat) : Dev :=
  if isSet d .xlateCmdqCfgEnable && inRun d then settleCmds (fetchRun cmdqFetch 4097 w d) else d

/-- A write of XLATE.CMDQ_CFG (R559). -/
def cmdqCfgWrite (d : Dev) (src v : Nat) : Dev :=
  let l := cut v 0 4
  let c := cut v 5 16
  if isSet d .xlateCmdqCfgEnable then
    if l ≠ rd d .xlateCmdqCfgLog2Size ∨ c ≠ rd d .xlateCmdqCfgCq then discardWrite d src 0x400008 0
    else if bitOf v 4 then d
    else setSleep (wr d .xlateCmdqCfgEnable 0 0) .cmdq none
  else
    let d := wr (wr d .xlateCmdqCfgLog2Size 0 l) .xlateCmdqCfgCq 0 c
    if bitOf v 4 && decide (6 ≤ l ∧ l ≤ 12) then
      let d := wr (wr (wr d .xlateCmdqCfgEnable 0 1) .xlateCmdqHeadIndex 0 0) .xlateCmdqHeadExpectedPhase 0 1
      onXl d fun x => { x with cmdBase := rd d .xlateCmdqBase, cmdLog2 := l, cmdCq := c }
    else d

/-- CMDQ_ENABLE (R559): a write of XLATE.CMDQ_CFG with ENABLE set; a discarded one's source is not an operand. -/
def execCmdqEnable (cfg : Nat) (s : State) : Host.Outcome State Fault Refusal :=
  drv s "CMDQ_ENABLE" (decide (cfg < 2 ^ 32) && bitOf cfg 4) (let c := choose s.dev 4; cmdqCfgWrite c.2 c.1 cfg)

/-- CMDQ_DISABLE (R559): a write of XLATE.CMDQ_CFG that clears ENABLE and changes nothing else. -/
def execCmdqDisable (s : State) : Host.Outcome State Fault Refusal :=
  drv s "CMDQ_DISABLE" true (cmdqCfgWrite s.dev 0 (rd s.dev .xlateCmdqCfgLog2Size + rd s.dev .xlateCmdqCfgCq <<< 5))

/-- CMDQ_DOORBELL (R559, R242). -/
def execCmdqDoorbell (val : Nat) (s : State) : Host.Outcome State Fault Refusal :=
  drv s "CMDQ_DOORBELL" (decide (val < 2 ^ 32)) (cmdqGo (wake (wr s.dev .xlateCmdqDoorbell 0 val) .laurel) 64)

/-! ### The commands (R220 to R227) -/

/-- The command at the head of the queue, when it has the OP and may start (R224). -/
def cmdFront (d : Dev) (op : Nat) : Option Desc :=
  if inRun d then d.xl.commands.head?.filter fun c => cmdOp c == op && (op == 1 || op == 2 || d.xl.invals.isEmpty) else none

/-- The command leaves the queue: rejected, or its own effect. -/
def cmdRun (d : Dev) (c : Desc) (effect : Dev → Dev) : Dev :=
  let d := onXl d fun x => { x with commands := x.commands.drop 1 }
  let e := cmdCause d c
  settleCmds (if e ≠ 0 then cmdDone d c e 0 else effect d)

/-- Started moves of a partition with their last transfers in flight: everything issued, held by nothing. -/
def inFlight (d : Dev) (p : Nat) : List Nat :=
  (d.disp.items.filter fun x => x.part = p && x.phase = .started && wiType x.wi == 3 && !x.held && !d.xl.parked.contains (.item x.uid)
    && x.remote == 0 && decide (x.prog ≥ moveTotal x.wi) && ((moveWi x.wi).srcView == 1 || (moveWi x.wi).dstView == 1)).map (·.uid)

/-- Whether a cached entry's range overlaps pages [first, first + n) of 64 KiB. -/
def overlaps (e : TlbEntry) (first n : Nat) : Bool :=
  let lo := e.tag * 2 ^ lvlShift e.level / 65536
  let hi := (e.tag + 1) * 2 ^ lvlShift e.level / 65536
  decide (lo < first + n ∧ first < hi)

/-- Start an invalidation (R226). -/
def invalStart (d : Dev) (c : Desc) (whole : Bool) : Dev :=
  let first := cmdDva c / 65536
  let n := cmdPages c
  let p := cmdPart c
  let w := inFlight d p
  onXl d fun x => { x with
    tlb := x.tlb.filter fun e => ¬ (e.part = p ∧ (whole ∨ overlaps e first n))
    invals := x.invals ++ [{ id := x.nextInval, part := p, whole := whole, firstPage := first, pages := n, cmd := c, waits := w, waited := w.length }]
    nextInval := x.nextInval + 1 }

/-- INVAL_RANGE (R223, R226). -/
def execInvalRange (s : State) : Host.Outcome State Fault Refusal :=
  act s "INVAL_RANGE" (cmdFront s.dev 1).isSome
    (match cmdFront s.dev 1 with
     | some c => cmdRun s.dev c fun d => invalStart d c false
     | none => s.dev)

/-- INVAL_PARTITION (R223, R226). -/
def execInvalPartition (s : State) : Host.Outcome State Fault Refusal :=
  act s "INVAL_PARTITION" (cmdFront s.dev 2).isSome
    (match cmdFront s.dev 2 with
     | some c => cmdRun s.dev c fun d => invalStart d c true
     | none => s.dev)

/-- An invalidation none of whose transfers is still in flight. -/
def invalReady (d : Dev) (id : Nat) : Option Inval :=
  (d.xl.invals.find? fun v => v.id = id).filter fun v => v.waits.all fun u => !d.disp.items.any fun x => x.uid = u && x.phase = .started

/-- Lookups that no invalidation in progress stalls any more. -/
def forgetStalls (d : Dev) : Dev := onXl d fun x => { x with lookups := x.lookups.filter fun k => invalCovers d k.part k.dva }

/-- INVALIDATION_COMPLETE (R227): the completion, then the stalled lookups. -/
def execInvalidationComplete (id : Nat) (s : State) : Host.Outcome State Fault Refusal :=
  act s "INVALIDATION_COMPLETE" (inRun s.dev && (invalReady s.dev id).isSome)
    (match invalReady s.dev id with
     | some v => resumeParked (forgetStalls (cmdDone (onXl s.dev fun x => { x with invals := x.invals.filter fun y => y.id ≠ id }) v.cmd 0 v.waited))
     | none => s.dev)

/-- RESUME (R220, R221): a free slot or an old generation is 0x11. -/
def resumeEffect (c : Desc) (d : Dev) : Dev :=
  match find? d.xl.held (cmdSlot c) with
  | none => cmdDone d c 0x11 0
  | some h =>
    if getD d.xl.slotGen (cmdSlot c) 0 ≠ cmdGen c then cmdDone d c 0x11 0
    else
      let d := releaseSlot d (cmdSlot c)
      let d := if cmdAction c = 0 then retryWork d h.work else abortWork d h.work h.cause
      cmdDone d c 0 0

/-- The RESUME at the head, with ACTION 1, or with any other. -/
def resumeFront (d : Dev) (abort : Bool) : Option Desc := (cmdFront d 3).filter fun c => (cmdAction c == 1) == abort

/-- RESUME_RETRY (R220, R221, R224); a reserved ACTION is rejected here. -/
def execResumeRetry (s : State) : Host.Outcome State Fault Refusal :=
  act s "RESUME_RETRY" (resumeFront s.dev false).isSome
    (match resumeFront s.dev false with
     | some c => cmdRun s.dev c (resumeEffect c)
     | none => s.dev)

/-- RESUME_ABORT (R220, R221, R224). -/
def execResumeAbort (s : State) : Host.Outcome State Fault Refusal :=
  act s "RESUME_ABORT" (resumeFront s.dev true).isSome
    (match resumeFront s.dev true with
     | some c => cmdRun s.dev c (resumeEffect c)
     | none => s.dev)

/-- SYNC (R224). -/
def execSync (s : State) : Host.Outcome State Fault Refusal :=
  act s "SYNC" (cmdFront s.dev 4).isSome
    (match cmdFront s.dev 4 with
     | some c => cmdRun s.dev c fun d => cmdDone d c 0 0
     | none => s.dev)

/-- The transfer of a partition that has waited longest of those a freed slot makes retry (R217). -/
def slotWaiter (d : Dev) (p : Nat) : Option SlotWait := d.xl.waiting.find? fun w => w.part = p && w.due

/-- A waiting transfer translates its footprint again: it ends its wait unless it finds no slot free once more. -/
def slotRetry (d : Dev) (w : SlotWait) : Dev :=
  let d := onXl d fun x => { x with waiting := x.waiting.map fun y => if y.work = w.work then { y with due := false, trying := true } else y }
  onXl (retryWork d w.work) fun x => { x with waiting := x.waiting.filter fun y => !y.trying }

/-- FAULT_SLOT_RETRY (R217). -/
def execFaultSlotRetry (part : Nat) (s : State) : Host.Outcome State Fault Refusal :=
  act s "FAULT_SLOT_RETRY" (inRun s.dev && (slotWaiter s.dev part).isSome)
    (match slotWaiter s.dev part with
     | some w => slotRetry s.dev w
     | none => s.dev)

/-! ### Back-off (R242) -/

/-- The next interval of a queue that slept `w`: a queue between turns starts again at 64 ns. -/
def nextSleep (w : Nat) : Nat := if w < 64 then 64 else 2 * w

/-- Whether a queue sleeps and this row wakes it: rings between turns go on with DISPATCHER_TURN. -/
def sleeps (d : Dev) (q : QueueId) : Option Nat :=
  (sleepOf d q).filter fun w => match q with
    | .ring _ => decide (w ≥ 64)
    | _ => true

def refetch (d : Dev) (q : QueueId) (w : Nat) : Dev :=
  match q with
  | .ring r => ringGo d r w
  | .cmdq => cmdqGo d w
  | .sq n => sqGo d n w
  | .rq n => rqGo d n w
  | .coll p => collGo d p w
  | .rawTx sub => rawGo d sub w

/-- QUEUE_REFETCH (R242, R243). -/
def execQueueRefetch (q : QueueId) (s : State) : Host.Outcome State Fault Refusal :=
  act s "QUEUE_REFETCH" (inRun s.dev && (sleeps s.dev q).isSome) (refetch s.dev q (nextSleep ((sleeps s.dev q).getD 0)))

end Sys2Proof.Machine
end

