-- ==== Sys2Proof/Machine/HostLink.lean ====
section
/-!
DEFINITION. The host link's modules (R233, R234), CQ and EQ doorbells, enables and interrupts (R239, R240, R248 to R253),
attach, detach and rejoin (R259 to R262), the Function Level Reset (R263), and timed-out HPA accesses (R238, R265).
-/
namespace Sys2Proof.Machine

/-! ### Modules -/

/-- Set a module's state and CFG_MODULE, the lowest-numbered module that is up. -/
def setModule (d : Dev) (m st : Nat) : Dev :=
  let d := if m = 0 then wr d .hlStatusMod0 0 st else wr d .hlStatusMod1 0 st
  if moduleUp d 0 then wr d .hlStatusCfgModule 0 0 else if moduleUp d 1 then wr d .hlStatusCfgModule 0 1 else d

/-- The 0xE5 event (R233, R266) with its management alert. -/
def degraded (d : Dev) (m : Nat) : Dev := postEq (alert d 7) (rd d .hlEventEq) (entryOf 7 0 0xE5 m [])

/-- Modules train from stage 4 onwards, and not in holdback (R470, R471). -/
def trains (d : Dev) : Bool := diesOn d

/-- MODULE_LINK_UP (R233, R259): a module trains at 32 GT/s; HPA accesses that waited go on. -/
def execModuleLinkUp (module : Nat) (s : State) : Host.Outcome State Fault Refusal :=
  cmd s "MODULE_LINK_UP" (decide (module < 2) && trains s.dev) (resumeParked (setModule s.dev module 2))

/-- A module trains at 16 GT/s, or goes down; a module that is down already sends nothing. -/
def linkDownEffect (d : Dev) (m : Nat) (at16 : Bool) : Dev :=
  if at16 then resumeParked (degraded (setModule d m 1) m)
  else if moduleUp d m then degraded (setModule d m 0) m
  else d

/-- MODULE_LINK_DOWN (R233). -/
def execModuleLinkDown (module : Nat) (at16 : Bool) (s : State) : Host.Outcome State Fault Refusal :=
  cmd s "MODULE_LINK_DOWN" (decide (module < 2) && trains s.dev) (linkDownEffect s.dev module at16)

/-! ### Doorbells (R240, R250, R253) -/

def cqs : Nat := 16384
def eqs : Nat := 256

def cqDbEffect (d : Dev) (win width val : Nat) : Dev :=
  let d := wake d .laurel
  let c := cut val 32 14
  let i := cut val 0 32
  if dbRefused width val 47 (voteHolds d .cqPartition c && rd d .cqPartition c == win) then bump d .pwinDbDiscards win
  else
    let d := wr (wr (wr d .pwinCqDbIndex win i) .pwinCqDbCq win c) .pwinCqDbArm win (cut val 46 1)
    let d := wr d .cqConsumer c i
    if bitOf val 46 then cqNotify (onHl (wr d .cqArmed c 1) fun h => { h with cqArmIndex := putD h.cqArmIndex c i 0 }) c else d

/-- CQ_DOORBELL (R239, R240, R248): the doorbell without ARM. -/
def execCqDoorbell (win width val : Nat) (s : State) : Host.Outcome State Fault Refusal :=
  drv s "CQ_DOORBELL" (decide (win < 64) && !bitOf val 46) (cqDbEffect s.dev win width val)

/-- CQ_ARM (R250): the doorbell with ARM. -/
def execCqArm (win width val : Nat) (s : State) : Host.Outcome State Fault Refusal :=
  drv s "CQ_ARM" (decide (win < 64) && bitOf val 46) (cqDbEffect s.dev win width val)

def eqDbEffect (d : Dev) (win width val : Nat) : Dev :=
  let d := wake d .laurel
  let e := cut val 32 8
  let i := cut val 0 32
  if dbRefused width val 41 (voteHolds d .eqPartition e && rd d .eqPartition e == win) then bump d .pwinDbDiscards win
  else
    let d := wr (wr (wr d .pwinEqDbIndex win i) .pwinEqDbEq win e) .pwinEqDbArm win (cut val 40 1)
    let d := wr d .eqConsumer e i
    if bitOf val 40 then wr d .eqArmed e 1 else d

/-- EQ_DOORBELL (R239, R240, R253): the doorbell without ARM. -/
def execEqDoorbell (win width val : Nat) (s : State) : Host.Outcome State Fault Refusal :=
  drv s "EQ_DOORBELL" (decide (win < 64) && !bitOf val 40) (eqDbEffect s.dev win width val)

/-- EQ_ARM (R253): the doorbell with ARM. -/
def execEqArm (win width val : Nat) (s : State) : Host.Outcome State Fault Refusal :=
  drv s "EQ_ARM" (decide (win < 64) && bitOf val 40) (eqDbEffect s.dev win width val)

/-- Whether an EQ may send its message now: armed, an entry beyond the consumer index, MOD_US past, a function and a host
to send it to. -/
def msiReady (d : Dev) (e : Nat) : Bool :=
  let p := rd d .eqPartition e
  decide (e < eqs) && isSet d .eqArmed e && rd d .eqProducer e != rd d .eqConsumer e && attached d && hostUp d && fnPresent d p
  && match find? d.hl.lastMsi e with
    | some t => decide (d.upNs ≥ t + rd d .eqModUs e * 1000)
    | none => true

def msiEffect (d : Dev) (e : Nat) : Dev :=
  let p := rd d .eqPartition e
  let v := rd d .eqVector e
  let d := wr d .eqArmed e 0
  if bitOf (vecState d p v) 0 then setMsix d p v 3
  else onHl (emit d (.msix (rd d .hlStatusCfgModule) p v)) fun h => { h with lastMsi := put h.lastMsi e d.upNs }

/-- MSIX_SEND (R253). -/
def execMsixSend (eq : Nat) (s : State) : Host.Outcome State Fault Refusal :=
  act s "MSIX_SEND" (msiReady s.dev eq) (msiEffect s.dev eq)

/-! ### Enables (R249, R251) -/

/-- Whether a CQ enable is refused (R249). -/
def cqRefusedEnable (d : Dev) (c : Nat) : Bool :=
  let p := rd d .cqPartition c
  let l := rd d .cqLog2Size c
  let e := rd d .cqEq c
  decide (l < 6 ∨ l > 16) || rd d .cqDomain c == 3 || !isSet d .eqEnable e || !voteHolds d .eqPartition e || rd d .eqPartition e != p
  || !voteHolds d .cqPartition c || decide (rd d .partCountCqs p ≥ min 1024 (rd d .partQuotaCqMax p)) || rd d .hlFlushHpa == 0

def cqEnableEffect (d : Dev) (c : Nat) : Dev :=
  if isSet d .cqEnable c then d
  else if rd d .cqState c ≠ 0 then wr d .cqEnable c 1
  else if cqRefusedEnable d c then wr d .cqLastCause c 0xE7
  else
    let d := bump (wr (wr d .cqEnable c 1) .cqState c 1) .partCountCqs (rd d .cqPartition c)
    wr (wr (wr d .cqProducer c 0) .cqConsumer c 0) .cqLost c 0

/-- CQ_ENABLE (R249, R448). -/
def execCqEnable (cq : Nat) (s : State) : Host.Outcome State Fault Refusal :=
  drv s "CQ_ENABLE" (decide (cq < cqs)) (cqEnableEffect s.dev cq)

def cqDisableEffect (d : Dev) (c : Nat) : Dev :=
  let d := if rd d .cqState c ≠ 0 ∧ voteHolds d .cqPartition c then drop1 d .partCountCqs (rd d .cqPartition c) else d
  wr (wr d .cqEnable c 0) .cqState c 0

/-- CQ_DISABLE (R248, R249). -/
def execCqDisable (cq : Nat) (s : State) : Host.Outcome State Fault Refusal :=
  drv s "CQ_DISABLE" (decide (cq < cqs)) (cqDisableEffect s.dev cq)

/-- Whether an EQ enable is refused (R251). -/
def eqRefusedEnable (d : Dev) (e : Nat) : Bool :=
  let p := rd d .eqPartition e
  let l := rd d .eqLog2Size e
  decide (l < 6 ∨ l > 16) || decide (rd d .eqVector e ≥ vectors p) || !voteHolds d .eqPartition e
  || decide (rd d .partCountEqs p ≥ min 256 (rd d .partQuotaEqMax p)) || rd d .hlFlushHpa == 0

def eqEnableEffect (d : Dev) (e : Nat) : Dev :=
  if isSet d .eqEnable e then d
  else if rd d .eqState e ≠ 0 then wr d .eqEnable e 1
  else if eqRefusedEnable d e then wr d .eqLastCause e 0xE7
  else
    let d := bump (wr (wr d .eqEnable e 1) .eqState e 1) .partCountEqs (rd d .eqPartition e)
    wr (wr (wr d .eqProducer e 0) .eqConsumer e 0) .eqLost e 0

/-- EQ_ENABLE (R251, R448). -/
def execEqEnable (eq : Nat) (s : State) : Host.Outcome State Fault Refusal :=
  drv s "EQ_ENABLE" (decide (eq < eqs)) (eqEnableEffect s.dev eq)

def eqDisableEffect (d : Dev) (e : Nat) : Dev :=
  let d := if rd d .eqState e ≠ 0 ∧ voteHolds d .eqPartition e then drop1 d .partCountEqs (rd d .eqPartition e) else d
  wr (wr d .eqEnable e 0) .eqState e 0

/-- EQ_DISABLE (R251). -/
def execEqDisable (eq : Nat) (s : State) : Host.Outcome State Fault Refusal :=
  drv s "EQ_DISABLE" (decide (eq < eqs)) (eqDisableEffect s.dev eq)

/-! ### Attach and detach (R259 to R262) -/

/-- Whether a DVA lies in a page of host memory that may be read or written, as a walk finds it now; nothing is changed by looking. -/
def hostPage (d : Dev) (p dva : Nat) : Bool :=
  [Kind.read, Kind.write].any fun k =>
    match xlate { d with xl := { d.xl with invals := [] } } device p dva k false with
    | (_, .ok h _) => h
    | _ => false

/-- Whether any page of [base, base + n) lies in host memory (R260). -/
def hostFacing (d : Dev) (p base n : Nat) : Bool := (List.range ((base % 65536 + n + 65535) / 65536)).any fun k => hostPage d p (base + k * 65536)

def detachRing (d : Dev) (r : Nat) : Dev :=
  if (rd d .ringStateState r == 1 || rd d .ringStateState r == 2)
    && hostFacing d (rd d .ringCfgPartition r) (rd d .ringBaseAddr r * 4096) (2 ^ rd d .ringCfgLog2Size r * 64)
  then ringStop d r 0xE3 else d

def detachCq (d : Dev) (c : Nat) : Dev :=
  if rd d .cqState c == 1 && hostFacing d (rd d .cqPartition c) (rd d .cqBase c * 4096) (2 ^ rd d .cqLog2Size c * 32) then
    postEq (wr (wr d .cqState c 2) .cqLastCause c 0xE4) (rd d .cqEq c) (entryOf 7 (rd d .cqPartition c) 0xE4 c [(8, rd d .cqLost c)])
  else d

def detachEq (d : Dev) (e : Nat) : Dev :=
  if rd d .eqState e == 1 && hostFacing d (rd d .eqPartition e) (rd d .eqBase e * 4096) (2 ^ rd d .eqLog2Size e * 32) then eqStop d e 0xE4
  else d

/-- Keys of a field's listed entries. -/
def listed (d : Dev) (f : Fld) : List Nat := (d.regs.filter fun e => e.1 % 1024 == f.ctorIdx).map fun e => e.1 / 1024

/-- Detach from the host (R260), when attached; work that waited for a module fails. -/
def detach (d : Dev) : Dev :=
  if !attached d then d
  else
    let d := alert (wr (bump d .hlEpoch) .hlStatusAttached 0 0) 4
    let d := (listed d .ringStateState).foldl detachRing d
    let d := (listed d .cqState).foldl detachCq d
    let d := (listed d .eqState).foldl detachEq d
    resumeParked d

/-- HL_DOWN_TIMEOUT (R259): no module has been up for DOWN_MS. -/
def execHlDownTimeout (s : State) : Host.Outcome State Fault Refusal :=
  act s "HL_DOWN_TIMEOUT" (inRun s.dev && attached s.dev && !hostUp s.dev) (detach s.dev)

/-- HOT_RESET (R259): a hot reset or link disable received on a module that is up. -/
def execHotReset (module : Nat) (s : State) : Host.Outcome State Fault Refusal :=
  cmd s "HOT_RESET" (decide (module < 2) && moduleUp s.dev module)
    (if module = rd s.dev .hlStatusCfgModule then detach s.dev else s.dev)

/-- HL_HEARTBEAT (R264): the register holds what was written; the timer is not state of the model. -/
def execHlHeartbeat (val : Nat) (s : State) : Host.Outcome State Fault Refusal :=
  drv s "HL_HEARTBEAT" (decide (val < 2 ^ 32)) (wr s.dev .hlHeartbeat 0 val)

/-- HL_HEARTBEAT_TIMEOUT (R259). -/
def execHlHeartbeatTimeout (s : State) : Host.Outcome State Fault Refusal :=
  act s "HL_HEARTBEAT_TIMEOUT" (inRun s.dev && attached s.dev && rd s.dev .hlCfgHbMs != 0) (detach s.dev)

/-- HL_DETACH (R259): a write of HL_CTRL.DETACH. -/
def execHlDetach (s : State) : Host.Outcome State Fault Refusal := drv s "HL_DETACH" true (detach s.dev)

/-- Messages that became unmasked while the host was detached leave when it has rejoined (R260; DEDUCED, log 134). -/
def msixResume (d : Dev) : Dev :=
  (d.hl.msix.filter fun e => e.2 = 2).foldl (fun d e => setMsix (sendMsix d (e.1 / 256) (e.1 % 256)) (e.1 / 256) (e.1 % 256) 0) d

/-- A rejoin write (R261). -/
def rejoinEffect (d : Dev) (epoch : Nat) : Dev :=
  let d := wr d .hlRejoinEpoch 0 epoch
  if attached d then wr d .hlRejoinResult 0 3
  else if epoch = rd d .hlEpoch then msixResume (wr (wr (bump d .hlEpoch) .hlStatusAttached 0 1) .hlRejoinResult 0 1)
  else wr d .hlRejoinResult 0 2

/-- HL_REJOIN (R261, R262). -/
def execHlRejoin (epoch : Nat) (s : State) : Host.Outcome State Fault Refusal :=
  drv s "HL_REJOIN" (decide (epoch < 2 ^ 32)) (rejoinEffect s.dev epoch)

/-! ### Function Level Reset (R263) -/

def flrEffect (d : Dev) (fn : Nat) : Dev :=
  if fn = 0 then detach d
  else
    let mine := fun (d : Dev) (f : Fld) (i : Nat) => voteHolds d f i && rd d f i == fn
    let d := (listed d .ringStateEnable).foldl (fun d r => if mine d .ringCfgPartition r then ringDisableEffect d r else d) d
    let d := (listed d .cqState).foldl (fun d c => if mine d .cqPartition c then cqDisableEffect d c else d) d
    let d := (listed d .eqState).foldl (fun d e => if mine d .eqPartition e then eqDisableEffect d e else d) d
    onHl d fun h => { h with msix := h.msix.filter fun e => e.1 / 256 != fn }

/-- FUNCTION_LEVEL_RESET (R263). -/
def execFunctionLevelReset (fn : Nat) (s : State) : Host.Outcome State Fault Refusal :=
  cmd s "FUNCTION_LEVEL_RESET" (decide (fn < 64) && fnPresent s.dev fn) (flrEffect s.dev fn)

/-! ### Timed-out HPA accesses (R238, R265) -/

/-- The pieces a move has issued, as row, offset and length, with the DVAs of its sides. -/
def issued (it : Item) : List (Nat × Nat × Nat) :=
  let x := moveWi it.wi
  (List.range x.rows).flatMap fun r => ((List.range (x.rowBytes / 4096 + 1)).filter fun k => decide (4096 * k < x.rowBytes)).filterMap fun k =>
    if r * x.rowBytes + 4096 * k < it.prog then some (r, 4096 * k, min 4096 (x.rowBytes - 4096 * k)) else none

/-- Whether a piece of a move has a side in host memory. -/
def hostPiece (d : Dev) (it : Item) (p : Nat × Nat × Nat) : Bool :=
  let x := moveWi it.wi
  let ix := getD d.disp.moveIx it.uid []
  let touches := fun (a : Nat) => hostPage d it.part a || hostPage d it.part (a + p.2.2 - 1)
  (x.srcView == 1 && touches ((srcAddr x ix p.1 + p.2.1) % 2 ^ 64)) || (x.dstView == 1 && touches ((dstAddr x ix p.1 + p.2.1) % 2 ^ 64))

/-- The host pieces of the move a tile runs; a move parked for want of a module has one that has not been made. -/
def hostWork (d : Dev) (t : Nat) : Option Item :=
  match running? d t .move with
  | some it => if d.xl.parked.contains (.item it.uid) || (!it.held && (issued it).any (hostPiece d it)) then some it else none
  | none =>
    match running? d t .matrix with
    | some it => if wiType it.wi = 4 && (d.xl.parked.contains (.item it.uid) || hostPage d it.part (attWi it.wi).spine) then some it else none
    | none => none

/-- The destination of a piece whose access was not completed holds free bytes. -/
def scramble (d : Dev) (it : Item) (p : Nat × Nat × Nat) : Dev :=
  let x := moveWi it.wi
  let ix := getD d.disp.moveIx it.uid []
  let f := freeBytes p.2.2 d
  match sideSpans f.1 it x.dstView ((dstAddr x ix p.1 + p.2.1) % 2 ^ 64) p.2.2 .write with
  | (d, some (.ok ds)) => (spansWrite d it.uid it.part ds f.2).1
  | (d, _) => d

/-- The work item will complete with 0xE6: nothing more is issued for it. -/
def hpaTimeout (d : Dev) (it : Item) : Dev :=
  let parked := d.xl.parked.contains (.item it.uid)
  let d := onXl d fun x => { x with parked := x.parked.filter (· ≠ .item it.uid) }
  if it.lane = .move then
    let ps := (issued it).filter (hostPiece d it)
    let d := if parked then d
      else
        let c := choose d ps.length
        match ps[c.1]? with
        | some p => scramble c.2 it p
        | none => c.2
    modItem d it.uid fun y => { y with prog := moveTotal it.wi, cause := if y.cause = 0 then 0xE6 else y.cause, held := false }
  else attEnd d it it.flags 0xE6

/-- HPA_COMPLETION_TIMEOUT (R238, R265): an HPA access of a tile's work item had no completion in 10 ms. -/
def execHpaCompletionTimeout (tile : Nat) (s : State) : Host.Outcome State Fault Refusal :=
  act s "HPA_COMPLETION_TIMEOUT" (inRun s.dev && attached s.dev && (hostWork s.dev tile).isSome)
    (match hostWork s.dev tile with
     | some it => hpaTimeout s.dev it
     | none => s.dev)

end Sys2Proof.Machine
end

