-- ==== Sys2Proof/Machine/Keys.lean ====
section
/-!
DEFINITION. The key-slot commands (R421 to R425, R433, R434), slots that fail or are wiped (R426, R427), Yew engines
that leave service (R413, R441), and the withdrawal of cached table entries (R432).
-/
namespace Sys2Proof.Machine

def keySlots : Nat := 65536

/-! ### Records (R433) -/

/-- A slot record as 48 bytes. -/
def recordBytes (kind : Nat) (h : KeyHalf) : List Byte :=
  toBytes 32 h.key ++ toBytes 4 h.salt ++ toBytes 1 kind ++ toBytes 3 0 ++ toBytes 8 h.nc

/-- A record read back: its KIND and half, none with a reserved byte set. -/
def recordOf (bs : List Byte) : Option (Nat × KeyHalf) :=
  let x := fromBytes bs
  let kind := cut x 0x120 8
  if cut x 0x128 24 ≠ 0 then none
  else some (kind, { key := cut x 0 256, salt := cut x 256 32, nc := if kind = 1 then cut x 0x140 64 else 0 })

/-- The record's address, when it is an HBM4 DPA with room for `n` bytes. -/
def recordAddr (d : Dev) (n : Nat) : Option Nat :=
  let a := rd d .yewSlotCmdAddr * 64
  if a + n ≤ hbmEnd then some a else none

/-! ### Loads (R422 to R424) -/

/-- Whether the shadow of a slot becomes active as soon as it is loaded (R422). -/
def activeAtOnce (d : Dev) (s : Nat) : Bool :=
  rd d .yewSlotKind s == 2 ||
  rd d .yewSlotKind s == 1 && (rd d .yewSlotUserQpn s == 0 || decide (rd d .yewSlotSealCount s ≥ 2 ^ 48))

/-- Load a half into a slot that is EMPTY or LOADED. -/
def loadHalf (d : Dev) (s : Nat) (h : KeyHalf) : Dev :=
  if rd d .yewSlotState s = 0 then
    let d := setKeys d s { active := some h, ncHigh := h.nc }
    wr (wr (wr d .yewSlotState s 1) .yewSlotSealCount s 0) .yewSlotNcFloor s h.nc
  else
    let now_ := activeAtOnce d s
    let d := wr (setKeys d s { keysOf d s with shadow := some h }) .yewSlotShadow s 1
    if now_ then pumpAll (activate d s) else d

/-- Whether a slot may take part in a command that is not ERASE (R421). -/
def slotUsable (d : Dev) (s : Nat) : Bool := rd d .yewSlotState s != 2 && rd d .yewSlotState s != 3

/-- Load a record's bytes, or the refusing cause. -/
def loadRecord (d : Dev) (s : Nat) (bs : List Byte) : Dev × Nat :=
  match recordOf bs with
  | none => (d, 0x84)
  | some (kind, h) =>
    if rd d .yewSlotKind s = 0 ∨ kind ≠ rd d .yewSlotKind s then (d, 0x84) else (loadHalf d s h, 0)

/-- The key of the slot named as KEK; none when it may not be used. -/
def kekOf (d : Dev) (k : Nat) : Option Nat :=
  if slotLoaded d k 0 3 && voteHolds d .yewSlotOwner k then (keysOf d k).active.map (·.key) else none

/-- LOAD_CLEAR. -/
def loadClearGo (d : Dev) (s : Nat) : Dev × Nat :=
  if isSet d .yewStatusAlarm then (d, 0x82)
  else if !slotUsable d s then (d, 0x84)
  else
    match recordAddr d 48 with
    | none => (d, 0x84)
    | some a =>
      match dpaRead d 0x2005 a 48 with
      | (d, some c, _) => (d, c)
      | (d, none, bs) =>
        match loadRecord d s bs with
        | (d, 0) => ((dpaWrite d 0x2005 a (List.replicate 48 0)).1, 0)
        | r => r

/-- LOAD_WRAPPED. -/
def loadWrappedGo (d : Dev) (s kek : Nat) : Dev × Nat :=
  if isSet d .yewStatusAlarm then (d, 0x82)
  else if !slotUsable d s then (d, 0x84)
  else
    match kekOf d kek, recordAddr d 56 with
    | some k, some a =>
      match dpaRead d 0x2005 a 56 with
      | (d, some c, _) => (d, c)
      | (d, none, bs) =>
        match keyUnwrap k bs with
        | none => (bump d .yewUnwrapFails, 0x85)
        | some r => if r.length = 48 then loadRecord d s r else (bump d .yewUnwrapFails, 0x85)
    | _, _ => (d, 0x84)

/-! ### Saves (R434) -/

/-- Whether the bound queue pair of a TX slot still runs. -/
def boundRuns (d : Dev) (s : Nat) : Dev × Bool :=
  let n := rd d .yewSlotUserQpn s
  if rd d .yewSlotKind s ≠ 1 ∨ n = 0 then (d, false)
  else
    match loadQp d n with
    | (d, .ok q) => (d, qpReceives q)
    | (d, _) => (d, (peekQp d n).any qpReceives)

/-- The record of a slot's active half, its NC_HIGH the highest counter sealed under it. -/
def slotRecord (d : Dev) (s : Nat) : Option (List Byte) :=
  (keysOf d s).active.map fun h =>
    recordBytes (rd d .yewSlotKind s) { h with nc := if rd d .yewSlotKind s = 1 then (keysOf d s).ncHigh else 0 }

/-- The record to save, or none where a save is refused. -/
def saveCheck (d : Dev) (s : Nat) : Dev × Option (List Byte) :=
  if rd d .yewSlotState s ≠ 1 ∨ rd d .yewSlotKind s = 0 then (d, none)
  else
    match boundRuns d s with
    | (d, true) => (d, none)
    | (d, false) => (d, slotRecord d s)

def saveAt (d : Dev) (n : Nat) (bs : List Byte) : Dev × Nat :=
  match recordAddr d n with
  | none => (d, 0x84)
  | some a =>
    match dpaWrite d 0x2005 a bs with
    | (d, some c) => (d, c)
    | (d, none) => (d, 0)

/-- SAVE_CLEAR. -/
def saveClearGo (d : Dev) (s : Nat) : Dev × Nat :=
  if !isSet d .yewCfgClearSaveEn || sealedNow d (rd d .yewSlotOwner s) then (d, 0x84)
  else
    match saveCheck d s with
    | (d, none) => (d, 0x84)
    | (d, some bs) => saveAt d 48 bs

/-- SAVE_WRAPPED. -/
def saveWrappedGo (d : Dev) (s kek : Nat) : Dev × Nat :=
  match saveCheck d s with
  | (d, none) => (d, 0x84)
  | (d, some bs) =>
    match kekOf d kek with
    | none => (d, 0x84)
    | some k => saveAt d 56 (keyWrap k bs)

/-! ### The command register (R421, R425) -/

/-- ERASE: an EMPTY or FAILED slot at once, another one when its operations have left the engines. -/
def eraseGo (d : Dev) (s : Nat) : Dev :=
  if rd d .yewSlotState s = 1 then wr (wr d .yewSlotState s 2) .yewSlotCmdBusy 0 1
  else wr (wr (zeroKeys d s) .yewSlotState s 0) .yewSlotCmdResult 0 0

/-- A KEK loaded into its shadow half is the key of the next slot command (R422). -/
def keksDue (d : Dev) : Dev :=
  ((d.yew.keys.filter fun e => e.2.shadow.isSome && rd d .yewSlotKind e.1 == 3).map (·.1)).foldl activate d

/-- A write of GO: discarded while BUSY is 1, else the command SLOT_CMD holds. -/
def slotGo (d : Dev) : Dev :=
  let d := if isSet d .yewSlotCmdBusy then d else keksDue d
  let s := rd d .yewSlotCmdSlot
  let kek := rd d .yewSlotCmdKek
  let done := fun (r : Dev × Nat) => wr r.1 .yewSlotCmdResult 0 r.2
  if isSet d .yewSlotCmdBusy then d
  else
    match rd d .yewSlotCmdOp with
    | 1 => done (loadClearGo d s)
    | 2 => done (loadWrappedGo d s kek)
    | 3 => eraseGo d s
    | 4 => done (saveClearGo d s)
    | 5 => done (saveWrappedGo d s kek)
    | _ => done (d, 0x84)

/-- SLOT and OP as a driver's write leaves them. -/
def slotCmd (d : Dev) (slot op : Nat) : Dev := wr (wr d .yewSlotCmdSlot 0 slot) .yewSlotCmdOp 0 op

def slotCmdKek (d : Dev) (slot op kek : Nat) : Dev := wr (slotCmd d slot op) .yewSlotCmdKek 0 kek

/-- LOAD_CLEAR (R421, R422, R433). -/
def execLoadClear (slot : Nat) (s : State) : Host.Outcome State Fault Refusal :=
  drv s "LOAD_CLEAR" (decide (slot < keySlots)) (slotGo (slotCmd s.dev slot 1))

/-- LOAD_WRAPPED (R421, R422, R433). -/
def execLoadWrapped (slot kek : Nat) (s : State) : Host.Outcome State Fault Refusal :=
  drv s "LOAD_WRAPPED" (decide (slot < keySlots ∧ kek < keySlots)) (slotGo (slotCmdKek s.dev slot 2 kek))

/-- ERASE (R425). -/
def execErase (slot : Nat) (s : State) : Host.Outcome State Fault Refusal :=
  drv s "ERASE" (decide (slot < keySlots)) (slotGo (slotCmd s.dev slot 3))

/-- SAVE_CLEAR (R434). -/
def execSaveClear (slot : Nat) (s : State) : Host.Outcome State Fault Refusal :=
  drv s "SAVE_CLEAR" (decide (slot < keySlots)) (slotGo (slotCmd s.dev slot 4))

/-- SAVE_WRAPPED (R421, R433, R434). -/
def execSaveWrapped (slot kek : Nat) (s : State) : Host.Outcome State Fault Refusal :=
  drv s "SAVE_WRAPPED" (decide (slot < keySlots ∧ kek < keySlots)) (slotGo (slotCmdKek s.dev slot 5 kek))

/-- The end of an erase: the slot is zeroed and EMPTY, BUSY clears and RESULT is written. -/
def eraseEnd (d : Dev) (s : Nat) : Dev :=
  wr (wr (wr (zeroKeys d s) .yewSlotState s 0) .yewSlotCmdBusy 0 0) .yewSlotCmdResult 0 0

/-- ERASE_COMPLETE (R425). -/
def execEraseComplete (slot : Nat) (s : State) : Host.Outcome State Fault Refusal :=
  act s "ERASE_COMPLETE" (decide (slot < keySlots) && rd s.dev .yewSlotState slot == 2 && rd s.dev .yewSlotInflight slot == 0)
    (eraseEnd s.dev slot)

/-- The grace time of a previous RX key ends (R424). -/
def graceEnd (d : Dev) (s : Nat) : Dev := wr (setKeys d s { keysOf d s with prev := none }) .yewSlotPrev s 0

/-- RX_GRACE_EXPIRY (R424). -/
def execRxGraceExpiry (slot : Nat) (s : State) : Host.Outcome State Fault Refusal :=
  act s "RX_GRACE_EXPIRY" (decide (slot < keySlots) && isSet s.dev .yewSlotPrev slot) (graceEnd s.dev slot)

/-! ### Failures and alarms (R426, R427) -/

/-- A slot becomes FAILED and is zeroed. -/
def slotFail (d : Dev) (s : Nat) (cause : Nat := 0x87) : Dev :=
  let busy := rd d .yewSlotState s == 2
  let d := wr (zeroKeys d s) .yewSlotState s 3
  if busy then wr (wr d .yewSlotCmdBusy 0 0) .yewSlotCmdResult 0 cause else d

/-- KEY_WORD_ERROR (R426): an uncorrectable word of a slot that holds a key. -/
def execKeyWordError (slot : Nat) (s : State) : Host.Outcome State Fault Refusal :=
  act s "KEY_WORD_ERROR" (decide (slot < keySlots) && (rd s.dev .yewSlotState slot == 1 || rd s.dev .yewSlotState slot == 2))
    (slotEvent (slotFail s.dev slot) (rd s.dev .yewEventEq) slot 0x87 (rd s.dev .yewSlotUserQpn slot))

/-- Every slot that is not EMPTY. -/
def slotsInUse (d : Dev) : List Nat := listed d .yewSlotState

/-- A queue pair enters ERROR with a cause, its context fetched for it. -/
def qpFailNow (d : Dev) (n cause : Nat) : Dev :=
  match loadQp d n with
  | (d, .wait) => awaitCtx d n (.error cause)
  | (d, _) => qpError d n cause

/-- Queue pairs out of RESET with a slot of a list, wherever their contexts are. -/
def slotUsers (d : Dev) (l : List Nat) : List Nat :=
  let ns := (d.tr.qps.map (·.1) ++ d.tr.known).eraseDups
  ns.filter fun n => (peekQp d n).any fun q => q.state != 0 && (l.contains q.txSlot || l.contains q.rxSlot)

/-- All slots wiped at once, every queue pair that used one in ERROR, one event and the management alert. -/
def alarmEffect (d : Dev) (source : Nat) : Dev :=
  let slots := slotsInUse d
  let users := slotUsers d slots
  let d := slots.foldl (fun d s => wr (zeroKeys d s) .yewSlotState s 0) d
  let d := wr (wr d .yewStatusAlarm 0 1) .yewStatusAlarmSrc 0 source
  let d := if isSet d .yewSlotCmdBusy then wr (wr d .yewSlotCmdBusy 0 0) .yewSlotCmdResult 0 0 else d
  let d := users.foldl (fun d n => qpFailNow d n 0x82) d
  postEq (alert d 3) (rd d .yewEventEq) (entryOf 0x2A 0 0x82 (2 ^ 32 - 1) [(8, source % 16)])

/-- PHYSICAL_ATTACK_ALARM (R427): sources 1 voltage, 2 clock, 3 cold, 4 shield. -/
def execPhysicalAttackAlarm (source : Nat) (s : State) : Host.Outcome State Fault Refusal :=
  cmd s "PHYSICAL_ATTACK_ALARM" (decide (1 ≤ source ∧ source ≤ 4) && s.dev.boot.powered) (alarmEffect s.dev source)

/-! ### Engines (R413, R441, R443) -/

/-- An engine event: the slot of the packet in process is the design's. -/
def engineEvent (d : Dev) (part cause e : Nat) : Dev :=
  let c := choose d keySlots
  postEq c.2 (rd d .yewEventEq) (entryOf 0x29 part cause c.1 [(8, e)])

/-- An engine leaves service; a sealed partition left without an engine of its own loses its timing promise. -/
def engineOut (d : Dev) (e : Nat) : Dev :=
  let d := if e < 64 then wr d .yewEngineOkLow 0 (rd d .yewEngineOkLow - 2 ^ e)
    else wr d .yewEngineOkHigh 0 (rd d .yewEngineOkHigh - 2 ^ (e - 64))
  ((List.range 64).filter fun p => sealedNow d p && !isSet d .yewSealStatusLost p && (enginesOf d p).isEmpty).foldl
    (fun d p => engineEvent (wr d .yewSealStatusLost p 1) p 0x89 e) d

/-- YEW_ENGINE_MISMATCH (R413): the packet in process is processed again on another engine, which changes nothing here. -/
def execYewEngineMismatch (engine : Nat) (s : State) : Host.Outcome State Fault Refusal :=
  act s "YEW_ENGINE_MISMATCH" (decide (engine < 128) && engineIn s.dev engine)
    (engineEvent (engineOut (bump s.dev .yewEngineMismatches) engine) 0 0x86 engine)

/-! ### Cached table entries (R432) -/

/-- Remove what TABLE_INVAL names. -/
def tableInvalGo (d : Dev) : Dev :=
  let i := rd d .yewTableInvalIndex
  let all := isSet d .yewTableInvalAll
  if isSet d .yewTableInvalTable then onTr d fun t => { t with pdCache := if all then [] else del t.pdCache i }
  else onTr d fun t => { t with regionCache := if all then [] else del t.regionCache i }

/-- TABLE_INVAL (R432): each write of the register starts one invalidation. -/
def execTableInval (val : Nat) (s : State) : Host.Outcome State Fault Refusal :=
  drv s "TABLE_INVAL" true
    (tableInvalGo (wr (wr (wr s.dev .yewTableInvalIndex 0 (cut val 0 20)) .yewTableInvalTable 0 (cut val 20 1)) .yewTableInvalAll 0 (cut val 21 1)))

end Sys2Proof.Machine
end

