-- ==== Sys2Proof/Machine/Partitions.lean ====
section
/-!
DEFINITION. Partitions: the capability page (R451), the conditions of a seal (R439, R449, R492) and what a change would
break of them (R450), tile commands (R445 to R447), freezing (R453, R454), and attestation (R435 to R437).
-/
namespace Sys2Proof.Machine

def partitions : Nat := 64

/-! ### The capability page (R451) -/

/-- A bit mask of the numbers below `n` that pass a test. -/
def maskOf (n : Nat) (f : Nat → Bool) : Nat := (List.range n).foldl (fun a i => a + bit (f i) * 2 ^ i) 0

def ringOwned (d : Dev) (p r : Nat) : Bool := voteHolds d .ringCfgPartition r && rd d .ringCfgPartition r == p
def cqOwned (d : Dev) (p c : Nat) : Bool := voteHolds d .cqPartition c && rd d .cqPartition c == p
def eqOwned (d : Dev) (p e : Nat) : Bool := voteHolds d .eqPartition e && rd d .eqPartition e == p

/-- Engines reserved to a partition. -/
def engineReserved (d : Dev) (p e : Nat) : Bool := isSet d .yewEngineOwnerReserved e && rd d .yewEngineOwnerPartition e == p

/-- The 4,096 bytes of a partition's page. -/
def capPage (pm : Perm) (d : Dev) (p : Nat) : List Byte :=
  let head := packFields [
    (0, 32, 1), (0x20, 8, p),
    (0x28, 8, bit (sealedNow d p) + 2 * bit (rd d .partStatusState p == 2) + 4 * rd d .yewSealStatusLost p),
    (0x30, 16, rd d .meshNodeId), (0x40, 8, pm.variant), (0x48, 8, 0xA0), (0x60, 32, (tilesOf d p).length),
    (0x80, 8, rd d .partQuotaRingMax p), (0x88, 16, rd d .partQuotaCqMax p), (0x98, 16, rd d .partQuotaEqMax p),
    (0xC0, 32, rd d .partQuotaSlotMax p), (0xE0, 32, rd d .partQuotaQpMax p),
    (0x100, 8, rd d .partSealCfgHedge p), (0x108, 8, rd d .partSealCfgShare p), (0x110, 8, rd d .partSealCfgResShare p),
    (0x118, 8, ((List.range 128).filter (engineReserved d p)).length), (0x120, 32, rd d .partSubports p)]
  toBytes 64 head ++ toBytes 144 (maskOf tiles fun t => tileOwner d t == some p) ++ toBytes 48 0
    ++ toBytes 512 (maskOf rings (ringOwned d p)) ++ toBytes 2048 (maskOf cqs (cqOwned d p))
    ++ toBytes 32 (maskOf eqs (eqOwned d p)) ++ toBytes 1248 0

/-! ### Every context of a partition -/

/-- Contexts of a chunk with a byte that is not zero, rising. -/
def chunkQpns (d : Dev) (c : Nat) : List Nat :=
  let base := rd d .transportQpcDirBase c * 65536
  let m := if isSet d .transportQpcDirHost c then d.mem.host else d.mem.bytes
  let ns := (m.filter fun e => decide (base ≤ e.1 ∧ e.1 < base + 65536 * 512)).map fun e => c * 65536 + (e.1 - base) / 512
  ns.foldr (fun n l => if l.head? = some n then l else n :: l) []

/-- The queue pairs of a partition outside RESET, resident or in the backing store. -/
def qpsOf (d : Dev) (p : Nat) : List (Nat × Qp) :=
  let stored := ((List.range 256).filter fun c => isSet d .transportQpcDirValid c).flatMap (chunkQpns d)
  let all := d.tr.qps.map (·.1) ++ stored.filter fun n => (qpAt d n).isNone
  all.filterMap fun n => match peekQp d n with
    | some q => if n ≠ 0 ∧ q.part = p ∧ q.state ≠ 0 then some (n, q) else none
    | none => none

/-! ### Seal conditions (R439, R449, R492) -/

/-- Whether every byte of a DPA range lies in a partition's Hedge dies. -/
def ownRange (d : Dev) (p a n : Nat) : Bool :=
  let own := fun (x : Nat) => isDram d x && bitOf (rd d .partSealCfgHedge p) (dieOf (place d x))
  (List.range (n / 256 + 1)).all fun k => own (if 256 * k < n then a + 256 * k else a + n - 1)

/-- Whether every byte of a DVA range does. -/
def ownDva (d : Dev) (p a n : Nat) : Bool :=
  match translate d device p a n .read false with
  | (_, .ok segs) => segs.all fun s => !s.host && ownRange d p s.addr s.len
  | _ => false

/-- Whether the tables of a partition below level `3 - k` lie there. -/
def ownTables (d : Dev) (p : Nat) : Nat → Nat → Bool
  | 0, t => ownRange d p t 65536
  | k + 1, t => ownRange d p t 65536 && (List.range 8192).all fun i =>
      let e := fromBytes (getBytes d (t + 8 * i) 8)
      !bitOf e 0 || bitOf e 1 || ownTables d p k (pteOa e)

/-- Structures of a partition in its own dies. -/
def ownStructures (d : Dev) (p : Nat) : Bool :=
  let qs := qpsOf d p
  (!isSet d .xlatePtBaseEn p || ownTables d p 2 (rd d .xlatePtBaseBase p * 65536))
  && (!isSet d .meshNodeMapEn p || ownRange d p (rd d .meshNodeMapBase p * 65536) 0x40000)
  && ((List.range rings).filter fun r => ringOwned d p r && rd d .ringStateState r != 0).all
      (fun r => ownDva d p (rd d .ringBaseAddr r * 4096) (64 * 2 ^ rd d .ringCfgLog2Size r))
  && ((List.range cqs).filter fun c => cqOwned d p c && rd d .cqState c != 0).all
      (fun c => ownDva d p (rd d .cqBase c * 4096) (32 * 2 ^ rd d .cqLog2Size c))
  && ((List.range eqs).filter fun e => eqOwned d p e && rd d .eqState e != 0).all
      (fun e => ownDva d p (rd d .eqBase e * 4096) (32 * 2 ^ rd d .eqLog2Size e))
  && qs.all fun x =>
      ownDva d p (x.2.sqBase * 4096) (64 * 2 ^ x.2.sqLog2) && ownDva d p (x.2.rqBase * 4096) (64 * 2 ^ x.2.rqLog2)
      && match qpPlace d x.1 with
         | some (false, a) => ownRange d p a 512
         | _ => false

/-- The sub-ports a path set uses. -/
def setSubs (d : Dev) (set : Nat) : List Nat :=
  let ds := match liveOf d set with
    | some l => l.descs
    | none => (readSet d set).2
  (ds.filter (pathValid d)).map pathSub

/-- Paths of a partition's queue pairs on its own sub-ports alone, and nobody else there. -/
def ownPorts (d : Dev) (p : Nat) : Bool :=
  let mine := rd d .partSubports p
  (qpsOf d p).all (fun x => (setSubs d x.2.pathSet).all fun s => bitOf mine s)
  && ((List.range partitions).filter (· ≠ p)).all (fun o => (qpsOf d o).all fun x => (setSubs d x.2.pathSet).all fun s => !bitOf mine s)
  && (List.range subports).all fun s => !bitOf mine s || !(isSet d .portsubRawCfgRxEn s || isSet d .portsubRawCfgTxEn s)

/-- Whether two partitions have a mask bit in common in no case. -/
def maskAlone (d : Dev) (f : Fld) (p : Nat) : Bool :=
  rd d f p != 0 && ((List.range partitions).filter (· ≠ p)).all fun o => rd d f o &&& rd d f p == 0

/-- Sealed partitions, `p` included. -/
def sealedWith (d : Dev) (p : Nat) : List Nat := (List.range partitions).filter fun o => o = p || sealedNow d o

def shareOk (d : Dev) (f : Fld) (p : Nat) : Bool :=
  decide (1 ≤ rd d f p) && decide (((sealedWith d p).map fun o => rd d f o).sum ≤ 48)

/-- The rate SEAL_FLOOR gives; 0 for none (R497). -/
def sealFloor (d : Dev) (p : Nat) : Nat := let v := rd d .powerSealFloor p; if v = 0 then 0 else clampTo 8 64 v

/-- SUSTAINED_W as it is used (R497). -/
def sustained (d : Dev) : Nat := clampTo 1200 2100 (rd d .powerLimitSustainedW)

/-- The rows that a partition owns tiles of. -/
def rowsOf (d : Dev) (p : Nat) : List Nat := (List.range 24).filter fun r => (List.range 48).any fun c => tileOwner d (tileAt r c) == some p

/-- R492's budget in quarter watts over a list of partitions. -/
def budgetOk (d : Dev) (l : List Nat) : Bool :=
  decide ((l.map fun o => (rowsOf d o).length * sealFloor d o * 3).sum + 3800 ≤ 4 * sustained d)

/-- Whether a partition's tiles are whole rows of its own. -/
def wholeRows (d : Dev) (p : Nat) : Bool :=
  (rowsOf d p).all fun r => (List.range 48).all fun c => tileOwner d (tileAt r c) == some p

/-- Every condition of a seal, in the order of R439 and R449. -/
def sealConds (d : Dev) (p : Nat) : List Bool := [
  wholeRows d p, rd d .memoryHbmCfgInterleave == 1, maskAlone d .partSealCfgHedge p, ownStructures d p,
  maskAlone d .partSubports p, ownPorts d p, (List.range 128).any (engineReserved d p), shareOk d .partSealCfgShare p,
  shareOk d .partSealCfgResShare p, sealFloor d p != 0, budgetOk d (sealedWith d p)]

/-- Whether a change breaks a condition of a sealed partition that held before it (R450). -/
def breaksSeal (d d' : Dev) : Bool :=
  ((List.range partitions).filter fun o => sealedNow d o && sealedNow d' o).any fun o =>
    ((sealConds d o).zip (sealConds d' o)).any fun x => x.1 && !x.2

/-! ### Tiles (R445 to R447, R450) -/

def tileFailedBit (d : Dev) (t : Nat) : Bool := bitOf (rd d .safetyTileFailed (t / 64)) (t % 64)

def tileResult (d : Dev) (c : Nat) : Dev := wr d .tileCmdResult 0 c

/-- The three voted fields of a tile's owner, in one write. -/
def setOwner (d : Dev) (t p assigned releasing : Nat) : Dev :=
  wr (wr (wr d .tileOwnerPartition t p) .tileOwnerAssigned t assigned) .tileOwnerReleasing t releasing

def assignGo (d : Dev) (t p : Nat) : Dev :=
  let d' := wake (setOwner d t p 1 0) (.tile t)
  if p = 0 ∨ t ≥ tiles ∨ isSet d .tileOwnerAssigned t ∨ isSet d .tileOwnerReleasing t ∨ tileFailedBit d t then tileResult d 0xEA
  else if breaksSeal d d' then tileResult d 0x88
  else tileResult d' 0

/-- RELEASE begins: RELEASING is set, the lanes drain (R446 step 1). -/
def releaseGo (d : Dev) (t p : Nat) : Dev :=
  if t ≥ tiles ∨ tileOwner d t ≠ some p then tileResult d 0xEA
  else if breaksSeal d (setOwner d t 0 0 0) then tileResult d 0x88
  else wr (wr d .tileOwnerReleasing t 1) .tileCmdBusy 0 1

/-- A write of GO: discarded while BUSY is 1, else the command TILE_CMD holds. -/
def tileGo (d : Dev) : Dev :=
  let t := rd d .tileCmdTile
  let p := rd d .tileCmdPartition
  if isSet d .tileCmdBusy then d
  else
    match rd d .tileCmdOp with
    | 1 => assignGo d t p
    | 2 => releaseGo d t p
    | _ => tileResult d 0xEA

def tileCmd (d : Dev) (t p op : Nat) : Dev := wr (wr (wr d .tileCmdTile 0 t) .tileCmdPartition 0 p) .tileCmdOp 0 op

/-- TILE_ASSIGN (R445, R446, R450). -/
def execTileAssign (tile part : Nat) (s : State) : Host.Outcome State Fault Refusal :=
  drv s "TILE_ASSIGN" (decide (tile < 2048 ∧ part < partitions)) (tileGo (tileCmd s.dev tile part 1))

/-- TILE_RELEASE (R446, R450). -/
def execTileRelease (tile part : Nat) (s : State) : Host.Outcome State Fault Refusal :=
  drv s "TILE_RELEASE" (decide (tile < 2048 ∧ part < partitions)) (tileGo (tileCmd s.dev tile part 2))

/-- Work items in the lanes or units of a tile. -/
def tileItems (d : Dev) (t : Nat) : List Item :=
  d.disp.items.filter fun x => x.tile = t && x.phase != .fetched && (x.lane = .matrix || x.lane = .vector || x.lane = .move)

def unstartedOn (d : Dev) (t : Nat) : List Item := (tileItems d t).filter fun x => x.phase = .placed && !x.rerun

/-- The cause with which a tile's work ends when the tile is released: 0xE9, or 0xEE when the release follows a lost vote
(R446 step 2, R503). -/
def releaseCause (d : Dev) (t : Nat) : Nat :=
  if (votedWith .tileOwnerPartition).all (fun f => voteHolds d f t) then 0xE9 else 0xEE

/-- Work that has not started completes. -/
def releaseTimeout (d : Dev) (t : Nat) : Dev :=
  (unstartedOn d t).foldl (fun d it => complete d it (releaseCause d t)) d

/-- The owner fields of a tile agree again. -/
def ownerHealed (d : Dev) (t : Nat) : Dev :=
  let ks := (votedWith .tileOwnerPartition).map fun f => fkey f t
  onSafe d fun x => { x with lost := x.lost.filter fun k => !ks.contains k }

def releasing (d : Dev) (t : Nat) : Bool := decide (t < tiles) && isSet d .tileOwnerReleasing t

/-- TILE_RELEASE_TIMEOUT (R446). -/
def execTileReleaseTimeout (tile : Nat) (s : State) : Host.Outcome State Fault Refusal :=
  act s "TILE_RELEASE_TIMEOUT" (releasing s.dev tile && !(unstartedOn s.dev tile).isEmpty) (releaseTimeout s.dev tile)

/-- Drop every byte and error state of a tile's scratchpad, with its registered tokens. -/
def wipeScratch (d : Dev) (t : Nat) : Dev :=
  let out := fun (a : Nat) => decide (a < spAddr t 0 ∨ spAddr t spBytes ≤ a)
  let d := onMem d fun m => { m with bytes := m.bytes.filter (fun e => out e.1), ecc := m.ecc.filter (fun e => out e.1), flips := m.flips.filter (fun e => out e.1) }
  onDisp d fun s => { s with tokens := s.tokens.filter fun e => out e.1 }

/-- A tile's journal lists are emptied, its entries in the journal region zeroed. -/
def wipeJournal (d : Dev) (t : Nat) : Dev :=
  let j := journalOf d t
  let zero := fun (keep : Bool) (d : Dev) (e : JEntry) => (dpaWrite d (0x800 + tileRow t) (journalAddr d t e.slot keep) (List.replicate 128 0)).1
  let d := j.rolling.foldl (zero false) (j.keep.foldl (zero true) d)
  onDisp d fun s => { s with journals := del s.journals t }

/-- Steps 3 and 4 of R446. -/
def releaseEnd (d : Dev) (t : Nat) : Dev :=
  let byCmd := isSet d .tileCmdBusy && rd d .tileCmdTile == t
  let d := wipeJournal (wipeScratch (ownerHealed (setOwner d t 0 0 0) t) t) t
  if byCmd then tileResult (wr d .tileCmdBusy 0 0) 0 else d

/-- TILE_RELEASE_DONE (R446): the lanes have drained. -/
def execTileReleaseDone (tile : Nat) (s : State) : Host.Outcome State Fault Refusal :=
  act s "TILE_RELEASE_DONE"
    (releasing s.dev tile && (tileItems s.dev tile).isEmpty && !s.dev.att.homes.any fun h => h.tile == tile)
    (releaseEnd s.dev tile)

/-! ### Freezing (R453, R454) -/

def partResult (d : Dev) (p c : Nat) : Dev := wr d .partStatusResult p c

/-- FREEZE. -/
def freezeGo (d : Dev) (p : Nat) : Dev :=
  if isSet d .partStatusBusy p then d
  else if p = 0 ∨ rd d .partStatusState p ≠ 0 then partResult d p 0xEA
  else partResult (wr d .partStatusState p 1) p 0

/-- FREEZE (R445, R453). -/
def execFreeze (part : Nat) (s : State) : Host.Outcome State Fault Refusal :=
  drv s "FREEZE" (decide (part < partitions)) (freezeGo s.dev part)

/-- Fetched work items of a partition that have not started. -/
def notStarted (d : Dev) (p : Nat) : List Item :=
  d.disp.items.filter fun x => x.part = p && (x.phase = .fetched || x.phase = .placed) && !x.rerun

/-- Work items not started when FREEZE_MS has passed are cut. -/
def freezeCut (d : Dev) (p : Nat) : Dev :=
  let l := (notStarted d p).map (·.uid)
  onDisp d fun s => { s with
    items := s.items.map (fun x => if l.contains x.uid then { x with phase := .cut } else x)
    carried := s.carried.filter fun c => !l.contains c.uid }

/-- FREEZE_TIMEOUT (R453). -/
def execFreezeTimeout (part : Nat) (s : State) : Host.Outcome State Fault Refusal :=
  act s "FREEZE_TIMEOUT" (decide (part < partitions) && rd s.dev .partStatusState part == 1 && !(notStarted s.dev part).isEmpty)
    (freezeCut s.dev part)

/-- A step-graph work item that issues no more: every copy it issued has completed or been cut, none is half issued. -/
def graphHalted (d : Dev) (it : Item) : Bool :=
  match graphRunOf d it.uid with
  | some r => it.phase = .started && r.next == 0 && d.disp.items.all fun x => x.graph != some it.uid || x.phase = .cut
  | none => false

/-- Whether a queue pair has nothing in flight. -/
def qpQuiet (d : Dev) (n : Nat) (q : Qp) : Bool :=
  !qpReceives q || (q.unaPsn == q.nextPsn && (msgsOf d n).isEmpty && (runOf d n).wrs.isEmpty)

/-- Whether a quiescing partition has come to rest; a context in host memory is written back when a module is up (R259). -/
def atRest (d : Dev) (p : Nat) : Bool :=
  (qpsOf d p).all (fun x => !ctxWaits d x.1) &&
  (d.disp.items.filter fun x => x.part = p).all (fun x => x.phase = .cut || graphHalted d x)
  && d.disp.signals.all (fun g => g.part != p)
  && (List.range 16).all (fun i => (find? d.xl.held (16 * p + i)).isNone)
  && d.tr.qps.all (fun e => e.2.part != p || qpQuiet d e.1 e.2)
  && d.coll.runs.all (fun e => e.2.part != p || !e.2.active)
  && d.att.homes.all (fun h => h.part != p) && d.att.homeWait.all (fun h => h.part != p)
  && d.disp.blocked.all fun t => tileOwner d t != some p

/-- A queue pair enters FROZEN, its context written back and made non-resident. -/
def freezeQp (d : Dev) (n : Nat) : Dev :=
  match peekQp d n with
  | some q =>
    if qpReceives q then
      let q := { q with state := 6 }
      let d := dropResident (writeBack d n q) n
      let d := liveCheck (onTr d fun t => { t with runs := del t.runs n }) q.pathSet
      setSleep (setSleep d (.sq n) none) (.rq n) none
    else d
  | none => d

/-- The cycle of R454. -/
def frozenEffect (d : Dev) (p : Nat) : Dev :=
  let its := d.disp.items.filter fun x => x.part = p
  let copies := its.filter fun x => x.phase = .cut
  let graphs := its.filter fun x => x.phase != .cut
  let d := completeAll d (copies ++ graphs) 0xE8
  let d := (d.coll.runs.filter fun e => e.2.part = p).foldl (fun d e => collEnd d e.1 e.2 0xE8) d
  let d := ((qpsOf d p).filter fun x => qpReceives x.2).foldl (fun d x => freezeQp d x.1) d
  let d := (tilesOf d p).foldl (fun d t => setJournal d t { journalOf d t with keep := [], rolling := [] }) d
  wr d .partStatusState p 2

/-- PARTITION_FROZEN (R454). -/
def execPartitionFrozen (part : Nat) (s : State) : Host.Outcome State Fault Refusal :=
  act s "PARTITION_FROZEN" (decide (part < partitions) && rd s.dev .partStatusState part == 1 && atRest s.dev part)
    (frozenEffect s.dev part)

/-! ### Attestation (R435 to R437) -/

def attestDva (d : Dev) (p : Nat) : Nat := rd d .pwinAttestAddr p * 64

def attestFail (d : Dev) (p : Nat) : Dev := wr (wr d .pwinAttestCtrlBusy p 0) .pwinAttestCtrlErr p 1

/-- A write of GO: discarded while BUSY is 1; a buffer that does not translate with every page pinned sets ERR. -/
def attestGo (d : Dev) (p : Nat) : Dev :=
  if isSet d .pwinAttestCtrlBusy p then d
  else
    let d := wr (wr d .pwinAttestCtrlErr p 0) .pwinAttestCtrlBusy p 1
    match translate d device p (attestDva d p) 512 .write true with
    | (d, .fail _ _ _ _) => attestFail d p
    | (d, _) => d

/-- ATTEST_GO (R436, R437). -/
def execAttestGo (part : Nat) (s : State) : Host.Outcome State Fault Refusal :=
  drv s "ATTEST_GO" (decide (part < partitions)) (attestGo s.dev part)

/-- The partition whose report is signed next (R283, R436). -/
def attestTurn (d : Dev) : Option Nat :=
  let l := (List.range partitions).filter fun p => isSet d .pwinAttestCtrlBusy p
  ((l.filter fun p => decide (d.yew.attPtr ≤ p)) ++ l).head?

/-- Bytes 0x00 to 0xFF of a report. -/
def reportBody (pm : Perm) (d : Dev) (p : Nat) (challenge : List Byte) : List Byte :=
  let head := packFields [
    (0, 32, 1), (0x20, 8, p),
    (0x28, 8, bit (sealedNow d p) + 2 * rd d .yewStatusAlarm + 4 * rd d .yewCfgClearSaveEn),
    (0x30, 8, pm.variant), (0x38, 8, 0xA0), (0x40, 16, rd d .meshNodeId), (0x60, 32, d.yew.reports + 1), (0x80, 64, now d),
    (0x100, 128, pm.deviceId)]
  toBytes 64 head ++ challenge.take 48 ++ (List.range 6).flatMap (fun i => toBytes 8 (rd d .bootImageDigest i))
    ++ toBytes 48 (sha384 (capPage pm d p)) ++ toBytes 48 0

/-- Sign a report and write it into the buffer. -/
def attestDone (pm : Perm) (d : Dev) (p : Nat) : Dev :=
  let a := attestDva d p
  match dvaRead d device p (a + 64) 48 true with
  | (d, .wait) => d
  | (d, .ok ch) =>
    let body := reportBody pm d p ch
    let k := fresh d
    let sig := ecdsaSign pm.identKey (sha384 body) 64 k.1
    match dvaWrite k.2 device p a (body ++ toBytes 96 sig) true .other with
    | (d, .wait) => d
    | (d, .ok _) => onYew (wr d .pwinAttestCtrlBusy p 0) fun y => { y with attPtr := (p + 1) % partitions, reports := y.reports + 1 }
    | (d, _) => onYew (attestFail d p) fun y => { y with attPtr := (p + 1) % partitions }
  | (d, _) => onYew (attestFail d p) fun y => { y with attPtr := (p + 1) % partitions }

/-- ATTEST_REPORT_DONE (R436). -/
def execAttestReportDone (part : Nat) (s : State) : Host.Outcome State Fault Refusal :=
  act s "ATTEST_REPORT_DONE" (inRun s.dev && attestTurn s.dev == some part) (attestDone s.perm s.dev part)

end Sys2Proof.Machine
end

