-- ==== Sys2Proof/Machine/Migrate.lean ====
section
/-!
DEFINITION. Saving, restoring and thawing a frozen partition (R455 to R458), sealing and unsealing one (R449).
-/
namespace Sys2Proof.Machine

/-! ### The save image (R455) -/

def imageBase (d : Dev) (p : Nat) : Nat := rd d .partCmdAddr p * 65536

def imageLength (n : Nat) : Nat := 0x10000 + n * 0x190000

/-- The rings, CQs and EQs a partition owns that are not in state 0. -/
def ringsSaved (d : Dev) (p : Nat) : List Nat := (List.range rings).filter fun r => ringOwned d p r && rd d .ringStateState r != 0
def cqsSaved (d : Dev) (p : Nat) : List Nat := (List.range cqs).filter fun c => cqOwned d p c && rd d .cqState c != 0
def eqsSaved (d : Dev) (p : Nat) : List Nat := (List.range eqs).filter fun e => eqOwned d p e && rd d .eqState e != 0

def ringRecord (d : Dev) (r : Nat) : List Byte := toBytes 16 (packFields [
  (0, 16, r), (16, 8, rd d .ringStateState r), (24, 8, rd d .ringStateLastCause r), (32, 32, rd d .ringHeadIndex r),
  (64, 8, rd d .ringHeadExpectedPhase r)])

def cqRecord (d : Dev) (c : Nat) : List Byte := toBytes 16 (packFields [
  (0, 16, c), (16, 8, rd d .cqState c), (24, 8, rd d .cqLastCause c), (32, 32, rd d .cqProducer c),
  (64, 32, rd d .cqConsumer c), (96, 8, rd d .cqArmed c)])

def eqRecord (d : Dev) (e : Nat) : List Byte := toBytes 16 (packFields [
  (0, 16, e), (16, 8, rd d .eqState e), (24, 8, rd d .eqLastCause e), (32, 32, rd d .eqProducer e),
  (64, 32, rd d .eqConsumer e), (96, 8, rd d .eqArmed e)])

/-- A table of `n` 16-byte records, unused ones zero. -/
def recordTable (n : Nat) (l : List (List Byte)) : List Byte := ((l.take n).flatMap fun r => r) ++ toBytes (16 * (n - l.length)) 0

/-- Image bytes 0x0100 to 0xFFFF. -/
def imageTables (d : Dev) (p : Nat) : List Byte :=
  recordTable 64 ((ringsSaved d p).map (ringRecord d)) ++ recordTable 1024 ((cqsSaved d p).map (cqRecord d))
    ++ recordTable 256 ((eqsSaved d p).map (eqRecord d))
    ++ toBytes 16 (packFields [(0, 32, rd d .transportCollQHead p), (32, 8, rd d .transportCollQExpectedPhase p)])
    ++ toBytes (0x10000 - 0x5510) 0

/-- The tokens registered on a tile: word offset and value. -/
def tileTokens (d : Dev) (t : Nat) : List (Nat × Nat) :=
  (d.disp.tokens.filter fun e => decide (spAddr t 0 ≤ e.1 ∧ e.1 < spAddr t spBytes)).map fun e => ((e.1 - spAddr t 0) / 8, e.2)

/-- The first 64 KiB of a tile's part of the image. -/
def tileHead (d : Dev) (t : Nat) : List Byte :=
  let ts := tileTokens d t
  toBytes 64 (packFields [(0, 16, t), (16, 16, ts.length)])
    ++ recordTable 64 (ts.map fun x => toBytes 16 (packFields [(0, 32, x.1), (64, 64, x.2)])) ++ toBytes (0x10000 - 0x440) 0

/-- Write bytes into the image a line at a time. -/
def putLines (d : Dev) (a : Nat) (bs : List Byte) : Dev := (memWrite d false bs.length a bs).1

/-- Copy one 64-byte line of a scratchpad; a poisoned word makes the line poisoned. -/
def saveLine (d : Dev) (src dst : Nat) : Dev :=
  match memRead d src 64 with
  | (d, none, bs) => putLines d dst bs
  | (d, some _, bs) => poison (putLines d dst bs) (place d dst) dst none

def saveTile (d : Dev) (t a : Nat) : Dev :=
  let d := putLines d a (tileHead d t)
  (List.range (spBytes / 64)).foldl (fun d k => saveLine d (spAddr t (64 * k)) (a + 0x10000 + 64 * k)) d

/-- Write the whole image, its header last, with the digest over everything from 0x0100. -/
def saveImage (d : Dev) (p : Nat) : Dev :=
  let b := imageBase d p
  let ts := tilesOf d p
  let d := putLines d (b + 0x100) (imageTables d p)
  let d := ts.zipIdx.foldl (fun d x => saveTile d x.1 (b + 0x10000 + x.2 * 0x190000)) d
  let dig := sha384 (getBytes d (b + 0x100) (imageLength ts.length - 0x100))
  let head := packFields [
    (0, 32, 1), (0x20, 8, p), (0x28, 8, bit (sealedNow d p)), (0x30, 16, rd d .meshNodeId), (0x40, 32, ts.length),
    (0x60, 32, (ringsSaved d p).length), (0x80, 32, (cqsSaved d p).length), (0xA0, 32, (eqsSaved d p).length),
    (0xC0, 64, imageLength ts.length), (0x100, 384, dig)]
  putLines d b (toBytes 256 head)

/-- SAVE: a frozen partition whose image fits in HBM4. -/
def saveGo (d : Dev) (p : Nat) : Dev :=
  if isSet d .partStatusBusy p then d
  else if rd d .partStatusState p ≠ 2 ∨ imageBase d p + imageLength (tilesOf d p).length > hbmEnd then partResult d p 0xEA
  else wr d .partStatusBusy p 1

/-- SAVE (R455). -/
def execSave (part : Nat) (s : State) : Host.Outcome State Fault Refusal :=
  drv s "SAVE" (decide (part < partitions)) (saveGo s.dev part)

/-- Whether a SAVE, or a RESTORE, of a partition is in progress. -/
def busyWith (d : Dev) (p : Nat) (restore : Bool) : Bool :=
  decide (p < partitions) && isSet d .partStatusBusy p && d.parts.restoring.contains p == restore

/-- SAVE_DONE (R455). -/
def execSaveDone (part : Nat) (s : State) : Host.Outcome State Fault Refusal :=
  act s "SAVE_DONE" (busyWith s.dev part false) (partResult (wr (saveImage s.dev part) .partStatusBusy part 0) part 0)

/-! ### Restoring (R456) -/

/-- RESTORE: a frozen partition. -/
def restoreGo (d : Dev) (p : Nat) : Dev :=
  if isSet d .partStatusBusy p then d
  else if p = 0 ∨ rd d .partStatusState p ≠ 2 then partResult d p 0xEA
  else onParts (wr d .partStatusBusy p 1) fun b => { b with restoring := p :: b.restoring }

/-- RESTORE (R445, R456). -/
def execRestore (part : Nat) (s : State) : Host.Outcome State Fault Refusal :=
  drv s "RESTORE" (decide (part < partitions)) (restoreGo s.dev part)

/-- The first `n` records of 16 bytes at an image offset. -/
def recordsAt (d : Dev) (a n : Nat) : List Nat := (List.range n).map fun i => fromBytes (getBytes d (a + 16 * i) 16)

/-- Whether the header, the length and the digest hold. -/
def imageSound (d : Dev) (p : Nat) : Bool :=
  let b := imageBase d p
  let h := fromBytes (getBytes d b 256)
  let n := cut h 0x40 32
  decide (b + 256 ≤ hbmEnd) && cut h 0 32 == 1 && cut h 0xC0 64 == imageLength n && decide (b + imageLength n ≤ hbmEnd)
    && decide (cut h 0x60 32 ≤ 64 ∧ cut h 0x80 32 ≤ 1024 ∧ cut h 0xA0 32 ≤ 256)
    && cut h 0x100 384 == sha384 (getBytes d (b + 0x100) (imageLength n - 0x100))

/-- Whether the target owns exactly the image's tiles, and its queues are there in state 0. -/
def imageFits (d : Dev) (p : Nat) : Bool :=
  let b := imageBase d p
  let h := fromBytes (getBytes d b 256)
  let n := cut h 0x40 32
  let okRing := fun (x : Nat) => let r := cut x 0 16
    decide (r < rings) && ringOwned d p r && rd d .ringStateState r == 0 && decide (6 ≤ rd d .ringCfgLog2Size r ∧ rd d .ringCfgLog2Size r ≤ 16)
  let okCq := fun (x : Nat) => let c := cut x 0 16
    decide (c < cqs) && cqOwned d p c && rd d .cqState c == 0 && decide (6 ≤ rd d .cqLog2Size c ∧ rd d .cqLog2Size c ≤ 16)
  let okEq := fun (x : Nat) => let e := cut x 0 16
    decide (e < eqs) && eqOwned d p e && rd d .eqState e == 0 && decide (6 ≤ rd d .eqLog2Size e ∧ rd d .eqLog2Size e ≤ 16)
  ((List.range n).map fun i => fromBytes (getBytes d (b + 0x10000 + i * 0x190000) 2)) == tilesOf d p
    && (recordsAt d (b + 0x100) (cut h 0x60 32)).all okRing && (recordsAt d (b + 0x500) (cut h 0x80 32)).all okCq
    && (recordsAt d (b + 0x4500) (cut h 0xA0 32)).all okEq

/-- Write one line of a scratchpad; a poisoned image line poisons the words it holds. -/
def restoreLine (d : Dev) (src dst : Nat) : Dev :=
  match memRead d src 64 with
  | (d, none, bs) => putLines d dst bs
  | (d, some _, bs) => (List.range 8).foldl (fun d k => poison d (place d dst) (dst + 8 * k) none) (putLines d dst bs)

def restoreTile (d : Dev) (t a : Nat) : Dev :=
  let d := (List.range (spBytes / 64)).foldl (fun d k => restoreLine d (a + 0x10000 + 64 * k) (spAddr t (64 * k))) d
  let n := fromBytes (getBytes d (a + 2) 2)
  (recordsAt d (a + 0x40) (min n 64)).foldl
    (fun d x => if 8 * cut x 0 32 < spBytes then onDisp d fun s => { s with tokens := put s.tokens (spAddr t 0 + 8 * cut x 0 32) (cut x 64 64) } else d) d

def restoreRing (d : Dev) (p x : Nat) : Dev :=
  let r := cut x 0 16
  let d := wr (wr (wr (wr d .ringStateState r (cut x 16 2)) .ringStateLastCause r (cut x 24 8)) .ringHeadIndex r (cut x 32 32))
    .ringHeadExpectedPhase r (cut x 64 1)
  if cut x 16 2 = 0 then d else bump (wr d .ringStateEnable r 1) .partCountRings p

def restoreCq (d : Dev) (p x : Nat) : Dev :=
  let c := cut x 0 16
  let d := wr (wr (wr (wr (wr (wr d .cqEnable c 1) .cqState c (cut x 16 2)) .cqLastCause c (cut x 24 8)) .cqProducer c (cut x 32 32))
    .cqConsumer c (cut x 64 32)) .cqArmed c (cut x 96 1)
  onHl (bump d .partCountCqs p) fun h => { h with cqArmIndex := putD h.cqArmIndex c (cut x 64 32) 0 }

def restoreEq (d : Dev) (p x : Nat) : Dev :=
  let e := cut x 0 16
  let d := wr (wr (wr (wr (wr (wr d .eqEnable e 1) .eqState e (cut x 16 2)) .eqLastCause e (cut x 24 8)) .eqProducer e (cut x 32 32))
    .eqConsumer e (cut x 64 32)) .eqArmed e (cut x 96 1)
  bump d .partCountEqs p

/-- Restore a checked image. -/
def restoreImage (d : Dev) (p : Nat) : Dev :=
  let b := imageBase d p
  let h := fromBytes (getBytes d b 256)
  let q := fromBytes (getBytes d (b + 0x5500) 16)
  let d := (tilesOf d p).zipIdx.foldl (fun d x => restoreTile d x.1 (b + 0x10000 + x.2 * 0x190000)) d
  let d := (recordsAt d (b + 0x100) (cut h 0x60 32)).foldl (fun d x => restoreRing d p x) d
  let d := (recordsAt d (b + 0x500) (cut h 0x80 32)).foldl (fun d x => restoreCq d p x) d
  let d := (recordsAt d (b + 0x4500) (cut h 0xA0 32)).foldl (fun d x => restoreEq d p x) d
  wr (wr d .transportCollQHead p (cut q 0 32)) .transportCollQExpectedPhase p (cut q 32 1)

def restoreDone (d : Dev) (p : Nat) : Dev :=
  let d := onParts (wr d .partStatusBusy p 0) fun b => { b with restoring := b.restoring.filter (· ≠ p) }
  if !imageSound d p then partResult d p 0xEB
  else if !imageFits d p then partResult d p 0xEA
  else partResult (restoreImage d p) p 0

/-- RESTORE_DONE (R456). -/
def execRestoreDone (part : Nat) (s : State) : Host.Outcome State Fault Refusal :=
  act s "RESTORE_DONE" (busyWith s.dev part true) (restoreDone s.dev part)

/-! ### Thawing (R457) -/

/-- A FROZEN queue pair goes to READY, or to ERROR where a check of READY fails. -/
def thawQp (d : Dev) (n : Nat) : Dev :=
  match loadQp d n with
  | (d, .ok q) =>
    if q.state ≠ 6 then d
    else
      let ds : Dev × List Nat := match liveOf d q.pathSet with
        | some l => (d, l.descs)
        | none => readSet d q.pathSet
      let d := ds.1
      if !readyOk d n { q with state := 4 } ds.2 then qpError d n 0x2D
      else
        match makeLive d q.pathSet n with
        | (d, none) => qpError d n 0x2D
        | (d, some slot) =>
          let d := modLive d q.pathSet fun l => { l with paths := l.descs.map (freshPath d) }
          let d := takeWnd (setSticky (setQp d n { q with state := 2, liveSlot := slot, baseRtt := 0xFFFFFFFF })) n
          pathsLostCheck (wr d .yewSlotUserQpn q.txSlot n) q.pathSet
  | (d, .wait) => awaitCtx d n .thaw
  | (d, _) => d

/-- Fetch resumes on every queue of a partition that may run. -/
def fetchAll (d : Dev) (p : Nat) : Dev :=
  let d := ((List.range rings).filter fun r => ringOwned d p r && rd d .ringStateState r == 1).foldl (fun d r => ringGo d r 64) d
  let d := ((d.tr.qps.filter fun e => e.2.part = p && e.2.state = 2).map (·.1)).foldl (fun d n => rqGo (sqGo d n 64) n 64) d
  pumpAll (collGo d p 64)

/-- THAW. -/
def thawGo (d : Dev) (p : Nat) : Dev :=
  if isSet d .partStatusBusy p then d
  else if rd d .partStatusState p ≠ 2 then partResult d p 0xEA
  else
    let d := ((qpsOf d p).filter fun x => x.2.state = 6).foldl (fun d x => thawQp d x.1) d
    fetchAll (partResult (wr d .partStatusState p 0) p 0) p

/-- THAW (R457). -/
def execThaw (part : Nat) (s : State) : Host.Outcome State Fault Refusal :=
  drv s "THAW" (decide (part < partitions)) (thawGo s.dev part)

/-! ### Sealing (R449) -/

def setSealed (d : Dev) (p v : Nat) : Dev :=
  dropIneligible (wr (wr (wr d .yewSealStatusSealed p v) .partStatusSealed p v) .yewSealStatusLost p 0)

/-- SEAL: every condition of R439 and R449 at once. -/
def sealGo (d : Dev) (p : Nat) : Dev :=
  if isSet d .partStatusBusy p then d
  else if p = 0 then partResult d p 0xEA
  else if (sealConds d p).all id then partResult (setSealed d p 1) p 0
  else partResult d p 0x88

/-- SEAL (R445, R449). -/
def execSealPartition (part : Nat) (s : State) : Host.Outcome State Fault Refusal :=
  drv s "SEAL" (decide (part < partitions)) (sealGo s.dev part)

/-- UNSEAL takes effect at once and leaves every setting in place. -/
def unsealGo (d : Dev) (p : Nat) : Dev :=
  if isSet d .partStatusBusy p then d else partResult (setSealed d p 0) p 0

/-- UNSEAL (R449). -/
def execUnsealPartition (part : Nat) (s : State) : Host.Outcome State Fault Refusal :=
  drv s "UNSEAL" (decide (part < partitions)) (unsealGo s.dev part)

end Sys2Proof.Machine
end

