-- ==== Sys2Proof/Machine/Contexts.lean ====
section
/-!
DEFINITION. A queue-pair context that has been fetched (R325, R326): the packets of the miss park and the users that waited
for it go on.
-/
namespace Sys2Proof.Machine

/-- Take a queue pair's packets out of the park. -/
def unpark (d : Dev) (n : Nat) : Dev × List RxPkt :=
  let mine := d.tr.parked.filter fun r => r.p.destQpn = n
  let d := onTr d fun t => { t with parked := t.parked.filter (fun r => r.p.destQpn ≠ n), fetching := t.fetching.filter (· ≠ n) }
  (wr d .transportMissParkLevel 0 (parkLevel d), mine)

/-- An operation of an engine that waited for a context starts, or ends with its cause. -/
def messageGo (d : Dev) (p n : Nat) (m : SendMsg) : Dev :=
  match startOn d p n m with
  | (d, 0) => d
  | (d, c) => endMsg (newMsg d m) { m with id := d.tr.nextMsgId } c

/-- A user of a context goes on. -/
def userGo (n : Nat) (d : Dev) (u : CtxUser) : Dev :=
  match u with
  | .command op addr =>
    let d := wr d .transportQpCmdBusy 0 0
    (match op with
     | 1 => writeContextEffect d n addr
     | 2 => readContextEffect d n addr
     | 3 => readyEffect d n
     | 4 => drainEffect d n
     | 5 => qpErrorEffect d n
     | _ => qpResetEffect d n)
  | .doorbell win width val => qpDbEffect d win width val (bitOf val 56)
  | .message p m => messageGo d p n m
  | .refetch rq w => if rq then rqGo d n w else sqGo d n w
  | .group g => groupLoadEffect (wr d .transportCollCmdBusy 0 0) g
  | .error c => qpError d n c
  | .thaw => thawQp d n

/-- Every user that waited for a context goes on, in order. -/
def usersGo (d : Dev) (n : Nat) : Dev :=
  let mine := (d.tr.ctxWait.filter fun w => w.1 = n).map (·.2)
  mine.foldl (userGo n) (onTr d fun t => { t with ctxWait := t.ctxWait.filter fun w => w.1 ≠ n })

/-- A context's fetch has ended; one that still finds no room, or no module of the host link up, goes on waiting. -/
def fetchDone (d : Dev) (n : Nat) : Dev :=
  match loadQp d n with
  | (d, .wait) => d
  | (d, .ok _) => let u := unpark d n; usersGo (onTr u.1 fun t => { t with rx := u.2 ++ t.rx }) n
  | (d, .noContext) => usersGo (unpark d n).1 n
  | (d, _) => let u := unpark d n; usersGo (bump u.1 .transportCtxFetchFails 0 u.2.length) n

/-- CONTEXT_FETCH_DONE (R325, R326). -/
def execContextFetchDone (qpn : Nat) (s : State) : Host.Outcome State Fault Refusal :=
  act s "CONTEXT_FETCH_DONE" (s.dev.tr.fetching.contains qpn || s.dev.tr.ctxWait.any fun w => w.1 == qpn) (fetchDone s.dev qpn)

end Sys2Proof.Machine
end

