-- ==== Sys2Proof/Machine/FailUnits.lean ====
section
/-!
DEFINITION. Failures of whole units: memory units and crossings (R511, R512), the device halt (R513), and the entry into
holdback with the dies switched off (R471, R496, R513).
-/
namespace Sys2Proof.Machine

/-! ### Holdback -/

/-- The dies lose power: what they hold beside their registers is gone, the links are down (R471). -/
def diesOff (d : Dev) : Dev :=
  let d := { d with
    mem := { ddrGib := d.mem.ddrGib, ddrX8 := d.mem.ddrX8, host := d.mem.host }, xl := {}, hl := { refusing := d.hl.refusing }, disp := {}, tr := {}, top := {}, att := {}, mesh := {}, coll := {}, acc := { alertNs := d.acc.alertNs },
    yew := {}, pwr := { samples := d.pwr.samples }, safe := { lost := d.safe.lost } }
  let d := wr (wr (wr d .hlStatusMod0 0 0) .hlStatusMod1 0 0) .hlStatusAttached 0 0
  (List.range 32).foldl (fun d s => wr d .portsubLinkState s 0) d

/-- Enter holdback with a cause (R471). -/
def holdback (d : Dev) (cause : Nat) : Dev :=
  let d := alert (diesOff d) 0
  wr (wr (wr d .bootStatusStage 0 15) .bootStatusHoldback 0 1) .bootStatusCause 0 cause

/-! ### Halt (R513) -/

/-- A class 23 fault of a die (the identifiers of R514): everything stops; the event is written, and the
host link kept up, while the Laurel die works. -/
def halt (d : Dev) (die : Nat) (laurelWorks : Bool) : Dev :=
  let d := wr (wr (wr d .safetyStatusHalted 0 1) .safetyStatusHaltCause 0 0xFD) .safetyStatusHaltDie 0 die
  let d := alert d 1
  if !laurelWorks then wr (wr d .hlStatusMod0 0 0) .hlStatusMod1 0 0 else faultEvent d 0 die 0xFD 23 9 0 0

/-! ### Memory units (R511) -/

/-- Whether the journal region has bytes in a unit that has failed. -/
def journalLost (d : Dev) (t : Nat) : Bool :=
  (List.range 512).any fun k => unitFailed d (place d (rd d .dispatchJournalBase * 65536 + t * 131072 + 256 * k))

/-- Every journal window with lines in failed memory is broken. -/
def breakJournals (d : Dev) : Dev :=
  onDisp d fun s => { s with journals := s.journals.map fun e => (e.1, if journalLost d e.1 then { e.2 with broken := true } else e.2) }

/-- The event of a failed memory unit: its die, the stack, the mask of stacks. -/
def unitEvent (d : Dev) (cls q unit mask : Nat) : Dev := faultEvent d 0 (1 + q) 0xFB cls 7 unit mask

/-- An HBM4 stack fails in service. -/
def stackFail (d : Dev) (s : Nat) : Dev :=
  breakJournals (unitEvent (onMem d fun m => { m with stacksFailed := s :: m.stacksFailed }) 19 (s / 3) s (2 ^ s))

/-- A Hedge die fails in service: it is turned off with its stacks, channels and translation slice. -/
def hedgeFail (d : Dev) (q : Nat) : Dev :=
  if d.mem.hedgeFailed.contains q then d
  else
    let d := onMem d fun m => { m with hedgeFailed := q :: m.hedgeFailed }
    let d := onXl d fun x => { x with tlb := x.tlb.filter fun e => e.cache != .sliceLeaf q && e.cache != .sliceTable q }
    breakJournals (unitEvent (wr d .powerHedgeState q 4) 21 q (3 * q) (7 * 2 ^ (3 * q)))

/-! ### Crossings (R512) -/

/-- Answers of the old route epoch that would pass a crossing are discarded: their transactions end with 0xC3. -/
def dropCrossing (d : Dev) (c : Nat) : Dev :=
  let e := rd d .meshRouteCtrlEpoch
  let meets := fun (a : MeshAns) => match sideOf a.from_, sideOf a.src with
    | some x, some y => (crossings x y).contains c || (crossings x y).contains (otherEnd c)
    | _, _ => false
  let stop := fun (a : MeshAns) =>
    if a.epoch != e && meets a then { a with kind := AnsKind.error, cause := 0xC3, bytes := [], epoch := e } else a
  onMesh d fun m => { m with flight := m.flight.map stop }

/-- Every group of a crossing is lost: the Hedge die fails, or the device halts, the die it names being the design's choice of
the two that the crossing joins. -/
def crossingLost (d : Dev) (c : Nat) : Dev :=
  let d := dropCrossing d c
  if c < 8 then hedgeFail (faultEvent d 0 (1 + c % 4) 0xFC 7 4 c 0) (c % 4)
  else let x := choose d 2; halt x.2 (5 * x.1) true

end Sys2Proof.Machine
end

