-- ==== Sys2Proof/Machine/Scrub.lean ====
section
/-!
DEFINITION. Scrub and patrol (R184, R192, R193), a DDR5 channel's failure in service (R194), and compressed regions coming
and going (R198).
-/
namespace Sys2Proof.Machine

/-! ### Scrub -/

/-- Scrub one word or line: correct it, or poison it with the event `cause` names (R182 to R184, R192, R193). -/
def scrubUnit (d : Dev) (base : Nat) (cause : Option Nat) : Dev :=
  let p := place d base
  if unitFailed d p then d
  else
    match find? d.mem.ecc base with
    | some .corrected => countCe (setEcc d base none) p base
    | some .uncorrectable =>
      match tokenAt d base with
      | some v => countCe (setEcc (setBytes d base (toBytes 8 v)) base none) p base
      | none => poison d p base cause
    | _ => d

/-- Lines of a scratchpad bank. -/
def bankLines : Nat := 384

/-- Line `l` of bank `b` of a tile. -/
def bankLine (t b l : Nat) : Nat := spAddr t ((l * 64 + b) * 64)

def spScrubEffect (d : Dev) (t b : Nat) (up : List Upset) : Dev :=
  let d := strike d up
  let k := t * 64 + b
  let l := getD d.mem.spScrub k 0
  let d := (List.range 8).foldl (fun d w => scrubUnit d (bankLine t b l + 8 * w) none) d
  onMem d fun m => { m with spScrub := putD m.spScrub k ((l + 1) % bankLines) 0 }

/-- SCRATCHPAD_SCRUB (R184). -/
def execScratchpadScrub (tile bank : Nat) (up : List Upset) (s : State) : Host.Outcome State Fault Refusal :=
  act s "SCRATCHPAD_SCRUB" (decide (tile < tiles ∧ bank < 64) && domState s.dev (.tile tile) == 0) (spScrubEffect s.dev tile bank up)

/-! ### Patrols (R192) -/

/-- Lines of a Hedge die's HBM4. -/
def dieLines : Nat := 0x3000000000 / 64

/-- The `j`-th HBM4 line of a Hedge die, by the interleave mode (R187). -/
def hbmLine (d : Dev) (q j : Nat) : Nat :=
  if rd d .memoryHbmCfgInterleave = 1 then q * 0x3000000000 + 64 * j
  else let k := j / 4; (k / 3 * 12 + 3 * q + k % 3) * 256 + j % 4 * 64

def hbmPatrolEffect (d : Dev) (q : Nat) (up : List Upset) : Dev :=
  let d := strike (wake d (.hedge q)) up
  let j := getD d.mem.hbmPatrol q 0
  let d := scrubUnit d (hbmLine d q j) (some 0x67)
  onMem d fun m => { m with hbmPatrol := putD m.hbmPatrol q ((j + 1) % dieLines) 0 }

/-- HBM_PATROL (R192). -/
def execHbmPatrol (hedge : Nat) (up : List Upset) (s : State) : Host.Outcome State Fault Refusal :=
  act s "HBM_PATROL" (inRunMem s.dev && decide (hedge < 4) && rd s.dev .memoryScrubCfgHbmHours != 0 && !s.dev.mem.hedgeFailed.contains hedge)
    (hbmPatrolEffect s.dev hedge up)
where
  /-- The memories run from stage RUN on. -/
  inRunMem (d : Dev) : Bool := rd d .bootStatusStage == 8

/-- Used channels with their capacities in GiB. -/
def usedChannels (d : Dev) : List (Nat × Nat) := d.mem.ddrGib

/-- Lines of a channel. -/
def channelLines (d : Dev) (c : Nat) : Nat := getD d.mem.ddrGib c 0 * gibi / 64

/-- The DPA of a channel's byte offset (R190). -/
def channelAddr (d : Dev) (c o : Nat) : Nat :=
  let used := usedChannels d
  let n := used.length
  let m := (used.map (·.2)).foldl min (getD d.mem.ddrGib c 0) * gibi
  let rank := (used.filter fun e => decide (e.1 < c)).length
  if o < m then ddrBase + (o / 256 * n + rank) * 256 + o % 256
  else ddrBase + n * m + ((used.filter fun e => decide (e.1 < c)).map fun e => e.2 * gibi - m).sum + (o - m)

/-- The `j`-th DDR5 line of a Hedge die: its lower channel's lines, then its upper's. -/
def ddrLine (d : Dev) (q j : Nat) : Nat :=
  let a := channelLines d (2 * q)
  if j < a then channelAddr d (2 * q) (64 * j) else channelAddr d (2 * q + 1) (64 * (j - a))

def ddrLines (d : Dev) (q : Nat) : Nat := channelLines d (2 * q) + channelLines d (2 * q + 1)

def ddrPatrolEffect (d : Dev) (q : Nat) (up : List Upset) : Dev :=
  let d := strike (wake d (.hedge q)) up
  let j := getD d.mem.ddrPatrol q 0
  let d := scrubUnit d (ddrLine d q j) (some 0x67)
  onMem d fun m => { m with ddrPatrol := putD m.ddrPatrol q ((j + 1) % ddrLines d q) 0 }

/-- DDR_PATROL (R192). -/
def execDdrPatrol (hedge : Nat) (up : List Upset) (s : State) : Host.Outcome State Fault Refusal :=
  act s "DDR_PATROL"
    (rd s.dev .bootStatusStage == 8 && decide (hedge < 4) && rd s.dev .memoryScrubCfgDdrHours != 0 && decide (ddrLines s.dev hedge > 0)
      && !s.dev.mem.hedgeFailed.contains hedge)
    (ddrPatrolEffect s.dev hedge up)

/-- A DDR5 channel fails in service (R194). -/
def channelFail (d : Dev) (c : Nat) : Dev :=
  let d := wr d .memoryDdrStatState c 3
  memEvent d (.ddr c) 0x69 0 (rd d .memoryDdrStatUe c)

/-- DDR_CHANNEL_FAILURE (R194, R195). -/
def execDdrChannelFailure (channel : Nat) (s : State) : Host.Outcome State Fault Refusal :=
  act s "DDR_CHANNEL_FAILURE" (decide (channel < 8) && rd s.dev .memoryDdrStatState channel == 1)
    (channelFail s.dev channel)

/-! ### Compressed regions (R198) -/

/-- Whether two address ranges meet. -/
def meets (a n b m : Nat) : Bool := decide (a < b + m ∧ b < a + n ∧ 0 < n ∧ 0 < m)

/-- Base and bytes of a region's range. -/
def cmpSpan (d : Dev) (k : Nat) : Nat × Nat :=
  (rd d .memoryCmpRegionBase k * 65536, (rd d .memoryCmpRegionLimit k + 1 - rd d .memoryCmpRegionBase k) * 65536)

/-- Bytes of the metadata area with region `k` enabled too. -/
def cmpMetaBytes (d : Dev) (k : Nat) : Nat :=
  let all := (((List.range 16).filter fun i => i = k || isSet d .memoryCmpRegionEnable i).map fun i => (cmpSpan d i).2).sum
  (all / 1024 + 65535) / 65536 * 65536

/-- Whether enabling a region is refused. -/
def cmpRefused (d : Dev) (k : Nat) : Bool :=
  let r := cmpSpan d k
  ((List.range 16).any fun i => i != k && isSet d .memoryCmpRegionEnable i && meets r.1 r.2 (cmpSpan d i).1 (cmpSpan d i).2)
    || meets r.1 r.2 (rd d .memoryCmpMetaBase * 65536) (cmpMetaBytes d k)
    || meets r.1 r.2 (rd d .dispatchJournalBase * 65536) (tiles * 131072)
    || (decide (r.2 > 0) && (!isDram d r.1 || !isDram d (r.1 + r.2 - 1) || (decide (r.1 < hbmEnd) && decide (r.1 + r.2 > hbmEnd))))

/-- Give every chunk of an enabled region code 3. -/
def cmpExpand (d : Dev) (k : Nat) : Dev := (List.range (cmpChunks d k)).foldl (fun d c => setCode d (cmpSum d k + c) 3) d

/-- The codes of the enabled regions above region `k`, by region. -/
def codesAbove (d : Dev) (k : Nat) : List (Nat × List Nat) :=
  ((List.range 16).filter fun j => decide (k < j) && isSet d .memoryCmpRegionEnable j).map fun j =>
    (j, (List.range (cmpChunks d j)).map fun c => codeAt d (cmpSum d j + c))

/-- Codes stored at the places their regions now have. -/
def moveCodes (d : Dev) (l : List (Nat × List Nat)) : Dev :=
  l.foldl (fun d r => r.2.zipIdx.foldl (fun d c => setCode d (cmpSum d r.1 + c.2) c.1) d) d

/-- Set a region's ENABLE; the codes of the regions above it move with their S_k, so that they stay the codes of their chunks
(DEDUCED from R197: compression is lossless; log 135). -/
def setRegion (d : Dev) (k v : Nat) : Dev := moveCodes (wr d .memoryCmpRegionEnable k v) (codesAbove d k)

def cmpEnableEffect (d : Dev) (k : Nat) : Dev :=
  if isSet d .memoryCmpRegionEnable k then d
  else if cmpRefused d k then wr d .memoryCmpRegionRefused k 1
  else
    cmpExpand (wr (setRegion (wr d .memoryCmpRegionRefused k 0) k 1) .memoryCmpRegionBusy k 1) k

/-- CMP_REGION_ENABLE (R198). -/
def execCmpRegionEnable (region : Nat) (s : State) : Host.Outcome State Fault Refusal :=
  drv s "CMP_REGION_ENABLE" (decide (region < 16)) (cmpEnableEffect s.dev region)

def cmpDisableEffect (d : Dev) (k : Nat) : Dev :=
  if isSet d .memoryCmpRegionEnable k then wr (setRegion (cmpExpand d k) k 0) .memoryCmpRegionBusy k 1 else d

/-- CMP_REGION_DISABLE (R198). -/
def execCmpRegionDisable (region : Nat) (s : State) : Host.Outcome State Fault Refusal :=
  drv s "CMP_REGION_DISABLE" (decide (region < 16)) (cmpDisableEffect s.dev region)

/-- CMP_REGION_BUSY_END (R198). -/
def execCmpRegionBusyEnd (region : Nat) (s : State) : Host.Outcome State Fault Refusal :=
  act s "CMP_REGION_BUSY_END" (decide (region < 16) && isSet s.dev .memoryCmpRegionBusy region) (wr s.dev .memoryCmpRegionBusy region 0)

end Sys2Proof.Machine
end

