-- ==== Sys2Proof/Machine/DeviceFaults.lean ====
section
/-!
DEFINITION. Failures of a stack, a Hedge die, a module or the whole device (R511, R513, R549).
-/
namespace Sys2Proof.Machine

/-- HBM_STACK_FAILURE (R511). -/
def execHbmStackFailure (stack : Nat) (s : State) : Host.Outcome State Fault Refusal :=
  act s "HBM_STACK_FAILURE" (decide (stack < 12) && inRun s.dev && !unitFailed s.dev (.hbm stack)) (stackFail s.dev stack)

/-- HEDGE_DIE_FAILURE (R511). -/
def execHedgeDieFailure (hedge : Nat) (s : State) : Host.Outcome State Fault Refusal :=
  act s "HEDGE_DIE_FAILURE" (decide (hedge < 4) && inRun s.dev && !s.dev.mem.hedgeFailed.contains hedge) (hedgeFail s.dev hedge)

/-- DEVICE_HALT (R513): the Espalier die (0) or the Laurel die (5) has failed. -/
def execDeviceHalt (die : Nat) (s : State) : Host.Outcome State Fault Refusal :=
  act s "DEVICE_HALT" ((die == 0 || die == 5) && inRun s.dev) (halt s.dev die (die != 5))

/-- LOCKSTEP_MISMATCH (R513): the always-on copies disagree. -/
def execLockstepMismatch (s : State) : Host.Outcome State Fault Refusal :=
  act s "LOCKSTEP_MISMATCH" s.dev.boot.powered (holdback s.dev 0xFE)

/-- MODULE_OVER_POWER (R549): position 2c is channel c's socket A, 2c + 1 its socket B. -/
def execModuleOverPower (position : Nat) (s : State) : Host.Outcome State Fault Refusal :=
  act s "MODULE_OVER_POWER" (decide (position < 16) && s.dev.boot.powered && rd s.dev .memoryDdrStatState (position / 2) == 1)
    (channelFail s.dev (position / 2))

end Sys2Proof.Machine
end

