-- ==== Sys2Proof/Machine/Flits.lean ====
section
/-!
DEFINITION. Mesh transactions (R271 to R274): a READ, WRITE or ATOMIC at its target, the answers on their way and their
delivery, notifications and work items carried by flits, and sources' limits on outstanding transactions (R285).
-/
namespace Sys2Proof.Machine

/-! ### Starting a transaction -/

/-- Whether a source may start a transaction under its tag: an endpoint, the tag free, below its limit. -/
def mayStart (d : Dev) (f : Flit) : Bool :=
  (sideOf f.src).isSome && decide (f.txn < 2 ^ 16) && !d.mesh.waiting.any (fun w => w.1 == f.src && w.2 == f.txn) && belowLimit d f.src

/-- Whether a flit's DEST goes with its address: the endpoint that serves it, or an EID that names none, which a crossing will refuse
(R275). -/
def destOk (d : Dev) (f : Flit) (atomic : Bool) : Bool := (sideOf f.dest).isNone || endpointAt d f.addr atomic == some f.dest

/-- Whether a request flit is well formed for its operation (R271, R272). -/
def flitOk (d : Dev) (f : Flit) (op : Nat) : Bool :=
  f.op == op && f.vc == 0 && f.epoch == rd d .meshRouteCtrlEpoch && decide (f.part < 64) && destOk d f (op == 2)

/-- A transaction starts: its flit is injected, and its source waits for the response under its tag. -/
def startTxn (d : Dev) (f : Flit) : Dev :=
  onMesh (inject d f.dest) fun m => { m with waiting := if m.waiting.contains (f.src, f.txn) then m.waiting else m.waiting ++ [(f.src, f.txn)] }

/-- Start a transaction and answer it. -/
def answerFlit (d : Dev) (f : Flit) (kind : AnsKind) (cause : Nat) (bs : List Byte) : Dev :=
  sendAnswer (startTxn d f) { src := f.src, txn := f.txn, kind := kind, who := .flit f.src f.txn, cause := cause, bytes := bs, from_ := f.dest,
                              epoch := f.epoch, cong := f.cong }

/-- What a request meets before its target serves it. -/
inductive FlitRes where
  | serve
  | refuse (cause : Nat)
  | lost
deriving DecidableEq, Repr

/-- What refuses a request at a crossing or at its target: no route, a tile of another partition, a sealed boundary
(R274, R279, R440). Flits from EID 0x2005 for P0 pass the last two. -/
def flitRefusal (d : Dev) (f : Flit) : Dev × FlitRes :=
  match routeOf d f.epoch f.src f.dest with
  | .noRoute => (d, .refuse 0xC3)
  | .lost => (d, .lost)
  | .arrives =>
    if tileAbsent d f.addr then (d, .refuse 0xEC)
    else if f.src = 0x2005 ∧ f.part = 0 then (d, .serve)
    else if tileRefuses d f.part f.addr then (bump d .meshCrossPartRefused, .refuse 0xC7)
    else if sealRefuses d f.part f.addr then (bump d .yewSealRefused, .refuse 0x8A)
    else (d, .serve)

/-- A request that is refused or lost; otherwise its target serves it. -/
def serveFlit (d : Dev) (f : Flit) (serve : Dev → Dev) : Dev :=
  match flitRefusal d f with
  | (d, .refuse c) => answerFlit d f .error c []
  | (d, .lost) => startTxn d f
  | (d, .serve) => serve d

/-! ### READ -/

def readBytes (f : Flit) : Nat := cut f.payload 0 32

def flitReadEffect (d : Dev) (f : Flit) (up : List Upset) : Dev :=
  serveFlit d f fun d =>
    match memRead (strike d up) f.addr (readBytes f) with
    | (d, some c, bs) => answerFlit d f .readData c bs
    | (d, none, bs) => answerFlit d f .readData 0 bs

/-- FLIT_READ (R273, R274, R182, R193); a hole is refused before any flit is sent (R172). -/
def execFlitRead (f : Flit) (up : List Upset) (s : State) : Host.Outcome State Fault Refusal :=
  act s "FLIT_READ"
    (inRun s.dev && mayStart s.dev f && flitOk s.dev f 0 && f.last && decide (1 ≤ readBytes f ∧ readBytes f ≤ 4096)
      && !touchesHole s.dev f.addr (readBytes f))
    (flitReadEffect s.dev f up)

/-! ### WRITE -/

/-- The bytes of a write flit and where they go. -/
def writePart (f : Flit) : Nat × List Byte :=
  (f.addr + f.byteFirst, ((toBytes 32 f.payload).drop f.byteFirst).take (f.byteLast + 1 - f.byteFirst))

/-- Whose write a flit carries: that of the work item its tile's move engine runs, or no work item's (R176, R182). -/
def flitWriter (d : Dev) (f : Flit) : Writer :=
  match (if f.src < 0x480 then running? d f.src .move else none) with
  | some it => .item it.uid
  | none => .other

/-- Poison the words or lines of a range whose payload arrived poisoned (R282). -/
def poisonRange (d : Dev) (a n : Nat) : Dev :=
  (List.range n).foldl (fun d k =>
    let p := place d (a + k)
    setEcc d ((a + k) / grain p * grain p) (some .poisoned)) d

/-- The data of a transaction as the target applies it: flits that follow one another and are not poisoned make one write (R193). -/
def flitRuns : List Flit → List (Bool × Nat × List Byte)
  | [] => []
  | f :: t =>
    let w := writePart f
    match flitRuns t with
    | (false, a, bs) :: r => if f.poison ∨ a ≠ w.1 + w.2.length then (f.poison, w) :: (false, a, bs) :: r else (false, w.1, w.2 ++ bs) :: r
    | r => (f.poison, w) :: r

/-- Apply one run of a write: words lost to a collision are left out. -/
def applyRun (d : Dev) (w : Writer) (lost : List Nat) (x : Bool × Nat × List Byte) : Dev × Option Nat :=
  if x.1 then (poisonRange d x.2.1 x.2.2.length, none)
  else if lost.isEmpty then memWrite d w.uid.isSome x.2.2.length x.2.1 x.2.2
  else writeKept d w.uid.isSome lost (x.2.2.length + 1) x.2.1 x.2.2

/-- The words named as lost that lie in a scratchpad; in HBM4 and DDR5 every access is applied (R181). -/
def lostWords (d : Dev) (lost : List Nat) : List Nat :=
  (lost.map fun a => a / 8 * 8).filter fun a => match place d a with | .scratch _ _ => true | _ => false

def flitWriteEffect (d : Dev) (fs : List Flit) (up : List Upset) (lost : List Nat) : Dev :=
  match fs with
  | [] => d
  | f :: _ =>
    serveFlit d f fun d =>
      let w := flitWriter d f
      let lost := lostWords d lost
      let d := lost.foldl (fun d a => collide d w f.src a) (strike d up)
      let r := (flitRuns fs).foldl (fun (r : Dev × Option Nat) x => let y := applyRun r.1 w lost x; (y.1, r.2.orElse fun _ => y.2)) (d, none)
      match r with
      | (d, some c) => answerFlit d f .error c []
      | (d, none) => answerFlit d f .writeAck 0 []

/-- Whether write flits follow one another: 32-byte slots in order, every byte between the first and the last (R273). -/
def inOrder : List Flit → Bool
  | f :: g :: t => f.byteLast == 31 && g.addr == f.addr + 32 && g.byteFirst == 0 && inOrder (g :: t)
  | _ => true

/-- Whether flits form one write transaction (R271, R273). -/
def writeOk (d : Dev) (fs : List Flit) : Bool :=
  match fs with
  | [] => false
  | f :: _ =>
    mayStart d f && flitOk d f 1 && f.addr % 32 == 0 && inOrder fs
    && fs.all (fun g => g.op == 1 && g.src == f.src && g.dest == f.dest && g.txn == f.txn && g.epoch == f.epoch && g.part == f.part
        && decide (g.byteFirst ≤ g.byteLast ∧ g.byteLast < 32) && destOk d g false && !touchesHole d (writePart g).1 (writePart g).2.length)
    && (fs.getLast?.any (·.last)) && !(fs.dropLast.any (·.last))

/-- FLIT_WRITE (R273, R274, R176); `lost` names the words whose bytes lose a collision. -/
def execFlitWrite (fs : List Flit) (up : List Upset) (lost : List Nat) (s : State) : Host.Outcome State Fault Refusal :=
  act s "FLIT_WRITE" (inRun s.dev && writeOk s.dev fs) (flitWriteEffect s.dev fs up lost)

/-! ### ATOMIC (R179) -/

/-- An atomic at its target. One whose operand arrived poisoned is not performed and ends with 0x60: no reader uses poisoned data
(R193, R282; DEDUCED, log 133). -/
def atomicEffect (d : Dev) (f : Flit) : Dev :=
  serveFlit d f fun d =>
    if f.poison then answerFlit d f .error 0x60 []
    else
      match memAtomic d f.atomic f.addr (cut f.payload 0 64) (cut f.payload 64 64) with
      | (d, some c, _) => answerFlit d f .error c []
      | (d, none, old) => answerFlit d f .atomicResult 0 (toBytes 8 (if f.atomic = 0 then 0 else old))

/-- Whether a flit is an atomic of a code on an aligned word that exists; any other is refused at its requester. -/
def atomicOk (d : Dev) (f : Flit) (code : Nat) : Bool :=
  inRun d && mayStart d f && flitOk d f 2 && f.last && f.atomic == code && f.addr % 8 == 0 && !touchesHole d f.addr 8

/-- ATOMIC_ADD (R179, R178). -/
def execAtomicAdd (f : Flit) (s : State) : Host.Outcome State Fault Refusal :=
  act s "ATOMIC_ADD" (atomicOk s.dev f 0) (atomicEffect s.dev f)

/-- ATOMIC_FETCH_ADD (R179). -/
def execAtomicFetchAdd (f : Flit) (s : State) : Host.Outcome State Fault Refusal :=
  act s "ATOMIC_FETCH_ADD" (atomicOk s.dev f 1) (atomicEffect s.dev f)

/-- ATOMIC_SWAP (R179). -/
def execAtomicSwap (f : Flit) (s : State) : Host.Outcome State Fault Refusal :=
  act s "ATOMIC_SWAP" (atomicOk s.dev f 2) (atomicEffect s.dev f)

/-- ATOMIC_CAS (R179). -/
def execAtomicCas (f : Flit) (s : State) : Host.Outcome State Fault Refusal :=
  act s "ATOMIC_CAS" (atomicOk s.dev f 3) (atomicEffect s.dev f)

/-- ATOMIC_UMAX (R179). -/
def execAtomicUmax (f : Flit) (s : State) : Host.Outcome State Fault Refusal :=
  act s "ATOMIC_UMAX" (atomicOk s.dev f 4) (atomicEffect s.dev f)

/-- ATOMIC_UMIN (R179). -/
def execAtomicUmin (f : Flit) (s : State) : Host.Outcome State Fault Refusal :=
  act s "ATOMIC_UMIN" (atomicOk s.dev f 5) (atomicEffect s.dev f)

/-- ATOMIC_AND (R179). -/
def execAtomicAnd (f : Flit) (s : State) : Host.Outcome State Fault Refusal :=
  act s "ATOMIC_AND" (atomicOk s.dev f 6) (atomicEffect s.dev f)

/-- ATOMIC_OR (R179). -/
def execAtomicOr (f : Flit) (s : State) : Host.Outcome State Fault Refusal :=
  act s "ATOMIC_OR" (atomicOk s.dev f 7) (atomicEffect s.dev f)

/-! ### Answers -/

/-- The oldest answer of a kind on its way to a transaction. -/
def answerOf (d : Dev) (kind : AnsKind) (src txn : Nat) : Option MeshAns :=
  d.mesh.flight.find? fun a => a.kind = kind && a.src == src && a.txn == txn

/-- A source's limit after a response (R285). -/
def noteLimit (d : Dev) (a : MeshAns) : Dev :=
  let x := limitOf d a.src
  let y : SrcLimit :=
    if a.cong then
      if x.since ≥ 64 then { limit := max (rd d .meshCongMinOut) (x.limit / 2), since := 0 } else { x with since := x.since + 1 }
    else { limit := max x.limit (min (rd d .meshCongMaxOut) (x.limit + 1)), since := min 64 (x.since + 1) }
  onMesh d fun m => { m with limits := put m.limits a.src y }

/-- A REMOTE transaction of a source has its response. -/
def remoteBack (d : Dev) (a : MeshAns) : Dev :=
  match a.who with
  | .flit _ _ => d
  | _ => onMesh d fun m => { m with remoteOut := putD m.remoteOut a.src (getD m.remoteOut a.src 0 - 1) 0 }

/-- A transaction's source takes its answer. -/
def takeAnswer (d : Dev) (a : MeshAns) : Dev :=
  let d := remoteBack d a
  match a.who with
  | .piece uid => pieceAnswered d uid a.dest a.cause a.bytes
  | .signal uid => signalAnswered d uid (if a.cause = 0 then 0 else 0x4C)
  | .token uid => tokenAnswered d uid a.cause
  | .pull uid seq => pullAnswered d uid seq a.cause a.bytes
  | .flit src txn =>
    if d.mesh.waiting.contains (src, txn) then
      emit (onMesh d fun m => { m with waiting := m.waiting.erase (src, txn) }) (.meshDone src txn a.cause a.bytes)
    else d

/-- A flit of an answer reaches its source, or is discarded for want of a route (R279). The answer is complete with its last flit. -/
def deliverAnswer (d : Dev) (a : MeshAns) : Dev :=
  let d' := onMesh d fun m => { m with flight := m.flight.erase a }
  match routeOf d a.epoch a.from_ a.src with
  | .noRoute => bump d' .meshNoRouteDrops
  | .lost => d'
  | .arrives =>
    if a.left > 1 then onMesh d fun m => { m with flight := m.flight.map fun x => if x = a then { x with left := x.left - 1 } else x }
    else takeAnswer (noteLimit d' a) a

/-- The meaning of an answer's row: its next flit arrives. -/
def answerRow (s : State) (name : String) (kind : AnsKind) (src txn : Nat) : Host.Outcome State Fault Refusal :=
  act s name (inRun s.dev && (answerOf s.dev kind src txn).isSome)
    (match answerOf s.dev kind src txn with
     | some a => deliverAnswer s.dev a
     | none => s.dev)

/-- READ_DATA (R273, R274, R285). -/
def execReadData (src txn : Nat) (s : State) : Host.Outcome State Fault Refusal := answerRow s "READ_DATA" .readData src txn

/-- WRITE_ACK (R273, R285). -/
def execWriteAck (src txn : Nat) (s : State) : Host.Outcome State Fault Refusal := answerRow s "WRITE_ACK" .writeAck src txn

/-- ATOMIC_RESULT (R272, R291). -/
def execAtomicResult (src txn : Nat) (s : State) : Host.Outcome State Fault Refusal := answerRow s "ATOMIC_RESULT" .atomicResult src txn

/-- ERROR_FLIT (R272, R279, R292). -/
def execErrorFlit (src txn : Nat) (s : State) : Host.Outcome State Fault Refusal := answerRow s "ERROR_FLIT" .error src txn

/-- The oldest notification on its way to a row's dispatcher. -/
def notifyFront (d : Dev) (row : Nat) : Option Notify := d.disp.notifies.find? fun n => n.row = row

/-- A notification is discarded: the row's waiters go on seeing what the last to arrive said. -/
def dropNotify (d : Dev) (n : Notify) : Dev :=
  onDisp d fun x => { x with
    notifies := x.notifies.erase n
    stale := if (find? x.stale n.addr).isSome then x.stale else put x.stale n.addr n.old }

/-- A notification arrives from the always-on domain, or is discarded for want of a route (R270, R279). -/
def notifyArrives (d : Dev) (n : Notify) : Dev :=
  match routeOf d n.epoch 0x2005 (0x800 + n.row) with
  | .arrives => onDisp d fun x => { x with notifies := x.notifies.erase n, stale := del x.stale n.addr }
  | .noRoute => bump (dropNotify d n) .meshNoRouteDrops
  | .lost => dropNotify d n

/-- TOKEN_NOTIFY (R272, R116): the oldest notification on its way to a row's dispatcher arrives. -/
def execTokenNotify (row : Nat) (s : State) : Host.Outcome State Fault Refusal :=
  act s "TOKEN_NOTIFY" (inRun s.dev && (notifyFront s.dev row).isSome)
    (match notifyFront s.dev row with
     | some n => notifyArrives s.dev n
     | none => s.dev)

/-- The oldest work item or journal entry on its way to a tile. -/
def carriedFront (d : Dev) (t : Nat) : Option Carried := d.disp.carried.find? fun c => c.tile = t && !c.lost

/-- WORK_ITEM (R272): the oldest work item or journal entry on its way to a tile arrives in its lane. -/
def execWorkItem (dest : Nat) (s : State) : Host.Outcome State Fault Refusal :=
  act s "WORK_ITEM" (inRun s.dev && (carriedFront s.dev dest).isSome)
    (match carriedFront s.dev dest with
     | some c => onDisp s.dev fun x => { x with carried := x.carried.erase c }
     | none => s.dev)

/-- TXN_TIMEOUT (R282): a transaction without a response ends with 0xC8; REMOTE transactions are not covered. -/
def execTxnTimeout (src txn : Nat) (s : State) : Host.Outcome State Fault Refusal :=
  act s "TXN_TIMEOUT" (inRun s.dev && s.dev.mesh.waiting.contains (src, txn))
    (emit (onMesh s.dev fun m => { m with waiting := m.waiting.erase (src, txn) }) (.meshDone src txn 0xC8 []))

/-- A flit on its way to an endpoint. -/
inductive OnWay where
  | answer (a : MeshAns)
  | request (r : Remote)
  | notify (n : Notify)
  | pair (c : Carried)

/-- What is on its way to an endpoint: answers and work items, notifications to a row, REMOTE requests to the transport engine. -/
def onWay (d : Dev) (eid : Nat) : List OnWay :=
  (d.mesh.flight.filter fun a => a.src = eid).map .answer ++ (d.disp.remotes.filter fun r => r.flits.any fun f => f.dest = eid).map .request
    ++ (d.disp.notifies.filter fun n => 0x800 + n.row = eid).map .notify ++ (d.disp.carried.filter fun c => c.tile = eid && !c.lost).map .pair

/-- A flit is discarded, and what it belongs to never arrives. -/
def discardFlit (d : Dev) : OnWay → Dev
  | .answer a => onMesh d fun m => { m with flight := m.flight.erase a }
  | .request r => onDisp d fun x => { x with remotes := x.remotes.erase r }
  | .notify n => dropNotify d n
  | .pair c => onDisp d fun x => { x with carried := x.carried.map fun y => if y = c then { y with lost := true } else y }

/-- A flit with an uncorrectable header word is discarded at an endpoint, counted and reported (R282): any of those on their way there. -/
def headerError (d : Dev) (eid : Nat) : Dev :=
  let k := choose d (onWay d eid).length
  let d := match (onWay d eid)[k.1]? with
    | some x => discardFlit k.2 x
    | none => d
  let d := bump d .meshHeaderDrops
  fabricEvent d 0xC6 (some eid) 0 0 (rd d .meshHeaderDrops)

/-- FLIT_HEADER_ERROR (R282). -/
def execFlitHeaderError (eid : Nat) (s : State) : Host.Outcome State Fault Refusal :=
  cmd s "FLIT_HEADER_ERROR" ((sideOf eid).isSome) (headerError s.dev eid)

end Sys2Proof.Machine
end

