-- ==== Sys2Proof/Machine/RegMap.lean ====
section
/-!
DEFINITION. Where the entries of the register fields lie in the control window (R528, R530).
-/
namespace Sys2Proof.Machine

/-- How many entries an array of fields has. -/
def dimSize (l : List (Nat × Nat)) : Nat := l.foldl (fun a x => a * x.1) 1

/-- Bits from entry 0 of an array to entry `i`, counted with the innermost dimension fastest. -/
def entryBits : List (Nat × Nat) → Nat → Nat
  | [], _ => 0
  | (_, st) :: rest, i => i / dimSize rest * st + entryBits rest (i % dimSize rest)

/-- Control-window offset of the register that holds entry `i` of a field. -/
def regOffset (f : Fld) (i : Nat) : Nat :=
  let b := (f.info.base + entryBits f.info.dims i) / 8
  if f = .hlPeerRidId ∨ f = .hlPeerRidValid then b / 4 * 4 else b / 8 * 8

/-- Entries of an array whose first bit lies in bits [lo, hi), with that bit; `pos` is the first bit of the entries
numbered from `flat`. -/
def entriesIn (lo hi : Nat) : List (Nat × Nat) → Nat → Nat → List (Nat × Nat)
  | [], pos, flat => if lo ≤ pos ∧ pos < hi then [(flat, pos)] else []
  | (n, st) :: rest, pos, flat =>
    if hi ≤ pos then []
    else
      let a := (lo - pos) / st
      let b := min ((hi - 1 - pos) / st + 1) n
      ((List.range (b - a)).map (a + ·)).flatMap fun i => entriesIn lo hi rest (pos + i * st) (flat * n + i)

/-- A field entry found at a place of the control window: its field, its number, its first bit. -/
structure FldAt where
  fld : Fld
  idx : Nat
  pos : Nat
deriving DecidableEq, Repr

/-- The entries of a field that begin in bits [lo, hi) of the control window. -/
def fldIn (lo hi : Nat) (f : Fld) : List FldAt :=
  (entriesIn lo hi f.info.dims f.info.base 0).map fun e => { fld := f, idx := e.1, pos := e.2 }

/-- Every field entry that begins in the `n` bytes from offset `off`. -/
def fieldsAt (off n : Nat) : List FldAt := allFlds.flatMap (fldIn (8 * off) (8 * off + 8 * n))

end Sys2Proof.Machine
end

