-- ==== Sys2Proof/Machine/Routing.lean ====
section
/-!
DEFINITION. Link groups (R38, R281), route changes (R286 to R289) and the node-map cache (R290).
-/
namespace Sys2Proof.Machine

/-! ### Link groups -/

/-- Take a link group down at both ends (R281); the last one takes the crossing with it (R512). -/
def groupDown (d : Dev) (c g : Nat) : Dev :=
  let off := fun (d : Dev) (c : Nat) => if bitOf (rd d .meshLinkStatusUp c) g then wr d .meshLinkStatusUp c (rd d .meshLinkStatusUp c - 2 ^ g) else d
  let d := regroup (regroup (off (off d c) (otherEnd c)) c g) (otherEnd c) g
  let d := fabricEvent d 0xC5 none c g (rd d .meshLinkReplays)
  if rd d .meshLinkStatusUp c = 0 then crossingLost d c else d

def groupUp (d : Dev) (c g : Nat) : Bool := decide (c < 10 ∧ g < groupsOf c) && bitOf (rd d .meshLinkStatusUp c) g

/-- A group replays; more than 16 replays within 1 ms take it down. -/
def crcFail (d : Dev) (c g : Nat) : Dev :=
  let d := bump d .meshLinkReplays
  let k := min c (otherEnd c) * 64 + g
  let l := d.upNs :: (getD d.mesh.replays k []).filter fun t => decide (d.upNs - t < 1000000)
  let d := onMesh d fun m => { m with replays := put m.replays k l }
  if l.length > 16 then groupDown d c g else d

/-- DIE_LINK_CRC_FAIL (R281). -/
def execDieLinkCrcFail (crossing group : Nat) (s : State) : Host.Outcome State Fault Refusal :=
  evt s "DIE_LINK_CRC_FAIL" (decide (crossing < 10 ∧ group < groupsOf crossing)) (diesOn s.dev && groupUp s.dev crossing group) (crcFail s.dev crossing group)

/-- DIE_LINK_LOCK_LOSS (R281). -/
def execDieLinkLockLoss (crossing group : Nat) (s : State) : Host.Outcome State Fault Refusal :=
  evt s "DIE_LINK_LOCK_LOSS" (decide (crossing < 10 ∧ group < groupsOf crossing)) (diesOn s.dev && groupUp s.dev crossing group) (groupDown s.dev crossing group)

/-! ### Directions (R38) -/

/-- Groups of 34 for one direction, in proportion to the queued flits, 2 to 32; the design picks how it rounds. -/
def share (d : Dev) (a b : Nat) : Nat × Dev :=
  let c := choose d 2
  (clampTo 2 32 ((34 * a + (a + b - 1) * c.1) / (a + b)), c.2)

/-- Reverse one group of a set, of the design's choice; it carries neither direction until its reversal ends. -/
def reverseOne (q : Nat) (set : List Nat) (d : Dev) : Dev × List Nat :=
  let c := choose d set.length
  match set[c.1]? with
  | some g => (onMesh c.2 fun m => { m with reversing := put m.reversing q (getD m.reversing q 0 ||| 2 ^ g) }, set.filter (· ≠ g))
  | none => (c.2, set)

def reverseMany (q : Nat) : Nat → List Nat → Dev → Dev
  | 0, _, d => d
  | n + 1, set, d => let r := reverseOne q set d; reverseMany q n r.2 r.1

/-- Re-balance the directions of a Hedge die's groups; groups in reversal already count for the direction they go to. -/
def rebalance (d : Dev) (q toQ fromQ : Nat) : Dev :=
  if toQ + fromQ = 0 then d
  else
    let s := share d toQ fromQ
    let d := s.2
    let rev := getD d.mesh.reversing q 0
    let dir := towardHedge d q
    let idle := (List.range 34).filter fun g => !bitOf rev g
    let to_ := idle.filter (bitOf dir)
    let from_ := idle.filter fun g => !bitOf dir g
    let turning := (List.range 34).filter (bitOf rev)
    let have_ := to_.length + (turning.filter fun g => !bitOf dir g).length
    if have_ < s.1 then reverseMany q (min (s.1 - have_) (from_.length - 2)) from_ d
    else reverseMany q (min (have_ - s.1) (to_.length - 2)) to_ d

/-- LINK_DIRECTION_REBALANCE (R38): the operands are the flits queued in each direction. -/
def execLinkDirectionRebalance (hedge toHedge fromHedge : Nat) (s : State) : Host.Outcome State Fault Refusal :=
  evt s "LINK_DIRECTION_REBALANCE" (decide (hedge < 4)) (diesOn s.dev) (rebalance s.dev hedge toHedge fromHedge)

def reversing (d : Dev) (q g : Nat) : Bool := decide (q < 4 ∧ g < 34) && bitOf (getD d.mesh.reversing q 0) g

/-- A reversed group carries the other direction. -/
def reversalEnd (d : Dev) (q g : Nat) : Dev :=
  onMesh d fun m => { m with
    reversing := putD m.reversing q (getD m.reversing q 0 - 2 ^ g) 0
    toHedge := put m.toHedge q (towardHedge d q ^^^ 2 ^ g) }

/-- LINK_GROUP_REVERSAL_END (R38). -/
def execLinkGroupReversalEnd (hedge group : Nat) (s : State) : Host.Outcome State Fault Refusal :=
  act s "LINK_GROUP_REVERSAL_END" (reversing s.dev hedge group) (reversalEnd s.dev hedge group)

/-! ### Route changes (R286 to R289) -/

/-- Whether a command is discarded with 0xC9 (R288). -/
def routeBad (c : RouteCmd) : Bool :=
  c.cmd >>> 15 != 0 || (!bitOf c.cmd 14 && (decide (cut c.cmd 0 4 > 9) || cut c.data 2 6 != 0 || c.data >>> 42 != 0
    || decide (cut c.data 8 34 ≥ 2 ^ groupsOf (cut c.cmd 0 4))))

/-- PENDING follows the queue. -/
def showQueue (d : Dev) : Dev := wr d .meshRouteCtrlPending 0 d.mesh.routeQ.length

/-- Whether the change queue has room. -/
def routeRoom (d : Dev) : Bool := decide (d.mesh.routeQ.length < 256)

/-- A write of ROUTE_WR_CMD enqueues a command with the present ROUTE_WR_DATA. -/
def routeEnqueue (d : Dev) (v : Nat) : Dev :=
  let d := wr (wr (wr d .meshRouteWrCmdCrossing 0 (cut v 0 4)) .meshRouteWrCmdIndex 0 (cut v 4 10)) .meshRouteWrCmdCommit 0 (cut v 14 1)
  showQueue (onMesh d fun m => { m with routeQ := m.routeQ ++ [{ cmd := v, data := rd d .meshRouteWrData }] })

/-- The command at the head of the queue, when it is a commit or an entry write as asked and may act (R287). -/
def routeFront (d : Dev) (commit : Bool) : Option RouteCmd :=
  d.mesh.routeQ.head?.filter fun c => bitOf c.cmd 14 == commit && (routeBad c || !isSet d .meshRouteCtrlDraining)

/-- Apply the command at the head. -/
def routeApply (d : Dev) (c : RouteCmd) : Dev :=
  let d := showQueue (onMesh d fun m => { m with routeQ := m.routeQ.drop 1 })
  if routeBad c then fabricEvent d 0xC9 none (cut c.cmd 0 4) 0 0
  else if bitOf c.cmd 14 then
    let d := wr (wr d .meshRouteCtrlEpoch 0 (1 - rd d .meshRouteCtrlEpoch)) .meshRouteCtrlDraining 0 1
    bump (onMesh d fun m => { m with slowSent := false }) .meshRouteChanges
  else bump (setRoute d (cut c.cmd 0 4) (1 - rd d .meshRouteCtrlEpoch) (cut c.cmd 4 10) c.data) .meshRouteChanges

/-- Flits in flight that carry the old epoch (R286): answers, requests on their way to the transport engine, notifications, and pairs
that carry work items. -/
def oldFlits (d : Dev) : Nat :=
  let e := rd d .meshRouteCtrlEpoch
  ((d.mesh.flight.filter fun a => a.epoch != e).map (·.left)).sum + ((d.disp.remotes.flatMap (·.flits)).filter fun f => f.epoch != e).length
    + (d.disp.notifies.filter fun n => n.epoch != e).length + 2 * (d.disp.carried.filter fun c => c.epoch != e && !c.lost).length

/-- ROUTE_DRAIN_COMPLETE (R287). -/
def execRouteDrainComplete (s : State) : Host.Outcome State Fault Refusal :=
  act s "ROUTE_DRAIN_COMPLETE" (isSet s.dev .meshRouteCtrlDraining && oldFlits s.dev == 0) (wr s.dev .meshRouteCtrlDraining 0 0)

/-- ROUTE_DRAIN_SLOW (R289): reported once for a drain. -/
def execRouteDrainSlow (s : State) : Host.Outcome State Fault Refusal :=
  act s "ROUTE_DRAIN_SLOW" (isSet s.dev .meshRouteCtrlDraining && oldFlits s.dev != 0 && !s.dev.mesh.slowSent)
    (fabricEvent (onMesh s.dev fun m => { m with slowSent := true }) 0xC4 none 0 0 (oldFlits s.dev))

/-! ### The node-map cache (R290) -/

/-- A write of NODE_MAP_INVAL removes the entry it names from the cache. -/
def nodeMapInval (d : Dev) (p n : Nat) : Dev :=
  let d := wr (wr d .meshNodeMapInvalPartition 0 p) .meshNodeMapInvalNode 0 n
  onTr d fun t => { t with nodeCache := del t.nodeCache (p * 65536 + n) }

/-- NODE_MAP_INVAL (R290). -/
def execNodeMapInval (part node : Nat) (s : State) : Host.Outcome State Fault Refusal :=
  drv s "NODE_MAP_INVAL" (decide (part < 64 ∧ node < 65536)) (nodeMapInval s.dev part node)

end Sys2Proof.Machine
end

