-- ==== Sys2Proof/Machine/Read.lean ====
section
/-!
DEFINITION. Native reads of the control window (R17, R530, R533, R538, R539, R543): the value of a register, from its
stored fields or, for a register that shows other state, from that state.
-/
namespace Sys2Proof.Machine

/-! ### Registers that show other state -/

/-- Key slots a partition owns (R448); a slot of P0 counts when it has a KIND. -/
def slotsOwned (d : Dev) (p : Nat) : Nat :=
  if p = 0 then ((listed d .yewSlotKind).filter fun s => rd d .yewSlotKind s != 0 && rd d .yewSlotOwner s == 0).length
  else ((listed d .yewSlotOwner).filter fun s => rd d .yewSlotOwner s == p).length

/-- The bank SP_SEL names, and the live-set slot and path LIVE_SEL names. -/
def selBank (d : Dev) : BankStat :=
  if rd d .memorySpSelTile < tiles then bankStat d (rd d .memorySpSelTile) (rd d .memorySpSelBank) else {}

def selLive (d : Dev) : Option LiveSet := find? d.tr.live (rd d .transportLiveSelSlot)

def selPath (d : Dev) : PathSt :=
  ((selLive d).bind fun l => l.paths[rd d .transportLiveSelPath]?).getD { up := false }

/-- Tiles of a row in an active set of some partition (R89). -/
def rowActive (d : Dev) (row : Nat) : Nat := ((List.range partitions).map fun p => (activeSet d row p).length).sum

/-- The value a read returns for a field. -/
def fldValue (d : Dev) (f : Fld) (i : Nat) : Nat :=
  match f with
  | .dispatchRowActive => rowActive d i
  | .memorySpDataCollisions => (selBank d).collisions % 2 ^ 32
  | .memorySpDataCe => (selBank d).ce % 2 ^ 16
  | .memorySpDataUe => (selBank d).ue % 2 ^ 8
  | .memorySpDataRepairedColumns => (selBank d).repaired
  | .xlateSlotHeld => maskOf 64 fun j => (find? d.xl.held (64 * i + j)).isSome
  | .xlateSlotRec => cut ((find? d.xl.slotRec (i / 4)).map (·.toNat) |>.getD 0) (64 * (i % 4)) 64
  | .pwinStatusEpoch => rd d .hlEpoch
  | .pwinStatusAttached => rd d .hlStatusAttached
  | .meshDrainCount => oldFlits d % 2 ^ 32
  | .transportLiveDataUp => bit (selPath d).up
  | .transportLiveDataMark => bit (selPath d).mark
  | .transportLiveDataDelay => (selPath d).delay
  | .transportLiveDataLastHeard => (selPath d).lastHeard
  | .transportLiveSetSet => ((selLive d).map (·.set)).getD 0
  | .transportLiveSetInUse => bit (selLive d).isSome
  | .transportLiveSetOwner => (((selLive d).bind (probeOwner d)).map (·.1)).getD 0
  | .partCountSlots => slotsOwned d i
  | .partCountTiles => (tilesOf d i).length
  | _ => rd d f i

/-! ### Reading -/

/-- Base of the partition windows, of the capability pages, of the COMPAT mirror. -/
def windowBase : Nat := 0x3800000
def capBase : Nat := 0x3C00000
def mirrorBase : Nat := 0x3400000

/-- Where an offset lies in the COMPAT block (R540). -/
def inCompat (off : Nat) : Bool := decide (0x3000000 ≤ off ∧ off < 0x3800000)
def inMirror (off : Nat) : Bool := decide (mirrorBase ≤ off ∧ off < 0x3800000)
def inCap (off : Nat) : Bool := decide (capBase ≤ off ∧ off < capBase + 64 * 0x1000)

/-- Whether an access has a width and an alignment of R530. -/
def accessOk (off width : Nat) : Bool := (width == 4 || width == 8) && off % width == 0

/-- Registers that are not in an offset's space: PWIN.RAW_DB outside P0's window (R538). -/
def absent (e : FldAt) : Bool :=
  match e.fld with
  | .pwinRawDbIndex => e.idx != 0
  | .pwinRawDbSubport => e.idx != 0
  | .pwinRawDbRing => e.idx != 0
  | _ => false

/-- The fields that begin in the aligned 8 bytes around an offset, of registers that are there. -/
def wordFields (off : Nat) : List FldAt := (fieldsAt (off / 8 * 8) 8).filter fun e => !absent e

/-- The register bits of the aligned 8 bytes around an offset. -/
def wordValue (d : Dev) (off : Nat) : Nat :=
  ((wordFields off).map fun e => fldValue d e.fld e.idx <<< (e.pos - 8 * (off / 8 * 8))).sum

/-- What a native read returns; `compat` says whether the source reaches the COMPAT block. -/
def nativeRead (pm : Perm) (d : Dev) (off width : Nat) (compat : Bool) : Nat :=
  if !accessOk off width then 0
  else if inCap off then fromBytes ((capPage pm d ((off - capBase) / 0x1000)).drop (off % 0x1000) |>.take width)
  else if inMirror off then
    if compat && width == 4 then cut (wordValue d (off - mirrorBase)) (8 * (off % 8)) 32 else 0
  else if inCompat off && !compat then 0
  else cut (wordValue d off) (8 * (off % 8)) (8 * width)

/-- The side effect of a read: NOW_NS latches NOW_FRAC (R533). -/
def readLatch (d : Dev) (off width : Nat) : Dev := if accessOk off width && off / 8 * 8 == 0x50000 then timeLatch d else d

end Sys2Proof.Machine
end

