-- ==== Sys2Proof/Machine/Compat.lean ====
section
/-!
DEFINITION. Posted writes to the COMPAT mirror (R540 to R542): the held lower half and the queue.
-/
namespace Sys2Proof.Machine

/-- BUSY and QUEUED follow the queue and the held half. -/
def compatShow (d : Dev) : Dev :=
  let busy := d.acc.half.isSome || !d.acc.posted.isEmpty
  wr (wr d .compatStatusBusy 0 (bit busy)) .compatStatusQueued 0 d.acc.posted.length

/-- Put a write into the queue, or discard it when 64 are there. -/
def compatQueue (d : Dev) (w : PostedWrite) : Dev :=
  if d.acc.posted.length < 64 then onAcc d fun a => { a with posted := a.posted ++ [w] }
  else wr (bump d .compatDiscards) .compatStatusOverflow 0 1

/-- Whether the register around an offset has a field that crosses bit 32. -/
def crosses32 (off : Nat) : Bool :=
  (wordFields off).any fun e => decide (e.pos < 8 * (off / 8 * 8) + 32 ∧ 8 * (off / 8 * 8) + 32 < e.pos + e.fld.info.width)

/-- A write that is not the upper half of a held one. -/
def compatPlain (d : Dev) (off val : Nat) : Dev :=
  if off % 8 = 0 ∧ crosses32 off = true then onAcc d fun a => { a with half := some (off, val) }
  else compatQueue d { off := off, width := 4, val := val }

/-- A 4-byte posted write to a mirrored control-window offset. -/
def compatPosted (d : Dev) (off val : Nat) : Dev :=
  compatShow
    (match d.acc.half with
     | none => compatPlain d off val
     | some (o, lo) =>
       let d := onAcc d fun a => { a with half := none }
       if off = o + 4 then compatQueue d { off := o, width := 8, val := lo + val * 2 ^ 32 }
       else compatPlain (wr (bump d .compatDiscards) .compatStatusHalfDropped 0 1) off val)

end Sys2Proof.Machine
end

