-- ==== Sys2Proof/Machine/TileFaults.lean ====
section
/-!
DEFINITION. Tile faults (R82, R505 to R509): the watchdog, the switch-over to a spare, replay of the journal (R131), tiles
that fail, and the retirement of a tile.
-/
namespace Sys2Proof.Machine

/-! ### Spares (R25, R506) -/

/-- Whether the spare below a tile can take it: a runtime spare, free, and claimed by no other switch-over. -/
def spareFree (d : Dev) (t : Nat) : Bool :=
  rd d .spareMapUse (spareOf t) == 0 && !d.safe.swaps.any fun e => spareOf e.1 == spareOf t

/-- Whether a logical tile stands on a spare. -/
def onSpare (d : Dev) (t : Nat) : Bool :=
  rd d .spareMapTile (spareOf t) == t && (rd d .spareMapUse (spareOf t) == 1 || rd d .spareMapUse (spareOf t) == 2)

/-! ### Leaving a unit -/

/-- Nothing on its way belongs to a work item any longer: answers, messages and the slot of a held transfer go to a number
that no work item has. -/
def orphan (d : Dev) (uid : Nat) : Dev :=
  let u := d.disp.nextUid
  let who := fun (w : RemoteWho) => match w with
    | .piece v => if v = uid then RemoteWho.piece u else w
    | .pull v k => if v = uid then RemoteWho.pull u k else w
    | _ => w
  let src := fun (w : MsgWho) => match w with
    | .engine x => MsgWho.engine (who x)
    | _ => w
  let held := fun (h : HeldXfer) => if h.work = .item uid then { h with work := .item u } else h
  let d := onDisp d fun s => { s with nextUid := u + 1, remotes := s.remotes.map fun r => { r with who := who r.who } }
  let d := onMesh d fun m => { m with flight := m.flight.map fun a => { a with who := who a.who } }
  let d := onTr d fun t => { t with msgs := t.msgs.map fun m => { m with who := src m.who } }
  onXl d fun x => { x with
    held := x.held.map (fun e => (e.1, held e.2))
    waiting := x.waiting.filter (fun w => w.work ≠ .item uid)
    parked := x.parked.filter fun w => w ≠ .item uid }

/-- A started work item leaves its unit with nothing done beside what it has written. -/
def unstart (d : Dev) (it : Item) : Dev :=
  let d := orphan (dropWalk d it.uid) it.uid
  let d := onDisp d fun s => { s with vec := del s.vec it.uid, moveIx := del s.moveIx it.uid }
  modItem d it.uid fun x => { x with
    phase := .placed, held := false, opIdx := 0, prog := 0, remote := 0, flags := 0, cycles := 0, cause := 0 }

/-- The units of a tile stop: started work items fall back to their lanes, home requests on it fail (R165). -/
def stopUnits (d : Dev) (t : Nat) : Dev :=
  let d := ((tileItems d t).filter fun x => x.phase = .started).foldl unstart d
  (d.att.homes.filter fun h => h.tile = t).foldl homeFail d

/-- Work items of a tile that have not completed their work; the reruns of a replay are not counted. -/
def unfinishedOn (d : Dev) (t : Nat) : List Item := (tileItems d t).filter fun x => x.phase = .placed || x.phase = .started

/-- The unfinished work items of a tile complete with a cause, then their rings stop; answers how many there were. -/
def endTileWork (d : Dev) (t cause : Nat) : Dev × Nat :=
  let l := unfinishedOn d t
  let d := (l.filter (·.rerun)).foldl (fun d x => dropItem d x.uid) d
  let l := l.filter fun x => !x.rerun
  (completeAll d l cause, l.length)

/-! ### A tile that fails (R509) -/

/-- A DETAIL or UNIT field of a fault event that R514 gives no content. -/
def openField (d : Dev) : Nat × Dev := fresh d

/-- The tile is failed: its work completes with 0x53, or as its release would have ended it. -/
def failTile (d : Dev) (t cls : Nat) : Dev :=
  let was := isSet d .tileOwnerReleasing t
  let w := find? d.safe.swaps t
  let d := onSafe d fun x => { x with swaps := del x.swaps t }
  let d := onDisp d fun s => { s with replay := del s.replay t, blocked := s.blocked.filter (· ≠ t) }
  let lost := !voteHolds d .tileOwnerPartition t
  let p := (tileOwner d t).getD 0
  let e := endTileWork d t (if was then releaseCause d t else 0x53)
  let d := wr (wr e.1 .tileOwnerAssigned t 0) .tileOwnerReleasing t 0
  let d := ownerHealed (if lost then wr d .tileOwnerPartition t 0 else d) t
  let d := wr d .safetyTileFailed (t / 64) (rd d .safetyTileFailed (t / 64) ||| 2 ^ (t % 64))
  let d := if was && isSet d .tileCmdBusy && rd d .tileCmdTile == t then
      let c := choose d 2
      wr (wr c.2 .tileCmdBusy 0 0) .tileCmdResult 0 (0xEA * c.1)
    else d
  let d := match w with
    | some x => if x.retire then wr (wr d .safetyTileRetireBusy 0 0) .safetyTileRetireResult 0 0 else d
    | none => d
  let o := openField d
  bump (safetyEvent o.2 0x40 p 0 0xED cls 1 t o.1 0 (if was then 0 else e.2)) .safetyTilesRetired

/-! ### A tile fault (R505, R506) -/

/-- A tile faults: class, whether its scratchpad can be copied, whether the driver asked for it. -/
def tileFault (d : Dev) (t cls : Nat) (copy asked : Bool) : Dev :=
  let o := openField d
  let d := stopUnits (faultEvent o.2 ((tileOwner d t).getD 0) 0 0xEC cls 1 t o.1) t
  if isSet d .tileOwnerReleasing t || !spareFree d t then failTile d t cls
  else
    let d := onDisp (wake d (.spare (spareOf t))) fun s => { s with blocked := t :: s.blocked.filter (· ≠ t) }
    onSafe d fun x => { x with swaps := put x.swaps t { cls := cls, copy := copy, retire := asked } }

/-- Whether a unit of a tile may be found hung: it runs a work item that is not held, nor waits for far partials alone,
or the tile computes a home request. -/
def mayHang (d : Dev) (t : Nat) : Bool :=
  (tileItems d t).any (fun x => x.phase = .started && !x.held && !d.xl.parked.contains (.item x.uid) &&
    match runAt d x.uid with
    | some r => r.far.isEmpty || !r.pages.isEmpty || !r.pulls.isEmpty
    | none => true)
  || d.att.homes.any fun h => h.tile == t && (homeReady d h.id).isSome

/-- WATCHDOG_EXPIRY (R505, R506, R509). -/
def execWatchdogExpiry (tile : Nat) (s : State) : Host.Outcome State Fault Refusal :=
  act s "WATCHDOG_EXPIRY"
    (decide (tile < tiles) && inRun s.dev && rd s.dev .safetyCfgWatchdogUs != 0 && mayHang s.dev tile)
    (tileFault s.dev tile 9 true false)

/-- The work item whose check can fail: the vector unit's, or the matrix unit's. -/
def checkedItem (d : Dev) (t : Nat) (onVector : Bool) : Option Item := running? d t (if onVector then .vector else .matrix)

/-- The work item stops at once with 0x46, then the tile faults. -/
def checkFailed (d : Dev) (t : Nat) (onVector : Bool) : Dev :=
  let d := match checkedItem d t onVector with
    | some it => finishFree (orphan (dropWalk d it.uid) it.uid) it it.flags 0x46
    | none => d
  tileFault d t 8 true false

/-- DATAPATH_CHECK_FAILED (R82, R505, R506): in the unit of a running work item, or of a home request. -/
def execDatapathCheckFailed (tile : Nat) (onVector : Bool) (s : State) : Host.Outcome State Fault Refusal :=
  act s "DATAPATH_CHECK_FAILED"
    (decide (tile < tiles) && inRun s.dev
      && ((checkedItem s.dev tile onVector).isSome || s.dev.att.homes.any fun h => h.tile == tile && (homeReady s.dev h.id).isSome))
    (checkFailed s.dev tile onVector)

/-! ### Retirement (R509) -/

/-- A write of SAFETY.TILE_RETIRE.GO: discarded while BUSY is 1. -/
def retireGo (d : Dev) : Dev :=
  let t := rd d .safetyTileRetireTile
  if isSet d .safetyTileRetireBusy then d
  else if t ≥ tiles ∨ tileFailedBit d t ∨ !spareFree d t then wr d .safetyTileRetireResult 0 0xEA
  else
    let d := tileFault (wr d .safetyTileRetireBusy 0 1) t 9 true true
    if (find? d.safe.swaps t).isSome then d else wr (wr d .safetyTileRetireBusy 0 0) .safetyTileRetireResult 0 0

/-- TILE_RETIRE (R509). -/
def execTileRetire (tile : Nat) (s : State) : Host.Outcome State Fault Refusal :=
  cmd s "TILE_RETIRE" (decide (tile < 2048) && rd s.dev .bootStatusStage != 15) (retireGo (wr s.dev .safetyTileRetireTile 0 tile))

/-! ### The switch-over (R507) and replay (R131, R508) -/

/-- A registered token word as the row dispatcher's shadow holds it. -/
def restoreToken (d : Dev) (e : Nat × Nat) : Dev := setEcc (setBytes d e.1 (toBytes 8 e.2)) e.1 none

/-- Every registered token word of a tile is restored. -/
def restoreTokens (d : Dev) (t : Nat) : Dev :=
  (d.disp.tokens.filter fun e => decide (spAddr t 0 ≤ e.1 ∧ e.1 < spAddr t spBytes)).foldl restoreToken d

/-- A scratchpad of zero words without errors. -/
def zeroScratch (d : Dev) (t : Nat) : Dev :=
  let out := fun (a : Nat) => decide (a < spAddr t 0 ∨ spAddr t spBytes ≤ a)
  onMem d fun m => { m with bytes := m.bytes.filter (fun e => out e.1), ecc := m.ecc.filter (fun e => out e.1), flips := m.flips.filter (fun e => out e.1) }

/-- The copy reads every word (R507): poisoned words stay poisoned, a word's error is corrected or poisons it (R182, R183). -/
def copyWords (d : Dev) (t : Nat) : Dev :=
  ((d.mem.ecc.filter fun e => decide (spAddr t 0 ≤ e.1 ∧ e.1 < spAddr t spBytes)).map (·.1)).foldl (fun d b => scrubUnit d b none) d

/-- A runtime spare is put into service for a logical tile (R26); SPARES_LOW is sent when the spares left fall to SPARE_LOW (R508). -/
def putInService (d : Dev) (s t : Nat) : Dev :=
  let d := bump (drop1 (wr (wr d .spareMapUse s 2) .spareMapTile s t) .sparesRuntimeLeft) .sparesInService
  let left := rd d .sparesRuntimeLeft
  if left = rd d .safetyCfgSpareLow then faultEvent (alert d 6) 0 0 0xFF 0 9 left s else d

/-- Read the lines of a tile's journal; false when one is poisoned. -/
def journalRead (d : Dev) (t : Nat) : Dev × Bool :=
  let j := journalOf d t
  let step := fun (keep : Bool) (a : Dev × Bool) (e : JEntry) =>
    match dpaRead a.1 (0x800 + tileRow t) (journalAddr a.1 t e.slot keep) 128 with
    | (d, some _, _) => (d, false)
    | (d, none, _) => (d, a.2)
  j.rolling.foldl (step false) (j.keep.foldl (step true) (d, true))

/-- One journal entry is made ready to run: a completed one as a rerun that signals nothing, an unfinished one itself;
answers the numbers in order. -/
def replayEntry (t : Nat) (a : Dev × List Nat) (e : JEntry) : Dev × List Nat :=
  let d := a.1
  if e.state = 2 then
    if e.retired then a
    else
      let u := d.disp.nextUid
      let it : Item := { uid := u, ring := e.ring, part := (tileOwner d t).getD 0, index := 0, step := e.step, wi := e.wi, lane := laneOf e.wi,
                         tile := t, phase := .placed, stamp := d.disp.nextStamp, waitMet := true, rerun := true }
      (onDisp (newItem d it) fun s => { s with nextStamp := s.nextStamp + 1 }, a.2 ++ [u])
  else
    match itemOf d e.uid with
    | some it => if it.phase = .placed then (modItem d e.uid fun x => { x with replayed := true, waitMet := x.waitMet || e.state == 1 }, a.2 ++ [e.uid]) else a
    | none => a

/-- A journal entry's work item goes to the spare in a WORK_ITEM flit pair (R272). -/
def sendEntry (t : Nat) (d : Dev) (u : Nat) : Dev :=
  onDisp (wake d .mesh) fun s => { s with carried := s.carried.filter (fun c => c.uid ≠ u) ++ [{ tile := t, uid := u, epoch := rd d .meshRouteCtrlEpoch }] }

/-- The spare takes the EID and replay begins, or the unfinished work is lost. -/
def spareTakes (d : Dev) (t : Nat) (w : Swap) : Dev :=
  let s := spareOf t
  let d := putInService (if w.copy then copyWords d t else zeroScratch d t) s t
  let d := restoreTokens (onSafe d fun x => { x with swaps := put x.swaps t { w with taken := true } }) t
  let d := setDomState d (.tile t) 0
  let r := journalRead d t
  if (journalOf d t).broken || !r.2 then
    let e := endTileWork r.1 t 0x53
    replayEnd e.1 t e.2
  else
    let j := journalOf r.1 t
    let e := (j.keep ++ j.rolling).foldl (replayEntry t) (r.1, [])
    if e.2.isEmpty then replayEnd e.1 t 0
    else onDisp (e.2.foldl (sendEntry t) e.1) fun s => { s with replay := put s.replay t e.2 }

/-- SPARE_COPY_DONE (R507, R508, R131): the spare is awake (R484). -/
def execSpareCopyDone (tile : Nat) (s : State) : Host.Outcome State Fault Refusal :=
  act s "SPARE_COPY_DONE"
    (decide (tile < tiles) && inRun s.dev && domState s.dev (.spare (spareOf tile)) == 0 && (find? s.dev.safe.swaps tile).any fun w => !w.taken)
    (match find? s.dev.safe.swaps tile with
     | some w => spareTakes s.dev tile w
     | none => s.dev)

/-! ### A row clock that fails (R506) -/

/-- Fault tiles one after another; of tiles that share a spare the design picks which comes first. -/
def faultMany : Nat → List Nat → Dev → Dev
  | 0, _, d => d
  | n + 1, l, d =>
    let c := choose d l.length
    match l[c.1]? with
    | some t => faultMany n (l.filter (· ≠ t)) (if tileFailedBit c.2 t then c.2 else tileFault c.2 t 10 false false)
    | none => d

/-- The PLL of a tile row has failed: its tiles fault, one that waits for its spare can be copied no more; with row 23's go every
spare and the tiles on them. -/
def rowFailed (d : Dev) (row : Nat) : Dev :=
  let own := ((List.range 48).map (tileAt row)).filter fun t => !onSpare d t && !d.safe.swaps.any fun e => e.1 == t
  let d := onSafe d fun x => { x with
    swaps := x.swaps.map fun e => if tileRow e.1 = row ∧ !e.2.taken then (e.1, { e.2 with copy := false }) else e }
  if row ≠ 23 then faultMany own.length own d
  else
    let stood := (List.range tiles).filter fun t => onSpare d t || d.safe.swaps.any fun e => e.1 == t
    let d := (List.range 16).foldl (fun d s => wr (wr d .spareMapUse s 3) .spareMapTile s 0) d
    let d := wr (wr d .sparesRuntimeLeft 0 0) .sparesInService 0 0
    let d := stood.foldl (fun d t =>
      let o := openField d
      failTile (stopUnits (faultEvent o.2 ((tileOwner d t).getD 0) 0 0xEC 10 1 t o.1) t) t 10) d
    faultMany own.length own d

end Sys2Proof.Machine
end

