-- ==== Sys2Proof/Machine/Votes.lean ====
section
/-!
DEFINITION. The voting scrub (R16, R502), the loss of a vote (R503) and the stop of a partition (R504).
-/
namespace Sys2Proof.Machine

/-- The voted register fields (R537). -/
def votedFlds : List Fld := [
  .ringCfgPartition, .cqPartition, .eqPartition, .tileOwnerPartition, .tileOwnerAssigned, .tileOwnerReleasing, .hlPeerRidId,
  .hlPeerRidValid, .partSealCfgHedge, .partSubports, .xlatePtBaseEn, .xlatePtBaseBase, .meshNodeMapEn, .meshNodeMapBase,
  .yewCfgClearSaveEn, .yewEngineOwnerPartition, .yewEngineOwnerReserved, .yewSlotKind, .yewSlotOwner, .powerThermalTripC]

/-- Entries of a field with a value listed in any of the three copies; the copies of every other entry agree. -/
def votedEntries (d : Dev) (f : Fld) : List Nat :=
  let of := fun (m : KMap Nat) => (m.filter fun e => e.1 % 1024 == f.ctorIdx).map fun e => e.1 / 1024
  (of d.regs ++ of d.regsB ++ of d.regsC).eraseDups

/-! ### A partition that stops (R504) -/

/-- Count a partition's rings, CQs and EQs again. -/
def recount (d : Dev) (p : Nat) : Dev :=
  wr (wr (wr d .partCountRings p (ringsSaved d p).length) .partCountCqs p (cqsSaved d p).length) .partCountEqs p (eqsSaved d p).length

/-- The partition stops: walks, rings, queue pairs, collectives and its node map. -/
def partitionStop (d : Dev) (p : Nat) : Dev :=
  let d := onXl d fun x => { x with stopped := if x.stopped.contains p then x.stopped else p :: x.stopped }
  let d := (d.att.homes.filter fun h => h.part = p).foldl homeFail d
  let d := (d.att.homeWait.filter fun h => h.part = p).foldl (fun d h => homeReply d h 5 []) d
  let d := onAtt d fun a => { a with homeWait := a.homeWait.filter fun h => h.part ≠ p }
  let d := (ringsSaved d p).foldl (fun d r => ringStop d r 0xEF) d
  let d := (qpsOf d p).foldl (fun d x => qpFailNow d x.1 0xEF) d
  let d := (d.coll.runs.filter fun e => e.2.part = p).foldl (fun d e => collFail d e.1 0xEF 0xFF) d
  if sealedNow d p then setSealed d p 0 else d

/-! ### A lost vote (R503) -/

/-- What a lost vote of entry `i` of a field does beside its event. -/
def voteTreat (d : Dev) (f : Fld) (i : Nat) : Dev :=
  match f with
  | .ringCfgPartition => (List.range partitions).foldl recount (ringStop d i 0xEE)
  | .cqPartition => (List.range partitions).foldl recount (wr (wr d .cqState i 2) .cqLastCause i 0xEE)
  | .eqPartition => (List.range partitions).foldl recount (eqStop d i 0xEE)
  | .hlPeerRidId => partitionStop d (i / 8)
  | .hlPeerRidValid => partitionStop d (i / 8)
  | .partSealCfgHedge => partitionStop d i
  | .partSubports => partitionStop d i
  | .xlatePtBaseEn => partitionStop d i
  | .xlatePtBaseBase => partitionStop d i
  | .meshNodeMapEn => partitionStop d i
  | .meshNodeMapBase => partitionStop d i
  | .yewSlotKind => slotFail d i 0xEE
  | .yewSlotOwner => slotFail d i 0xEE
  | .yewEngineOwnerPartition => if engineIn d i then engineOut d i else d
  | .yewEngineOwnerReserved => if engineIn d i then engineOut d i else d
  | _ => d

/-- The field instance a fault event names (R514). -/
def voteUnit (f : Fld) (i : Nat) : Nat :=
  match f with
  | .yewCfgClearSaveEn => 0
  | .powerThermalTripC => 0
  | _ => i

/-- The die that hosts a voted field (R528). -/
def voteDie (f : Fld) : Nat :=
  match f with
  | .ringCfgPartition => 0
  | .meshNodeMapEn => 0
  | .meshNodeMapBase => 0
  | _ => 5

/-- The partition a lost vote concerns (R245): the one the register's position names, or the owner beside the lost field
where its own copies agree; 0 where the owning field is what is lost. -/
def votePart (d : Dev) (f : Fld) (i : Nat) : Nat :=
  let held := fun (g : Fld) => let c := copies d g i; majority c.1 c.2.1 c.2.2
  match f with
  | .hlPeerRidId => i / 8
  | .hlPeerRidValid => i / 8
  | .partSealCfgHedge => i
  | .partSubports => i
  | .xlatePtBaseEn => i
  | .xlatePtBaseBase => i
  | .meshNodeMapEn => i
  | .meshNodeMapBase => i
  | .yewSlotKind => (held .yewSlotOwner).getD 0
  | .yewEngineOwnerReserved => (held .yewEngineOwnerPartition).getD 0
  | .tileOwnerReleasing => if held .tileOwnerAssigned = some 1 then (held .tileOwnerPartition).getD 0 else 0
  | _ => 0

/-- A vote is lost: counted, reported once, treated. -/
def voteLost (d : Dev) (f : Fld) (i : Nat) : Dev :=
  let d := onSafe (bump d .safetyVoteLosses) fun x => { x with lost := fkey f i :: x.lost }
  voteTreat (faultEvent d (votePart d f i) (voteDie f) 0xEE 22 10 (voteUnit f i) (regOffset f i)) f i

/-- One entry of the pass. -/
def scrubVote (d : Dev) (f : Fld) (i : Nat) : Dev :=
  let c := copies d f i
  match majority c.1 c.2.1 c.2.2 with
  | some v => if c.1 = v ∧ c.2.1 = v ∧ c.2.2 = v then d else bump (wr d f i v) .safetyVoteRepairs
  | none => if d.safe.lost.contains (fkey f i) then d else voteLost d f i

/-- A full pass. -/
def voteScrub (d : Dev) : Dev :=
  bump (votedFlds.foldl (fun d f => (votedEntries d f).foldl (fun d i => scrubVote d f i) d) d) .safetyScrubPasses

/-- VOTE_SCRUB (R502 to R504). -/
def execVoteScrub (s : State) : Host.Outcome State Fault Refusal :=
  act s "VOTE_SCRUB" (s.dev.boot.powered && rd s.dev .bootStatusStage != 15) (voteScrub s.dev)

end Sys2Proof.Machine
end

