-- ==== Sys2Proof/Machine/Power.lean ====
section
/-!
DEFINITION. Coppice states (R483 to R486), PLLs (R481), the power controller (R489 to R492), and heat (R493 to R496).
-/
namespace Sys2Proof.Machine

/-! ### Power and thermal events (R498) -/

def powerEvent (d : Dev) (part cause source : Nat) : Dev := postEq d (rd d .powerEventEq) (entryOf 0x30 part cause source [])

/-- No partition: the SOURCE of most power events. -/
def noSource : Nat := 2 ^ 32 - 1

/-- A thermal event: the sensor and its reading as SENSOR.TEMP shows it. -/
def thermalEvent (d : Dev) (cause sensor : Nat) : Dev :=
  postEq d (rd d .powerEventEq) (entryOf 0x31 0 cause sensor [(8, rd d .powerSensorTemp sensor)])

/-! ### Tolerances (R484) -/

/-- Exit latency of a Coppice state in ns (R483). -/
def exitNs : Nat → Nat
  | 0 => 0
  | 1 => 50
  | 2 => 5000
  | 3 => 40000
  | _ => 2000000

/-- The least of a list; none for an empty one, which is an unlimited tolerance. -/
def least (l : List Nat) : Option Nat := l.min?

/-- Least of a partition's tolerance set. -/
def partTolerance (d : Dev) (p : Nat) : Nat :=
  ((List.range rings).filter fun r => ringOwned d p r && (rd d .ringStateState r == 1 || rd d .ringStateState r == 2)).foldl
    (fun a r => min a (rd d .powerRingLtr r)) (rd d .powerPartLtr p)

/-- Whether a partition counts for the shared Hedge dies. -/
def usesMemory (d : Dev) (p : Nat) : Bool :=
  !(tilesOf d p).isEmpty || rd d .partCountQps p != 0 || (List.range rings).any fun r => ringOwned d p r && rd d .ringStateState r != 0

/-- Whether a partition counts for the Laurel engines. -/
def usesLaurel (d : Dev) (p : Nat) : Bool :=
  rd d .partCountQps p != 0 || d.coll.groups.any (fun g => g.2.part == p) || rd d .dispatchHomeCfgQueueMax p != 0

/-- The tolerance that governs a domain; none when nothing does. -/
def tolerance (d : Dev) (dom : Domain) : Option Nat :=
  let over_ := fun (f : Nat → Bool) => least (((List.range partitions).filter f).map (partTolerance d))
  match dom with
  | .tile t => (tileOwner d t).map (partTolerance d)
  | .spare _ => none
  | .hedge q =>
    match (List.range partitions).find? fun p => sealedNow d p && bitOf (rd d .partSealCfgHedge p) q with
    | some p => some (partTolerance d p)
    | none => over_ (usesMemory d)
  | .laurel => over_ (usesLaurel d)
  | .mesh => over_ fun _ => true

def tolerates (d : Dev) (dom : Domain) (s : Nat) : Bool :=
  match tolerance d dom with
  | none => true
  | some t => decide (exitNs s ≤ t)

/-- Whether the mesh may enter CS2: everything else is there. -/
def allDeep (d : Dev) : Bool :=
  (List.range tiles).all (fun t => decide (2 ≤ domState d (.tile t))) && (List.range 4).all (fun q => decide (2 ≤ domState d (.hedge q)))
    && domState d .laurel == 2

/-- Whether a domain may use a state. -/
def stateAllowed (d : Dev) (dom : Domain) (s : Nat) : Bool :=
  match dom with
  | .tile t => decide (s ≤ if (tileOwner d t).isSome then 3 else 4)
  | .spare _ => decide (s ≤ 4)
  | .hedge _ => decide (s ≤ 4)
  | .laurel => decide (s ≤ 2)
  | .mesh => decide (s ≤ 1) || (s == 2 && allDeep d)

/-! ### Entry and exit (R483, R485) -/

def validDomain : Domain → Bool
  | .tile t => decide (t < tiles)
  | .spare s => decide (s < 16)
  | .hedge q => decide (q < 4)
  | _ => true

/-- Whether a spare is a runtime spare: it stands for no tile, and no tile waits for it. -/
def runtimeSpare (d : Dev) (s : Nat) : Bool := rd d .spareMapUse s == 0 && !d.safe.swaps.any fun e => spareOf e.1 == s

/-- Whether nothing that reads or writes memory runs on a tile. -/
def memoryQuiet (d : Dev) : Bool :=
  d.disp.items.all (fun x => x.phase != .started || (wiType x.wi != 3 && wiType x.wi != 4)) && d.disp.signals.isEmpty

/-- Whether the Laurel engines hold no work. -/
def laurelQuiet (d : Dev) : Bool :=
  d.tr.rx.isEmpty && d.tr.rawRx.isEmpty && d.tr.msgs.isEmpty && d.tr.recs.isEmpty && d.tr.waitTx.isEmpty && d.top.queue.isEmpty
    && d.xl.commands.isEmpty && d.xl.invals.isEmpty && d.disp.remotes.isEmpty && d.att.homes.isEmpty && d.att.homeWait.isEmpty && d.coll.runs.all (fun r => !r.2.active)

/-- Whether a domain is idle (R485). An access takes no time, so one is in flight only while its answer is; traffic of the Laurel engines
keeps the mesh in service (R40). -/
def idle (d : Dev) : Domain → Bool
  | .tile t => (tileItems d t).isEmpty && !d.att.homes.any (fun h => h.tile == t) && (find? d.safe.swaps t).isNone
  | .spare s => runtimeSpare d s
  | .hedge q => memoryQuiet d && !d.mesh.flight.any fun a => a.from_ / 0x100 == 0x10 + q
  | .laurel => laurelQuiet d
  | .mesh => memoryQuiet d && laurelQuiet d && d.mesh.flight.isEmpty && d.disp.notifies.isEmpty && d.disp.carried.isEmpty

/-- A state is entered; an unassigned tile that turns off loses its scratchpad. -/
def enterState (d : Dev) (dom : Domain) (s : Nat) : Dev :=
  let d := setDomState d dom s
  match dom with
  | .tile t => if s = 4 then zeroScratch d t else d
  | _ => d

/-- COPPICE_ENTRY (R485, R486): `target` is the deepest state whose entry hold has been reached. -/
def execCoppiceEntry (dom : Domain) (target : Nat) (s : State) : Host.Outcome State Fault Refusal :=
  act s "COPPICE_ENTRY"
    (inRun s.dev && validDomain dom && decide (domState s.dev dom < target) && stateAllowed s.dev dom target && tolerates s.dev dom target
      && idle s.dev dom && !s.dev.pwr.waking.contains dom)
    (enterState s.dev dom target)

/-- The PLL of a domain, numbered: rows 0 to 23, Hedge dies, Laurel, mesh (R480). -/
def pllOf (d : Dev) : Domain → Nat
  | .tile t => if onSpare d t then 23 else tileRow t
  | .spare _ => 23
  | .hedge q => 24 + q
  | .laurel => 28
  | .mesh => 29

/-- Whether every tile and runtime spare that a row's PLL clocks is in CS2 or deeper (R480). -/
def rowDeep (d : Dev) (k : Nat) : Bool :=
  ((List.range tiles).filter fun u => pllOf d (.tile u) == k).all (fun u => decide (2 ≤ domState d (.tile u)))
    && (k != 23 || (List.range 16).all fun s => !runtimeSpare d s || decide (2 ≤ domState d (.spare s)))

/-- Whether the PLL of a domain is stopped. -/
def pllStopped (d : Dev) (dom : Domain) : Bool :=
  match dom with
  | .tile _ => rowDeep d (pllOf d dom)
  | .spare _ => rowDeep d 23
  | _ => decide (2 ≤ domState d dom)

/-- A domain is in CS0 again. -/
def exitDone (d : Dev) (dom : Domain) : Dev :=
  let k := pllOf d dom
  onPwr (setDomState d dom 0) fun p => { p with waking := p.waking.filter (· ≠ dom), pllFails := del p.pllFails k }

/-- COPPICE_EXIT_DONE (R481, R483). -/
def execCoppiceExitDone (dom : Domain) (s : State) : Host.Outcome State Fault Refusal :=
  act s "COPPICE_EXIT_DONE" (s.dev.pwr.waking.contains dom) (exitDone s.dev dom)

/-- A PLL that has failed to start three times is a fault of what it clocks (R501, R506, R511, R513). -/
def pllFailed (d : Dev) (dom : Domain) : Dev :=
  let k := pllOf d dom
  let d := onPwr d fun p => { p with pllFails := del p.pllFails k, waking := p.waking.filter (· ≠ dom) }
  let d := powerEvent d 0 0xAB noSource
  match dom with
  | .tile _ => rowFailed d k
  | .spare _ => rowFailed d k
  | .hedge q => hedgeFail d q
  | .laurel => halt d 5 true
  | .mesh => halt d 0 true

def pllTimeout (d : Dev) (dom : Domain) : Dev :=
  let k := pllOf d dom
  let n := getD d.pwr.pllFails k 0 + 1
  if n < 3 then onPwr d fun p => { p with pllFails := put p.pllFails k n } else pllFailed d dom

/-- PLL_LOCK_TIMEOUT (R481). -/
def execPllLockTimeout (dom : Domain) (s : State) : Host.Outcome State Fault Refusal :=
  act s "PLL_LOCK_TIMEOUT" (inRun s.dev && s.dev.pwr.waking.contains dom && pllStopped s.dev dom) (pllTimeout s.dev dom)

/-! ### Tolerance writes (R486) -/

/-- The deepest state below `s` that a domain may use under its tolerance. -/
def shallower (d : Dev) (dom : Domain) : Nat → Nat
  | 0 => 0
  | s + 1 => if stateAllowed d dom s && tolerates d dom s then s else shallower d dom s

/-- A domain whose state takes longer to leave than its tolerance allows leaves it. -/
def relax (d : Dev) (dom : Domain) : Dev :=
  let s := domState d dom
  if s = 0 ∨ tolerates d dom s then d
  else
    match shallower d dom s with
    | 0 => wake d dom
    | n => setDomState d dom n

/-- Every domain. -/
def domains : List Domain := (List.range tiles).map .tile ++ (List.range 4).map .hedge ++ [.laurel, .mesh]

def relaxAll (d : Dev) : Dev := domains.foldl relax d

/-- A write of PART_LTR, or of RING_LTR. -/
def ltrEffect (d : Dev) (isRing : Bool) (i v : Nat) : Dev := relaxAll (wr d (if isRing then .powerRingLtr else .powerPartLtr) i v)

/-- LTR_WRITE (R486). -/
def execLtrWrite (isRing : Bool) (index val : Nat) (s : State) : Host.Outcome State Fault Refusal :=
  drv s "LTR_WRITE" (decide (index < if isRing then rings else partitions)) (ltrEffect s.dev isRing index val)

/-! ### Limits (R492, R450) -/

def sealedOnes (d : Dev) : List Nat := (List.range partitions).filter (sealedNow d)

/-- A register write that would break a condition of a sealed partition: discarded and counted there (R450). -/
def sealDiscard (d d' : Dev) : Dev :=
  let l := (sealedOnes d).filter fun o => ((sealConds d o).zip (sealConds d' o)).any fun x => x.1 && !x.2
  l.foldl (fun d o => wr (bump d .partRefusals o) .partStatusResult o 0x88) d

/-- A limit or floor write discarded for the budget. -/
def limitRefused (d : Dev) (p : Nat) : Dev := powerEvent (bump d .powerRefusals) p 0xA8 p

/-- A write of SUSTAINED_W: the partition its refusal names is one of the sealed ones. -/
def sustainedWrite (d : Dev) (v : Nat) : Dev :=
  let d' := wr d .powerLimitSustainedW 0 v
  let l := sealedOnes d
  if l.isEmpty || budgetOk d' l then d'
  else let c := choose d l.length; limitRefused c.2 (l.getD c.1 0)

/-- A write of SEAL_FLOOR. -/
def floorWrite (d : Dev) (p v : Nat) : Dev :=
  let d' := wr d .powerSealFloor p v
  if !sealedNow d p then d'
  else if sealFloor d' p = 0 then sealDiscard d d'
  else if budgetOk d' (sealedOnes d) then d' else limitRefused d p

/-- LIMIT_WRITE (R492, R497). -/
def execLimitWrite (target : LimitTarget) (val : Nat) (s : State) : Host.Outcome State Fault Refusal :=
  match target with
  | .sustained => drv s "LIMIT_WRITE" true (sustainedWrite s.dev val)
  | .sealFloor p => drv s "LIMIT_WRITE" (decide (p < partitions)) (floorWrite s.dev p val)

/-! ### Input power and its controller (R489, R490) -/

/-- Mean of the newest `n` samples, of those there are, in mW. -/
def average (d : Dev) (n : Nat) : Nat := let l := d.pwr.samples.take n; if l.isEmpty then 0 else l.sum / l.length

/-- The averaging window in samples. -/
def tauSamples (d : Dev) : Nat := 1000 * clampTo 1 1000 (rd d .powerLimitTauMs)

/-- One sample, of what counts as input power: volts in 10 mV units, current in mA. -/
def sampleEffect (d : Dev) (cv ma : Nat) : Dev :=
  let mw := cv * ma / 100
  let nj := d.pwr.energyNj + mw
  let d := onPwr d fun p => { p with samples := (mw :: p.samples).take 1000000, energyNj := nj % 1000000 }
  let d := bump d .powerEnergyMj 0 (nj / 1000000)
  let d := wr (wr d .powerInputAvg1msW 0 (average d 1000 / 1000)) .powerInputAvgTauW 0 (average d (tauSamples d) / 1000)
  wr d .powerInputVolts 0 cv

/-- POWER_SAMPLE (R489). -/
def execPowerSample (centivolts milliamps : Nat) (s : State) : Host.Outcome State Fault Refusal :=
  act s "POWER_SAMPLE" s.dev.boot.powered (sampleEffect s.dev centivolts milliamps)

/-- Whether either average is above its limit. -/
def overLimit (d : Dev) : Bool := decide (average d 1000 > 2100000) || decide (average d (tauSamples d) > 1000 * sustained d)

/-- Whether both averages are at least 2 % below their limits. -/
def wellBelow (d : Dev) : Bool :=
  decide (average d 1000 * 100 ≤ 2100000 * 98) && decide (average d (tauSamples d) * 100 ≤ 1000 * sustained d * 98)

/-- Step 3: sealed rows are lowered. -/
def lowerSealed (d : Dev) : Dev :=
  let l := sealedOnes d
  if l.isEmpty ∨ d.pwr.sealDrop ≥ 56 then d
  else
    let first := !isSet d .powerRateFloorBroken
    let d := wr (onPwr d fun p => { p with sealDrop := min 56 (p.sealDrop + 4), sealUs := 0 }) .powerRateFloorBroken 0 1
    if first then l.foldl (fun d p => powerEvent d p 0xA3 p) d else d

/-- Steps 1 to 3 while over a limit. -/
def capMore (d : Dev) : Dev :=
  let d := onPwr d fun p => { p with below := false }
  if rd d .powerRateShared > 8 then
    onPwr (wr d .powerRateShared 0 (max 8 (rd d .powerRateShared - 4))) fun p => { p with floorUs := 0, hedgeUs := 0, sealUs := 0 }
  else if rd d .powerRateHedge < 3 then
    let n := d.pwr.floorUs + 10
    if n ≥ 100 then onPwr (bump d .powerRateHedge) fun p => { p with floorUs := 0, hedgeUs := 0, sealUs := 0 }
    else onPwr d fun p => { p with floorUs := n }
  else
    let d := onPwr d fun p => { p with hedgeUs := p.hedgeUs + 10, sealUs := p.sealUs + 10 }
    if d.pwr.hedgeUs ≥ 1000 && (d.pwr.sealDrop == 0 || decide (d.pwr.sealUs ≥ 100)) then lowerSealed d else d

/-- Recovery in reverse order; how fast steps 3 and 2 are taken back is the design's. -/
def capLess (d : Dev) : Dev :=
  if d.pwr.sealDrop > 0 then
    let c := choose d (d.pwr.sealDrop + 1)
    let d := onPwr c.2 fun p => { p with sealDrop := p.sealDrop - c.1 }
    if d.pwr.sealDrop = 0 then wr d .powerRateFloorBroken 0 0 else d
  else if rd d .powerRateHedge > 0 then
    let c := choose d (rd d .powerRateHedge + 1)
    wr c.2 .powerRateHedge 0 (rd d .powerRateHedge - c.1)
  else if rd d .powerRateShared < 64 then bump d .powerRateShared
  else d

/-- Whether R490 holds a rate down. -/
def capped (d : Dev) : Bool := rd d .powerRateShared != 64 || rd d .powerRateHedge != 0 || d.pwr.sealDrop != 0

/-- One step of the controller. -/
def controllerEffect (d : Dev) : Dev :=
  let was := isSet d .powerRateCapping
  let d := if was then bump d .powerCapUs 0 10 else d
  let b := wellBelow d
  let d :=
    if overLimit d then capMore d
    else
      let d' := if b && d.pwr.below then capLess d else d
      onPwr d' fun p => { p with below := b, floorUs := 0, hedgeUs := 0, sealUs := 0 }
  let d := wr d .powerRateCapping 0 (bit (capped d))
  if !was && capped d then powerEvent (alert d 5) 0 0xA0 noSource
  else if was && !capped d then powerEvent d 0 0xA1 noSource
  else d

/-- CONTROLLER_STEP (R490). -/
def execControllerStep (s : State) : Host.Outcome State Fault Refusal :=
  act s "CONTROLLER_STEP" (inRun s.dev) (controllerEffect s.dev)

/-! ### The over-current guard (R491) -/

/-- A guard trips: counted, reported at most once in a ms. -/
def guardTrip (d : Dev) (die : Nat) : Dev :=
  let d := bump (onPwr d fun p => { p with guards := die :: p.guards }) .powerGuardTrips
  let due := match d.pwr.guardEvent with
    | none => true
    | some t => decide (d.upNs - t ≥ 1000000)
  if due then powerEvent (onPwr d fun p => { p with guardEvent := some d.upNs }) 0 0xAA noSource else d

/-- OVER_CURRENT_TRIP (R491, R550): a die of R514. -/
def execOverCurrentTrip (die : Nat) (s : State) : Host.Outcome State Fault Refusal :=
  act s "OVER_CURRENT_TRIP" (decide (die < 7) && decide (4 ≤ rd s.dev .bootStatusStage ∧ rd s.dev .bootStatusStage ≤ 8) && !s.dev.pwr.guards.contains die)
    (guardTrip s.dev die)

/-- CURRENT_GUARD_RELEASE (R491). -/
def execCurrentGuardRelease (die : Nat) (s : State) : Host.Outcome State Fault Refusal :=
  act s "CURRENT_GUARD_RELEASE" (s.dev.pwr.guards.contains die) (onPwr s.dev fun p => { p with guards := p.guards.filter (· ≠ die) })

/-! ### Heat (R493 to R495) -/

/-- Store readings: a signed number of eighths of a degree in 12 bits. -/
def senseAll (d : Dev) (l : List SensorReading) : Dev :=
  l.foldl (fun d r => if r.sensor < 168 then wr (wr d .powerSensorTemp r.sensor (r.temp % 4096).toNat) .powerSensorValid r.sensor 1 else d) d

/-- A sensor's reading; none while none is present. -/
def reading (d : Dev) (i : Nat) : Option Int := if isSet d .powerSensorValid i then some (signed 12 (rd d .powerSensorTemp i)) else none

/-- Sensors of a list that read at or above a number of degrees. -/
def hotOnes (d : Dev) (l : List Nat) (c : Nat) : List Nat := l.filter fun i => (reading d i).any fun t => decide (t ≥ 8 * (c : Int))

/-- Whether every sensor of a list with a reading reads below a number of degrees. -/
def allBelow (d : Dev) (l : List Nat) (c : Nat) : Bool := l.all fun i => (reading d i).all fun t => decide (t < 8 * (c : Int))

/-- One of a list of sensors, the design's choice, as the SOURCE of an event. -/
def someSensor (d : Dev) (cause : Nat) (l : List Nat) : Dev :=
  let c := choose d l.length
  thermalEvent c.2 cause (l.getD c.1 0)

/-- The sensors of the thermal cap (R494). -/
def capSensors : List Nat := List.range 112 ++ (List.range 12).map (140 + ·)

def throttleC (d : Dev) : Nat := clampTo 70 105 (rd d .powerThermalThrottleC)

/-- One step of the thermal cap. -/
def capStep (d : Dev) (l : List SensorReading) : Dev :=
  let d := senseAll d l
  let hot := hotOnes d capSensors (throttleC d)
  let cap := rd d .powerRateThermal
  if !hot.isEmpty then
    let d := wr d .powerRateThermal 0 (max 8 (cap - 4))
    if cap = 64 then someSensor d 0xA4 hot else d
  else if cap < 64 && allBelow d capSensors (throttleC d - 3) then
    let d := wr d .powerRateThermal 0 (cap + 1)
    if cap = 63 then someSensor d 0xA5 capSensors else d
  else d

/-- THERMAL_CAP_STEP (R494). -/
def execThermalCapStep (readings : List SensorReading) (s : State) : Host.Outcome State Fault Refusal :=
  act s "THERMAL_CAP_STEP" (inRun s.dev) (capStep s.dev readings)

/-- Stacks 0 to 11 and channels 12 to 19 with their sensors (R493). -/
def memUnits : List (Nat × List Nat) :=
  (List.range 12).map (fun s => (s, [112 + s])) ++ (List.range 8).map fun c => (12 + c, [124 + 2 * c, 125 + 2 * c])

def memLimit (d : Dev) : Nat := clampTo 70 100 (rd d .powerThermalMemLimitC)

/-- One unit's step: hotter than the limit halves its admission, cooler restores it a halving. -/
def memUnitStep (d : Dev) (u : Nat × List Nat) : Dev :=
  let n := getD d.pwr.memRate u.1 0
  let hot := hotOnes d u.2 (memLimit d)
  if !hot.isEmpty then
    let d := onPwr d fun p => { p with memRate := put p.memRate u.1 (min 3 (n + 1)) }
    if n < 3 then someSensor d 0xA6 hot else d
  else if n > 0 && allBelow d u.2 (memLimit d - 3) then onPwr d fun p => { p with memRate := putD p.memRate u.1 (n - 1) 0 }
  else d

/-- MEMORY_HOT_STEP (R495). -/
def execMemoryHotStep (readings : List SensorReading) (s : State) : Host.Outcome State Fault Refusal :=
  act s "MEMORY_HOT_STEP" (inRun s.dev) (memUnits.foldl memUnitStep (senseAll s.dev readings))

/-! ### The independent trip (R496) -/

/-- TRIP_C as it is used (R497, R503). -/
def tripC (d : Dev) : Nat := clampTo 90 110 (rd d .powerThermalTripC)

/-- The trip: everything off, the pair recorded. -/
def tripEffect (d : Dev) (pair : Nat) : Dev :=
  let d := holdback d 0xA7
  alert (wr (wr d .powerTripRecordTripped 0 1) .powerTripRecordPair 0 pair) 2

/-- Sensors of a trip pair. -/
def pairSensors (pair : Nat) : List Nat := [152 + 2 * pair, 153 + 2 * pair]

/-- THERMAL_TRIP (R496): eight ticks in a row at or above TRIP_C. -/
def execThermalTrip (pair : Nat) (readings : List SensorReading) (s : State) : Host.Outcome State Fault Refusal :=
  act s "THERMAL_TRIP"
    (decide (pair < 8) && s.dev.boot.powered && rd s.dev .bootStatusStage != 15
      && !(hotOnes (senseAll s.dev readings) (pairSensors pair) (tripC s.dev)).isEmpty)
    (tripEffect (senseAll s.dev readings) pair)

/-- By how much the sensors of a pair differ, in eighths of a degree; none without both readings. -/
def pairGap (d : Dev) (pair : Nat) : Option Nat :=
  match reading d (152 + 2 * pair), reading d (153 + 2 * pair) with
  | some a, some b => some (a - b).natAbs
  | _, _ => none

/-- The sensor of a pair that reads higher. -/
def higher (d : Dev) (pair : Nat) : Nat :=
  if (reading d (152 + 2 * pair)).getD 0 ≥ (reading d (153 + 2 * pair)).getD 0 then 152 + 2 * pair else 153 + 2 * pair

/-- TRIP_PAIR_DISAGREEMENT (R496). -/
def execTripPairDisagreement (pair : Nat) (readings : List SensorReading) (s : State) : Host.Outcome State Fault Refusal :=
  act s "TRIP_PAIR_DISAGREEMENT" (decide (pair < 8) && s.dev.boot.powered && (pairGap (senseAll s.dev readings) pair).any fun g => decide (g > 40))
    (let d := senseAll s.dev readings; thermalEvent d 0xA9 (higher d pair))

/-- Whether the package has cooled enough for a cold reset after a trip. -/
def cooled (d : Dev) : Bool := allBelow d ((List.range 16).map (152 + ·)) (tripC d - 15)

end Sys2Proof.Machine
end

