-- ==== Sys2Proof/Machine/Reset.lean ====
section
/-!
DEFINITION. The flash as data, flash commands (R473, R474), cold and warm resets (R472, R475 to R477, R496, R556).
-/
namespace Sys2Proof.Machine

/-! ### The flash -/

def flashSize : Nat := 0x4000000

/-- A byte of the flash; one never written is erased. -/
def flashByte (d : Dev) (a : Nat) : Byte := getD d.boot.flash a 0xFF

/-- `n` bytes of the flash. -/
def flashBytes (d : Dev) (a n : Nat) : List Byte := (List.range n).map fun i => flashByte d (a + i)

/-- `n` bytes of the flash as a number. -/
def flashNum (d : Dev) (a n : Nat) : Nat := fromBytes (flashBytes d a n)

/-- The flash with bytes written from an address, canonical. -/
def writeFlash (m : KMap Byte) (a : Nat) : List Byte → KMap Byte
  | [] => m
  | b :: t => writeFlash (putD m a b 0xFF) (a + 1) t

/-- The flash with a range erased. -/
def eraseFlash (d : Dev) (a n : Nat) : Dev :=
  onBoot d fun b => { b with flash := b.flash.filter fun e => decide (e.1 < a ∨ a + n ≤ e.1) }

/-- Whether a page holds erased bytes only. -/
def pageErased (d : Dev) (a : Nat) : Bool := d.boot.flash.all fun e => decide (e.1 < a ∨ a + 256 ≤ e.1)

/-- Whether a flash command is refused with 0xFA (R474). -/
def flashRefused (d : Dev) (op addr : Nat) : Bool :=
  decide (rd d .bootStatusStage ≤ 7) || decide (op = 0 ∨ op > 4) || decide (addr ≥ flashSize)
  || ((op == 1 || op == 2) && addr % 256 != 0) || (op == 3 && addr % 65536 != 0) || (op == 2 && !pageErased d addr)

/-- A write of FLASH_CMD.GO with the OP and address in place: discarded while BUSY is 1. -/
def flashGo (d : Dev) : Dev :=
  let op := rd d .bootFlashCmdOp
  let addr := rd d .bootFlashAddr
  if isSet d .bootFlashCmdBusy || !d.boot.powered then d
  else if flashRefused d op addr then wr d .bootFlashCmdResult 0 0xFA
  else
    let c : FlashCmd := { op := op, addr := addr, data := (List.range 32).map fun i => rd d .bootFlashBuf i }
    onBoot (wr d .bootFlashCmdBusy 0 1) fun b => { b with flashCmd := some c }

/-- What a finished flash command has done. -/
def flashApply (d : Dev) (c : FlashCmd) : Dev :=
  match c.op with
  | 1 => (List.range 32).foldl (fun d i => wr d .bootFlashBuf i (flashNum d (c.addr + 8 * i) 8)) d
  | 2 => onBoot d fun b => { b with flash := writeFlash b.flash c.addr (c.data.flatMap (toBytes 8)) }
  | 3 => eraseFlash d c.addr 65536
  | _ => eraseFlash d 0 flashSize

/-- The flash command completes. -/
def flashDone (d : Dev) (c : FlashCmd) : Dev :=
  let d := flashApply d c
  let d := if c.op = 1 then d else bump d .bootFlashOps
  onBoot (wr (wr d .bootFlashCmdBusy 0 0) .bootFlashCmdResult 0 0) fun b => { b with flashCmd := none }

/-- FLASH_READ (R473, R474): a write of FLASH_CMD with GO and this OP. -/
def execFlashRead (s : State) : Host.Outcome State Fault Refusal := cmd s "FLASH_READ" true (flashGo (wr s.dev .bootFlashCmdOp 0 1))

/-- FLASH_PROGRAM (R473, R474). -/
def execFlashProgram (s : State) : Host.Outcome State Fault Refusal := cmd s "FLASH_PROGRAM" true (flashGo (wr s.dev .bootFlashCmdOp 0 2))

/-- FLASH_ERASE_SECTOR (R473, R474). -/
def execFlashEraseSector (s : State) : Host.Outcome State Fault Refusal :=
  cmd s "FLASH_ERASE_SECTOR" true (flashGo (wr s.dev .bootFlashCmdOp 0 3))

/-- FLASH_ERASE_ALL (R473, R474). -/
def execFlashEraseAll (s : State) : Host.Outcome State Fault Refusal := cmd s "FLASH_ERASE_ALL" true (flashGo (wr s.dev .bootFlashCmdOp 0 4))

/-- FLASH_CMD_COMPLETE (R473, R478). -/
def execFlashCmdComplete (s : State) : Host.Outcome State Fault Refusal :=
  act s "FLASH_CMD_COMPLETE" (s.dev.boot.powered && s.dev.boot.flashCmd.isSome)
    (match s.dev.boot.flashCmd with
     | some c => flashDone s.dev c
     | none => s.dev)

/-! ### Cold resets -/

/-- A flash command that a loss of power or a cold reset meets: it has done all of its work or none, by free choice. -/
def flashCut (d : Dev) : Dev :=
  match d.boot.flashCmd with
  | none => d
  | some c => let x := choose d 2; if x.1 = 1 then flashApply x.2 c else x.2

/-- Nothing volatile is left: no register, no memory, no unit's state; what is outside the package stays. -/
def wiped (d : Dev) : Dev := { free := d.free, upNs := d.upNs, out := d.out, mem := { host := d.mem.host }, boot := { flash := d.boot.flash } }

/-- The device begins a cold start of a kind (R478): stage POWER, TRIP_RECORD kept (R496). -/
def coldStart (d : Dev) (kind : Nat) : Dev :=
  let old := flashCut d
  let d := wiped old
  let d := onBoot d fun b => { b with powered := true, due := 1, startNs := d.upNs }
  let d := wr (wr d .powerTripRecordTripped 0 (rd old .powerTripRecordTripped)) .powerTripRecordPair 0 (rd old .powerTripRecordPair)
  let d := if isSet d .powerTripRecordTripped then alert d 2 else d
  wr d .bootStatusResetKind 0 kind

/-- Whether a cold reset is held: after a trip, until the package has cooled. -/
def tripHeld (d : Dev) : Bool := rd d .bootStatusStage == 15 && rd d .bootStatusCause == 0xA7 && !cooled d

/-- A cold reset is asked for: it waits for a fuse write (R467) and for the package to cool after a trip (R496). -/
def coldReset (d : Dev) (kind : Nat) : Dev :=
  if !d.boot.powered then d
  else if d.boot.fuse.isSome then onBoot d fun b => { b with coldAfter := b.coldAfter.orElse fun _ => some kind }
  else if tripHeld d then onPwr d fun p => { p with heldReset := p.heldReset.orElse fun _ => some kind }
  else coldStart d kind

/-- The word that a reset's write carries in CONFIRM. -/
def confirmWord : Nat := 0x5A17

/-- COLD_RESET (R472, R475): a write of BOOT.CTRL with COLD set. -/
def execColdReset (confirm : Nat) (s : State) : Host.Outcome State Fault Refusal :=
  cmd s "COLD_RESET" (decide (confirm < 65536))
    (let d := wr s.dev .bootCtrlConfirm 0 confirm
     if confirm = confirmWord then coldReset d 1 else d)

/-- MANAGEMENT_RESET (R556). -/
def execManagementReset (s : State) : Host.Outcome State Fault Refusal := cmd s "MANAGEMENT_RESET" true (coldReset s.dev 3)

/-- TRIP_COOLDOWN (R496): every trip sensor comes to read below TRIP_C − 15 °C; a held cold reset goes on. -/
def execTripCooldown (readings : List SensorReading) (s : State) : Host.Outcome State Fault Refusal :=
  act s "TRIP_COOLDOWN"
    (s.dev.boot.powered && rd s.dev .bootStatusStage == 15 && rd s.dev .bootStatusCause == 0xA7 && cooled (senseAll s.dev readings))
    (let d := senseAll s.dev readings
     match d.pwr.heldReset with
     | some k => coldStart d k
     | none => d)

/-! ### The warm reset (R476, R477) -/

/-- A queue pair's context, resident or stored, set to ERROR with 0xF9 and written back. -/
def warmQp (d : Dev) (n : Nat) : Dev :=
  match peekQp d n with
  | none => d
  | some q =>
    let q := if q.state = 0 then q else { q with state := 5, lastCause := 0xF9 }
    match qpPlace d n with
    | some (true, _) => if attached d then writeBack d n q else d
    | _ => writeBack d n q

/-- Every queue pair, resident or stored. -/
def everyQp (d : Dev) : List Nat :=
  let stored := ((List.range 256).filter fun c => isSet d .transportQpcDirValid c).flatMap (chunkQpns d)
  (d.tr.qps.map (·.1) ++ stored.filter fun n => (qpAt d n).isNone).filter (· ≠ 0)

/-- The register fields a warm reset sets to their reset values. -/
def warmCleared : List Fld := [
  .ringStateState, .ringStateEnable, .ringStateLastCause, .ringHeadIndex, .ringHeadExpectedPhase, .ringDoorbellHint, .ringInflight,
  .cqState, .cqEnable, .cqArmed, .cqLastCause, .cqLost, .cqProducer, .cqConsumer,
  .eqState, .eqEnable, .eqArmed, .eqLastCause, .eqLost, .eqProducer, .eqConsumer,
  .transportCollQEnable, .transportCollQHead, .transportCollQExpectedPhase, .transportCollQState, .transportCollQLastCause,
  .transportCollGroupState, .transportCollGroupPartition, .transportCollGroupLastCause, .transportCollGroupRound, .transportCollBufLevel,
  .pwinRingDbIndex, .pwinRingDbRing, .pwinCqDbIndex, .pwinCqDbCq, .pwinCqDbArm, .pwinEqDbIndex, .pwinEqDbEq, .pwinEqDbArm,
  .pwinQpDbIndex, .pwinQpDbQpn, .pwinQpDbQueue, .pwinRawDbIndex, .pwinRawDbSubport, .pwinRawDbRing, .pwinCollDbIndex,
  .portsubRawCfgRxEn, .portsubRawCfgTxEn, .portsubRawStateRxHead, .portsubRawStateTxHead, .portsubLinkState,
  .portsubGateCtrlPending, .portsubGateCtrlOperBank, .portsubGateCtrlRunning, .portsubGateStart,
  .hlStatusMod0, .hlStatusMod1, .hlStatusCfgModule, .hlRejoinResult, .meshRouteCtrlDraining, .meshRouteCtrlPending,
  .transportQpCmdBusy, .transportQpCmdResult, .transportCollCmdBusy, .transportCollCmdResult, .yewSlotCmdBusy, .yewSlotCmdResult,
  .tileCmdBusy, .tileCmdResult, .pwinAttestCtrlBusy, .pwinAttestCtrlErr, .memoryCmpRegionBusy, .safetyTileRetireBusy, .safetyTileRetireResult,
  .transportResident, .transportSticky, .transportMissParkLevel, .transportLiveSets, .yewSlotInflight,
  .partStatusState, .partStatusBusy, .partStatusResult, .partCountRings, .partCountCqs, .partCountEqs,
  .tileOwnerReleasing, .lastDiscardOffset, .lastDiscardSource, .lastDiscardPartition, .accessStatusStallTimeout,
  .compatStatusBusy, .compatStatusOverflow, .compatStatusHalfDropped, .compatStatusQueued,
  .safetyStatusHalted, .safetyStatusHaltCause, .safetyStatusHaltDie, .powerTileState, .powerHedgeState, .powerLaurelState, .powerMeshState]

/-- Slots that were waiting to be erased are erased. -/
def finishErases (d : Dev) : Dev :=
  ((listed d .yewSlotState).filter fun s => rd d .yewSlotState s = 2).foldl (fun d s => wr (zeroKeys d s) .yewSlotState s 0) d

/-- State outside the registers after the reset: DRAM, keys, held fault slots and what the always-on domain keeps. -/
def warmState (d : Dev) : Dev :=
  let u := d.disp.nextUid
  let dram := fun (a : Nat) => decide (a < spBase)
  { d with
    mem := { d.mem with
      bytes := d.mem.bytes.filter (fun e => dram e.1), ecc := d.mem.ecc.filter (fun e => dram e.1), ceWin := [],
      flips := d.mem.flips.filter (fun e => dram e.1)
      spScrub := [], hbmPatrol := [], ddrPatrol := [], sram := [] }
    xl := {
      slotGen := d.xl.slotGen, slotRec := d.xl.slotRec, held := d.xl.held.map fun e => (e.1, { e.2 with work := .item u })
      cmdBase := d.xl.cmdBase, cmdLog2 := d.xl.cmdLog2, cmdCq := d.xl.cmdCq, nextInval := d.xl.nextInval, stopped := d.xl.stopped }
    hl := { msix := d.hl.msix, numVfs := d.hl.numVfs, apSize := d.hl.apSize, refusing := d.hl.refusing }
    disp := { nextUid := u + 1, nextStamp := d.disp.nextStamp }
    pwr := { d.pwr with waking := [], pllFails := [], guards := [], spares := [] }
    tr := { known := d.tr.known }
    top := {}
    att := {}
    port := { frac := d.port.frac, adjRem := d.port.adjRem, cal := d.port.cal }
    parts := {}
    safe := { lost := d.safe.lost }
    yew := { keys := d.yew.keys, reports := d.yew.reports }
    mesh := {}
    coll := {}
    acc := { alertNs := d.acc.alertNs } }

/-- Spares counted again, for a switch-over that the reset cut short. -/
def recountSpares (d : Dev) : Dev :=
  let n := fun (u : Nat) => ((List.range 16).filter fun s => rd d .spareMapUse s = u).length
  wr (wr d .sparesRuntimeLeft 0 (n 0)) .sparesInService 0 (n 2)

/-- The warm reset, up to its first stage. -/
def warmReset (d : Dev) : Dev :=
  let d := (everyQp d).foldl warmQp d
  let d := finishErases d
  let d := warmState (warmCleared.foldl clearFld d)
  let d := (List.range 10).foldl (fun d c => wr d .meshLinkStatusUp c (2 ^ groupsOf c - 1)) (recountSpares d)
  let d := (List.range 32).foldl (fun d s => wr d .portsubLinkLos s (rd d .portCtrlEnable (s / 4))) d
  let d := wr (wr d .bootStatusStage 0 2) .bootStatusResetKind 0 2
  onBoot d fun b => { b with due := 2, warm := true, startNs := d.upNs, done := [], waiting := none }

/-- A WARM write carries: accepted in RUN only. -/
def warmAsked (d : Dev) : Dev := if rd d .bootStatusStage = 8 ∧ d.boot.powered then warmReset d else d

/-- WARM_RESET (R472, R475, R476): a write of BOOT.CTRL with WARM set. -/
def execWarmReset (confirm : Nat) (s : State) : Host.Outcome State Fault Refusal :=
  cmd s "WARM_RESET" (decide (confirm < 65536))
    (let d := wr s.dev .bootCtrlConfirm 0 confirm
     if confirm = confirmWord then warmAsked d else d)

end Sys2Proof.Machine
end

