-- ==== Sys2Proof/Machine/Native.lean ====
section
/-!
DEFINITION. Native register writes (R14 to R18, R91, R249, R380, R448, R450, R528 to R539, R559): what the write of a
register does, how it is discarded, and the accesses that wait behind a write that stalls (R531, R532).
-/
namespace Sys2Proof.Machine

/-- What became of a register access: applied; discarded under R17 or R530; discarded by another rule; refused in
holdback or a halt (R471, R513); waiting. -/
inductive AccRes where
  | applied
  | discarded
  | dropped
  | refused
  | waits
deriving DecidableEq, Repr

/-- A register write as it reaches its register: source, the partition it acts for, offset, width, value. -/
structure RegWrite where
  src : Source
  part : Nat
  off : Nat
  width : Nat
  val : Nat
deriving DecidableEq, Repr

/-- LAST_DISCARD.SOURCE of a source (R545); the sequencer has no code, so a free one. -/
def srcCode (d : Dev) : Source → Nat × Dev
  | .host m _ _ => (m, d)
  | .i3c => (2, d)
  | .compat => (3, d)
  | .sequencer => choose d 4

/-- A write discarded and counted in GLOBAL.DISCARDED_WRITES. -/
def discard (d : Dev) (w : RegWrite) : Dev := let c := srcCode d w.src; discardWrite c.2 c.1 w.off w.part

/-! ### Fields a write covers -/

/-- Whether a field meets the bits a write covers, and whether it lies wholly in them. -/
def meetsField (w : RegWrite) (e : FldAt) : Bool := decide (e.pos < 8 * (w.off + w.width) ∧ 8 * w.off < e.pos + e.fld.info.width)
def holdsField (w : RegWrite) (e : FldAt) : Bool := decide (8 * w.off ≤ e.pos ∧ e.pos + e.fld.info.width ≤ 8 * (w.off + w.width))

/-- The value a write carries for a field. -/
def carried (w : RegWrite) (e : FldAt) : Nat := cut w.val (e.pos - 8 * w.off) e.fld.info.width

/-- The value a write carries for a field, when it covers it. -/
def carriedFor (w : RegWrite) (f : Fld) : Option Nat := ((wordFields w.off).find? fun e => e.fld == f && holdsField w e).map (carried w)

/-- The entry of a register of an array that a write names by one of the register's fields. -/
def entryOfField (w : RegWrite) (fs : List Fld) : Option Nat := ((wordFields w.off).find? fun e => fs.contains e.fld).map (·.idx)

/-! ### Writes that a rule discards -/

/-- Registers written only in one state (R91, R249, R559). -/
def lockedNow (d : Dev) (e : FldAt) : Bool :=
  match e.fld with
  | .ringBaseAddr => rd d .ringStateState e.idx != 0
  | .ringCfgLog2Size => rd d .ringStateState e.idx != 0
  | .cqBase => rd d .cqState e.idx != 0
  | .cqLog2Size => rd d .cqState e.idx != 0
  | .eqBase => rd d .eqState e.idx != 0
  | .eqLog2Size => rd d .eqState e.idx != 0
  | .xlateCmdqBase => isSet d .xlateCmdqCfgEnable
  | _ => false

/-- The sub-port whose gate configuration a write may not change now (R380); a write of CHANGE is the command's own
affair. -/
def gateLocked (d : Dev) (w : RegWrite) : Option Nat :=
  (wordFields w.off).findSome? fun e =>
    match e.fld with
    | .portsubGateAdminBase => if isSet d .portsubGateCtrlPending e.idx then some e.idx else none
    | .portsubGateAdminCycleNs => if isSet d .portsubGateCtrlPending e.idx then some e.idx else none
    | .portsubGateEntry =>
      let sub := e.idx / 512
      let bank := e.idx / 256 % 2
      if bank = rd d .portsubGateCtrlOperBank sub ∨ isSet d .portsubGateCtrlPending sub = true then some sub else none
    | _ => none

/-- The partition whose quota a write of SLOT.OWNER would break (R448), with the state after the write. -/
def slotQuota (d d' : Dev) (w : RegWrite) : Option Nat :=
  (carriedFor w .yewSlotOwner).filter fun p => decide (slotsOwned d' p > slotsOwned d p ∧ slotsOwned d' p > rd d .partQuotaSlotMax p)

/-! ### The plain part of a write -/

/-- Fields whose write is a command of its own, done after the others of its register. -/
def isCommand : Fld → Bool
  | .ringStateEnable => true
  | .cqEnable => true
  | .eqEnable => true
  | .transportCollQEnable => true
  | .memoryCmpRegionEnable => true
  | .portCtrlEnable => true
  | .xlateCmdqCfgEnable => true
  | .xlateCmdqCfgLog2Size => true
  | .xlateCmdqCfgCq => true
  | .powerLimitSustainedW => true
  | .powerSealFloor => true
  | .powerPartLtr => true
  | .powerRingLtr => true
  | .meshRouteWrCmdCrossing => true
  | .meshRouteWrCmdIndex => true
  | .meshRouteWrCmdCommit => true
  | _ => false

/-- One field takes its value by its access code (R14, R15, R16). -/
def plainField (w : RegWrite) (d : Dev) (e : FldAt) : Dev :=
  let v := carried w e
  if isCommand e.fld then d
  else
    match e.fld.info.access with
    | .rw => wr d e.fld e.idx v
    | .rwv => wr d e.fld e.idx v
    | .rwc => { d with shadow := put d.shadow (fkey e.fld e.idx) v }
    | .w1c => wr d e.fld e.idx (rd d e.fld e.idx &&& (v ^^^ (2 ^ e.fld.info.width - 1)))
    | _ => d

/-! ### What follows from a plain write -/

/-- The partition that a voted field's loss stops (R503). -/
def stopsPart (e : FldAt) : Option Nat :=
  match e.fld with
  | .hlPeerRidId => some (e.idx / 8)
  | .hlPeerRidValid => some (e.idx / 8)
  | .partSealCfgHedge => some e.idx
  | .partSubports => some e.idx
  | .xlatePtBaseEn => some e.idx
  | .xlatePtBaseBase => some e.idx
  | .meshNodeMapEn => some e.idx
  | .meshNodeMapBase => some e.idx
  | _ => none

/-- The keys whose loss keeps a partition stopped. -/
def stopKeys (p : Nat) : List Nat :=
  [fkey .partSealCfgHedge p, fkey .partSubports p, fkey .xlatePtBaseEn p, fkey .xlatePtBaseBase p, fkey .meshNodeMapEn p,
   fkey .meshNodeMapBase p] ++ (List.range 8).flatMap fun j => [fkey .hlPeerRidId (8 * p + j), fkey .hlPeerRidValid (8 * p + j)]

/-- A voted field has been rewritten: its loss is over, and a partition no lost vote stops runs again (R16, R504). -/
def healed (d : Dev) (e : FldAt) : Dev :=
  let d := onSafe d fun x => { x with lost := x.lost.filter (· ≠ fkey e.fld e.idx) }
  match stopsPart e with
  | none => d
  | some p =>
    if (stopKeys p).any d.safe.lost.contains then d
    else onXl d fun x => { x with stopped := x.stopped.filter (· ≠ p) }

/-- A chunk's directory entry has been written (R337): its contexts are checked again when they are first fetched, and its resident
contexts in RESET are not the ones it holds now. -/
def chunkMoved (d : Dev) (c : Nat) : Dev :=
  let mine := (d.tr.qps.filter fun e => e.1 / 65536 = c && e.2.state = 0).map (·.1)
  mine.foldl dropResident (onTr d fun t => { t with known := t.known.filter fun n => n / 65536 != c })

/-- What a field's new value changes elsewhere. -/
def follow (w : RegWrite) (d : Dev) (e : FldAt) : Dev :=
  match e.fld with
  | .topiaryMeterCir => onTop d fun t => { t with buckets := del t.buckets e.idx }
  | .topiaryMeterPir => onTop d fun t => { t with buckets := del t.buckets e.idx }
  | .topiaryMeterCbs => onTop d fun t => { t with buckets := del t.buckets e.idx }
  | .topiaryMeterPbs => onTop d fun t => { t with buckets := del t.buckets e.idx }
  | .transportQpcDirValid => chunkMoved d e.idx
  | .transportQpcDirHost => chunkMoved d e.idx
  | .transportQpcDirBase => chunkMoved d e.idx
  | .portsubRawCfgRxEn => if carried w e = 0 then onPort d fun p => { p with bufs := del p.bufs e.idx } else d
  | .portsubRawCfgTxEn => if carried w e = 0 then setSleep d (.rawTx e.idx) none else d
  | .powerTripRecordTripped =>
    if rd d .powerTripRecordTripped = 0 then wr d .mgmtAlertPending 0 (rd d .mgmtAlertPending &&& 0xFB) else d
  | _ => if e.fld.info.access = .rwv then healed d e else d

/-! ### Commands -/

/-- A write of COLL_Q.ENABLE. -/
def collEnable (d : Dev) (p v : Nat) : Dev :=
  if v = 0 then setSleep (wr (wr d .transportCollQEnable p 0) .transportCollQState p 0) (.coll p) none
  else if isSet d .transportCollQEnable p then d
  else wr (wr d .transportCollQEnable p 1) .transportCollQState p 1

/-- QP_CMD.GO with the register's QPN and OP (R314). -/
def qpGo (d : Dev) : Dev :=
  let n := rd d .transportQpCmdQpn
  let a := rd d .transportQpCmdAddr * 512
  match rd d .transportQpCmdOp with
  | 1 => writeContextEffect d n a
  | 2 => readContextEffect d n a
  | 3 => readyEffect d n
  | 4 => drainEffect d n
  | 5 => qpErrorEffect d n
  | 6 => qpResetEffect d n
  | op => qpResult d n op 0x2D

/-- COLL_CMD.GO with the register's GROUP and OP. -/
def groupGo (d : Dev) : Dev :=
  let g := rd d .transportCollCmdGroup
  match rd d .transportCollCmdOp with
  | 1 => groupLoadEffect d g
  | 2 => groupUnloadEffect d g
  | op => collResult d g op 0xDD

/-- GLOBAL.COMMIT.GO (R536): every shadow takes effect. -/
def commitGo (d : Dev) : Dev :=
  match find? d.shadow (fkey .mgmtAlertMask 0) with
  | some v => { wr d .mgmtAlertMask 0 v with shadow := del d.shadow (fkey .mgmtAlertMask 0) }
  | none => d

/-- A field whose write is a command, with the value it carries: what its GO, its ENABLE or its write does. -/
def fieldCommand (d : Dev) (f : Fld) (i v : Nat) : Dev :=
  match f with
  | .ringStateEnable => if v = 1 then ringEnableEffect d i else ringDisableEffect d i
  | .ringStateRestart => if v = 1 then ringRestartEffect d i else d
  | .cqEnable => if v = 1 then cqEnableEffect d i else cqDisableEffect d i
  | .eqEnable => if v = 1 then eqEnableEffect d i else eqDisableEffect d i
  | .transportCollQEnable => collEnable d i v
  | .memoryCmpRegionEnable => if v = 1 then cmpEnableEffect d i else cmpDisableEffect d i
  | .portCtrlEnable => portEnableEffect d i v
  | .timeSetNs => timeMoved d v 0
  | .timeStepNs => timeMoved d (now d + v) d.port.frac
  | .hlRejoinRequest => if v = 1 then rejoinEffect d (rd d .hlRejoinEpoch) else d
  | .hlCtrlDetach => if v = 1 then detach d else d
  | .xlateCmdqDoorbell => cmdqGo (wake d .laurel) 64
  | .transportQpCmdGo => if v = 1 then qpGo d else d
  | .transportCollCmdGo => if v = 1 then groupGo d else d
  | .transportPathsetInvalSet => pathsetEffect d v
  | .meshNodeMapInvalNode => nodeMapInval d (rd d .meshNodeMapInvalPartition) v
  | .yewTableInvalAll => tableInvalGo d
  | .yewSlotCmdGo => if v = 1 then slotGo d else d
  | .tileCmdGo => if v = 1 then tileGo d else d
  | .partCtrlFreeze => if v = 1 then freezeGo d i else d
  | .partCtrlThaw => if v = 1 then thawGo d i else d
  | .partCtrlSave => if v = 1 then saveGo d i else d
  | .partCtrlRestore => if v = 1 then restoreGo d i else d
  | .partCtrlSeal => if v = 1 then sealGo d i else d
  | .partCtrlUnseal => if v = 1 then unsealGo d i else d
  | .bootFlashCmdGo => if v = 1 then flashGo d else d
  | .safetyTileRetireGo => if v = 1 then retireGo d else d
  | .commitGo => if v = 1 then commitGo d else d
  | .pwinAttestCtrlGo => if v = 1 then attestGo d i else d
  | .portsubGateCtrlChange => if v = 1 then gateChangeEffect d i else d
  | .portsubGateCtrlCancel => if v = 1 then gateCancelEffect d i else d
  | .powerPartLtr => ltrEffect d false i v
  | .powerRingLtr => ltrEffect d true i v
  | _ => d

/-- The reset that a write of BOOT.CTRL asks for (R475): COLD goes before WARM. -/
def bootCtrl (d : Dev) (w : RegWrite) : Dev :=
  if carriedFor w .bootCtrlConfirm ≠ some confirmWord then d
  else if carriedFor w .bootCtrlCold = some 1 then coldReset d 1
  else if carriedFor w .bootCtrlWarm = some 1 then warmAsked d
  else d

/-- A limit that the write carries and the budget refuses (R492): the state after the refusal. -/
def limitStops (d : Dev) (w : RegWrite) : Option Dev :=
  match carriedFor w .powerLimitSustainedW with
  | some v => let x := sustainedWrite d v; if rd x .powerLimitSustainedW = v then none else some x
  | none =>
    match carriedFor w .powerSealFloor, entryOfField w [.powerSealFloor] with
    | some v, some p => let x := floorWrite d p v; if rd x .powerSealFloor p = v then none else some x
    | _, _ => none

/-- The limits that the write carries and nothing refuses. -/
def setLimits (d : Dev) (w : RegWrite) : Dev :=
  let d := match carriedFor w .powerLimitSustainedW with
    | some v => wr d .powerLimitSustainedW 0 v
    | none => d
  match carriedFor w .powerSealFloor, entryOfField w [.powerSealFloor] with
  | some v, some p => wr d .powerSealFloor p v
  | _, _ => d

/-! ### A whole write -/

/-- The write of XLATE.CMDQ_CFG, with what it does not cover as it stands (R559). -/
def cmdqWrite (d : Dev) (w : RegWrite) : Dev × AccRes :=
  match carriedFor w .xlateCmdqCfgEnable with
  | none => (d, .applied)
  | some _ =>
    let c := srcCode d w.src
    let x := cmdqCfgWrite c.2 c.1 w.val
    (x, if rd x .discardedWrites = rd d .discardedWrites then .applied else .dropped)

/-- A write that no other rule discards: its fields, what follows from them, its commands. -/
def regApply (d : Dev) (w : RegWrite) : Dev × AccRes :=
  let es := (wordFields w.off).filter (holdsField w)
  let d1 := setLimits (es.foldl (plainField w) d) w
  match slotQuota d d1 w with
  | some p => (bump d .partRefusals p, .dropped)
  | none =>
    if !(sealedOnes d).isEmpty && breaksSeal d d1 then (sealDiscard d d1, .dropped)
    else
      let d2 := es.foldl (follow w) d1
      let d3 := es.foldl (fun d e => fieldCommand d e.fld e.idx (carried w e)) d2
      (bootCtrl d3 w, .applied)

/-- A write of an assigned register of a width and alignment of R530. -/
def regWrite (d : Dev) (w : RegWrite) : Dev × AccRes :=
  let es := wordFields w.off
  if es.any fun e => meetsField w e && !holdsField w e then (discard d w, .discarded)
  else if es.any (lockedNow d) then (discard d w, .dropped)
  else if es.any fun e => e.fld == .xlateCmdqCfgEnable then cmdqWrite d w
  else
    match gateLocked d w with
    | some sub => (bump d .portsubGateWriteDiscards sub, .dropped)
    | none =>
      match limitStops d w with
      | some x => (x, .dropped)
      | none => if (carriedFor w .meshRouteWrCmdCommit).isSome then (routeEnqueue d w.val, .applied) else regApply d w

/-! ### Doorbells (R240) -/

/-- The doorbell register an access meets in a partition window: the window and its offset there. -/
def doorbell (off width : Nat) : Option (Nat × Nat) :=
  let at_ := fun (a : Nat) =>
    if windowBase ≤ a ∧ a < capBase ∧ [0x00, 0x08, 0x10, 0x30, 0x40].contains ((a - windowBase) % 0x10000 / 8 * 8) then
      some ((a - windowBase) / 0x10000, (a - windowBase) % 0x10000 / 8 * 8)
    else if windowBase ≤ a ∧ a < windowBase + 0x10000 ∧ (a - windowBase) / 8 * 8 = 0x38 then some (0, 0x38)
    else none
  (List.range width).findSome? fun i => at_ (off + i)

def doorbellWrite (d : Dev) (win o width val : Nat) : Dev :=
  match o with
  | 0x00 => ringDoorbellEffect d win width val
  | 0x08 => cqDbEffect d win width val
  | 0x10 => eqDbEffect d win width val
  | 0x30 => qpDbEffect d win width val (bitOf val 56)
  | 0x38 => rawDbEffect d win width val
  | _ => collDbEffect d win width val

/-! ### The write as its source makes it -/

/-- Whether a source reaches the COMPAT block: P0 through the host link (R540). -/
def reachesCompat : Source → Bool
  | .host _ fn _ => fn == 0
  | _ => false

/-- Whether an offset is assigned (R528): a register begins in the bytes of the access, or in its aligned 8 bytes. -/
def assigned (w : RegWrite) : Bool :=
  if inCompat w.off then reachesCompat w.src && !inMirror w.off && (wordFields w.off).any (meetsField w)
  else !(wordFields w.off).isEmpty || (decide (windowBase ≤ w.off ∧ w.off < capBase) && (w.off - windowBase) % 0x10000 / 8 * 8 == 0x38)

/-- A posted write to the mirror (R541), which is 4 bytes wide. -/
def isPosted (w : RegWrite) : Bool := reachesCompat w.src && inMirror w.off && w.width == 4 && w.off % 4 == 0

/-- A register write whose source may make it and which does not wait. -/
def nativeWrite (d : Dev) (w : RegWrite) : Dev × AccRes :=
  if isPosted w then (compatPosted d (w.off - mirrorBase) w.val, .applied)
  else
    match doorbell w.off w.width with
    | some (win, o) =>
      let n := rd d .pwinDbDiscards win
      let x := doorbellWrite d win o (if w.off % 8 = 0 then w.width else 0) w.val
      (x, if rd x .pwinDbDiscards win = n then .applied else .dropped)
    | none => if accessOk w.off w.width && assigned w then regWrite d w else (discard d w, .discarded)

/-- Blocks a write reaches in a halt (R513): BOOT and SAFETY. -/
def haltOpen (off : Nat) : Bool := decide (0x100000 ≤ off ∧ off < 0x200000 ∨ 0x300000 ≤ off ∧ off < 0x400000)

/-- A register write as holdback and a halt narrow it (R471, R513). -/
def gatedWrite (d : Dev) (w : RegWrite) : Dev × AccRes :=
  if rd d .bootStatusStage = 15 then
    if w.src = .i3c ∧ 0x100000 ≤ w.off ∧ w.off < 0x200000 then nativeWrite d w else (d, .refused)
  else if isSet d .safetyStatusHalted && !haltOpen w.off && !isPosted w then (d, .refused)
  else nativeWrite d w

/-! ### Accesses that wait (R531, R532) -/

/-- Whether two accesses come from one source; on the host link a module is one. -/
def sameSource : Source → Source → Bool
  | .host m _ _, .host n _ _ => m == n
  | .i3c, .i3c => true
  | .compat, .compat => true
  | .sequencer, .sequencer => true
  | _, _ => false

/-- Whether a write of ROUTE_WR_CMD finds the change queue full (R288). -/
def stallsNow (d : Dev) (off width : Nat) : Bool := accessOk off width && off == 0x2400008 && !routeRoom d && !isSet d .safetyStatusHalted

def waitsBehind (d : Dev) (src : Source) : Bool := d.acc.held.any fun h => sameSource h.src src

/-- The partition an access acts for (R529, R538): that of the window, or of a virtual function's capability page. -/
def actsFor (src : Source) (off : Nat) : Nat :=
  match src with
  | .host _ fn _ => if fn ≠ 0 then fn else if windowBase ≤ off ∧ off < capBase then (off - windowBase) / 0x10000 else 0
  | _ => if windowBase ≤ off ∧ off < capBase then (off - windowBase) / 0x10000 else 0

/-- A register write arrives: it waits behind a stalled one of its source, or stalls itself, or acts. -/
def arrive (d : Dev) (src : Source) (off width val : Nat) : Dev × AccRes :=
  if waitsBehind d src || stallsNow d off width then
    (onAcc d fun a => { a with held := a.held ++ [{ src := src, off := off, width := width, val := some val }] }, .waits)
  else gatedWrite d { src := src, part := actsFor src off, off := off, width := width, val := val }

/-- The status byte of an I3C access (R554); the spec gives none for a write that another rule discards. -/
def statusOf (d : Dev) : AccRes → Nat × Dev
  | .applied => (0, d)
  | .discarded => (1, d)
  | .refused => (2, d)
  | .waits => (0, d)
  | .dropped => choose d 3

/-- The answer of an I3C write. -/
def i3cStatus (r : Dev × AccRes) : Dev :=
  if r.2 = .waits then r.1 else let s := statusOf r.1 r.2; emit s.2 (.i3c [s.1])

/-- An I3C read with its answer: in holdback only GLOBAL and BOOT respond. -/
def i3cReadNow (pm : Perm) (d : Dev) (off : Nat) : Dev :=
  if rd d .bootStatusStage = 15 ∧ 0x200000 ≤ off then
    let v := fresh d
    emit v.2 (.i3c ((toBytes 8 v.1).map (·.toNat) ++ [2]))
  else emit (readLatch d off 8) (.i3c ((toBytes 8 (nativeRead pm d off 8 false)).map (·.toNat) ++ [0]))

/-- A read of device time with its answer (R376). -/
def timeReadNow (d : Dev) (src : Source) : Dev := emit (timeLatch d) (.regRead src 0x50000 (now d))

/-- An access that has waited acts. -/
def heldAct (pm : Perm) (d : Dev) (h : HeldAcc) : Dev :=
  match h.val with
  | some v =>
    let r := gatedWrite d { src := h.src, part := actsFor h.src h.off, off := h.off, width := h.width, val := v }
    if h.src = .i3c then i3cStatus r else r.1
  | none => if h.src = .i3c ∧ h.width = 8 then i3cReadNow pm d h.off else timeReadNow d h.src

/-- Whether a waiting access may act: the first of its source, and not a write that still stalls. -/
def mayAct (d : Dev) (earlier : List HeldAcc) (h : HeldAcc) : Bool :=
  !earlier.any (fun e => sameSource e.src h.src) && !(h.val.isSome && stallsNow d h.off h.width)

/-- The first waiting access that may act, and the others. -/
def takeHeld (d : Dev) : List HeldAcc → List HeldAcc → Option (HeldAcc × List HeldAcc)
  | _, [] => none
  | pre, h :: t => if mayAct d pre h then some (h, pre ++ t) else takeHeld d (pre ++ [h]) t

/-- Waiting accesses act as far as they may. -/
def releaseHeld (pm : Perm) : Nat → Dev → Dev
  | 0, d => d
  | fuel + 1, d =>
    match takeHeld d [] d.acc.held with
    | none => d
    | some (h, rest) => releaseHeld pm fuel (heldAct pm (onAcc d fun a => { a with held := rest }) h)

def releaseAll (pm : Perm) (d : Dev) : Dev := releaseHeld pm (d.acc.held.length + 1) d

/-- The oldest stalled write is discarded after 5 ms, with its I3C answer (R532). -/
def stallTimeout (pm : Perm) (d : Dev) : Dev :=
  match d.acc.held with
  | [] => d
  | h :: t =>
    let d := wr (bump (onAcc d fun a => { a with held := t }) .stallTimeouts) .accessStatusStallTimeout 0 1
    releaseAll pm (if h.src = .i3c then i3cStatus (d, .dropped) else d)

/-- STALL_TIMEOUT (R532). -/
def execStallTimeout (s : State) : Host.Outcome State Fault Refusal :=
  act s "STALL_TIMEOUT" (!s.dev.acc.held.isEmpty) (stallTimeout s.perm s.dev)

/-! ### Route commands (R286 to R289) -/

/-- The stages in which the mesh takes route commands: RUN outside a halt, and CONFIG to BRINGUP, whose records may
write them (R464). -/
def meshUp (d : Dev) : Bool := inRun d || (decide (5 ≤ rd d .bootStatusStage) && decide (rd d .bootStatusStage ≤ 7))

/-- ROUTE_ENTRY_WRITE (R287, R288): the entry write at the head of the change queue. -/
def execRouteEntryWrite (s : State) : Host.Outcome State Fault Refusal :=
  act s "ROUTE_ENTRY_WRITE" (meshUp s.dev && (routeFront s.dev false).isSome)
    (match routeFront s.dev false with
     | some c => releaseAll s.perm (routeApply s.dev c)
     | none => s.dev)

/-- ROUTE_COMMIT (R287, R288): the commit at the head of the change queue. -/
def execRouteCommit (s : State) : Host.Outcome State Fault Refusal :=
  act s "ROUTE_COMMIT" (meshUp s.dev && (routeFront s.dev true).isSome)
    (match routeFront s.dev true with
     | some c => releaseAll s.perm (routeApply s.dev c)
     | none => s.dev)

/-- COMMIT (R536). -/
def execCommit (s : State) : Host.Outcome State Fault Refusal := drv s "COMMIT" true (commitGo s.dev)

/-! ### Writes through the host link -/

/-- The control-window offset of a host access: a virtual function's BAR0 is its partition's window; above it, BAR2/3. -/
def hostOffset (fn off : Nat) : Nat :=
  if fn = 0 then if off < 0x4000000 then off else capBase + (off - 0x4000000)
  else if off < 0x10000 then windowBase + 0x10000 * fn + off
  else capBase + 0x1000 * fn + (off - 0x10000)

/-- Whether a source can make an access at an offset. -/
def canReach (d : Dev) (src : Source) (off width : Nat) : Bool :=
  match src with
  | .host m fn _ => decide (m < 2 ∧ fn < 64 ∧ 1 ≤ width ∧ width ≤ 64 ∧ off + width ≤ if fn = 0 then 0x4001000 else 0x11000) && moduleUp d m
  | .i3c => decide (off + width ≤ 0x4000000) && d.boot.powered
  | _ => false

/-- The register write of a source from outside; the I3C target refuses a new one while one is incomplete (R554). -/
def outsideWrite (d : Dev) (src : Source) (off width val : Nat) : Dev :=
  match src with
  | .host _ fn rid =>
    if !serving d || !fnPresent d fn then d
    else if !hostRid d rid then bump d .hlPeerRefused
    else (arrive d src (hostOffset fn off) width val).1
  | _ => if waitsBehind d src then d else i3cStatus (arrive d src off width val)

/-- REGISTER_WRITE (R14 to R17, R470, R529, R530). -/
def execRegisterWrite (src : Source) (off width val : Nat) (s : State) : Host.Outcome State Fault Refusal :=
  cmd s "REGISTER_WRITE" (canReach s.dev src off width && decide (val < 2 ^ (8 * width))) (outsideWrite s.dev src off width val)

/-- A read of NOW_NS from outside. -/
def timeRead (d : Dev) (src : Source) : Dev :=
  let go := fun (d : Dev) =>
    if waitsBehind d src then onAcc d fun a => { a with held := a.held ++ [{ src := src, off := 0x50000, width := 0, val := none }] }
    else timeReadNow d src
  match src with
  | .host m fn rid =>
    if !serving d || !fnPresent d fn then refused d m
    else if !hostRid d rid then refused (bump d .hlPeerRefused) m
    else go d
  | _ => go d

/-- TIME_NOW_READ (R376): from a source that reaches GLOBAL. -/
def execTimeNowRead (src : Source) (s : State) : Host.Outcome State Fault Refusal :=
  cmd s "TIME_NOW_READ" (canReach s.dev src 0x50000 8) (timeRead s.dev src)

/-! ### The COMPAT window (R541) -/

/-- COMPAT_POSTED_WRITE (R541, R542): a 4-byte write of P0 to the mirror, at an offset of the mirror. -/
def execCompatPostedWrite (off width val : Nat) (s : State) : Host.Outcome State Fault Refusal :=
  cmd s "COMPAT_POSTED_WRITE" (decide (off < 0x400000 ∧ width = 4 ∧ off % 4 = 0 ∧ val < 2 ^ 32) && hostUp s.dev)
    (if serving s.dev then compatPosted s.dev off val else s.dev)

/-- COMPAT_QUEUE_APPLY (R541): the first entry is applied as a native write of P0. -/
def execCompatQueueApply (s : State) : Host.Outcome State Fault Refusal :=
  act s "COMPAT_QUEUE_APPLY" (!s.dev.acc.posted.isEmpty)
    (match s.dev.acc.posted with
     | [] => s.dev
     | w :: t => (arrive (compatShow (onAcc s.dev fun a => { a with posted := t })) .compat w.off w.width w.val).1)

end Sys2Proof.Machine
end

