-- ==== Sys2Proof/Machine/Manage.lean ====
section
/-!
DEFINITION. The management connector: the I3C target (R553 to R555) and the test access port (R557).
-/
namespace Sys2Proof.Machine

/-! ### I3C -/

/-- An I3C read arrives: refused on the bus while an access is incomplete; without power the target does not answer. -/
def i3cRead (pm : Perm) (d : Dev) (off : Nat) : Dev := if !d.boot.powered || waitsBehind d .i3c then d else i3cReadNow pm d off

/-- I3C_READ (R554): eight data bytes, then the status. -/
def execI3cRead (off : Nat) (s : State) : Host.Outcome State Fault Refusal :=
  cmd s "I3C_READ" (decide (off < 2 ^ 32)) (i3cRead s.perm s.dev off)

/-- A write beyond the control window: discarded like one of an unassigned address; the offset recorded is open. -/
def beyondWindow (d : Dev) (val : Nat) : Dev :=
  let c := choose d (2 ^ 26)
  i3cStatus (discard c.2 { src := .i3c, part := 0, off := c.1, width := 8, val := val }, .discarded)

def i3cWrite (d : Dev) (off val : Nat) : Dev :=
  if !d.boot.powered || waitsBehind d .i3c then d
  else if off + 8 ≤ 0x4000000 then i3cStatus (arrive d .i3c off 8 val)
  else beyondWindow d val

/-- I3C_WRITE (R554): eight data bytes, then the status is read. -/
def execI3cWrite (off val : Nat) (s : State) : Host.Outcome State Fault Refusal :=
  cmd s "I3C_WRITE" (decide (off < 2 ^ 32 ∧ val < 2 ^ 64)) (i3cWrite s.dev off val)

/-- The byte the in-band interrupt carries: PENDING AND the MASK in effect (R546). -/
def alertByte (d : Dev) : Nat := rd d .mgmtAlertPending &&& rd d .mgmtAlertMask

/-- Whether 10 ms have passed since the alert was last raised. -/
def alertDue (d : Dev) : Bool := d.acc.alertNs.all fun t => decide (t + 10000000 ≤ d.upNs)

/-- The in-band interrupt with its mandatory byte. -/
def raiseAlert (d : Dev) : Dev := emit (onAcc d fun a => { a with alertNs := some d.upNs }) (.inBandInterrupt (alertByte d))

/-- I3C_ALERT (R555): at most every 10 ms. -/
def execI3cAlert (s : State) : Host.Outcome State Fault Refusal :=
  act s "I3C_ALERT" (s.dev.boot.powered && alertByte s.dev != 0 && alertDue s.dev) (raiseAlert s.dev)

/-! ### The test access port -/

/-- The bypass register: one bit that captures 0 (IEEE 1149.1). -/
def bypassOut (d : Dev) : Dev := emit d (.tdo 1 0)

/-- The boundary chain acts in holdback only; what it captures is open. -/
def boundaryOut (d : Dev) : Dev :=
  if rd d .bootStatusStage = 15 then
    let n := fresh d
    let v := fresh n.2
    emit v.2 (.tdo n.1 v.1)
  else bypassOut d

/-- BYPASS (R557). -/
def execBypass (s : State) : Host.Outcome State Fault Refusal := cmd s "BYPASS" true (bypassOut s.dev)

/-- IDCODE (R557): version 0, part 0x1280, manufacturer 0x0A7, bit 0 set. -/
def execIdcode (s : State) : Host.Outcome State Fault Refusal := cmd s "IDCODE" true (emit s.dev (.tdo 32 0x0128014F))

/-- SAMPLE_PRELOAD (R557). -/
def execSamplePreload (s : State) : Host.Outcome State Fault Refusal := cmd s "SAMPLE_PRELOAD" true (boundaryOut s.dev)

/-- EXTEST (R557). -/
def execExtest (s : State) : Host.Outcome State Fault Refusal := cmd s "EXTEST" true (boundaryOut s.dev)

end Sys2Proof.Machine
end

