-- ==== Sys2Proof/Machine/Startup.lean ====
section
/-!
DEFINITION. Start-up (R460 to R471): power, fuses, the Balone image and its verification, the stages of the sequencer, the
records it applies, and the entry into RUN or holdback.
-/
namespace Sys2Proof.Machine

/-! ### Stages -/

/-- The stage row due next, outside holdback. -/
def stageDue (d : Dev) (n : Nat) : Bool := d.boot.powered && rd d .bootStatusStage != 15 && d.boot.due == n

/-- Enter a stage; `due` is the row that comes after. -/
def enterStage (d : Dev) (stage due : Nat) : Dev := onBoot (wr d .bootStatusStage 0 stage) fun b => { b with due := due }

/-- A start-up check fails (R471). -/
def startFails (d : Dev) (cause : Nat) : Dev := onBoot (holdback d cause) fun b => { b with due := 0, waiting := none, done := [] }

/-! ### Power (R460) -/

/-- POWER_ON (R460): a power-on cold reset. -/
def execPowerOn (s : State) : Host.Outcome State Fault Refusal :=
  act s "POWER_ON" (!s.dev.boot.powered) (let d := wiped s.dev; onBoot d fun b => { b with powered := true, due := 1, startNs := d.upNs })

/-- The fuses after the changes in progress that have been made: `done` 0 none, 1 the enrolment, 2 both (R467). -/
def fusesAfter (pm : Perm) (f : FuseWrite) (done : Nat) : Perm :=
  let pm := match f.enrol with
    | some (k, dig) => if done ≥ 1 then { pm with owners := pm.owners.set k { digest := dig, valid := true, used := true } } else pm
    | none => pm
  match f.svn with
  | some v => if done ≥ 2 then { pm with svnMin := max pm.svnMin v } else pm
  | none => pm

/-- What a loss of power leaves in the fuses: of changes in progress, those made before it, by free choice. -/
def fusesCut (pm : Perm) (d : Dev) : Perm × Dev :=
  match d.boot.fuse with
  | none => (pm, d)
  | some f => let c := choose d 3; (fusesAfter pm f c.1, c.2)

/-- BROWNOUT (R460). -/
def execBrownout (s : State) : Host.Outcome State Fault Refusal :=
  if s.dev.boot.powered then
    let x := fusesCut s.perm s.dev
    .next { s with perm := x.1, dev := wiped (flashCut x.2) }
  else .fault (.notEnabled "BROWNOUT")

/-! ### Fuses (R462, R465, R478, R545) -/

/-- The current owner: the valid slot with the highest number. -/
def currentOwner (pm : Perm) : Option Nat := (List.range 4).reverse.find? fun k => ((pm.owners[k]?).map (·.valid)).getD false

/-- The owner slots and the fused minimum as BOOT shows them. -/
def showOwners (pm : Perm) (d : Dev) : Dev :=
  let d := (List.range 4).foldl (fun d k =>
    let o := (pm.owners[k]?).getD {}
    let d := (List.range 6).foldl (fun d i => wr d .bootOwnerDigest (6 * k + i) (cut o.digest (64 * i) 64)) d
    wr (wr d .bootOwnerValid k (bit o.valid)) .bootOwnerUsed k (bit o.used)) d
  wr (wr d .bootSvnFused 0 pm.svnMin) .bootStatusOwnerSlot 0 (match currentOwner pm with | some k => k + 1 | none => 0)

/-- The fuse repairs: one tile for each spare, in one of the three columns the spare sits below (R24). -/
def fusedSpares (pm : Perm) : KMap Nat := pm.spares.filter fun e => decide (e.2 < tiles) && spareOf e.2 == e.1

/-- The spares as fused. -/
def showSpares (pm : Perm) (d : Dev) : Dev :=
  let l := fusedSpares pm
  let d := l.foldl (fun d e => wr (wr d .spareMapUse e.1 1) .spareMapTile e.1 e.2) d
  wr (wr d .sparesFused 0 l.length) .sparesRuntimeLeft 0 (16 - l.length)

/-- Every fused field is loaded. -/
def loadFuses (pm : Perm) (d : Dev) : Dev :=
  let d := showSpares pm (showOwners pm d)
  let d := wr (wr (wr d .idVariant 0 pm.variant) .deviceIdLow 0 (cut pm.deviceId 0 64)) .deviceIdHigh 0 (cut pm.deviceId 64 64)
  let d := (List.range 12).foldl (fun d i => wr d .yewIdentPubkey i (cut (ecPublic pm.identKey) (64 * i) 64)) d
  let d := (List.range 512).foldl (fun d i => wr d .yewIdentCert i (cut pm.identCert (64 * i) 64)) d
  let d := pm.hbmRepairs.foldl (fun d e => wr d .memoryHbmStatFuseRepairs e.1 e.2) d
  onMem d fun m => { m with banks := pm.repairedColumns.map fun e => (e.1, { repaired := e.2 }) }

/-- FUSES (R469). -/
def execFuses (s : State) : Host.Outcome State Fault Refusal :=
  act s "FUSES" (stageDue s.dev 1) (enterStage (loadFuses s.perm s.dev) 1 2)

/-! ### The image (R461 to R463) -/

/-- A record of the stream: where it lies and its fields. -/
structure ImgRecord where
  at_ : Nat
  kind : Nat
  flags : Nat
  reserved : Nat
  arg : Nat
  value : Nat
deriving DecidableEq, Repr

def recordAt (d : Dev) (a : Nat) : ImgRecord :=
  let x := flashNum d a 16
  { at_ := a, kind := cut x 0 8, flags := cut x 8 8, reserved := cut x 16 16, arg := cut x 32 32, value := cut x 64 64 }

/-- Where the record after one begins: past a BLOB's data. -/
def afterRecord (r : ImgRecord) : Nat := if r.kind = 3 then r.at_ + 16 + r.arg / 16 * 16 else r.at_ + 16

def imgLength (d : Dev) : Nat := flashNum d 8 4

/-- First byte of the trailer. -/
def trailer (d : Dev) : Nat := imgLength d - 256

/-- The records up to END, END included; none when the stream does not reach one. -/
def stream (d : Dev) : Nat → Nat → Option (List ImgRecord)
  | 0, _ => none
  | fuel + 1, a =>
    if a + 16 > trailer d then none
    else
      let r := recordAt d a
      if r.kind = 0x0F then some [r] else (stream d fuel (afterRecord r)).map (r :: ·)

def records (d : Dev) : Option (List ImgRecord) := stream d (imgLength d / 16) 0x100

/-- Whether a record is well formed. -/
def recordOk (d : Dev) (r : ImgRecord) : Bool :=
  decide (r.flags ≤ 1) && r.reserved == 0 &&
  match r.kind with
  | 1 => r.arg % 8 == 0 && decide (r.arg < 0x4000000)
  | 2 => decide (r.arg < 2 ^ 14) && decide (cut r.arg 0 4 ≤ 9) && cut r.value 2 6 == 0 && decide (r.value < 2 ^ 42)
           && decide (cut r.value 8 34 < 2 ^ groupsOf (cut r.arg 0 4))
  | 3 => r.arg % 16 == 0 && decide (16 ≤ r.arg ∧ r.arg ≤ 16777216) && r.value % 64 == 0 && decide (r.value + r.arg ≤ hbmEnd)
  | 15 => r.arg == 0 && r.value == 0 && (flashBytes d (r.at_ + 16) (trailer d - (r.at_ + 16))).all (· == 0)
  | _ => false

def imgFlag (d : Dev) (i : Nat) : Bool := bitOf (flashNum d 0x0D 1) i

def imgSvn (d : Dev) : Nat := flashNum d 0x0C 1

/-! ### Verification (R465 to R468) -/

/-- Whether the header is that of an image; an SVN beyond its range is none (R461, log 44). -/
def headerOk (d : Dev) : Bool :=
  flashNum d 0 4 == 0x4E4F4C42 && flashNum d 4 2 == 1 && decide (flashNum d 0x0C 1 ≤ 63) && flashNum d 0x20 96 == 0 && flashNum d 0xE0 32 == 0

def lengthOk (d : Dev) : Bool := imgLength d % 16 == 0 && decide (512 ≤ imgLength d ∧ imgLength d ≤ 67108864) && (records d).isSome

/-- Whether the signer is accepted (R465). -/
def signerOk (pm : Perm) (d : Dev) : Bool :=
  let signer := flashNum d (trailer d) 4
  let dig := sha384 (flashBytes d (trailer d + 0x10) 96)
  match currentOwner pm with
  | none => signer == 1 && dig == pm.vendorDigest
  | some k => signer == 2 && some dig == (pm.owners[k]?).map (·.digest)

/-- Whether the signature verifies over the image and the trailer's first 0x70 bytes (R462). -/
def signatureOk (d : Dev) : Bool :=
  ecdsaVerify (flashNum d (trailer d + 0x10) 96) (sha384 (flashBytes d 0 (trailer d + 0x70))) (flashNum d (trailer d + 0x70) 96)

/-- The first owner slot that has not been written. -/
def unusedOwner (pm : Perm) : Option Nat := (List.range 4).find? fun k => ((pm.owners[k]?).map (!·.used)).getD false

/-- The cause of the first check that fails; 0 for none (R466). -/
def verifyCause (pm : Perm) (d : Dev) (readOk : Bool) : Nat :=
  if !readOk || !headerOk d then 0xF0
  else if !lengthOk d then 0xF1
  else if !(signerOk pm d && signatureOk d) then 0xF2
  else if imgSvn d < pm.svnMin then 0xF3
  else if !bitOf (flashNum d 6 1) pm.variant || flashNum d 7 1 != 0xA0 then 0xF4
  else if !((records d).getD []).all (recordOk d) then 0xF5
  else if imgFlag d 0 && (unusedOwner pm).isNone then 0xF6
  else 0

/-- The measurement (R468). -/
def measure (d : Dev) : Nat := sha384 (flashBytes d 0 (imgLength d))

/-- The measurement, the image's ID and version as BOOT shows them. -/
def showImage (d : Dev) : Dev :=
  let m := measure d
  let d := (List.range 6).foldl (fun d i => wr d .bootImageDigest i (cut m (64 * i) 64)) d
  let d := (List.range 2).foldl (fun d i => wr d .bootImageId i (flashNum d (0x10 + 8 * i) 8)) d
  wr d .bootSvnImage 0 (imgSvn d)

/-- Whether a re-read of the image gives the measurement again. -/
def sameImage (d : Dev) : Bool := (List.range 6).all fun i => cut (measure d) (64 * i) 64 == rd d .bootImageDigest i

/-- The INTERLEAVE the image gives: its last record for it, otherwise the reset value. -/
def imgInterleave (d : Dev) : Nat :=
  (((records d).getD []).filter fun r => r.kind = 1 && r.arg = 0x2800000).foldl (fun _ r => cut r.value 0 2) 0

def imgNode (d : Dev) : Nat := flashNum d 0x0E 2

/-- The fuse changes a cold start-up begins (R467). -/
def fuseWrites (pm : Perm) (d : Dev) : Option FuseWrite :=
  let e := if imgFlag d 0 then (unusedOwner pm).map fun k => (k, sha384 (flashBytes d 0x80 96)) else none
  let v := if imgFlag d 1 then some (imgSvn d) else none
  if e.isNone && v.isNone then none else some { enrol := e, svn := v }

/-- The slot being programmed is used from the start of its write. -/
def markUsed (pm : Perm) (f : Option FuseWrite) : Perm :=
  match f.bind (·.enrol) with
  | some (k, _) => { pm with owners := pm.owners.modify k fun o => { o with used := true } }
  | none => pm

/-- A verified image: a cold start goes on with the rails, a warm one with the dies, unless it must be cold after all. -/
def verified (pm : Perm) (d : Dev) : Perm × Dev :=
  if d.boot.warm then
    if imgInterleave d ≠ rd d .memoryHbmCfgInterleave ∨ imgNode d ≠ rd d .meshNodeId then (pm, coldStart d 1)
    else (pm, enterStage (showImage d) 2 4)
  else
    let f := fuseWrites pm d
    (markUsed pm f, onBoot (enterStage (showImage d) 2 3) fun b => { b with fuse := f })

/-- VERIFY (R461 to R468, R476): `readOk` says whether the flash reads without error. -/
def execVerify (readOk : Bool) (s : State) : Host.Outcome State Fault Refusal :=
  if stageDue s.dev 2 then
    let c := verifyCause s.perm s.dev readOk
    if c ≠ 0 then .next { s with dev := startFails s.dev c }
    else
      let r := verified s.perm s.dev
      .next { s with perm := r.1, dev := r.2 }
  else .fault (.notEnabled "VERIFY")

/-! ### Rails and dies -/

/-- Fuse changes in progress complete. -/
def fusesDone (pm : Perm) (d : Dev) : Perm × Dev :=
  match d.boot.fuse with
  | none => (pm, d)
  | some f =>
    let pm := fusesAfter pm f 2
    (pm, onBoot (showOwners pm d) fun b => { b with fuse := none })

/-- The stage begins, or a cold reset that has waited for the fuses. -/
def railsEffect (d : Dev) : Dev :=
  match d.boot.coldAfter with
  | some k => coldReset (onBoot d fun b => { b with coldAfter := none }) k
  | none => if rd d .bootStatusStage = 15 then d else enterStage d 3 4

/-- RAILS (R467, R469): the fuse changes have been made before it begins. -/
def execRails (s : State) : Host.Outcome State Fault Refusal :=
  if stageDue s.dev 3 || s.dev.boot.powered && s.dev.boot.fuse.isSome then
    let x := fusesDone s.perm s.dev
    .next { s with perm := x.1, dev := railsEffect x.2 }
  else .fault (.notEnabled "RAILS")

/-- A tile that fails its self-test is replaced at a cold start when its spare is free, otherwise failed (R25, R506, R509). -/
def badTile (d : Dev) (t : Nat) : Dev :=
  if t ≥ tiles ∨ tileFailedBit d t then d
  else if !d.boot.warm && spareFree d t then putInService d (spareOf t) t
  else wr (wr d .tileOwnerAssigned t 0) .safetyTileFailed (t / 64) (rd d .safetyTileFailed (t / 64) ||| 2 ^ (t % 64))

/-- The dies come up; at a cold start the crossings take their default routes (R464). -/
def diesUp (d : Dev) (bad : List Nat) : Dev := bad.foldl badTile (if d.boot.warm then d else defaultRoutes d)

/-- DIES (R44, R469, R509); the dies are numbered as in R514. -/
def execDies (findings : DieFindings) (s : State) : Host.Outcome State Fault Refusal :=
  act s "DIES" (stageDue s.dev 4 && findings.failedDie.all fun x => decide (x < 9))
    (match findings.failedDie with
     | some x => wr (startFails s.dev 0xF7) .bootStatusFailedDie 0 (x + 1)
     | none => enterStage (diesUp s.dev findings.badTiles) 4 5)

/-! ### Records (R464) -/

/-- The first record that is, or is not, a BLOB, from an offset on. -/
def seekRecord (d : Dev) (blob : Bool) : Nat → Nat → Nat
  | 0, a => a
  | fuel + 1, a =>
    let r := recordAt d a
    if r.kind = 0x0F ∨ (r.kind == 3) = blob then a else seekRecord d blob fuel (afterRecord r)

def seek (d : Dev) (blob : Bool) (a : Nat) : Dev := onBoot d fun b => { b with recAt := seekRecord d blob (imgLength d / 16) a }

/-- CONFIG (R464, R468, R469): the second read, NODE_ID, then the records. -/
def execConfig (sameBytes : Bool) (s : State) : Host.Outcome State Fault Refusal :=
  act s "CONFIG" (stageDue s.dev 5)
    (let d := enterStage s.dev 5 7
     if !sameBytes || !sameImage d then startFails d 0xF5 else seek (wr d .meshNodeId 0 (imgNode d)) false 0x100)

/-- BUSY and RESULT of a command that a GO bit starts. -/
def busyResult : Fld → Option (Fld × Fld)
  | .tileCmdGo => some (.tileCmdBusy, .tileCmdResult)
  | .yewSlotCmdGo => some (.yewSlotCmdBusy, .yewSlotCmdResult)
  | .transportQpCmdGo => some (.transportQpCmdBusy, .transportQpCmdResult)
  | .transportCollCmdGo => some (.transportCollCmdBusy, .transportCollCmdResult)
  | .safetyTileRetireGo => some (.safetyTileRetireBusy, .safetyTileRetireResult)
  | .partCtrlFreeze => some (.partStatusBusy, .partStatusResult)
  | .partCtrlThaw => some (.partStatusBusy, .partStatusResult)
  | .partCtrlSave => some (.partStatusBusy, .partStatusResult)
  | .partCtrlRestore => some (.partStatusBusy, .partStatusResult)
  | .partCtrlSeal => some (.partStatusBusy, .partStatusResult)
  | .partCtrlUnseal => some (.partStatusBusy, .partStatusResult)
  | .pwinAttestCtrlGo => some (.pwinAttestCtrlBusy, .pwinAttestCtrlErr)
  | .bootFlashCmdGo => some (.bootFlashCmdBusy, .bootFlashCmdResult)
  | _ => none

/-- Whether the command a record started is still BUSY; whether it ended with a RESULT. -/
def waitBusy (d : Dev) : Bool :=
  match d.boot.waiting with
  | some (f, i) => match busyResult f with
    | some (b, _) => isSet d b i
    | none => false
  | none => false

def waitFailed (d : Dev) : Bool :=
  match d.boot.waiting with
  | some (f, i) => match busyResult f with
    | some (_, r) => rd d r i != 0
    | none => false
  | none => false

/-- The record due, of a kind: while CONFIG applies records and no command is BUSY. -/
def recordDue (d : Dev) (kind : Nat) : Option ImgRecord :=
  if stageDue d 7 && !waitBusy d then some (recordAt d d.boot.recAt) |>.filter fun r => r.kind == kind else none

/-- Whether a record is applied in this start-up. -/
def applies (d : Dev) (r : ImgRecord) : Bool := !d.boot.warm || bitOf r.flags 0

/-- The record is applied unless the command before it ended with a RESULT; then the next one is due. -/
def recordStep (d : Dev) (r : ImgRecord) (effect : Dev → Dev) : Dev :=
  if waitFailed d then startFails d 0xF5
  else
    let d := onBoot d fun b => { b with waiting := none }
    let d := if applies d r then effect d else d
    if stageDue d 7 then seek d false (afterRecord r) else d

/-- Whether an enable or a command that the write carries was refused by its chapter. -/
def refusedBy (d : Dev) (w : RegWrite) (e : FldAt) : Bool :=
  carried w e == 1 &&
  match e.fld with
  | .ringStateEnable => !isSet d .ringStateEnable e.idx
  | .cqEnable => !isSet d .cqEnable e.idx
  | .eqEnable => !isSet d .eqEnable e.idx
  | .memoryCmpRegionEnable => !isSet d .memoryCmpRegionEnable e.idx
  | .portCtrlEnable => !isSet d .portCtrlEnable e.idx
  | .xlateCmdqCfgEnable => !isSet d .xlateCmdqCfgEnable
  | .portsubGateCtrlChange => !isSet d .portsubGateCtrlPending e.idx
  | .hlRejoinRequest => rd d .hlRejoinResult != 1
  | _ => false

/-- The W1S bit with a BUSY of its own that a write sets. -/
def startsCommand (w : RegWrite) : Option (Fld × Nat) :=
  ((wordFields w.off).find? fun e => carried w e == 1 && (busyResult e.fld).isSome).map fun e => (e.fld, e.idx)

/-- A REG record: INTERLEAVE although it is RO; otherwise a P0 write, with the wait for its command. -/
def regRecord (d : Dev) (r : ImgRecord) : Dev :=
  let w : RegWrite := { src := .sequencer, part := actsFor .sequencer r.arg, off := r.arg, width := 8, val := r.value }
  if r.arg = 0x2800000 then
    if cut r.value 0 2 ≤ 1 then wr d .memoryHbmCfgInterleave 0 (cut r.value 0 2) else startFails d 0xF5
  else
    let x := nativeWrite d w
    if !stageDue x.1 7 then x.1
    else if x.2 ≠ .applied || (wordFields w.off).any (refusedBy x.1 w) then startFails x.1 0xF5
    else
      let d := onBoot x.1 fun b => { b with waiting := startsCommand w }
      if !waitBusy d && waitFailed d then startFails d 0xF5 else d

/-- REG_RECORD (R464, R529); a write that stalls waits. -/
def execRegRecord (s : State) : Host.Outcome State Fault Refusal :=
  act s "REG_RECORD" ((recordDue s.dev 1).any fun r => !stallsNow s.dev r.arg 8)
    (match recordDue s.dev 1 with
     | some r => recordStep s.dev r fun d => regRecord d r
     | none => s.dev)

/-- A ROUTE record replaces an entry of a crossing in both banks. -/
def routeRecord (d : Dev) (r : ImgRecord) : Dev :=
  let c := cut r.arg 0 4
  let i := cut r.arg 4 10
  setRoute (setRoute d c 0 i r.value) c 1 i r.value

/-- ROUTE_RECORD (R464). -/
def execRouteRecord (s : State) : Host.Outcome State Fault Refusal :=
  act s "ROUTE_RECORD" (recordDue s.dev 2).isSome
    (match recordDue s.dev 2 with
     | some r => recordStep s.dev r fun d => routeRecord d r
     | none => s.dev)

/-- The port delays that a cold start's records loaded are the calibrated ones (R377). -/
def calibrate (d : Dev) : Dev :=
  if d.boot.warm then d
  else onPort d fun p => { p with cal := (List.range 8).map fun k => (k, rd d .portTsCfgTxDelay k + 2 ^ 16 * rd d .portTsCfgRxDelay k) }

/-- END_RECORD (R463, R536): the shadows take effect at the end of CONFIG. -/
def execEndRecord (s : State) : Host.Outcome State Fault Refusal :=
  act s "END_RECORD" (recordDue s.dev 15).isSome
    (if waitFailed s.dev then startFails s.dev 0xF5
     else onBoot (commitGo (calibrate s.dev)) fun b => { b with due := 6, waiting := none })

/-! ### Bring-up (R189, R190, R470) -/

/-- The speed code of a rate a module set supports: 0 none, 1 5,600, 2 6,400, 3 7,200, 4 8,000 MT/s. -/
def speedCode (mts : Nat) : Nat := if mts ≥ 8000 then 4 else if mts ≥ 7200 then 3 else if mts ≥ 6400 then 2 else if mts ≥ 5600 then 1 else 0

def dimmOk (m : Dimm) : Bool := m.ecc && decide (32 ≤ m.gib ∧ m.gib ≤ 256) && (m.width == 4 || m.width == 8) && speedCode m.speed != 0

/-- The modules of a channel. -/
def dimmsOf (l : List DimmPair) (c : Nat) : List Dimm :=
  match l.find? fun p => p.channel == c with
  | some p => p.a.toList ++ p.b.toList
  | none => []

/-- Whether a channel with modules is refused (R189). -/
def dimmsRefused (l : List Dimm) : Bool := !l.all dimmOk || l.any fun m => some m != l.head?

/-- One channel is read: MODULES, STATE, SPEED, and its capacity. -/
def readChannel (l : List DimmPair) (d : Dev) (c : Nat) : Dev :=
  let ms := dimmsOf l c
  let d := wr d .memoryDdrStatModules c ms.length
  if ms.isEmpty then d
  else if dimmsRefused ms then
    wr (wr d .memoryDdrStatState c 2) .memoryDdrCfgRefused 0 (rd d .memoryDdrCfgRefused ||| 2 ^ c)
  else
    let d := wr (wr d .memoryDdrStatState c 1) .memoryDdrStatSpeed c (speedCode ((ms.map (·.speed)).foldl min 8000))
    let d := wr d .memoryDdrCfgUsed 0 (rd d .memoryDdrCfgUsed ||| 2 ^ c)
    onMem d fun m => { m with
      ddrGib := put m.ddrGib c (ms.map (·.gib)).sum
      ddrX8 := if ms.any (·.width == 8) then c :: m.ddrX8 else m.ddrX8 }

/-- The DDR5 tier is laid out (R190). -/
def layTier (d : Dev) : Dev :=
  let caps := d.mem.ddrGib.map (·.2)
  wr (wr d .memoryDdrCapTotalGib 0 caps.sum) .memoryDdrCapInterleavedGib 0 (caps.length * (caps.min?.getD 0))

/-- A cold start reads the modules; a warm one finds them as they were. -/
def bringup (d : Dev) (l : List DimmPair) : Dev :=
  let d := if d.boot.warm then d else layTier ((List.range 8).foldl (readChannel l) d)
  seek (onBoot (enterStage d 6 8) fun b => { b with done := [] }) true 0x100

/-- BRINGUP (R189, R190, R469, R470). -/
def execBringup (modules : List DimmPair) (s : State) : Host.Outcome State Fault Refusal :=
  act s "BRINGUP" (stageDue s.dev 6) (bringup s.dev modules)

def partDone (d : Dev) (u : BringUnit) : Bool := d.boot.done.contains u

def hbmDone (d : Dev) : Bool := (List.range 12).all fun k => partDone d (.hbm k)

/-- The BLOB record due: HBM4 is ready, and not every one has been applied. -/
def blobDue (d : Dev) : Option ImgRecord :=
  if stageDue d 8 && !d.boot.warm && hbmDone d then some (recordAt d d.boot.recAt) |>.filter fun r => r.kind == 3 else none

/-- BLOB_RECORD (R464). -/
def execBlobRecord (s : State) : Host.Outcome State Fault Refusal :=
  act s "BLOB_RECORD" (blobDue s.dev).isSome
    (match blobDue s.dev with
     | some r =>
       let bs := flashBytes s.dev (r.at_ + 16) r.arg
       seek (memWrite s.dev false bs.length r.value bs).1 true (afterRecord r)
     | none => s.dev)

/-- Whether a part of the stage is in progress. -/
def partRuns (d : Dev) (u : BringUnit) : Bool :=
  stageDue d 8 && !partDone d u &&
  match u with
  | .hbm k => decide (k < 12)
  | .ddr c => decide (c < 8) && rd d .memoryDdrStatState c == 1
  | .optics => true
  | .preload => !d.boot.warm && hbmDone d && (blobDue d).isNone

/-- A part finishes, or fails. -/
def partEnds (d : Dev) (u : BringUnit) (ok : Bool) : Dev :=
  let d' := onBoot d fun b => { b with done := u :: b.done }
  match u with
  | .hbm _ => if ok then d' else startFails d 0xF8
  | .ddr c => if ok then d' else channelFail d' c
  | .optics => d'
  | .preload => if ok && sameImage d then d' else startFails d 0xF5

/-- BRINGUP_PART_DONE (R468, R470). -/
def execBringupPartDone (unit : BringUnit) (ok : Bool) (s : State) : Host.Outcome State Fault Refusal :=
  act s "BRINGUP_PART_DONE" (partRuns s.dev unit) (partEnds s.dev unit ok)

/-- OPTICS_LIMIT (R470). -/
def execOpticsLimit (s : State) : Host.Outcome State Fault Refusal :=
  act s "OPTICS_LIMIT" (partRuns s.dev .optics) (onBoot s.dev fun b => { b with done := .optics :: b.done })

/-- Whether every part of the stage is complete. -/
def bringupOver (d : Dev) : Bool :=
  stageDue d 8 && hbmDone d && partDone d .optics && (d.boot.warm || partDone d .preload)
    && (List.range 8).all fun c => rd d .memoryDdrStatState c != 1 || partDone d (.ddr c)

/-- BRINGUP_END (R470): the device enters RUN. -/
def execBringupEnd (s : State) : Host.Outcome State Fault Refusal :=
  act s "BRINGUP_END" (bringupOver s.dev)
    (let d := wr (enterStage s.dev 8 0) .bootStartUs 0 ((s.dev.upNs - s.dev.boot.startNs) / 1000)
     onBoot d fun b => { b with warm := false, done := [], recAt := 0 })

end Sys2Proof.Machine
end

