-- ==== Sys2Proof/Machine/Vector.lean ====
section
/-!
DEFINITION. Vector sequences: the program and its checks (R100 to R102), issue and cycles (R103), and one meaning per
operation (R78 to R80, R102, R104).
-/
namespace Sys2Proof.Machine

/-! ### Slots (R101) -/

def vOp (s : Nat) : Nat := cut s 0 8
def vD (s : Nat) : Nat := cut s 8 4
def vA (s : Nat) : Nat := cut s 12 4
def vB (s : Nat) : Nat := cut s 16 4
def vC (s : Nat) : Nat := cut s 20 4
def vFmt (s : Nat) : Nat := cut s 24 4
def vRule (s : Nat) : Nat := cut s 28 1
def vRound (s : Nat) : Nat := cut s 29 2
def vIter (s : Nat) : Bool := cut s 31 1 == 1
def vImm (s : Nat) : Nat := cut s 32 32
def v2Scale (s : Nat) : Nat := cut s 0 21
def v2Elem (s : Nat) : Nat := cut s 24 20
def v2ScaleStride (s : Nat) : Nat := cut s 44 20

/-- Whether an opcode is defined (R102). -/
def vKnown (o : Nat) : Bool :=
  decide (1 ≤ o ∧ o ≤ 4) || decide (0x10 ≤ o ∧ o ≤ 0x1A) || decide (0x20 ≤ o ∧ o ≤ 0x29) || decide (0x30 ≤ o ∧ o ≤ 0x33)
    || o == 0x38 || o == 0x39

def isMem (o : Nat) : Bool := o == 1 || o == 2

def usesD (o : Nat) : Bool := o != 2
def usesA (o : Nat) : Bool := o == 2 || decide (o ≥ 0x10)
def usesB (o : Nat) : Bool := decide (0x10 ≤ o ∧ o ≤ 0x15) || decide (0x18 ≤ o ∧ o ≤ 0x1A) || decide (0x20 ≤ o ∧ o ≤ 0x24)
def usesC (o : Nat) : Bool := o == 0x13 || o == 0x1A
def usesFmt (o : Nat) : Bool := isMem o || o == 0x19
def usesImm (o : Nat) : Bool := decide (o ≤ 4) || decide (0x25 ≤ o ∧ o ≤ 0x27)

/-- Whether a first slot sets a field its operation does not use, or an undefined value (0x4E). -/
def slotBad (s : Nat) : Bool :=
  let o := vOp s
  !vKnown o
  || (!usesD o && vD s != 0) || (!usesA o && vA s != 0) || (!usesB o && vB s != 0) || (!usesC o && vC s != 0)
  || (!usesFmt o && vFmt s != 0) || (!usesImm o && vImm s != 0) || (!isMem o && vIter s)
  || (o == 0x19 && decide (vFmt s > 3))
  || (o != 2 && (vRule s != 0 || vRound s != 0))
  || (o == 2 && vFmt s == 0 && (vRule s != 0 || vRound s != 0))
  || (o == 2 && vFmt s == 1 && vRule s != 0)

/-- Whether the second slot of a LOAD or STORE sets a reserved or unused field. -/
def slot2Bad (s s2 : Nat) : Bool :=
  cut s2 21 3 != 0
  || (decide (vFmt s < 2) && (v2Scale s2 != 0 || v2ScaleStride s2 != 0))
  || (!vIter s && (v2Elem s2 != 0 || v2ScaleStride s2 != 0))

/-- Bytes of 256 elements, and of their scale entries. -/
def vElemBytes (f : Nat) : Nat := 32 * elemBits f
def vScaleBytes (f : Nat) : Nat := 8 * scaleBytes f

/-- Whether a plane is misaligned in any of `n` iterations. -/
def memMisaligned (s s2 n : Nat) : Bool :=
  vImm s % 64 != 0 || (vIter s && decide (n > 1) && v2Elem s2 % 64 != 0)
  || (isBlock (vFmt s) && (v2Scale s2 % 16 != 0 || (vIter s && decide (n > 1) && v2ScaleStride s2 % 16 != 0)))

/-- Whether a plane ends beyond the scratchpad in any of `n` iterations. -/
def memOver (s s2 n : Nat) : Bool :=
  let t := if vIter s then n - 1 else 0
  decide (vImm s + t * v2Elem s2 + vElemBytes (vFmt s) > spBytes)
  || (isBlock (vFmt s) && decide (v2Scale s2 + t * v2ScaleStride s2 + vScaleBytes (vFmt s) > spBytes))

/-- The causes a program gives, slot by slot (R102). -/
def progCauses (n : Nat) : Nat → List Nat → List Nat
  | 0, _ => []
  | _ + 1, [] => []
  | fuel + 1, s :: t =>
    let bad := if slotBad s then [0x4E] else []
    if isMem (vOp s) then
      match t with
      | [] => [0x4E]
      | s2 :: t =>
        bad ++ (if slot2Bad s s2 then [0x4E] else [])
        ++ (if fmtReserved (vFmt s) then [0x40]
            else (if vOp s = 2 && vFmt s != 0 && decide (vRound s ≥ 2) then [0x41] else [])
              ++ (if memMisaligned s s2 n then [0x45] else []) ++ (if memOver s s2 n then [0x44] else []))
        ++ progCauses n fuel t
    else bad ++ progCauses n fuel t

/-- The first code that applies, in the order of R102; 0 for none. -/
def progCause (n : Nat) (prog : List Nat) : Nat :=
  let cs := progCauses n (prog.length + 1) prog
  ([0x4E, 0x40, 0x41, 0x45, 0x44].find? fun c => cs.contains c).getD 0

/-! ### Starting a sequence -/

def seqProgram (w : Desc) : Nat := fieldAt w 0x18 0 21
def seqSlots (w : Desc) : Nat := fieldAt w 0x1C 0 16
def seqLoop (w : Desc) : Nat := fieldAt w 0x20 0 25
def seqSeed (w : Desc) : Nat := fieldAt w 0x24 0 32

/-- Start-up cycles (R103). -/
def startup (slots : Nat) : Nat := max 16 (ceilDiv (slots * 8) 1024)

/-- Whether the work item's own fields break R102. -/
def seqBad (w : Desc) : Bool :=
  seqProgram w % 8 != 0 || decide (seqSlots w = 0 ∨ seqSlots w > 4096) || decide (seqLoop w = 0 ∨ seqLoop w > 16777216)
    || decide (seqProgram w + 8 * seqSlots w > spBytes)

def seqStart (d : Dev) (it : Item) : Dev :=
  let cyc := startup (seqSlots it.wi)
  if seqBad it.wi then finishWith d it 0 cyc 0x4E
  else
    match spRead d it.tile (seqProgram it.wi) (8 * seqSlots it.wi) with
    | (d, some c, _) => finishWith d it 0 cyc c
    | (d, none, bs) =>
      let prog := codes 64 (seqSlots it.wi) bs
      let c := progCause (seqLoop it.wi) prog
      if c ≠ 0 then finishWith d it 0 cyc c
      else onDisp d fun s => { s with vec := put s.vec it.uid { uid := it.uid, prog := prog, clock := cyc, last := cyc } }

/-- VECTOR_SEQUENCE (R100 to R103). -/
def execVectorSequence (tile : Nat) (s : State) : Host.Outcome State Fault Refusal :=
  act s "VECTOR_SEQUENCE" (startable s.dev tile .vector 2) (startLane s.dev tile .vector seqStart)

/-! ### Issuing -/

/-- The running sequence of a tile. -/
def vecOf (d : Dev) (t : Nat) : Option (Item × VecRun) :=
  match running? d t .vector with
  | none => none
  | some it => (find? d.disp.vec it.uid).map fun r => (it, r)

/-- Whether a tile's sequence has operation `o` next. -/
def vecAt (d : Dev) (t o : Nat) : Bool :=
  runsType d t .vector 2 && match vecOf d t with
    | some (it, r) => decide (r.iter < seqLoop it.wi) && vOp (r.prog.getD r.slot 0) == o
    | none => false

/-- Run the next slot of a tile's sequence. -/
def vecDo (d : Dev) (t : Nat) (k : Dev → Item → VecRun → Nat → Dev) : Dev :=
  match vecOf d t with
  | some (it, r) => k d it r (r.prog.getD r.slot 0)
  | none => d

def vreg (r : VecRun) (i : Nat) : List Nat := (find? r.regs i).getD (List.replicate 256 0)

/-- When an operation can issue (R103): its sources ready, its destination not pending, its unit free. -/
def issueAt (r : VecRun) (srcs : List Nat) (dst : Option Nat) (sfu : Bool) : Nat :=
  let t := (srcs ++ dst.toList).foldl (fun t i => max t (getD r.ready i 0)) r.clock
  if sfu then max t r.sfuFree else t

/-- Go to the next slot; after the last, to the next iteration. -/
def advance (r : VecRun) (n : Nat) : VecRun :=
  if r.slot + n < r.prog.length then { r with slot := r.slot + n } else { r with slot := 0, iter := r.iter + 1, ordinal := 0 }

def setVec (d : Dev) (r : VecRun) : Dev := onDisp d fun s => { s with vec := put s.vec r.uid r }

/-- Issue a register operation of a latency: its result, its flags, its time. -/
def issue (d : Dev) (it : Item) (r : VecRun) (s lat : Nat) (srcs : List Nat) (f : VecRun → List Nat × Nat) : Dev :=
  let sfu := decide (0x30 ≤ vOp s ∧ vOp s ≤ 0x33)
  let t := issueAt r srcs (some (vD s)) sfu
  let x := f r
  let r := { r with regs := put r.regs (vD s) x.1, ready := put r.ready (vD s) (t + lat), clock := t + 1,
                    sfuFree := if sfu then t + 4 else r.sfuFree, last := max r.last (t + lat) }
  modItem (setVec d (advance r 1)) it.uid fun y => { y with flags := y.flags ||| x.2 }

def lanes1 (f : Nat → Nat × Nat) (a : List Nat) : List Nat × Nat :=
  let r := a.map f
  (r.map (·.1), r.foldl (fun x y => x ||| y.2) 0)

def lanes2 (f : Nat → Nat → Nat × Nat) (a b : List Nat) : List Nat × Nat :=
  let r := List.zipWith f a b
  (r.map (·.1), r.foldl (fun x y => x ||| y.2) 0)

def lanes3 (f : Nat → Nat → Nat → Nat × Nat) (a b c : List Nat) : List Nat × Nat :=
  let r := List.zipWith (fun a bc => f a bc.1 bc.2) a (List.zip b c)
  (r.map (·.1), r.foldl (fun x y => x ||| y.2) 0)

/-- Element and scale offsets of a LOAD or STORE in iteration `t` (R101). -/
def memOffsets (s s2 t : Nat) : Nat × Nat :=
  if vIter s then (vImm s + t * v2Elem s2, v2Scale s2 + t * v2ScaleStride s2) else (vImm s, v2Scale s2)

/-- LOAD: 256 elements widened to FP32; raw words when FMT is FP32. DESIGN CHOICE: R78 calls the widening exact, and states no
result for a block element beyond the FP32 range; the model gives an infinity of its sign and sets OVERFLOW (log 114). -/
def loadSlot (d : Dev) (it : Item) (r : VecRun) (s : Nat) : Dev :=
  let s2 := r.prog.getD (r.slot + 1) 0
  let o := memOffsets s s2 r.iter
  let f := vFmt s
  let t := issueAt r [] (some (vD s)) false
  let es := spRead d it.tile o.1 (vElemBytes f)
  let ss := if isBlock f then spRead es.1 it.tile o.2 (vScaleBytes f) else (es.1, none, [])
  match es.2.1.orElse (fun _ => ss.2.1) with
  | some c => finishWith ss.1 it 0 (max r.last (t + 1)) c
  | none =>
    let row := denseRow f 256 es.2.2 ss.2.2
    let w := row.1.map encode32
    let vals := if f = 0 then codes 32 256 es.2.2 else w.map (·.1)
    let fl := if f = 0 then 0 else w.foldl (fun a x => a ||| x.2) row.2
    let r := { r with regs := put r.regs (vD s) vals, ready := put r.ready (vD s) (t + 6), clock := t + 1, last := max r.last (t + 6) }
    modItem (setVec ss.1 (advance r 2)) it.uid fun y => { y with flags := y.flags ||| fl }

/-- STORE: 256 lanes converted and written (R57 to R64, R104). -/
def storeSlot (d : Dev) (it : Item) (r : VecRun) (s : Nat) : Dev :=
  let s2 := r.prog.getD (r.slot + 1) 0
  let o := memOffsets s s2 r.iter
  let f := vFmt s
  let t := issueAt r [vA s] none false
  let c := convert f (vRule s) (vRound s) (seqSeed it.wi) r.ordinal 9 (r.iter * 256) (vreg r (vA s))
  let es := spWrite d it.uid it.tile o.1 (packCodes (elemBits f) c.1)
  let ss := if isBlock f then spWrite es.1 it.uid it.tile o.2 (packCodes (8 * scaleBytes f) c.2.1) else (es.1, none)
  match es.2.orElse (fun _ => ss.2) with
  | some x => finishWith ss.1 it c.2.2 (max r.last (t + 1)) x
  | none =>
    let r := { r with clock := t + 1, last := max r.last (t + 1), ordinal := if f = 0 then r.ordinal else r.ordinal + 1 }
    modItem (setVec ss.1 (advance r 2)) it.uid fun y => { y with flags := y.flags ||| c.2.2 }

/-- VECTOR_SEQUENCE_COMPLETE (R103): every operation of the last iteration has issued. -/
def execVectorSequenceComplete (tile : Nat) (s : State) : Host.Outcome State Fault Refusal :=
  act s "VECTOR_SEQUENCE_COMPLETE"
    (runsType s.dev tile .vector 2 && match vecOf s.dev tile with
      | some (it, r) => decide (r.iter = seqLoop it.wi)
      | none => false)
    (match vecOf s.dev tile with
      | some (it, r) => finishWith s.dev it 0 r.last 0
      | none => s.dev)

/-! ### The operations -/

def vopLoad (d : Dev) (it : Item) (r : VecRun) (s : Nat) : Dev := loadSlot d it r s

/-- LOAD (R102, R78): opcode 0x01. -/
def execLoad (tile : Nat) (s : State) : Host.Outcome State Fault Refusal :=
  act s "LOAD" (vecAt s.dev tile 0x01) (vecDo s.dev tile vopLoad)

def vopStore (d : Dev) (it : Item) (r : VecRun) (s : Nat) : Dev := storeSlot d it r s

/-- STORE (R102, R78): opcode 0x02. -/
def execStore (tile : Nat) (s : State) : Host.Outcome State Fault Refusal :=
  act s "STORE" (vecAt s.dev tile 0x02) (vecDo s.dev tile vopStore)

def vopBcast (d : Dev) (it : Item) (r : VecRun) (s : Nat) : Dev := issue d it r s 1 [] (fun _ => (List.replicate 256 (vImm s), 0))

/-- BCAST (R102, R78): opcode 0x03. -/
def execBcast (tile : Nat) (s : State) : Host.Outcome State Fault Refusal :=
  act s "BCAST" (vecAt s.dev tile 0x03) (vecDo s.dev tile vopBcast)

def vopIota (d : Dev) (it : Item) (r : VecRun) (s : Nat) : Dev := issue d it r s 1 [] (fun _ => ((List.range 256).map fun i => (i + vImm s) % 2 ^ 32, 0))

/-- IOTA (R102, R78): opcode 0x04. -/
def execIota (tile : Nat) (s : State) : Host.Outcome State Fault Refusal :=
  act s "IOTA" (vecAt s.dev tile 0x04) (vecDo s.dev tile vopIota)

def vopFadd (d : Dev) (it : Item) (r : VecRun) (s : Nat) : Dev := issue d it r s 4 [vA s, vB s] (fun r => lanes2 fAdd (vreg r (vA s)) (vreg r (vB s)))

/-- FADD (R102, R78): opcode 0x10. -/
def execFadd (tile : Nat) (s : State) : Host.Outcome State Fault Refusal :=
  act s "FADD" (vecAt s.dev tile 0x10) (vecDo s.dev tile vopFadd)

def vopFsub (d : Dev) (it : Item) (r : VecRun) (s : Nat) : Dev := issue d it r s 4 [vA s, vB s] (fun r => lanes2 fSub (vreg r (vA s)) (vreg r (vB s)))

/-- FSUB (R102, R78): opcode 0x11. -/
def execFsub (tile : Nat) (s : State) : Host.Outcome State Fault Refusal :=
  act s "FSUB" (vecAt s.dev tile 0x11) (vecDo s.dev tile vopFsub)

def vopFmul (d : Dev) (it : Item) (r : VecRun) (s : Nat) : Dev := issue d it r s 4 [vA s, vB s] (fun r => lanes2 fMul (vreg r (vA s)) (vreg r (vB s)))

/-- FMUL (R102, R78): opcode 0x12. -/
def execFmul (tile : Nat) (s : State) : Host.Outcome State Fault Refusal :=
  act s "FMUL" (vecAt s.dev tile 0x12) (vecDo s.dev tile vopFmul)

def vopFma (d : Dev) (it : Item) (r : VecRun) (s : Nat) : Dev := issue d it r s 5 [vA s, vB s, vC s] (fun r => lanes3 fFma (vreg r (vA s)) (vreg r (vB s)) (vreg r (vC s)))

/-- FMA (R102, R78): opcode 0x13. -/
def execFma (tile : Nat) (s : State) : Host.Outcome State Fault Refusal :=
  act s "FMA" (vecAt s.dev tile 0x13) (vecDo s.dev tile vopFma)

def vopFmin (d : Dev) (it : Item) (r : VecRun) (s : Nat) : Dev := issue d it r s 2 [vA s, vB s] (fun r => lanes2 (fun a b => (fMin a b, 0)) (vreg r (vA s)) (vreg r (vB s)))

/-- FMIN (R102, R78): opcode 0x14. -/
def execFmin (tile : Nat) (s : State) : Host.Outcome State Fault Refusal :=
  act s "FMIN" (vecAt s.dev tile 0x14) (vecDo s.dev tile vopFmin)

def vopFmax (d : Dev) (it : Item) (r : VecRun) (s : Nat) : Dev := issue d it r s 2 [vA s, vB s] (fun r => lanes2 (fun a b => (fMax a b, 0)) (vreg r (vA s)) (vreg r (vB s)))

/-- FMAX (R102, R78): opcode 0x15. -/
def execFmax (tile : Nat) (s : State) : Host.Outcome State Fault Refusal :=
  act s "FMAX" (vecAt s.dev tile 0x15) (vecDo s.dev tile vopFmax)

def vopFabs (d : Dev) (it : Item) (r : VecRun) (s : Nat) : Dev := issue d it r s 1 [vA s] (fun r => lanes1 (fun a => (fAbs a, 0)) (vreg r (vA s)))

/-- FABS (R102, R78): opcode 0x16. -/
def execFabs (tile : Nat) (s : State) : Host.Outcome State Fault Refusal :=
  act s "FABS" (vecAt s.dev tile 0x16) (vecDo s.dev tile vopFabs)

def vopFneg (d : Dev) (it : Item) (r : VecRun) (s : Nat) : Dev := issue d it r s 1 [vA s] (fun r => lanes1 (fun a => (fNeg a, 0)) (vreg r (vA s)))

/-- FNEG (R102, R78): opcode 0x17. -/
def execFneg (tile : Nat) (s : State) : Host.Outcome State Fault Refusal :=
  act s "FNEG" (vecAt s.dev tile 0x17) (vecDo s.dev tile vopFneg)

def vopFcopysign (d : Dev) (it : Item) (r : VecRun) (s : Nat) : Dev := issue d it r s 1 [vA s, vB s] (fun r => lanes2 (fun a b => (fCopysign a b, 0)) (vreg r (vA s)) (vreg r (vB s)))

/-- FCOPYSIGN (R102, R78): opcode 0x18. -/
def execFcopysign (tile : Nat) (s : State) : Host.Outcome State Fault Refusal :=
  act s "FCOPYSIGN" (vecAt s.dev tile 0x18) (vecDo s.dev tile vopFcopysign)

def vopFcmp (d : Dev) (it : Item) (r : VecRun) (s : Nat) : Dev := issue d it r s 2 [vA s, vB s] (fun r => lanes2 (fun a b => (if fCmp (vFmt s) a b then 0xFFFFFFFF else 0, 0)) (vreg r (vA s)) (vreg r (vB s)))

/-- FCMP (R102, R78): opcode 0x19. -/
def execFcmp (tile : Nat) (s : State) : Host.Outcome State Fault Refusal :=
  act s "FCMP" (vecAt s.dev tile 0x19) (vecDo s.dev tile vopFcmp)

/-- SELECT's effect. DESIGN CHOICE: it passes a NaN's bits on as BCAST does, where FABS, FNEG and FCOPYSIGN write the NaN of
R79; R78 calls all of them Exact (log 115). -/
def vopSelect (d : Dev) (it : Item) (r : VecRun) (s : Nat) : Dev := issue d it r s 1 [vA s, vB s, vC s] (fun r => lanes3 (fun a b m => (if m ≠ 0 then a else b, 0)) (vreg r (vA s)) (vreg r (vB s)) (vreg r (vC s)))

/-- SELECT (R102, R78): opcode 0x1A. -/
def execSelect (tile : Nat) (s : State) : Host.Outcome State Fault Refusal :=
  act s "SELECT" (vecAt s.dev tile 0x1A) (vecDo s.dev tile vopSelect)

def vopIadd (d : Dev) (it : Item) (r : VecRun) (s : Nat) : Dev := issue d it r s 2 [vA s, vB s] (fun r => lanes2 (fun a b => ((a + b) % 2 ^ 32, 0)) (vreg r (vA s)) (vreg r (vB s)))

/-- IADD (R102, R78): opcode 0x20. -/
def execIadd (tile : Nat) (s : State) : Host.Outcome State Fault Refusal :=
  act s "IADD" (vecAt s.dev tile 0x20) (vecDo s.dev tile vopIadd)

def vopIsub (d : Dev) (it : Item) (r : VecRun) (s : Nat) : Dev := issue d it r s 2 [vA s, vB s] (fun r => lanes2 (fun a b => ((a + 2 ^ 32 - b) % 2 ^ 32, 0)) (vreg r (vA s)) (vreg r (vB s)))

/-- ISUB (R102, R78): opcode 0x21. -/
def execIsub (tile : Nat) (s : State) : Host.Outcome State Fault Refusal :=
  act s "ISUB" (vecAt s.dev tile 0x21) (vecDo s.dev tile vopIsub)

def vopVectorAnd (d : Dev) (it : Item) (r : VecRun) (s : Nat) : Dev := issue d it r s 2 [vA s, vB s] (fun r => lanes2 (fun a b => (a &&& b, 0)) (vreg r (vA s)) (vreg r (vB s)))

/-- VECTOR_AND (R102, R78): opcode 0x22. -/
def execVectorAnd (tile : Nat) (s : State) : Host.Outcome State Fault Refusal :=
  act s "VECTOR_AND" (vecAt s.dev tile 0x22) (vecDo s.dev tile vopVectorAnd)

def vopVectorOr (d : Dev) (it : Item) (r : VecRun) (s : Nat) : Dev := issue d it r s 2 [vA s, vB s] (fun r => lanes2 (fun a b => (a ||| b, 0)) (vreg r (vA s)) (vreg r (vB s)))

/-- VECTOR_OR (R102, R78): opcode 0x23. -/
def execVectorOr (tile : Nat) (s : State) : Host.Outcome State Fault Refusal :=
  act s "VECTOR_OR" (vecAt s.dev tile 0x23) (vecDo s.dev tile vopVectorOr)

def vopXor (d : Dev) (it : Item) (r : VecRun) (s : Nat) : Dev := issue d it r s 2 [vA s, vB s] (fun r => lanes2 (fun a b => (a ^^^ b, 0)) (vreg r (vA s)) (vreg r (vB s)))

/-- XOR (R102, R78): opcode 0x24. -/
def execXor (tile : Nat) (s : State) : Host.Outcome State Fault Refusal :=
  act s "XOR" (vecAt s.dev tile 0x24) (vecDo s.dev tile vopXor)

def vopShl (d : Dev) (it : Item) (r : VecRun) (s : Nat) : Dev := issue d it r s 2 [vA s] (fun r => lanes1 (fun a => ((a <<< (vImm s % 32)) % 2 ^ 32, 0)) (vreg r (vA s)))

/-- SHL (R102, R78): opcode 0x25. -/
def execShl (tile : Nat) (s : State) : Host.Outcome State Fault Refusal :=
  act s "SHL" (vecAt s.dev tile 0x25) (vecDo s.dev tile vopShl)

def vopShr (d : Dev) (it : Item) (r : VecRun) (s : Nat) : Dev := issue d it r s 2 [vA s] (fun r => lanes1 (fun a => (a >>> (vImm s % 32), 0)) (vreg r (vA s)))

/-- SHR (R102, R78): opcode 0x26. -/
def execShr (tile : Nat) (s : State) : Host.Outcome State Fault Refusal :=
  act s "SHR" (vecAt s.dev tile 0x26) (vecDo s.dev tile vopShr)

def vopSra (d : Dev) (it : Item) (r : VecRun) (s : Nat) : Dev := issue d it r s 2 [vA s] (fun r => lanes1 (fun a => (((signed 32 a >>> (vImm s % 32)) % (2 ^ 32 : Nat)).toNat, 0)) (vreg r (vA s)))

/-- SRA (R102, R78): opcode 0x27. -/
def execSra (tile : Nat) (s : State) : Host.Outcome State Fault Refusal :=
  act s "SRA" (vecAt s.dev tile 0x27) (vecDo s.dev tile vopSra)

def vopItof (d : Dev) (it : Item) (r : VecRun) (s : Nat) : Dev := issue d it r s 3 [vA s] (fun r => lanes1 iToF (vreg r (vA s)))

/-- ITOF (R102, R78): opcode 0x28. -/
def execItof (tile : Nat) (s : State) : Host.Outcome State Fault Refusal :=
  act s "ITOF" (vecAt s.dev tile 0x28) (vecDo s.dev tile vopItof)

def vopFtoi (d : Dev) (it : Item) (r : VecRun) (s : Nat) : Dev := issue d it r s 3 [vA s] (fun r => lanes1 fToI (vreg r (vA s)))

/-- FTOI (R102, R78): opcode 0x29. -/
def execFtoi (tile : Nat) (s : State) : Host.Outcome State Fault Refusal :=
  act s "FTOI" (vecAt s.dev tile 0x29) (vecDo s.dev tile vopFtoi)

def vopExp (d : Dev) (it : Item) (r : VecRun) (s : Nat) : Dev := issue d it r s 14 [vA s] (fun r => lanes1 fExp (vreg r (vA s)))

/-- EXP (R102, R78): opcode 0x30. -/
def execExp (tile : Nat) (s : State) : Host.Outcome State Fault Refusal :=
  act s "EXP" (vecAt s.dev tile 0x30) (vecDo s.dev tile vopExp)

def vopExp2 (d : Dev) (it : Item) (r : VecRun) (s : Nat) : Dev := issue d it r s 14 [vA s] (fun r => lanes1 fExp2 (vreg r (vA s)))

/-- EXP2 (R102, R78): opcode 0x31. -/
def execExp2 (tile : Nat) (s : State) : Host.Outcome State Fault Refusal :=
  act s "EXP2" (vecAt s.dev tile 0x31) (vecDo s.dev tile vopExp2)

def vopRcp (d : Dev) (it : Item) (r : VecRun) (s : Nat) : Dev := issue d it r s 12 [vA s] (fun r => lanes1 fRcp (vreg r (vA s)))

/-- RCP (R102, R78): opcode 0x32. -/
def execRcp (tile : Nat) (s : State) : Host.Outcome State Fault Refusal :=
  act s "RCP" (vecAt s.dev tile 0x32) (vecDo s.dev tile vopRcp)

def vopRsqrt (d : Dev) (it : Item) (r : VecRun) (s : Nat) : Dev := issue d it r s 12 [vA s] (fun r => lanes1 fRsqrt (vreg r (vA s)))

/-- RSQRT (R102, R78): opcode 0x33. -/
def execRsqrt (tile : Nat) (s : State) : Host.Outcome State Fault Refusal :=
  act s "RSQRT" (vecAt s.dev tile 0x33) (vecDo s.dev tile vopRsqrt)

def vopSum (d : Dev) (it : Item) (r : VecRun) (s : Nat) : Dev := issue d it r s 14 [vA s] (fun r => let x := laneSum (vreg r (vA s)); (List.replicate 256 x.1, x.2))

/-- SUM (R102, R78): opcode 0x38. -/
def execSum (tile : Nat) (s : State) : Host.Outcome State Fault Refusal :=
  act s "SUM" (vecAt s.dev tile 0x38) (vecDo s.dev tile vopSum)

def vopLmax (d : Dev) (it : Item) (r : VecRun) (s : Nat) : Dev := issue d it r s 10 [vA s] (fun r => (List.replicate 256 (laneMax (vreg r (vA s))), 0))

/-- LMAX (R102, R78): opcode 0x39. -/
def execLmax (tile : Nat) (s : State) : Host.Outcome State Fault Refusal :=
  act s "LMAX" (vecAt s.dev tile 0x39) (vecDo s.dev tile vopLmax)

end Sys2Proof.Machine
end

