-- ==== Sys2Proof/Machine/Dispatch.lean ====
section
/-!
DEFINITION. The dispatch: one arm per command, each a direct call of its meaning.
-/
namespace Sys2Proof.Machine

/-- The effect of a command on everything but the queue of waiting commands. -/
def exec (i : Instr) (s : State) : Host.Outcome State Fault Refusal :=
  match i with
  | .registerWrite src off width val => Sys2Proof.Machine.execRegisterWrite src off width val s
  | .linkDirectionRebalance hedge toHedge fromHedge => Sys2Proof.Machine.execLinkDirectionRebalance hedge toHedge fromHedge s
  | .linkGroupReversalEnd hedge group => Sys2Proof.Machine.execLinkGroupReversalEnd hedge group s
  | .ringEnable ring => Sys2Proof.Machine.execRingEnable ring s
  | .ringDisable ring => Sys2Proof.Machine.execRingDisable ring s
  | .ringRestart ring => Sys2Proof.Machine.execRingRestart ring s
  | .ringDoorbell win width val => Sys2Proof.Machine.execRingDoorbell win width val s
  | .queueRefetch q => Sys2Proof.Machine.execQueueRefetch q s
  | .dispatcherTurn row => Sys2Proof.Machine.execDispatcherTurn row s
  | .activeSetAdjust row part stallPct => Sys2Proof.Machine.execActiveSetAdjust row part stallPct s
  | .matrix tile => Sys2Proof.Machine.execMatrix tile s
  | .matrixComplete tile => Sys2Proof.Machine.execMatrixComplete tile s
  | .vectorSequence tile => Sys2Proof.Machine.execVectorSequence tile s
  | .vectorSequenceComplete tile => Sys2Proof.Machine.execVectorSequenceComplete tile s
  | .load tile => Sys2Proof.Machine.execLoad tile s
  | .store tile => Sys2Proof.Machine.execStore tile s
  | .bcast tile => Sys2Proof.Machine.execBcast tile s
  | .iota tile => Sys2Proof.Machine.execIota tile s
  | .fadd tile => Sys2Proof.Machine.execFadd tile s
  | .fsub tile => Sys2Proof.Machine.execFsub tile s
  | .fmul tile => Sys2Proof.Machine.execFmul tile s
  | .fma tile => Sys2Proof.Machine.execFma tile s
  | .fmin tile => Sys2Proof.Machine.execFmin tile s
  | .fmax tile => Sys2Proof.Machine.execFmax tile s
  | .fabs tile => Sys2Proof.Machine.execFabs tile s
  | .fneg tile => Sys2Proof.Machine.execFneg tile s
  | .fcopysign tile => Sys2Proof.Machine.execFcopysign tile s
  | .fcmp tile => Sys2Proof.Machine.execFcmp tile s
  | .select tile => Sys2Proof.Machine.execSelect tile s
  | .iadd tile => Sys2Proof.Machine.execIadd tile s
  | .isub tile => Sys2Proof.Machine.execIsub tile s
  | .vectorAnd tile => Sys2Proof.Machine.execVectorAnd tile s
  | .vectorOr tile => Sys2Proof.Machine.execVectorOr tile s
  | .xor tile => Sys2Proof.Machine.execXor tile s
  | .shl tile => Sys2Proof.Machine.execShl tile s
  | .shr tile => Sys2Proof.Machine.execShr tile s
  | .sra tile => Sys2Proof.Machine.execSra tile s
  | .itof tile => Sys2Proof.Machine.execItof tile s
  | .ftoi tile => Sys2Proof.Machine.execFtoi tile s
  | .exp tile => Sys2Proof.Machine.execExp tile s
  | .exp2 tile => Sys2Proof.Machine.execExp2 tile s
  | .rcp tile => Sys2Proof.Machine.execRcp tile s
  | .rsqrt tile => Sys2Proof.Machine.execRsqrt tile s
  | .sum tile => Sys2Proof.Machine.execSum tile s
  | .lmax tile => Sys2Proof.Machine.execLmax tile s
  | .datapathCheckFailed tile onVector => Sys2Proof.Machine.execDatapathCheckFailed tile onVector s
  | .move tile => Sys2Proof.Machine.execMove tile s
  | .moveComplete tile => Sys2Proof.Machine.execMoveComplete tile s
  | .faultSlotRetry part => Sys2Proof.Machine.execFaultSlotRetry part s
  | .attention tile => Sys2Proof.Machine.execAttention tile s
  | .attentionBatch tile => Sys2Proof.Machine.execAttentionBatch tile s
  | .attentionPageDone tile page => Sys2Proof.Machine.execAttentionPageDone tile page s
  | .attentionComplete tile => Sys2Proof.Machine.execAttentionComplete tile s
  | .farTimeout tile req => Sys2Proof.Machine.execFarTimeout tile req s
  | .farRetry tile req => Sys2Proof.Machine.execFarRetry tile req s
  | .utilisationSample sub pct => Sys2Proof.Machine.execUtilisationSample sub pct s
  | .homeComputeDone req => Sys2Proof.Machine.execHomeComputeDone req s
  | .registerSet uid => Sys2Proof.Machine.execRegisterSet uid s
  | .tokenAdd uid => Sys2Proof.Machine.execTokenAdd uid s
  | .waitGe uid => Sys2Proof.Machine.execWaitGe uid s
  | .tokenRelease uid => Sys2Proof.Machine.execTokenRelease uid s
  | .tokenWaitMet uid => Sys2Proof.Machine.execTokenWaitMet uid s
  | .tokenWaitTimeout uid => Sys2Proof.Machine.execTokenWaitTimeout uid s
  | .workItemSignal uid => Sys2Proof.Machine.execWorkItemSignal uid s
  | .fence uid => Sys2Proof.Machine.execFence uid s
  | .fenceComplete uid => Sys2Proof.Machine.execFenceComplete uid s
  | .stepGraph uid => Sys2Proof.Machine.execStepGraph uid s
  | .stepIssue uid => Sys2Proof.Machine.execStepIssue uid s
  | .stepGraphComplete uid => Sys2Proof.Machine.execStepGraphComplete uid s
  | .flitRead f up => Sys2Proof.Machine.execFlitRead f up s
  | .flitWrite fs up lost => Sys2Proof.Machine.execFlitWrite fs up lost s
  | .readData src txn => Sys2Proof.Machine.execReadData src txn s
  | .writeAck src txn => Sys2Proof.Machine.execWriteAck src txn s
  | .atomicResult src txn => Sys2Proof.Machine.execAtomicResult src txn s
  | .tokenNotify row => Sys2Proof.Machine.execTokenNotify row s
  | .workItem dest => Sys2Proof.Machine.execWorkItem dest s
  | .remote => Sys2Proof.Machine.execRemote s
  | .errorFlit src txn => Sys2Proof.Machine.execErrorFlit src txn s
  | .atomicAdd f => Sys2Proof.Machine.execAtomicAdd f s
  | .atomicFetchAdd f => Sys2Proof.Machine.execAtomicFetchAdd f s
  | .atomicSwap f => Sys2Proof.Machine.execAtomicSwap f s
  | .atomicCas f => Sys2Proof.Machine.execAtomicCas f s
  | .atomicUmax f => Sys2Proof.Machine.execAtomicUmax f s
  | .atomicUmin f => Sys2Proof.Machine.execAtomicUmin f s
  | .atomicAnd f => Sys2Proof.Machine.execAtomicAnd f s
  | .atomicOr f => Sys2Proof.Machine.execAtomicOr f s
  | .scratchpadScrub tile bank up => Sys2Proof.Machine.execScratchpadScrub tile bank up s
  | .hbmPatrol hedge up => Sys2Proof.Machine.execHbmPatrol hedge up s
  | .ddrPatrol hedge up => Sys2Proof.Machine.execDdrPatrol hedge up s
  | .ddrChannelFailure channel => Sys2Proof.Machine.execDdrChannelFailure channel s
  | .cmpRegionEnable region => Sys2Proof.Machine.execCmpRegionEnable region s
  | .cmpRegionDisable region => Sys2Proof.Machine.execCmpRegionDisable region s
  | .cmpRegionBusyEnd region => Sys2Proof.Machine.execCmpRegionBusyEnd region s
  | .cmdqEnable cfg => Sys2Proof.Machine.execCmdqEnable cfg s
  | .cmdqDisable => Sys2Proof.Machine.execCmdqDisable s
  | .cmdqDoorbell val => Sys2Proof.Machine.execCmdqDoorbell val s
  | .invalRange => Sys2Proof.Machine.execInvalRange s
  | .invalPartition => Sys2Proof.Machine.execInvalPartition s
  | .invalidationComplete id => Sys2Proof.Machine.execInvalidationComplete id s
  | .resumeRetry => Sys2Proof.Machine.execResumeRetry s
  | .resumeAbort => Sys2Proof.Machine.execResumeAbort s
  | .sync => Sys2Proof.Machine.execSync s
  | .moduleLinkUp module => Sys2Proof.Machine.execModuleLinkUp module s
  | .moduleLinkDown module at16 => Sys2Proof.Machine.execModuleLinkDown module at16 s
  | .configRequest req => Sys2Proof.Machine.execConfigRequest req s
  | .apertureRead req len => Sys2Proof.Machine.execApertureRead req len s
  | .apertureWrite req data => Sys2Proof.Machine.execApertureWrite req data s
  | .apertureFetchadd req bits operand => Sys2Proof.Machine.execApertureFetchadd req bits operand s
  | .apertureSwap req bits operand => Sys2Proof.Machine.execApertureSwap req bits operand s
  | .apertureCas req bits compare swap => Sys2Proof.Machine.execApertureCas req bits compare swap s
  | .cqDoorbell win width val => Sys2Proof.Machine.execCqDoorbell win width val s
  | .cqArm win width val => Sys2Proof.Machine.execCqArm win width val s
  | .eqDoorbell win width val => Sys2Proof.Machine.execEqDoorbell win width val s
  | .eqArm win width val => Sys2Proof.Machine.execEqArm win width val s
  | .msixSend eq => Sys2Proof.Machine.execMsixSend eq s
  | .cqEnable cq => Sys2Proof.Machine.execCqEnable cq s
  | .cqDisable cq => Sys2Proof.Machine.execCqDisable cq s
  | .eqEnable eq => Sys2Proof.Machine.execEqEnable eq s
  | .eqDisable eq => Sys2Proof.Machine.execEqDisable eq s
  | .hlDownTimeout => Sys2Proof.Machine.execHlDownTimeout s
  | .hotReset module => Sys2Proof.Machine.execHotReset module s
  | .hlHeartbeat val => Sys2Proof.Machine.execHlHeartbeat val s
  | .hlHeartbeatTimeout => Sys2Proof.Machine.execHlHeartbeatTimeout s
  | .hlDetach => Sys2Proof.Machine.execHlDetach s
  | .hlRejoin epoch => Sys2Proof.Machine.execHlRejoin epoch s
  | .functionLevelReset fn => Sys2Proof.Machine.execFunctionLevelReset fn s
  | .hpaCompletionTimeout tile => Sys2Proof.Machine.execHpaCompletionTimeout tile s
  | .dieLinkCrcFail crossing group => Sys2Proof.Machine.execDieLinkCrcFail crossing group s
  | .dieLinkLockLoss crossing group => Sys2Proof.Machine.execDieLinkLockLoss crossing group s
  | .flitHeaderError eid => Sys2Proof.Machine.execFlitHeaderError eid s
  | .txnTimeout src txn => Sys2Proof.Machine.execTxnTimeout src txn s
  | .routeEntryWrite => Sys2Proof.Machine.execRouteEntryWrite s
  | .routeCommit => Sys2Proof.Machine.execRouteCommit s
  | .routeDrainComplete => Sys2Proof.Machine.execRouteDrainComplete s
  | .routeDrainSlow => Sys2Proof.Machine.execRouteDrainSlow s
  | .nodeMapInval part node => Sys2Proof.Machine.execNodeMapInval part node s
  | .writeContext qpn addr => Sys2Proof.Machine.execWriteContext qpn addr s
  | .readContext qpn addr => Sys2Proof.Machine.execReadContext qpn addr s
  | .ready qpn => Sys2Proof.Machine.execReady qpn s
  | .drain qpn => Sys2Proof.Machine.execDrain qpn s
  | .qpError qpn => Sys2Proof.Machine.execQpError qpn s
  | .qpReset qpn => Sys2Proof.Machine.execQpReset qpn s
  | .sqDoorbell win width val => Sys2Proof.Machine.execSqDoorbell win width val s
  | .rqDoorbell win width val => Sys2Proof.Machine.execRqDoorbell win width val s
  | .sqWrite qpn => Sys2Proof.Machine.execSqWrite qpn s
  | .sqRead qpn => Sys2Proof.Machine.execSqRead qpn s
  | .sqSend qpn => Sys2Proof.Machine.execSqSend qpn s
  | .sqAtomic qpn => Sys2Proof.Machine.execSqAtomic qpn s
  | .clahimWrite => Sys2Proof.Machine.execClahimWrite s
  | .readReq => Sys2Proof.Machine.execReadReq s
  | .readResp => Sys2Proof.Machine.execReadResp s
  | .send => Sys2Proof.Machine.execSend s
  | .clahimAtomic => Sys2Proof.Machine.execClahimAtomic s
  | .atomicResp => Sys2Proof.Machine.execAtomicResp s
  | .attend => Sys2Proof.Machine.execAttend s
  | .attendReply => Sys2Proof.Machine.execAttendReply s
  | .reduce => Sys2Proof.Machine.execReduce s
  | .ack => Sys2Proof.Machine.execAck s
  | .nak => Sys2Proof.Machine.execNak s
  | .probe => Sys2Proof.Machine.execProbe s
  | .probeReply => Sys2Proof.Machine.execProbeReply s
  | .contextFetchDone qpn => Sys2Proof.Machine.execContextFetchDone qpn s
  | .ackDelayExpiry qpn => Sys2Proof.Machine.execAckDelayExpiry qpn s
  | .rtoExpiry qpn psn => Sys2Proof.Machine.execRtoExpiry qpn psn s
  | .rnrResend qpn psn => Sys2Proof.Machine.execRnrResend qpn psn s
  | .heldResend qpn psn => Sys2Proof.Machine.execHeldResend qpn psn s
  | .pathExhaustedTimer qpn => Sys2Proof.Machine.execPathExhaustedTimer qpn s
  | .pathsetInval set => Sys2Proof.Machine.execPathsetInval set s
  | .probeTimer set => Sys2Proof.Machine.execProbeTimer set s
  | .meterRefill port => Sys2Proof.Machine.execMeterRefill port s
  | .transmitOpportunity sub => Sys2Proof.Machine.execTransmitOpportunity sub s
  | .portEnable port val => Sys2Proof.Machine.execPortEnable port val s
  | .subportLossOfSignal sub => Sys2Proof.Machine.execSubportLossOfSignal sub s
  | .linkHoldExpiry sub => Sys2Proof.Machine.execLinkHoldExpiry sub s
  | .ethernetFrameReceive sub f => Sys2Proof.Machine.execEthernetFrameReceive sub f s
  | .timeNowRead src => Sys2Proof.Machine.execTimeNowRead src s
  | .timeSet val => Sys2Proof.Machine.execTimeSet val s
  | .timeStep val => Sys2Proof.Machine.execTimeStep val s
  | .timeAdjust val => Sys2Proof.Machine.execTimeAdjust val s
  | .gateChange sub => Sys2Proof.Machine.execGateChange sub s
  | .gateCancel sub => Sys2Proof.Machine.execGateCancel sub s
  | .gateStart sub => Sys2Proof.Machine.execGateStart sub s
  | .gateEntryEnd sub => Sys2Proof.Machine.execGateEntryEnd sub s
  | .rawRxDoorbell win width val => Sys2Proof.Machine.execRawRxDoorbell win width val s
  | .rawTxDoorbell win width val => Sys2Proof.Machine.execRawTxDoorbell win width val s
  | .rawTransmit sub => Sys2Proof.Machine.execRawTransmit sub s
  | .rawFrameReceive sub => Sys2Proof.Machine.execRawFrameReceive sub s
  | .groupLoad group => Sys2Proof.Machine.execGroupLoad group s
  | .groupUnload group => Sys2Proof.Machine.execGroupUnload group s
  | .collDoorbell win width val => Sys2Proof.Machine.execCollDoorbell win width val s
  | .allReduce part => Sys2Proof.Machine.execAllReduce part s
  | .reduceScatter part => Sys2Proof.Machine.execReduceScatter part s
  | .allGather part => Sys2Proof.Machine.execAllGather part s
  | .collectiveRepeatStart group => Sys2Proof.Machine.execCollectiveRepeatStart group s
  | .collectiveSignal group => Sys2Proof.Machine.execCollectiveSignal group s
  | .collectiveRoundTimeout group => Sys2Proof.Machine.execCollectiveRoundTimeout group s
  | .yewEngineMismatch engine => Sys2Proof.Machine.execYewEngineMismatch engine s
  | .loadClear slot => Sys2Proof.Machine.execLoadClear slot s
  | .loadWrapped slot kek => Sys2Proof.Machine.execLoadWrapped slot kek s
  | .erase slot => Sys2Proof.Machine.execErase slot s
  | .eraseComplete slot => Sys2Proof.Machine.execEraseComplete slot s
  | .saveClear slot => Sys2Proof.Machine.execSaveClear slot s
  | .saveWrapped slot kek => Sys2Proof.Machine.execSaveWrapped slot kek s
  | .rxGraceExpiry slot => Sys2Proof.Machine.execRxGraceExpiry slot s
  | .keyWordError slot => Sys2Proof.Machine.execKeyWordError slot s
  | .physicalAttackAlarm source => Sys2Proof.Machine.execPhysicalAttackAlarm source s
  | .tableInval val => Sys2Proof.Machine.execTableInval val s
  | .attestGo part => Sys2Proof.Machine.execAttestGo part s
  | .attestReportDone part => Sys2Proof.Machine.execAttestReportDone part s
  | .tileAssign tile part => Sys2Proof.Machine.execTileAssign tile part s
  | .tileRelease tile part => Sys2Proof.Machine.execTileRelease tile part s
  | .tileReleaseTimeout tile => Sys2Proof.Machine.execTileReleaseTimeout tile s
  | .tileReleaseDone tile => Sys2Proof.Machine.execTileReleaseDone tile s
  | .freeze part => Sys2Proof.Machine.execFreeze part s
  | .freezeTimeout part => Sys2Proof.Machine.execFreezeTimeout part s
  | .partitionFrozen part => Sys2Proof.Machine.execPartitionFrozen part s
  | .save part => Sys2Proof.Machine.execSave part s
  | .saveDone part => Sys2Proof.Machine.execSaveDone part s
  | .restore part => Sys2Proof.Machine.execRestore part s
  | .restoreDone part => Sys2Proof.Machine.execRestoreDone part s
  | .thaw part => Sys2Proof.Machine.execThaw part s
  | .sealPartition part => Sys2Proof.Machine.execSealPartition part s
  | .unsealPartition part => Sys2Proof.Machine.execUnsealPartition part s
  | .powerOn => Sys2Proof.Machine.execPowerOn s
  | .brownout => Sys2Proof.Machine.execBrownout s
  | .fuses => Sys2Proof.Machine.execFuses s
  | .verify readOk => Sys2Proof.Machine.execVerify readOk s
  | .rails => Sys2Proof.Machine.execRails s
  | .dies findings => Sys2Proof.Machine.execDies findings s
  | .config sameBytes => Sys2Proof.Machine.execConfig sameBytes s
  | .regRecord => Sys2Proof.Machine.execRegRecord s
  | .routeRecord => Sys2Proof.Machine.execRouteRecord s
  | .blobRecord => Sys2Proof.Machine.execBlobRecord s
  | .endRecord => Sys2Proof.Machine.execEndRecord s
  | .bringup modules => Sys2Proof.Machine.execBringup modules s
  | .bringupPartDone unit ok => Sys2Proof.Machine.execBringupPartDone unit ok s
  | .opticsLimit => Sys2Proof.Machine.execOpticsLimit s
  | .bringupEnd => Sys2Proof.Machine.execBringupEnd s
  | .flashRead => Sys2Proof.Machine.execFlashRead s
  | .flashProgram => Sys2Proof.Machine.execFlashProgram s
  | .flashEraseSector => Sys2Proof.Machine.execFlashEraseSector s
  | .flashEraseAll => Sys2Proof.Machine.execFlashEraseAll s
  | .flashCmdComplete => Sys2Proof.Machine.execFlashCmdComplete s
  | .coldReset confirm => Sys2Proof.Machine.execColdReset confirm s
  | .warmReset confirm => Sys2Proof.Machine.execWarmReset confirm s
  | .managementReset => Sys2Proof.Machine.execManagementReset s
  | .powerSample centivolts milliamps => Sys2Proof.Machine.execPowerSample centivolts milliamps s
  | .controllerStep => Sys2Proof.Machine.execControllerStep s
  | .overCurrentTrip die => Sys2Proof.Machine.execOverCurrentTrip die s
  | .coppiceEntry dom target => Sys2Proof.Machine.execCoppiceEntry dom target s
  | .coppiceExitDone dom => Sys2Proof.Machine.execCoppiceExitDone dom s
  | .ltrWrite isRing index val => Sys2Proof.Machine.execLtrWrite isRing index val s
  | .limitWrite target val => Sys2Proof.Machine.execLimitWrite target val s
  | .pllLockTimeout dom => Sys2Proof.Machine.execPllLockTimeout dom s
  | .thermalCapStep readings => Sys2Proof.Machine.execThermalCapStep readings s
  | .memoryHotStep readings => Sys2Proof.Machine.execMemoryHotStep readings s
  | .thermalTrip pair readings => Sys2Proof.Machine.execThermalTrip pair readings s
  | .voteScrub => Sys2Proof.Machine.execVoteScrub s
  | .watchdogExpiry tile => Sys2Proof.Machine.execWatchdogExpiry tile s
  | .spareCopyDone tile => Sys2Proof.Machine.execSpareCopyDone tile s
  | .tileRetire tile => Sys2Proof.Machine.execTileRetire tile s
  | .hbmStackFailure stack => Sys2Proof.Machine.execHbmStackFailure stack s
  | .hedgeDieFailure hedge => Sys2Proof.Machine.execHedgeDieFailure hedge s
  | .deviceHalt die => Sys2Proof.Machine.execDeviceHalt die s
  | .lockstepMismatch => Sys2Proof.Machine.execLockstepMismatch s
  | .moduleOverPower position => Sys2Proof.Machine.execModuleOverPower position s
  | .stallTimeout => Sys2Proof.Machine.execStallTimeout s
  | .commit => Sys2Proof.Machine.execCommit s
  | .compatPostedWrite off width val => Sys2Proof.Machine.execCompatPostedWrite off width val s
  | .compatQueueApply => Sys2Proof.Machine.execCompatQueueApply s
  | .i3cRead off => Sys2Proof.Machine.execI3cRead off s
  | .i3cWrite off val => Sys2Proof.Machine.execI3cWrite off val s
  | .i3cAlert => Sys2Proof.Machine.execI3cAlert s
  | .bypass => Sys2Proof.Machine.execBypass s
  | .idcode => Sys2Proof.Machine.execIdcode s
  | .samplePreload => Sys2Proof.Machine.execSamplePreload s
  | .extest => Sys2Proof.Machine.execExtest s
  | .subportSignalRestored sub => Sys2Proof.Machine.execSubportSignalRestored sub s
  | .currentGuardRelease die => Sys2Proof.Machine.execCurrentGuardRelease die s
  | .tripPairDisagreement pair readings => Sys2Proof.Machine.execTripPairDisagreement pair readings s
  | .tripCooldown readings => Sys2Proof.Machine.execTripCooldown readings s

end Sys2Proof.Machine
end

