-- ==== Sys2Proof/Machine/Step.lean ====
section
/-!
DEFINITION. The step: the front command of the queue runs on the state with the queue's rest; with no command waiting
the block advances by one tick of its root clock (Machine/Tick.lean).
-/
namespace Sys2Proof.Machine

/-- One step of the block. -/
def step (s : State) : Host.Outcome State Fault Refusal :=
  match s.pending with
  | [] => .next { s with dev := Sys2Proof.Machine.idleTick s.dev }
  | c :: t => exec c { s with pending := t }

/-- The state with the command a table word spells put at the front of its queue; no row gives bits. -/
def State.withFetchWord (s : State) (nbits w : Nat) : State :=
  match Sys2Proof.decodeTableWord nbits w with
  | some c => { s with pending := c :: s.pending }
  | none => s

end Sys2Proof.Machine
end

