-- ==== Sys2Proof/WellFormed.lean ====
section
/-!
DEFINITION. Well-formed commands: every operand names an object of the package, or fits the field that carries it.
-/
namespace Sys2Proof

/-- The fields of a flit fit the header of R271 and its 32-byte payload. -/
def flitFits (f : Flit) : Bool :=
  decide (f.dest < 2 ^ 16 ∧ f.src < 2 ^ 16 ∧ f.txn < 2 ^ 16 ∧ f.op < 16 ∧ f.epoch < 2 ∧ f.vc < 4 ∧ f.part < 64 ∧ f.addr < 2 ^ 48
    ∧ f.byteFirst < 32 ∧ f.byteLast < 32 ∧ f.atomic < 8 ∧ f.payload < 2 ^ 256)

/-- The fields of a frame's Ethernet header fit their widths (R372). -/
def frameFits (f : Frame) : Bool := decide (f.dstMac < 2 ^ 48 ∧ f.srcMac < 2 ^ 48 ∧ f.etherType < 2 ^ 16) && f.tag.all fun t => decide (t < 2 ^ 16)

/-- The domain is one of R483. -/
def domainFits : Domain → Bool
  | .tile t => decide (t < 1152)
  | .spare s => decide (s < 16)
  | .hedge q => decide (q < 4)
  | .laurel => true
  | .mesh => true

/-- The unit is one of the stacks and channels of R187 and R189. -/
def unitFits : BringUnit → Bool
  | .hbm s => decide (s < 12)
  | .ddr c => decide (c < 8)
  | .optics => true
  | .preload => true

/-- The source is a function of a module with a 16-bit requester ID, or another source of R529. -/
def sourceFits : Source → Bool
  | .host m fn rid => decide (m < 2 ∧ fn < 64 ∧ rid < 2 ^ 16)
  | .i3c => true
  | .compat => true
  | .sequencer => true

/-- The queue exists (R90, R295, R382, R394). -/
def queueFits : QueueId → Bool
  | .ring n => decide (n < 4096)
  | .cmdq => true
  | .sq qpn => decide (1 ≤ qpn ∧ qpn < 2 ^ 24)
  | .rq qpn => decide (1 ≤ qpn ∧ qpn < 2 ^ 24)
  | .coll p => decide (p < 64)
  | .rawTx sub => decide (sub < 32)

/-- A configuration request's module, function, requester ID and register exist (R234, R238). -/
def cfgFits (q : CfgReq) : Bool := decide (q.module < 2 ∧ q.fn < 64 ∧ q.rid < 2 ^ 16) && match q.reg with
  | .vectorControl v => decide (v < if q.fn = 0 then 256 else 32)
  | .other off => decide (off < 4096)
  | _ => true

/-- An aperture request's module, function and requester ID exist (R237). -/
def apFits (q : ApReq) : Bool := decide (q.module < 2 ∧ q.fn < 64 ∧ q.rid < 2 ^ 16)

/-- What stage DIES finds names dies of R514 and tiles of R23. -/
def findingsFit (x : DieFindings) : Bool := (x.failedDie.all fun d => decide (d < 9)) && x.badTiles.all fun t => decide (t < 1152)

/-- The limit exists (R497). -/
def targetFits : LimitTarget → Bool
  | .sustained => true
  | .sealFloor p => decide (p < 64)

/-- A reading of one of the sensors of R493. -/
def readingFits (r : SensorReading) : Bool := decide (r.sensor < 168)

/-- Whether a command's operands name objects that exist and fit the fields that carry them. -/
def Instr.wellFormed : Instr → Bool
  | .registerWrite src off width val => sourceFits src && decide (off + width ≤ 0x4000000) && decide (1 ≤ width ∧ width ≤ 64) && decide (val < 2 ^ (8 * width))
  | .linkDirectionRebalance hedge _ _ => decide (hedge < 4)
  | .linkGroupReversalEnd hedge group => decide (hedge < 4) && decide (group < 34)
  | .ringEnable ring => decide (ring < 4096)
  | .ringDisable ring => decide (ring < 4096)
  | .ringRestart ring => decide (ring < 4096)
  | .ringDoorbell win width val => decide (win < 64) && decide (1 ≤ width ∧ width ≤ 64) && decide (val < 2 ^ (8 * width))
  | .queueRefetch q => queueFits q
  | .dispatcherTurn row => decide (row < 24)
  | .activeSetAdjust row part stallPct => decide (row < 24) && decide (part < 64) && decide (stallPct ≤ 100)
  | .matrix tile => decide (tile < 1152)
  | .matrixComplete tile => decide (tile < 1152)
  | .vectorSequence tile => decide (tile < 1152)
  | .vectorSequenceComplete tile => decide (tile < 1152)
  | .load tile => decide (tile < 1152)
  | .store tile => decide (tile < 1152)
  | .bcast tile => decide (tile < 1152)
  | .iota tile => decide (tile < 1152)
  | .fadd tile => decide (tile < 1152)
  | .fsub tile => decide (tile < 1152)
  | .fmul tile => decide (tile < 1152)
  | .fma tile => decide (tile < 1152)
  | .fmin tile => decide (tile < 1152)
  | .fmax tile => decide (tile < 1152)
  | .fabs tile => decide (tile < 1152)
  | .fneg tile => decide (tile < 1152)
  | .fcopysign tile => decide (tile < 1152)
  | .fcmp tile => decide (tile < 1152)
  | .select tile => decide (tile < 1152)
  | .iadd tile => decide (tile < 1152)
  | .isub tile => decide (tile < 1152)
  | .vectorAnd tile => decide (tile < 1152)
  | .vectorOr tile => decide (tile < 1152)
  | .xor tile => decide (tile < 1152)
  | .shl tile => decide (tile < 1152)
  | .shr tile => decide (tile < 1152)
  | .sra tile => decide (tile < 1152)
  | .itof tile => decide (tile < 1152)
  | .ftoi tile => decide (tile < 1152)
  | .exp tile => decide (tile < 1152)
  | .exp2 tile => decide (tile < 1152)
  | .rcp tile => decide (tile < 1152)
  | .rsqrt tile => decide (tile < 1152)
  | .sum tile => decide (tile < 1152)
  | .lmax tile => decide (tile < 1152)
  | .datapathCheckFailed tile _ => decide (tile < 1152)
  | .move tile => decide (tile < 1152)
  | .moveComplete tile => decide (tile < 1152)
  | .faultSlotRetry part => decide (part < 64)
  | .attention tile => decide (tile < 1152)
  | .attentionBatch tile => decide (tile < 1152)
  | .attentionPageDone tile _ => decide (tile < 1152)
  | .attentionComplete tile => decide (tile < 1152)
  | .farTimeout tile _ => decide (tile < 1152)
  | .farRetry tile _ => decide (tile < 1152)
  | .utilisationSample sub pct => decide (sub < 32) && decide (pct ≤ 100)
  | .homeComputeDone _ => true
  | .registerSet _ => true
  | .tokenAdd _ => true
  | .waitGe _ => true
  | .tokenRelease _ => true
  | .tokenWaitMet _ => true
  | .tokenWaitTimeout _ => true
  | .workItemSignal _ => true
  | .fence _ => true
  | .fenceComplete _ => true
  | .stepGraph _ => true
  | .stepIssue _ => true
  | .stepGraphComplete _ => true
  | .flitRead f _ => flitFits f
  | .flitWrite fs _ _ => (fs.all flitFits)
  | .readData src txn => decide (src < 65536) && decide (txn < 65536)
  | .writeAck src txn => decide (src < 65536) && decide (txn < 65536)
  | .atomicResult src txn => decide (src < 65536) && decide (txn < 65536)
  | .tokenNotify row => decide (row < 24)
  | .workItem dest => decide (dest < 65536)
  | .remote => true
  | .errorFlit src txn => decide (src < 65536) && decide (txn < 65536)
  | .atomicAdd f => flitFits f
  | .atomicFetchAdd f => flitFits f
  | .atomicSwap f => flitFits f
  | .atomicCas f => flitFits f
  | .atomicUmax f => flitFits f
  | .atomicUmin f => flitFits f
  | .atomicAnd f => flitFits f
  | .atomicOr f => flitFits f
  | .scratchpadScrub tile bank _ => decide (tile < 1152) && decide (bank < 64)
  | .hbmPatrol hedge _ => decide (hedge < 4)
  | .ddrPatrol hedge _ => decide (hedge < 4)
  | .ddrChannelFailure channel => decide (channel < 8)
  | .cmpRegionEnable region => decide (region < 16)
  | .cmpRegionDisable region => decide (region < 16)
  | .cmpRegionBusyEnd region => decide (region < 16)
  | .cmdqEnable cfg => decide (cfg < 2 ^ 32)
  | .cmdqDisable => true
  | .cmdqDoorbell val => decide (val < 2 ^ 32)
  | .invalRange => true
  | .invalPartition => true
  | .invalidationComplete _ => true
  | .resumeRetry => true
  | .resumeAbort => true
  | .sync => true
  | .moduleLinkUp module => decide (module < 2)
  | .moduleLinkDown module _ => decide (module < 2)
  | .configRequest req => cfgFits req
  | .apertureRead req len => apFits req && decide (1 ≤ len ∧ len ≤ 4096)
  | .apertureWrite req data => apFits req && decide (data.length ≤ 512)
  | .apertureFetchadd req bits operand => apFits req && decide (bits = 32 ∨ bits = 64 ∨ bits = 128) && decide (operand < 2 ^ bits)
  | .apertureSwap req bits operand => apFits req && decide (bits = 32 ∨ bits = 64 ∨ bits = 128) && decide (operand < 2 ^ bits)
  | .apertureCas req bits compare swap => apFits req && decide (bits = 32 ∨ bits = 64 ∨ bits = 128) && decide (compare < 2 ^ bits) && decide (swap < 2 ^ bits)
  | .cqDoorbell win width val => decide (win < 64) && decide (1 ≤ width ∧ width ≤ 64) && decide (val < 2 ^ (8 * width))
  | .cqArm win width val => decide (win < 64) && decide (1 ≤ width ∧ width ≤ 64) && decide (val < 2 ^ (8 * width))
  | .eqDoorbell win width val => decide (win < 64) && decide (1 ≤ width ∧ width ≤ 64) && decide (val < 2 ^ (8 * width))
  | .eqArm win width val => decide (win < 64) && decide (1 ≤ width ∧ width ≤ 64) && decide (val < 2 ^ (8 * width))
  | .msixSend eq => decide (eq < 256)
  | .cqEnable cq => decide (cq < 16384)
  | .cqDisable cq => decide (cq < 16384)
  | .eqEnable eq => decide (eq < 256)
  | .eqDisable eq => decide (eq < 256)
  | .hlDownTimeout => true
  | .hotReset module => decide (module < 2)
  | .hlHeartbeat val => decide (val < 2 ^ 32)
  | .hlHeartbeatTimeout => true
  | .hlDetach => true
  | .hlRejoin epoch => decide (epoch < 2 ^ 32)
  | .functionLevelReset fn => decide (fn < 64)
  | .hpaCompletionTimeout tile => decide (tile < 1152)
  | .dieLinkCrcFail crossing group => decide (crossing < 10) && decide (group < if crossing < 8 then 34 else 16)
  | .dieLinkLockLoss crossing group => decide (crossing < 10) && decide (group < if crossing < 8 then 34 else 16)
  | .flitHeaderError eid => decide (eid < 65536)
  | .txnTimeout src txn => decide (src < 65536) && decide (txn < 65536)
  | .routeEntryWrite => true
  | .routeCommit => true
  | .routeDrainComplete => true
  | .routeDrainSlow => true
  | .nodeMapInval part node => decide (part < 64) && decide (node < 65536)
  | .writeContext qpn addr => decide (qpn < 2 ^ 24) && decide (addr < 2 ^ 64)
  | .readContext qpn addr => decide (qpn < 2 ^ 24) && decide (addr < 2 ^ 64)
  | .ready qpn => decide (qpn < 2 ^ 24)
  | .drain qpn => decide (qpn < 2 ^ 24)
  | .qpError qpn => decide (qpn < 2 ^ 24)
  | .qpReset qpn => decide (qpn < 2 ^ 24)
  | .sqDoorbell win width val => decide (win < 64) && decide (1 ≤ width ∧ width ≤ 64) && decide (val < 2 ^ (8 * width))
  | .rqDoorbell win width val => decide (win < 64) && decide (1 ≤ width ∧ width ≤ 64) && decide (val < 2 ^ (8 * width))
  | .sqWrite qpn => decide (qpn < 2 ^ 24)
  | .sqRead qpn => decide (qpn < 2 ^ 24)
  | .sqSend qpn => decide (qpn < 2 ^ 24)
  | .sqAtomic qpn => decide (qpn < 2 ^ 24)
  | .clahimWrite => true
  | .readReq => true
  | .readResp => true
  | .send => true
  | .clahimAtomic => true
  | .atomicResp => true
  | .attend => true
  | .attendReply => true
  | .reduce => true
  | .ack => true
  | .nak => true
  | .probe => true
  | .probeReply => true
  | .contextFetchDone qpn => decide (qpn < 2 ^ 24)
  | .ackDelayExpiry qpn => decide (qpn < 2 ^ 24)
  | .rtoExpiry qpn psn => decide (qpn < 2 ^ 24) && decide (psn < 2 ^ 32)
  | .rnrResend qpn psn => decide (qpn < 2 ^ 24) && decide (psn < 2 ^ 32)
  | .heldResend qpn psn => decide (qpn < 2 ^ 24) && decide (psn < 2 ^ 32)
  | .pathExhaustedTimer qpn => decide (qpn < 2 ^ 24)
  | .pathsetInval set => decide (set < 65536)
  | .probeTimer set => decide (set < 65536)
  | .meterRefill port => decide (port < 8)
  | .transmitOpportunity sub => decide (sub < 32)
  | .portEnable port val => decide (port < 8) && decide (val < 2 ^ 32)
  | .subportLossOfSignal sub => decide (sub < 32)
  | .linkHoldExpiry sub => decide (sub < 32)
  | .ethernetFrameReceive sub f => decide (sub < 32) && frameFits f
  | .timeNowRead src => sourceFits src
  | .timeSet val => decide (val < 2 ^ 64)
  | .timeStep val => decide (val < 2 ^ 64)
  | .timeAdjust val => decide (val < 2 ^ 32)
  | .gateChange sub => decide (sub < 32)
  | .gateCancel sub => decide (sub < 32)
  | .gateStart sub => decide (sub < 32)
  | .gateEntryEnd sub => decide (sub < 32)
  | .rawRxDoorbell win width val => decide (win < 64) && decide (1 ≤ width ∧ width ≤ 64) && decide (val < 2 ^ (8 * width))
  | .rawTxDoorbell win width val => decide (win < 64) && decide (1 ≤ width ∧ width ≤ 64) && decide (val < 2 ^ (8 * width))
  | .rawTransmit sub => decide (sub < 32)
  | .rawFrameReceive sub => decide (sub < 32)
  | .groupLoad group => decide (group < 256)
  | .groupUnload group => decide (group < 256)
  | .collDoorbell win width val => decide (win < 64) && decide (1 ≤ width ∧ width ≤ 64) && decide (val < 2 ^ (8 * width))
  | .allReduce part => decide (part < 64)
  | .reduceScatter part => decide (part < 64)
  | .allGather part => decide (part < 64)
  | .collectiveRepeatStart group => decide (group < 256)
  | .collectiveSignal group => decide (group < 256)
  | .collectiveRoundTimeout group => decide (group < 256)
  | .yewEngineMismatch engine => decide (engine < 128)
  | .loadClear slot => decide (slot < 65536)
  | .loadWrapped slot kek => decide (slot < 65536) && decide (kek < 65536)
  | .erase slot => decide (slot < 65536)
  | .eraseComplete slot => decide (slot < 65536)
  | .saveClear slot => decide (slot < 65536)
  | .saveWrapped slot kek => decide (slot < 65536) && decide (kek < 65536)
  | .rxGraceExpiry slot => decide (slot < 65536)
  | .keyWordError slot => decide (slot < 65536)
  | .physicalAttackAlarm source => decide (1 ≤ source ∧ source ≤ 4)
  | .tableInval val => decide (val < 2 ^ 32)
  | .attestGo part => decide (part < 64)
  | .attestReportDone part => decide (part < 64)
  | .tileAssign tile part => decide (tile < 2048) && decide (part < 64)
  | .tileRelease tile part => decide (tile < 2048) && decide (part < 64)
  | .tileReleaseTimeout tile => decide (tile < 1152)
  | .tileReleaseDone tile => decide (tile < 1152)
  | .freeze part => decide (part < 64)
  | .freezeTimeout part => decide (part < 64)
  | .partitionFrozen part => decide (part < 64)
  | .save part => decide (part < 64)
  | .saveDone part => decide (part < 64)
  | .restore part => decide (part < 64)
  | .restoreDone part => decide (part < 64)
  | .thaw part => decide (part < 64)
  | .sealPartition part => decide (part < 64)
  | .unsealPartition part => decide (part < 64)
  | .powerOn => true
  | .brownout => true
  | .fuses => true
  | .verify _ => true
  | .rails => true
  | .dies findings => findingsFit findings
  | .config _ => true
  | .regRecord => true
  | .routeRecord => true
  | .blobRecord => true
  | .endRecord => true
  | .bringup modules => (modules.all fun x => decide (x.channel < 8))
  | .bringupPartDone unit _ => unitFits unit
  | .opticsLimit => true
  | .bringupEnd => true
  | .flashRead => true
  | .flashProgram => true
  | .flashEraseSector => true
  | .flashEraseAll => true
  | .flashCmdComplete => true
  | .coldReset confirm => decide (confirm < 65536)
  | .warmReset confirm => decide (confirm < 65536)
  | .managementReset => true
  | .powerSample _ _ => true
  | .controllerStep => true
  | .overCurrentTrip die => decide (die < 7)
  | .coppiceEntry dom target => domainFits dom && decide (1 ≤ target ∧ target ≤ 4)
  | .coppiceExitDone dom => domainFits dom
  | .ltrWrite isRing index val => decide (index < if isRing then 4096 else 64) && decide (val < 2 ^ 32)
  | .limitWrite target val => targetFits target && decide (val < 2 ^ 32)
  | .pllLockTimeout dom => domainFits dom
  | .thermalCapStep readings => (readings.all readingFits)
  | .memoryHotStep readings => (readings.all readingFits)
  | .thermalTrip pair readings => decide (pair < 8) && (readings.all readingFits)
  | .voteScrub => true
  | .watchdogExpiry tile => decide (tile < 1152)
  | .spareCopyDone tile => decide (tile < 1152)
  | .tileRetire tile => decide (tile < 2048)
  | .hbmStackFailure stack => decide (stack < 12)
  | .hedgeDieFailure hedge => decide (hedge < 4)
  | .deviceHalt die => decide (die = 0 ∨ die = 5)
  | .lockstepMismatch => true
  | .moduleOverPower position => decide (position < 16)
  | .stallTimeout => true
  | .commit => true
  | .compatPostedWrite off width val => decide (off < 0x400000 ∧ off % 4 = 0) && decide (val < 2 ^ (8 * width)) && decide (width = 4)
  | .compatQueueApply => true
  | .i3cRead off => decide (off < 2 ^ 32)
  | .i3cWrite off val => decide (off < 2 ^ 32) && decide (val < 2 ^ 64)
  | .i3cAlert => true
  | .bypass => true
  | .idcode => true
  | .samplePreload => true
  | .extest => true
  | .subportSignalRestored sub => decide (sub < 32)
  | .currentGuardRelease die => decide (die < 7)
  | .tripPairDisagreement pair readings => decide (pair < 8) && (readings.all readingFits)
  | .tripCooldown readings => (readings.all readingFits)

end Sys2Proof
end

