-- ==== Sys2Proof/Safety.lean ====
section
/-!
DEFINITION. What the statements about the machine are said in: a command's answer, what an effect leaves unchanged, and
what fuses may do.
-/
namespace Sys2Proof.Machine

/-- Command `c` at `s` answers the next state whose device is `e` with its waiting queue entries delivered (R245), the
queue of commands and the fuses as before. -/
def Answers (c : Instr) (s : State) (e : Dev) : Prop := exec c s = .next { s with dev := deliver e }

/-- Register commands are taken: neither in holdback (R471) nor halted (R513). -/
abbrev takesDriver (d : Dev) : Prop := rd d .bootStatusStage ≠ 15 ∧ isSet d .safetyStatusHalted = false

/-- From `d` to `e` every register field reads as before, but the listed entries (and what is voted with them). -/
def keepsRegs (d e : Dev) (l : List (Fld × Nat)) : Prop :=
  ∀ f i, (∀ x ∈ l, x.1 ∈ votedWith f → x.2 ≠ i) → rd e f i = rd d f i

/-- From `d` to `e` only register fields change, and of these only the listed entries: memories, queues, work items,
keys and every other part of the state stay as they are. -/
def onlyRegs (d e : Dev) (l : List (Fld × Nat)) : Prop :=
  { e with regs := d.regs, regsB := d.regsB, regsC := d.regsC } = d ∧ keepsRegs d e l

/-! ### Fuses (R465, R467) -/

/-- Four owner slots, each valid one written; a fuse repair stands in for a tile of the three columns above its spare (R24). -/
def fusesOk (p : Perm) : Prop :=
  p.owners.length = 4 ∧ (∀ o ∈ p.owners, o.valid = true → o.used = true) ∧ ∀ e ∈ p.spares, e.2 < tiles ∧ spareOf e.2 = e.1

/-- The owner slot a start-up is programming. -/
def enrolling (s : State) (k : Nat) : Prop := ∃ f ∈ s.dev.boot.fuse, ∃ e ∈ f.enrol, e.1 = k

/-- From `s` to `t` the fuses only grow: a written slot stays written, a valid slot that is not being programmed keeps its
digest, the minimum security version never falls, and what was provisioned stays. -/
def fusesGrow (s t : State) : Prop :=
  s.perm.svnMin ≤ t.perm.svnMin ∧
  (∀ k o, s.perm.owners[k]? = some o →
    ∃ o', t.perm.owners[k]? = some o' ∧ (o.used = true → o'.used = true) ∧ (o.valid = true → ¬ enrolling s k → o' = o)) ∧
  t.perm = { s.perm with owners := t.perm.owners, svnMin := t.perm.svnMin }

/-! ### Starting work items (R92, R115, R124, R125) -/

/-- Work item `it` begins to run as `it'`, on device `d'`: its wait names a registered token; a copy of a step graph is what its late
patches leave, any other as it stands; one on a tile has its journal entry set. -/
def begins (d : Dev) (it : Item) (d' : Dev) (it' : Item) : Prop :=
  waitOf d it ≠ .bad ∧ ∃ d0 x,
    (((it.graph = none ∨ it.rerun = true ∨ it.patched = true) ∧ d0 = d ∧ x = it) ∨
      (it.graph ≠ none ∧ it.rerun = false ∧ it.patched = false ∧ latePatch d it = (d0, .go x))) ∧
    it' = { x with phase := .started, waitMet := true, patched := true } ∧
    d' = if x.lane = .token ∨ x.lane = .home then modItem d0 x.uid fun _ => it'
      else journalSet (modItem d0 x.uid fun _ => it') x.tile x.uid fun j => { j with wi := x.wi, state := if x.rerun then 2 else 1 }

/-- The start of work item `it` gives `e`: the work item ends with 0x4A when its wait names no registered token, begins and goes on by
`k`, or its late patches end it with their cause or leave it where it is. -/
def startsBy (d : Dev) (it : Item) (k : Dev → Item → Dev) (e : Dev) : Prop :=
  (waitOf d it = .bad → e = finish d it 0x4A) ∧ (∀ d' it', begins d it d' it' → e = k d' it') ∧
  (waitOf d it ≠ .bad → it.graph ≠ none → it.rerun = false → it.patched = false →
    (∀ d' x c, latePatch d it = (d', .end_ x c) → e = finish d' x c) ∧ (∀ d', latePatch d it = (d', .wait) → e = d'))

/-- Token work item `it` runs its next operation, as `it'` on `d'`: it has started, or begins now, its operations naming words they may
name (R133). -/
def tokenRuns (d : Dev) (it : Item) (d' : Dev) (it' : Item) : Prop :=
  (it.phase = .started ∧ d' = d ∧ it' = it) ∨
  (it.phase = .placed ∧ begins d it d' it' ∧ tokRefsBad it'.part [tokOp it'.wi 0, tokOp it'.wi 1] d' = false)

/-! ### Vector operations (R101 to R103) -/

/-- The vector operation with opcode `o` that the commands `c` stand for gives its destination register the lanes `f`
gives from the registers and the slot: the command completes, every other register keeps its lanes, the sequence goes
on to its next slot (or, after the last, to its next iteration), and registers, memories, translation, host link and
transport stay as they are. -/
def registerOp (c : Nat → Instr) (o : Nat) (f : VecRun → Nat → List Nat × Nat) : Prop :=
  ∀ (s : State) (t : Nat) (it : Item) (r : VecRun), vecOf s.dev t = some (it, r) → r.uid = it.uid → vecAt s.dev t o = true →
    ∃ e r', Answers (c t) s e ∧ find? e.disp.vec it.uid = some r' ∧
      vreg r' (vD (r.prog.getD r.slot 0)) = (f r (r.prog.getD r.slot 0)).1 ∧
      (∀ j, j ≠ vD (r.prog.getD r.slot 0) → vreg r' j = vreg r j) ∧
      (r'.slot, r'.iter) = (if r.slot + 1 < r.prog.length then (r.slot + 1, r.iter) else (0, r.iter + 1)) ∧
      itemOf e it.uid = (itemOf s.dev it.uid).map (fun y => { y with flags := y.flags ||| (f r (r.prog.getD r.slot 0)).2 }) ∧
      { e with disp := s.dev.disp } = s.dev

end Sys2Proof.Machine
end

