-- ==== Sys2Proof/Certificates/Slice0/Obligations.lean ====
section
/-!
DEFINITION. The statements about the machine. A command's own effect is stated on the device `e` of `Answers c s e`; the
queue entries it sends are then delivered as DeliveryRules says.
-/
open Sys2Proof Sys2Proof.Machine

/-! ### The machine as a whole -/

/-- A step with a command at the front of the queue is that command on the rest of the queue; on an empty queue the block
advances by one tick of the root clock while it is powered (the model's choice: assumption log 2). -/
def Obligations.StepRunsFront : Prop :=
  (∀ (c : Instr) (s : State), step { s with pending := c :: s.pending } = exec c s) ∧
  (∀ s : State, s.pending = [] → step s = .next { s with dev := idleTick s.dev })

/-- At reset no command waits, every entry of every register field reads its cold-reset value, no byte of any memory is
listed, the always-on domain has no power, and no fuse of an owner slot is written. -/
def Obligations.ResetState : Prop :=
  State.reset.pending = [] ∧ (∀ f i, rd State.reset.dev f i = f.info.reset) ∧
  (∀ a n, getBytes State.reset.dev a n = List.replicate n 0) ∧ State.reset.dev.boot.powered = false ∧
  (∀ o ∈ State.reset.perm.owners, o = {})

/-- No command touches the commands that wait behind it, and none but VERIFY, RAILS and BROWNOUT touches fuses or
identity. -/
def Obligations.QueueAndFusesKept : Prop :=
  ∀ (c : Instr) (s t : State), exec c s = .next t →
    t.pending = s.pending ∧ ((∀ b, c ≠ .verify b) → c ≠ .rails → c ≠ .brownout → t.perm = s.perm)

/-- Every step keeps the fuses well formed. -/
def Obligations.FusesInvariant : Prop := ∀ s t : State, fusesOk s.perm → step s = .next t → fusesOk t.perm

/-- The fuses are well formed at reset. -/
def Obligations.FusesAtReset : Prop := fusesOk State.reset.perm

/-- Every step only adds to the fuses: no owner is un-enrolled, no digest rewritten, no security version lowered. -/
def Obligations.FusesGrow : Prop := ∀ s t : State, fusesOk s.perm → step s = .next t → fusesGrow s t

/-! ### Registers, memories, queues -/

/-- R16, R17 and R537: a register field reads what was last written to it, cut to its width, whatever the copies held before, when
no field of its register has lost its vote; and a write of one entry leaves every entry of every field that is not voted with it. -/
def Obligations.RegisterWriteRead : Prop :=
  ∀ (d : Dev) (f g : Fld) (i j v : Nat),
    ((∀ x ∈ votedWith f, x ≠ f → voteHolds d x i = true) → rd (wr d f i v) f i = v % 2 ^ f.info.width) ∧
    (f ∉ votedWith g ∨ j ≠ i → rd (wr d f i v) g j = rd d g j)

/-- R16 and R503: a voted field that is voted alone reads the value any two of its three copies agree on, and its
fallback value when all three differ. -/
def Obligations.VotedRead : Prop :=
  ∀ (d : Dev) (f : Fld) (i a b c : Nat), f.info.voted = true → votedWith f = [f] → copies d f i = (a, b, c) →
    (a = b → rd d f i = a) ∧ (a = c → rd d f i = a) ∧ (b = c → rd d f i = b) ∧
    (a ≠ b → a ≠ c → b ≠ c → rd d f i = fallback f)

/-- Writing bytes at addresses of memories and reading them back gives them, when no protected word or line there carries an
error, no compressed region covers them and their unit has not failed; every byte elsewhere stays as it was. -/
def Obligations.MemoryWriteRead : Prop :=
  ∀ (d : Dev) (a : Nat) (bs : List Byte) (byItem : Bool),
    (∀ x, a ≤ x → x < a + bs.length → isMemory (place d x) = true ∧ unitFailed d (place d x) = false) →
    (∀ x, a / 64 * 64 ≤ x → x < a + bs.length → find? d.mem.ecc x = none) →
    (∀ x, a ≤ x → x < a + bs.length → cmpRegion d x = none) →
    (memWrite d byItem bs.length a bs).2 = none ∧
    getBytes (memWrite d byItem bs.length a bs).1 a bs.length = bs ∧
    ∀ x, x < a ∨ a + bs.length ≤ x →
      getBytes (memWrite d byItem bs.length a bs).1 x 1 = getBytes d x 1

/-- R187 and R190: every HBM4 address lies in one of the twelve stacks; with INTERLEAVE 0 consecutive 256-byte blocks go to consecutive
stacks, and with INTERLEAVE 1 each of the four quarters of 192 GiB stays within the three stacks of one Hedge die. -/
def Obligations.HbmInterleave : Prop :=
  ∀ (d : Dev) (a : Nat), a < hbmEnd →
    (∃ s, place d a = .hbm s ∧ s < 12) ∧
    (rd d .memoryHbmCfgInterleave ≠ 1 → place d a = .hbm (a / 256 % 12)) ∧
    (rd d .memoryHbmCfgInterleave = 1 → ∃ s, place d a = .hbm s ∧ dieOf (.hbm s) = a / 0x3000000000)

/-- R245, R250, R252: with nothing on its way delivery changes nothing; an entry that no invalidation stalls, for a queue that is
not running, is discarded and counted; an entry for a full completion queue stops it with cause 0xE0 and is counted lost. -/
def Obligations.DeliveryRules : Prop :=
  (∀ d : Dev, d.hl.entries = [] → deliver d = d) ∧
  (∀ (d : Dev) (q : QEntry), d.hl.entries = [q] → entryStalled d q = false → q.toEq = true → rd d .eqState q.num ≠ 1 →
    deliver d = bump (onHl d fun h => { h with entries := [] }) .eqLost q.num) ∧
  (∀ (d : Dev) (q : QEntry), d.hl.entries = [q] → entryStalled d q = false → q.toEq = false → rd d .cqState q.num ≠ 1 →
    deliver d = bump (onHl d fun h => { h with entries := [] }) .cqLost q.num) ∧
  (∀ (d : Dev) (c : Nat) (x : Entry) (op : Writer), rd d .cqState c = 1 →
    (rd d .cqProducer c + 2 ^ 32 - rd d .cqConsumer c) % 2 ^ 32 = 2 ^ rd d .cqLog2Size c →
    rd (cqDeliver d c x op).1 .cqState c = 2 ∧ rd (cqDeliver d c x op).1 .cqLastCause c = 0xE0 ∧
      rd (cqDeliver d c x op).1 .cqLost c = (rd d .cqLost c + 1) % 2 ^ 32 ∧ (cqDeliver d c x op).2 = true)

/-! ### Work rings -/

/-- R84, R90, R91: RING_ENABLE of a ring that is already enabled changes nothing; of a disabled ring at rest it is
refused with its cause in LAST_CAUSE and nothing else, or it sets STATE and ENABLE, counts the ring for its partition
and sets the expected phase, and touches no other register and nothing but registers. -/
def Obligations.RingEnable : Prop :=
  ∀ (s : State) (r : Nat), r < rings → takesDriver s.dev → ∃ e, Answers (.ringEnable r) s e ∧
    (isSet s.dev .ringStateEnable r = true → e = s.dev) ∧
    (isSet s.dev .ringStateEnable r = false → rd s.dev .ringStateState r = 0 → ringRefusal s.dev r ≠ 0 →
      rd e .ringStateState r = 0 ∧ isSet e .ringStateEnable r = false ∧ rd e .ringStateLastCause r = ringRefusal s.dev r ∧
      onlyRegs s.dev e [(.ringStateLastCause, r)]) ∧
    (isSet s.dev .ringStateEnable r = false → rd s.dev .ringStateState r = 0 → ringRefusal s.dev r = 0 →
      rd e .ringStateState r = 1 ∧ rd e .ringStateEnable r = 1 ∧
      rd e .partCountRings (rd s.dev .ringCfgPartition r) = (rd s.dev .partCountRings (rd s.dev .ringCfgPartition r) + 1) % 2 ^ 7 ∧
      rd e .ringHeadExpectedPhase r = phaseAt (rd s.dev .ringHeadIndex r) (rd s.dev .ringCfgLog2Size r) ∧
      rd e .ringHeadIndex r = rd s.dev .ringHeadIndex r % 2 ^ 32 ∧
      onlyRegs s.dev e [(.ringStateEnable, r), (.ringStateState, r), (.partCountRings, rd s.dev .ringCfgPartition r),
        (.ringHeadIndex, r), (.ringHeadExpectedPhase, r)]) ∧
    (isSet s.dev .ringStateEnable r = false → rd s.dev .ringStateState r ≠ 0 →
      rd e .ringStateEnable r = 1 ∧ onlyRegs s.dev e [(.ringStateEnable, r)])

/-- R90, R91 and R127: RING_DISABLE clears ENABLE and stops fetching; the ring enters STATE 0 at once when nothing is in
flight, otherwise its STATE stays. RING_RESTART of an enabled ring in STATE 3 sets STATE 1 and leaves the ring for its
dispatcher's next turn; of any other ring it changes nothing. Nothing else changes. -/
def Obligations.RingDisableRestart : Prop :=
  ∀ (s : State) (r : Nat), r < rings → takesDriver s.dev →
    (∃ e, Answers (.ringDisable r) s e ∧ isSet e .ringStateEnable r = false ∧ sleepOf e (.ring r) = none ∧
      (rd s.dev .ringInflight r = 0 → rd e .ringStateState r = 0) ∧
      (rd s.dev .ringInflight r ≠ 0 → rd e .ringStateState r = rd s.dev .ringStateState r) ∧
      onlyRegs (setSleep s.dev (.ring r) none) e
        [(.ringStateEnable, r), (.ringStateState, r), (.partCountRings, rd s.dev .ringCfgPartition r)]) ∧
    (∃ e, Answers (.ringRestart r) s e ∧
      (isSet s.dev .ringStateEnable r = true → rd s.dev .ringStateState r = 3 →
        rd e .ringStateState r = 1 ∧ sleepOf e (.ring r) = some 0 ∧
        onlyRegs (setSleep s.dev (.ring r) (some 0)) e [(.ringStateState, r)]) ∧
      (isSet s.dev .ringStateEnable r = false ∨ rd s.dev .ringStateState r ≠ 3 → e = s.dev))

/-- R239, R240 and R545: a doorbell that is not 8 bytes wide, or that sets a reserved bit, only wakes the Laurel die and counts in
DB_DISCARDS of its window, for each of the doorbells; no queue, index or memory changes. -/
def Obligations.DoorbellsDiscarded : Prop :=
  ∀ (s : State) (win width val : Nat), win < 64 → takesDriver s.dev →
    (width ≠ 8 ∨ 2 ^ 44 ≤ val → ∃ e, Answers (.ringDoorbell win width val) s e ∧
      rd e .pwinDbDiscards win = (rd s.dev .pwinDbDiscards win + 1) % 2 ^ 32 ∧ onlyRegs (wake s.dev .laurel) e [(.pwinDbDiscards, win)]) ∧
    (width ≠ 8 ∨ 2 ^ 32 ≤ val → ∃ e, Answers (.collDoorbell win width val) s e ∧
      rd e .pwinDbDiscards win = (rd s.dev .pwinDbDiscards win + 1) % 2 ^ 32 ∧ onlyRegs (wake s.dev .laurel) e [(.pwinDbDiscards, win)]) ∧
    (∀ c ∈ [Instr.cqDoorbell win width val, .cqArm win width val], width ≠ 8 ∨ 2 ^ 47 ≤ val →
      (c = .cqArm win width val ↔ bitOf val 46 = true) → ∃ e, Answers c s e ∧
      rd e .pwinDbDiscards win = (rd s.dev .pwinDbDiscards win + 1) % 2 ^ 32 ∧ onlyRegs (wake s.dev .laurel) e [(.pwinDbDiscards, win)]) ∧
    (∀ c ∈ [Instr.eqDoorbell win width val, .eqArm win width val], width ≠ 8 ∨ 2 ^ 41 ≤ val →
      (c = .eqArm win width val ↔ bitOf val 40 = true) → ∃ e, Answers c s e ∧
      rd e .pwinDbDiscards win = (rd s.dev .pwinDbDiscards win + 1) % 2 ^ 32 ∧ onlyRegs (wake s.dev .laurel) e [(.pwinDbDiscards, win)])

/-- R84, R90, R91, R240 to R244: an 8-byte RING_DOORBELL of the window's partition holds its index and ring in the window and the
index in RING_DOORBELL_HINT; of a ring in STATE 0 it changes nothing else, and of an enabled ring in STATE 1 or 2 fetch
goes on from there. -/
def Obligations.RingDoorbell : Prop :=
  ∀ (s : State) (win r i : Nat), win < 64 → r < rings → i < 2 ^ 32 → takesDriver s.dev → rd s.dev .ringCfgPartition r = win →
    voteHolds s.dev .ringCfgPartition r = true →
    ∃ e, Answers (.ringDoorbell win 8 (r * 2 ^ 32 + i)) s e ∧
      (rd s.dev .ringStateState r = 0 →
        rd e .ringDoorbellHint r = i ∧ rd e .pwinRingDbIndex win = i ∧ rd e .pwinRingDbRing win = r ∧
        onlyRegs (wake s.dev .laurel) e [(.ringDoorbellHint, r), (.pwinRingDbIndex, win), (.pwinRingDbRing, win)]) ∧
      (rd s.dev .ringStateState r = 1 ∨ rd s.dev .ringStateState r = 2 → isSet s.dev .ringStateEnable r = true →
        ∃ e', e = ringGo e' r 64 ∧ rd e' .ringDoorbellHint r = i ∧ rd e' .ringStateState r = 1 ∧
          onlyRegs (wake s.dev .laurel) e'
            [(.ringDoorbellHint, r), (.pwinRingDbIndex, win), (.pwinRingDbRing, win), (.ringStateState, r)])

/-- R242, R241: one pass of the fetch procedure over a queue whose next slot carries the phase that is not expected: with no slot
announced the queue is running and sleeps no more, otherwise it sleeps for the interval, and past the longest interval it parks. A slot with the
expected phase is taken, HEAD moves on by one, and the interval starts again. A slot that cannot be read ends the fetch. -/
def Obligations.FetchProcedure : Prop :=
  ∀ (F : Fetch) (n w : Nat) (d d' : Dev),
    (∀ x, F.read d (F.head d) = (d', .got x) →
      (fieldAt x 0 0 1 = phaseAt (F.head d) (F.log2 d') →
        fetchRun F (n + 1) w d = fetchRun F n 64 (F.setHead (F.accept d' (F.head d) x) ((F.head d + 1) % 2 ^ 32))) ∧
      (fieldAt x 0 0 1 ≠ phaseAt (F.head d) (F.log2 d') → announced (F.hint d') (F.head d) = false →
        fetchRun F (n + 1) w d = F.running (setSleep d' F.id none)) ∧
      (fieldAt x 0 0 1 ≠ phaseAt (F.head d) (F.log2 d') → announced (F.hint d') (F.head d) = true → w ≤ 16384 →
        fetchRun F (n + 1) w d = setSleep d' F.id (some w)) ∧
      (fieldAt x 0 0 1 ≠ phaseAt (F.head d) (F.log2 d') → announced (F.hint d') (F.head d) = true → 16384 < w →
        fetchRun F (n + 1) w d = bump (F.parked (setSleep d' F.id none)) .hlParks)) ∧
    (∀ c, F.read d (F.head d) = (d', .bad c) → fetchRun F (n + 1) w d = F.onBad (setSleep d' F.id none) c)

/-- R242 and R243: QUEUE_REFETCH of a sleeping queue fetches again with twice the interval, 64 ns for a queue between turns, for each
kind of queue. -/
def Obligations.QueueRefetch : Prop :=
  ∀ (s : State) (q : QueueId) (w : Nat), inRun s.dev = true → sleeps s.dev q = some w →
    let next := if w < 64 then 64 else 2 * w
    ∃ e, Answers (.queueRefetch q) s e ∧
      (∀ r, q = .ring r → 64 ≤ w ∧ e = ringGo s.dev r next) ∧ (q = .cmdq → e = cmdqGo s.dev next) ∧
      (∀ n, q = .sq n → e = sqGo s.dev n next) ∧ (∀ n, q = .rq n → e = rqGo s.dev n next) ∧
      (∀ p, q = .coll p → e = collGo s.dev p next) ∧ (∀ b, q = .rawTx b → e = rawGo s.dev b next)

/-- R87, R133: DISPATCHER_TURN completes the empty token work items that may complete, then serves the first ring with work
from the round-robin pointer on: the pointer moves past it, up to eight of its work items are checked and forwarded, and
fetch goes on when its fetch was between turns. A work item's checks give 0x48, 0x51, 0x49 and 0x4A in that order, and
one that fails is completed with the first. -/
def Obligations.DispatcherTurn : Prop :=
  (∀ (s : State) (row r : Nat), row < 24 → inRun s.dev = true → isSet s.dev .dispatchCtrlEnable = true → emptyTokens s.dev row = [] →
    firstFrom (getD s.dev.disp.ringPtr row 0) (turnRings s.dev row) = some r →
    ∃ e e', Answers (.dispatcherTurn row) s e ∧
      e' = forwardN 8 r (onDisp s.dev fun x => { x with ringPtr := put x.ringPtr row ((r + 1) % rings) }) ∧
      ((fetchedOf e' r).isEmpty = true → sleepOf e' (.ring r) = some 0 → e = ringGo e' r 64) ∧
      (((fetchedOf e' r).isEmpty = false ∨ sleepOf e' (.ring r) ≠ some 0) → e = e')) ∧
  (∀ (d : Dev) (p : Nat) (w : Desc),
    (wiType w = 0 ∨ 7 < wiType w → dispatchCause d p w = 0x48) ∧
    (1 ≤ wiType w → wiType w ≤ 7 → wiReserved w = true → dispatchCause d p w = 0x51) ∧
    (1 ≤ wiType w → wiType w ≤ 7 → wiReserved w = false → placeBad d p w = true → dispatchCause d p w = 0x49) ∧
    (1 ≤ wiType w → wiType w ≤ 7 → wiReserved w = false → placeBad d p w = false → refBad d p w = true → dispatchCause d p w = 0x4A)) ∧
  (∀ (d : Dev) (it : Item), dispatchCause d it.part it.wi ≠ 0 →
    forward d it = (complete d it (dispatchCause d it.part it.wi), true))

/-- R95: in placement mode 0 a work item goes to the tile it names; in mode 1 to a tile of the row's active set that may take
it, none of which holds fewer work items in that lane, and none of equal load lies at a lower column. -/
def Obligations.PlacementChoice : Prop :=
  (∀ (d : Dev) (p : Nat) (w : Desc), wiMode w = 0 → chosenTile d p w = tileAt (wiRow w) (wiColumn w)) ∧
  (∀ (d : Dev) (row : Nat) (l : Lane) (cs : List Nat) (n c : Nat), cs.Pairwise (· < ·) → fewest d row l cs = some (n, c) →
    c ∈ cs ∧ n = (laneItems d (tileAt row c) l).length ∧
    ∀ c' ∈ cs, n ≤ (laneItems d (tileAt row c') l).length ∧ ((laneItems d (tileAt row c') l).length = n → c ≤ c'))

/-- R96: ACTIVE_SET_ADJUST adds one more tile of the partition's in the row above GROW_PCT, when there is one; below SHRINK_PCT it
counts a microsecond, and once SHRINK_HOLD are counted takes the tile with the highest column out when its lanes are empty and it is not
the last; otherwise the set stays. The count starts again whenever the share is not below SHRINK_PCT. Nothing but this set
changes. (That the count starts again at 0 when a tile leaves is the model's choice: log 120.) -/
def Obligations.ActiveSetAdjust : Prop :=
  ∀ (s : State) (row part pct : Nat), row < 24 → part < 64 → pct ≤ 100 →
    let own := rowColumns s.dev row part
    let set := activeSet s.dev row part
    let low := fun (d : Dev) => (getD d.disp.active (row * 64 + part) {}).lowUs
    let top := set.foldl max 0
    let idle := (laneItems s.dev (tileAt row top) .matrix).isEmpty && (laneItems s.dev (tileAt row top) .vector).isEmpty &&
      (laneItems s.dev (tileAt row top) .move).isEmpty
    ∃ e, Answers (.activeSetAdjust row part pct) s e ∧ onlyRegs { s.dev with disp := e.disp, free := e.free } e [] ∧
      { e.disp with active := s.dev.disp.active } = s.dev.disp ∧
      (∀ k, k ≠ row * 64 + part → find? e.disp.active k = find? s.dev.disp.active k) ∧
      (rd s.dev .dispatchOccCtrlGrowPct < pct → low e = 0 ∧
        ((own.filter fun c => !set.contains c) = [] → activeSet e row part = set) ∧
        ((own.filter fun c => !set.contains c) ≠ [] → ∃ c, c ∈ own ∧ c ∉ set ∧
          activeSet e row part = own.filter fun x => set.contains x || x == c)) ∧
      (pct ≤ rd s.dev .dispatchOccCtrlGrowPct → pct < rd s.dev .dispatchOccCtrlShrinkPct →
        ((rd s.dev .dispatchOccCtrlShrinkHold ≤ low s.dev + 1 ∧ idle = true ∧ 1 < set.length) →
          low e = 0 ∧ activeSet e row part = set.filter (· ≠ top)) ∧
        (¬ (rd s.dev .dispatchOccCtrlShrinkHold ≤ low s.dev + 1 ∧ idle = true ∧ 1 < set.length) →
          low e = low s.dev + 1 ∧ activeSet e row part = set)) ∧
      (pct ≤ rd s.dev .dispatchOccCtrlGrowPct → rd s.dev .dispatchOccCtrlShrinkPct ≤ pct →
        low e = 0 ∧ activeSet e row part = set)

/-! ### Tiles -/

/-- R47, R92, R94, R115, R124, R125: a unit of a tile starts the next work item of its lane, of the four types that run on tiles. The
unit was free. A header wait that names no registered token ends the work item with 0x4A; otherwise the work item begins,
its journal entry says so, and the unit's own start follows; a copy of a step graph begins as its late patches leave it, or ends with
the cause they give, or stays where it is while they cannot be read. -/
def Obligations.UnitStart : Prop :=
  ∀ (s : State) (t : Nat) (c : Instr) (l : Lane) (ty : Nat) (k : Dev → Item → Dev),
    (c, l, ty, k) ∈ [(Instr.matrix t, Lane.matrix, 1, matrixStart), (.vectorSequence t, .vector, 2, seqStart),
      (.move t, .move, 3, moveStart), (.attention t, .matrix, 4, attStart)] →
    startable s.dev t l ty = true →
    ∃ it e, nextOf s.dev t l = some it ∧ wiType it.wi = ty ∧ running? s.dev t l = none ∧ Answers c s e ∧ startsBy s.dev it k e

/-- R68, R83, R126: a matrix work item whose checks fail completes at once with the first code of R83; one that runs completes with no
cause, its flags and the cycles of R68 when every operand and result access succeeds, and with the cause of the first
that fails otherwise. -/
def Obligations.MatrixWork : Prop :=
  (∀ (d : Dev) (it : Item), (matrixCause (matrixWi it.wi) ≠ 0 → matrixStart d it = finish d it (matrixCause (matrixWi it.wi))) ∧
    (matrixCause (matrixWi it.wi) = 0 → matrixStart d it = d)) ∧
  (∀ x : MatrixWi, (fmtReserved x.aFmt = true ∨ fmtReserved x.bFmt = true ∨ fmtReserved x.outFmt = true ∨ pairOk x.aFmt x.bFmt = false ↔
      matrixCause x = 0x40) ∧
    (matrixCause x = 0 → 1 ≤ x.m ∧ 1 ≤ x.n ∧ 1 ≤ x.k ∧ x.m * x.n ≤ 16384 ∧ (isBlock x.aFmt = true → x.k % 32 = 0) ∧
      (isBlock x.outFmt = true → x.n % 32 = 0) ∧ (x.outFmt ≠ 0 → x.round < 2))) ∧
  (∀ (s : State) (t : Nat) (it : Item), running? s.dev t .matrix = some it → runsType s.dev t .matrix 1 = true →
    ∃ e, Answers (.matrixComplete t) s e ∧
      ((product s.dev it.uid t (matrixWi it.wi)).2.1 = none →
        e = finishWith (product s.dev it.uid t (matrixWi it.wi)).1 it (product s.dev it.uid t (matrixWi it.wi)).2.2 (matrixCycles (matrixWi it.wi)) 0) ∧
      (∀ c, (product s.dev it.uid t (matrixWi it.wi)).2.1 = some c →
        e = finishFree (product s.dev it.uid t (matrixWi it.wi)).1 it (product s.dev it.uid t (matrixWi it.wi)).2.2 c))

/-- R102: the vector operations that make a register from an immediate, and those on 32-bit integers, lane by lane: wrapping addition and
subtraction, the bitwise operations, and shifts by the low five bits of the immediate. -/
def Obligations.VectorIntegerOps : Prop :=
  registerOp .bcast 0x03 (fun _ w => (List.replicate 256 (vImm w), 0)) ∧
  registerOp .iota 0x04 (fun _ w => ((List.range 256).map fun i => (i + vImm w) % 2 ^ 32, 0)) ∧
  registerOp .iadd 0x20 (fun r w => lanes2 (fun a b => ((a + b) % 2 ^ 32, 0)) (vreg r (vA w)) (vreg r (vB w))) ∧
  registerOp .isub 0x21 (fun r w => lanes2 (fun a b => ((a + 2 ^ 32 - b) % 2 ^ 32, 0)) (vreg r (vA w)) (vreg r (vB w))) ∧
  registerOp .vectorAnd 0x22 (fun r w => lanes2 (fun a b => (a &&& b, 0)) (vreg r (vA w)) (vreg r (vB w))) ∧
  registerOp .vectorOr 0x23 (fun r w => lanes2 (fun a b => (a ||| b, 0)) (vreg r (vA w)) (vreg r (vB w))) ∧
  registerOp .xor 0x24 (fun r w => lanes2 (fun a b => (a ^^^ b, 0)) (vreg r (vA w)) (vreg r (vB w))) ∧
  registerOp .shl 0x25 (fun r w => lanes1 (fun a => (a * 2 ^ (vImm w % 32) % 2 ^ 32, 0)) (vreg r (vA w))) ∧
  registerOp .shr 0x26 (fun r w => lanes1 (fun a => (a / 2 ^ (vImm w % 32), 0)) (vreg r (vA w))) ∧
  registerOp .sra 0x27 (fun r w => lanes1 (fun a => ((Int.fdiv (signed 32 a) (2 ^ (vImm w % 32)) % 2 ^ 32).toNat, 0)) (vreg r (vA w)))

/-- R78 to R80, R102: the vector operations on FP32, lane by lane, each on the FP32 operation of its name (Machine/Num.lean) with its
exception flags; a compare gives all ones or zero, SELECT takes A where C is not zero, and SUM and LMAX give every lane
the sum or the maximum of all. -/
def Obligations.VectorFloatOps : Prop :=
  registerOp .fadd 0x10 (fun r w => lanes2 fAdd (vreg r (vA w)) (vreg r (vB w))) ∧
  registerOp .fsub 0x11 (fun r w => lanes2 fSub (vreg r (vA w)) (vreg r (vB w))) ∧
  registerOp .fmul 0x12 (fun r w => lanes2 fMul (vreg r (vA w)) (vreg r (vB w))) ∧
  registerOp .fma 0x13 (fun r w => lanes3 fFma (vreg r (vA w)) (vreg r (vB w)) (vreg r (vC w))) ∧
  registerOp .fmin 0x14 (fun r w => lanes2 (fun a b => (fMin a b, 0)) (vreg r (vA w)) (vreg r (vB w))) ∧
  registerOp .fmax 0x15 (fun r w => lanes2 (fun a b => (fMax a b, 0)) (vreg r (vA w)) (vreg r (vB w))) ∧
  registerOp .fabs 0x16 (fun r w => lanes1 (fun a => (fAbs a, 0)) (vreg r (vA w))) ∧
  registerOp .fneg 0x17 (fun r w => lanes1 (fun a => (fNeg a, 0)) (vreg r (vA w))) ∧
  registerOp .fcopysign 0x18 (fun r w => lanes2 (fun a b => (fCopysign a b, 0)) (vreg r (vA w)) (vreg r (vB w))) ∧
  registerOp .fcmp 0x19 (fun r w => lanes2 (fun a b => (if fCmp (vFmt w) a b then 0xFFFFFFFF else 0, 0)) (vreg r (vA w)) (vreg r (vB w))) ∧
  registerOp .select 0x1A (fun r w => lanes3 (fun a b m => (if m ≠ 0 then a else b, 0)) (vreg r (vA w)) (vreg r (vB w)) (vreg r (vC w))) ∧
  registerOp .itof 0x28 (fun r w => lanes1 iToF (vreg r (vA w))) ∧
  registerOp .ftoi 0x29 (fun r w => lanes1 fToI (vreg r (vA w))) ∧
  registerOp .exp 0x30 (fun r w => lanes1 fExp (vreg r (vA w))) ∧
  registerOp .exp2 0x31 (fun r w => lanes1 fExp2 (vreg r (vA w))) ∧
  registerOp .rcp 0x32 (fun r w => lanes1 fRcp (vreg r (vA w))) ∧
  registerOp .rsqrt 0x33 (fun r w => lanes1 fRsqrt (vreg r (vA w))) ∧
  registerOp .sum 0x38 (fun r w => (List.replicate 256 (laneSum (vreg r (vA w))).1, (laneSum (vreg r (vA w))).2)) ∧
  registerOp .lmax 0x39 (fun r w => (List.replicate 256 (laneMax (vreg r (vA w))), 0))

/-- R78, R101 to R104: LOAD gives its destination register the 256 elements of its plane (and scale entries) widened to FP32, FP32
words as they are, and changes no byte; STORE writes the 256 lanes of its source, converted, into its plane and scale plane of the tile's own
scratchpad, and every byte outside these keeps its value. Both go on two slots. The planes lie in the scratchpad, whose words carry no
error, no compressed region is enabled, and no unit with a lower port number runs on the tile of a STORE. (A block element beyond the FP32
range is widened to an infinity: the model's choice, log 114.) -/
def Obligations.VectorLoadStore : Prop :=
  ∀ (s : State) (t : Nat) (it : Item) (r : VecRun), vecOf s.dev t = some (it, r) → r.uid = it.uid → it.tile < tiles →
    (∀ x, find? s.dev.mem.ecc x = none) → (∀ x, cmpRegion s.dev x = none) →
    let w := r.prog.getD r.slot 0
    let o := memOffsets w (r.prog.getD (r.slot + 1) 0) r.iter
    let E := getBytes s.dev (spAddr it.tile o.1) (vElemBytes (vFmt w))
    let S := if isBlock (vFmt w) then getBytes s.dev (spAddr it.tile o.2) (vScaleBytes (vFmt w)) else []
    let c := convert (vFmt w) (vRule w) (vRound w) (seqSeed it.wi) r.ordinal 9 (r.iter * 256) (vreg r (vA w))
    let eb := packCodes (elemBits (vFmt w)) c.1
    let sb := if isBlock (vFmt w) then packCodes (8 * scaleBytes (vFmt w)) c.2.1 else []
    let next := if r.slot + 2 < r.prog.length then (r.slot + 2, r.iter) else (0, r.iter + 1)
    (vecAt s.dev t 0x01 = true → o.1 + vElemBytes (vFmt w) ≤ spBytes → (isBlock (vFmt w) = true → o.2 + vScaleBytes (vFmt w) ≤ spBytes) →
      ∃ e r', Answers (.load t) s e ∧ find? e.disp.vec it.uid = some r' ∧ (r'.slot, r'.iter) = next ∧
      vreg r' (vD w) = (if vFmt w = 0 then codes 32 256 E else (denseRow (vFmt w) 256 E S).1.map fun v => (encode32 v).1) ∧
      (∀ j, j ≠ vD w → vreg r' j = vreg r j) ∧ { e with disp := s.dev.disp, pwr := s.dev.pwr } = s.dev) ∧
    (vecAt s.dev t 0x02 = true → o.1 + eb.length ≤ spBytes → o.2 + sb.length ≤ spBytes ∨ sb = [] →
      contested s.dev it.tile (portAt s.dev (.item it.uid) it.tile) = false →
      ∃ e r', Answers (.store t) s e ∧ find? e.disp.vec it.uid = some r' ∧ (r'.slot, r'.iter) = next ∧
      (∀ j, vreg r' j = vreg r j) ∧
      (sb = [] ∨ o.1 + eb.length ≤ o.2 ∨ o.2 + sb.length ≤ o.1 → getBytes e (spAddr it.tile o.1) eb.length = eb) ∧
      getBytes e (spAddr it.tile o.2) sb.length = sb ∧
      (∀ a, (a < spAddr it.tile o.1 ∨ spAddr it.tile o.1 + eb.length ≤ a) →
        (a < spAddr it.tile o.2 ∨ spAddr it.tile o.2 + sb.length ≤ a) → getBytes e a 1 = getBytes s.dev a 1) ∧
      { e with disp := s.dev.disp, pwr := s.dev.pwr, mem := s.dev.mem } = s.dev)

/-- R103, R106, R126, R217, R291: VECTOR_SEQUENCE_COMPLETE ends a sequence whose last iteration has issued, with the time its last result
was written; MOVE_COMPLETE ends a move all of whose pieces are done with the first cause any of them met; FAULT_SLOT_RETRY takes the
transfer that has waited longest of those of its partition that a freed slot makes retry, and translates it again: it waits no
more, unless it finds no slot free once more. (The order of the waiting transfers is the model's choice: log 60.) -/
def Obligations.TileWorkEnds : Prop :=
  (∀ (s : State) (t : Nat) (it : Item) (r : VecRun), runsType s.dev t .vector 2 = true → vecOf s.dev t = some (it, r) → r.iter = seqLoop it.wi →
    ∃ e, Answers (.vectorSequenceComplete t) s e ∧ e = finishWith s.dev it 0 r.last 0) ∧
  (∀ (s : State) (t : Nat) (it : Item), runsType s.dev t .move 3 = true → running? s.dev t .move = some it → it.held = false →
    s.dev.xl.parked.contains (.item it.uid) = false → it.remote = 0 → moveTotal it.wi ≤ it.prog →
    ∃ e, Answers (.moveComplete t) s e ∧ e = finishFree s.dev it 0 it.cause) ∧
  (∀ (s : State) (p : Nat) (w : SlotWait), inRun s.dev = true → slotWaiter s.dev p = some w →
    w.part = p ∧ w.due = true ∧ w ∈ s.dev.xl.waiting ∧
    ∃ e, Answers (.faultSlotRetry p) s e ∧ e = onXl (retryWork (onXl s.dev fun x => { x with
        waiting := x.waiting.map fun y => if y.work = w.work then { y with due := false, trying := true } else y }) w.work)
      fun x => { x with waiting := x.waiting.filter fun y => !y.trying })

/-- R62: when any of the 32 source values of a block is a NaN or an infinity, the block is written with scale code 0xFF, 32 zero element
codes and, for B4M, zero micro-offsets, with NAN_BLOCK set; a block of finite values never gets that scale code nor sets
that flag, and each block of a row is converted from its own 32 values alone. -/
def Obligations.NanBlock : Prop :=
  (∀ (f rule : Nat) (rnd : Nat → Rnd) (l : List FV), (∃ v ∈ l, isFin v = false) →
    toBlock f rule rnd l = (List.replicate 32 0, 0xFF, flNanBlock)) ∧
  (∀ (f rule : Nat) (rnd : Nat → Rnd) (l : List FV), (∀ v ∈ l, isFin v = true) →
    (toBlock f rule rnd l).2.1 % 256 ≠ 0xFF ∧ (toBlock f rule rnd l).2.2 &&& flNanBlock = 0) ∧
  (∀ (f rule round seed ordinal fuel ix : Nat) (l : List Nat), 2 ≤ f → l ≠ [] →
    let b := toBlock f rule (fun i => rndOf round seed ordinal (ix + i)) ((l.take 32).map decode32)
    let r := convert f rule round seed ordinal fuel (ix + 32) (l.drop 32)
    convert f rule round seed ordinal (fuel + 1) ix l = (b.1 ++ r.1, b.2.1 :: r.2.1, b.2.2 ||| r.2.2))

/-- R75, R79: every FP32 code that is no NaN survives decoding to an exact value and rounding back, with no flag raised,
subnormals and both zeros included; and every NaN is written as 0x7FC0_0000. -/
def Obligations.Fp32RoundTrip : Prop :=
  (∀ x, x < 2 ^ 32 → decode32 x ≠ .nan → encode32 (decode32 x) = (x, 0)) ∧
  (∀ x, decode32 x = .nan → (encode32 (decode32 x)).1 = 0x7FC00000) ∧
  (∀ a b, decode32 a = .nan → (fAdd a b).1 = 0x7FC00000 ∧ (fMul a b).1 = 0x7FC00000 ∧ (fAdd b a).1 = 0x7FC00000 ∧ (fMul b a).1 = 0x7FC00000)

/-! ### Attention -/

/-- R145 to R157, R161, R165 to R168: the steps of an attention walk and of a home, each where it can arise. ATTENTION_BATCH takes up the
batch that waits, else forms the next; under POLICY 1 a remote batch is pulled. A page's triples are merged into the rows and the
page leaves the walk, and the next local page is read. ATTENTION_COMPLETE ends the work item with nothing written when a word of the result
cannot be written in part, else writes the rows at OUT. A far request that times out counts in ATTN_FALLBACK and gives its
reservation up; under POLICY 2 it becomes a retry, else its batch is pulled. A retry past RETRY_MAX ends the work item with 0x5A; an
earlier one is issued again, waits where none may be issued, or, its connection unusable, counts as a try. UTILISATION_SAMPLE moves U by an
eighth of the difference. A home's request is answered with its partial or with a STATUS and leaves the home, or waits for a
stalled lookup. -/
def Obligations.AttentionWalk : Prop :=
  (∀ (s : State) (t : Nat) (it : Item) (r : AttRun), inRun s.dev = true → attOn s.dev t = some (it, r) → batchReady it r = true →
    ∃ e, Answers (.attentionBatch t) s e ∧
      (r.remoteBatch = true → e = remoteBatch s.dev it r ∧ ((attWi it.wi).policy = 1 →
        let r' := { r with batch := [], batchFirst := 0, remoteBatch := false }
        e = pullBatch (setRun s.dev r') it r' (entHome (r.batch.headD 0)) r.batchFirst r.batch)) ∧
      (r.remoteBatch = false → r.next ≤ lastEntry it r ∧ e = formBatch s.dev it r)) ∧
  (∀ (s : State) (t page : Nat) (it : Item) (r : AttRun) (p : AttPage), inRun s.dev = true → pageOf s.dev t page = some (it, r, p) →
    let x := attWi it.wi
    let m := mergeRows r.rows (pagePartials (hdrGeom r.header) x.scale (Config.freeNat s.dev.free) x.first x.last x.mask
      (p.index * (hdrGeom r.header).ppp) (r.q.map fun row => row.map decodeBf16) r.qpos p.kv p.side)
    let d := setRun { s.dev with free := s.dev.free + 1 }
      { r with rows := m.1, flags := r.flags ||| m.2, pages := r.pages.filter fun y => y.index ≠ p.index }
    ∃ e, Answers (.attentionPageDone t page) s e ∧ e = feedLocal 17 d it.uid ∧ (r.uid = it.uid → r.batch = [] → e = d)) ∧
  (∀ (s : State) (t : Nat) (it : Item) (r : AttRun), inRun s.dev = true → attOn s.dev t = some (it, r) → walkDone it r = true →
    let o := outRuns (attWi it.wi).outFmt (hdrGeom r.header).dim r.rows
    let v := visitRuns s.dev it.tile (attWi it.wi).out o.1
    let w := writeRuns v.1 it.uid it.tile (attWi it.wi).out o.1
    ∃ e, Answers (.attentionComplete t) s e ∧ (v.2 = none → e = attEnd w.1 it (r.flags ||| o.2) (w.2.getD 0)) ∧
      (∀ c, v.2 = some c → e = attEnd v.1 it (r.flags ||| o.2) c)) ∧
  (∀ (s : State) (t q : Nat) (it : Item) (r : AttRun) (f : FarReq), farOf s.dev t q .out = some (it, r, f) →
    let rest := r.far.filter fun y => y.slot ≠ f.slot
    let d := onAtt (bump s.dev .dispatchAttnFallback) fun a => { a with resv := a.resv.filter fun v => v.1 ≠ f.tag }
    ∃ e, Answers (.farTimeout t q) s e ∧
      ((attWi it.wi).policy = 2 → e = setRun d { r with far := rest ++ [{ f with state := .retry, reply := [] }] }) ∧
      ((attWi it.wi).policy ≠ 2 → e = pullBatch (setRun d { r with far := rest }) it { r with far := rest } f.home f.first f.entries)) ∧
  (∀ (s : State) (t q : Nat) (it : Item) (r : AttRun) (f : FarReq), farOf s.dev t q .retry = some (it, r, f) →
    let rest := r.far.filter fun y => y.slot ≠ f.slot
    let f' := { f with tries := f.tries + 1 }
    ∃ e, Answers (.farRetry t q) s e ∧ (f.retryMax ≤ f.tries → e = attEnd s.dev it r.flags 0x5A) ∧
      (f.tries < f.retryMax →
        (∀ d, farIssue s.dev it { r with far := rest } f' = .sent d → e = d) ∧
        (farIssue s.dev it { r with far := rest } f' = .busy → e = s.dev) ∧
        (∀ d, farIssue s.dev it { r with far := rest } f' = .noPath d → e = setRun d { r with far := rest ++ [f'] }))) ∧
  (∀ (s : State) (sub pct : Nat), subExists s.dev sub = true → pct ≤ 100 →
    ∃ e, Answers (.utilisationSample sub pct) s e ∧ onlyRegs { s.dev with att := { s.dev.att with util := e.att.util } } e [] ∧
      ((getD e.att.util sub 0 : Nat) : Int) = (getD s.dev.att.util sub 0 : Nat) + (((pct * 65536 / 100 : Nat) : Int) - (getD s.dev.att.util sub 0 : Nat)).fdiv 8 ∧
      ∀ i, i ≠ sub → getD e.att.util i 0 = getD s.dev.att.util i 0) ∧
  (∀ (s : State) (q : Nat) (h : HomeReq), inRun s.dev = true → homeReady s.dev q = some h →
    ∃ e, Answers (.homeComputeDone q) s e ∧
      (∀ d l, homeFetch s.dev h = (d, .pages l) →
        e = homeDrop (homeReply { d with free := d.free + 1 } h 0 (homePartial h.payload (Config.freeNat d.free) l)) h) ∧
      (∀ d c, homeFetch s.dev h = (d, .status c) → e = homeDrop (homeReply d h c []) h) ∧
      (∀ d, homeFetch s.dev h = (d, .wait) →
        e = onAtt d fun a => { a with homes := a.homes.map fun y => if y.id = h.id then { y with stalled := true } else y }))

/-! ### Tokens, fences, step graphs -/

/-- R113 to R119, R133: a token work item takes its next step. One that has not begun ends with 0x4A when its wait or an operation names
no word it may name, before anything is written. REGISTER_SET of a tile with 64 other words ends it with 0x4A, and
otherwise stores the value in the word and registers it; TOKEN_ADD adds in this package, and over Clahim otherwise; WAIT_GE goes on when the
value is reached, waits where it is not, and ends with 0x4A at a word that is not registered; RELEASE takes the word out of the
registered ones, and every wait on it ends with 0x4A. A wait that is met lets its work item go on, one that times out ends with 0x4B.
A signal adds to its token in this package, and over Clahim otherwise. -/
def Obligations.TokenOperations : Prop :=
  (∀ (s : State) (u k : Nat) (c : Instr) (it : Item),
    (k, c) ∈ [(1, Instr.registerSet u), (2, .tokenAdd u), (3, .waitGe u), (4, .tokenRelease u)] →
    itemOf s.dev u = some it → tokReady s.dev u k = true → ∃ e, Answers c s e ∧
      (it.phase = .placed → startsBy s.dev it (fun d it' => if tokRefsBad it'.part [tokOp it'.wi 0, tokOp it'.wi 1] d = true then finish d it' 0x4A
        else runTokOp d it') e) ∧
      (∀ d it', tokenRuns s.dev it d it' →
        (∀ i fa v, nextTokOp it' = some (i, 1, fa, v) →
          let a := fa % 2 ^ 48
          let d' := onDisp (memWrite d true 8 a (toBytes 8 v)).1 fun x => { x with tokens := put x.tokens a v }
          tokenAt d' a = some v ∧
          (tokenAt d a = none → 64 ≤ tokensOn d ((a - spBase) / 0x200000) → e = finish d it' 0x4A) ∧
          (tokenAt d a = none → tokensOn d ((a - spBase) / 0x200000) < 64 → e = tokAdvance d' it' i) ∧
          (∀ old, tokenAt d a = some old → e = tokAdvance (notifyToken d' a old v) it' i)) ∧
        (∀ i fa v, nextTokOp it' = some (i, 2, fa, v) →
          let r := localAdd d (0x800 + tileRow it'.tile) it'.part (fa % 2 ^ 48) v
          (fa >>> 48 = rd d .meshNodeId → r.2 = none → e = tokAdvance r.1 it' i) ∧
          (∀ x, fa >>> 48 = rd d .meshNodeId → r.2 = some x → e = finish r.1 it' x) ∧
          (fa >>> 48 ≠ rd d .meshNodeId → e = sendRemote (modItem d it'.uid fun x => { x with remote := 1 }) (.token it'.uid)
            (remoteFlits d (0x800 + tileRow it'.tile) it'.part fa 8 2 0 v 0 []) 0)) ∧
        (∀ i fa v, nextTokOp it' = some (i, 3, fa, v) →
          (tokenSeen d (fa % 2 ^ 48) = none → e = finish d it' 0x4A) ∧
          (∀ x, tokenSeen d (fa % 2 ^ 48) = some x → (v ≤ x → e = tokAdvance d it' i) ∧
            (x < v → e = modItem d it'.uid fun y => { y with prog := 1 }))) ∧
        (∀ i fa v, nextTokOp it' = some (i, 4, fa, v) →
          let a := fa % 2 ^ 48
          let d' := onDisp d fun x => { x with
            tokens := del x.tokens a, notifies := x.notifies.filter (fun n => n.addr ≠ a), stale := del x.stale a }
          tokenAt d' a = none ∧ (tokenAt d a = none → e = finish d it' 0x4A) ∧
          (tokenAt d a ≠ none → e = tokAdvance (completeAll d' (d.disp.items.filter fun x => waitsOn d x = some a) 0x4A) it' i)))) ∧
  (∀ (s : State) (u : Nat) (it : Item), itemOf s.dev u = some it → waitMetNow s.dev it = true →
    ∃ e, Answers (.tokenWaitMet u) s e ∧
      (gePending it = none → e = modItem s.dev u fun x => { x with waitMet := true }) ∧
      (∀ w i o, gePending it = some w → nextTokOp it = some (i, o) → e = tokAdvance s.dev it i)) ∧
  (∀ (s : State) (u : Nat) (it : Item), itemOf s.dev u = some it → waitExpires s.dev it = true →
    ∃ e, Answers (.tokenWaitTimeout u) s e ∧ e = finish s.dev it 0x4B ∧ rd s.dev .dispatchWaitTimeout 0 ≠ 0 ∧ anyHeld s.dev it.part = false) ∧
  (∀ (s : State) (u : Nat) (g : Signal), inRun s.dev = true → (s.dev.disp.signals.find? fun g => g.uid = u) = some g →
    let d := onDisp s.dev fun x => { x with signals := x.signals.filter fun y => y.uid ≠ u }
    let r := localAdd d (0x800 + tileRow g.tile) g.part (g.fa % 2 ^ 48) g.add
    ∃ e, Answers (.workItemSignal u) s e ∧ (g.fa >>> 48 = rd s.dev .meshNodeId → e = signalAnswered r.1 u (r.2.getD 0)) ∧
      (g.fa >>> 48 ≠ rd s.dev .meshNodeId →
        e = sendRemote d (.signal u) (remoteFlits d (0x800 + tileRow g.tile) g.part g.fa 8 2 0 g.add 0 []) 0))

/-- R109 to R111, R121 to R127: a fence begins to wait, and once it has no work item in its scope it makes the flush reads of its domain for the
writes in its scope, marks and resets the journals of its partition's tiles as it asks, and completes. A step graph begins: one with bad
fields or a bad patch table ends with 0x50. A step issues only where R121 allows it. A replay ends with no cause once its last
step is complete, and with its cause where its image or tables could not be read and no copy is left. (That STEP_MARK marks when
the next step begins is the model's choice: log 119.) -/
def Obligations.FencesAndGraphs : Prop :=
  (∀ (s : State) (u : Nat) (it : Item), homeStartable s.dev u 6 = some it → ∃ e, Answers (.fence u) s e ∧
    startsBy s.dev it (fun d _ => d) e) ∧
  (∀ (s : State) (u : Nat) (it : Item), fenceReady s.dev u = some it → ∃ e d, Answers (.fenceComplete u) s e ∧ e = finishFree d it 0 0 ∧
    (∀ x ∈ s.dev.disp.items, inScope it x = false) ∧ (∀ x ∈ d.hl.dirty, fenceCovers it x = false) ∧
    (fenceDomain it.wi ≠ 0 → ∀ x ∈ d.hl.peerDirty, fenceCovers it x = false) ∧
    (fenceMark it.wi = true → ∀ t ∈ tilesOf s.dev it.part, ∀ x ∈ (journalOf d t).rolling, x.state ≠ 2) ∧
    (fenceMark it.wi = false → ∀ t, (journalOf d t).rolling = (journalOf s.dev t).rolling) ∧
    (fenceKeepReset it.wi = true → ∀ t ∈ tilesOf s.dev it.part, (journalOf d t).keep = []) ∧
    (fenceKeepReset it.wi = false → ∀ t, (journalOf d t).keep = (journalOf s.dev t).keep) ∧
    onlyRegs { s.dev with hl := d.hl, disp := d.disp, out := d.out } d []) ∧
  (∀ (s : State) (u : Nat) (it : Item), homeStartable s.dev u 7 = some it → ∃ e, Answers (.stepGraph u) s e ∧
    startsBy s.dev it graphStart e ∧ ∀ d it', begins s.dev it d it' →
      let x := graphWi it'.wi
      (graphBad x = true → e = finish d it' 0x50) ∧
      (∀ d' ps, graphBad x = false → readPatches (rowAgent (homeRow d it'.ring)) it'.part x.patch x.patches d = (d', .ok ps) →
        ((ps.any (patchBad x.items) = true ∨ ascending ps = false) → e = finish d' it' 0x50) ∧
        (ps.any (patchBad x.items) = false → ascending ps = true →
          e = onDisp d' fun y => { y with graphs := y.graphs ++ [{ uid := it'.uid, patches := ps }] })) ∧
      (∀ d', graphBad x = false → readPatches (rowAgent (homeRow d it'.ring)) it'.part x.patch x.patches d = (d', .error 0) →
        e = modItem d' it'.uid fun y => { y with phase := .placed, patched := false }) ∧
      (∀ d' c, graphBad x = false → c ≠ 0 → readPatches (rowAgent (homeRow d it'.ring)) it'.part x.patch x.patches d = (d', .error c) →
        e = finish d' it' c)) ∧
  (∀ (s : State) (u : Nat) (it : Item) (r : GraphRun), issueReady s.dev u = some (it, r) →
    let x := graphWi it.wi
    let d := modItem s.dev it.uid fun y => { y with step := (x.first + r.step) % 2 ^ 32 }
    let d' := if r.begun = false ∧ 0 < r.step ∧ x.mark = true then (tilesOf d it.part).foldl journalMark d else d
    ∃ e, Answers (.stepIssue u) s e ∧
    e = issueItems (x.items + 1) (modGraph d' it.uid fun r => { r with begun := true }) it.uid ∧ r.step < x.count ∧
    (r.next = 0 → ∀ o, oldestOpen x.first r = some o → r.step ≤ o + clampTo 1 4 (rd s.dev .dispatchStepAhead 0))) ∧
  (∀ (s : State) (u : Nat) (it : Item) (r : GraphRun), inRun s.dev = true → itemOf s.dev u = some it → graphRunOf s.dev u = some r →
    r.open_ = [] →
    ((graphWi it.wi).count ≤ r.step → ∃ e, Answers (.stepGraphComplete u) s e ∧ e = finishFree s.dev it 0 0) ∧
    (r.step < (graphWi it.wi).count → r.cause ≠ 0 → ∃ e, Answers (.stepGraphComplete u) s e ∧ e = finishFree s.dev it 0 r.cause))

/-! ### Tile faults -/

/-- R82, R505 to R509: a hung unit and a failed datapath check fault their tile, the second after its work item ended with 0x46; so does a
retirement the driver asks for, unless one is under way (nothing but TILE changes) or the tile is no tile, failed or without
a spare (RESULT 0xEA). A tile that faults takes no work items and waits for its spare, or fails when it has none or is being released; a
spare whose copy is done takes the tile's EID, and replays nothing where the journal lists nothing. (The DETAIL of a fault event
that R514 gives no content is a free value.) -/
def Obligations.TileFaultRules : Prop :=
  (∀ (s : State) (t : Nat), t < tiles → inRun s.dev = true → rd s.dev .safetyCfgWatchdogUs 0 ≠ 0 → mayHang s.dev t = true →
    ∃ e, Answers (.watchdogExpiry t) s e ∧ e = tileFault s.dev t 9 true false) ∧
  (∀ (s : State) (t : Nat) (v : Bool), t < tiles → inRun s.dev = true →
    (∀ it, checkedItem s.dev t v = some it → ∃ e, Answers (.datapathCheckFailed t v) s e ∧
      e = tileFault (finishFree (orphan (dropWalk s.dev it.uid) it.uid) it it.flags 0x46) t 8 true false) ∧
    (∀ h ∈ s.dev.att.homes, checkedItem s.dev t v = none → h.tile = t → (homeReady s.dev h.id).isSome = true →
      ∃ e, Answers (.datapathCheckFailed t v) s e ∧ e = tileFault s.dev t 8 true false)) ∧
  (∀ (s : State) (t : Nat), t < 2048 → rd s.dev .bootStatusStage ≠ 15 → ∃ e, Answers (.tileRetire t) s e ∧
    (isSet s.dev .safetyTileRetireBusy 0 = true → rd e .safetyTileRetireTile 0 = t ∧ onlyRegs s.dev e [(.safetyTileRetireTile, 0)]) ∧
    (isSet s.dev .safetyTileRetireBusy 0 = false → (tiles ≤ t ∨ tileFailedBit s.dev t = true ∨ spareFree s.dev t = false) →
      rd e .safetyTileRetireTile 0 = t ∧ rd e .safetyTileRetireResult 0 = 0xEA ∧
      onlyRegs s.dev e [(.safetyTileRetireTile, 0), (.safetyTileRetireResult, 0)]) ∧
    (isSet s.dev .safetyTileRetireBusy 0 = false → t < tiles → tileFailedBit s.dev t = false → spareFree s.dev t = true →
      let f := tileFault (wr (wr s.dev .safetyTileRetireTile 0 t) .safetyTileRetireBusy 0 1) t 9 true true
      ((find? f.safe.swaps t).isSome = true → e = f) ∧
      (find? f.safe.swaps t = none → rd e .safetyTileRetireBusy 0 = 0 ∧ rd e .safetyTileRetireResult 0 = 0 ∧
        onlyRegs f e [(.safetyTileRetireBusy, 0), (.safetyTileRetireResult, 0)]))) ∧
  (∀ (d : Dev) (t cls : Nat) (copy asked : Bool),
    let d' := stopUnits (faultEvent (openField d).2 ((tileOwner d t).getD 0) 0 0xEC cls 1 t (openField d).1) t
    (isSet d' .tileOwnerReleasing t = true ∨ spareFree d' t = false → tileFault d t cls copy asked = failTile d' t cls) ∧
    (isSet d' .tileOwnerReleasing t = false → spareFree d' t = true → ∃ e, e = tileFault d t cls copy asked ∧ t ∈ e.disp.blocked ∧
      find? e.safe.swaps t = some { cls := cls, copy := copy, retire := asked } ∧ onlyRegs { d' with disp := e.disp, safe := e.safe, pwr := e.pwr } e [])) ∧
  (∀ (s : State) (t : Nat) (w : Swap), t < tiles → inRun s.dev = true → domState s.dev (.spare (t % 48 / 3)) = 0 →
    find? s.dev.safe.swaps t = some w → w.taken = false →
    ∃ e, Answers (.spareCopyDone t) s e ∧ e = spareTakes s.dev t w ∧
      (journalOf s.dev t = {} → ∃ d, e = replayEnd d t 0 ∧ rd d .spareMapUse (t % 48 / 3) = 2 ∧ rd d .spareMapTile (t % 48 / 3) = t ∧
        domState d (.tile t) = 0))

/-! ### Mesh -/

/-- R179, R271 to R274, R279, R282: an atomic on a word that exists, for a source that may start it. Refused, it answers an ERROR with its
cause and touches no byte; lost on its way, it only waits for its answer. At its target it leaves the word its rule says, answers the
word as it was (zero for ADD), and changes no other byte and no register, when no word of the memory carries an error, no region is
compressed and no unit has failed. One whose operand arrived poisoned is not performed and ends with 0x60 (the model's choice: log 133). -/
def Obligations.Atomics : Prop :=
  ∀ (s : State) (f : Flit) (k : Nat) (c : Flit → Instr) (op : Nat → Nat → Nat → Nat),
    (k, c, op) ∈ [(0, Instr.atomicAdd, fun o a _ => (o + a) % 2 ^ 64), (1, .atomicFetchAdd, fun o a _ => (o + a) % 2 ^ 64),
      (2, .atomicSwap, fun _ a _ => a), (3, .atomicCas, fun o a b => if o = b then a else o), (4, .atomicUmax, fun o a _ => max o a),
      (5, .atomicUmin, fun o a _ => min o a), (6, .atomicAnd, fun o a _ => o &&& a), (7, .atomicOr, fun o a _ => o ||| a)] →
    atomicOk s.dev f k = true →
    let old := fromBytes (getBytes s.dev f.addr 8)
    ∃ e, Answers (c f) s e ∧ (f.src, f.txn) ∈ e.mesh.waiting ∧
      (∀ x, (flitRefusal s.dev f).2 = .refuse x → e = answerFlit (flitRefusal s.dev f).1 f .error x [] ∧ e.mem = s.dev.mem) ∧
      ((flitRefusal s.dev f).2 = .lost → e = startTxn s.dev f) ∧
      ((flitRefusal s.dev f).2 = .serve → f.poison = true → e = answerFlit s.dev f .error 0x60 [] ∧ e.mem = s.dev.mem) ∧
      ((flitRefusal s.dev f).2 = .serve → f.poison = false →
        (∀ x, find? s.dev.mem.ecc x = none) → (∀ x, cmpRegion s.dev x = none) → (∀ x, unitFailed s.dev (place s.dev x) = false) →
        getBytes e f.addr 8 = toBytes 8 (op old (cut f.payload 0 64) (cut f.payload 64 64)) ∧
        (∀ x, x < f.addr ∨ f.addr + 8 ≤ x → getBytes e x 1 = getBytes s.dev x 1) ∧ keepsRegs s.dev e [] ∧
        ∃ a, e.mesh.flight = s.dev.mesh.flight ++ [a] ∧ a.src = f.src ∧ a.txn = f.txn ∧ a.kind = .atomicResult ∧ a.cause = 0 ∧
          a.bytes = toBytes 8 (if k = 0 then 0 else old))

/-- R172, R271 to R274, R279, R440, R507: READ and WRITE transactions of a source that may start one. Refused, they answer an ERROR with
0xC3, 0xEC, 0xC7 or 0x8A and touch no byte; lost on their way, they only wait for their answer. Otherwise a READ answers the bytes, with the
cause 0x60 or 0x61 of an error in them, and a WRITE applies its data but for the words that lose a collision, and acknowledges or answers
the cause; one of a single flit without lost words writes that flit's bytes. -/
def Obligations.FlitReadWrite : Prop :=
  (∀ (s : State) (f : Flit) (up : List Upset), inRun s.dev = true → mayStart s.dev f = true → flitOk s.dev f 0 = true → f.last = true →
    1 ≤ readBytes f → readBytes f ≤ 4096 → touchesHole s.dev f.addr (readBytes f) = false → ∃ e, Answers (.flitRead f up) s e ∧
      (∀ c, (flitRefusal s.dev f).2 = .refuse c → e = answerFlit (flitRefusal s.dev f).1 f .error c [] ∧ e.mem = s.dev.mem) ∧
      ((flitRefusal s.dev f).2 = .lost → e = startTxn s.dev f) ∧
      ((flitRefusal s.dev f).2 = .serve → let r := memRead (strike s.dev up) f.addr (readBytes f)
        e = answerFlit r.1 f .readData (r.2.1.getD 0) r.2.2)) ∧
  (∀ (s : State) (f : Flit) (fs : List Flit) (up : List Upset) (lost : List Nat), inRun s.dev = true → writeOk s.dev (f :: fs) = true →
      let w := flitWriter s.dev f
      let l := lostWords s.dev lost
      let r := (flitRuns (f :: fs)).foldl (fun (r : Dev × Option Nat) x => ((applyRun r.1 w l x).1, r.2.orElse fun _ => (applyRun r.1 w l x).2))
        (l.foldl (fun d a => collide d w f.src a) (strike s.dev up), none)
      let one := memWrite (strike s.dev up) w.uid.isSome (writePart f).2.length (writePart f).1 (writePart f).2
      ∃ e, Answers (.flitWrite (f :: fs) up lost) s e ∧
      (∀ c, (flitRefusal s.dev f).2 = .refuse c → e = answerFlit (flitRefusal s.dev f).1 f .error c [] ∧ e.mem = s.dev.mem) ∧
      ((flitRefusal s.dev f).2 = .lost → e = startTxn s.dev f) ∧
      ((flitRefusal s.dev f).2 = .serve →
        (r.2 = none → e = answerFlit r.1 f .writeAck 0 []) ∧ (∀ c, r.2 = some c → e = answerFlit r.1 f .error c []) ∧
        (fs = [] → lost = [] → f.poison = false → r = one))) ∧
  (∀ (d : Dev) (f : Flit) (c : Nat), (flitRefusal d f).2 = .refuse c →
    (c = 0xC3 ∧ routeOf d f.epoch f.src f.dest = .noRoute) ∨ (c = 0xEC ∧ tileAbsent d f.addr = true) ∨
    (c = 0xC7 ∧ tileRefuses d f.part f.addr = true) ∨
    (c = 0x8A ∧ tileRefuses d f.part f.addr = false ∧ sealRefuses d f.part f.addr = true))

/-- R116, R270, R272, R273, R277, R279, R282, R285, R291: a flit of an answer arrives: without a route back it is counted in
NO_ROUTE_DROPS, and with the last flit its source's limit is noted and its source takes it. A notification arrives at its row, or is
discarded without a route and then waiters go on seeing the old value; a carried work item arrives, and nothing else
changes. A transaction that times out leaves the waiting ones with cause 0xC8; a header error is counted and reported, and one of the flits on
their way there is discarded. The transport engine takes the oldest remote transaction whose source may start it. -/
def Obligations.FlitAnswers : Prop :=
  (∀ (s : State) (k : AnsKind) (c : Nat → Nat → Instr) (src txn : Nat) (a : MeshAns),
    (k, c) ∈ [(AnsKind.readData, Instr.readData), (.writeAck, .writeAck), (.atomicResult, .atomicResult), (.error, .errorFlit)] →
    inRun s.dev = true → answerOf s.dev k src txn = some a →
    let d := onMesh s.dev fun m => { m with flight := m.flight.erase a }
    let way := routeOf s.dev a.epoch a.from_ a.src
    a ∈ s.dev.mesh.flight ∧ a.kind = k ∧ a.src = src ∧ a.txn = txn ∧ ∃ e, Answers (c src txn) s e ∧
      (way = .noRoute → rd e .meshNoRouteDrops 0 = (rd s.dev .meshNoRouteDrops 0 + 1) % 2 ^ 32 ∧ onlyRegs d e [(.meshNoRouteDrops, 0)]) ∧
      (way = .lost → e = d) ∧
      (way = .arrives → 1 < a.left →
        e = onMesh s.dev fun m => { m with flight := m.flight.map fun x => if x = a then { x with left := x.left - 1 } else x }) ∧
      (way = .arrives → a.left ≤ 1 → e = takeAnswer (noteLimit d a) a)) ∧
  (∀ (s : State) (row : Nat) (n : Notify), inRun s.dev = true → notifyFront s.dev row = some n →
    let way := routeOf s.dev n.epoch 0x2005 (0x800 + n.row)
    let stale := if (find? s.dev.disp.stale n.addr).isSome then s.dev.disp.stale else put s.dev.disp.stale n.addr n.old
    n ∈ s.dev.disp.notifies ∧ n.row = row ∧ ∃ e, Answers (.tokenNotify row) s e ∧
      { e.disp with notifies := s.dev.disp.notifies, stale := s.dev.disp.stale } = s.dev.disp ∧
      e.disp.notifies = s.dev.disp.notifies.erase n ∧
      (way = .arrives → e.disp.stale = del s.dev.disp.stale n.addr ∧ { e with disp := s.dev.disp } = s.dev) ∧
      (way = .lost → e.disp.stale = stale ∧ { e with disp := s.dev.disp } = s.dev) ∧
      (way = .noRoute → e.disp.stale = stale ∧ rd e .meshNoRouteDrops 0 = (rd s.dev .meshNoRouteDrops 0 + 1) % 2 ^ 32 ∧
        onlyRegs { s.dev with disp := e.disp } e [(.meshNoRouteDrops, 0)])) ∧
  (∀ (s : State) (t : Nat) (x : Carried), inRun s.dev = true → carriedFront s.dev t = some x →
    ∃ e, Answers (.workItem t) s e ∧ e.disp.carried = s.dev.disp.carried.erase x ∧
      { e with disp := { e.disp with carried := s.dev.disp.carried } } = s.dev) ∧
  (∀ (s : State) (src txn : Nat), inRun s.dev = true → s.dev.mesh.waiting.contains (src, txn) = true →
    ∃ e, Answers (.txnTimeout src txn) s e ∧ e.out = .meshDone src txn 0xC8 [] :: s.dev.out ∧
      e.mesh.waiting = s.dev.mesh.waiting.erase (src, txn) ∧
      { e with out := s.dev.out, mesh := { e.mesh with waiting := s.dev.mesh.waiting } } = s.dev) ∧
  (∀ (s : State) (eid : Nat), (sideOf eid).isSome = true → ∃ e d, Answers (.flitHeaderError eid) s e ∧
    rd e .meshHeaderDrops 0 = (rd s.dev .meshHeaderDrops 0 + 1) % 2 ^ 32 ∧
    e = fabricEvent (bump d .meshHeaderDrops) 0xC6 (some eid) 0 0 (rd (bump d .meshHeaderDrops) .meshHeaderDrops) ∧
    (onWay s.dev eid = [] → d = s.dev) ∧
    (onWay s.dev eid ≠ [] → ∃ x ∈ onWay s.dev eid, d = discardFlit { s.dev with free := s.dev.free + 1 } x)) ∧
  (∀ (s : State) (r : Remote), inRun s.dev = true → isSet s.dev .transportCtrlEnable 0 = true → remoteFront s.dev = some r →
    r ∈ s.dev.disp.remotes ∧ remoteMay s.dev r = true ∧
    ∃ e, Answers .remote s e ∧ e = takeRemote (onDisp s.dev fun x => { x with remotes := x.remotes.erase r }) r)

/-! ### Scrub, DDR5 failures, compressed regions -/

/-- R182 to R184, R192, R193: a scrub of a bank visits the eight words of its next line and the pointer moves past it; a patrol visits the
die's next line. One visit with no error there changes no byte; a corrected error goes; an uncorrectable one poisons its word or line unless
the word is a registered token, whose value is restored. -/
def Obligations.ScrubAndPatrol : Prop :=
  (∀ (s : State) (t b : Nat) (up : List Upset), t < tiles → b < 64 → domState s.dev (.tile t) = 0 →
    let l := getD s.dev.mem.spScrub (t * 64 + b) 0
    ∃ e, Answers (.scratchpadScrub t b up) s e ∧
    e = onMem ((List.range 8).foldl (fun d w => scrubUnit d (bankLine t b l + 8 * w) none) (strike s.dev up))
      (fun m => { m with spScrub := putD m.spScrub (t * 64 + b) ((l + 1) % 384) 0 }) ∧
    (up = [] → (∀ x, find? s.dev.mem.ecc x = none) → { e with mem := s.dev.mem } = s.dev ∧ ∀ a, getBytes e a 1 = getBytes s.dev a 1)) ∧
  (∀ (s : State) (q : Nat) (up : List Upset), rd s.dev .bootStatusStage 0 = 8 → q < 4 → s.dev.mem.hedgeFailed.contains q = false →
    (rd s.dev .memoryScrubCfgHbmHours 0 ≠ 0 → ∃ e, Answers (.hbmPatrol q up) s e ∧
      e = onMem (scrubUnit (strike (wake s.dev (.hedge q)) up) (hbmLine s.dev q (getD s.dev.mem.hbmPatrol q 0)) (some 0x67)) fun m =>
        { m with hbmPatrol := putD m.hbmPatrol q ((getD s.dev.mem.hbmPatrol q 0 + 1) % (0x3000000000 / 64)) 0 }) ∧
    (rd s.dev .memoryScrubCfgDdrHours 0 ≠ 0 → 0 < ddrLines s.dev q → ∃ e, Answers (.ddrPatrol q up) s e ∧
      e = onMem (scrubUnit (strike (wake s.dev (.hedge q)) up) (ddrLine s.dev q (getD s.dev.mem.ddrPatrol q 0)) (some 0x67)) fun m =>
        { m with ddrPatrol := putD m.ddrPatrol q ((getD s.dev.mem.ddrPatrol q 0 + 1) % ddrLines s.dev q) 0 })) ∧
  (∀ (d : Dev) (a : Nat) (c : Option Nat), unitFailed d (place d a) = false →
    (find? d.mem.ecc a = none → scrubUnit d a c = d) ∧
    (find? d.mem.ecc a = some .corrected → scrubUnit d a c = countCe (setEcc d a none) (place d a) a) ∧
    (find? d.mem.ecc a = some .uncorrectable → tokenAt d a = none → scrubUnit d a c = poison d (place d a) a c) ∧
    (∀ v, find? d.mem.ecc a = some .uncorrectable → tokenAt d a = some v →
      scrubUnit d a c = countCe (setEcc (setBytes d a (toBytes 8 v)) a none) (place d a) a) ∧
    (find? d.mem.ecc a = some .poisoned → scrubUnit d a c = d))

/-- R194, R198: a DDR5 channel in service that fails enters STATE 3 with the event 0x69. Enabling a compressed region that is enabled changes
nothing, one that breaks the rules sets REFUSED and nothing else, and any other clears REFUSED and sets ENABLE and BUSY;
disabling clears ENABLE and sets BUSY, which ends on its own. -/
def Obligations.DdrAndCompression : Prop :=
  (∀ (s : State) (c : Nat), c < 8 → rd s.dev .memoryDdrStatState c = 1 → ∃ e, Answers (.ddrChannelFailure c) s e ∧
    rd e .memoryDdrStatState c = 3 ∧ keepsRegs s.dev e [(.memoryDdrStatState, c)] ∧ e.mem = s.dev.mem) ∧
  (∀ (s : State) (k : Nat), k < 16 → takesDriver s.dev →
    (∃ e, Answers (.cmpRegionEnable k) s e ∧
      (isSet s.dev .memoryCmpRegionEnable k = true → e = s.dev) ∧
      (isSet s.dev .memoryCmpRegionEnable k = false → cmpRefused s.dev k = true →
        rd e .memoryCmpRegionRefused k = 1 ∧ onlyRegs s.dev e [(.memoryCmpRegionRefused, k)]) ∧
      (isSet s.dev .memoryCmpRegionEnable k = false → cmpRefused s.dev k = false →
        rd e .memoryCmpRegionRefused k = 0 ∧ rd e .memoryCmpRegionEnable k = 1 ∧ rd e .memoryCmpRegionBusy k = 1 ∧
        keepsRegs s.dev e [(.memoryCmpRegionRefused, k), (.memoryCmpRegionEnable, k), (.memoryCmpRegionBusy, k)])) ∧
    (∃ e, Answers (.cmpRegionDisable k) s e ∧
      (isSet s.dev .memoryCmpRegionEnable k = false → e = s.dev) ∧
      (isSet s.dev .memoryCmpRegionEnable k = true → rd e .memoryCmpRegionEnable k = 0 ∧ rd e .memoryCmpRegionBusy k = 1 ∧
        keepsRegs s.dev e [(.memoryCmpRegionEnable, k), (.memoryCmpRegionBusy, k)]))) ∧
  (∀ (s : State) (k : Nat), k < 16 → isSet s.dev .memoryCmpRegionBusy k = true → ∃ e, Answers (.cmpRegionBusyEnd k) s e ∧
    rd e .memoryCmpRegionBusy k = 0 ∧ onlyRegs s.dev e [(.memoryCmpRegionBusy, k)])

/-! ### Translation commands -/

/-- R220, R223 to R227, R559: the command at the head of the queue leaves it. A malformed one completes with 0x10 and one of a partition
without tables with 0x12; otherwise an invalidation removes the cached translations it names and waits, SYNC completes, and RESUME
lets the held work try again or ends it. RESUME and SYNC wait until no invalidation is under way. An invalidation
whose transfers are all done completes, and then the stalled lookups go on. Enabling the command queue with a size in range takes its
base, size and CQ and clears HEAD; while it is enabled a write that changes them is discarded. Disabling it stops its fetch, and its doorbell
holds the index and lets an enabled queue fetch. -/
def Obligations.TranslationCommands : Prop :=
  (∀ (s : State) (c : Desc) (i : Instr) (op : Nat) (eff : Dev → Dev),
    (i, op, eff) ∈ [(Instr.invalRange, 1, fun d => invalStart d c false), (.invalPartition, 2, fun d => invalStart d c true),
      (.resumeRetry, 3, resumeEffect c), (.resumeAbort, 3, resumeEffect c), (.sync, 4, fun d => cmdDone d c 0 0)] →
    inRun s.dev = true → s.dev.xl.commands.head? = some c → cmdOp c = op → (3 ≤ op → s.dev.xl.invals = []) →
    (op = 3 → (cmdAction c = 1 ↔ i = .resumeAbort)) →
    let d := onXl s.dev fun x => { x with commands := x.commands.drop 1 }
    ∃ e, Answers i s e ∧ (cmdMalformed c = true → e = settleCmds (cmdDone d c 0x10 0)) ∧
      (cmdMalformed c = false → op ≠ 4 → isSet s.dev .xlatePtBaseEn (cmdPart c) = false → e = settleCmds (cmdDone d c 0x12 0)) ∧
      (cmdMalformed c = false → op = 4 ∨ isSet s.dev .xlatePtBaseEn (cmdPart c) = true → e = settleCmds (eff d))) ∧
  (∀ (d : Dev) (c : Desc) (whole : Bool),
    (∀ x ∈ (invalStart d c whole).xl.tlb, x.part = cmdPart c → whole = false ∧ overlaps x (cmdDva c / 65536) (cmdPages c) = false) ∧
    (∀ x ∈ d.xl.tlb, x.part ≠ cmdPart c → x ∈ (invalStart d c whole).xl.tlb)) ∧
  (∀ (d : Dev) (c : Desc) (h : HeldXfer), find? d.xl.held (cmdSlot c) = some h → getD d.xl.slotGen (cmdSlot c) 0 = cmdGen c →
    (cmdAction c = 0 → resumeEffect c d = cmdDone (retryWork (releaseSlot d (cmdSlot c)) h.work) c 0 0) ∧
    (cmdAction c ≠ 0 → resumeEffect c d = cmdDone (abortWork (releaseSlot d (cmdSlot c)) h.work h.cause) c 0 0)) ∧
  (∀ (s : State) (id : Nat) (v : Inval), inRun s.dev = true → invalReady s.dev id = some v → ∃ e, Answers (.invalidationComplete id) s e ∧
    (∀ u ∈ v.waits, ∀ x ∈ s.dev.disp.items, x.uid = u → x.phase ≠ .started) ∧
    e = resumeParked (forgetStalls (cmdDone (onXl s.dev fun x => { x with invals := x.invals.filter fun y => y.id ≠ id }) v.cmd 0 v.waited))) ∧
  (∀ (s : State) (cfg : Nat), cfg < 2 ^ 32 → takesDriver s.dev → bitOf cfg 4 = true → ∃ e, Answers (.cmdqEnable cfg) s e ∧
    (isSet s.dev .xlateCmdqCfgEnable 0 = false → 6 ≤ cut cfg 0 4 → cut cfg 0 4 ≤ 12 →
      rd e .xlateCmdqCfgEnable 0 = 1 ∧ rd e .xlateCmdqHeadIndex 0 = 0 ∧ rd e .xlateCmdqHeadExpectedPhase 0 = 1 ∧
      rd e .xlateCmdqCfgLog2Size 0 = cut cfg 0 4 ∧ rd e .xlateCmdqCfgCq 0 = cut cfg 5 16 ∧
      e.xl = { s.dev.xl with cmdBase := rd s.dev .xlateCmdqBase 0, cmdLog2 := cut cfg 0 4, cmdCq := cut cfg 5 16 } ∧
      onlyRegs { s.dev with xl := e.xl, free := e.free } e [(.xlateCmdqCfgEnable, 0), (.xlateCmdqCfgLog2Size, 0), (.xlateCmdqCfgCq, 0),
        (.xlateCmdqHeadIndex, 0), (.xlateCmdqHeadExpectedPhase, 0)]) ∧
    (isSet s.dev .xlateCmdqCfgEnable 0 = false → ¬ (6 ≤ cut cfg 0 4 ∧ cut cfg 0 4 ≤ 12) → isSet e .xlateCmdqCfgEnable 0 = false ∧
      rd e .xlateCmdqCfgLog2Size 0 = cut cfg 0 4 ∧ rd e .xlateCmdqCfgCq 0 = cut cfg 5 16 ∧
      onlyRegs { s.dev with free := e.free } e [(.xlateCmdqCfgLog2Size, 0), (.xlateCmdqCfgCq, 0)]) ∧
    (isSet s.dev .xlateCmdqCfgEnable 0 = true → cut cfg 0 4 = rd s.dev .xlateCmdqCfgLog2Size 0 → cut cfg 5 16 = rd s.dev .xlateCmdqCfgCq 0 →
      onlyRegs { s.dev with free := e.free } e []) ∧
    (isSet s.dev .xlateCmdqCfgEnable 0 = true → (cut cfg 0 4 ≠ rd s.dev .xlateCmdqCfgLog2Size 0 ∨ cut cfg 5 16 ≠ rd s.dev .xlateCmdqCfgCq 0) →
      rd e .discardedWrites 0 = (rd s.dev .discardedWrites 0 + 1) % 2 ^ 32 ∧ rd e .lastDiscardOffset 0 = 0x400008 ∧
      onlyRegs { s.dev with free := e.free } e
        [(.discardedWrites, 0), (.lastDiscardOffset, 0), (.lastDiscardSource, 0), (.lastDiscardPartition, 0)])) ∧
  (∀ s : State, takesDriver s.dev → rd s.dev .xlateCmdqCfgLog2Size 0 < 16 → rd s.dev .xlateCmdqCfgCq 0 < 2 ^ 16 →
    ∃ e, Answers .cmdqDisable s e ∧ isSet e .xlateCmdqCfgEnable 0 = false ∧
    (isSet s.dev .xlateCmdqCfgEnable 0 = true → onlyRegs (setSleep s.dev .cmdq none) e [(.xlateCmdqCfgEnable, 0)]) ∧
    (isSet s.dev .xlateCmdqCfgEnable 0 = false → onlyRegs s.dev e [])) ∧
  (∀ (s : State) (v : Nat), v < 2 ^ 32 → takesDriver s.dev → ∃ e, Answers (.cmdqDoorbell v) s e ∧
    (isSet s.dev .xlateCmdqCfgEnable 0 = false → rd e .xlateCmdqDoorbell 0 = v ∧ onlyRegs (wake s.dev .laurel) e [(.xlateCmdqDoorbell, 0)]) ∧
    (isSet s.dev .xlateCmdqCfgEnable 0 = true → e = cmdqGo (wake (wr s.dev .xlateCmdqDoorbell 0 v) .laurel) 64))

/-- R221: a RESUME that names a free slot, or a generation other than the slot's current one, changes nothing and completes with
cause code 0x11: the command leaves its queue, one entry with that cause goes to the command queue's CQ, and nothing else of the state changes. -/
def Obligations.StaleResume : Prop :=
  ∀ (s : State) (c : Desc) (rest : List Desc) (i : Instr), i ∈ [Instr.resumeRetry, .resumeAbort] → (cmdAction c = 1 ↔ i = .resumeAbort) →
    inRun s.dev = true → s.dev.xl.commands = c :: rest → cmdOp c = 3 → s.dev.xl.invals = [] → cmdCause s.dev c = 0 →
    (∀ x, rest.head? = some x → 1 ≤ cmdOp x ∧ cmdOp x ≤ 4) →
    (find? s.dev.xl.held (cmdSlot c) = none ∨ getD s.dev.xl.slotGen (cmdSlot c) 0 ≠ cmdGen c) →
    ∃ e q, Answers i s e ∧ e.xl = { s.dev.xl with commands := rest } ∧ e.hl = { s.dev.hl with entries := s.dev.hl.entries ++ [q] } ∧
      q.toEq = false ∧ q.num = s.dev.xl.cmdCq ∧ cut q.entry.toNat 16 8 = 0x11 ∧ { e with xl := s.dev.xl, hl := s.dev.hl } = s.dev

/-! ### The host link -/

/-- R233, R259 to R264: a module that trains has STATE 2 (or 1 at 16 GT/s, with the event 0xE5), CFG_MODULE names the lowest module that is up, and
what waited goes on. Detaching adds one to the epoch and clears ATTACHED, from each of its four causes; a rejoin is
refused while attached (3) or with another epoch (2) and attaches otherwise (1). -/
def Obligations.AttachAndModules : Prop :=
  (∀ (s : State) (m : Nat), m < 2 → trains s.dev = true →
    let mine := if m = 0 then Fld.hlStatusMod0 else .hlStatusMod1
    (∃ e d, Answers (.moduleLinkUp m) s e ∧ e = resumeParked d ∧ rd d mine 0 = 2 ∧
      (moduleUp d 0 = true → rd d .hlStatusCfgModule 0 = 0) ∧ (moduleUp d 0 = false → rd d .hlStatusCfgModule 0 = 1) ∧
      onlyRegs s.dev d [(mine, 0), (.hlStatusCfgModule, 0)]) ∧
    (∃ e d, Answers (.moduleLinkDown m true) s e ∧ e = resumeParked d ∧ rd d mine 0 = 1 ∧
      keepsRegs s.dev d [(mine, 0), (.hlStatusCfgModule, 0), (.mgmtAlertPending, 0)] ∧ d.hl.entries.length = s.dev.hl.entries.length + 1) ∧
    (∃ e, Answers (.moduleLinkDown m false) s e ∧ (moduleUp s.dev m = false → e = s.dev) ∧ (moduleUp s.dev m = true →
      rd e mine 0 = 0 ∧ keepsRegs s.dev e [(mine, 0), (.hlStatusCfgModule, 0), (.mgmtAlertPending, 0)] ∧
      e.hl.entries.length = s.dev.hl.entries.length + 1))) ∧
  (∀ (s : State) (c : Instr),
    (c = .hlDetach ∧ takesDriver s.dev) ∨ (c = .hlDownTimeout ∧ inRun s.dev = true ∧ attached s.dev = true ∧ hostUp s.dev = false) ∨
    (c = .hlHeartbeatTimeout ∧ inRun s.dev = true ∧ attached s.dev = true ∧ rd s.dev .hlCfgHbMs 0 ≠ 0) ∨
    (c = .hotReset (rd s.dev .hlStatusCfgModule 0) ∧ rd s.dev .hlStatusCfgModule 0 < 2 ∧ moduleUp s.dev (rd s.dev .hlStatusCfgModule 0) = true) →
    ∃ e, Answers c s e ∧ (attached s.dev = false → e = s.dev) ∧ (attached s.dev = true → e = detach s.dev ∧
      (listed s.dev .ringStateState = [] → listed s.dev .cqState = [] → listed s.dev .eqState = [] → ∃ d, e = resumeParked d ∧
        attached d = false ∧ rd d .hlEpoch 0 = (rd s.dev .hlEpoch 0 + 1) % 2 ^ 32 ∧
        onlyRegs s.dev d [(.hlEpoch, 0), (.hlStatusAttached, 0), (.mgmtAlertPending, 0)]))) ∧
  (∀ (s : State) (m : Nat), m < 2 → moduleUp s.dev m = true → m ≠ rd s.dev .hlStatusCfgModule 0 → ∃ e, Answers (.hotReset m) s e ∧ e = s.dev) ∧
  (∀ (s : State) (x : Nat), x < 2 ^ 32 → takesDriver s.dev →
    (∃ e, Answers (.hlRejoin x) s e ∧ rd e .hlRejoinEpoch 0 = x ∧ (attached s.dev = true ∨ x ≠ rd s.dev .hlEpoch 0 → e.hl = s.dev.hl ∧ e.out = s.dev.out) ∧
      onlyRegs { s.dev with hl := e.hl, out := e.out } e [(.hlRejoinEpoch, 0), (.hlRejoinResult, 0), (.hlEpoch, 0), (.hlStatusAttached, 0)] ∧
      (attached s.dev = true → rd e .hlRejoinResult 0 = 3 ∧ rd e .hlEpoch 0 = rd s.dev .hlEpoch 0 ∧ attached e = true) ∧
      (attached s.dev = false → x = rd s.dev .hlEpoch 0 →
        rd e .hlRejoinResult 0 = 1 ∧ attached e = true ∧ rd e .hlEpoch 0 = (rd s.dev .hlEpoch 0 + 1) % 2 ^ 32) ∧
      (attached s.dev = false → x ≠ rd s.dev .hlEpoch 0 →
        rd e .hlRejoinResult 0 = 2 ∧ attached e = false ∧ rd e .hlEpoch 0 = rd s.dev .hlEpoch 0)) ∧
    (∃ e, Answers (.hlHeartbeat x) s e ∧ rd e .hlHeartbeat 0 = x ∧ onlyRegs s.dev e [(.hlHeartbeat, 0)]))

/-- R234 to R238, R257, R263, R265, R470: configuration requests outside RUN are answered with retry or as unsupported, those of a requester the function
does not know are counted and unsupported, and any other reads or writes the register it names, NumVFs being cut at 63; aperture reads and
writes and AtomicOps reach the memory their address translates to, or answer the failure and count it, a posted write without a completion, or
wait while an invalidation stalls their lookup; a Function Level Reset of a virtual function disables its rings and queues and clears its
vectors; a host access without completion ends its work item. -/
def Obligations.HostRequests : Prop :=
  (∀ (s : State) (q : CfgReq), q.module < 2 → q.fn < 64 → moduleUp s.dev q.module = true → ∃ e, Answers (.configRequest q) s e ∧
    (serving s.dev = false → q.fn = 0 → e = emit s.dev (.completion q.module .retry [] false)) ∧
    (serving s.dev = false → q.fn ≠ 0 → e = emit s.dev (.completion q.module .unsupported [] false)) ∧
    (serving s.dev = true → (q.module ≠ rd s.dev .hlStatusCfgModule 0 ∨ s.dev.hl.numVfs < q.fn) →
      e = emit s.dev (.completion q.module .unsupported [] false)) ∧
    (serving s.dev = true → q.module = rd s.dev .hlStatusCfgModule 0 → q.fn ≤ s.dev.hl.numVfs → hostRid s.dev q.rid = false →
      e = emit (bump s.dev .hlPeerRefused) (.completion q.module .unsupported [] false)) ∧
    (serving s.dev = true → q.module = rd s.dev .hlStatusCfgModule 0 → q.fn ≤ s.dev.hl.numVfs → hostRid s.dev q.rid = true →
      (q.write = none → e = emit (cfgRead s.dev q.fn q.reg).1 (.completion q.module .success (toBytes 4 (cfgRead s.dev q.fn q.reg).2) false)) ∧
      (∀ v, q.write = some v → e = emit (cfgWrite s.dev q.fn v q.reg) (.completion q.module .success [] false) ∧
        (q.reg = .numVfs → q.fn = 0 → e.hl.numVfs = min 63 (v % 2 ^ 16))))) ∧
  (∀ (s : State) (q : ApReq) (len : Nat), apPossible s.dev q len 4096 = true → ∃ e, Answers (.apertureRead q len) s e ∧
    (∀ d, apRefused s.dev q = some d → e = d) ∧ (apRefused s.dev q = none →
      (∀ d a, apPlace s.dev q len .read = (d, .at_ a) →
        let r := apBack q a (memRead d a len)
        (r.2.1 = none → e = emit r.1 (.completion q.module .success r.2.2 false)) ∧
        (r.2.1 = some 0xC8 → e = emit (apFail r.1 q 0xC8) (.completion q.module .abort [] false)) ∧
        (∀ c, c ≠ 0xC8 → r.2.1 = some c → e = emit (apFail r.1 q c) (.completion q.module .success r.2.2 true))) ∧
      (∀ d c, apPlace s.dev q len .read = (d, .bad c) → e = emit (apFail d q c) (.completion q.module .abort [] false)) ∧
      (∀ d, apPlace s.dev q len .read = (d, .wait) → e = apStall d (.apertureRead q len)))) ∧
  (∀ (s : State) (q : ApReq), serving s.dev = false ∨ s.dev.hl.numVfs < q.fn →
    apRefused s.dev q = some (emit s.dev (.completion q.module .unsupported [] false))) ∧
  (∀ (s : State) (q : ApReq), serving s.dev = true → q.fn ≤ s.dev.hl.numVfs →
    (hostRid s.dev q.rid = true ∨ peerRid s.dev q.fn q.rid = true → apRefused s.dev q = none) ∧
    (hostRid s.dev q.rid = false → peerRid s.dev q.fn q.rid = false →
      apRefused s.dev q = some (emit (bump s.dev .hlPeerRefused) (.completion q.module .unsupported [] false)))) ∧
  (∀ (s : State) (q : ApReq) (bs : List Byte), apPossible s.dev q bs.length 512 = true → ∃ e, Answers (.apertureWrite q bs) s e ∧
    (serving s.dev = false ∨ s.dev.hl.numVfs < q.fn → e = s.dev) ∧
    (serving s.dev = true → q.fn ≤ s.dev.hl.numVfs → hostRid s.dev q.rid = false → peerRid s.dev q.fn q.rid = false →
      e = bump s.dev .hlPeerRefused) ∧
    (apRefused s.dev q = none →
      (∀ d a, apPlace s.dev q bs.length .write = (d, .at_ a) →
        let w := memStore d .other (apEid q) a bs
        let r := apBack q a (w.1, w.2, ())
        (r.2.1 = none → e = r.1) ∧ (∀ c, r.2.1 = some c → e = apFail r.1 q c)) ∧
      (∀ d c, apPlace s.dev q bs.length .write = (d, .bad c) → e = apFail d q c) ∧
      (∀ d, apPlace s.dev q bs.length .write = (d, .wait) → e = apStall d (.apertureWrite q bs)))) ∧
  (∀ (s : State) (q : ApReq) (bits op x y : Nat) (i : Instr),
    (i, op, y) ∈ [(Instr.apertureFetchadd q bits x, 1, 0), (.apertureSwap q bits x, 2, 0), (.apertureCas q bits y x, 3, y)] →
    apAtomicPossible s.dev q bits = true → ∃ e, Answers i s e ∧ (∀ d, apRefused s.dev q = some d → e = d) ∧
    (apRefused s.dev q = none → bits ≠ 64 → e = emit s.dev (.completion q.module .unsupported [] false)) ∧
    (apRefused s.dev q = none → bits = 64 →
      (∀ d a, apPlace s.dev q 8 .atomic = (d, .at_ a) →
        let r := apBack q a (memAtomic d op a x y)
        (r.2.1 = none → e = emit r.1 (.completion q.module .success (toBytes 8 r.2.2) false)) ∧
        (∀ c, r.2.1 = some c → e = emit (apFail r.1 q c) (.completion q.module .abort [] false))) ∧
      (∀ d c, apPlace s.dev q 8 .atomic = (d, .bad c) → e = emit (apFail d q c) (.completion q.module .abort [] false)) ∧
      (∀ d, apPlace s.dev q 8 .atomic = (d, .wait) → e = apStall d i))) ∧
  (∀ (s : State) (fn : Nat), fn < 64 → fn ≤ s.dev.hl.numVfs → ∃ e, Answers (.functionLevelReset fn) s e ∧ (fn = 0 → e = detach s.dev) ∧
    (fn ≠ 0 → (∀ x, x ∈ e.hl.msix ↔ x ∈ s.dev.hl.msix ∧ x.1 / 256 ≠ fn) ∧
      (∀ r, voteHolds s.dev .ringCfgPartition r = true → rd s.dev .ringCfgPartition r = fn → isSet e .ringStateEnable r = false) ∧
      (∀ c, voteHolds s.dev .cqPartition c = true → rd s.dev .cqPartition c = fn → rd e .cqState c = 0) ∧
      (∀ q, voteHolds s.dev .eqPartition q = true → rd s.dev .eqPartition q = fn → rd e .eqState q = 0) ∧ e.mem = s.dev.mem)) ∧
  (∀ (s : State) (t : Nat) (it : Item), inRun s.dev = true → attached s.dev = true → hostWork s.dev t = some it →
    let d := onXl s.dev fun x => { x with parked := x.parked.filter (· ≠ .item it.uid) }
    let ends := fun (d : Dev) => modItem d it.uid fun y => { y with
      prog := moveTotal it.wi, cause := if y.cause = 0 then 0xE6 else y.cause, held := false }
    ∃ e, Answers (.hpaCompletionTimeout t) s e ∧ (it.lane ≠ .move → e = attEnd d it it.flags 0xE6) ∧
      (it.lane = .move → s.dev.xl.parked.contains (.item it.uid) = true → e = ends d) ∧
      (it.lane = .move → s.dev.xl.parked.contains (.item it.uid) = false →
        ∃ p ∈ issued it, hostPiece s.dev it p = true ∧ e = ends (scramble { s.dev with free := s.dev.free + 1 } it p)))

/-- R239, R240, R248 to R253: doorbells of the window's own CQ or EQ hold their index and queue in the window and move the
queue's consumer index, and an EQ's ARM arms it; an interrupt of a masked vector becomes pending, any other is sent, and the EQ
is disarmed. Enabling an enabled queue changes nothing, a refused enable sets LAST_CAUSE 0xE7 only, a granted one counts the queue
and clears its indices; disabling puts it in state 0. -/
def Obligations.EventAndCompletionQueues : Prop :=
  (∀ (s : State) (win c i : Nat), win < 64 → c < cqs → i < 2 ^ 32 → takesDriver s.dev → rd s.dev .cqPartition c = win →
    voteHolds s.dev .cqPartition c = true →
    (∃ e, Answers (.cqDoorbell win 8 (c * 2 ^ 32 + i)) s e ∧ rd e .cqConsumer c = i ∧ rd e .pwinCqDbIndex win = i ∧ rd e .pwinCqDbCq win = c ∧
      onlyRegs (wake s.dev .laurel) e [(.cqConsumer, c), (.pwinCqDbIndex, win), (.pwinCqDbCq, win), (.pwinCqDbArm, win)]) ∧
    (∃ e d, Answers (.cqArm win 8 (2 ^ 46 + c * 2 ^ 32 + i)) s e ∧ e = cqNotify d c ∧ rd d .cqConsumer c = i ∧ rd d .cqArmed c = 1 ∧
      getD d.hl.cqArmIndex c 0 = i ∧ onlyRegs { wake s.dev .laurel with hl := d.hl } d
        [(.cqConsumer, c), (.cqArmed, c), (.pwinCqDbIndex, win), (.pwinCqDbCq, win), (.pwinCqDbArm, win)])) ∧
  (∀ (s : State) (win q i : Nat), win < 64 → q < eqs → i < 2 ^ 32 → takesDriver s.dev → rd s.dev .eqPartition q = win →
    voteHolds s.dev .eqPartition q = true →
    (∃ e, Answers (.eqDoorbell win 8 (q * 2 ^ 32 + i)) s e ∧ rd e .eqConsumer q = i ∧ rd e .pwinEqDbIndex win = i ∧ rd e .pwinEqDbEq win = q ∧
      onlyRegs (wake s.dev .laurel) e [(.eqConsumer, q), (.pwinEqDbIndex, win), (.pwinEqDbEq, win), (.pwinEqDbArm, win)]) ∧
    (∃ e, Answers (.eqArm win 8 (2 ^ 40 + q * 2 ^ 32 + i)) s e ∧ rd e .eqConsumer q = i ∧ rd e .eqArmed q = 1 ∧
      onlyRegs (wake s.dev .laurel) e [(.eqConsumer, q), (.eqArmed, q), (.pwinEqDbIndex, win), (.pwinEqDbEq, win), (.pwinEqDbArm, win)])) ∧
  (∀ (s : State) (q : Nat), msiReady s.dev q = true →
    let p := rd s.dev .eqPartition q
    let v := rd s.dev .eqVector q
    ∃ e, Answers (.msixSend q) s e ∧ rd e .eqArmed q = 0 ∧ onlyRegs { s.dev with hl := e.hl, out := e.out } e [(.eqArmed, q)] ∧
      (bitOf (vecState s.dev p v) 0 = true → e.out = s.dev.out ∧ vecState e p v = 3) ∧
      (bitOf (vecState s.dev p v) 0 = false → e.out = .msix (rd s.dev .hlStatusCfgModule 0) p v :: s.dev.out ∧ find? e.hl.lastMsi q = some s.dev.upNs)) ∧
  (∀ (s : State) (c : Nat), c < cqs → takesDriver s.dev → ∃ e, Answers (.cqEnable c) s e ∧
    (isSet s.dev .cqEnable c = true → e = s.dev) ∧
    (isSet s.dev .cqEnable c = false → rd s.dev .cqState c = 0 → cqRefusedEnable s.dev c = true →
      rd e .cqLastCause c = 0xE7 ∧ onlyRegs s.dev e [(.cqLastCause, c)]) ∧
    (isSet s.dev .cqEnable c = false → rd s.dev .cqState c = 0 → cqRefusedEnable s.dev c = false →
      rd e .cqEnable c = 1 ∧ rd e .cqState c = 1 ∧ rd e .cqProducer c = 0 ∧ rd e .cqConsumer c = 0 ∧ rd e .cqLost c = 0 ∧
      rd e .partCountCqs (rd s.dev .cqPartition c) = (rd s.dev .partCountCqs (rd s.dev .cqPartition c) + 1) % 2 ^ 11 ∧
      onlyRegs s.dev e [(.cqEnable, c), (.cqState, c), (.partCountCqs, rd s.dev .cqPartition c), (.cqProducer, c), (.cqConsumer, c), (.cqLost, c)])) ∧
  (∀ (s : State) (q : Nat), q < eqs → takesDriver s.dev → ∃ e, Answers (.eqEnable q) s e ∧
    (isSet s.dev .eqEnable q = true → e = s.dev) ∧
    (isSet s.dev .eqEnable q = false → rd s.dev .eqState q = 0 → eqRefusedEnable s.dev q = true →
      rd e .eqLastCause q = 0xE7 ∧ onlyRegs s.dev e [(.eqLastCause, q)]) ∧
    (isSet s.dev .eqEnable q = false → rd s.dev .eqState q = 0 → eqRefusedEnable s.dev q = false →
      rd e .eqEnable q = 1 ∧ rd e .eqState q = 1 ∧ rd e .eqProducer q = 0 ∧ rd e .eqConsumer q = 0 ∧ rd e .eqLost q = 0 ∧
      rd e .partCountEqs (rd s.dev .eqPartition q) = (rd s.dev .partCountEqs (rd s.dev .eqPartition q) + 1) % 2 ^ 9 ∧
      onlyRegs s.dev e [(.eqEnable, q), (.eqState, q), (.partCountEqs, rd s.dev .eqPartition q), (.eqProducer, q), (.eqConsumer, q), (.eqLost, q)])) ∧
  (∀ (s : State) (c : Nat), c < cqs → takesDriver s.dev → ∃ e, Answers (.cqDisable c) s e ∧ rd e .cqEnable c = 0 ∧ rd e .cqState c = 0 ∧
    onlyRegs s.dev e [(.cqEnable, c), (.cqState, c), (.partCountCqs, rd s.dev .cqPartition c)]) ∧
  (∀ (s : State) (q : Nat), q < eqs → takesDriver s.dev → ∃ e, Answers (.eqDisable q) s e ∧ rd e .eqEnable q = 0 ∧ rd e .eqState q = 0 ∧
    onlyRegs s.dev e [(.eqEnable, q), (.eqState, q), (.partCountEqs, rd s.dev .eqPartition q)])

/-! ### Die-to-die links and routes -/

/-- R38, R281, R286 to R290: a link group's replay is counted, and more than sixteen within 1 ms take it down; a group that loses lock is
down at both ends of its crossing while others stay. Re-balancing turns as many groups around as the share of the queued flits asks for,
two staying in each direction, and changes nothing else; how the share rounds and which groups turn are free. A group
whose reversal ends carries the other direction. The change at the head of the queue leaves it: a bad one is reported, an entry write sets the entry of
the bank not in use, a commit turns the epoch and starts to drain. -/
def Obligations.LinksAndRoutes : Prop :=
  (∀ (s : State) (c g : Nat), diesOn s.dev = true → groupUp s.dev c g = true →
    let left := (rd s.dev .meshLinkStatusUp c - 2 ^ g) % 2 ^ 34
    let k := min c (otherEnd c) * 64 + g
    let l := s.dev.upNs :: (getD s.dev.mesh.replays k []).filter fun t => decide (s.dev.upNs - t < 1000000)
    let d := onMesh (bump s.dev .meshLinkReplays) fun m => { m with replays := put m.replays k l }
    rd d .meshLinkReplays 0 = (rd s.dev .meshLinkReplays 0 + 1) % 2 ^ 32 ∧
    (∃ e, Answers (.dieLinkCrcFail c g) s e ∧ (l.length ≤ 16 → e = d) ∧ (16 < l.length → e = groupDown d c g)) ∧
    (∃ e, Answers (.dieLinkLockLoss c g) s e ∧ e = groupDown s.dev c g ∧ (left ≠ 0 →
      rd e .meshLinkStatusUp c = left ∧ bitOf (rd e .meshLinkStatusUp (otherEnd c)) g = false ∧
      keepsRegs s.dev e [(.meshLinkStatusUp, c), (.meshLinkStatusUp, otherEnd c)]))) ∧
  (∀ (s : State) (q a b : Nat), q < 4 → diesOn s.dev = true →
    let turning := fun (d : Dev) (g : Nat) => bitOf (getD d.mesh.reversing q 0) g
    let will := fun (d : Dev) => ((List.range 34).filter fun g => bitOf (towardHedge d q) g != turning d g).length
    let idle := fun (toward : Bool) => ((List.range 34).filter fun g => !turning s.dev g && (bitOf (towardHedge s.dev q) g == toward)).length
    ∃ e, Answers (.linkDirectionRebalance q a b) s e ∧ (a + b = 0 → e = s.dev) ∧
      (a + b ≠ 0 → ∃ r, r < 2 ∧
        let want := clampTo 2 32 ((34 * a + (a + b - 1) * r) / (a + b))
        will e = if will s.dev < want then will s.dev + min (want - will s.dev) (idle false - 2)
          else will s.dev - min (will s.dev - want) (idle true - 2)) ∧
      (∀ g, g < 34 → turning s.dev g = true → turning e g = true) ∧
      (∀ p, p ≠ q → getD e.mesh.reversing p 0 = getD s.dev.mesh.reversing p 0) ∧
      { e with mesh := { e.mesh with reversing := s.dev.mesh.reversing }, free := s.dev.free } = s.dev) ∧
  (∀ (s : State) (q g : Nat), reversing s.dev q g = true → ∃ e, Answers (.linkGroupReversalEnd q g) s e ∧
    towardHedge e q = towardHedge s.dev q ^^^ 2 ^ g ∧ getD e.mesh.reversing q 0 = getD s.dev.mesh.reversing q 0 - 2 ^ g ∧
    (∀ p, p ≠ q → towardHedge e p = towardHedge s.dev p ∧ getD e.mesh.reversing p 0 = getD s.dev.mesh.reversing p 0) ∧
    { e with mesh := { e.mesh with reversing := s.dev.mesh.reversing, toHedge := s.dev.mesh.toHedge } } = s.dev) ∧
  (∀ (s : State) (c : RouteCmd) (i : Instr) (commit : Bool), (i, commit) ∈ [(Instr.routeEntryWrite, false), (.routeCommit, true)] →
    meshUp s.dev = true → routeFront s.dev commit = some c → ∃ e d, Answers i s e ∧ e = releaseAll s.perm d ∧
      d.mesh.routeQ = s.dev.mesh.routeQ.drop 1 ∧
      (routeBad c = true → keepsRegs s.dev d [(.meshRouteCtrlPending, 0)]) ∧
      (routeBad c = false → rd d .meshRouteChanges 0 = (rd s.dev .meshRouteChanges 0 + 1) % 2 ^ 32) ∧
      (routeBad c = false → commit = false → routeEntry d (cut c.cmd 0 4) (1 - rd s.dev .meshRouteCtrlEpoch 0) (cut c.cmd 4 10) = c.data % 2 ^ 64 ∧
        rd d .meshRouteCtrlEpoch 0 = rd s.dev .meshRouteCtrlEpoch 0) ∧
      (routeBad c = false → commit = true → rd d .meshRouteCtrlEpoch 0 = (1 - rd s.dev .meshRouteCtrlEpoch 0) % 2 ∧ rd d .meshRouteCtrlDraining 0 = 1)) ∧
  (∀ s : State, isSet s.dev .meshRouteCtrlDraining 0 = true →
    (oldFlits s.dev = 0 → ∃ e, Answers .routeDrainComplete s e ∧ rd e .meshRouteCtrlDraining 0 = 0 ∧ onlyRegs s.dev e [(.meshRouteCtrlDraining, 0)]) ∧
    (oldFlits s.dev ≠ 0 → s.dev.mesh.slowSent = false → ∃ e, Answers .routeDrainSlow s e ∧ e.mesh = { s.dev.mesh with slowSent := true } ∧
      e.hl.entries.length = s.dev.hl.entries.length + 1 ∧ keepsRegs s.dev e [])) ∧
  (∀ (s : State) (p n : Nat), p < 64 → n < 65536 → takesDriver s.dev → ∃ e, Answers (.nodeMapInval p n) s e ∧
    find? e.tr.nodeCache (p * 65536 + n) = none ∧ (∀ k, k ≠ p * 65536 + n → find? e.tr.nodeCache k = find? s.dev.tr.nodeCache k) ∧
    onlyRegs { s.dev with tr := e.tr } e [(.meshNodeMapInvalPartition, 0), (.meshNodeMapInvalNode, 0)])

/-! ### Transport -/

/-- R312 to R316, R448: a queue-pair command given while another waits is discarded, and one on a queue pair without a context answers 0x2D in
QP_CMD.RESULT and changes nothing else. On a resident context it answers 0x2D, the context unchanged, where the queue pair's state does not allow it, and
0 where it is done. DRAIN leads to DRAINING, or to DRAINED when nothing is under way; QP_ERROR (here with no message unfinished) leads from every
state to ERROR with no record and no work request left; RESET leads to RESET with nothing of the queue pair left in the transport engine and its slot
released; READ_CONTEXT writes the context's image; WRITE_CONTEXT of a sound image sets the context of R312 and counts it; READY with its checks met
makes the path set live, binds the transmit slot and fetches what doorbells have announced. -/
def Obligations.QueuePairCommands : Prop :=
  ∀ (s : State) (n addr : Nat), takesDriver s.dev → n < 2 ^ 24 →
    (∀ c op, (c, op) ∈ [(Instr.writeContext n addr, 1), (.readContext n addr, 2), (.ready n, 3), (.drain n, 4), (.qpError n, 5), (.qpReset n, 6)] →
      (isSet s.dev .transportQpCmdBusy = true → Answers c s s.dev) ∧
      (rd s.dev .transportQpCmdBusy 0 = 0 → qpAt s.dev n = none → qpPlace s.dev n = none → ∃ e, Answers c s e ∧
        rd e .transportQpCmdQpn 0 = n ∧ rd e .transportQpCmdOp 0 = op ∧ rd e .transportQpCmdResult 0 = 0x2D ∧
        onlyRegs s.dev e [(.transportQpCmdQpn, 0), (.transportQpCmdOp, 0), (.transportQpCmdResult, 0), (.transportQpCmdAddr, 0)])) ∧
    (∀ q : Qp, rd s.dev .transportQpCmdBusy 0 = 0 → qpAt s.dev n = some q →
      (∀ c op, (c, op) ∈ [(Instr.drain n, 4), (.qpError n, 5), (.qpReset n, 6)] → ∃ e, Answers c s e ∧
        rd e .transportQpCmdQpn 0 = n ∧ rd e .transportQpCmdOp 0 = op ∧ (∀ m, m ≠ n → qpAt e m = qpAt s.dev m) ∧
        (let bad := (op = 4 ∧ q.state ≠ 2) ∨ (op = 6 ∧ (q.state = 0 ∨ q.state = 2 ∨ q.state = 3 ∨ 7 ≤ q.state))
         (bad → rd e .transportQpCmdResult 0 = 0x2D ∧ { e.tr with lru := s.dev.tr.lru } = s.dev.tr ∧
           onlyRegs { s.dev with tr := e.tr } e [(.transportQpCmdQpn, 0), (.transportQpCmdOp, 0), (.transportQpCmdResult, 0)]) ∧
         (¬ bad → op ≠ 5 ∨ (msgsOf s.dev n).all (·.done) = true → rd e .transportQpCmdResult 0 = 0 ∧ e.mem = s.dev.mem)) ∧
        (op = 4 → q.state = 2 →
          qpAt e n = some { q with state := if q.sqHead = q.sqDone ∧ recsOf s.dev n = [] then 4 else 3 } ∧
          e.hl = { s.dev.hl with sleeping := s.dev.hl.sleeping.filter fun x => x.1 ≠ .sq n } ∧
          onlyRegs { s.dev with tr := e.tr, hl := e.hl } e [(.transportQpCmdQpn, 0), (.transportQpCmdOp, 0), (.transportQpCmdResult, 0),
            (.transportSticky, 0)]) ∧
        (op = 5 → (msgsOf s.dev n).all (·.done) = true → recsOf s.dev n = [] ∨ q.state ≠ 5 →
          (∃ q', qpAt e n = some q' ∧ q'.state = 5 ∧ (q.state ≠ 5 → q'.lastCause = 0)) ∧ recsOf e n = [] ∧
          (q.state ≠ 5 → (runOf e n).wrs = []) ∧
          rd e .partCountQps q.part = if q.state = 0 then (rd s.dev .partCountQps q.part + 1) % 2 ^ 25 else rd s.dev .partCountQps q.part) ∧
        (op = 6 → q.state = 1 ∨ q.state = 4 ∨ q.state = 5 ∨ q.state = 6 →
          qpAt e n = some { q with state := 0 } ∧ msgsOf e n = [] ∧ recsOf e n = [] ∧ runOf e n = {} ∧
          (∀ o ∈ e.tr.openMsgs, o.qpn ≠ n) ∧ (∀ h ∈ e.tr.holds, h.qpn ≠ n) ∧ (∀ p ∈ e.top.queue, p.qpn ≠ n) ∧
          rd e .partCountQps q.part = (rd s.dev .partCountQps q.part - 1) % 2 ^ 25 ∧
          (rd s.dev .yewSlotUserQpn q.txSlot = n → rd e .yewSlotUserQpn q.txSlot = 0))) ∧
      (∃ e, Answers (.readContext n addr) s e ∧
        (imageAddr addr = false → rd e .transportQpCmdQpn 0 = n ∧ rd e .transportQpCmdOp 0 = 2 ∧ rd e .transportQpCmdResult 0 = 0x2D ∧
          { e.tr with lru := s.dev.tr.lru } = s.dev.tr ∧ onlyRegs { s.dev with tr := e.tr } e
            [(.transportQpCmdQpn, 0), (.transportQpCmdOp, 0), (.transportQpCmdResult, 0), (.transportQpCmdAddr, 0)]) ∧
        (imageAddr addr = true → e = qpResult (dpaWrite (touch (qpAddr s.dev addr) n) 0x2000 addr (qpImage q)).1 n 2 0)) ∧
      (∃ e, Answers (.writeContext n addr) s e ∧
        ((q.state ≠ 0 ∨ imageAddr addr = false) → rd e .transportQpCmdQpn 0 = n ∧ rd e .transportQpCmdOp 0 = 1 ∧ rd e .transportQpCmdResult 0 = 0x2D ∧
          { e.tr with lru := s.dev.tr.lru } = s.dev.tr ∧ onlyRegs { s.dev with tr := e.tr } e
            [(.transportQpCmdQpn, 0), (.transportQpCmdOp, 0), (.transportQpCmdResult, 0), (.transportQpCmdAddr, 0)]) ∧
        (∀ d d' bs x, q.state = 0 → imageAddr addr = true → dpaRead (touch (qpAddr s.dev addr) n) 0x2000 addr 512 = (d, none, bs) →
          voteContext (fromBytes bs) = some x → ∀ bad, imageBad d x (qpOf x) = (d', bad) →
          let p := (qpOf x).part
          (bad = true ∨ rd d' .partQuotaQpMax p ≤ rd d' .partCountQps p → e = qpResult d' n 1 0x2D) ∧
          (bad = false → rd d' .partCountQps p < rd d' .partQuotaQpMax p →
            rd e .transportQpCmdResult 0 = 0 ∧ qpAt e n = some (freshQp d' x) ∧ (∀ m, m ≠ n → qpAt e m = qpAt d' m) ∧
            rd e .partCountQps p = (rd d' .partCountQps p + 1) % 2 ^ 25 ∧
            onlyRegs { d' with tr := e.tr } e [(.transportQpCmdQpn, 0), (.transportQpCmdOp, 0), (.transportQpCmdResult, 0), (.partCountQps, p)]))) ∧
      (∃ e, Answers (.ready n) s e ∧ ∀ d descs, let t := touch s.dev n
        ((∃ l, liveOf t q.pathSet = some l ∧ d = t ∧ descs = l.descs) ∨ (liveOf t q.pathSet = none ∧ readSet t q.pathSet = (d, descs))) →
        (readyOk d n q descs = false → e = qpResult d n 3 0x2D) ∧
        (readyOk d n q descs = true → ∀ d' slot, makeLive d q.pathSet n = (d', slot) →
          (slot = none → e = qpResult d' n 3 0x2D) ∧
          (∀ i, slot = some i → ∃ g, e = fetchAnnounced g n ∧ qpAt g n = some { q with state := 2, liveSlot := i } ∧
            rd g .transportQpCmdQpn 0 = n ∧ rd g .transportQpCmdOp 0 = 3 ∧ rd g .transportQpCmdResult 0 = 0 ∧ rd g .yewSlotUserQpn q.txSlot = n ∧
            (runOf g n).wnd = some (wndNow d') ∧ g.tr.live = d'.tr.live ∧ keepsRegs d' g [(.transportSticky, 0), (.yewSlotUserQpn, q.txSlot),
              (.transportQpCmdQpn, 0), (.transportQpCmdOp, 0), (.transportQpCmdResult, 0)]))))

/-- R305, R307 to R309, R316, R332 to R334: a doorbell of the window's own queue pair holds its index, queue pair and queue in the window, moves the
queue's hint, and the queue fetches on. A malformed work request completes with 0x27 and becomes no message; any other becomes a
message. A record whose RTO expires takes a silent path down, or is lost and resent; past its limit, or that of RNR, or with no path up, the queue pair
enters ERROR with 0x20, 0x22 or 0x21. A placed packet not yet reported causes an ACK. A context that has been fetched lets the parked packets and
the users that waited for it go on. -/
def Obligations.SendQueueAndTimers : Prop :=
  (∀ (s : State) (win n i : Nat) (q : Qp), win < 64 → n < 2 ^ 24 → i < 2 ^ 32 → takesDriver s.dev → qpAt s.dev n = some q → q.part = win →
    1 ≤ q.state → q.state ≤ 3 →
    (∀ c rq, (c, rq) ∈ [(Instr.sqDoorbell win 8 (n * 2 ^ 32 + i), 0), (.rqDoorbell win 8 (2 ^ 56 + n * 2 ^ 32 + i), 1)] →
      ∃ e d, Answers c s e ∧ rd d .pwinQpDbIndex win = i ∧ rd d .pwinQpDbQpn win = n ∧ rd d .pwinQpDbQueue win = rq ∧
        d.tr.qps = s.dev.tr.qps ∧ onlyRegs { wake s.dev .laurel with tr := d.tr } d [(.pwinQpDbIndex, win), (.pwinQpDbQpn, win), (.pwinQpDbQueue, win)] ∧
        (rq = 0 → e = sqGo d n 64 ∧ runOf d n = { runOf s.dev n with sqHint := i } ∧ (q.state ≠ 2 → e = d)) ∧
        (rq = 1 → e = rqGo d n 64 ∧ runOf d n = { runOf s.dev n with rqHint := i } ∧ (q.state = 1 → e = d)))) ∧
  (∀ (s : State) (n op : Nat) (c : Instr) (q : Qp) (w : Nat × Desc),
    (op, c) ∈ [(1, Instr.sqWrite n), (2, .sqRead n), (3, .sqSend n), (4, .sqAtomic n)] → qpAt s.dev n = some q → nextWr s.dev n op = some w →
    let d := modRun s.dev n fun r => { r with wrs := r.wrs.drop 1 }
    ∃ e, Answers c s e ∧ (wrBad q w.2 = true → e = drainedCheck (drainSq 65536 (wrEnded d n w 0x27) n) n) ∧
      (wrBad q w.2 = false → e = newMsg (setQp d n (if op = 3 then { q with nextSsn := (q.nextSsn + 1) % 2 ^ 32 } else q)) (wrMsg n q w))) ∧
  (∀ (s : State) (n psn : Nat) (q : Qp) (r : Rec),
    (rtoArmed s.dev n psn = some (q, r) → ∃ e, Answers (.rtoExpiry n psn) s e ∧
      (let silent := r.expiries = 0 ∧ ∃ l p, liveOf s.dev q.pathSet = some l ∧ l.paths[r.path]? = some p ∧ p.up = true ∧ seqLt p.lastHeard r.sentTs = true
       (silent → e = pathDown s.dev q.pathSet r.path) ∧
       (¬ silent → q.retryMax ≤ r.expiries → e = qpError (bump (bump s.dev .transportRtoExpiries) .transportRetransmits) n 0x20) ∧
       (¬ silent → r.expiries < q.retryMax → rd e .transportRtoExpiries 0 = (rd s.dev .transportRtoExpiries 0 + 1) % 2 ^ 32 ∧
         rd e .transportRetransmits 0 = (rd s.dev .transportRetransmits 0 + 1) % 2 ^ 32 ∧
         onlyRegs { s.dev with tr := e.tr } e [(.transportRtoExpiries, 0), (.transportRetransmits, 0), (.transportWndCuts, 0)] ∧
         ∃ x ∈ e.tr.recs, x = { r with state := .lost, charged := 0, avoid := some r.path, passed := 0, expiries := r.expiries + 1 }))) ∧
    (recIn s.dev n psn .rnrWait = some (q, r) → ∃ e, Answers (.rnrResend n psn) s e ∧
      (q.rnrRetry ≠ 7 → q.rnrRetry ≤ r.rnr → e = qpError s.dev n 0x22) ∧
      ((q.rnrRetry = 7 ∨ r.rnr < q.rnrRetry) → rd e .transportRetransmits 0 = (rd s.dev .transportRetransmits 0 + 1) % 2 ^ 32 ∧
        onlyRegs { s.dev with tr := e.tr } e [(.transportRetransmits, 0)] ∧
        ∃ x ∈ e.tr.recs, x = { r with state := .unplaced, rnr := r.rnr + 1, resent := true })) ∧
    (recIn s.dev n psn .heldWait = some (q, r) → ∃ e, Answers (.heldResend n psn) s e ∧ { e with tr := s.dev.tr } = s.dev ∧
      ∃ x ∈ e.tr.recs, x = { r with state := .unplaced, resent := true }) ∧
    (isSet s.dev .transportCtrlEnable = true → qpAt s.dev n = some q → qpReceives q = true →
      ((runOf s.dev n).lostEvent = true → anyUp s.dev q.pathSet = false → ∃ e, Answers (.pathExhaustedTimer n) s e ∧ e = qpError s.dev n 0x21) ∧
      ((runOf s.dev n).pending = true →
        ∃ e, Answers (.ackDelayExpiry n) s e ∧ e = sendAck s.dev n (runOf s.dev n).echoTs (runOf s.dev n).echoPath 0 0 ∧
          (runOf e n).pending = false ∧ (runOf e n).unreported = 0))) ∧
  (∀ (d : Dev) (n c : Nat) (q : Qp), qpAt d n = some q → q.state ≠ 0 → q.state ≠ 5 → (msgsOf d n).all (·.done) = true →
    (qpAt (qpError d n c) n).map (fun x => (x.state, x.lastCause)) = some (5, c) ∧ recsOf (qpError d n c) n = []) ∧
  (∀ (s : State) (n : Nat), s.dev.tr.fetching.contains n = true ∨ (s.dev.tr.ctxWait.any fun w => w.1 == n) = true →
    ∃ e, Answers (.contextFetchDone n) s e ∧ e = fetchDone s.dev n ∧
      ((qpAt s.dev n).isSome = true → (∀ w ∈ s.dev.tr.ctxWait, w.1 ≠ n) →
        { e.tr with lru := s.dev.tr.lru } = { s.dev.tr with
          rx := (s.dev.tr.parked.filter fun r => r.p.destQpn = n) ++ s.dev.tr.rx
          parked := s.dev.tr.parked.filter fun r => r.p.destQpn ≠ n
          fetching := s.dev.tr.fetching.filter (· ≠ n) } ∧
        onlyRegs { s.dev with tr := e.tr } e [(.transportMissParkLevel, 0)]))

/-- R321 to R323, R325, R327: the oldest received packet is taken. One for a queue pair that has no context, is in no state to receive, comes from
another sender or has no key is counted in its own counter, and nothing else is done; one whose context is not resident is parked, or dropped and
counted when the park is full. Of an accepted request, one whose PSN lies beyond the window is counted, a duplicate is counted and answered again, a held one is
answered 2, and a new one has its opcode's effect, unless it is malformed: that is answered 4, with a cause the spec does not name (assumption log 80).
A malformed response is counted; any other response, acknowledgement and probe goes on as its own rule says. A WRITE that its region allows is placed and
its PSN received; one that no region allows is answered 3. The class of a PSN is its place in the window of 1,024 from RX_EXPECTED on. -/
def Obligations.ReceivedPackets : Prop :=
  (∀ (s : State) (op : Nat) (c : Instr) (r : RxPkt),
    (op, c) ∈ [(1, Instr.clahimWrite), (2, .readReq), (3, .readResp), (4, .send), (5, .clahimAtomic), (6, .atomicResp), (7, .attend), (8, .attendReply),
      (9, .reduce), (10, .ack), (11, .nak), (12, .probe), (13, .probeReply)] →
    rxFront s.dev op = some r →
    let n := r.p.destQpn
    let d := onTr s.dev fun t => { t with rx := t.rx.drop 1 }
    ∃ e, Answers c s e ∧
      (qpPlace d n = none → e = bump d .transportRxNoContext) ∧
      (qpPlace d n ≠ none → d.tr.fetching.contains n = true ∨ qpAt d n = none →
        (parkFits d r = false → e = bump d .transportParkDrops) ∧
        (parkFits d r = true → e.tr.parked = d.tr.parked ++ [r] ∧ n ∈ e.tr.fetching ∧ onlyRegs { d with tr := e.tr } e [(.transportMissParkLevel, 0)])) ∧
      (∀ q, qpPlace d n ≠ none → d.tr.fetching.contains n = false → qpAt d n = some q →
        (qpReceives q = false → e = bump d .transportRxStateDrops) ∧
        (qpReceives q = true →
          (r.p.srcIp ≠ q.remoteIp ∨ r.p.srcQpn ≠ q.remoteQpn → e = bump d .transportRxMalformed) ∧
          (r.p.srcIp = q.remoteIp → r.p.srcQpn = q.remoteQpn →
            (openUnder (touch d n) q.part q.rxSlot r.p.mark = .noKey → e = bump (touch d n) .yewNoKeyDrops) ∧
            (openUnder (touch d n) q.part q.rxSlot r.p.mark = .bad → e = authFail (touch d n) n q)))) ∧
      (∀ q g, accept d r = (g, some q) →
        (∀ dup k, (op, dup, k) ∈ [(1, dupAck, rxWrite), (2, dupRead, rxRead false), (4, dupAck, rxSend), (5, dupAtomic, rxAtomic), (7, dupAck, rxAttend),
            (8, dupAck, rxAttendReply), (9, dupAck, rxReduce)] →
          let g := if r.p.ecn = 3 then modRun g n fun x => { x with ece := x.ece + 1 } else g
          (rxClass q r.p.psn = .beyond → e = bump g .transportRxBeyondWindow) ∧
          (rxClass q r.p.psn = .dup → e = dup (bump g .transportRxDuplicates) q r) ∧
          (rxClass q r.p.psn = .new →
            (∀ h, holdOf g n r.p.psn = some h → h.aborted = false → e = nakFor g r 2) ∧
            (∀ h, holdOf g n r.p.psn = some h → h.aborted = true →
              e = refuse (dropHold g n r.p.psn) q r (if op = 2 then readPsns r.p else 1) 5 h.cause) ∧
            (holdOf g n r.p.psn = none → malformed r.p = true →
              ∃ c g', 0x20 ≤ c ∧ c ≤ 0x30 ∧ { g' with free := g.free } = g ∧ e = refuse g' q r 1 4 c) ∧
            (holdOf g n r.p.psn = none → malformed r.p = false → e = k g q r))) ∧
        (op ∈ [3, 6, 10, 11, 13] → malformed r.p = true → e = bump g .transportRxMalformed) ∧
        (∀ k, (op, k) ∈ [(3, rxReadResp), (6, rxAtomicResp), (13, probeBack)] → malformed r.p = false → e = k g q r) ∧
        (op = 10 → malformed r.p = false → e = afterAck (applyAck g n r.p) n) ∧
        (op = 11 → malformed r.p = false → let psn := cut r.p.ext 192 32
          (recAt g n psn = none → e = afterAck (applyAck g n r.p) n) ∧
          (∀ x m, recAt g n psn = some x → msgById g x.msg = some m →
            e = afterAck (applyAck (nakRec g x m psn (cut r.p.ext 176 8)) n r.p) n)) ∧
        (op = 12 → e = enqueueReady g n { basePacket g n q 13 with
          ext := packFields [(0, 32, cut r.p.ext 0 32), (32, 6, r.p.path), (64, 32, r.p.txTs)] }))) ∧
  (∀ (d d' : Dev) (q : Qp) (r : RxPkt), let check := regionCheck d q.part q.pd r.p.fa (q.faEnable = 1) r.p.rh r.p.addr r.p.length 3
    (check = (d', none) → rxWrite d q r = refuse d' q r 1 3 0x23) ∧
    (∀ t d'', check = (d', some t) →
      (∀ x, rxPlace d' q .other t r.p.payload = (d'', .ok x) → rxWrite d q r = placed d'' r 1) ∧
      (∀ x, rxPlace d' q .other t r.p.payload = (d'', .mfail x) → rxWrite d q r = refuse d'' q r 1 (memSynd x) x))) ∧
  (∀ (d : Dev) (q : Qp) (r : RxPkt) (k : Nat), qpAt d r.p.destQpn = some q →
    (qpAt (placed d r k) r.p.destQpn).map (fun x => (x.rxExpected, x.rxMap, x.rxHigh)) =
      some ((rxMark q r.p.psn k).rxExpected, (rxMark q r.p.psn k).rxMap, (rxMark q r.p.psn k).rxHigh)) ∧
  (∀ (q : Qp) (x : Nat), q.rxExpected < 2 ^ 32 → x < 2 ^ 32 →
    let psn := (q.rxExpected + x) % 2 ^ 32
    (x < 1024 → (rxClass q psn = .new ↔ bitOf q.rxMap (psn % 1024) = false) ∧ rxClass q psn ≠ .beyond) ∧
    (1024 ≤ x → x < 2 ^ 31 → rxClass q psn = .beyond) ∧ (2 ^ 31 ≤ x → rxClass q psn = .dup))

/-- R342, R346, R356 to R362: a transmit opportunity first counts heads held back as red and then sends the frame its turn order gives, a raw one as it
stands, any other once it is built and sealed; a path-set invalidation of a set that is not live changes only its register, of a live one it takes the set's descriptors
from memory, with every path that is no longer valid down and every newly valid one up; probes go to the down paths; each meter of a port gains its
refill up to its bucket and no other port's changes; a packet is red above the peak bucket, yellow above the committed one. -/
def Obligations.PathsAndTransmission : Prop :=
  (∀ (s : State) (sub : Nat), inRun s.dev = true → subUp s.dev sub = true → ∃ e d, Answers (.transmitOpportunity sub) s e ∧
    d = noteRed (pumpAll s.dev) sub ∧ e = opportunity sub (d.top.queue.length + 1) d ∧ (pick d sub = none → e = d) ∧
    (∀ p r, pick d sub = some (p, r) →
      (∀ i tag bs ts cqe, p.body = .raw i tag bs ts cqe → e = sendRaw d p i tag bs ts cqe r) ∧
      (∀ g x t, (∀ i tag bs ts cqe, p.body ≠ .raw i tag bs ts cqe) → buildPkt d p = (g, .ok x) → sendPkt g p x r = (t, true) → e = t))) ∧
  (∀ (s : State) (set : Nat), set < 65536 → takesDriver s.dev → ∃ e, Answers (.pathsetInval set) s e ∧
    (liveOf s.dev set = none → rd e .transportPathsetInvalSet 0 = set ∧ onlyRegs s.dev e [(.transportPathsetInvalSet, 0)]) ∧
    (∀ l d ds, liveOf s.dev set = some l → readSet (wr s.dev .transportPathsetInvalSet 0 set) set = (d, ds) →
      ∃ l', liveOf e set = some l' ∧ l'.descs = ds ∧ l'.paths.length = l.paths.length ∧
        (∀ i, i < 64 → pathValid d (ds.getD i 0) = false → (l'.paths[i]?).any (·.up) = false) ∧
        (∀ i, i < l.paths.length → pathValid d (ds.getD i 0) = true → pathValid d (l.descs.getD i 0) = false →
          l'.paths[i]? = some (freshPath d (ds.getD i 0))))) ∧
  (∀ (s : State) (set n : Nat) (l : LiveSet) (q : Qp), inRun s.dev = true → isSet s.dev .transportCtrlEnable 0 = true →
    liveOf s.dev set = some l → probeOwner s.dev l = some (n, q) → probePaths s.dev l ≠ [] →
    ∃ e, Answers (.probeTimer set) s e ∧ e = probeEffect s.dev l n q) ∧
  (∀ (s : State) (port : Nat), port < 8 → s.dev.boot.powered = true → ∃ e, Answers (.meterRefill port) s e ∧ { e with top := s.dev.top } = s.dev ∧
    (∀ m b, find? s.dev.top.buckets m = some b → m / 255 ≠ port → find? e.top.buckets m = some b) ∧
    (∀ m b, find? s.dev.top.buckets m = some b → m / 255 = port → ∃ b', find? e.top.buckets m = some b' ∧
      b'.tp = min (bucketSize s.dev (rd s.dev .topiaryMeterPbs m) * 1024) (b.tp + rd s.dev .topiaryMeterPir m * 1024 / 1000) ∧
      b'.tc = min (bucketSize s.dev (rd s.dev .topiaryMeterCbs m) * 1024)
        (b.tc + min (rd s.dev .topiaryMeterCir m) (rd s.dev .topiaryMeterPir m) * 1024 / 1000))) ∧
  (∀ (d : Dev) (p : TxPkt), (meterOf d p = none → colourOf d p = .green) ∧
    (∀ m, meterOf d p = some m → (colourOf d p = .red ↔ (bucketsOf d m).tp < counted d p * 1024) ∧
      (colourOf d p = .yellow ↔ counted d p * 1024 ≤ (bucketsOf d m).tp ∧ (bucketsOf d m).tc < counted d p * 1024)))

/-! ### Ports, raw frames, device time -/

/-- R366 to R370, R372, R377: starting or stopping a port leaves its sub-ports down with LOS as the bit says; a port that may not start, or runs
already, is left alone. Signal lost takes a link down, signal restored starts the hold, and its end brings the link up
with one event. A frame on a link that is down, damaged, short, long or not for the sub-port is dropped and counted in its counter, any other goes
to the transport engine or, with its timestamp, to the raw ring. R382 to R388: a raw doorbell has an effect in partition 0's window alone; it holds its index, sub-port
and ring there, and a transmit ring fetches on. A raw descriptor that breaks the rules completes with 0xD6, one whose link is down with 0xD0, any other
joins the transmit queue with its FCS once its frame is read; one whose frame page does not translate stops the rings (assumption log 147). A received
frame with no buffer is counted lost; a placed one completes with its first buffer, count and length. -/
def Obligations.PortsAndFrames : Prop :=
  (∀ (s : State) (port val : Nat), port < 8 → takesDriver s.dev → ∃ e, Answers (.portEnable port val) s e ∧
    (bitOf val 0 = true → rd s.dev .portCfgMode port = 3 ∨ isSet s.dev .portCtrlEnable port = true → e = s.dev) ∧
    (¬ (bitOf val 0 = true ∧ (rd s.dev .portCfgMode port = 3 ∨ isSet s.dev .portCtrlEnable port = true)) →
      e = (subsOf s.dev port).foldl (fun d k => wr (linkDown d k) .portsubLinkLos k (bit (bitOf val 0))) (wr s.dev .portCtrlEnable port (bit (bitOf val 0))) ∧
      ((∀ k, k < 4 → rd s.dev .portsubLinkState (4 * port + k) ≠ 2) →
      rd e .portCtrlEnable port = bit (bitOf val 0) ∧
      (∀ k, k < 4 → subExists s.dev (4 * port + k) = true →
        rd e .portsubLinkState (4 * port + k) = 0 ∧ rd e .portsubLinkLos (4 * port + k) = bit (bitOf val 0)) ∧
      onlyRegs s.dev e ((.portCtrlEnable, port) :: (List.range 4).flatMap fun k =>
        [(.portsubLinkState, 4 * port + k), (.portsubLinkLos, 4 * port + k)])))) ∧
  (∀ (s : State) (sub : Nat), subRuns s.dev sub = true → isSet s.dev .portsubLinkLos sub = false →
    (∃ e d, Answers (.subportLossOfSignal sub) s e ∧ rd d .portsubLinkLos sub = 1 ∧ rd d .portsubLinkState sub = 0 ∧
      onlyRegs s.dev d [(.portsubLinkLos, sub), (.portsubLinkState, sub)] ∧ (rd s.dev .portsubLinkState sub ≠ 2 → e = d) ∧
      (rd s.dev .portsubLinkState sub = 2 → e = subDown (portEvent (portCount d sub 14 1) sub 0xD0 0) sub)) ∧
    (rd s.dev .portsubLinkState sub = 1 → ∃ e, Answers (.linkHoldExpiry sub) s e ∧ rd e .portsubLinkState sub = 2 ∧
      keepsRegs s.dev e [(.portsubLinkState, sub)] ∧ e.hl.entries.length = s.dev.hl.entries.length + 1)) ∧
  (∀ (s : State) (sub : Nat), subRuns s.dev sub = true → isSet s.dev .portsubLinkLos sub = true →
    ∃ e, Answers (.subportSignalRestored sub) s e ∧ rd e .portsubLinkLos sub = 0 ∧ rd e .portsubLinkState sub = 1 ∧
      onlyRegs s.dev e [(.portsubLinkLos, sub), (.portsubLinkState, sub)]) ∧
  (∀ (s : State) (sub : Nat) (f : Frame), sub < subports → ∃ e, Answers (.ethernetFrameReceive sub f) s e ∧
    (subUp s.dev sub = false → e = s.dev) ∧
    (subUp s.dev sub = true →
      let d := fecCount s.dev sub f
      let d' := portCount (portCount d sub 2 1) sub 3 f.length
      (f.fcsOk = false ∨ f.fecUncorrectable ≠ 0 → e = portCount d sub 4 1) ∧
      (f.fcsOk = true → f.fecUncorrectable = 0 → (f.length < 64 → e = portCount d sub 6 1) ∧ (9216 < f.length → e = portCount d sub 5 1) ∧
        (64 ≤ f.length → f.length ≤ 9216 → (macTaken s.dev sub f.dstMac = false ∨ vidTaken s.dev sub f = false ∨ isPause f = true →
            e = portCount d' sub 7 1) ∧
          (macTaken s.dev sub f.dstMac = true → vidTaken s.dev sub f = true → isPause f = false →
            (∀ p, clahimOf s.dev f = some p → e = toTransport d' sub f p) ∧
            (clahimOf s.dev f = none → isSet s.dev .portsubRawCfgRxEn sub = false → e = portCount d' sub 7 1) ∧
            (clahimOf s.dev f = none → isSet s.dev .portsubRawCfgRxEn sub = true →
              let ts := stamp d' sub 16
              e = portCount (onTr ts.2 fun t => { t with rawRx := t.rawRx ++ [(sub, ts.1, f)] }) sub 8 1)))))) ∧
  (∀ (s : State) (win width val sub i : Nat) (c : Instr) (tx : Nat), win < 64 → sub < 32 → i < 2 ^ 32 → takesDriver s.dev →
    ((c, tx) = (.rawRxDoorbell win width val, 0) ∨ (c, tx) = (.rawTxDoorbell win width val, 1)) → bitOf val 37 = (tx == 1) → ∃ e, Answers c s e ∧
    (win ≠ 0 → e = wake s.dev .laurel) ∧
    (win = 0 → width ≠ 8 ∨ 2 ^ 38 ≤ val → rd e .pwinDbDiscards win = (rd s.dev .pwinDbDiscards win + 1) % 2 ^ 32 ∧
      onlyRegs (wake s.dev .laurel) e [(.pwinDbDiscards, win)]) ∧
    (win = 0 → width = 8 → val = tx * 2 ^ 37 + sub * 2 ^ 32 + i → ∃ d, rd d .pwinRawDbIndex 0 = i ∧ rd d .pwinRawDbSubport 0 = sub ∧
      rd d .pwinRawDbRing 0 = tx ∧
      onlyRegs { wake s.dev .laurel with port := d.port } d [(.pwinRawDbIndex, 0), (.pwinRawDbSubport, 0), (.pwinRawDbRing, 0)] ∧
      (tx = 1 → e = rawGo d sub 64 ∧ getD d.port.txHint sub 0 = i) ∧
      (tx = 0 → d.port = s.dev.port ∧ e = if inRun s.dev ∧ isSet s.dev .portsubRawCfgRxEn sub then prefetch sub 17 d else d))) ∧
  (∀ (s : State) (sub i : Nat) (x : Desc), rawFront s.dev sub = some (i, x) → ∃ e, Answers (.rawTransmit sub) s e ∧
    let pop := fun (d : Dev) => onPort d fun p => { p with rawTx := putD p.rawTx sub ((getD p.rawTx sub []).drop 1) [] }
    (rawBad x = true → e = rawFails (pop s.dev) sub i x 0xD6) ∧
    (rawBad x = false → subUp s.dev sub = false → e = rawFails (pop s.dev) sub i x 0xD0) ∧
    (rawBad x = false → subUp s.dev sub = true → ∀ d r, dvaRead s.dev (rawAgent sub) 0 (fieldAt x 8 0 64) (fieldAt x 0x10 0 16) true = (d, r) →
      (r = .wait → e = d) ∧ (∀ c, r = .mfail c → e = rawFails (pop d) sub i x c) ∧
      (∀ a c l f, r = .xfail a c l f → e = rawStop (rawFails (pop d) sub i x 0xD5) sub) ∧
      (∀ bs, r = .ok bs → ∃ p : TxPkt, p.sub = sub ∧ p.len = fieldAt x 0x10 0 16 + 4 ∧ p.cls = fieldAt x 1 0 3 ∧
        p.body = .raw i (fieldAt x 4 0 32) bs (fieldAt x 0 6 1 == 1) (fieldAt x 0 5 1 == 1) ∧
        e = onTop (pop d) fun t => { t with queue := t.queue ++ [p] }))) ∧
  (∀ (s : State) (sub ts : Nat) (f : Frame), rawRxFront s.dev sub = some (ts, f) → ∃ e, Answers (.rawFrameReceive sub) s e ∧
    let pop := fun (d : Dev) => onTr d fun t => { t with rawRx := t.rawRx.erase (sub, ts, f) }
    ∀ d r, fillBufs sub 64 (frameBytes s.dev f).2 0 0 0 (frameBytes s.dev f).1 = (d, r) →
      (r = .wait → onlyRegs { s.dev with xl := { s.dev.xl with lookups := d.xl.lookups } } e [(.xlateInvalStalls, 0)]) ∧
      (r = .bad → e = portCount (rawStop (pop d) sub) sub 9 1) ∧
      (∀ a b h, r = .done a 0 b h → e = portCount (pop d) sub 9 1) ∧
      (∀ a n b h, r = .done a (n + 1) b h → let g := if h then portCount (pop d) sub 10 1 else pop d
        e = postCq g (rd g .portsubRawCfgCq sub) (rawEntry sub a (n + 1) (f.length - 4) b ts h f.tag.isSome) (.raw sub)))

/-- R375, R376: TIME_SET sets device time, TIME_STEP adds to it modulo 2^64, each counted in STEPS, and running lists restart at their first instant not before the new time; a rate adjustment
changes only its register. R378 to R381: a gate list change that waits already, or breaks the rules, has no effect but its
count or event; another one waits for its start instant, at least one whole cycle away when its base has passed; cancelling clears it;
at its start the banks change over; an entry's end brings the next entry. -/
def Obligations.TimeAndGates : Prop :=
  (∀ (s : State) (v : Nat), v < 2 ^ 64 → takesDriver s.dev →
    (∃ e, Answers (.timeSet v) s e ∧ now e = v ∧ rd e .timeSteps 0 = (rd s.dev .timeSteps 0 + 1) % 2 ^ 32 ∧ e.port.frac = 0 ∧
      onlyRegs { s.dev with port := e.port } e [(.timeSetNs, 0), (.timeNowNs, 0), (.timeSteps, 0)]) ∧
    (∃ e, Answers (.timeStep v) s e ∧ now e = (now s.dev + v) % 2 ^ 64 ∧ rd e .timeSteps 0 = (rd s.dev .timeSteps 0 + 1) % 2 ^ 32 ∧
      e.port.frac = s.dev.port.frac ∧ onlyRegs { s.dev with port := e.port } e [(.timeStepNs, 0), (.timeNowNs, 0), (.timeSteps, 0)]) ∧
    (∀ c t, (c, t) ∈ [(Instr.timeSet v, v), (.timeStep v, (now s.dev + v) % 2 ^ 64)] → ∃ e, Answers c s e ∧
      ∀ sub g, find? s.dev.port.gates sub = some g → 1 ≤ g.cycle → ∃ g', find? e.port.gates sub = some g' ∧ g'.next = 0 ∧ g'.gates = g.gates ∧
        t ≤ g'.endAt ∧ (t ≤ g.base → g'.endAt = g.base) ∧ (g.base < t → g'.endAt < t + g.cycle ∧ (g'.endAt - g.base) % g.cycle = 0)) ∧
    (∃ e, Answers (.timeAdjust v) s e ∧ rd e .timeAdjPpb 0 = v % 2 ^ 32 ∧ onlyRegs s.dev e [(.timeAdjPpb, 0)])) ∧
  (∀ (s : State) (sub : Nat), sub < subports → takesDriver s.dev →
    (∃ e, Answers (.gateChange sub) s e ∧
      (isSet s.dev .portsubGateCtrlPending sub = true →
        rd e .portsubGateWriteDiscards sub = (rd s.dev .portsubGateWriteDiscards sub + 1) % 2 ^ 32 ∧
        onlyRegs s.dev e [(.portsubGateWriteDiscards, sub)]) ∧
      (isSet s.dev .portsubGateCtrlPending sub = false → gateAdminOk s.dev sub = false → keepsRegs s.dev e [] ∧ e.port = s.dev.port) ∧
      (isSet s.dev .portsubGateCtrlPending sub = false → gateAdminOk s.dev sub = true → isSet e .portsubGateCtrlPending sub = true ∧
        e.port = s.dev.port ∧ keepsRegs s.dev e [(.portsubGateCtrlPending, sub), (.portsubGateStart, sub), (.portsubGateLateStarts, sub)] ∧
        (now s.dev ≤ rd s.dev .portsubGateAdminBase sub →
          rd e .portsubGateStart sub = rd s.dev .portsubGateAdminBase sub % 2 ^ 64 ∧
          rd e .portsubGateLateStarts sub = rd s.dev .portsubGateLateStarts sub) ∧
        (rd s.dev .portsubGateAdminBase sub < now s.dev → ∃ n, let t := rd s.dev .portsubGateAdminBase sub + n * rd s.dev .portsubGateAdminCycleNs sub
          rd e .portsubGateStart sub = t % 2 ^ 64 ∧ now s.dev + rd s.dev .portsubGateAdminCycleNs sub ≤ t ∧
          t < now s.dev + 2 * rd s.dev .portsubGateAdminCycleNs sub ∧
          rd e .portsubGateLateStarts sub = (rd s.dev .portsubGateLateStarts sub + 1) % 2 ^ 32))) ∧
    (∃ e, Answers (.gateCancel sub) s e ∧ onlyRegs s.dev e [(.portsubGateCtrlPending, sub)] ∧
      (now s.dev < rd s.dev .portsubGateStart sub → isSet e .portsubGateCtrlPending sub = false) ∧
      (rd s.dev .portsubGateStart sub ≤ now s.dev → e = s.dev))) ∧
  (∀ (s : State) (sub : Nat), sub < subports → isSet s.dev .portsubGateCtrlPending sub = true → rd s.dev .portsubGateStart sub ≤ now s.dev →
    ∃ e, Answers (.gateStart sub) s e ∧ isSet e .portsubGateCtrlPending sub = false ∧
      rd e .portsubGateCtrlOperBank sub = (1 - rd s.dev .portsubGateCtrlOperBank sub) % 2 ∧
      isSet e .portsubGateCtrlRunning sub = isSet s.dev .portsubGateAdminEnable sub ∧
      (isSet s.dev .portsubGateAdminEnable sub = false → openGates e sub = 0xFF) ∧
      (isSet s.dev .portsubGateAdminEnable sub = true →
        openGates e sub = cut (gateEntry s.dev sub ((1 - rd s.dev .portsubGateCtrlOperBank sub) % 2) 0) 0 8) ∧
      onlyRegs { s.dev with port := e.port } e
        [(.portsubGateCtrlPending, sub), (.portsubGateCtrlOperBank, sub), (.portsubGateCtrlRunning, sub)]) ∧
  (∀ (s : State) (sub : Nat) (g : GateRun), gateDue s.dev sub = some g → ∃ e, Answers (.gateEntryEnd sub) s e ∧
    find? e.port.gates sub = some (gateAdvance s.dev sub g) ∧
    openGates e sub = cut (gateEntry s.dev sub (rd s.dev .portsubGateCtrlOperBank sub) g.next) 0 8 ∧
    onlyRegs { s.dev with port := e.port } e [(.portsubGateCtrlRunning, sub)])

/-! ### Collectives -/

/-- R391 to R394, R397, R406, R408: group commands answer in COLL_CMD.RESULT, unless one still waits; a loaded group has its members and state 1, an
unloaded one none and state 0; a command that its state forbids changes nothing but the command register. A doorbell moves its queue's hint, and the queue
fetches on. A descriptor at the head of the queue completes refused with 0xDD or 0xDB or becomes its group's collective; those of the reserved OP behind it
complete with 0xDD. A repeat opens its round; its end signals, and the last one ends the collective; a round past its time fails the group with
0xD9, with one completion and one event, and leaves free bytes in what it has not written. -/
def Obligations.Collectives : Prop :=
  (∀ (s : State) (g : Nat), g < 256 → takesDriver s.dev →
    (isSet s.dev .transportCollCmdBusy = true → Answers (.groupLoad g) s s.dev ∧ Answers (.groupUnload g) s s.dev) ∧
    (isSet s.dev .transportCollCmdBusy = false → ∃ e, Answers (.groupLoad g) s e ∧
      (rd s.dev .transportCollGroupState g ≠ 0 ∨ hbmEnd < rd s.dev .transportCollCmdAddr 0 * 64 + 64 →
        rd e .transportCollCmdGroup 0 = g ∧ rd e .transportCollCmdOp 0 = 1 ∧ rd e .transportCollCmdResult 0 = 0xDD ∧
        onlyRegs s.dev e [(.transportCollCmdGroup, 0), (.transportCollCmdOp, 0), (.transportCollCmdResult, 0)]) ∧
      (∀ d x, groupLoadGo s.dev g = (d, x) →
        (∀ c, x = .ok c → rd e .transportCollCmdGroup 0 = g ∧ rd e .transportCollCmdOp 0 = 1 ∧ rd e .transportCollCmdResult 0 = c % 256 ∧
          onlyRegs d e [(.transportCollCmdGroup, 0), (.transportCollCmdOp, 0), (.transportCollCmdResult, 0)]) ∧
        (x = .ok 0 → rd e .transportCollGroupState g = 1 ∧ rd e .transportCollGroupRound g = 0 ∧ rd e .transportCollGroupLastCause g = 0 ∧
          ∃ c, find? e.coll.groups g = some c ∧ rd e .transportCollGroupPartition g = c.part ∧ 2 ≤ c.members.length ∧ c.members.length ≤ 128 ∧
            c.rank < c.members.length ∧ 1 ≤ c.timeoutMs) ∧
        (∀ n, x = .error n → rd e .transportCollCmdBusy 0 = 1 ∧ e.tr.ctxWait = d.tr.ctxWait ++ [(n, .group g)] ∧ e.coll = d.coll))) ∧
    (isSet s.dev .transportCollCmdBusy = false → ∃ e, Answers (.groupUnload g) s e ∧ rd e .transportCollCmdGroup 0 = g ∧ rd e .transportCollCmdOp 0 = 2 ∧
      (rd s.dev .transportCollGroupState g = 2 → rd e .transportCollCmdResult 0 = 0xDD ∧
        onlyRegs s.dev e [(.transportCollCmdGroup, 0), (.transportCollCmdOp, 0), (.transportCollCmdResult, 0)]) ∧
      (rd s.dev .transportCollGroupState g ≠ 2 → rd e .transportCollCmdResult 0 = 0 ∧ rd e .transportCollGroupState g = 0 ∧
        find? e.coll.groups g = none ∧ (∀ m ∈ e.coll.waiting, m.group ≠ g) ∧ ∀ h, h ≠ g → find? e.coll.groups h = find? s.dev.coll.groups h))) ∧
  (∀ (s : State) (win i : Nat), win < 64 → i < 2 ^ 32 → takesDriver s.dev → ∃ e d, Answers (.collDoorbell win 8 i) s e ∧
    e = collGo d win 64 ∧ rd d .pwinCollDbIndex win = i ∧ onlyRegs (wake s.dev .laurel) d [(.pwinCollDbIndex, win)]) ∧
  (∀ (s : State) (p op : Nat) (i : Instr) (w : Desc), (i, op) ∈ [(Instr.allReduce p, 1), (.reduceScatter p, 2), (.allGather p, 3)] →
    collHead s.dev p op = some w →
    let g := collGroupOf w
    ∃ e d, Answers i s e ∧ e = collSkip p ((collQueue s.dev p).drop 1) d ∧ (collDescBad w = true → d = collRefused s.dev p w 0xDD) ∧
      (collDescBad w = false → find? s.dev.coll.groups g = none → d = collRefused s.dev p w 0xDB) ∧
      (∀ c, collDescBad w = false → find? s.dev.coll.groups g = some c →
        (rd s.dev .transportCollGroupState g = 3 → d = collRefused s.dev p w 0xDB) ∧
        (rd s.dev .transportCollGroupState g ≠ 3 → c.part ≠ p ∨ collShapeBad w c = true → d = collRefused s.dev p w 0xDD) ∧
        (rd s.dev .transportCollGroupState g ≠ 3 → c.part = p → collShapeBad w c = false →
          rd e .transportCollGroupState g = 2 ∧
          collRun? e g = some { part := p, desc := w, round := rd s.dev .transportCollGroupRound g } ∧
          e.coll.groups = s.dev.coll.groups ∧ keepsRegs s.dev e [(.transportCollGroupState, g)] ∧
          d = setCollRun (wr s.dev .transportCollGroupState g 2) g { part := p, desc := w, round := rd s.dev .transportCollGroupRound g }))) ∧
  (∀ (d : Dev) (p : Nat) (l : List (Nat × Desc)), (∀ x, l.head? = some x → collOp x.2 ≠ 0) → collSkip p l d = setCollQueue d p l) ∧
  (∀ (d : Dev) (p h : Nat) (w : Desc) (t : List (Nat × Desc)), collOp w = 0 → collSkip p ((h, w) :: t) d = collSkip p t (collRefused d p w 0xDD)) ∧
  (∀ (s : State) (g : Nat) (c : CollGroup) (r : CollRun), repeatReady s.dev g = some (c, r) → ∃ e d r', Answers (.collectiveRepeatStart g) s e ∧
    e = collPump (d.coll.waiting.length + 1) d g ∧ d = collFirstSends r' g c r.desc ∧
    rd r' .transportCollGroupRound g = (rd s.dev .transportCollGroupRound g + 1) % 2 ^ 32 ∧
    rd r' .transportCollStarted 0 = (rd s.dev .transportCollStarted 0 + 1) % 2 ^ 32 ∧
    (∃ x, collRun? r' g = some x ∧ x.round = rd s.dev .transportCollGroupRound g ∧ x.active = true ∧ x.written = [] ∧ x.rep = r.rep ∧ x.desc = r.desc) ∧
    (collOp r.desc ≠ 3 → r'.coll.waiting = s.dev.coll.waiting) ∧
    (collOp r.desc = 3 → ∃ m, r'.coll.waiting = m :: s.dev.coll.waiting ∧ m.group = g ∧ m.from_ = c.rank ∧ m.chunk = c.rank) ∧
    onlyRegs { s.dev with coll := r'.coll } r' [(.transportCollGroupRound, g), (.transportCollStarted, 0)]) ∧
  (∀ (s : State) (g : Nat) (c : CollGroup) (r : CollRun), roundReady s.dev g = some (c, r) → ∃ e d r', Answers (.collectiveSignal g) s e ∧
    r' = { r with rep := r.rep + 1, active := false, acc := none, accSpace := 0 } ∧
    d = setCollRun (collSignalGo (collFree s.dev g r.accSpace) r) g r' ∧
    (r.rep + 1 < collRepeat r.desc → e = d) ∧
    (collRepeat r.desc ≤ r.rep + 1 → e = collEnd (wr d .transportCollGroupState g 1) g r' 0 ∧ collRun? e g = none)) ∧
  (∀ (s : State) (g : Nat) (r : CollRun), collRun? s.dev g = some r → r.active = true → roundReady s.dev g = none →
    ∃ e d, Answers (.collectiveRoundTimeout g) s e ∧ d = collLoose s.dev g r ∧ rd e .transportCollGroupState g = 3 ∧
      rd e .transportCollGroupLastCause g = 0xD9 ∧ rd e .transportCollFailed 0 = (rd d .transportCollFailed 0 + 1) % 2 ^ 32 ∧ collRun? e g = none ∧
      { e.mem with sram := d.mem.sram } = d.mem ∧ e.hl.entries.length = d.hl.entries.length + 2 ∧
      keepsRegs d e [(.transportCollGroupState, g), (.transportCollGroupLastCause, g), (.transportCollFailed, 0), (.transportCollBufLevel, 0)] ∧
      ((∀ c, find? s.dev.coll.groups g = some c → ∀ k ∈ dstChunks c r.desc, collS r.desc ≤ getD r.written k 0) → d = s.dev))

/-! ### Keys, attestation -/

/-- R421 to R427, R432 to R434, R413: while BUSY a slot command changes only SLOT_CMD's operands; otherwise a loaded KEK shadow is active for it first. A load or
save that the state of the slot, its kind, the alarm or CLEAR_SAVE_EN forbids gives its cause in RESULT; a clear load takes the record and zeroes it; a wrapped
load takes the record that unwraps under the KEK, or gives 0x85; a save writes the slot's record, wrapped under the KEK or clear, and gives its
write's cause; an erase of an empty or failed slot is done at once, of a loaded one when its operations have left; a key word error fails the slot; the
alarm wipes every slot and sends its users to ERROR; an engine that mismatches leaves service; TABLE_INVAL removes what it names. R436, R437: GO of a
report is without effect while BUSY; a buffer that does not translate with every page pinned sets ERR; a report read and written whole clears
BUSY, counts itself and passes the turn on. -/
def Obligations.KeySlots : Prop :=
  (∀ (s : State) (k kek op : Nat) (i : Instr), (i, op) ∈ [(Instr.loadClear k, 1), (.loadWrapped k kek, 2), (.erase k, 3), (.saveClear k, 4),
      (.saveWrapped k kek, 5)] → k < keySlots → kek < keySlots → takesDriver s.dev →
    let d0 := if op = 2 ∨ op = 5 then slotCmdKek s.dev k op kek else slotCmd s.dev k op
    let g := keksDue d0
    let a := rd s.dev .yewSlotCmdAddr 0 * 64
    ∃ e, Answers i s e ∧
    (isSet s.dev .yewSlotCmdBusy 0 = true → rd e .yewSlotCmdSlot 0 = k ∧ rd e .yewSlotCmdOp 0 = op ∧
      onlyRegs s.dev e [(.yewSlotCmdSlot, 0), (.yewSlotCmdOp, 0), (.yewSlotCmdKek, 0)]) ∧
    ((∀ x ∈ s.dev.yew.keys, x.2.shadow = none ∨ rd s.dev .yewSlotKind x.1 ≠ 3) → g = d0) ∧
    (isSet s.dev .yewSlotCmdBusy 0 = false →
      (op ≤ 2 → isSet g .yewStatusAlarm 0 = true → e = wr g .yewSlotCmdResult 0 0x82) ∧
      (op ≤ 2 → isSet g .yewStatusAlarm 0 = false → slotUsable g k = false ∨ hbmEnd < a + (if op = 1 then 48 else 56) ∨ (op = 2 ∧ kekOf g kek = none) →
        e = wr g .yewSlotCmdResult 0 0x84) ∧
      (op = 4 → isSet g .yewCfgClearSaveEn 0 = false ∨ sealedNow g (rd g .yewSlotOwner k) = true → e = wr g .yewSlotCmdResult 0 0x84) ∧
      (4 ≤ op → rd g .yewSlotState k ≠ 1 ∨ rd g .yewSlotKind k = 0 → e = wr g .yewSlotCmdResult 0 0x84) ∧
      (op = 1 → isSet g .yewStatusAlarm 0 = false → slotUsable g k = true → a + 48 ≤ hbmEnd → ∀ d c bs, dpaRead g 0x2005 a 48 = (d, c, bs) →
        (∀ x, c = some x → e = wr d .yewSlotCmdResult 0 x) ∧
        (∀ d' x, c = none → loadRecord d k bs = (d', x) →
          (x ≠ 0 → e = wr d' .yewSlotCmdResult 0 x) ∧
          (x = 0 → e = wr (dpaWrite d' 0x2005 a (List.replicate 48 0)).1 .yewSlotCmdResult 0 0))) ∧
      (op = 2 → isSet g .yewStatusAlarm 0 = false → slotUsable g k = true → a + 56 ≤ hbmEnd → ∀ key d c bs, kekOf g kek = some key →
        dpaRead g 0x2005 a 56 = (d, c, bs) →
        (∀ x, c = some x → e = wr d .yewSlotCmdResult 0 x) ∧
        (c = none → let x := ((keyUnwrap key bs).filter fun x => x.length == 48).elim (bump d .yewUnwrapFails, 0x85) (loadRecord d k)
          e = wr x.1 .yewSlotCmdResult 0 x.2)) ∧
      (op = 4 → ∀ d bs, isSet g .yewCfgClearSaveEn 0 = true → sealedNow g (rd g .yewSlotOwner k) = false → saveCheck g k = (d, some bs) →
        e = wr (saveAt d 48 bs).1 .yewSlotCmdResult 0 (saveAt d 48 bs).2) ∧
      (∀ d, 4 ≤ op → (op = 4 → isSet g .yewCfgClearSaveEn 0 = true ∧ sealedNow g (rd g .yewSlotOwner k) = false) → saveCheck g k = (d, none) →
        e = wr d .yewSlotCmdResult 0 0x84) ∧
      (op = 5 → ∀ d bs, saveCheck g k = (d, some bs) → (kekOf d kek = none → e = wr d .yewSlotCmdResult 0 0x84) ∧
        (∀ key, kekOf d kek = some key →
          e = wr (saveAt d 56 (keyWrap key bs)).1 .yewSlotCmdResult 0 (saveAt d 56 (keyWrap key bs)).2)) ∧
      (op = 3 → rd g .yewSlotState k = 1 → rd e .yewSlotState k = 2 ∧ isSet e .yewSlotCmdBusy 0 = true ∧
        onlyRegs g e [(.yewSlotState, k), (.yewSlotCmdBusy, 0)]) ∧
      (op = 3 → rd g .yewSlotState k ≠ 1 → rd e .yewSlotState k = 0 ∧ rd e .yewSlotCmdResult 0 = 0 ∧ keysOf e k = {}))) ∧
  (∀ (d : Dev) (k : Nat) (bs : List Byte) (h : KeyHalf), rd d .yewSlotKind k ≠ 0 → recordOf bs = some (rd d .yewSlotKind k, h) →
    let x := loadRecord d k bs
    x.2 = 0 ∧
    (rd d .yewSlotState k = 0 → rd x.1 .yewSlotState k = 1 ∧ rd x.1 .yewSlotSealCount k = 0 ∧ (keysOf x.1 k).active = some h ∧
      onlyRegs { d with yew := x.1.yew } x.1 [(.yewSlotState, k), (.yewSlotSealCount, k), (.yewSlotNcFloor, k)]) ∧
    (rd d .yewSlotState k ≠ 0 → activeAtOnce d k = false → rd x.1 .yewSlotShadow k = 1 ∧ keysOf x.1 k = { keysOf d k with shadow := some h } ∧
      onlyRegs { d with yew := x.1.yew } x.1 [(.yewSlotShadow, k)])) ∧
  (∀ (s : State) (k : Nat), k < keySlots → rd s.dev .yewSlotState k = 2 → rd s.dev .yewSlotInflight k = 0 →
    ∃ e, Answers (.eraseComplete k) s e ∧ rd e .yewSlotState k = 0 ∧ isSet e .yewSlotCmdBusy 0 = false ∧ rd e .yewSlotCmdResult 0 = 0 ∧
      keysOf e k = {} ∧ (∀ j, j ≠ k → keysOf e j = keysOf s.dev j) ∧
      onlyRegs { s.dev with yew := e.yew } e [(.yewSlotState, k), (.yewSlotShadow, k), (.yewSlotPrev, k), (.yewSlotSealCount, k),
        (.yewSlotNcFloor, k), (.yewSlotCmdBusy, 0), (.yewSlotCmdResult, 0)]) ∧
  (∀ (s : State) (k : Nat), k < keySlots → isSet s.dev .yewSlotPrev k = true → ∃ e, Answers (.rxGraceExpiry k) s e ∧
    isSet e .yewSlotPrev k = false ∧ keysOf e k = { keysOf s.dev k with prev := none } ∧
    onlyRegs { s.dev with yew := e.yew } e [(.yewSlotPrev, k)]) ∧
  (∀ (s : State) (k : Nat), k < keySlots → rd s.dev .yewSlotState k = 1 ∨ rd s.dev .yewSlotState k = 2 →
    ∃ e, Answers (.keyWordError k) s e ∧ rd e .yewSlotState k = 3 ∧ keysOf e k = {} ∧
      e.hl.entries.length = s.dev.hl.entries.length + 1 ∧
      (rd s.dev .yewSlotState k = 2 → isSet e .yewSlotCmdBusy 0 = false ∧ rd e .yewSlotCmdResult 0 = 0x87)) ∧
  (∀ (s : State) (src : Nat), 1 ≤ src → src ≤ 4 → s.dev.boot.powered = true → ∃ e d u, Answers (.physicalAttackAlarm src) s e ∧
    isSet d .yewStatusAlarm 0 = true ∧ rd d .yewStatusAlarmSrc 0 = src ∧ (∀ k, rd d .yewSlotState k = 0) ∧ (∀ k ∈ slotsInUse s.dev, keysOf d k = {}) ∧
    isSet d .yewSlotCmdBusy 0 = false ∧ { d with regs := s.dev.regs, regsB := s.dev.regsB, regsC := s.dev.regsC, yew := s.dev.yew } = s.dev ∧
    u = (slotUsers s.dev (slotsInUse s.dev)).foldl (fun d n => qpFailNow d n 0x82) d ∧
    e = postEq (alert u 3) (rd u .yewEventEq) (entryOf 0x2A 0 0x82 (2 ^ 32 - 1) [(8, src)])) ∧
  (∀ (s : State) (n : Nat), n < 128 → engineIn s.dev n = true → rd s.dev .yewEngineOkLow 0 < 2 ^ 64 → rd s.dev .yewEngineOkHigh 0 < 2 ^ 64 →
    ∃ e, Answers (.yewEngineMismatch n) s e ∧ engineIn e n = false ∧ (∀ m, m < 128 → m ≠ n → engineIn e m = engineIn s.dev m) ∧
      rd e .yewEngineMismatches 0 = (rd s.dev .yewEngineMismatches 0 + 1) % 2 ^ 32) ∧
  (∀ (s : State) (v : Nat), v < 2 ^ 22 → takesDriver s.dev → ∃ e, Answers (.tableInval v) s e ∧
    onlyRegs { s.dev with tr := e.tr } e [(.yewTableInvalIndex, 0), (.yewTableInvalTable, 0), (.yewTableInvalAll, 0)] ∧
    (bitOf v 20 = true → e.tr.regionCache = s.dev.tr.regionCache ∧ find? e.tr.pdCache (cut v 0 20) = none ∧ (bitOf v 21 = true → e.tr.pdCache = []) ∧
      (bitOf v 21 = false → ∀ j, j ≠ cut v 0 20 → find? e.tr.pdCache j = find? s.dev.tr.pdCache j)) ∧
    (bitOf v 20 = false → e.tr.pdCache = s.dev.tr.pdCache ∧ find? e.tr.regionCache (cut v 0 20) = none ∧
      (bitOf v 21 = true → e.tr.regionCache = []) ∧
      (bitOf v 21 = false → ∀ j, j ≠ cut v 0 20 → find? e.tr.regionCache j = find? s.dev.tr.regionCache j))) ∧
  (∀ (s : State) (p : Nat), p < partitions → takesDriver s.dev → ∃ e, Answers (.attestGo p) s e ∧
    (isSet s.dev .pwinAttestCtrlBusy p = true → e = s.dev) ∧
    (isSet s.dev .pwinAttestCtrlBusy p = false →
      let d := wr (wr s.dev .pwinAttestCtrlErr p 0) .pwinAttestCtrlBusy p 1
      ∀ d' r, translate d device p (attestDva s.dev p) 512 .write true = (d', r) →
        (∀ pg c l f, r = .fail pg c l f → isSet e .pwinAttestCtrlBusy p = false ∧ isSet e .pwinAttestCtrlErr p = true ∧
          onlyRegs d' e [(.pwinAttestCtrlBusy, p), (.pwinAttestCtrlErr, p)]) ∧
        (∀ segs, r = .ok segs → e = d') ∧ (r = .stall → e = d'))) ∧
  (∀ (s : State) (p : Nat), inRun s.dev = true → attestTurn s.dev = some p → ∃ e, Answers (.attestReportDone p) s e ∧
    let failed := fun (d : Dev) => isSet e .pwinAttestCtrlBusy p = false ∧ isSet e .pwinAttestCtrlErr p = true ∧ e.yew.reports = d.yew.reports ∧
      e.yew.attPtr = (p + 1) % partitions
    ∀ d r, dvaRead s.dev device p (attestDva s.dev p + 64) 48 true = (d, r) →
      (r = .wait → e = d) ∧ (∀ pg c l f, r = .xfail pg c l f → failed d) ∧ (∀ c, r = .mfail c → failed d) ∧
      (∀ ch d' w, r = .ok ch → let body := reportBody s.perm d p ch
        dvaWrite (fresh d).2 device p (attestDva s.dev p)
          (body ++ toBytes 96 (ecdsaSign s.perm.identKey (sha384 body) 64 (fresh d).1)) true .other = (d', w) →
        (w = .wait → e = d') ∧ (∀ pg c l f, w = .xfail pg c l f → failed d') ∧ (∀ c, w = .mfail c → failed d') ∧
        (∀ x, w = .ok x → isSet e .pwinAttestCtrlBusy p = false ∧ e.yew.reports = d'.yew.reports + 1 ∧ e.yew.attPtr = (p + 1) % partitions ∧
          onlyRegs { d' with yew := e.yew } e [(.pwinAttestCtrlBusy, p)])))

/-! ### Partitions -/

/-- R445 to R447, R450: a tile command gives 0xEA where the tile is not to be had or not the partition's, 0x88 where it breaks a sealed partition, with nothing else changed;
an assigned tile is the partition's at once; a release sets RELEASING and BUSY, unstarted work ends, and when the lanes have drained the
tile has no owner, no journal, and its scratchpad reads zero. -/
def Obligations.TileOwnership : Prop :=
  (∀ (s : State) (t p : Nat), t < 2048 → p < partitions → takesDriver s.dev → isSet s.dev .tileCmdBusy 0 = false →
    (let d := tileCmd s.dev t p 1
     let bad := p = 0 ∨ tiles ≤ t ∨ isSet s.dev .tileOwnerAssigned t = true ∨ isSet s.dev .tileOwnerReleasing t = true ∨ tileFailedBit s.dev t = true
     let breaks := breaksSeal d (wake (setOwner d t p 1 0) (.tile t))
     ∃ e, Answers (.tileAssign t p) s e ∧
      (bad → rd e .tileCmdResult 0 = 0xEA) ∧ (¬ bad → breaks = true → rd e .tileCmdResult 0 = 0x88) ∧
      (bad ∨ breaks = true → onlyRegs s.dev e [(.tileCmdTile, 0), (.tileCmdPartition, 0), (.tileCmdOp, 0), (.tileCmdResult, 0)]) ∧
      (¬ bad → breaks = false → rd e .tileCmdResult 0 = 0 ∧ tileOwner e t = some p ∧ isSet e .tileOwnerReleasing t = false ∧
        onlyRegs (wake s.dev (.tile t)) e [(.tileCmdTile, 0), (.tileCmdPartition, 0), (.tileCmdOp, 0), (.tileCmdResult, 0),
          (.tileOwnerPartition, t), (.tileOwnerAssigned, t), (.tileOwnerReleasing, t)])) ∧
    (let d := tileCmd s.dev t p 2
     ∃ e, Answers (.tileRelease t p) s e ∧
      (tiles ≤ t ∨ tileOwner s.dev t ≠ some p → rd e .tileCmdResult 0 = 0xEA ∧
        onlyRegs s.dev e [(.tileCmdTile, 0), (.tileCmdPartition, 0), (.tileCmdOp, 0), (.tileCmdResult, 0)]) ∧
      (t < tiles → tileOwner s.dev t = some p → breaksSeal d (setOwner d t 0 0 0) = true → rd e .tileCmdResult 0 = 0x88 ∧
        onlyRegs s.dev e [(.tileCmdTile, 0), (.tileCmdPartition, 0), (.tileCmdOp, 0), (.tileCmdResult, 0)]) ∧
      (t < tiles → tileOwner s.dev t = some p → breaksSeal d (setOwner d t 0 0 0) = false → isSet e .tileCmdBusy 0 = true ∧
        isSet e .tileOwnerReleasing t = true ∧
        onlyRegs s.dev e [(.tileCmdTile, 0), (.tileCmdPartition, 0), (.tileCmdOp, 0), (.tileOwnerReleasing, t), (.tileCmdBusy, 0)]))) ∧
  (∀ (s : State) (t p : Nat) (c : Instr), c ∈ [Instr.tileAssign t p, .tileRelease t p] → t < 2048 → p < partitions → takesDriver s.dev →
    isSet s.dev .tileCmdBusy 0 = true → ∃ e, Answers c s e ∧
      onlyRegs s.dev e [(.tileCmdTile, 0), (.tileCmdPartition, 0), (.tileCmdOp, 0)]) ∧
  (∀ (s : State) (t : Nat), releasing s.dev t = true →
    (unstartedOn s.dev t ≠ [] → ∃ e, Answers (.tileReleaseTimeout t) s e ∧
      e = (unstartedOn s.dev t).foldl (fun d it => complete d it (releaseCause d t)) s.dev) ∧
    (tileItems s.dev t = [] → (∀ h ∈ s.dev.att.homes, h.tile ≠ t) → ∃ e, Answers (.tileReleaseDone t) s e ∧
      tileOwner e t = none ∧ isSet e .tileOwnerReleasing t = false ∧ journalOf e t = {} ∧
      (isSet s.dev .tileCmdBusy 0 = true → rd s.dev .tileCmdTile 0 = t → isSet e .tileCmdBusy 0 = false ∧ rd e .tileCmdResult 0 = 0) ∧
      (journalOf s.dev t = {} → (∀ o n, o + n ≤ spBytes → getBytes e (spAddr t o) n = List.replicate n 0) ∧
        (∀ a, a < spAddr t 0 ∨ spAddr t spBytes ≤ a → getBytes e a 1 = getBytes s.dev a 1) ∧
        onlyRegs { s.dev with mem := e.mem, disp := e.disp, safe := e.safe } e
          [(.tileOwnerPartition, t), (.tileOwnerAssigned, t), (.tileOwnerReleasing, t), (.tileCmdBusy, 0), (.tileCmdResult, 0)])))

/-- R453 to R457: FREEZE of a running partition starts its quiescing and is refused with 0xEA otherwise; work items that have not started in time are cut; a
partition at rest is frozen. SAVE and RESTORE of a frozen partition are BUSY until done; a done SAVE gives 0, a RESTORE of an
unsound image 0xEB and of one that does not fit 0xEA. THAW of a frozen partition lets it run; of any other it is refused.
R439, R449: SEAL of a partition that meets every condition sets its sealed bits and clears LOST; one that does not is refused with 0x88, partition 0
with 0xEA, with nothing else changed; UNSEAL clears them; no translation then stays in a slice that its partition may not use (R211). Nothing has an effect while BUSY. -/
def Obligations.FreezeSaveSeal : Prop :=
  (∀ (s : State) (p : Nat) (c : Instr), c ∈ [Instr.freeze p, .save p, .restore p, .thaw p] → p < partitions → takesDriver s.dev →
    ∃ e, Answers c s e ∧
    (isSet s.dev .partStatusBusy p = true → e = s.dev) ∧
    (isSet s.dev .partStatusBusy p = false →
      (c = .freeze p → p = 0 ∨ rd s.dev .partStatusState p ≠ 0 → rd e .partStatusResult p = 0xEA ∧ onlyRegs s.dev e [(.partStatusResult, p)]) ∧
      (c = .freeze p → p ≠ 0 → rd s.dev .partStatusState p = 0 → rd e .partStatusState p = 1 ∧ rd e .partStatusResult p = 0 ∧
        onlyRegs s.dev e [(.partStatusState, p), (.partStatusResult, p)]) ∧
      (c ≠ .freeze p → rd s.dev .partStatusState p ≠ 2 → rd e .partStatusResult p = 0xEA ∧ onlyRegs s.dev e [(.partStatusResult, p)]) ∧
      (c = .restore p ∧ p = 0 ∨ c = .save p ∧ hbmEnd < imageBase s.dev p + imageLength (tilesOf s.dev p).length →
        rd e .partStatusResult p = 0xEA ∧ onlyRegs s.dev e [(.partStatusResult, p)]) ∧
      (c = .save p → rd s.dev .partStatusState p = 2 → imageBase s.dev p + imageLength (tilesOf s.dev p).length ≤ hbmEnd →
        isSet e .partStatusBusy p = true ∧ onlyRegs s.dev e [(.partStatusBusy, p)]) ∧
      (c = .restore p → p ≠ 0 → rd s.dev .partStatusState p = 2 → isSet e .partStatusBusy p = true ∧ e.parts.restoring = p :: s.dev.parts.restoring ∧
        onlyRegs { s.dev with parts := e.parts } e [(.partStatusBusy, p)]) ∧
      (c = .thaw p → rd s.dev .partStatusState p = 2 → ∃ d, d = ((qpsOf s.dev p).filter fun x => x.2.state = 6).foldl (fun d x => thawQp d x.1) s.dev ∧
        e = fetchAll (partResult (wr d .partStatusState p 0) p 0) p))) ∧
  (∀ (s : State) (p : Nat), p < partitions → rd s.dev .partStatusState p = 1 →
    (notStarted s.dev p ≠ [] → ∃ e, Answers (.freezeTimeout p) s e ∧ { e with disp := s.dev.disp } = s.dev ∧
      (∀ x ∈ e.disp.items, x.part = p → x.rerun = false → x.phase ≠ .fetched ∧ x.phase ≠ .placed) ∧
      e.disp.items.length = s.dev.disp.items.length) ∧
    (atRest s.dev p = true → ∃ e, Answers (.partitionFrozen p) s e ∧ rd e .partStatusState p = 2 ∧
      (∀ x ∈ e.disp.items, x.part ≠ p) ∧ (∀ t ∈ tilesOf s.dev p, (journalOf e t).keep = [] ∧ (journalOf e t).rolling = []) ∧
      ((∀ x ∈ s.dev.disp.items, x.part ≠ p) → (∀ x ∈ s.dev.coll.runs, x.2.part ≠ p) → qpsOf s.dev p = [] → tilesOf s.dev p = [] →
        onlyRegs s.dev e [(.partStatusState, p)]))) ∧
  (∀ (s : State) (p : Nat), p < partitions → isSet s.dev .partStatusBusy p = true →
    (s.dev.parts.restoring.contains p = false → ∃ e, Answers (.saveDone p) s e ∧ isSet e .partStatusBusy p = false ∧ rd e .partStatusResult p = 0 ∧
      e = partResult (wr (saveImage s.dev p) .partStatusBusy p 0) p 0) ∧
    (s.dev.parts.restoring.contains p = true → ∃ e, Answers (.restoreDone p) s e ∧ isSet e .partStatusBusy p = false ∧
      (imageSound s.dev p = false → rd e .partStatusResult p = 0xEB ∧ e.mem = s.dev.mem) ∧
      (imageSound s.dev p = true → imageFits s.dev p = false → rd e .partStatusResult p = 0xEA ∧ e.mem = s.dev.mem) ∧
      (imageSound s.dev p = true → imageFits s.dev p = true → rd e .partStatusResult p = 0 ∧ ∃ d, e = partResult (restoreImage d p) p 0 ∧
        onlyRegs { s.dev with parts := d.parts } d [(.partStatusBusy, p)]))) ∧
  (∀ (s : State) (p : Nat), p < partitions → takesDriver s.dev →
      let slicesRight := fun (e : Dev) => ∀ x ∈ e.xl.tlb, x ∈ s.dev.xl.tlb ∧
        ∀ q, x.part < 64 → x.cache = .sliceLeaf q ∨ x.cache = .sliceTable q → (eligible e x.part).contains q = true
      (∃ e, Answers (.sealPartition p) s e ∧ (isSet s.dev .partStatusBusy p = true → e = s.dev) ∧
        (isSet s.dev .partStatusBusy p = false →
          (p = 0 → rd e .partStatusResult p = 0xEA ∧ onlyRegs s.dev e [(.partStatusResult, p)]) ∧
          (p ≠ 0 → false ∈ sealConds s.dev p → rd e .partStatusResult p = 0x88 ∧ onlyRegs s.dev e [(.partStatusResult, p)]) ∧
          (p ≠ 0 → false ∉ sealConds s.dev p → rd e .partStatusResult p = 0 ∧ sealedNow e p = true ∧ isSet e .partStatusSealed p = true ∧
            isSet e .yewSealStatusLost p = false ∧ slicesRight e ∧
            onlyRegs { s.dev with xl := { s.dev.xl with tlb := e.xl.tlb } } e [(.partStatusResult, p), (.yewSealStatusSealed, p), (.partStatusSealed, p), (.yewSealStatusLost, p)]))) ∧
      (∃ e, Answers (.unsealPartition p) s e ∧ (isSet s.dev .partStatusBusy p = true → e = s.dev) ∧
        (isSet s.dev .partStatusBusy p = false → rd e .partStatusResult p = 0 ∧ sealedNow e p = false ∧ isSet e .partStatusSealed p = false ∧
          slicesRight e ∧ onlyRegs { s.dev with xl := { s.dev.xl with tlb := e.xl.tlb } } e [(.partStatusResult, p), (.yewSealStatusSealed, p), (.partStatusSealed, p), (.yewSealStatusLost, p)])))

/-! ### Start-up and resets -/

/-- R460 to R471: power brings every register to its reset value and the first stage; its loss leaves nothing volatile. FUSES shows the fused values. VERIFY
enters holdback with the first failing check's cause, or shows the measurement and, at a cold start, marks the owner slot it will write;
RAILS completes the fuse changes, and then the stage begins or a cold reset that waited for them goes on. A loss of power leaves of the
changes in progress those made before it (log 45). A die that fails stops the start-up; a tile that fails its test at a cold
start stands on its free spare, otherwise (at a warm one always: log 48) it is failed. An image that reads differently and a failed stack stop the start-up; a channel that fails is taken
out of service; when every part is done the device enters RUN. -/
def Obligations.StartUp : Prop :=
  (∀ s : State, s.dev.boot.powered = false → ∃ e, Answers .powerOn s e ∧ e.boot.powered = true ∧ e.boot.due = 1 ∧ e.boot.flash = s.dev.boot.flash ∧
    e.mem.host = s.dev.mem.host ∧ (∀ f i, rd e f i = f.info.reset) ∧ (∀ a n, getBytes e a n = List.replicate n 0)) ∧
  (∀ s : State, s.dev.boot.powered = true → ∃ t, exec .brownout s = .next t ∧ t.pending = s.pending ∧ t.dev.boot.powered = false ∧
    (∀ f i, rd t.dev f i = f.info.reset) ∧ (∀ a n, getBytes t.dev a n = List.replicate n 0) ∧
    (s.dev.boot.flashCmd = none → t.dev.boot.flash = s.dev.boot.flash) ∧ (s.dev.boot.fuse = none → t.perm = s.perm) ∧
    (∀ f, s.dev.boot.fuse = some f → ∃ n, n < 3 ∧ t.perm = fusesAfter s.perm f n)) ∧
  (∀ s : State, stageDue s.dev 1 = true → ∃ e, Answers .fuses s e ∧ rd e .bootStatusStage 0 = 1 ∧ e.boot.due = 2 ∧
    rd e .bootSvnFused 0 = s.perm.svnMin % 64 ∧ rd e .idVariant 0 = s.perm.variant % 4 ∧ rd e .sparesFused 0 = (fusedSpares s.perm).length % 32 ∧
    rd e .deviceIdLow 0 = s.perm.deviceId % 2 ^ 64) ∧
  (∀ (s : State) (ok : Bool), stageDue s.dev 2 = true → ∃ t, exec (.verify ok) s = .next t ∧ t.pending = s.pending ∧
    (verifyCause s.perm s.dev ok ≠ 0 → t.perm = s.perm ∧ rd t.dev .bootStatusStage 0 = 15 ∧ isSet t.dev .bootStatusHoldback 0 = true ∧
      rd t.dev .bootStatusCause 0 = verifyCause s.perm s.dev ok) ∧
    (verifyCause s.perm s.dev ok = 0 → s.dev.boot.warm = false → rd t.dev .bootStatusStage 0 = 2 ∧ t.dev.boot.due = 3 ∧
      t.dev.boot.fuse = fuseWrites s.perm s.dev ∧ t.perm = markUsed s.perm (fuseWrites s.perm s.dev) ∧
      (∀ i, i < 6 → rd t.dev .bootImageDigest i = cut (measure s.dev) (64 * i) 64) ∧ rd t.dev .bootSvnImage 0 = imgSvn s.dev % 64) ∧
    (verifyCause s.perm s.dev ok = 0 → s.dev.boot.warm = true → t.perm = s.perm ∧
      (imgInterleave s.dev = rd s.dev .memoryHbmCfgInterleave 0 → imgNode s.dev = rd s.dev .meshNodeId 0 →
        rd t.dev .bootStatusStage 0 = 2 ∧ t.dev.boot.due = 4) ∧
      (imgInterleave s.dev ≠ rd s.dev .memoryHbmCfgInterleave 0 ∨ imgNode s.dev ≠ rd s.dev .meshNodeId 0 →
        t.dev.boot.due = 1 ∧ rd t.dev .bootStatusResetKind 0 = 1))) ∧
  (∀ (pm : Perm) (d : Dev), (verifyCause pm d false = 0xF0) ∧ (headerOk d = false → verifyCause pm d true = 0xF0) ∧
    (headerOk d = true → lengthOk d = false → verifyCause pm d true = 0xF1) ∧
    (headerOk d = true → lengthOk d = true → signerOk pm d = false ∨ signatureOk d = false → verifyCause pm d true = 0xF2) ∧
    (headerOk d = true → lengthOk d = true → signerOk pm d = true → signatureOk d = true → imgSvn d < pm.svnMin → verifyCause pm d true = 0xF3)) ∧
  (∀ s : State, stageDue s.dev 3 = true ∨ s.dev.boot.powered = true ∧ s.dev.boot.fuse ≠ none → ∃ t, exec .rails s = .next t ∧
    t.pending = s.pending ∧ t.dev.boot.fuse = none ∧ (s.dev.boot.fuse = none → t.perm = s.perm) ∧
    (∀ f, s.dev.boot.fuse = some f → t.perm = fusesAfter s.perm f 2) ∧
    (s.dev.boot.coldAfter = none → rd s.dev .bootStatusStage 0 ≠ 15 → rd t.dev .bootStatusStage 0 = 3 ∧ t.dev.boot.due = 4 ∧
      (s.dev.boot.fuse = none → onlyRegs { s.dev with boot := t.dev.boot } t.dev [(.bootStatusStage, 0)])) ∧
    (s.dev.boot.coldAfter = none → rd s.dev .bootStatusStage 0 = 15 → rd t.dev .bootStatusStage 0 = 15 ∧ t.dev.boot.due = s.dev.boot.due) ∧
    (∀ k, s.dev.boot.coldAfter = some k → tripHeld s.dev = false → t.dev.boot.due = 1 ∧ rd t.dev .bootStatusStage 0 = 0 ∧
      rd t.dev .bootStatusResetKind 0 = k % 4) ∧
    (∀ k, s.dev.boot.coldAfter = some k → tripHeld s.dev = true → t.dev.pwr.heldReset = some (s.dev.pwr.heldReset.getD k))) ∧
  (∀ (s : State) (f : DieFindings), stageDue s.dev 4 = true →
    (∀ x, f.failedDie = some x → x < 9 → ∃ e, Answers (.dies f) s e ∧ rd e .bootStatusStage 0 = 15 ∧ rd e .bootStatusCause 0 = 0xF7 ∧
      rd e .bootStatusFailedDie 0 = x + 1) ∧
    (f.failedDie = none → ∃ e, Answers (.dies f) s e ∧ rd e .bootStatusStage 0 = 4 ∧ e.boot.due = 5 ∧
      (f.badTiles = [] → s.dev.boot.warm = true → onlyRegs { s.dev with boot := e.boot } e [(.bootStatusStage, 0)]) ∧
      (∀ t, f.badTiles = [t] → t < tiles → tileFailedBit s.dev t = false →
        (s.dev.boot.warm = false → spareFree s.dev t = true → rd e .spareMapUse (spareOf t) = 2 ∧ rd e .spareMapTile (spareOf t) = t) ∧
        (s.dev.boot.warm = true ∨ spareFree s.dev t = false → tileFailedBit e t = true)))) ∧
  (∀ (s : State) (same : Bool), stageDue s.dev 5 = true → ∃ e, Answers (.config same) s e ∧
    (same = false ∨ sameImage s.dev = false → rd e .bootStatusStage 0 = 15 ∧ rd e .bootStatusCause 0 = 0xF5) ∧
    (same = true → sameImage s.dev = true → rd e .bootStatusStage 0 = 5 ∧ e.boot.due = 7 ∧ rd e .meshNodeId 0 = imgNode s.dev % 65536)) ∧
  (∀ (s : State) (l : List DimmPair), stageDue s.dev 6 = true → ∃ e, Answers (.bringup l) s e ∧ rd e .bootStatusStage 0 = 6 ∧ e.boot.due = 8 ∧
    e.boot.done = [] ∧ (s.dev.boot.warm = false → ∀ c, c < 8 →
      rd e .memoryDdrStatModules c = (dimmsOf l c).length % 4 ∧
      (dimmsOf l c ≠ [] → dimmsRefused (dimmsOf l c) = true → rd e .memoryDdrStatState c = 2) ∧
      (dimmsOf l c ≠ [] → dimmsRefused (dimmsOf l c) = false → rd e .memoryDdrStatState c = 1 ∧
        rd e .memoryDdrStatSpeed c = speedCode (((dimmsOf l c).map (·.speed)).foldl min 8000)))) ∧
  (∀ (s : State) (u : BringUnit) (ok : Bool), partRuns s.dev u = true → ∃ e, Answers (.bringupPartDone u ok) s e ∧
    (ok = true ∧ (u = .preload → sameImage s.dev = true) ∨ u = .optics → e.boot.done = u :: s.dev.boot.done ∧ { e with boot := s.dev.boot } = s.dev) ∧
    (∀ k, u = .hbm k → ok = false → rd e .bootStatusStage 0 = 15 ∧ rd e .bootStatusCause 0 = 0xF8) ∧
    (∀ c, u = .ddr c → ok = false → rd e .memoryDdrStatState c = 3 ∧ e.boot.done = u :: s.dev.boot.done) ∧
    (u = .preload → ok = false ∨ sameImage s.dev = false → rd e .bootStatusStage 0 = 15 ∧ rd e .bootStatusCause 0 = 0xF5)) ∧
  (∀ s : State, partRuns s.dev .optics = true → ∃ e, Answers .opticsLimit s e ∧ partDone e .optics = true ∧ { e with boot := s.dev.boot } = s.dev) ∧
  (∀ s : State, bringupOver s.dev = true → ∃ e, Answers .bringupEnd s e ∧ serving e = true ∧ e.boot.warm = false ∧
    rd e .bootStartUs 0 = (s.dev.upNs - s.dev.boot.startNs) / 1000 % 2 ^ 32 ∧
    onlyRegs { s.dev with boot := e.boot } e [(.bootStatusStage, 0), (.bootStartUs, 0)])

/-- R463, R464, R536: a record is passed over at a warm start unless its flag asks for it, and stops the start-up with 0xF5 after a command that failed. A REG record
of INTERLEAVE sets it; another is a register write of partition 0. A ROUTE record sets the entry in both banks, a BLOB record its bytes in
HBM4, and END makes the shadows take effect. -/
def Obligations.ImageRecords : Prop :=
  let w := fun (r : ImgRecord) => ({ src := .sequencer, part := actsFor .sequencer r.arg, off := r.arg, width := 8, val := r.value } : RegWrite)
  (∀ (s : State) (r : ImgRecord) (i : Instr) (k : Nat), (i, k) ∈ [(Instr.regRecord, 1), (.routeRecord, 2), (.endRecord, 15)] →
    recordDue s.dev k = some r → (k = 1 → stallsNow s.dev r.arg 8 = false) → ∃ e, Answers i s e ∧
    (waitFailed s.dev = true → rd e .bootStatusStage 0 = 15 ∧ rd e .bootStatusCause 0 = 0xF5) ∧
    (waitFailed s.dev = false → k ≠ 15 → applies s.dev r = false → { e with boot := s.dev.boot } = s.dev ∧
      e.boot.recAt = seekRecord s.dev false (imgLength s.dev / 16) (afterRecord r)) ∧
    (waitFailed s.dev = false → applies s.dev r = true → k = 1 → r.arg = 0x2800000 → r.value % 4 ≤ 1 →
      rd e .memoryHbmCfgInterleave 0 = r.value % 4 ∧ onlyRegs { s.dev with boot := e.boot } e [(.memoryHbmCfgInterleave, 0)]) ∧
    (waitFailed s.dev = false → applies s.dev r = true → k = 1 → r.arg = 0x2800000 → 1 < r.value % 4 →
      rd e .bootStatusStage 0 = 15 ∧ rd e .bootStatusCause 0 = 0xF5) ∧
    (waitFailed s.dev = false → applies s.dev r = true → k = 1 → r.arg ≠ 0x2800000 → ∀ x a,
      nativeWrite (onBoot s.dev fun b => { b with waiting := none }) (w r) = (x, a) → stageDue x 7 = true →
      (a ≠ .applied ∨ (wordFields r.arg).any (refusedBy x (w r)) = true → rd e .bootStatusStage 0 = 15 ∧ rd e .bootStatusCause 0 = 0xF5) ∧
      (a = .applied → (wordFields r.arg).any (refusedBy x (w r)) = false → startsCommand (w r) = none → { e with boot := x.boot } = x)) ∧
    (waitFailed s.dev = false → applies s.dev r = true → k = 2 → cut r.arg 0 4 ≤ 9 →
      (∀ b, b < 2 → routeEntry e (cut r.arg 0 4) b (cut r.arg 4 10) = r.value % 2 ^ 64) ∧
      onlyRegs { s.dev with boot := e.boot } e ((List.range 2).map fun b => (.meshRouteTable, (cut r.arg 0 4 * 2 + b) * 1024 + cut r.arg 4 10))) ∧
    (waitFailed s.dev = false → k = 15 → e.boot.due = 6 ∧ (s.dev.boot.warm = true → e.port = s.dev.port) ∧
      (s.dev.boot.warm = false → ∀ i, i < 8 → getD e.port.cal i (0 : Nat) = rd s.dev .portTsCfgTxDelay i + 2 ^ 16 * rd s.dev .portTsCfgRxDelay i) ∧ find? e.shadow (fkey .mgmtAlertMask 0) = none ∧
      (∀ v, find? s.dev.shadow (fkey .mgmtAlertMask 0) = some v → rd e .mgmtAlertMask 0 = v % 2 ^ 8))) ∧
  (∀ (s : State) (r : ImgRecord), blobDue s.dev = some r → ∃ e, Answers .blobRecord s e ∧
    let d := (memWrite s.dev false r.arg r.value (flashBytes s.dev (r.at_ + 16) r.arg)).1
    { e with boot := d.boot } = d ∧ e.boot.recAt = seekRecord d true (imgLength d / 16) (afterRecord r))

/-- R473 to R478: a flash command while another is BUSY changes only OP; a refused one gives 0xFA; another is BUSY until it completes, and then has read 256 bytes,
or programmed the buffer, or erased its sector or the whole flash. R475, R496, R556: a reset needs its word; a cold
reset brings every register but TRIP_RECORD to its reset value, and waits for fuses; a held one goes on when the package has cooled. R476: a
warm reset in RUN clears what it clears and keeps DRAM. -/
def Obligations.FlashAndResets : Prop :=
  (∀ (s : State) (i : Instr) (op : Nat), (i, op) ∈ [(Instr.flashRead, 1), (.flashProgram, 2), (.flashEraseSector, 3), (.flashEraseAll, 4)] →
    ∃ e, Answers i s e ∧ rd e .bootFlashCmdOp 0 = op ∧
    (isSet s.dev .bootFlashCmdBusy 0 = true ∨ s.dev.boot.powered = false → onlyRegs s.dev e [(.bootFlashCmdOp, 0)]) ∧
    (isSet s.dev .bootFlashCmdBusy 0 = false → s.dev.boot.powered = true → flashRefused s.dev op (rd s.dev .bootFlashAddr 0) = true →
      rd e .bootFlashCmdResult 0 = 0xFA ∧ onlyRegs s.dev e [(.bootFlashCmdOp, 0), (.bootFlashCmdResult, 0)]) ∧
    (isSet s.dev .bootFlashCmdBusy 0 = false → s.dev.boot.powered = true → flashRefused s.dev op (rd s.dev .bootFlashAddr 0) = false →
      isSet e .bootFlashCmdBusy 0 = true ∧
      e.boot.flashCmd = some { op := op, addr := rd s.dev .bootFlashAddr 0, data := (List.range 32).map fun i => rd s.dev .bootFlashBuf i } ∧
      onlyRegs { s.dev with boot := e.boot } e [(.bootFlashCmdOp, 0), (.bootFlashCmdBusy, 0)] ∧ e.boot.flash = s.dev.boot.flash)) ∧
  (∀ (s : State) (c : FlashCmd), s.dev.boot.powered = true → s.dev.boot.flashCmd = some c → ∃ e, Answers .flashCmdComplete s e ∧
    isSet e .bootFlashCmdBusy 0 = false ∧ rd e .bootFlashCmdResult 0 = 0 ∧ e.boot.flashCmd = none ∧
    (c.op = 1 → e.boot.flash = s.dev.boot.flash ∧ ∀ i, i < 32 → rd e .bootFlashBuf i = flashNum s.dev (c.addr + 8 * i) 8) ∧
    { e with regs := s.dev.regs, regsB := s.dev.regsB, regsC := s.dev.regsC, boot := s.dev.boot } = s.dev ∧
    keepsRegs s.dev e ([(.bootFlashCmdBusy, 0), (.bootFlashCmdResult, 0), (.bootFlashOps, 0)] ++ (List.range 32).map fun i => (.bootFlashBuf, i)) ∧
    (c.op ≠ 1 → rd e .bootFlashOps 0 = (rd s.dev .bootFlashOps 0 + 1) % 2 ^ 32) ∧
    (c.op = 2 → ∀ a, flashByte e a =
      if c.addr ≤ a ∧ a < c.addr + 8 * c.data.length then (c.data.flatMap (toBytes 8)).getD (a - c.addr) 0 else flashByte s.dev a) ∧
    (c.op = 3 → ∀ a, flashByte e a = if c.addr ≤ a ∧ a < c.addr + 65536 then 0xFF else flashByte s.dev a) ∧
    (4 ≤ c.op → ∀ a, a < flashSize → flashByte e a = 0xFF)) ∧
  (∀ (s : State) (kind x : Nat) (c : Instr), (c, kind) ∈ [(Instr.coldReset x, 1), (.managementReset, 3)] → x < 65536 → ∃ e, Answers c s e ∧
    (kind = 1 ∧ x ≠ 0x5A17 ∨ s.dev.boot.powered = false → onlyRegs s.dev e [(.bootCtrlConfirm, 0)]) ∧
    ((kind = 1 → x = 0x5A17) → s.dev.boot.powered = true →
      (s.dev.boot.fuse.isSome = true → e.boot.coldAfter = some (s.dev.boot.coldAfter.getD kind) ∧
        onlyRegs { s.dev with boot := e.boot } e [(.bootCtrlConfirm, 0)]) ∧
      (s.dev.boot.fuse = none → tripHeld s.dev = true → e.pwr.heldReset = some (s.dev.pwr.heldReset.getD kind) ∧
        onlyRegs { s.dev with pwr := e.pwr } e [(.bootCtrlConfirm, 0)]) ∧
      (s.dev.boot.fuse = none → tripHeld s.dev = false → e.boot.due = 1 ∧ e.boot.powered = true ∧ rd e .bootStatusResetKind 0 = kind ∧
        (s.dev.boot.flashCmd = none → e.boot.flash = s.dev.boot.flash) ∧ (∀ a n, getBytes e a n = List.replicate n 0) ∧
        rd e .powerTripRecordTripped 0 = rd s.dev .powerTripRecordTripped 0 % 2 ∧
        ∀ f i, f ∉ [Fld.bootStatusResetKind, .powerTripRecordTripped, .powerTripRecordPair, .mgmtAlertPending] → rd e f i = f.info.reset))) ∧
  (∀ (s : State) (l : List SensorReading), s.dev.boot.powered = true → rd s.dev .bootStatusStage 0 = 15 → rd s.dev .bootStatusCause 0 = 0xA7 →
    cooled (senseAll s.dev l) = true → ∃ e, Answers (.tripCooldown l) s e ∧
    (s.dev.pwr.heldReset = none → e = senseAll s.dev l) ∧
    (∀ k, s.dev.pwr.heldReset = some k → e.boot.due = 1 ∧ rd e .bootStatusResetKind 0 = k % 4 ∧ rd e .bootStatusStage 0 = 0)) ∧
  (∀ (s : State) (x : Nat), x < 65536 → ∃ e, Answers (.warmReset x) s e ∧
    (x ≠ 0x5A17 ∨ rd s.dev .bootStatusStage 0 ≠ 8 ∨ s.dev.boot.powered = false → onlyRegs s.dev e [(.bootCtrlConfirm, 0)]) ∧
    (x = 0x5A17 → rd s.dev .bootStatusStage 0 = 8 → s.dev.boot.powered = true → rd e .bootStatusStage 0 = 2 ∧ rd e .bootStatusResetKind 0 = 2 ∧
      e.boot.due = 2 ∧ e.boot.warm = true ∧ e.disp.items = [] ∧ (∀ f ∈ warmCleared, f.info.voted = false → ∀ i, rd e f i = f.info.reset) ∧
      (everyQp s.dev = [] → ∀ a n, a + n ≤ spBase → getBytes e a n = getBytes s.dev a n)))

/-! ### Power and heat -/

/-- R481, R483 to R486: a domain that may enter a state enters it; its exit brings it to CS0; a PLL that fails to start is tried again twice, and the third time is a
fault of what it clocks. A tolerance write sets its register, leaves every domain that still may stay in its state there, and brings every
other to a state its tolerance allows or wakes it. R492: a limit the budget allows is set, one it does not is refused with 0xA8. R489, R490: a
sample enters the averages; the controller lowers the shared rate by 4 to no less than 8 while an average is over its limit, then
the Hedge rate, and raises them again. R491: a guard trips once, counted, and releases. -/
def Obligations.PowerControl : Prop :=
  (∀ (s : State) (m : Domain) (x : Nat), inRun s.dev = true → validDomain m = true → domState s.dev m < x → stateAllowed s.dev m x = true →
    tolerates s.dev m x = true → idle s.dev m = true → s.dev.pwr.waking.contains m = false → ∃ e, Answers (.coppiceEntry m x) s e ∧
    domState e m = x ∧ ((∀ t, m ≠ .tile t) ∨ x ≠ 4 → e = setDomState s.dev m x) ∧
    (∀ t, m = .tile t → x = 4 → { e with mem := s.dev.mem } = setDomState s.dev m x ∧
      (∀ o n, o + n ≤ spBytes → getBytes e (spAddr t o) n = List.replicate n 0))) ∧
  (∀ (s : State) (m : Domain), s.dev.pwr.waking.contains m = true →
    (∃ e, Answers (.coppiceExitDone m) s e ∧ domState e m = 0 ∧ e.pwr.waking.contains m = false ∧
      { e with pwr := s.dev.pwr } = { setDomState s.dev m 0 with pwr := s.dev.pwr }) ∧
    (inRun s.dev = true → pllStopped s.dev m = true → ∃ e, Answers (.pllLockTimeout m) s e ∧
      (getD s.dev.pwr.pllFails (pllOf s.dev m) 0 < 2 → { e with pwr := s.dev.pwr } = s.dev ∧
        getD e.pwr.pllFails (pllOf s.dev m) 0 = getD s.dev.pwr.pllFails (pllOf s.dev m) 0 + 1 ∧ e.pwr.waking = s.dev.pwr.waking) ∧
      (2 ≤ getD s.dev.pwr.pllFails (pllOf s.dev m) 0 → (∀ q, m = .hedge q → q ∈ e.mem.hedgeFailed) ∧
        (m = .laurel ∨ m = .mesh → isSet e .safetyStatusHalted 0 = true ∧ rd e .safetyStatusHaltDie 0 = if m = .laurel then 5 else 0)))) ∧
  (∀ (s : State) (ring : Bool) (i v : Nat), i < (if ring then rings else partitions) → takesDriver s.dev → ∃ e, Answers (.ltrWrite ring i v) s e ∧
    let f : Fld := if ring then .powerRingLtr else .powerPartLtr
    let d := wr s.dev f i v
    rd e f i = v % 2 ^ 32 ∧ (∀ m ∈ domains, tolerates d m (domState s.dev m) = true → domState e m = domState s.dev m) ∧
    (∀ m ∈ domains, domState s.dev m ≤ 4 → tolerates d m (domState s.dev m) = false →
      e.pwr.waking.contains m = true ∨ tolerates d m (domState e m) = true)) ∧
  (∀ (s : State) (v : Nat), takesDriver s.dev →
    (let ok := sealedOnes s.dev = [] ∨ budgetOk (wr s.dev .powerLimitSustainedW 0 v) (sealedOnes s.dev) = true
     ∃ e, Answers (.limitWrite .sustained v) s e ∧
      (ok → rd e .powerLimitSustainedW 0 = v % 2 ^ 12 ∧ onlyRegs s.dev e [(.powerLimitSustainedW, 0)]) ∧
      (¬ ok → rd e .powerRefusals 0 = (rd s.dev .powerRefusals 0 + 1) % 2 ^ 32 ∧ keepsRegs s.dev e [(.powerRefusals, 0)] ∧
        e.hl.entries.length = s.dev.hl.entries.length + 1)) ∧
    (∀ p, p < partitions → ∃ e, Answers (.limitWrite (.sealFloor p) v) s e ∧
      let d := wr s.dev .powerSealFloor p v
      (sealedNow s.dev p = false ∨ sealFloor d p ≠ 0 ∧ budgetOk d (sealedOnes s.dev) = true → rd e .powerSealFloor p = v % 2 ^ 7 ∧
        onlyRegs s.dev e [(.powerSealFloor, p)]) ∧
      (sealedNow s.dev p = true → sealFloor d p = 0 → rd e .powerSealFloor p = rd s.dev .powerSealFloor p) ∧
      (sealedNow s.dev p = true → sealFloor d p ≠ 0 → budgetOk d (sealedOnes s.dev) = false →
        rd e .powerRefusals 0 = (rd s.dev .powerRefusals 0 + 1) % 2 ^ 32 ∧ keepsRegs s.dev e [(.powerRefusals, 0)]))) ∧
  (∀ (s : State) (cv ma : Nat), s.dev.boot.powered = true → ∃ e, Answers (.powerSample cv ma) s e ∧
    e.pwr.samples = (cv * ma / 100 :: s.dev.pwr.samples).take 1000000 ∧ rd e .powerInputVolts 0 = cv % 2 ^ 13 ∧
    rd e .powerInputAvg1msW 0 = average e 1000 / 1000 % 2 ^ 16 ∧ rd e .powerInputAvgTauW 0 = average e (tauSamples s.dev) / 1000 % 2 ^ 16 ∧
    rd e .powerEnergyMj 0 * 1000000 + e.pwr.energyNj =
      ((rd s.dev .powerEnergyMj 0 + (s.dev.pwr.energyNj + cv * ma / 100) / 1000000) % 2 ^ 48) * 1000000 + (s.dev.pwr.energyNj + cv * ma / 100) % 1000000 ∧
    onlyRegs { s.dev with pwr := e.pwr } e [(.powerInputVolts, 0), (.powerInputAvg1msW, 0), (.powerInputAvgTauW, 0), (.powerEnergyMj, 0)]) ∧
  (∀ s : State, inRun s.dev = true → ∃ e, Answers .controllerStep s e ∧ isSet e .powerRateCapping 0 = capped e ∧
    (isSet s.dev .powerRateCapping 0 = true → rd e .powerCapUs 0 = (rd s.dev .powerCapUs 0 + 10) % 2 ^ 32) ∧
    (overLimit s.dev = true → 8 < rd s.dev .powerRateShared 0 → rd e .powerRateShared 0 = max 8 (rd s.dev .powerRateShared 0 - 4) % 2 ^ 7 ∧
      rd e .powerRateHedge 0 = rd s.dev .powerRateHedge 0) ∧
    (overLimit s.dev = true → rd s.dev .powerRateShared 0 ≤ 8 → rd s.dev .powerRateHedge 0 < 3 → rd e .powerRateShared 0 = rd s.dev .powerRateShared 0 ∧
      rd e .powerRateHedge 0 = if 100 ≤ s.dev.pwr.floorUs + 10 then rd s.dev .powerRateHedge 0 + 1 else rd s.dev .powerRateHedge 0) ∧
    (overLimit s.dev = false → (wellBelow s.dev = false ∨ s.dev.pwr.below = false) → rd e .powerRateShared 0 = rd s.dev .powerRateShared 0 ∧
      rd e .powerRateHedge 0 = rd s.dev .powerRateHedge 0 ∧ e.pwr.sealDrop = s.dev.pwr.sealDrop) ∧
    (overLimit s.dev = false → wellBelow s.dev = true → s.dev.pwr.below = true → s.dev.pwr.sealDrop = 0 → rd s.dev .powerRateHedge 0 = 0 →
      rd s.dev .powerRateShared 0 < 64 → rd e .powerRateShared 0 = rd s.dev .powerRateShared 0 + 1)) ∧
  (∀ (s : State) (die : Nat), (die < 7 → 4 ≤ rd s.dev .bootStatusStage 0 → rd s.dev .bootStatusStage 0 ≤ 8 → s.dev.pwr.guards.contains die = false →
      ∃ e, Answers (.overCurrentTrip die) s e ∧ e.pwr.guards = die :: s.dev.pwr.guards ∧
      rd e .powerGuardTrips 0 = (rd s.dev .powerGuardTrips 0 + 1) % 2 ^ 32 ∧ keepsRegs s.dev e [(.powerGuardTrips, 0)] ∧
      (∀ t, s.dev.pwr.guardEvent = some t → s.dev.upNs - t < 1000000 → e.hl = s.dev.hl) ∧
      (s.dev.pwr.guardEvent = none → e.hl.entries.length = s.dev.hl.entries.length + 1 ∧ e.pwr.guardEvent = some s.dev.upNs)) ∧
    (s.dev.pwr.guards.contains die = true → ∃ e, Answers (.currentGuardRelease die) s e ∧ e.pwr.guards.contains die = false ∧
      { e with pwr := s.dev.pwr } = s.dev))

/-- R493 to R496: a reading is what the sensor then shows. The thermal cap falls by 4 to no less than 8 while a sensor is hot, rises by 1 while all are 3 degrees below, and stays otherwise; a hot
memory unit halves its admission up to three times and takes it back one by one; the trip switches the dies off with
0xA7 and records the pair; a pair that disagrees sends one event. -/
def Obligations.Heat : Prop :=
  (∀ (d : Dev) (r : SensorReading), r.sensor < 168 → -2048 ≤ r.temp → r.temp < 2048 → reading (senseAll d [r]) r.sensor = some r.temp ∧
    onlyRegs d (senseAll d [r]) [(.powerSensorTemp, r.sensor), (.powerSensorValid, r.sensor)]) ∧
  (∀ (s : State) (l : List SensorReading), inRun s.dev = true →
    let d := senseAll s.dev l
    (∃ e, Answers (.thermalCapStep l) s e ∧
      (hotOnes d capSensors (throttleC d) ≠ [] → rd e .powerRateThermal 0 = max 8 (rd d .powerRateThermal 0 - 4) % 2 ^ 7 ∧
        keepsRegs d e [(.powerRateThermal, 0)]) ∧
      (hotOnes d capSensors (throttleC d) = [] → rd d .powerRateThermal 0 < 64 → allBelow d capSensors (throttleC d - 3) = true →
        rd e .powerRateThermal 0 = rd d .powerRateThermal 0 + 1 ∧ keepsRegs d e [(.powerRateThermal, 0)]) ∧
      (hotOnes d capSensors (throttleC d) = [] → 64 ≤ rd d .powerRateThermal 0 ∨ allBelow d capSensors (throttleC d - 3) = false → e = d)) ∧
    (∃ e, Answers (.memoryHotStep l) s e ∧ keepsRegs d e [] ∧ ∀ u ∈ memUnits,
      let n := getD s.dev.pwr.memRate u.1 (0 : Nat)
      getD e.pwr.memRate u.1 (0 : Nat) =
        if hotOnes d u.2 (memLimit d) ≠ [] then min 3 (n + 1) else if allBelow d u.2 (memLimit d - 3) = true then n - 1 else n)) ∧
  (∀ (s : State) (p : Nat) (l : List SensorReading), p < 8 → s.dev.boot.powered = true →
    (rd s.dev .bootStatusStage 0 ≠ 15 → hotOnes (senseAll s.dev l) (pairSensors p) (tripC s.dev) ≠ [] →
      ∃ e, Answers (.thermalTrip p l) s e ∧ rd e .bootStatusStage 0 = 15 ∧ isSet e .bootStatusHoldback 0 = true ∧ rd e .bootStatusCause 0 = 0xA7 ∧
        isSet e .powerTripRecordTripped 0 = true ∧ rd e .powerTripRecordPair 0 = p ∧ e.disp = {} ∧ e.mem.bytes = [] ∧ e.boot = s.dev.boot) ∧
    (∀ g, pairGap (senseAll s.dev l) p = some g → 40 < g → ∃ e q, Answers (.tripPairDisagreement p l) s e ∧ q ∈ pairSensors p ∧
      (∀ q' ∈ pairSensors p, ∀ x y, reading (senseAll s.dev l) q' = some x → reading (senseAll s.dev l) q = some y → x ≤ y) ∧
      e = thermalEvent (senseAll s.dev l) 0xA9 q))

/-! ### Failures -/

/-- R502 to R504, R511, R513, R549: a scrub writes the majority back to every copy of a voted entry and counts its pass; a lost vote is counted and reported once. A
failed stack or die is out of service with one event; a halt sets HALTED, its cause and its die, with an event while the
Laurel die works; a lockstep mismatch switches the dies off with 0xFE; a module over its power takes its channel out of service. -/
def Obligations.Failures : Prop :=
  (∀ s : State, s.dev.boot.powered = true → rd s.dev .bootStatusStage 0 ≠ 15 → ∃ e, Answers .voteScrub s e ∧
    ((∀ f ∈ votedFlds, ∀ i, voteHolds s.dev f i = true) →
      rd e .safetyScrubPasses 0 = (rd s.dev .safetyScrubPasses 0 + 1) % 2 ^ 32 ∧ e.hl = s.dev.hl ∧
      (∀ f ∈ votedFlds, ∀ i v, majority (copies s.dev f i).1 (copies s.dev f i).2.1 (copies s.dev f i).2.2 = some v →
        v < 2 ^ f.info.width → copies e f i = (v, v, v)) ∧
      ((∀ f ∈ votedFlds, ∀ i, (copies s.dev f i).1 = (copies s.dev f i).2.1 ∧ (copies s.dev f i).1 = (copies s.dev f i).2.2) →
        onlyRegs s.dev e [(.safetyScrubPasses, 0)]))) ∧
  (∀ (d : Dev) (f : Fld) (i : Nat), f ∈ [Fld.yewCfgClearSaveEn, .powerThermalTripC, .tileOwnerPartition] → voteHolds d f i = false →
    (fkey f i ∈ d.safe.lost → scrubVote d f i = d) ∧
    (fkey f i ∉ d.safe.lost → rd (scrubVote d f i) .safetyVoteLosses 0 = (rd d .safetyVoteLosses 0 + 1) % 2 ^ 32 ∧
      fkey f i ∈ (scrubVote d f i).safe.lost ∧ (scrubVote d f i).hl.entries.length = d.hl.entries.length + 1)) ∧
  (∀ (s : State) (k : Nat), k < 12 → inRun s.dev = true → unitFailed s.dev (.hbm k) = false → ∃ e, Answers (.hbmStackFailure k) s e ∧
    unitFailed e (.hbm k) = true ∧ e.mem = { s.dev.mem with stacksFailed := k :: s.dev.mem.stacksFailed } ∧
    e.hl.entries.length = s.dev.hl.entries.length + 1 ∧
    keepsRegs s.dev e ((.safetyFaultSeq, 0) :: (List.range 4).map fun i => (.safetyLastRecord, i))) ∧
  (∀ (s : State) (q : Nat), q < 4 → inRun s.dev = true → s.dev.mem.hedgeFailed.contains q = false → ∃ e, Answers (.hedgeDieFailure q) s e ∧
    e.mem = { s.dev.mem with hedgeFailed := q :: s.dev.mem.hedgeFailed } ∧ rd e .powerHedgeState q = 4 ∧
    (∀ x ∈ e.xl.tlb, x.cache ≠ .sliceLeaf q ∧ x.cache ≠ .sliceTable q) ∧ e.hl.entries.length = s.dev.hl.entries.length + 1) ∧
  (∀ (s : State) (die : Nat), die = 0 ∨ die = 5 → inRun s.dev = true → ∃ e, Answers (.deviceHalt die) s e ∧ isSet e .safetyStatusHalted 0 = true ∧
    rd e .safetyStatusHaltCause 0 = 0xFD ∧ rd e .safetyStatusHaltDie 0 = die ∧
    e.hl.entries.length = s.dev.hl.entries.length + (if die = 0 then 1 else 0) ∧
    (die = 0 → keepsRegs s.dev e ([(.safetyStatusHalted, 0), (.safetyStatusHaltCause, 0), (.safetyStatusHaltDie, 0), (.mgmtAlertPending, 0),
      (.safetyFaultSeq, 0)] ++ (List.range 4).map fun i => (.safetyLastRecord, i))) ∧
    (die = 5 → rd e .hlStatusMod0 0 = 0 ∧ rd e .hlStatusMod1 0 = 0 ∧ onlyRegs s.dev e [(.safetyStatusHalted, 0), (.safetyStatusHaltCause, 0),
      (.safetyStatusHaltDie, 0), (.mgmtAlertPending, 0), (.hlStatusMod0, 0), (.hlStatusMod1, 0)])) ∧
  (∀ s : State, s.dev.boot.powered = true → ∃ e, Answers .lockstepMismatch s e ∧ rd e .bootStatusStage 0 = 15 ∧ rd e .bootStatusCause 0 = 0xFE ∧
    isSet e .bootStatusHoldback 0 = true ∧ e.disp = {} ∧ e.tr = {} ∧ e.mem.bytes = [] ∧ e.boot = s.dev.boot ∧ e.mem.host = s.dev.mem.host) ∧
  (∀ (s : State) (m : Nat), m < 16 → s.dev.boot.powered = true → rd s.dev .memoryDdrStatState (m / 2) = 1 → ∃ e, Answers (.moduleOverPower m) s e ∧
    rd e .memoryDdrStatState (m / 2) = 3 ∧ keepsRegs s.dev e [(.memoryDdrStatState, m / 2)] ∧ e.hl.entries.length = s.dev.hl.entries.length + 1)

/-! ### Register accesses and the management connector -/

/-- R14 to R17, R470, R529 to R532, R536, R376, R541, R542: a register write has no effect outside RUN or for an absent function, is counted for a foreign requester,
is discarded and noted where it is misaligned or unassigned, and sets every RW field in its bytes, of those whose write is no command
and has no effect elsewhere, and nothing else. The oldest stalled write is given up with
STALL_TIMEOUT set. COMMIT makes the shadow take effect. A read of device time latches its fraction. A posted write joins its
queue, which is applied in order, or is discarded when the queue is full. R553 to R557: the I3C target answers a read with eight bytes and a status, a write with its
status; the alert carries the pending byte; BYPASS, IDCODE and the boundary chain answer as the port does. -/
def Obligations.NativeAndManagement : Prop :=
  (∀ (s : State) (m fn rid off width val : Nat), canReach s.dev (.host m fn rid) off width = true → val < 2 ^ (8 * width) →
    ∃ e, Answers (.registerWrite (.host m fn rid) off width val) s e ∧
    (serving s.dev = false ∨ fnPresent s.dev fn = false → e = s.dev) ∧
    (serving s.dev = true → fnPresent s.dev fn = true →
      (hostRid s.dev rid = false → rd e .hlPeerRefused 0 = (rd s.dev .hlPeerRefused 0 + 1) % 2 ^ 32 ∧ onlyRegs s.dev e [(.hlPeerRefused, 0)]) ∧
      (hostRid s.dev rid = true → waitsBehind s.dev (.host m fn rid) = true → e.acc.held.length = s.dev.acc.held.length + 1 ∧
        { e with acc := s.dev.acc } = s.dev) ∧
      (hostRid s.dev rid = true → waitsBehind s.dev (.host m fn rid) = false → isSet s.dev .safetyStatusHalted 0 = false →
        (doorbell (hostOffset fn off) width = none → inCompat (hostOffset fn off) = false → accessOk (hostOffset fn off) width = false →
          rd e .discardedWrites 0 = (rd s.dev .discardedWrites 0 + 1) % 2 ^ 32 ∧ rd e .lastDiscardOffset 0 = hostOffset fn off % 2 ^ 26 ∧
          rd e .lastDiscardSource 0 = m ∧
          onlyRegs s.dev e [(.discardedWrites, 0), (.lastDiscardOffset, 0), (.lastDiscardSource, 0), (.lastDiscardPartition, 0)]) ∧
        (let w : RegWrite := { src := .host m fn rid, part := actsFor (.host m fn rid) (hostOffset fn off), off := hostOffset fn off, width := width, val := val }
         let held := (wordFields w.off).filter (holdsField w)
         doorbell w.off width = none → isPosted w = false → accessOk w.off width = true → assigned w = true → stallsNow s.dev w.off width = false →
          sealedOnes s.dev = [] → (wordFields w.off).any (lockedNow s.dev) = false → gateLocked s.dev w = none →
          (∀ y ∈ wordFields w.off, meetsField w y = true → holdsField w y = true ∧ y.fld.info.access = .rw ∧ isCommand y.fld = false ∧
            y.fld ∉ [Fld.timeSetNs, .timeStepNs, .xlateCmdqDoorbell, .transportPathsetInvalSet, .meshNodeMapInvalNode, .yewTableInvalAll,
              .topiaryMeterCir, .topiaryMeterPir, .topiaryMeterCbs, .topiaryMeterPbs, .transportQpcDirValid, .transportQpcDirHost,
              .transportQpcDirBase, .portsubRawCfgRxEn, .portsubRawCfgTxEn]) →
          (∀ y ∈ held, rd e y.fld y.idx = carried w y) ∧ onlyRegs s.dev e (held.map fun y => (y.fld, y.idx))) ∧
        (fn = 0 → off = 0x800008 → width = 4 → sealedOnes s.dev = [] → rd e .dispatchWaitTimeout 0 = val ∧
          onlyRegs s.dev e [(.dispatchWaitTimeout, 0)])))) ∧
  (∀ (s : State) (h : HeldAcc) (t : List HeldAcc), s.dev.acc.held = h :: t → ∃ e d, Answers .stallTimeout s e ∧ e = releaseAll s.perm d ∧
    d.acc.held = t ∧ rd d .stallTimeouts 0 = (rd s.dev .stallTimeouts 0 + 1) % 2 ^ 32 ∧ isSet d .accessStatusStallTimeout 0 = true ∧
    (h.src ≠ .i3c → onlyRegs { s.dev with acc := d.acc } d [(.stallTimeouts, 0), (.accessStatusStallTimeout, 0)])) ∧
  (∀ s : State, takesDriver s.dev → ∃ e, Answers .commit s e ∧ (find? s.dev.shadow (fkey .mgmtAlertMask 0) = none → e = s.dev) ∧
    (∀ v, find? s.dev.shadow (fkey .mgmtAlertMask 0) = some v → rd e .mgmtAlertMask 0 = v % 2 ^ 8 ∧ find? e.shadow (fkey .mgmtAlertMask 0) = none ∧
      onlyRegs { s.dev with shadow := e.shadow } e [(.mgmtAlertMask, 0)])) ∧
  (∀ (s : State) (src : Source), canReach s.dev src 0x50000 8 = true → waitsBehind s.dev src = false →
    (∀ m fn rid, src = .host m fn rid → serving s.dev = true ∧ fnPresent s.dev fn = true ∧ hostRid s.dev rid = true) →
    ∃ e, Answers (.timeNowRead src) s e ∧ e.out = .regRead src 0x50000 (now s.dev) :: s.dev.out ∧ rd e .timeNowFrac 0 = s.dev.port.frac % 2 ^ 32 ∧
      onlyRegs { s.dev with out := e.out } e [(.timeNowFrac, 0)]) ∧
  (∀ (s : State) (off val : Nat), off < 0x400000 → off % 4 = 0 → val < 2 ^ 32 → hostUp s.dev = true → ∃ e, Answers (.compatPostedWrite off 4 val) s e ∧
    (serving s.dev = false → e = s.dev) ∧
    (serving s.dev = true → s.dev.acc.half = none → off % 8 = 0 → crosses32 off = true → e.acc = { s.dev.acc with half := some (off, val) }) ∧
    (serving s.dev = true → s.dev.acc.half = none → off % 8 ≠ 0 ∨ crosses32 off = false →
      (s.dev.acc.posted.length < 64 → e.acc = { s.dev.acc with posted := s.dev.acc.posted ++ [{ off := off, width := 4, val := val }] }) ∧
      (64 ≤ s.dev.acc.posted.length → e.acc = s.dev.acc ∧ isSet e .compatStatusOverflow 0 = true ∧
        rd e .compatDiscards 0 = (rd s.dev .compatDiscards 0 + 1) % 2 ^ 32)) ∧
    (∀ o lo, serving s.dev = true → s.dev.acc.half = some (o, lo) → off = o + 4 → s.dev.acc.posted.length < 64 →
      e.acc = { s.dev.acc with half := none, posted := s.dev.acc.posted ++ [{ off := o, width := 8, val := lo + val * 2 ^ 32 }] })) ∧
  (∀ (s : State) (w : PostedWrite) (t : List PostedWrite), s.dev.acc.posted = w :: t → ∃ e d, Answers .compatQueueApply s e ∧
    d.acc = { s.dev.acc with posted := t } ∧ rd d .compatStatusQueued 0 = t.length % 2 ^ 7 ∧
    onlyRegs { s.dev with acc := d.acc } d [(.compatStatusBusy, 0), (.compatStatusQueued, 0)] ∧ e = (arrive d .compat w.off w.width w.val).1) ∧
  (∀ (s : State) (off val : Nat), off < 2 ^ 32 → val < 2 ^ 64 →
    (∃ e, Answers (.i3cRead off) s e ∧ (s.dev.boot.powered = false ∨ waitsBehind s.dev .i3c = true → e = s.dev) ∧
      (s.dev.boot.powered = true → waitsBehind s.dev .i3c = false →
        (rd s.dev .bootStatusStage 0 ≠ 15 ∨ off < 0x200000 →
          e.out = .i3c ((toBytes 8 (nativeRead s.perm s.dev off 8 false)).map (·.toNat) ++ [0]) :: s.dev.out) ∧
        (rd s.dev .bootStatusStage 0 = 15 → 0x200000 ≤ off → ∃ bs, bs.length = 8 ∧ e.out = .i3c (bs ++ [2]) :: s.dev.out))) ∧
    (∃ e, Answers (.i3cWrite off val) s e ∧ (s.dev.boot.powered = false ∨ waitsBehind s.dev .i3c = true → e = s.dev) ∧
      (s.dev.boot.powered = true → waitsBehind s.dev .i3c = false →
        (0x4000000 < off + 8 → rd e .discardedWrites 0 = (rd s.dev .discardedWrites 0 + 1) % 2 ^ 32 ∧ rd e .lastDiscardSource 0 = 2 ∧
          e.out = .i3c [1] :: s.dev.out) ∧
        (off = 0x800008 → rd s.dev .bootStatusStage 0 ≠ 15 → isSet s.dev .safetyStatusHalted 0 = false → sealedOnes s.dev = [] →
          rd e .dispatchWaitTimeout 0 = val % 2 ^ 32 ∧ e.out = .i3c [0] :: s.dev.out)))) ∧
  (∀ s : State, s.dev.boot.powered = true → alertByte s.dev ≠ 0 → (∀ t, s.dev.acc.alertNs = some t → t + 10000000 ≤ s.dev.upNs) →
    ∃ e, Answers .i3cAlert s e ∧ e.out = .inBandInterrupt (alertByte s.dev) :: s.dev.out ∧ e.acc = { s.dev.acc with alertNs := some s.dev.upNs } ∧
      { e with out := s.dev.out, acc := s.dev.acc } = s.dev) ∧
  (∀ s : State, (∃ e, Answers .bypass s e ∧ e = emit s.dev (.tdo 1 0)) ∧ (∃ e, Answers .idcode s e ∧ e = emit s.dev (.tdo 32 0x0128014F)) ∧
    ∀ c ∈ [Instr.samplePreload, .extest], ∃ e, Answers c s e ∧ (rd s.dev .bootStatusStage 0 ≠ 15 → e = emit s.dev (.tdo 1 0)) ∧
      (rd s.dev .bootStatusStage 0 = 15 → ∃ n v, e.out = .tdo n v :: s.dev.out ∧ { e with out := s.dev.out, free := s.dev.free } = s.dev))
end

