-- ==== Sys2Proof/Laws/Maps.lean ====
section
/-!
SUPPORT. Sparse maps: what a lookup finds after a write, and that writes keep the canonical form.
-/
namespace Sys2Proof.Machine

variable {α : Type}

@[simp] theorem find?_put_self (m : KMap α) (k : Nat) (v : α) : find? (put m k v) k = some v := by
  induction m with
  | nil => simp [put, find?]
  | cons e t ih =>
    simp only [put]
    split
    · simp [find?]
    · split
      · simp [find?]
      · rename_i h _; simp [find?, h, ih]

theorem find?_put_ne (m : KMap α) {k j : Nat} (v : α) (h : j ≠ k) : find? (put m k v) j = find? m j := by
  induction m with
  | nil => simp [put, find?, h]
  | cons e t ih =>
    simp only [put]
    split
    · rename_i hk; subst hk; simp [find?, h]
    · split
      · simp [find?, h]
      · simp [find?, ih]

@[simp] theorem find?_del_self (m : KMap α) (k : Nat) : find? (del m k) k = none := by
  induction m with
  | nil => simp [del, find?]
  | cons e t ih =>
    simp only [del]
    split
    · exact ih
    · rename_i hk; simp [find?, hk, ih]

theorem find?_del_ne (m : KMap α) {k j : Nat} (h : j ≠ k) : find? (del m k) j = find? m j := by
  induction m with
  | nil => simp [del]
  | cons e t ih =>
    simp only [del]
    split
    · rename_i hk; subst hk; simp [find?, h, ih]
    · simp [find?, ih]

@[simp] theorem getD_put_self (m : KMap α) (k : Nat) (v d : α) : getD (put m k v) k d = v := by simp [getD]

theorem getD_put_ne (m : KMap α) {k j : Nat} (v d : α) (h : j ≠ k) : getD (put m k v) j d = getD m j d := by
  simp [getD, find?_put_ne m v h]

@[simp] theorem getD_putD_self [DecidableEq α] (m : KMap α) (k : Nat) (v d : α) : getD (putD m k v d) k d = v := by
  unfold putD
  split
  · rename_i h; simp [getD, h]
  · simp

theorem find?_putD_ne [DecidableEq α] (m : KMap α) {k j : Nat} (v d : α) (h : j ≠ k) :
    find? (putD m k v d) j = find? m j := by
  unfold putD
  split
  · exact find?_del_ne m h
  · exact find?_put_ne m v h

theorem getD_putD_ne [DecidableEq α] (m : KMap α) {k j : Nat} (v d : α) (h : j ≠ k) :
    getD (putD m k v d) j d = getD m j d := by
  unfold putD
  split
  · simp [getD, find?_del_ne m h]
  · exact getD_put_ne m v d h

/-! ### The canonical form -/

theorem rising_iff (m : KMap α) : rising m = true ↔ m.Pairwise fun a b => a.1 < b.1 := by
  induction m with
  | nil => simp [rising]
  | cons e t ih =>
    cases t with
    | nil => simp [rising]
    | cons e' t' =>
      simp only [rising, Bool.and_eq_true, decide_eq_true_eq, ih, List.pairwise_cons]
      constructor
      · rintro ⟨h, h1, h2⟩
        refine ⟨?_, h1, h2⟩
        intro x hx
        rcases List.mem_cons.1 hx with rfl | hx
        · exact h
        · exact lt_trans h (h1 x hx)
      · rintro ⟨h, h1, h2⟩
        exact ⟨h e' (List.mem_cons_self), h1, h2⟩

theorem mem_put {m : KMap α} {k : Nat} {v : α} {x : Nat × α} (h : x ∈ put m k v) : x = (k, v) ∨ x ∈ m := by
  induction m with
  | nil => simpa [put] using h
  | cons e t ih =>
    simp only [put] at h
    split at h
    · rcases List.mem_cons.1 h with h | h
      · exact .inl h
      · exact .inr (List.mem_cons_of_mem _ h)
    · split at h
      · rcases List.mem_cons.1 h with h | h
        · exact .inl h
        · exact .inr h
      · rcases List.mem_cons.1 h with h | h
        · exact .inr (h ▸ List.mem_cons_self)
        · exact (ih h).imp id (List.mem_cons_of_mem _)

theorem mem_del {m : KMap α} {k : Nat} {x : Nat × α} (h : x ∈ del m k) : x ∈ m := by
  induction m with
  | nil => simp [del] at h
  | cons e t ih =>
    simp only [del] at h
    split at h
    · exact List.mem_cons_of_mem _ (ih h)
    · rcases List.mem_cons.1 h with h | h
      · exact h ▸ List.mem_cons_self
      · exact List.mem_cons_of_mem _ (ih h)

theorem rising_put {m : KMap α} (k : Nat) (v : α) (h : rising m = true) : rising (put m k v) = true := by
  rw [rising_iff] at *
  induction m with
  | nil => simp [put]
  | cons e t ih =>
    obtain ⟨ht, hr⟩ := List.pairwise_cons.1 h
    simp only [put]
    split
    · rename_i hk
      subst hk
      exact List.pairwise_cons.2 ⟨ht, hr⟩
    · split
      · rename_i _ hlt
        refine List.pairwise_cons.2 ⟨fun x hx => ?_, h⟩
        rcases List.mem_cons.1 hx with rfl | hx
        · exact hlt
        · exact lt_trans hlt (ht x hx)
      · refine List.pairwise_cons.2 ⟨fun x hx => ?_, ih hr⟩
        rcases mem_put hx with rfl | hx
        · simp; omega
        · exact ht x hx

theorem rising_del {m : KMap α} (k : Nat) (h : rising m = true) : rising (del m k) = true := by
  rw [rising_iff] at *
  induction m with
  | nil => simp [del]
  | cons e t ih =>
    obtain ⟨ht, hr⟩ := List.pairwise_cons.1 h
    simp only [del]
    split
    · exact ih hr
    · exact List.pairwise_cons.2 ⟨fun x hx => ht x (mem_del hx), ih hr⟩

theorem rising_putD [DecidableEq α] {m : KMap α} {d : α} (k : Nat) (v : α) (h : rising m = true) : rising (putD m k v d) = true := by
  unfold putD
  split
  · exact rising_del k h
  · exact rising_put k v h

/-- Writing keeps the canonical form, whatever is written. -/
theorem canonical_putD [DecidableEq α] {m : KMap α} {d : α} (k : Nat) (v : α) (h : canonical d m = true) :
    canonical d (putD m k v d) = true := by
  simp only [canonical, Bool.and_eq_true, List.all_eq_true, decide_eq_true_eq] at *
  unfold putD
  split
  · exact ⟨rising_del k h.1, fun x hx => h.2 x (mem_del hx)⟩
  · refine ⟨rising_put k v h.1, fun x hx => ?_⟩
    rcases mem_put hx with rfl | hx
    · assumption
    · exact h.2 x hx

theorem canonical_nil [DecidableEq α] (d : α) : canonical d ([] : KMap α) = true := rfl

/-! ### Bytes -/

/-- Writing bytes keeps a sparse memory in its canonical form. -/
theorem canonical_writeSparse (bs : List Byte) (m : KMap Byte) (a : Nat) (h : canonical 0 m = true) :
    canonical 0 (writeSparse m a bs) = true := by
  induction bs generalizing m a with
  | nil => exact h
  | cons b t ih => exact ih _ _ (canonical_putD a b h)

theorem getD_writeSparse_out (bs : List Byte) (m : KMap Byte) (a j : Nat) (h : j < a ∨ a + bs.length ≤ j) :
    getD (writeSparse m a bs) j 0 = getD m j 0 := by
  induction bs generalizing m a with
  | nil => rfl
  | cons b t ih =>
    simp only [List.length_cons] at h
    rw [writeSparse, ih _ _ (by omega), getD_putD_ne _ _ _ (by omega)]

theorem getD_writeSparse_in (bs : List Byte) (m : KMap Byte) (a i : Nat) (h : i < bs.length) :
    getD (writeSparse m a bs) (a + i) 0 = bs[i] := by
  induction bs generalizing m a i with
  | nil => simp at h
  | cons b t ih =>
    rw [writeSparse]
    cases i with
    | zero => rw [getD_writeSparse_out _ _ _ _ (by omega)]; simp
    | succ i =>
      have := ih (putD m a b 0) (a + 1) i (by simpa using h)
      rw [show a + (i + 1) = a + 1 + i by omega, this]; simp

theorem length_readSparse (m : KMap Byte) (a n : Nat) : (readSparse m a n).length = n := by
  induction n generalizing a with
  | zero => rfl
  | succ n ih => simp [readSparse, ih]

theorem getElem_readSparse (m : KMap Byte) (a n i : Nat) (h : i < (readSparse m a n).length) :
    (readSparse m a n)[i] = getD m (a + i) 0 := by
  induction n generalizing a i with
  | zero => simp [readSparse] at h
  | succ n ih =>
    cases i with
    | zero => simp [readSparse]
    | succ i => simp only [readSparse, List.getElem_cons_succ]; rw [ih]; congr 1; omega

/-- A read of what was just written gives it. -/
theorem readSparse_writeSparse (m : KMap Byte) (a : Nat) (bs : List Byte) :
    readSparse (writeSparse m a bs) a bs.length = bs := by
  apply List.ext_getElem (length_readSparse _ _ _)
  intro i h1 h2
  rw [getElem_readSparse, getD_writeSparse_in _ _ _ _ h2]

end Sys2Proof.Machine
end

