-- ==== Sys2Proof/Laws/State.lean ====
section
/-!
SUPPORT. What each update of the state leaves in each component: one lemma per component per update.
-/
namespace Sys2Proof.Machine

@[simp] theorem onMem_mem (d : Dev) (f : MemSt → MemSt) : (onMem d f).mem = f d.mem := rfl
@[simp] theorem onMem_regs (d : Dev) (f : MemSt → MemSt) : (onMem d f).regs = d.regs := rfl
@[simp] theorem onMem_regsB (d : Dev) (f : MemSt → MemSt) : (onMem d f).regsB = d.regsB := rfl
@[simp] theorem onMem_regsC (d : Dev) (f : MemSt → MemSt) : (onMem d f).regsC = d.regsC := rfl
@[simp] theorem onMem_shadow (d : Dev) (f : MemSt → MemSt) : (onMem d f).shadow = d.shadow := rfl
@[simp] theorem onMem_free (d : Dev) (f : MemSt → MemSt) : (onMem d f).free = d.free := rfl
@[simp] theorem onMem_upNs (d : Dev) (f : MemSt → MemSt) : (onMem d f).upNs = d.upNs := rfl
@[simp] theorem onMem_out (d : Dev) (f : MemSt → MemSt) : (onMem d f).out = d.out := rfl
@[simp] theorem onMem_xl (d : Dev) (f : MemSt → MemSt) : (onMem d f).xl = d.xl := rfl
@[simp] theorem onMem_hl (d : Dev) (f : MemSt → MemSt) : (onMem d f).hl = d.hl := rfl
@[simp] theorem onMem_disp (d : Dev) (f : MemSt → MemSt) : (onMem d f).disp = d.disp := rfl
@[simp] theorem onMem_pwr (d : Dev) (f : MemSt → MemSt) : (onMem d f).pwr = d.pwr := rfl
@[simp] theorem onMem_tr (d : Dev) (f : MemSt → MemSt) : (onMem d f).tr = d.tr := rfl
@[simp] theorem onMem_top (d : Dev) (f : MemSt → MemSt) : (onMem d f).top = d.top := rfl
@[simp] theorem onMem_att (d : Dev) (f : MemSt → MemSt) : (onMem d f).att = d.att := rfl
@[simp] theorem onMem_port (d : Dev) (f : MemSt → MemSt) : (onMem d f).port = d.port := rfl
@[simp] theorem onMem_parts (d : Dev) (f : MemSt → MemSt) : (onMem d f).parts = d.parts := rfl
@[simp] theorem onMem_safe (d : Dev) (f : MemSt → MemSt) : (onMem d f).safe = d.safe := rfl
@[simp] theorem onMem_boot (d : Dev) (f : MemSt → MemSt) : (onMem d f).boot = d.boot := rfl
@[simp] theorem onMem_acc (d : Dev) (f : MemSt → MemSt) : (onMem d f).acc = d.acc := rfl
@[simp] theorem onMem_yew (d : Dev) (f : MemSt → MemSt) : (onMem d f).yew = d.yew := rfl
@[simp] theorem onMem_mesh (d : Dev) (f : MemSt → MemSt) : (onMem d f).mesh = d.mesh := rfl
@[simp] theorem onMem_coll (d : Dev) (f : MemSt → MemSt) : (onMem d f).coll = d.coll := rfl
@[simp] theorem onXl_xl (d : Dev) (f : XlSt → XlSt) : (onXl d f).xl = f d.xl := rfl
@[simp] theorem onXl_regs (d : Dev) (f : XlSt → XlSt) : (onXl d f).regs = d.regs := rfl
@[simp] theorem onXl_regsB (d : Dev) (f : XlSt → XlSt) : (onXl d f).regsB = d.regsB := rfl
@[simp] theorem onXl_regsC (d : Dev) (f : XlSt → XlSt) : (onXl d f).regsC = d.regsC := rfl
@[simp] theorem onXl_shadow (d : Dev) (f : XlSt → XlSt) : (onXl d f).shadow = d.shadow := rfl
@[simp] theorem onXl_free (d : Dev) (f : XlSt → XlSt) : (onXl d f).free = d.free := rfl
@[simp] theorem onXl_upNs (d : Dev) (f : XlSt → XlSt) : (onXl d f).upNs = d.upNs := rfl
@[simp] theorem onXl_out (d : Dev) (f : XlSt → XlSt) : (onXl d f).out = d.out := rfl
@[simp] theorem onXl_mem (d : Dev) (f : XlSt → XlSt) : (onXl d f).mem = d.mem := rfl
@[simp] theorem onXl_hl (d : Dev) (f : XlSt → XlSt) : (onXl d f).hl = d.hl := rfl
@[simp] theorem onXl_disp (d : Dev) (f : XlSt → XlSt) : (onXl d f).disp = d.disp := rfl
@[simp] theorem onXl_pwr (d : Dev) (f : XlSt → XlSt) : (onXl d f).pwr = d.pwr := rfl
@[simp] theorem onXl_tr (d : Dev) (f : XlSt → XlSt) : (onXl d f).tr = d.tr := rfl
@[simp] theorem onXl_top (d : Dev) (f : XlSt → XlSt) : (onXl d f).top = d.top := rfl
@[simp] theorem onXl_att (d : Dev) (f : XlSt → XlSt) : (onXl d f).att = d.att := rfl
@[simp] theorem onXl_port (d : Dev) (f : XlSt → XlSt) : (onXl d f).port = d.port := rfl
@[simp] theorem onXl_parts (d : Dev) (f : XlSt → XlSt) : (onXl d f).parts = d.parts := rfl
@[simp] theorem onXl_safe (d : Dev) (f : XlSt → XlSt) : (onXl d f).safe = d.safe := rfl
@[simp] theorem onXl_boot (d : Dev) (f : XlSt → XlSt) : (onXl d f).boot = d.boot := rfl
@[simp] theorem onXl_acc (d : Dev) (f : XlSt → XlSt) : (onXl d f).acc = d.acc := rfl
@[simp] theorem onXl_yew (d : Dev) (f : XlSt → XlSt) : (onXl d f).yew = d.yew := rfl
@[simp] theorem onXl_mesh (d : Dev) (f : XlSt → XlSt) : (onXl d f).mesh = d.mesh := rfl
@[simp] theorem onXl_coll (d : Dev) (f : XlSt → XlSt) : (onXl d f).coll = d.coll := rfl
@[simp] theorem onHl_hl (d : Dev) (f : HlSt → HlSt) : (onHl d f).hl = f d.hl := rfl
@[simp] theorem onHl_regs (d : Dev) (f : HlSt → HlSt) : (onHl d f).regs = d.regs := rfl
@[simp] theorem onHl_regsB (d : Dev) (f : HlSt → HlSt) : (onHl d f).regsB = d.regsB := rfl
@[simp] theorem onHl_regsC (d : Dev) (f : HlSt → HlSt) : (onHl d f).regsC = d.regsC := rfl
@[simp] theorem onHl_shadow (d : Dev) (f : HlSt → HlSt) : (onHl d f).shadow = d.shadow := rfl
@[simp] theorem onHl_free (d : Dev) (f : HlSt → HlSt) : (onHl d f).free = d.free := rfl
@[simp] theorem onHl_upNs (d : Dev) (f : HlSt → HlSt) : (onHl d f).upNs = d.upNs := rfl
@[simp] theorem onHl_out (d : Dev) (f : HlSt → HlSt) : (onHl d f).out = d.out := rfl
@[simp] theorem onHl_mem (d : Dev) (f : HlSt → HlSt) : (onHl d f).mem = d.mem := rfl
@[simp] theorem onHl_xl (d : Dev) (f : HlSt → HlSt) : (onHl d f).xl = d.xl := rfl
@[simp] theorem onHl_disp (d : Dev) (f : HlSt → HlSt) : (onHl d f).disp = d.disp := rfl
@[simp] theorem onHl_pwr (d : Dev) (f : HlSt → HlSt) : (onHl d f).pwr = d.pwr := rfl
@[simp] theorem onHl_tr (d : Dev) (f : HlSt → HlSt) : (onHl d f).tr = d.tr := rfl
@[simp] theorem onHl_top (d : Dev) (f : HlSt → HlSt) : (onHl d f).top = d.top := rfl
@[simp] theorem onHl_att (d : Dev) (f : HlSt → HlSt) : (onHl d f).att = d.att := rfl
@[simp] theorem onHl_port (d : Dev) (f : HlSt → HlSt) : (onHl d f).port = d.port := rfl
@[simp] theorem onHl_parts (d : Dev) (f : HlSt → HlSt) : (onHl d f).parts = d.parts := rfl
@[simp] theorem onHl_safe (d : Dev) (f : HlSt → HlSt) : (onHl d f).safe = d.safe := rfl
@[simp] theorem onHl_boot (d : Dev) (f : HlSt → HlSt) : (onHl d f).boot = d.boot := rfl
@[simp] theorem onHl_acc (d : Dev) (f : HlSt → HlSt) : (onHl d f).acc = d.acc := rfl
@[simp] theorem onHl_yew (d : Dev) (f : HlSt → HlSt) : (onHl d f).yew = d.yew := rfl
@[simp] theorem onHl_mesh (d : Dev) (f : HlSt → HlSt) : (onHl d f).mesh = d.mesh := rfl
@[simp] theorem onHl_coll (d : Dev) (f : HlSt → HlSt) : (onHl d f).coll = d.coll := rfl
@[simp] theorem onDisp_disp (d : Dev) (f : DispSt → DispSt) : (onDisp d f).disp = f d.disp := rfl
@[simp] theorem onDisp_regs (d : Dev) (f : DispSt → DispSt) : (onDisp d f).regs = d.regs := rfl
@[simp] theorem onDisp_regsB (d : Dev) (f : DispSt → DispSt) : (onDisp d f).regsB = d.regsB := rfl
@[simp] theorem onDisp_regsC (d : Dev) (f : DispSt → DispSt) : (onDisp d f).regsC = d.regsC := rfl
@[simp] theorem onDisp_shadow (d : Dev) (f : DispSt → DispSt) : (onDisp d f).shadow = d.shadow := rfl
@[simp] theorem onDisp_free (d : Dev) (f : DispSt → DispSt) : (onDisp d f).free = d.free := rfl
@[simp] theorem onDisp_upNs (d : Dev) (f : DispSt → DispSt) : (onDisp d f).upNs = d.upNs := rfl
@[simp] theorem onDisp_out (d : Dev) (f : DispSt → DispSt) : (onDisp d f).out = d.out := rfl
@[simp] theorem onDisp_mem (d : Dev) (f : DispSt → DispSt) : (onDisp d f).mem = d.mem := rfl
@[simp] theorem onDisp_xl (d : Dev) (f : DispSt → DispSt) : (onDisp d f).xl = d.xl := rfl
@[simp] theorem onDisp_hl (d : Dev) (f : DispSt → DispSt) : (onDisp d f).hl = d.hl := rfl
@[simp] theorem onDisp_pwr (d : Dev) (f : DispSt → DispSt) : (onDisp d f).pwr = d.pwr := rfl
@[simp] theorem onDisp_tr (d : Dev) (f : DispSt → DispSt) : (onDisp d f).tr = d.tr := rfl
@[simp] theorem onDisp_top (d : Dev) (f : DispSt → DispSt) : (onDisp d f).top = d.top := rfl
@[simp] theorem onDisp_att (d : Dev) (f : DispSt → DispSt) : (onDisp d f).att = d.att := rfl
@[simp] theorem onDisp_port (d : Dev) (f : DispSt → DispSt) : (onDisp d f).port = d.port := rfl
@[simp] theorem onDisp_parts (d : Dev) (f : DispSt → DispSt) : (onDisp d f).parts = d.parts := rfl
@[simp] theorem onDisp_safe (d : Dev) (f : DispSt → DispSt) : (onDisp d f).safe = d.safe := rfl
@[simp] theorem onDisp_boot (d : Dev) (f : DispSt → DispSt) : (onDisp d f).boot = d.boot := rfl
@[simp] theorem onDisp_acc (d : Dev) (f : DispSt → DispSt) : (onDisp d f).acc = d.acc := rfl
@[simp] theorem onDisp_yew (d : Dev) (f : DispSt → DispSt) : (onDisp d f).yew = d.yew := rfl
@[simp] theorem onDisp_mesh (d : Dev) (f : DispSt → DispSt) : (onDisp d f).mesh = d.mesh := rfl
@[simp] theorem onDisp_coll (d : Dev) (f : DispSt → DispSt) : (onDisp d f).coll = d.coll := rfl
@[simp] theorem onPwr_pwr (d : Dev) (f : PwrSt → PwrSt) : (onPwr d f).pwr = f d.pwr := rfl
@[simp] theorem onPwr_regs (d : Dev) (f : PwrSt → PwrSt) : (onPwr d f).regs = d.regs := rfl
@[simp] theorem onPwr_regsB (d : Dev) (f : PwrSt → PwrSt) : (onPwr d f).regsB = d.regsB := rfl
@[simp] theorem onPwr_regsC (d : Dev) (f : PwrSt → PwrSt) : (onPwr d f).regsC = d.regsC := rfl
@[simp] theorem onPwr_shadow (d : Dev) (f : PwrSt → PwrSt) : (onPwr d f).shadow = d.shadow := rfl
@[simp] theorem onPwr_free (d : Dev) (f : PwrSt → PwrSt) : (onPwr d f).free = d.free := rfl
@[simp] theorem onPwr_upNs (d : Dev) (f : PwrSt → PwrSt) : (onPwr d f).upNs = d.upNs := rfl
@[simp] theorem onPwr_out (d : Dev) (f : PwrSt → PwrSt) : (onPwr d f).out = d.out := rfl
@[simp] theorem onPwr_mem (d : Dev) (f : PwrSt → PwrSt) : (onPwr d f).mem = d.mem := rfl
@[simp] theorem onPwr_xl (d : Dev) (f : PwrSt → PwrSt) : (onPwr d f).xl = d.xl := rfl
@[simp] theorem onPwr_hl (d : Dev) (f : PwrSt → PwrSt) : (onPwr d f).hl = d.hl := rfl
@[simp] theorem onPwr_disp (d : Dev) (f : PwrSt → PwrSt) : (onPwr d f).disp = d.disp := rfl
@[simp] theorem onPwr_tr (d : Dev) (f : PwrSt → PwrSt) : (onPwr d f).tr = d.tr := rfl
@[simp] theorem onPwr_top (d : Dev) (f : PwrSt → PwrSt) : (onPwr d f).top = d.top := rfl
@[simp] theorem onPwr_att (d : Dev) (f : PwrSt → PwrSt) : (onPwr d f).att = d.att := rfl
@[simp] theorem onPwr_port (d : Dev) (f : PwrSt → PwrSt) : (onPwr d f).port = d.port := rfl
@[simp] theorem onPwr_parts (d : Dev) (f : PwrSt → PwrSt) : (onPwr d f).parts = d.parts := rfl
@[simp] theorem onPwr_safe (d : Dev) (f : PwrSt → PwrSt) : (onPwr d f).safe = d.safe := rfl
@[simp] theorem onPwr_boot (d : Dev) (f : PwrSt → PwrSt) : (onPwr d f).boot = d.boot := rfl
@[simp] theorem onPwr_acc (d : Dev) (f : PwrSt → PwrSt) : (onPwr d f).acc = d.acc := rfl
@[simp] theorem onPwr_yew (d : Dev) (f : PwrSt → PwrSt) : (onPwr d f).yew = d.yew := rfl
@[simp] theorem onPwr_mesh (d : Dev) (f : PwrSt → PwrSt) : (onPwr d f).mesh = d.mesh := rfl
@[simp] theorem onPwr_coll (d : Dev) (f : PwrSt → PwrSt) : (onPwr d f).coll = d.coll := rfl
@[simp] theorem onTr_tr (d : Dev) (f : TrSt → TrSt) : (onTr d f).tr = f d.tr := rfl
@[simp] theorem onTr_regs (d : Dev) (f : TrSt → TrSt) : (onTr d f).regs = d.regs := rfl
@[simp] theorem onTr_regsB (d : Dev) (f : TrSt → TrSt) : (onTr d f).regsB = d.regsB := rfl
@[simp] theorem onTr_regsC (d : Dev) (f : TrSt → TrSt) : (onTr d f).regsC = d.regsC := rfl
@[simp] theorem onTr_shadow (d : Dev) (f : TrSt → TrSt) : (onTr d f).shadow = d.shadow := rfl
@[simp] theorem onTr_free (d : Dev) (f : TrSt → TrSt) : (onTr d f).free = d.free := rfl
@[simp] theorem onTr_upNs (d : Dev) (f : TrSt → TrSt) : (onTr d f).upNs = d.upNs := rfl
@[simp] theorem onTr_out (d : Dev) (f : TrSt → TrSt) : (onTr d f).out = d.out := rfl
@[simp] theorem onTr_mem (d : Dev) (f : TrSt → TrSt) : (onTr d f).mem = d.mem := rfl
@[simp] theorem onTr_xl (d : Dev) (f : TrSt → TrSt) : (onTr d f).xl = d.xl := rfl
@[simp] theorem onTr_hl (d : Dev) (f : TrSt → TrSt) : (onTr d f).hl = d.hl := rfl
@[simp] theorem onTr_disp (d : Dev) (f : TrSt → TrSt) : (onTr d f).disp = d.disp := rfl
@[simp] theorem onTr_pwr (d : Dev) (f : TrSt → TrSt) : (onTr d f).pwr = d.pwr := rfl
@[simp] theorem onTr_top (d : Dev) (f : TrSt → TrSt) : (onTr d f).top = d.top := rfl
@[simp] theorem onTr_att (d : Dev) (f : TrSt → TrSt) : (onTr d f).att = d.att := rfl
@[simp] theorem onTr_port (d : Dev) (f : TrSt → TrSt) : (onTr d f).port = d.port := rfl
@[simp] theorem onTr_parts (d : Dev) (f : TrSt → TrSt) : (onTr d f).parts = d.parts := rfl
@[simp] theorem onTr_safe (d : Dev) (f : TrSt → TrSt) : (onTr d f).safe = d.safe := rfl
@[simp] theorem onTr_boot (d : Dev) (f : TrSt → TrSt) : (onTr d f).boot = d.boot := rfl
@[simp] theorem onTr_acc (d : Dev) (f : TrSt → TrSt) : (onTr d f).acc = d.acc := rfl
@[simp] theorem onTr_yew (d : Dev) (f : TrSt → TrSt) : (onTr d f).yew = d.yew := rfl
@[simp] theorem onTr_mesh (d : Dev) (f : TrSt → TrSt) : (onTr d f).mesh = d.mesh := rfl
@[simp] theorem onTr_coll (d : Dev) (f : TrSt → TrSt) : (onTr d f).coll = d.coll := rfl
@[simp] theorem onTop_top (d : Dev) (f : TopSt → TopSt) : (onTop d f).top = f d.top := rfl
@[simp] theorem onTop_regs (d : Dev) (f : TopSt → TopSt) : (onTop d f).regs = d.regs := rfl
@[simp] theorem onTop_regsB (d : Dev) (f : TopSt → TopSt) : (onTop d f).regsB = d.regsB := rfl
@[simp] theorem onTop_regsC (d : Dev) (f : TopSt → TopSt) : (onTop d f).regsC = d.regsC := rfl
@[simp] theorem onTop_shadow (d : Dev) (f : TopSt → TopSt) : (onTop d f).shadow = d.shadow := rfl
@[simp] theorem onTop_free (d : Dev) (f : TopSt → TopSt) : (onTop d f).free = d.free := rfl
@[simp] theorem onTop_upNs (d : Dev) (f : TopSt → TopSt) : (onTop d f).upNs = d.upNs := rfl
@[simp] theorem onTop_out (d : Dev) (f : TopSt → TopSt) : (onTop d f).out = d.out := rfl
@[simp] theorem onTop_mem (d : Dev) (f : TopSt → TopSt) : (onTop d f).mem = d.mem := rfl
@[simp] theorem onTop_xl (d : Dev) (f : TopSt → TopSt) : (onTop d f).xl = d.xl := rfl
@[simp] theorem onTop_hl (d : Dev) (f : TopSt → TopSt) : (onTop d f).hl = d.hl := rfl
@[simp] theorem onTop_disp (d : Dev) (f : TopSt → TopSt) : (onTop d f).disp = d.disp := rfl
@[simp] theorem onTop_pwr (d : Dev) (f : TopSt → TopSt) : (onTop d f).pwr = d.pwr := rfl
@[simp] theorem onTop_tr (d : Dev) (f : TopSt → TopSt) : (onTop d f).tr = d.tr := rfl
@[simp] theorem onTop_att (d : Dev) (f : TopSt → TopSt) : (onTop d f).att = d.att := rfl
@[simp] theorem onTop_port (d : Dev) (f : TopSt → TopSt) : (onTop d f).port = d.port := rfl
@[simp] theorem onTop_parts (d : Dev) (f : TopSt → TopSt) : (onTop d f).parts = d.parts := rfl
@[simp] theorem onTop_safe (d : Dev) (f : TopSt → TopSt) : (onTop d f).safe = d.safe := rfl
@[simp] theorem onTop_boot (d : Dev) (f : TopSt → TopSt) : (onTop d f).boot = d.boot := rfl
@[simp] theorem onTop_acc (d : Dev) (f : TopSt → TopSt) : (onTop d f).acc = d.acc := rfl
@[simp] theorem onTop_yew (d : Dev) (f : TopSt → TopSt) : (onTop d f).yew = d.yew := rfl
@[simp] theorem onTop_mesh (d : Dev) (f : TopSt → TopSt) : (onTop d f).mesh = d.mesh := rfl
@[simp] theorem onTop_coll (d : Dev) (f : TopSt → TopSt) : (onTop d f).coll = d.coll := rfl
@[simp] theorem onAtt_att (d : Dev) (f : AttSt → AttSt) : (onAtt d f).att = f d.att := rfl
@[simp] theorem onAtt_regs (d : Dev) (f : AttSt → AttSt) : (onAtt d f).regs = d.regs := rfl
@[simp] theorem onAtt_regsB (d : Dev) (f : AttSt → AttSt) : (onAtt d f).regsB = d.regsB := rfl
@[simp] theorem onAtt_regsC (d : Dev) (f : AttSt → AttSt) : (onAtt d f).regsC = d.regsC := rfl
@[simp] theorem onAtt_shadow (d : Dev) (f : AttSt → AttSt) : (onAtt d f).shadow = d.shadow := rfl
@[simp] theorem onAtt_free (d : Dev) (f : AttSt → AttSt) : (onAtt d f).free = d.free := rfl
@[simp] theorem onAtt_upNs (d : Dev) (f : AttSt → AttSt) : (onAtt d f).upNs = d.upNs := rfl
@[simp] theorem onAtt_out (d : Dev) (f : AttSt → AttSt) : (onAtt d f).out = d.out := rfl
@[simp] theorem onAtt_mem (d : Dev) (f : AttSt → AttSt) : (onAtt d f).mem = d.mem := rfl
@[simp] theorem onAtt_xl (d : Dev) (f : AttSt → AttSt) : (onAtt d f).xl = d.xl := rfl
@[simp] theorem onAtt_hl (d : Dev) (f : AttSt → AttSt) : (onAtt d f).hl = d.hl := rfl
@[simp] theorem onAtt_disp (d : Dev) (f : AttSt → AttSt) : (onAtt d f).disp = d.disp := rfl
@[simp] theorem onAtt_pwr (d : Dev) (f : AttSt → AttSt) : (onAtt d f).pwr = d.pwr := rfl
@[simp] theorem onAtt_tr (d : Dev) (f : AttSt → AttSt) : (onAtt d f).tr = d.tr := rfl
@[simp] theorem onAtt_top (d : Dev) (f : AttSt → AttSt) : (onAtt d f).top = d.top := rfl
@[simp] theorem onAtt_port (d : Dev) (f : AttSt → AttSt) : (onAtt d f).port = d.port := rfl
@[simp] theorem onAtt_parts (d : Dev) (f : AttSt → AttSt) : (onAtt d f).parts = d.parts := rfl
@[simp] theorem onAtt_safe (d : Dev) (f : AttSt → AttSt) : (onAtt d f).safe = d.safe := rfl
@[simp] theorem onAtt_boot (d : Dev) (f : AttSt → AttSt) : (onAtt d f).boot = d.boot := rfl
@[simp] theorem onAtt_acc (d : Dev) (f : AttSt → AttSt) : (onAtt d f).acc = d.acc := rfl
@[simp] theorem onAtt_yew (d : Dev) (f : AttSt → AttSt) : (onAtt d f).yew = d.yew := rfl
@[simp] theorem onAtt_mesh (d : Dev) (f : AttSt → AttSt) : (onAtt d f).mesh = d.mesh := rfl
@[simp] theorem onAtt_coll (d : Dev) (f : AttSt → AttSt) : (onAtt d f).coll = d.coll := rfl
@[simp] theorem onPort_port (d : Dev) (f : PortSt → PortSt) : (onPort d f).port = f d.port := rfl
@[simp] theorem onPort_regs (d : Dev) (f : PortSt → PortSt) : (onPort d f).regs = d.regs := rfl
@[simp] theorem onPort_regsB (d : Dev) (f : PortSt → PortSt) : (onPort d f).regsB = d.regsB := rfl
@[simp] theorem onPort_regsC (d : Dev) (f : PortSt → PortSt) : (onPort d f).regsC = d.regsC := rfl
@[simp] theorem onPort_shadow (d : Dev) (f : PortSt → PortSt) : (onPort d f).shadow = d.shadow := rfl
@[simp] theorem onPort_free (d : Dev) (f : PortSt → PortSt) : (onPort d f).free = d.free := rfl
@[simp] theorem onPort_upNs (d : Dev) (f : PortSt → PortSt) : (onPort d f).upNs = d.upNs := rfl
@[simp] theorem onPort_out (d : Dev) (f : PortSt → PortSt) : (onPort d f).out = d.out := rfl
@[simp] theorem onPort_mem (d : Dev) (f : PortSt → PortSt) : (onPort d f).mem = d.mem := rfl
@[simp] theorem onPort_xl (d : Dev) (f : PortSt → PortSt) : (onPort d f).xl = d.xl := rfl
@[simp] theorem onPort_hl (d : Dev) (f : PortSt → PortSt) : (onPort d f).hl = d.hl := rfl
@[simp] theorem onPort_disp (d : Dev) (f : PortSt → PortSt) : (onPort d f).disp = d.disp := rfl
@[simp] theorem onPort_pwr (d : Dev) (f : PortSt → PortSt) : (onPort d f).pwr = d.pwr := rfl
@[simp] theorem onPort_tr (d : Dev) (f : PortSt → PortSt) : (onPort d f).tr = d.tr := rfl
@[simp] theorem onPort_top (d : Dev) (f : PortSt → PortSt) : (onPort d f).top = d.top := rfl
@[simp] theorem onPort_att (d : Dev) (f : PortSt → PortSt) : (onPort d f).att = d.att := rfl
@[simp] theorem onPort_parts (d : Dev) (f : PortSt → PortSt) : (onPort d f).parts = d.parts := rfl
@[simp] theorem onPort_safe (d : Dev) (f : PortSt → PortSt) : (onPort d f).safe = d.safe := rfl
@[simp] theorem onPort_boot (d : Dev) (f : PortSt → PortSt) : (onPort d f).boot = d.boot := rfl
@[simp] theorem onPort_acc (d : Dev) (f : PortSt → PortSt) : (onPort d f).acc = d.acc := rfl
@[simp] theorem onPort_yew (d : Dev) (f : PortSt → PortSt) : (onPort d f).yew = d.yew := rfl
@[simp] theorem onPort_mesh (d : Dev) (f : PortSt → PortSt) : (onPort d f).mesh = d.mesh := rfl
@[simp] theorem onPort_coll (d : Dev) (f : PortSt → PortSt) : (onPort d f).coll = d.coll := rfl
@[simp] theorem onParts_parts (d : Dev) (f : PartSt → PartSt) : (onParts d f).parts = f d.parts := rfl
@[simp] theorem onParts_regs (d : Dev) (f : PartSt → PartSt) : (onParts d f).regs = d.regs := rfl
@[simp] theorem onParts_regsB (d : Dev) (f : PartSt → PartSt) : (onParts d f).regsB = d.regsB := rfl
@[simp] theorem onParts_regsC (d : Dev) (f : PartSt → PartSt) : (onParts d f).regsC = d.regsC := rfl
@[simp] theorem onParts_shadow (d : Dev) (f : PartSt → PartSt) : (onParts d f).shadow = d.shadow := rfl
@[simp] theorem onParts_free (d : Dev) (f : PartSt → PartSt) : (onParts d f).free = d.free := rfl
@[simp] theorem onParts_upNs (d : Dev) (f : PartSt → PartSt) : (onParts d f).upNs = d.upNs := rfl
@[simp] theorem onParts_out (d : Dev) (f : PartSt → PartSt) : (onParts d f).out = d.out := rfl
@[simp] theorem onParts_mem (d : Dev) (f : PartSt → PartSt) : (onParts d f).mem = d.mem := rfl
@[simp] theorem onParts_xl (d : Dev) (f : PartSt → PartSt) : (onParts d f).xl = d.xl := rfl
@[simp] theorem onParts_hl (d : Dev) (f : PartSt → PartSt) : (onParts d f).hl = d.hl := rfl
@[simp] theorem onParts_disp (d : Dev) (f : PartSt → PartSt) : (onParts d f).disp = d.disp := rfl
@[simp] theorem onParts_pwr (d : Dev) (f : PartSt → PartSt) : (onParts d f).pwr = d.pwr := rfl
@[simp] theorem onParts_tr (d : Dev) (f : PartSt → PartSt) : (onParts d f).tr = d.tr := rfl
@[simp] theorem onParts_top (d : Dev) (f : PartSt → PartSt) : (onParts d f).top = d.top := rfl
@[simp] theorem onParts_att (d : Dev) (f : PartSt → PartSt) : (onParts d f).att = d.att := rfl
@[simp] theorem onParts_port (d : Dev) (f : PartSt → PartSt) : (onParts d f).port = d.port := rfl
@[simp] theorem onParts_safe (d : Dev) (f : PartSt → PartSt) : (onParts d f).safe = d.safe := rfl
@[simp] theorem onParts_boot (d : Dev) (f : PartSt → PartSt) : (onParts d f).boot = d.boot := rfl
@[simp] theorem onParts_acc (d : Dev) (f : PartSt → PartSt) : (onParts d f).acc = d.acc := rfl
@[simp] theorem onParts_yew (d : Dev) (f : PartSt → PartSt) : (onParts d f).yew = d.yew := rfl
@[simp] theorem onParts_mesh (d : Dev) (f : PartSt → PartSt) : (onParts d f).mesh = d.mesh := rfl
@[simp] theorem onParts_coll (d : Dev) (f : PartSt → PartSt) : (onParts d f).coll = d.coll := rfl
@[simp] theorem onSafe_safe (d : Dev) (f : SafeSt → SafeSt) : (onSafe d f).safe = f d.safe := rfl
@[simp] theorem onSafe_regs (d : Dev) (f : SafeSt → SafeSt) : (onSafe d f).regs = d.regs := rfl
@[simp] theorem onSafe_regsB (d : Dev) (f : SafeSt → SafeSt) : (onSafe d f).regsB = d.regsB := rfl
@[simp] theorem onSafe_regsC (d : Dev) (f : SafeSt → SafeSt) : (onSafe d f).regsC = d.regsC := rfl
@[simp] theorem onSafe_shadow (d : Dev) (f : SafeSt → SafeSt) : (onSafe d f).shadow = d.shadow := rfl
@[simp] theorem onSafe_free (d : Dev) (f : SafeSt → SafeSt) : (onSafe d f).free = d.free := rfl
@[simp] theorem onSafe_upNs (d : Dev) (f : SafeSt → SafeSt) : (onSafe d f).upNs = d.upNs := rfl
@[simp] theorem onSafe_out (d : Dev) (f : SafeSt → SafeSt) : (onSafe d f).out = d.out := rfl
@[simp] theorem onSafe_mem (d : Dev) (f : SafeSt → SafeSt) : (onSafe d f).mem = d.mem := rfl
@[simp] theorem onSafe_xl (d : Dev) (f : SafeSt → SafeSt) : (onSafe d f).xl = d.xl := rfl
@[simp] theorem onSafe_hl (d : Dev) (f : SafeSt → SafeSt) : (onSafe d f).hl = d.hl := rfl
@[simp] theorem onSafe_disp (d : Dev) (f : SafeSt → SafeSt) : (onSafe d f).disp = d.disp := rfl
@[simp] theorem onSafe_pwr (d : Dev) (f : SafeSt → SafeSt) : (onSafe d f).pwr = d.pwr := rfl
@[simp] theorem onSafe_tr (d : Dev) (f : SafeSt → SafeSt) : (onSafe d f).tr = d.tr := rfl
@[simp] theorem onSafe_top (d : Dev) (f : SafeSt → SafeSt) : (onSafe d f).top = d.top := rfl
@[simp] theorem onSafe_att (d : Dev) (f : SafeSt → SafeSt) : (onSafe d f).att = d.att := rfl
@[simp] theorem onSafe_port (d : Dev) (f : SafeSt → SafeSt) : (onSafe d f).port = d.port := rfl
@[simp] theorem onSafe_parts (d : Dev) (f : SafeSt → SafeSt) : (onSafe d f).parts = d.parts := rfl
@[simp] theorem onSafe_boot (d : Dev) (f : SafeSt → SafeSt) : (onSafe d f).boot = d.boot := rfl
@[simp] theorem onSafe_acc (d : Dev) (f : SafeSt → SafeSt) : (onSafe d f).acc = d.acc := rfl
@[simp] theorem onSafe_yew (d : Dev) (f : SafeSt → SafeSt) : (onSafe d f).yew = d.yew := rfl
@[simp] theorem onSafe_mesh (d : Dev) (f : SafeSt → SafeSt) : (onSafe d f).mesh = d.mesh := rfl
@[simp] theorem onSafe_coll (d : Dev) (f : SafeSt → SafeSt) : (onSafe d f).coll = d.coll := rfl
@[simp] theorem onBoot_boot (d : Dev) (f : BootSt → BootSt) : (onBoot d f).boot = f d.boot := rfl
@[simp] theorem onBoot_regs (d : Dev) (f : BootSt → BootSt) : (onBoot d f).regs = d.regs := rfl
@[simp] theorem onBoot_regsB (d : Dev) (f : BootSt → BootSt) : (onBoot d f).regsB = d.regsB := rfl
@[simp] theorem onBoot_regsC (d : Dev) (f : BootSt → BootSt) : (onBoot d f).regsC = d.regsC := rfl
@[simp] theorem onBoot_shadow (d : Dev) (f : BootSt → BootSt) : (onBoot d f).shadow = d.shadow := rfl
@[simp] theorem onBoot_free (d : Dev) (f : BootSt → BootSt) : (onBoot d f).free = d.free := rfl
@[simp] theorem onBoot_upNs (d : Dev) (f : BootSt → BootSt) : (onBoot d f).upNs = d.upNs := rfl
@[simp] theorem onBoot_out (d : Dev) (f : BootSt → BootSt) : (onBoot d f).out = d.out := rfl
@[simp] theorem onBoot_mem (d : Dev) (f : BootSt → BootSt) : (onBoot d f).mem = d.mem := rfl
@[simp] theorem onBoot_xl (d : Dev) (f : BootSt → BootSt) : (onBoot d f).xl = d.xl := rfl
@[simp] theorem onBoot_hl (d : Dev) (f : BootSt → BootSt) : (onBoot d f).hl = d.hl := rfl
@[simp] theorem onBoot_disp (d : Dev) (f : BootSt → BootSt) : (onBoot d f).disp = d.disp := rfl
@[simp] theorem onBoot_pwr (d : Dev) (f : BootSt → BootSt) : (onBoot d f).pwr = d.pwr := rfl
@[simp] theorem onBoot_tr (d : Dev) (f : BootSt → BootSt) : (onBoot d f).tr = d.tr := rfl
@[simp] theorem onBoot_top (d : Dev) (f : BootSt → BootSt) : (onBoot d f).top = d.top := rfl
@[simp] theorem onBoot_att (d : Dev) (f : BootSt → BootSt) : (onBoot d f).att = d.att := rfl
@[simp] theorem onBoot_port (d : Dev) (f : BootSt → BootSt) : (onBoot d f).port = d.port := rfl
@[simp] theorem onBoot_parts (d : Dev) (f : BootSt → BootSt) : (onBoot d f).parts = d.parts := rfl
@[simp] theorem onBoot_safe (d : Dev) (f : BootSt → BootSt) : (onBoot d f).safe = d.safe := rfl
@[simp] theorem onBoot_acc (d : Dev) (f : BootSt → BootSt) : (onBoot d f).acc = d.acc := rfl
@[simp] theorem onBoot_yew (d : Dev) (f : BootSt → BootSt) : (onBoot d f).yew = d.yew := rfl
@[simp] theorem onBoot_mesh (d : Dev) (f : BootSt → BootSt) : (onBoot d f).mesh = d.mesh := rfl
@[simp] theorem onBoot_coll (d : Dev) (f : BootSt → BootSt) : (onBoot d f).coll = d.coll := rfl
@[simp] theorem onAcc_acc (d : Dev) (f : AccSt → AccSt) : (onAcc d f).acc = f d.acc := rfl
@[simp] theorem onAcc_regs (d : Dev) (f : AccSt → AccSt) : (onAcc d f).regs = d.regs := rfl
@[simp] theorem onAcc_regsB (d : Dev) (f : AccSt → AccSt) : (onAcc d f).regsB = d.regsB := rfl
@[simp] theorem onAcc_regsC (d : Dev) (f : AccSt → AccSt) : (onAcc d f).regsC = d.regsC := rfl
@[simp] theorem onAcc_shadow (d : Dev) (f : AccSt → AccSt) : (onAcc d f).shadow = d.shadow := rfl
@[simp] theorem onAcc_free (d : Dev) (f : AccSt → AccSt) : (onAcc d f).free = d.free := rfl
@[simp] theorem onAcc_upNs (d : Dev) (f : AccSt → AccSt) : (onAcc d f).upNs = d.upNs := rfl
@[simp] theorem onAcc_out (d : Dev) (f : AccSt → AccSt) : (onAcc d f).out = d.out := rfl
@[simp] theorem onAcc_mem (d : Dev) (f : AccSt → AccSt) : (onAcc d f).mem = d.mem := rfl
@[simp] theorem onAcc_xl (d : Dev) (f : AccSt → AccSt) : (onAcc d f).xl = d.xl := rfl
@[simp] theorem onAcc_hl (d : Dev) (f : AccSt → AccSt) : (onAcc d f).hl = d.hl := rfl
@[simp] theorem onAcc_disp (d : Dev) (f : AccSt → AccSt) : (onAcc d f).disp = d.disp := rfl
@[simp] theorem onAcc_pwr (d : Dev) (f : AccSt → AccSt) : (onAcc d f).pwr = d.pwr := rfl
@[simp] theorem onAcc_tr (d : Dev) (f : AccSt → AccSt) : (onAcc d f).tr = d.tr := rfl
@[simp] theorem onAcc_top (d : Dev) (f : AccSt → AccSt) : (onAcc d f).top = d.top := rfl
@[simp] theorem onAcc_att (d : Dev) (f : AccSt → AccSt) : (onAcc d f).att = d.att := rfl
@[simp] theorem onAcc_port (d : Dev) (f : AccSt → AccSt) : (onAcc d f).port = d.port := rfl
@[simp] theorem onAcc_parts (d : Dev) (f : AccSt → AccSt) : (onAcc d f).parts = d.parts := rfl
@[simp] theorem onAcc_safe (d : Dev) (f : AccSt → AccSt) : (onAcc d f).safe = d.safe := rfl
@[simp] theorem onAcc_boot (d : Dev) (f : AccSt → AccSt) : (onAcc d f).boot = d.boot := rfl
@[simp] theorem onAcc_yew (d : Dev) (f : AccSt → AccSt) : (onAcc d f).yew = d.yew := rfl
@[simp] theorem onAcc_mesh (d : Dev) (f : AccSt → AccSt) : (onAcc d f).mesh = d.mesh := rfl
@[simp] theorem onAcc_coll (d : Dev) (f : AccSt → AccSt) : (onAcc d f).coll = d.coll := rfl
@[simp] theorem onYew_yew (d : Dev) (f : YewSt → YewSt) : (onYew d f).yew = f d.yew := rfl
@[simp] theorem onYew_regs (d : Dev) (f : YewSt → YewSt) : (onYew d f).regs = d.regs := rfl
@[simp] theorem onYew_regsB (d : Dev) (f : YewSt → YewSt) : (onYew d f).regsB = d.regsB := rfl
@[simp] theorem onYew_regsC (d : Dev) (f : YewSt → YewSt) : (onYew d f).regsC = d.regsC := rfl
@[simp] theorem onYew_shadow (d : Dev) (f : YewSt → YewSt) : (onYew d f).shadow = d.shadow := rfl
@[simp] theorem onYew_free (d : Dev) (f : YewSt → YewSt) : (onYew d f).free = d.free := rfl
@[simp] theorem onYew_upNs (d : Dev) (f : YewSt → YewSt) : (onYew d f).upNs = d.upNs := rfl
@[simp] theorem onYew_out (d : Dev) (f : YewSt → YewSt) : (onYew d f).out = d.out := rfl
@[simp] theorem onYew_mem (d : Dev) (f : YewSt → YewSt) : (onYew d f).mem = d.mem := rfl
@[simp] theorem onYew_xl (d : Dev) (f : YewSt → YewSt) : (onYew d f).xl = d.xl := rfl
@[simp] theorem onYew_hl (d : Dev) (f : YewSt → YewSt) : (onYew d f).hl = d.hl := rfl
@[simp] theorem onYew_disp (d : Dev) (f : YewSt → YewSt) : (onYew d f).disp = d.disp := rfl
@[simp] theorem onYew_pwr (d : Dev) (f : YewSt → YewSt) : (onYew d f).pwr = d.pwr := rfl
@[simp] theorem onYew_tr (d : Dev) (f : YewSt → YewSt) : (onYew d f).tr = d.tr := rfl
@[simp] theorem onYew_top (d : Dev) (f : YewSt → YewSt) : (onYew d f).top = d.top := rfl
@[simp] theorem onYew_att (d : Dev) (f : YewSt → YewSt) : (onYew d f).att = d.att := rfl
@[simp] theorem onYew_port (d : Dev) (f : YewSt → YewSt) : (onYew d f).port = d.port := rfl
@[simp] theorem onYew_parts (d : Dev) (f : YewSt → YewSt) : (onYew d f).parts = d.parts := rfl
@[simp] theorem onYew_safe (d : Dev) (f : YewSt → YewSt) : (onYew d f).safe = d.safe := rfl
@[simp] theorem onYew_boot (d : Dev) (f : YewSt → YewSt) : (onYew d f).boot = d.boot := rfl
@[simp] theorem onYew_acc (d : Dev) (f : YewSt → YewSt) : (onYew d f).acc = d.acc := rfl
@[simp] theorem onYew_mesh (d : Dev) (f : YewSt → YewSt) : (onYew d f).mesh = d.mesh := rfl
@[simp] theorem onYew_coll (d : Dev) (f : YewSt → YewSt) : (onYew d f).coll = d.coll := rfl
@[simp] theorem onMesh_mesh (d : Dev) (f : MeshSt → MeshSt) : (onMesh d f).mesh = f d.mesh := rfl
@[simp] theorem onMesh_regs (d : Dev) (f : MeshSt → MeshSt) : (onMesh d f).regs = d.regs := rfl
@[simp] theorem onMesh_regsB (d : Dev) (f : MeshSt → MeshSt) : (onMesh d f).regsB = d.regsB := rfl
@[simp] theorem onMesh_regsC (d : Dev) (f : MeshSt → MeshSt) : (onMesh d f).regsC = d.regsC := rfl
@[simp] theorem onMesh_shadow (d : Dev) (f : MeshSt → MeshSt) : (onMesh d f).shadow = d.shadow := rfl
@[simp] theorem onMesh_free (d : Dev) (f : MeshSt → MeshSt) : (onMesh d f).free = d.free := rfl
@[simp] theorem onMesh_upNs (d : Dev) (f : MeshSt → MeshSt) : (onMesh d f).upNs = d.upNs := rfl
@[simp] theorem onMesh_out (d : Dev) (f : MeshSt → MeshSt) : (onMesh d f).out = d.out := rfl
@[simp] theorem onMesh_mem (d : Dev) (f : MeshSt → MeshSt) : (onMesh d f).mem = d.mem := rfl
@[simp] theorem onMesh_xl (d : Dev) (f : MeshSt → MeshSt) : (onMesh d f).xl = d.xl := rfl
@[simp] theorem onMesh_hl (d : Dev) (f : MeshSt → MeshSt) : (onMesh d f).hl = d.hl := rfl
@[simp] theorem onMesh_disp (d : Dev) (f : MeshSt → MeshSt) : (onMesh d f).disp = d.disp := rfl
@[simp] theorem onMesh_pwr (d : Dev) (f : MeshSt → MeshSt) : (onMesh d f).pwr = d.pwr := rfl
@[simp] theorem onMesh_tr (d : Dev) (f : MeshSt → MeshSt) : (onMesh d f).tr = d.tr := rfl
@[simp] theorem onMesh_top (d : Dev) (f : MeshSt → MeshSt) : (onMesh d f).top = d.top := rfl
@[simp] theorem onMesh_att (d : Dev) (f : MeshSt → MeshSt) : (onMesh d f).att = d.att := rfl
@[simp] theorem onMesh_port (d : Dev) (f : MeshSt → MeshSt) : (onMesh d f).port = d.port := rfl
@[simp] theorem onMesh_parts (d : Dev) (f : MeshSt → MeshSt) : (onMesh d f).parts = d.parts := rfl
@[simp] theorem onMesh_safe (d : Dev) (f : MeshSt → MeshSt) : (onMesh d f).safe = d.safe := rfl
@[simp] theorem onMesh_boot (d : Dev) (f : MeshSt → MeshSt) : (onMesh d f).boot = d.boot := rfl
@[simp] theorem onMesh_acc (d : Dev) (f : MeshSt → MeshSt) : (onMesh d f).acc = d.acc := rfl
@[simp] theorem onMesh_yew (d : Dev) (f : MeshSt → MeshSt) : (onMesh d f).yew = d.yew := rfl
@[simp] theorem onMesh_coll (d : Dev) (f : MeshSt → MeshSt) : (onMesh d f).coll = d.coll := rfl
@[simp] theorem onColl_coll (d : Dev) (f : CollSt → CollSt) : (onColl d f).coll = f d.coll := rfl
@[simp] theorem onColl_regs (d : Dev) (f : CollSt → CollSt) : (onColl d f).regs = d.regs := rfl
@[simp] theorem onColl_regsB (d : Dev) (f : CollSt → CollSt) : (onColl d f).regsB = d.regsB := rfl
@[simp] theorem onColl_regsC (d : Dev) (f : CollSt → CollSt) : (onColl d f).regsC = d.regsC := rfl
@[simp] theorem onColl_shadow (d : Dev) (f : CollSt → CollSt) : (onColl d f).shadow = d.shadow := rfl
@[simp] theorem onColl_free (d : Dev) (f : CollSt → CollSt) : (onColl d f).free = d.free := rfl
@[simp] theorem onColl_upNs (d : Dev) (f : CollSt → CollSt) : (onColl d f).upNs = d.upNs := rfl
@[simp] theorem onColl_out (d : Dev) (f : CollSt → CollSt) : (onColl d f).out = d.out := rfl
@[simp] theorem onColl_mem (d : Dev) (f : CollSt → CollSt) : (onColl d f).mem = d.mem := rfl
@[simp] theorem onColl_xl (d : Dev) (f : CollSt → CollSt) : (onColl d f).xl = d.xl := rfl
@[simp] theorem onColl_hl (d : Dev) (f : CollSt → CollSt) : (onColl d f).hl = d.hl := rfl
@[simp] theorem onColl_disp (d : Dev) (f : CollSt → CollSt) : (onColl d f).disp = d.disp := rfl
@[simp] theorem onColl_pwr (d : Dev) (f : CollSt → CollSt) : (onColl d f).pwr = d.pwr := rfl
@[simp] theorem onColl_tr (d : Dev) (f : CollSt → CollSt) : (onColl d f).tr = d.tr := rfl
@[simp] theorem onColl_top (d : Dev) (f : CollSt → CollSt) : (onColl d f).top = d.top := rfl
@[simp] theorem onColl_att (d : Dev) (f : CollSt → CollSt) : (onColl d f).att = d.att := rfl
@[simp] theorem onColl_port (d : Dev) (f : CollSt → CollSt) : (onColl d f).port = d.port := rfl
@[simp] theorem onColl_parts (d : Dev) (f : CollSt → CollSt) : (onColl d f).parts = d.parts := rfl
@[simp] theorem onColl_safe (d : Dev) (f : CollSt → CollSt) : (onColl d f).safe = d.safe := rfl
@[simp] theorem onColl_boot (d : Dev) (f : CollSt → CollSt) : (onColl d f).boot = d.boot := rfl
@[simp] theorem onColl_acc (d : Dev) (f : CollSt → CollSt) : (onColl d f).acc = d.acc := rfl
@[simp] theorem onColl_yew (d : Dev) (f : CollSt → CollSt) : (onColl d f).yew = d.yew := rfl
@[simp] theorem onColl_mesh (d : Dev) (f : CollSt → CollSt) : (onColl d f).mesh = d.mesh := rfl

/-! ### Registers, outputs, free values -/

@[simp] theorem wr_shadow (d : Dev) (f : Fld) (i v : Nat) : (wr d f i v).shadow = d.shadow := by unfold wr; dsimp only; split <;> rfl
@[simp] theorem wr_free (d : Dev) (f : Fld) (i v : Nat) : (wr d f i v).free = d.free := by unfold wr; dsimp only; split <;> rfl
@[simp] theorem wr_upNs (d : Dev) (f : Fld) (i v : Nat) : (wr d f i v).upNs = d.upNs := by unfold wr; dsimp only; split <;> rfl
@[simp] theorem wr_out (d : Dev) (f : Fld) (i v : Nat) : (wr d f i v).out = d.out := by unfold wr; dsimp only; split <;> rfl
@[simp] theorem wr_mem (d : Dev) (f : Fld) (i v : Nat) : (wr d f i v).mem = d.mem := by unfold wr; dsimp only; split <;> rfl
@[simp] theorem wr_xl (d : Dev) (f : Fld) (i v : Nat) : (wr d f i v).xl = d.xl := by unfold wr; dsimp only; split <;> rfl
@[simp] theorem wr_hl (d : Dev) (f : Fld) (i v : Nat) : (wr d f i v).hl = d.hl := by unfold wr; dsimp only; split <;> rfl
@[simp] theorem wr_disp (d : Dev) (f : Fld) (i v : Nat) : (wr d f i v).disp = d.disp := by unfold wr; dsimp only; split <;> rfl
@[simp] theorem wr_pwr (d : Dev) (f : Fld) (i v : Nat) : (wr d f i v).pwr = d.pwr := by unfold wr; dsimp only; split <;> rfl
@[simp] theorem wr_tr (d : Dev) (f : Fld) (i v : Nat) : (wr d f i v).tr = d.tr := by unfold wr; dsimp only; split <;> rfl
@[simp] theorem wr_top (d : Dev) (f : Fld) (i v : Nat) : (wr d f i v).top = d.top := by unfold wr; dsimp only; split <;> rfl
@[simp] theorem wr_att (d : Dev) (f : Fld) (i v : Nat) : (wr d f i v).att = d.att := by unfold wr; dsimp only; split <;> rfl
@[simp] theorem wr_port (d : Dev) (f : Fld) (i v : Nat) : (wr d f i v).port = d.port := by unfold wr; dsimp only; split <;> rfl
@[simp] theorem wr_parts (d : Dev) (f : Fld) (i v : Nat) : (wr d f i v).parts = d.parts := by unfold wr; dsimp only; split <;> rfl
@[simp] theorem wr_safe (d : Dev) (f : Fld) (i v : Nat) : (wr d f i v).safe = d.safe := by unfold wr; dsimp only; split <;> rfl
@[simp] theorem wr_boot (d : Dev) (f : Fld) (i v : Nat) : (wr d f i v).boot = d.boot := by unfold wr; dsimp only; split <;> rfl
@[simp] theorem wr_acc (d : Dev) (f : Fld) (i v : Nat) : (wr d f i v).acc = d.acc := by unfold wr; dsimp only; split <;> rfl
@[simp] theorem wr_yew (d : Dev) (f : Fld) (i v : Nat) : (wr d f i v).yew = d.yew := by unfold wr; dsimp only; split <;> rfl
@[simp] theorem wr_mesh (d : Dev) (f : Fld) (i v : Nat) : (wr d f i v).mesh = d.mesh := by unfold wr; dsimp only; split <;> rfl
@[simp] theorem wr_coll (d : Dev) (f : Fld) (i v : Nat) : (wr d f i v).coll = d.coll := by unfold wr; dsimp only; split <;> rfl
@[simp] theorem emit_regs (d : Dev) (o : Out) : (emit d o).regs = d.regs := rfl
@[simp] theorem emit_regsB (d : Dev) (o : Out) : (emit d o).regsB = d.regsB := rfl
@[simp] theorem emit_regsC (d : Dev) (o : Out) : (emit d o).regsC = d.regsC := rfl
@[simp] theorem emit_shadow (d : Dev) (o : Out) : (emit d o).shadow = d.shadow := rfl
@[simp] theorem emit_free (d : Dev) (o : Out) : (emit d o).free = d.free := rfl
@[simp] theorem emit_upNs (d : Dev) (o : Out) : (emit d o).upNs = d.upNs := rfl
@[simp] theorem emit_mem (d : Dev) (o : Out) : (emit d o).mem = d.mem := rfl
@[simp] theorem emit_xl (d : Dev) (o : Out) : (emit d o).xl = d.xl := rfl
@[simp] theorem emit_hl (d : Dev) (o : Out) : (emit d o).hl = d.hl := rfl
@[simp] theorem emit_disp (d : Dev) (o : Out) : (emit d o).disp = d.disp := rfl
@[simp] theorem emit_pwr (d : Dev) (o : Out) : (emit d o).pwr = d.pwr := rfl
@[simp] theorem emit_tr (d : Dev) (o : Out) : (emit d o).tr = d.tr := rfl
@[simp] theorem emit_top (d : Dev) (o : Out) : (emit d o).top = d.top := rfl
@[simp] theorem emit_att (d : Dev) (o : Out) : (emit d o).att = d.att := rfl
@[simp] theorem emit_port (d : Dev) (o : Out) : (emit d o).port = d.port := rfl
@[simp] theorem emit_parts (d : Dev) (o : Out) : (emit d o).parts = d.parts := rfl
@[simp] theorem emit_safe (d : Dev) (o : Out) : (emit d o).safe = d.safe := rfl
@[simp] theorem emit_boot (d : Dev) (o : Out) : (emit d o).boot = d.boot := rfl
@[simp] theorem emit_acc (d : Dev) (o : Out) : (emit d o).acc = d.acc := rfl
@[simp] theorem emit_yew (d : Dev) (o : Out) : (emit d o).yew = d.yew := rfl
@[simp] theorem emit_mesh (d : Dev) (o : Out) : (emit d o).mesh = d.mesh := rfl
@[simp] theorem emit_coll (d : Dev) (o : Out) : (emit d o).coll = d.coll := rfl
@[simp] theorem emit_out (d : Dev) (o : Out) : (emit d o).out = o :: d.out := rfl
@[simp] theorem fresh_regs (d : Dev) : (fresh d).2.regs = d.regs := rfl
@[simp] theorem fresh_regsB (d : Dev) : (fresh d).2.regsB = d.regsB := rfl
@[simp] theorem fresh_regsC (d : Dev) : (fresh d).2.regsC = d.regsC := rfl
@[simp] theorem fresh_shadow (d : Dev) : (fresh d).2.shadow = d.shadow := rfl
@[simp] theorem fresh_upNs (d : Dev) : (fresh d).2.upNs = d.upNs := rfl
@[simp] theorem fresh_out (d : Dev) : (fresh d).2.out = d.out := rfl
@[simp] theorem fresh_mem (d : Dev) : (fresh d).2.mem = d.mem := rfl
@[simp] theorem fresh_xl (d : Dev) : (fresh d).2.xl = d.xl := rfl
@[simp] theorem fresh_hl (d : Dev) : (fresh d).2.hl = d.hl := rfl
@[simp] theorem fresh_disp (d : Dev) : (fresh d).2.disp = d.disp := rfl
@[simp] theorem fresh_pwr (d : Dev) : (fresh d).2.pwr = d.pwr := rfl
@[simp] theorem fresh_tr (d : Dev) : (fresh d).2.tr = d.tr := rfl
@[simp] theorem fresh_top (d : Dev) : (fresh d).2.top = d.top := rfl
@[simp] theorem fresh_att (d : Dev) : (fresh d).2.att = d.att := rfl
@[simp] theorem fresh_port (d : Dev) : (fresh d).2.port = d.port := rfl
@[simp] theorem fresh_parts (d : Dev) : (fresh d).2.parts = d.parts := rfl
@[simp] theorem fresh_safe (d : Dev) : (fresh d).2.safe = d.safe := rfl
@[simp] theorem fresh_boot (d : Dev) : (fresh d).2.boot = d.boot := rfl
@[simp] theorem fresh_acc (d : Dev) : (fresh d).2.acc = d.acc := rfl
@[simp] theorem fresh_yew (d : Dev) : (fresh d).2.yew = d.yew := rfl
@[simp] theorem fresh_mesh (d : Dev) : (fresh d).2.mesh = d.mesh := rfl
@[simp] theorem fresh_coll (d : Dev) : (fresh d).2.coll = d.coll := rfl
@[simp] theorem choose_regs (d : Dev) (n : Nat) : (choose d n).2.regs = d.regs := rfl
@[simp] theorem choose_regsB (d : Dev) (n : Nat) : (choose d n).2.regsB = d.regsB := rfl
@[simp] theorem choose_regsC (d : Dev) (n : Nat) : (choose d n).2.regsC = d.regsC := rfl
@[simp] theorem choose_shadow (d : Dev) (n : Nat) : (choose d n).2.shadow = d.shadow := rfl
@[simp] theorem choose_upNs (d : Dev) (n : Nat) : (choose d n).2.upNs = d.upNs := rfl
@[simp] theorem choose_out (d : Dev) (n : Nat) : (choose d n).2.out = d.out := rfl
@[simp] theorem choose_mem (d : Dev) (n : Nat) : (choose d n).2.mem = d.mem := rfl
@[simp] theorem choose_xl (d : Dev) (n : Nat) : (choose d n).2.xl = d.xl := rfl
@[simp] theorem choose_hl (d : Dev) (n : Nat) : (choose d n).2.hl = d.hl := rfl
@[simp] theorem choose_disp (d : Dev) (n : Nat) : (choose d n).2.disp = d.disp := rfl
@[simp] theorem choose_pwr (d : Dev) (n : Nat) : (choose d n).2.pwr = d.pwr := rfl
@[simp] theorem choose_tr (d : Dev) (n : Nat) : (choose d n).2.tr = d.tr := rfl
@[simp] theorem choose_top (d : Dev) (n : Nat) : (choose d n).2.top = d.top := rfl
@[simp] theorem choose_att (d : Dev) (n : Nat) : (choose d n).2.att = d.att := rfl
@[simp] theorem choose_port (d : Dev) (n : Nat) : (choose d n).2.port = d.port := rfl
@[simp] theorem choose_parts (d : Dev) (n : Nat) : (choose d n).2.parts = d.parts := rfl
@[simp] theorem choose_safe (d : Dev) (n : Nat) : (choose d n).2.safe = d.safe := rfl
@[simp] theorem choose_boot (d : Dev) (n : Nat) : (choose d n).2.boot = d.boot := rfl
@[simp] theorem choose_acc (d : Dev) (n : Nat) : (choose d n).2.acc = d.acc := rfl
@[simp] theorem choose_yew (d : Dev) (n : Nat) : (choose d n).2.yew = d.yew := rfl
@[simp] theorem choose_mesh (d : Dev) (n : Nat) : (choose d n).2.mesh = d.mesh := rfl
@[simp] theorem choose_coll (d : Dev) (n : Nat) : (choose d n).2.coll = d.coll := rfl
@[simp] theorem postEq_regs (d : Dev) (q : Nat) (e : Entry) : (postEq d q e).regs = d.regs := rfl
@[simp] theorem postCq_regs (d : Dev) (q : Nat) (e : Entry) (w : Writer) : (postCq d q e w).regs = d.regs := rfl
@[simp] theorem postEq_regsB (d : Dev) (q : Nat) (e : Entry) : (postEq d q e).regsB = d.regsB := rfl
@[simp] theorem postCq_regsB (d : Dev) (q : Nat) (e : Entry) (w : Writer) : (postCq d q e w).regsB = d.regsB := rfl
@[simp] theorem postEq_regsC (d : Dev) (q : Nat) (e : Entry) : (postEq d q e).regsC = d.regsC := rfl
@[simp] theorem postCq_regsC (d : Dev) (q : Nat) (e : Entry) (w : Writer) : (postCq d q e w).regsC = d.regsC := rfl
@[simp] theorem postEq_shadow (d : Dev) (q : Nat) (e : Entry) : (postEq d q e).shadow = d.shadow := rfl
@[simp] theorem postCq_shadow (d : Dev) (q : Nat) (e : Entry) (w : Writer) : (postCq d q e w).shadow = d.shadow := rfl
@[simp] theorem postEq_free (d : Dev) (q : Nat) (e : Entry) : (postEq d q e).free = d.free := rfl
@[simp] theorem postCq_free (d : Dev) (q : Nat) (e : Entry) (w : Writer) : (postCq d q e w).free = d.free := rfl
@[simp] theorem postEq_upNs (d : Dev) (q : Nat) (e : Entry) : (postEq d q e).upNs = d.upNs := rfl
@[simp] theorem postCq_upNs (d : Dev) (q : Nat) (e : Entry) (w : Writer) : (postCq d q e w).upNs = d.upNs := rfl
@[simp] theorem postEq_out (d : Dev) (q : Nat) (e : Entry) : (postEq d q e).out = d.out := rfl
@[simp] theorem postCq_out (d : Dev) (q : Nat) (e : Entry) (w : Writer) : (postCq d q e w).out = d.out := rfl
@[simp] theorem postEq_mem (d : Dev) (q : Nat) (e : Entry) : (postEq d q e).mem = d.mem := rfl
@[simp] theorem postCq_mem (d : Dev) (q : Nat) (e : Entry) (w : Writer) : (postCq d q e w).mem = d.mem := rfl
@[simp] theorem postEq_xl (d : Dev) (q : Nat) (e : Entry) : (postEq d q e).xl = d.xl := rfl
@[simp] theorem postCq_xl (d : Dev) (q : Nat) (e : Entry) (w : Writer) : (postCq d q e w).xl = d.xl := rfl
@[simp] theorem postEq_disp (d : Dev) (q : Nat) (e : Entry) : (postEq d q e).disp = d.disp := rfl
@[simp] theorem postCq_disp (d : Dev) (q : Nat) (e : Entry) (w : Writer) : (postCq d q e w).disp = d.disp := rfl
@[simp] theorem postEq_pwr (d : Dev) (q : Nat) (e : Entry) : (postEq d q e).pwr = d.pwr := rfl
@[simp] theorem postCq_pwr (d : Dev) (q : Nat) (e : Entry) (w : Writer) : (postCq d q e w).pwr = d.pwr := rfl
@[simp] theorem postEq_tr (d : Dev) (q : Nat) (e : Entry) : (postEq d q e).tr = d.tr := rfl
@[simp] theorem postCq_tr (d : Dev) (q : Nat) (e : Entry) (w : Writer) : (postCq d q e w).tr = d.tr := rfl
@[simp] theorem postEq_top (d : Dev) (q : Nat) (e : Entry) : (postEq d q e).top = d.top := rfl
@[simp] theorem postCq_top (d : Dev) (q : Nat) (e : Entry) (w : Writer) : (postCq d q e w).top = d.top := rfl
@[simp] theorem postEq_att (d : Dev) (q : Nat) (e : Entry) : (postEq d q e).att = d.att := rfl
@[simp] theorem postCq_att (d : Dev) (q : Nat) (e : Entry) (w : Writer) : (postCq d q e w).att = d.att := rfl
@[simp] theorem postEq_port (d : Dev) (q : Nat) (e : Entry) : (postEq d q e).port = d.port := rfl
@[simp] theorem postCq_port (d : Dev) (q : Nat) (e : Entry) (w : Writer) : (postCq d q e w).port = d.port := rfl
@[simp] theorem postEq_parts (d : Dev) (q : Nat) (e : Entry) : (postEq d q e).parts = d.parts := rfl
@[simp] theorem postCq_parts (d : Dev) (q : Nat) (e : Entry) (w : Writer) : (postCq d q e w).parts = d.parts := rfl
@[simp] theorem postEq_safe (d : Dev) (q : Nat) (e : Entry) : (postEq d q e).safe = d.safe := rfl
@[simp] theorem postCq_safe (d : Dev) (q : Nat) (e : Entry) (w : Writer) : (postCq d q e w).safe = d.safe := rfl
@[simp] theorem postEq_boot (d : Dev) (q : Nat) (e : Entry) : (postEq d q e).boot = d.boot := rfl
@[simp] theorem postCq_boot (d : Dev) (q : Nat) (e : Entry) (w : Writer) : (postCq d q e w).boot = d.boot := rfl
@[simp] theorem postEq_acc (d : Dev) (q : Nat) (e : Entry) : (postEq d q e).acc = d.acc := rfl
@[simp] theorem postCq_acc (d : Dev) (q : Nat) (e : Entry) (w : Writer) : (postCq d q e w).acc = d.acc := rfl
@[simp] theorem postEq_yew (d : Dev) (q : Nat) (e : Entry) : (postEq d q e).yew = d.yew := rfl
@[simp] theorem postCq_yew (d : Dev) (q : Nat) (e : Entry) (w : Writer) : (postCq d q e w).yew = d.yew := rfl
@[simp] theorem postEq_mesh (d : Dev) (q : Nat) (e : Entry) : (postEq d q e).mesh = d.mesh := rfl
@[simp] theorem postCq_mesh (d : Dev) (q : Nat) (e : Entry) (w : Writer) : (postCq d q e w).mesh = d.mesh := rfl
@[simp] theorem postEq_coll (d : Dev) (q : Nat) (e : Entry) : (postEq d q e).coll = d.coll := rfl
@[simp] theorem postCq_coll (d : Dev) (q : Nat) (e : Entry) (w : Writer) : (postCq d q e w).coll = d.coll := rfl

/-- An event entry joins the entries on their way. -/
@[simp] theorem postEq_entries (d : Dev) (q : Nat) (e : Entry) :
    (postEq d q e).hl.entries = d.hl.entries ++ [{ toEq := true, num := q, entry := e }] := rfl

/-- A completion entry joins the entries on their way. -/
@[simp] theorem postCq_entries (d : Dev) (q : Nat) (e : Entry) (w : Writer) :
    (postCq d q e w).hl.entries = d.hl.entries ++ [{ toEq := false, num := q, entry := e, op := w }] := rfl

end Sys2Proof.Machine
end

