-- ==== Sys2Proof/Laws/Regs.lean ====
section
/-!
SUPPORT. Register fields: what a read finds after a write (R14), of plain and of voted fields (R16, R537).
-/
namespace Sys2Proof.Machine

theorem ctorIdx_inj {f g : Fld} (h : f.ctorIdx = g.ctorIdx) : f = g := by
  have h' := congrArg Fld.ofNat h
  simpa [Fld.ofNat_ctorIdx] using h'

theorem ctorIdx_lt (f : Fld) : f.ctorIdx < 1024 := by cases f <;> decide

/-- Every entry of every field has a key of its own. -/
theorem fkey_inj {f g : Fld} {i j : Nat} (h : fkey f i = fkey g j) : f = g ∧ i = j := by
  unfold fkey at h
  have hf := ctorIdx_lt f
  have hg := ctorIdx_lt g
  exact ⟨ctorIdx_inj (by omega), by omega⟩

/-- Reading another entry, or another field that is not voted, is unchanged by a write. -/
theorem rd_wr_ne (d : Dev) {f g : Fld} {i j : Nat} (v : Nat) (hg : g.info.voted = false) (h : g ≠ f ∨ j ≠ i) :
    rd (wr d f i v) g j = rd d g j := by
  have hk : fkey g j ≠ fkey f i := fun e => by
    have := fkey_inj e
    rcases h with h | h
    · exact h this.1
    · exact h this.2
  unfold rd wr getD
  simp only [hg, Bool.false_eq_true, if_false]
  split <;> simp only [find?_putD_ne _ _ _ hk]

/-- A plain field reads what was written, cut to its width. -/
theorem rd_wr_self (d : Dev) (f : Fld) (i v : Nat) (hf : f.info.voted = false) :
    rd (wr d f i v) f i = v % 2 ^ f.info.width := by
  unfold rd wr
  simp [hf]

/-- Every copy of an entry of a voted field that is not written stays. -/
theorem copies_wr_ne (d : Dev) {f g : Fld} {i j : Nat} (v : Nat) (h : g ≠ f ∨ j ≠ i) :
    copies (wr d f i v) g j = copies d g j := by
  have hk : fkey g j ≠ fkey f i := fun e => by
    have := fkey_inj e
    rcases h with h | h
    · exact h this.1
    · exact h this.2
  unfold copies wr getD
  dsimp only
  split <;> simp only [find?_putD_ne _ _ _ hk]

/-- A write of a voted field sets all three copies (R16). -/
theorem copies_wr_self (d : Dev) (f : Fld) (i v : Nat) (hf : f.info.voted = true) :
    copies (wr d f i v) f i = (v % 2 ^ f.info.width, v % 2 ^ f.info.width, v % 2 ^ f.info.width) := by
  unfold copies wr
  simp [hf]

/-- The entry a voted field is voted with, other than itself, and the field's own value after a write. -/
theorem rd_wr_voted (d : Dev) (f : Fld) (i v : Nat) (hf : f.info.voted = true)
    (h : ∀ g ∈ votedWith f, g ≠ f → voteHolds d g i = true) : rd (wr d f i v) f i = v % 2 ^ f.info.width := by
  have hall : (votedWith f).all (fun g => voteHolds (wr d f i v) g i) = true := by
    refine List.all_eq_true.2 fun g hg => ?_
    by_cases e : g = f
    · subst e; simp [voteHolds, copies_wr_self d g i v hf, majority]
    · unfold voteHolds; rw [copies_wr_ne d v (.inl e)]; exact h g hg e
  unfold rd
  simp [hf, hall, copies_wr_self d f i v hf, majority]

/-- A voted field reads as before when neither it nor a field voted with it is written at that entry. -/
theorem rd_wr_ne_voted (d : Dev) {f g : Fld} {i j : Nat} (v : Nat) (h : f ∉ votedWith g ∨ j ≠ i) (hg : g ∈ votedWith g) :
    rd (wr d f i v) g j = rd d g j := by
  have hc : ∀ x ∈ votedWith g, copies (wr d f i v) x j = copies d x j := fun x hx =>
    copies_wr_ne d v (h.imp (fun hf e => hf (e ▸ hx)) id)
  by_cases hv : g.info.voted = true
  · have hall : (votedWith g).all (fun x => voteHolds (wr d f i v) x j) = (votedWith g).all (fun x => voteHolds d x j) := by
      rw [Bool.eq_iff_iff, List.all_eq_true, List.all_eq_true]
      exact forall₂_congr fun x hx => by unfold voteHolds; rw [hc x hx]
    unfold rd
    rw [hall, hc g hg]
    simp only [hv, if_true]
  · exact rd_wr_ne d v (by simpa using hv) (h.imp (fun hf e => hf (e ▸ hg)) id)

theorem mem_votedWith_self (f : Fld) : f ∈ votedWith f := by cases f <;> simp [votedWith]

/-- A register write elsewhere, whatever either field is: reading `g` at `j` is unchanged unless `f` at `i` is voted with it. -/
theorem rd_wr_other (d : Dev) {f g : Fld} {i j : Nat} (v : Nat) (h : f ∉ votedWith g ∨ j ≠ i) :
    rd (wr d f i v) g j = rd d g j := rd_wr_ne_voted d v h (mem_votedWith_self g)

/-- Reading a field depends on the registers only. -/
theorem rd_congr {d e : Dev} (h : d.regs = e.regs) (hb : d.regsB = e.regsB) (hc : d.regsC = e.regsC) (f : Fld) (i : Nat) :
    rd d f i = rd e f i := by
  unfold rd voteHolds copies
  rw [h, hb, hc]

/-! ### Reads after other updates -/

@[simp] theorem rd_onMem (d : Dev) (u : MemSt → MemSt) (f : Fld) (i : Nat) : rd (onMem d u) f i = rd d f i := rfl
@[simp] theorem rd_onXl (d : Dev) (u : XlSt → XlSt) (f : Fld) (i : Nat) : rd (onXl d u) f i = rd d f i := rfl
@[simp] theorem rd_onHl (d : Dev) (u : HlSt → HlSt) (f : Fld) (i : Nat) : rd (onHl d u) f i = rd d f i := rfl
@[simp] theorem rd_onDisp (d : Dev) (u : DispSt → DispSt) (f : Fld) (i : Nat) : rd (onDisp d u) f i = rd d f i := rfl
@[simp] theorem rd_onPwr (d : Dev) (u : PwrSt → PwrSt) (f : Fld) (i : Nat) : rd (onPwr d u) f i = rd d f i := rfl
@[simp] theorem rd_onTr (d : Dev) (u : TrSt → TrSt) (f : Fld) (i : Nat) : rd (onTr d u) f i = rd d f i := rfl
@[simp] theorem rd_onTop (d : Dev) (u : TopSt → TopSt) (f : Fld) (i : Nat) : rd (onTop d u) f i = rd d f i := rfl
@[simp] theorem rd_onAtt (d : Dev) (u : AttSt → AttSt) (f : Fld) (i : Nat) : rd (onAtt d u) f i = rd d f i := rfl
@[simp] theorem rd_onPort (d : Dev) (u : PortSt → PortSt) (f : Fld) (i : Nat) : rd (onPort d u) f i = rd d f i := rfl
@[simp] theorem rd_onParts (d : Dev) (u : PartSt → PartSt) (f : Fld) (i : Nat) : rd (onParts d u) f i = rd d f i := rfl
@[simp] theorem rd_onSafe (d : Dev) (u : SafeSt → SafeSt) (f : Fld) (i : Nat) : rd (onSafe d u) f i = rd d f i := rfl
@[simp] theorem rd_onBoot (d : Dev) (u : BootSt → BootSt) (f : Fld) (i : Nat) : rd (onBoot d u) f i = rd d f i := rfl
@[simp] theorem rd_onAcc (d : Dev) (u : AccSt → AccSt) (f : Fld) (i : Nat) : rd (onAcc d u) f i = rd d f i := rfl
@[simp] theorem rd_onYew (d : Dev) (u : YewSt → YewSt) (f : Fld) (i : Nat) : rd (onYew d u) f i = rd d f i := rfl
@[simp] theorem rd_onMesh (d : Dev) (u : MeshSt → MeshSt) (f : Fld) (i : Nat) : rd (onMesh d u) f i = rd d f i := rfl
@[simp] theorem rd_onColl (d : Dev) (u : CollSt → CollSt) (f : Fld) (i : Nat) : rd (onColl d u) f i = rd d f i := rfl
@[simp] theorem rd_emit (d : Dev) (o : Out) (f : Fld) (i : Nat) : rd (emit d o) f i = rd d f i := rfl
@[simp] theorem rd_fresh (d : Dev) (f : Fld) (i : Nat) : rd (fresh d).2 f i = rd d f i := rfl
@[simp] theorem rd_choose (d : Dev) (n : Nat) (f : Fld) (i : Nat) : rd (choose d n).2 f i = rd d f i := rfl
@[simp] theorem rd_postEq (d : Dev) (q : Nat) (e : Entry) (f : Fld) (i : Nat) : rd (postEq d q e) f i = rd d f i := rfl
@[simp] theorem rd_postCq (d : Dev) (q : Nat) (e : Entry) (w : Writer) (f : Fld) (i : Nat) : rd (postCq d q e w) f i = rd d f i := rfl

end Sys2Proof.Machine
end

