-- ==== Sys2Proof/Laws/Answer.lean ====
section
/-!
SUPPORT. How a command's meaning answers: the three forms of an answer (Machine/HostQ.lean), and delivery when nothing is
on its way.
-/
namespace Sys2Proof.Machine

/-- An event answers a next state exactly where it can arise, and changes neither the queue nor the fuses. -/
theorem act_next {s t : State} {n : String} {e : Bool} {d : Dev} :
    act s n e d = .next t ↔ e = true ∧ t = { s with dev := deliver d } := by
  unfold act
  split <;> simp_all [eq_comm]

/-- A command from outside answers a next state exactly where its operands name objects. -/
theorem cmd_next {s t : State} {n : String} {e : Bool} {d : Dev} :
    cmd s n e d = .next t ↔ e = true ∧ t = { s with dev := deliver d } := by
  unfold cmd
  split <;> simp_all [eq_comm]

/-- A register command answers as other commands, without effect in holdback and while halted. -/
theorem drv_next {s t : State} {n : String} {e : Bool} {d : Dev} :
    drv s n e d = .next t ↔ e = true ∧ t = {
      s with dev := deliver (if rd s.dev .bootStatusStage = 15 ∨ isSet s.dev .safetyStatusHalted = true then s.dev else d) } := by
  unfold drv
  exact cmd_next

theorem act_true (s : State) (n : String) (d : Dev) : act s n true d = .next { s with dev := deliver d } := rfl

theorem cmd_true (s : State) (n : String) (d : Dev) : cmd s n true d = .next { s with dev := deliver d } := rfl

/-- Outside holdback and halt a register command has its effect. -/
theorem drv_runs {s : State} {n : String} {d : Dev} (h : rd s.dev .bootStatusStage ≠ 15)
    (hh : isSet s.dev .safetyStatusHalted = false) : drv s n true d = .next { s with dev := deliver d } := by
  simp [drv, h, hh, cmd_true]

/-- With no entry on its way, delivery does nothing. -/
theorem deliver_none {d : Dev} (h : d.hl.entries = []) : deliver d = d := by
  simp [deliver, h, deliverN]

end Sys2Proof.Machine
end

