-- ==== Sys2Proof/Laws/Frame.lean ====
section
/-!
SUPPORT. Frames of register writes: chains of writes of listed entries change nothing else.
-/
namespace Sys2Proof.Machine

/-- A read after a write, of a field that is not voted. -/
theorem rd_wr (d : Dev) {f g : Fld} (i j v : Nat) (hg : g.info.voted = false) :
    rd (wr d f i v) g j = if g = f ∧ j = i then v % 2 ^ f.info.width else rd d g j := by
  split
  · rename_i h; obtain ⟨rfl, rfl⟩ := h; exact rd_wr_self _ _ _ _ hg
  · rename_i h
    refine rd_wr_ne d v hg ?_
    by_cases e : g = f
    · exact .inr fun e' => h ⟨e, e'⟩
    · exact .inl e

theorem onlyRegs_refl (d : Dev) (l : List (Fld × Nat)) : onlyRegs d d l := ⟨rfl, fun _ _ _ => rfl⟩

/-- A write of a listed entry stays within the frame. -/
theorem onlyRegs_wr {d e : Dev} {l : List (Fld × Nat)} {f : Fld} {i v : Nat} (h : onlyRegs d e l) (hf : (f, i) ∈ l) :
    onlyRegs d (wr e f i v) l := by
  refine ⟨?_, fun g j hg => ?_⟩
  · have := h.1
    unfold wr; dsimp only; split <;> exact this
  · rw [rd_wr_other, h.2 g j hg]
    have := hg (f, i) hf
    by_cases hm : f ∈ votedWith g
    · exact .inr fun e => this hm e.symm
    · exact .inl hm

theorem onlyRegs_bump {d e : Dev} {l : List (Fld × Nat)} {f : Fld} {i n : Nat} (h : onlyRegs d e l) (hf : (f, i) ∈ l) :
    onlyRegs d (bump e f i n) l := onlyRegs_wr h hf

theorem keepsRegs_refl (d : Dev) (l : List (Fld × Nat)) : keepsRegs d d l := fun _ _ _ => rfl

theorem keepsRegs_wr {d e : Dev} {l : List (Fld × Nat)} {f : Fld} {i v : Nat} (h : keepsRegs d e l) (hf : (f, i) ∈ l) :
    keepsRegs d (wr e f i v) l := by
  intro g j hg
  rw [rd_wr_other, h g j hg]
  have := hg (f, i) hf
  by_cases hm : f ∈ votedWith g
  · exact .inr fun e => this hm e.symm
  · exact .inl hm

/-- What reads only as the registers read keeps the frame. -/
theorem keepsRegs_of_rd {d e e' : Dev} {l : List (Fld × Nat)} (h : keepsRegs d e l) (he : ∀ f i, rd e' f i = rd e f i) :
    keepsRegs d e' l := fun f i hf => (he f i).trans (h f i hf)

end Sys2Proof.Machine
end

