-- ==== Sys2Proof/Laws/Mem.lean ====
section
/-!
SUPPORT. What the operations of Machine/Mem.lean can do: one lemma for each, which later proofs cite instead of unfolding
it.
-/
namespace Sys2Proof.Machine

/-- The counters an access to memory may change. -/
def memFlds : List Fld := [.memoryHbmStatCe, .memoryDdrStatCe, .memoryUeTotal, .memoryHbmStatUe, .memoryDdrStatUe]

/-- Everything a memory operation can do: it may change memory in its canonical form (host memory not), the token shadow,
entries on their way, domains that wake, free values drawn, and its counters; nothing else. -/
structure MemOnly (d e : Dev) : Prop where
  rest : ∃ rs rb rc fr m tok ent wak, e = { d with
    regs := rs, regsB := rb, regsC := rc, free := fr, mem := m, disp := { d.disp with tokens := tok },
    hl := { d.hl with entries := ent }, pwr := { d.pwr with waking := wak } }
  regs : ∀ f i, f ∉ memFlds → rd e f i = rd d f i
  wf : Memory.wf d.mem = true → Memory.wf e.mem = true
  host : e.mem.host = d.mem.host

theorem MemOnly.refl (d : Dev) : MemOnly d d := ⟨⟨_, _, _, _, _, _, _, _, rfl⟩, fun _ _ _ => rfl, id, rfl⟩

theorem MemOnly.trans {a b c : Dev} (h : MemOnly a b) (k : MemOnly b c) : MemOnly a c := by
  refine ⟨?_, fun f i hf => (k.regs f i hf).trans (h.regs f i hf), k.wf ∘ h.wf, k.host.trans h.host⟩
  obtain ⟨_, _, _, _, _, _, _, _, rfl⟩ := h.rest
  obtain ⟨_, _, _, _, _, _, _, _, rfl⟩ := k.rest
  exact ⟨_, _, _, _, _, _, _, _, rfl⟩

/-! ### Steps that change memory alone -/

theorem wf_iff (m : MemSt) : Memory.wf m = true ↔ canonical 0 m.bytes = true ∧ canonical 0 m.host = true ∧ rising m.ecc = true ∧
    rising m.flips = true := by
  simp [Memory.wf, and_assoc]

theorem memOnly_onMem (d : Dev) (u : MemSt → MemSt) (hw : Memory.wf d.mem = true → Memory.wf (u d.mem) = true)
    (hh : (u d.mem).host = d.mem.host) : MemOnly d (onMem d u) :=
  ⟨⟨_, _, _, _, _, _, _, _, rfl⟩, fun _ _ _ => rfl, hw, hh⟩

theorem memOnly_setEcc (d : Dev) (b : Nat) (e : Option Ecc) : MemOnly d (setEcc d b e) :=
  memOnly_onMem d _ (fun h => by
    obtain ⟨hb, hh, he, hf⟩ := (wf_iff _).1 h
    have hx : ∀ e, rising (match e with | some x => put d.mem.ecc b x | none => del d.mem.ecc b) = true := fun e => by
      cases e
      · exact rising_del b he
      · exact rising_put b _ he
    dsimp only
    split
    · exact (wf_iff _).2 ⟨hb, hh, hx e, rising_del b hf⟩
    · exact (wf_iff _).2 ⟨hb, hh, hx e, hf⟩) (by dsimp only; split <;> rfl)

theorem memOnly_setBytes (d : Dev) (a : Nat) (bs : List Byte) : MemOnly d (setBytes d a bs) :=
  memOnly_onMem d _ (fun h => by
    rw [wf_iff] at *
    exact ⟨canonical_writeSparse bs _ a h.1, h.2⟩) rfl

theorem memOnly_onBank (d : Dev) (t b : Nat) (f : BankStat → BankStat) : MemOnly d (onBank d t b f) :=
  memOnly_onMem d _ (fun h => h) rfl

theorem memOnly_ceStep (d : Dev) (k n : Nat) : MemOnly d (ceStep d k n).1 :=
  ⟨⟨_, _, _, _, _, _, _, _, rfl⟩, fun _ _ _ => rfl, id, rfl⟩

/-! ### Counters, events, wakes -/

/-- No counter is voted with another field. -/
theorem memFlds_alone : ∀ g, ∀ f ∈ memFlds, f ∈ votedWith g → g = f := by
  intro g
  cases g <;> decide

theorem memOnly_bump (d : Dev) {f : Fld} (i n : Nat) (hf : f ∈ memFlds) : MemOnly d (bump d f i n) := by
  have hw : ∃ r, bump d f i n = { d with regs := r } := by
    have hv : f.info.voted = false := by
      have : ∀ f ∈ memFlds, f.info.voted = false := by decide
      exact this f hf
    refine ⟨putD d.regs (fkey f i) ((rd d f i + n) % 2 ^ f.info.width) f.info.reset, ?_⟩
    simp [bump, wr, hv]
  refine ⟨?_, fun g j hj => rd_wr_other d _ (.inl fun h => hj (memFlds_alone g f hf h ▸ hf)), fun h => ?_, ?_⟩
  all_goals obtain ⟨r, hr⟩ := hw; rw [hr]
  · exact ⟨_, _, _, _, _, _, _, _, rfl⟩
  · exact h

theorem memOnly_memEvent (d : Dev) (p : Place) (c a n : Nat) : MemOnly d (memEvent d p c a n) :=
  ⟨⟨_, _, _, _, _, _, _, _, rfl⟩, fun _ _ _ => rfl, id, rfl⟩

theorem memOnly_wake (d : Dev) (m : Domain) : MemOnly d (wake d m) := by
  unfold wake
  split
  · exact .refl d
  · exact ⟨⟨_, _, _, _, _, _, _, _, rfl⟩, fun _ _ _ => rfl, id, rfl⟩

theorem memOnly_choose (d : Dev) (n : Nat) : MemOnly d (choose d n).2 := ⟨⟨_, _, _, _, _, _, _, _, rfl⟩, fun _ _ _ => rfl, id, rfl⟩

theorem memOnly_countCe (d : Dev) (p : Place) (a : Nat) : MemOnly d (countCe d p a) := by
  unfold countCe
  cases p <;> dsimp only
  case hbm s =>
    refine (memOnly_bump d s 1 (f := .memoryHbmStatCe) (by decide)).trans ?_
    split
    · exact (memOnly_ceStep _ _ _).trans (memOnly_memEvent _ _ _ _ _)
    · exact memOnly_ceStep _ _ _
  case ddr c =>
    refine (memOnly_bump d c 1 (f := .memoryDdrStatCe) (by decide)).trans ?_
    split
    · exact (memOnly_ceStep _ _ _).trans (memOnly_memEvent _ _ _ _ _)
    · exact memOnly_ceStep _ _ _
  case scratch t o =>
    refine (memOnly_onBank d t (bankOf o) fun b => { b with ce := (b.ce + 1) % 2 ^ 16 }).trans ?_
    split
    · exact (memOnly_ceStep _ _ _).trans (memOnly_memEvent _ _ _ _ _)
    · exact memOnly_ceStep _ _ _
  all_goals exact .refl d

theorem memOnly_countUe (d : Dev) (p : Place) : MemOnly d (countUe d p) := by
  unfold countUe
  refine (memOnly_bump d 0 1 (f := .memoryUeTotal) (by decide)).trans ?_
  cases p <;> dsimp only
  case hbm s => exact memOnly_bump _ s 1 (f := .memoryHbmStatUe) (by decide)
  case ddr c => exact memOnly_bump _ c 1 (f := .memoryDdrStatUe) (by decide)
  case scratch t o => exact memOnly_onBank _ t (bankOf o) _
  all_goals exact .refl _

theorem memOnly_foldl {α : Type} (f : Dev → α → Dev) (hf : ∀ d x, MemOnly d (f d x)) (l : List α) (d : Dev) : MemOnly d (l.foldl f d) := by
  induction l generalizing d with
  | nil => exact .refl d
  | cons x t ih => exact (hf d x).trans (ih _)

theorem memOnly_poisonChunks (d : Dev) (n : Nat) : MemOnly d (poisonChunks d n) := by
  unfold poisonChunks
  generalize List.range 256 = l
  generalize List.range 4 = k
  refine memOnly_foldl _ (fun d j => ?_) l d
  split
  · exact .refl d
  · exact memOnly_foldl _ (fun d l => memOnly_setEcc _ _ _) k d

theorem memOnly_metaLoss (d : Dev) (p : Place) (l : Nat) : MemOnly d (metaLoss d p l) := by
  unfold metaLoss
  split
  · exact .refl d
  · exact (memOnly_poisonChunks _ _).trans (memOnly_memEvent _ _ _ _ _)

theorem memOnly_poison (d : Dev) (p : Place) (b : Nat) (e : Option Nat) : MemOnly d (poison d p b e) := by
  have h := (memOnly_setEcc d b (some .poisoned)).trans (memOnly_countUe _ p)
  unfold poison
  cases e
  · exact h.trans (memOnly_metaLoss _ _ _)
  · exact (h.trans (memOnly_memEvent _ _ _ _ _)).trans (memOnly_metaLoss _ _ _)

theorem memOnly_touch (d : Dev) (p : Place) : MemOnly d (touch_ d p) := by
  cases p <;> unfold touch_ <;> dsimp only
  case hbm => exact (memOnly_wake _ _).trans (memOnly_wake _ _)
  case ddr => exact (memOnly_wake _ _).trans (memOnly_wake _ _)
  case scratch => exact memOnly_wake _ _
  all_goals exact .refl d

theorem memOnly_beyondCode (d : Dev) (b g : Nat) : MemOnly d (beyondCode d b g) := by
  have hc := memOnly_choose d 2
  unfold beyondCode
  dsimp only
  split
  · exact hc.trans (memOnly_setEcc _ _ _)
  · refine (hc.trans (memOnly_setEcc _ b none)).trans ⟨⟨_, _, _, _, _, _, _, _, rfl⟩, fun _ _ _ => rfl, fun h => ?_, rfl⟩
    have h' := (wf_iff _).1 h
    exact (wf_iff _).2 ⟨canonical_writeSparse _ _ _ h'.1, h'.2⟩

theorem memOnly_flip (d : Dev) (b : Nat) (fs : List (Nat × Nat)) :
    MemOnly d (onMem d fun m => { m with flips := putD m.flips b fs [] }) :=
  memOnly_onMem d _ (fun h =>
    let w := (wf_iff _).1 h
    (wf_iff _).2 ⟨w.1, w.2.1, w.2.2.1, rising_putD _ _ w.2.2.2⟩) rfl

theorem memOnly_strikeSram (d : Dev) (g : Nat) : MemOnly d (strikeSram d g) := by
  unfold strikeSram
  split
  · exact .refl d
  · exact memOnly_onMem d _ (fun h => (wf_iff _).2 ((wf_iff _).1 h)) rfl

theorem memOnly_strikeOne (d : Dev) (u : Upset) : MemOnly d (strikeOne d u) := by
  unfold strikeOne
  dsimp only
  split
  · exact memOnly_strikeSram _ _
  split
  · exact .refl d
  · generalize u.addr / grain (place d u.addr) * grain (place d u.addr) = b
    generalize toggle (upsetBit (place d u.addr) u) (getD d.mem.flips b []) = fs
    have hf := memOnly_flip d b fs
    split
    · exact hf.trans (memOnly_setEcc _ _ _)
    · exact hf.trans (memOnly_setEcc _ _ _)
    · exact hf.trans (memOnly_setEcc _ _ _)
    · exact hf.trans (memOnly_beyondCode _ _ _)

theorem memOnly_strike (l : List Upset) (d : Dev) : MemOnly d (strike d l) := memOnly_foldl _ memOnly_strikeOne l d

/-! ### Reads -/

theorem memOnly_demand (d : Dev) (p : Place) (b : Nat) : MemOnly d (demand d p b).1 := by
  have ht := memOnly_touch d p
  unfold demand
  dsimp only
  split
  · exact ht
  · split
    · exact ht
    · exact ht.trans ((memOnly_setEcc _ _ _).trans (memOnly_countCe _ _ _))
    · exact ht
    · split
      · exact ht.trans ((memOnly_setBytes _ _ _).trans ((memOnly_setEcc _ _ _).trans (memOnly_countCe _ _ _)))
      · split <;> (refine ht.trans ?_; dsimp only; exact memOnly_poison _ _ _ _)

theorem memOnly_cmpCheck (d : Dev) (a : Nat) : MemOnly d (cmpCheck d a) := by
  unfold cmpCheck
  dsimp only
  split
  · exact .refl d
  · split
    · exact (memOnly_setEcc _ _ _).trans (memOnly_countCe _ _ _)
    · exact memOnly_poison _ _ _ _
    · split
      · exact memOnly_poison _ _ _ _
      · exact .refl d
    · exact .refl d

theorem memOnly_visitLines (p : Place) (l : List Nat) (d : Dev) : MemOnly d (visitLines p l d).1 := by
  induction l generalizing d with
  | nil => exact .refl d
  | cons x t ih => exact (memOnly_demand _ _ _).trans (ih _)

theorem memOnly_demandRange (n : Nat) (d : Dev) (a k : Nat) : MemOnly d (demandRange d n a k).1 := by
  induction n generalizing d a k with
  | zero => exact .refl d
  | succ n ih =>
    unfold demandRange
    split
    · exact .refl d
    · dsimp only
      split
      · exact (memOnly_cmpCheck _ _).trans ((memOnly_visitLines _ _ _).trans (ih _ _ _))
      · exact (memOnly_demand _ _ _).trans (ih _ _ _)

/-- A read by address. -/
theorem memOnly_memRead (d : Dev) (a n : Nat) : MemOnly d (memRead d a n).1 := memOnly_demandRange n d a n

/-! ### Writes -/

theorem memOnly_setCode (d : Dev) (i c : Nat) : MemOnly d (setCode d i c) := by
  unfold setCode
  dsimp only
  split
  · exact .refl d
  · exact memOnly_setBytes _ _ _

theorem memOnly_cmpNote (d : Dev) (k a : Nat) : MemOnly d (cmpNote d k a) := by
  have hs : ∀ (d : Dev) (l : List Nat) (c : Nat), MemOnly d (l.foldl (fun d l => setEcc d (a / 256 * 256 + 64 * l) none) (setCode d (cmpIndex d k a) c)) :=
    fun d l c => (memOnly_setCode _ _ _).trans (memOnly_foldl _ (fun d l => memOnly_setEcc _ _ _) l _)
  unfold cmpNote
  dsimp only
  split
  · exact hs _ _ _
  · exact (memOnly_choose _ _).trans (hs _ _ _)

theorem memOnly_shadowNote (d : Dev) (b : Nat) : MemOnly d (shadowNote d b) := by
  unfold shadowNote
  split
  · exact ⟨⟨_, _, _, _, _, _, _, _, rfl⟩, fun _ _ _ => rfl, id, rfl⟩
  · exact .refl d

theorem memOnly_writeUnit (d : Dev) (p : Place) (b a : Nat) (bs : List Byte) (i : Bool) : MemOnly d (writeUnit d p b a bs i).1 := by
  have hs : ∀ d, MemOnly d (shadowNote (setBytes d a bs) b) := fun d => (memOnly_setBytes _ _ _).trans (memOnly_shadowNote _ _)
  have hd := memOnly_demand d p b
  unfold writeUnit
  dsimp only
  split
  · exact .refl d
  · split
    · exact .refl d
    · split
      · exact (memOnly_touch _ _).trans ((memOnly_setEcc _ _ _).trans (hs _))
      · split
        · rename_i he; rw [he] at hd; exact MemOnly.trans hd (hs _)
        · rename_i he; rw [he] at hd
          split
          · dsimp only
            split
            · exact MemOnly.trans hd (memOnly_memEvent _ _ _ _ _)
            · exact hd
          · exact hd

theorem memOnly_writeChunk (d : Dev) (k : Nat) (p : Place) (a : Nat) (bs : List Byte) : MemOnly d (writeChunk d k p a bs).1 := by
  have hc := (memOnly_touch d p).trans (memOnly_cmpCheck _ a)
  have hv := hc.trans (memOnly_visitLines p (mergeLines (codeAt (cmpCheck (touch_ d p) a) (cmpIndex (cmpCheck (touch_ d p) a) k a)) a bs.length) _)
  unfold writeChunk
  dsimp only
  split
  · exact .refl d
  · split
    · rename_i he; rw [he] at hv; exact hv
    · rename_i he; rw [he] at hv
      refine hv.trans (MemOnly.trans ?_ ((memOnly_setBytes _ _ _).trans (memOnly_cmpNote _ _ _)))
      refine memOnly_foldl _ (fun d x => ?_) _ _
      split
      · exact memOnly_setEcc _ _ _
      · exact .refl d

/-- A write by address. -/
theorem memOnly_memWrite (n : Nat) (d : Dev) (i : Bool) (a : Nat) (bs : List Byte) : MemOnly d (memWrite d i n a bs).1 := by
  induction n generalizing d a bs with
  | zero => exact .refl d
  | succ n ih =>
    unfold memWrite
    split
    · exact .refl d
    · dsimp only
      split
      · exact (memOnly_writeChunk _ _ _ _ _).trans (ih _ _ _)
      · exact (memOnly_writeUnit _ _ _ _ _ _).trans (ih _ _ _)

/-! ### The canonical form -/

/-- Memory at reset has the canonical form. -/
theorem wf_reset : Memory.wf State.reset.dev.mem = true := by decide

theorem memOnly_atomicRead (d : Dev) (p : Place) (a : Nat) : MemOnly d (atomicRead d p a).1 := by
  unfold atomicRead
  split
  · exact ((memOnly_touch _ _).trans (memOnly_cmpCheck _ _)).trans (memOnly_visitLines _ _ _)
  · exact memOnly_demand _ _ _

theorem memOnly_atomicNote (d : Dev) (a : Nat) : MemOnly d (atomicNote d a) := by
  unfold atomicNote
  split
  · exact memOnly_cmpNote _ _ _
  · exact .refl d

/-- An atomic keeps the canonical form. -/
theorem wf_memAtomic (d : Dev) (c a x y : Nat) (h : Memory.wf d.mem = true) : Memory.wf (memAtomic d c a x y).1.mem = true := by
  have hd := memOnly_atomicRead d (place d a) a
  unfold memAtomic
  dsimp only
  split
  · rename_i he; rw [he] at hd; exact hd.wf h
  · rename_i d' he
    rw [he] at hd
    refine (memOnly_atomicNote _ _).wf ?_
    have hn : ∀ (d : Dev) (a o v : Nat), (notifyToken d a o v).mem = d.mem := fun d a o v => by unfold notifyToken wake; split <;> (try split) <;> rfl
    rw [hn]
    exact (hd.trans ((memOnly_setBytes _ _ _).trans (memOnly_shadowNote _ _))).wf h

theorem rising_filter {α : Type} {m : KMap α} (p : Nat × α → Bool) (h : rising m = true) : rising (m.filter p) = true := by
  rw [rising_iff] at *
  exact h.filter p

theorem canonical_filter {α : Type} [DecidableEq α] {m : KMap α} {v : α} (p : Nat × α → Bool) (h : canonical v m = true) :
    canonical v (m.filter p) = true := by
  simp only [canonical, Bool.and_eq_true, List.all_eq_true, decide_eq_true_eq] at *
  exact ⟨rising_filter p h.1, fun x hx => h.2 x (List.mem_filter.1 hx).1⟩

/-- Zeroing a scratchpad keeps the canonical form. -/
theorem wf_zeroScratch (d : Dev) (t : Nat) (h : Memory.wf d.mem = true) : Memory.wf (zeroScratch d t).mem = true := by
  rw [wf_iff] at *
  exact ⟨canonical_filter _ h.1, h.2.1, rising_filter _ h.2.2.1, rising_filter _ h.2.2.2⟩

/-! ### What a read finds after a write -/

/-- A byte that a write's bytes do not cover reads as before. -/
theorem getBytes_setBytes_out (d : Dev) (a x : Nat) (bs : List Byte) (h : x < a ∨ a + bs.length ≤ x) :
    getBytes (setBytes d a bs) x 1 = getBytes d x 1 := by
  simp only [getBytes, setBytes, onMem, readSparse]
  rw [getD_writeSparse_out bs _ a x h]

/-- The bytes written are read back. -/
theorem getBytes_setBytes (d : Dev) (a : Nat) (bs : List Byte) : getBytes (setBytes d a bs) a bs.length = bs :=
  readSparse_writeSparse _ a bs

end Sys2Proof.Machine
end

