-- ==== Sys2Proof/Laws/Bytes.lean ====
section
/-!
SUPPORT. Numbers as byte strings, and bytes of memory far from a write.
-/
namespace Sys2Proof.Machine

/-- The part of a byte string's number from byte `k` on is the number of its bytes there. -/
theorem cut_fromBytes (k n : Nat) (bs : List Byte) (h : k + n ≤ bs.length) :
    cut (fromBytes bs) (8 * k) (8 * n) = fromBytes ((bs.drop k).take n) := by
  induction k generalizing bs with
  | zero =>
    simp only [Nat.mul_zero, List.drop_zero, cut, Nat.shiftRight_zero]
    induction n generalizing bs with
    | zero => simp [fromBytes, Nat.mod_one]
    | succ n ih =>
      cases bs with
      | nil => simp at h
      | cons b t =>
        have e : 2 ^ (8 * (n + 1)) = 256 * 2 ^ (8 * n) := by rw [Nat.mul_add, Nat.pow_add]; omega
        have hb := b.isLt
        have hd : (b.toNat + 256 * fromBytes t) / 256 = fromBytes t := by omega
        rw [List.take_succ_cons, fromBytes, fromBytes, e, ← ih t (by simp at h ⊢; omega), Nat.mod_mul, hd]
        omega
  | succ k ih =>
    cases bs with
    | nil =>
      have : n = 0 := by simp at h
      subst this
      simp [cut, fromBytes, Nat.mod_one]
    | cons b t =>
      have hb := b.isLt
      rw [List.drop_succ_cons, ← ih t (by simp at h ⊢; omega)]
      unfold cut
      have : 8 * (k + 1) = 8 + 8 * k := by omega
      rw [this, Nat.shiftRight_add]
      congr 2
      rw [fromBytes, Nat.shiftRight_eq_div_pow]
      omega

theorem fromBytes_toBytes (n x : Nat) : fromBytes (toBytes n x) = x % 2 ^ (8 * n) := by
  induction n generalizing x with
  | zero => simp [toBytes, fromBytes, Nat.mod_one]
  | succ n ih =>
    have e : 2 ^ (8 * (n + 1)) = 256 * 2 ^ (8 * n) := by rw [Nat.mul_add, Nat.pow_add]; omega
    rw [toBytes, fromBytes, ih, e, Nat.mod_mul, Nat.shiftRight_eq_div_pow]
    simp

@[simp] theorem length_toBytes (n x : Nat) : (toBytes n x).length = n := by
  induction n generalizing x with
  | zero => rfl
  | succ n ih => simp [toBytes, ih]

/-- Bytes past a write read as before it. -/
theorem readSparse_writeSparse_past (m : KMap Byte) (a x n : Nat) (bs : List Byte) (h : a + bs.length ≤ x) :
    readSparse (writeSparse m a bs) x n = readSparse m x n := by
  induction n generalizing x with
  | zero => rfl
  | succ n ih => rw [readSparse, readSparse, getD_writeSparse_out bs m a x (.inr h), ih (x + 1) (by omega)]

/-- Memory with nothing listed reads as zero. -/
theorem readSparse_nil (x n : Nat) : readSparse [] x n = List.replicate n 0 := by
  induction n generalizing x with
  | zero => rfl
  | succ n ih => rw [readSparse, ih, List.replicate_succ]; rfl

theorem leNat_lt (l : List Nat) (h : ∀ b ∈ l, b < 256) : leNat l < 256 ^ l.length := by
  induction l with
  | nil => simp [leNat]
  | cons b t ih =>
    have h1 := h b (.head _)
    have h2 := ih fun x hx => h x (.tail _ hx)
    have e : leNat (b :: t) = b + 256 * leNat t := rfl
    rw [e, List.length_cons, Nat.pow_succ]
    omega

/-- A SHA-384 digest is a number of 384 bits. -/
theorem sha384_lt (bs : List Byte) : sha384 bs < 2 ^ 384 := by
  have h : ∀ l, leNat (List.flatMap (beBytes 8) l) < 256 ^ (List.flatMap (beBytes 8) l).length := fun l => leNat_lt _ (by
    intro b hb
    obtain ⟨x, _, hx⟩ := List.mem_flatMap.1 hb
    obtain ⟨i, _, rfl⟩ := List.mem_map.1 hx
    exact Nat.mod_lt _ (by decide))
  unfold sha384
  have e : 256 ^ 48 = 2 ^ 384 := by decide
  refine Nat.lt_of_lt_of_le (h _) (Nat.le_of_eq (Eq.trans ?_ e))
  congr 1

end Sys2Proof.Machine
end

