-- ==== Sys2Proof/Laws/Ops.lean ====
section
/-!
SUPPORT. What the shared operations of the host queues and events do: entries on their way, wake-ups, alerts and safety
events.
-/
namespace Sys2Proof.Machine


/-- Exactly one entry is put on its way, for the queue named. -/
theorem entries_postEq (d : Dev) (q : Nat) (x : Entry) :
    (postEq d q x).hl.entries = d.hl.entries ++ [{ toEq := true, num := q, entry := x }] := rfl

theorem entries_postCq (d : Dev) (c : Nat) (x : Entry) (w : Writer) :
    (postCq d c x w).hl.entries = d.hl.entries ++ [{ toEq := false, num := c, entry := x, op := w }] := rfl

/-- An alert bit changes the pending byte alone. -/
theorem onlyRegs_alert (d : Dev) (b : Nat) : onlyRegs d (alert d b) [(.mgmtAlertPending, 0)] :=
  onlyRegs_wr (onlyRegs_refl d _) (.head _)

/-- What a fault event changes: its sequence number, the last record, one entry on its way. -/
theorem safetyEvent_only (d : Dev) (ty part die cause cls region unit detail run lost : Nat) :
    ∃ x e, safetyEvent d ty part die cause cls region unit detail run lost = postEq x (rd x .safetyEventEq) e ∧
      onlyRegs d x ((.safetyFaultSeq, 0) :: (List.range 4).map fun i => (.safetyLastRecord, i)) := by
  refine ⟨_, _, rfl, ?_⟩
  have h : List.range 4 = [0, 1, 2, 3] := rfl
  rw [h]
  simp only [List.foldl_cons, List.foldl_nil, List.map_cons, List.map_nil]
  refine onlyRegs_wr (onlyRegs_wr (onlyRegs_wr (onlyRegs_wr (onlyRegs_bump (onlyRegs_refl d _) ?_) ?_) ?_) ?_) ?_ <;> simp

/-- A fault event leaves every register but its own as it was. -/
theorem rd_safetyEvent (d : Dev) (ty part die cause cls region unit detail run lost : Nat) (f : Fld) (i : Nat)
    (h1 : .safetyFaultSeq ∉ votedWith f) (h2 : .safetyLastRecord ∉ votedWith f) :
    rd (safetyEvent d ty part die cause cls region unit detail run lost) f i = rd d f i := by
  obtain ⟨x, e, hx, h⟩ := safetyEvent_only d ty part die cause cls region unit detail run lost
  rw [hx, rd_postEq]
  refine h.2 f i fun y hy hv => absurd hv ?_
  rcases List.mem_cons.1 hy with rfl | hy
  · exact h1
  · obtain ⟨k, _, rfl⟩ := List.mem_map.1 hy
    exact h2

end Sys2Proof.Machine
end

