-- ==== Sys2Proof/Tests/Slice0.lean ====
section
/-!
SUPPORT. Tests of the model on small states, and a witness for the hypotheses of each statement: a concrete state and operands that
meet them together, clause by clause.
-/
namespace Sys2Proof.Tests
set_option Elab.async false
open Sys2Proof.Machine

/-! ### Small states -/

/-- The device at reset with register entries written. -/
def at_ (l : List (Fld × Nat × Nat)) : Dev := l.foldl (fun d x => wr d x.1 x.2.1 x.2.2) {}

/-- The same in stage RUN. -/
def run_ (l : List (Fld × Nat × Nat)) : Dev := at_ ((.bootStatusStage, 0, 8) :: l)

def st (d : Dev) : State := { State.reset with dev := d }

/-- A 64-byte descriptor from (first bit, bits, value). -/
def desc (l : List (Nat × Nat × Nat)) : Desc := BitVec.ofNat 512 (packFields l)

/-- A work item of type `ty` of ring 0 on tile 0. -/
def item (ty : Nat) (l : Lane) (ph : ItemPhase) (fs : List (Nat × Nat × Nat)) : Item :=
  { uid := 1, ring := 0, part := 0, index := 0, wi := desc ((1, 4, ty) :: fs), lane := l, tile := 0, phase := ph }

/-- A running device with work items. -/
def withItems (l : List Item) (rs : List (Fld × Nat × Nat)) : Dev := onDisp (run_ rs) fun x => { x with items := l, nextUid := 9 }

/-- What a command answers, when it is a next state. -/
def after (c : Instr) (s : State) : Option State :=
  match exec c s with
  | .next t => some t
  | _ => none

/-- A register of the state a command answers. -/
def reg (c : Instr) (d : Dev) (f : Fld) (i : Nat := 0) : Option Nat := (after c (st d)).map fun t => rd t.dev f i

theorem after_some {c : Instr} {s : State} (h : (after c s).isSome = true) : ∃ t, exec c s = .next t := by
  unfold after at h
  split at h
  · exact ⟨_, ‹_›⟩
  · cases h

/-! ### Witnesses -/

theorem test_witness_StepRunsFront : State.reset.pending = [] := rfl

theorem test_witness_QueueAndFusesKept : ∃ t, exec (.ringDisable 0) State.reset = .next t := after_some (by decide +kernel)

/-- A machine whose next command marks no owner, with its fuses well formed. -/
theorem test_witness_FusesInvariant :
    fusesOk State.reset.perm ∧ ∃ t, step { State.reset with pending := [.ringDisable 0] } = .next t :=
  ⟨by unfold fusesOk; decide +kernel, after_some (c := .ringDisable 0) (s := State.reset) (by decide +kernel)⟩

/-- The same for the statement of growth. -/
theorem test_witness_FusesGrow :
    fusesOk State.reset.perm ∧ ∃ t, step { State.reset with pending := [.ringDisable 0] } = .next t := test_witness_FusesInvariant

theorem test_witness_RegisterWriteRead :
    (∀ x ∈ votedWith Fld.tileOwnerPartition, x ≠ .tileOwnerPartition → voteHolds (at_ []) x 1151 = true) ∧
    Fld.tileOwnerPartition ∉ votedWith Fld.ringCfgCq ∧ (5 : Nat) ≠ 4 := by decide +kernel

/-- Copies that agree in each way, and that all differ. -/
theorem test_witness_VotedRead :
    let f := Fld.powerThermalTripC
    let d := fun (a b c : Nat) => ({ regs := [(fkey f 0, a)], regsB := [(fkey f 0, b)], regsC := [(fkey f 0, c)] } : Dev)
    f.info.voted = true ∧ votedWith f = [f] ∧ copies (d 91 91 93) f 0 = (91, 91, 93) ∧ copies (d 91 92 91) f 0 = (91, 92, 91) ∧
    copies (d 91 92 92) f 0 = (91, 92, 92) ∧ copies (d 91 92 93) f 0 = (91, 92, 93) := by decide +kernel

/-- One byte at the last address of HBM4. -/
theorem test_witness_MemoryWriteRead :
    (∀ x, hbmEnd - 1 ≤ x → x < hbmEnd - 1 + [(7 : Byte)].length → isMemory (place (at_ []) x) = true ∧ unitFailed (at_ []) (place (at_ []) x) = false) ∧
    (∀ x, (hbmEnd - 1) / 64 * 64 ≤ x → x < hbmEnd - 1 + [(7 : Byte)].length → find? (at_ []).mem.ecc x = none) ∧
    (∀ x, hbmEnd - 1 ≤ x → x < hbmEnd - 1 + [(7 : Byte)].length → cmpRegion (at_ []) x = none) := by
  refine ⟨fun x h1 h2 => ?_, fun _ _ _ => rfl, fun x h1 h2 => ?_⟩
  all_goals
    have : x = hbmEnd - 1 := by simp only [List.length_singleton] at h2; omega
    subst this
    decide +kernel

theorem test_witness_HbmInterleave :
    hbmEnd - 1 < hbmEnd ∧ rd (at_ []) .memoryHbmCfgInterleave ≠ 1 ∧ rd (at_ [(.memoryHbmCfgInterleave, 0, 1)]) .memoryHbmCfgInterleave = 1 := by
  decide +kernel

/-- Nothing on its way; an entry for an event queue and for a completion queue that does not run; a full completion queue. -/
theorem test_witness_DeliveryRules :
    let q : QEntry := { toEq := true, num := 3, entry := 0 }
    let d := onHl (at_ []) fun h => { h with entries := [q] }
    let d' := onHl (at_ []) fun h => { h with entries := [{ q with toEq := false }] }
    let full := at_ [(.cqState, 3, 1), (.cqLog2Size, 3, 6), (.cqProducer, 3, 63), (.cqConsumer, 3, 2 ^ 32 - 1)]
    (at_ []).hl.entries = [] ∧ d.hl.entries = [q] ∧ entryStalled d q = false ∧ entryStalled d' { q with toEq := false } = false ∧ rd d .eqState q.num ≠ 1 ∧ d'.hl.entries = [{ q with toEq := false }] ∧
    rd d' .cqState q.num ≠ 1 ∧ rd full .cqState 3 = 1 ∧
    (rd full .cqProducer 3 + 2 ^ 32 - rd full .cqConsumer 3) % 2 ^ 32 = 2 ^ rd full .cqLog2Size 3 := by decide +kernel

/-- The last ring enabled; at rest and refused for its size; at rest and granted; leaving with work in flight. -/
theorem test_witness_RingEnable :
    let ok : List (Fld × Nat × Nat) := [(.ringCfgLog2Size, 4095, 6), (.partQuotaRingMax, 0, 64)]
    takesDriver (run_ []) ∧ isSet (run_ [(.ringStateEnable, 4095, 1)]) .ringStateEnable 4095 = true ∧
    ringRefusal (run_ [(.ringCfgLog2Size, 4095, 5)]) 4095 ≠ 0 ∧ ringRefusal (run_ [(.ringCfgLog2Size, 4095, 5)]) 4095 = 0x51 ∧
    rd (run_ ok) .ringStateState 4095 = 0 ∧ isSet (run_ ok) .ringStateEnable 4095 = false ∧ ringRefusal (run_ ok) 4095 = 0 ∧
    rd (run_ [(.ringStateState, 4095, 1)]) .ringStateState 4095 ≠ 0 := by decide +kernel

/-- Nothing in flight and something in flight; a stopped ring that is enabled, and one that is not. -/
theorem test_witness_RingDisableRestart :
    takesDriver (run_ [(.ringInflight, 4095, 1), (.ringStateState, 4095, 3), (.ringStateEnable, 4095, 1)]) ∧
    rd (run_ []) .ringInflight 4095 = 0 ∧ rd (run_ [(.ringInflight, 4095, 1)]) .ringInflight 4095 ≠ 0 ∧
    isSet (run_ [(.ringStateState, 4095, 3), (.ringStateEnable, 4095, 1)]) .ringStateEnable 4095 = true ∧
    rd (run_ [(.ringStateState, 4095, 3), (.ringStateEnable, 4095, 1)]) .ringStateState 4095 = 3 ∧
    isSet (run_ []) .ringStateEnable 4095 = false := by decide +kernel

/-- A value one above the highest field of each doorbell, with and without its ARM bit. -/
theorem test_witness_DoorbellsDiscarded :
    takesDriver (run_ []) ∧ (2 ^ 44 ≤ 2 ^ 44) ∧ (2 ^ 32 ≤ 2 ^ 32) ∧ bitOf (2 ^ 47) 46 = false ∧ bitOf (2 ^ 47 + 2 ^ 46) 46 = true ∧
    bitOf (2 ^ 41) 40 = false ∧ bitOf (2 ^ 41 + 2 ^ 40) 40 = true := by decide +kernel

theorem test_witness_RingDoorbell :
    let own : List (Fld × Nat × Nat) := [(.ringCfgPartition, 4095, 63)]
    takesDriver (run_ own) ∧ rd (run_ own) .ringCfgPartition 4095 = 63 ∧ voteHolds (run_ own) .ringCfgPartition 4095 = true ∧
    rd (run_ own) .ringStateState 4095 = 0 ∧ rd (run_ ((.ringStateState, 4095, 2) :: own)) .ringStateState 4095 = 2 ∧
    isSet (run_ ((.ringStateEnable, 4095, 1) :: own)) .ringStateEnable 4095 = true := by decide +kernel

/-- A queue that reads the slots it is told, over a device. -/
def oneQueue (x : Desc) (hint : Nat) : Fetch :=
  { id := .cmdq, head := fun _ => 0, setHead := fun d _ => d, hint := fun _ => hint, log2 := fun _ => 6, read := fun d _ => (d, .got x),
    accept := fun d _ _ => d, onBad := fun d _ => d, running := fun d => d, parked := fun d => d }

/-- A slot with the expected phase 1; one without it and no slot announced; one announced. -/
theorem test_witness_FetchProcedure :
    (oneQueue 1 0).read (at_ []) ((oneQueue 1 0).head (at_ [])) = (at_ [], .got 1) ∧
    fieldAt (1 : Desc) 0 0 1 = phaseAt ((oneQueue 1 0).head (at_ [])) ((oneQueue 1 0).log2 (at_ [])) ∧
    fieldAt (0 : Desc) 0 0 1 ≠ phaseAt ((oneQueue 0 0).head (at_ [])) ((oneQueue 0 0).log2 (at_ [])) ∧
    announced ((oneQueue 0 0).hint (at_ [])) ((oneQueue 0 0).head (at_ [])) = false ∧
    announced ((oneQueue 0 1).hint (at_ [])) ((oneQueue 0 1).head (at_ [])) = true := by
  refine ⟨rfl, ?_⟩; decide +kernel

theorem test_witness_QueueRefetch :
    let d := fun q w => onHl (run_ []) fun h => { h with sleeping := [(q, w)] }
    inRun (d .cmdq 0) = true ∧ sleeps (d (.ring 4095) 64) (.ring 4095) = some 64 ∧ sleeps (d .cmdq 0) .cmdq = some 0 ∧
    sleeps (d (.sq 1) 64) (.sq 1) = some 64 ∧ sleeps (d (.rq 1) 64) (.rq 1) = some 64 ∧ sleeps (d (.coll 63) 0) (.coll 63) = some 0 ∧ sleeps (d (.rawTx 31) 128) (.rawTx 31) = some 128 := by
  decide +kernel

/-- A turn with one fetched work item, one with a ring between turns; a work item for each refusal, and one that is taken. -/
theorem test_witness_DispatcherTurn :
    let own : List (Fld × Nat × Nat) := [(.dispatchCtrlEnable, 0, 1), (.tileOwnerAssigned, 0, 1)]
    let d := withItems [item 1 .home .fetched []] own
    let z := onHl (run_ own) fun h => { h with sleeping := [(.ring 0, 0)] }
    let w := fun (ty : Nat) (fs : List (Nat × Nat × Nat)) => (item ty .home .fetched fs).wi
    inRun d = true ∧ isSet d .dispatchCtrlEnable = true ∧ emptyTokens d 0 = [] ∧
    firstFrom (getD d.disp.ringPtr 0 0) (turnRings d 0) = some 0 ∧ firstFrom (getD z.disp.ringPtr 0 0) (turnRings z 0) = some 0 ∧
    wiType (w 0 []) = 0 ∧ 7 < wiType (w 8 []) ∧ wiReserved (w 1 [(29, 1, 1)]) = true ∧
    (wiReserved (w 1 [(27, 2, 2)]) = false ∧ placeBad d 0 (w 1 [(27, 2, 2)]) = true) ∧
    (wiReserved (w 1 [(95, 1, 1), (64, 18, 0x30000)]) = false ∧ placeBad d 0 (w 1 [(95, 1, 1), (64, 18, 0x30000)]) = false ∧
      refBad d 0 (w 1 [(95, 1, 1), (64, 18, 0x30000)]) = true) ∧
    dispatchCause d 0 (w 0 []) ≠ 0 := by decide +kernel

theorem test_witness_PlacementChoice :
    wiMode (desc [(1, 4, 1)]) = 0 ∧ [0, 47].Pairwise (· < ·) ∧ fewest (withItems [item 1 .matrix .placed []] []) 0 .matrix [0, 47] = some (0, 47) := by
  decide +kernel

/-- A row with tiles of the partition; a stall between the thresholds; a set of two whose low time is reached, with idle lanes. -/
theorem test_witness_ActiveSetAdjust :
    let d := run_ [(.tileOwnerPartition, 1151, 63), (.tileOwnerAssigned, 1151, 1), (.tileOwnerPartition, 1150, 63), (.tileOwnerAssigned, 1150, 1),
      (.dispatchOccCtrlGrowPct, 0, 100), (.dispatchOccCtrlShrinkHold, 0, 5)]
    let x := onDisp d fun y => { y with active := [(23 * 64 + 63, { cols := [46, 47], lowUs := 4 })] }
    rowColumns d 23 63 = [46, 47] ∧ 100 ≤ rd d .dispatchOccCtrlGrowPct ∧ rd d .dispatchOccCtrlShrinkPct ≤ 100 ∧
    activeSet d 23 63 = [46] ∧ activeSet x 23 63 = [46, 47] ∧ rd x .dispatchOccCtrlShrinkHold ≤ (getD x.disp.active (23 * 64 + 63) {}).lowUs + 1 ∧
    (laneItems x (tileAt 23 47) .matrix).isEmpty = true ∧ (laneItems x (tileAt 23 47) .vector).isEmpty = true ∧
    (laneItems x (tileAt 23 47) .move).isEmpty = true ∧ rd (run_ []) .dispatchOccCtrlGrowPct < 100 ∧ 0 < rd (run_ []) .dispatchOccCtrlShrinkPct := by
  decide +kernel

/-- The next work item of each of the four types; one whose wait names no token; one that may start at once. -/
theorem test_witness_UnitStart :
    let d := fun (ty : Nat) (l : Lane) => withItems [item ty l .placed []] []
    startable (d 1 .matrix) 0 .matrix 1 = true ∧ startable (d 2 .vector) 0 .vector 2 = true ∧ startable (d 3 .move) 0 .move 3 = true ∧
    startable (d 4 .matrix) 0 .matrix 4 = true ∧
    waitOf (d 1 .matrix) (item 1 .matrix .placed []) ≠ .bad ∧ (item 1 .matrix .placed []).graph = none ∧
    (item 1 .matrix .placed []).rerun = false ∧ (item 1 .matrix .placed []).patched = false ∧
    startable (withItems [item 1 .matrix .placed [(95, 1, 1)]] []) 0 .matrix 1 = true ∧
    waitOf (withItems [item 1 .matrix .placed [(95, 1, 1)]] []) (item 1 .matrix .placed [(95, 1, 1)]) = .bad := by decide +kernel

/-- A field that no written entry is voted with reads its reset value. -/
theorem rd_at_other (f : Fld) (i : Nat) (l : List (Fld × Nat × Nat)) (h : ∀ x ∈ l, x.1 ∉ votedWith f) :
    rd (at_ l) f i = f.info.reset := by
  have : ∀ (l : List (Fld × Nat × Nat)) (d : Dev), (∀ x ∈ l, x.1 ∉ votedWith f) →
      rd (l.foldl (fun d x => wr d x.1 x.2.1 x.2.2) d) f i = rd d f i := by
    intro l
    induction l with
    | nil => intro d _; rfl
    | cons x t ih =>
      intro d hx
      rw [List.foldl_cons, ih _ (fun y hy => hx y (.tail _ hy)), rd_wr_other _ _ (.inl (hx x (.head _)))]
  rw [at_, this l {} h]
  cases f <;> rfl

/-- No compressed region is enabled. -/
theorem quiet_cmp (d : Dev) (h : ∀ k, k < 16 → isSet d .memoryCmpRegionEnable k = false) (x : Nat) : cmpRegion d x = none := by
  refine List.find?_eq_none.2 fun k hk => ?_
  simp [h k (List.mem_range.1 hk)]

/-- No unit has failed. -/
theorem quiet_units (d : Dev) (h1 : d.mem.stacksFailed = []) (h2 : d.mem.hedgeFailed = [])
    (h3 : ∀ c, rd d .memoryDdrStatState c = 0) (p : Place) : unitFailed d p = false := by
  cases p <;> simp [unitFailed, h1, h2, h3]

/-- One that fails its checks; one that runs; accesses that all succeed, and one that meets an error. -/
theorem test_witness_MatrixWork :
    let w := [(384, 15, 1), (400, 15, 1), (416, 20, 1), (436, 4, 1), (440, 4, 1)]
    let d := withItems [item 1 .matrix .started w] []
    let p := onMem d fun m => { m with ecc := [(spBase, .uncorrectable)] }
    matrixCause (matrixWi (item 1 .matrix .started []).wi) ≠ 0 ∧ matrixCause (matrixWi (item 1 .matrix .started w).wi) = 0 ∧
    running? d 0 .matrix = some (item 1 .matrix .started w) ∧ runsType d 0 .matrix 1 = true ∧
    (product d 1 0 (matrixWi (item 1 .matrix .started w).wi)).2.1 = none ∧ runsType p 0 .matrix 1 = true ∧
    (product p 1 0 (matrixWi (item 1 .matrix .started w).wi)).2.1 = some 0x61 := by decide +kernel

/-- A running vector sequence of one iteration with the given program. -/
def vecDev (prog : List Nat) : Dev :=
  onDisp (withItems [item 2 .vector .started [(256, 25, 1)]] []) fun x => { x with vec := [(1, { uid := 1, prog := prog })] }

/-- The operation of each slot, with registers 1, 2, 3 as its sources and 4 as its result. -/
def oneOp (o : Nat) : Dev := vecDev [packFields [(0, 8, o), (8, 4, 4), (12, 4, 1), (16, 4, 2), (20, 4, 3), (32, 32, 7)]]

theorem test_witness_VectorIntegerOps :
    ∀ o ∈ [0x03, 0x04, 0x20, 0x21, 0x22, 0x23, 0x24, 0x25, 0x26, 0x27],
      vecAt (oneOp o) 0 o = true ∧ (vecOf (oneOp o) 0).any (fun x => x.2.uid == x.1.uid) = true := by decide +kernel

theorem test_witness_VectorFloatOps :
    ∀ o ∈ [0x10, 0x11, 0x12, 0x13, 0x14, 0x15, 0x16, 0x17, 0x18, 0x19, 0x1A, 0x28, 0x29, 0x30, 0x31, 0x32, 0x33, 0x38, 0x39],
      vecAt (oneOp o) 0 o = true ∧ (vecOf (oneOp o) 0).any (fun x => x.2.uid == x.1.uid) = true := by decide +kernel

/-- A LOAD and a STORE, of FP32 and of a block format, alone in the program and followed by another slot, at the scratchpad's last bytes. -/
theorem test_witness_VectorLoadStore :
    (∀ o ∈ [1, 2], ∀ f ∈ [0, 2], ∀ t ∈ [[], [3]],
      let p := packFields [(0, 8, o), (24, 4, f), (32, 32, spBytes - vElemBytes f)]
      let d := vecDev ([p, 0] ++ t)
      vecAt d 0 o = true ∧ (vecOf d 0).any (fun x => x.2.uid == x.1.uid) = true ∧
      (memOffsets p 0 0).1 + vElemBytes f ≤ spBytes ∧ (memOffsets p 0 0).2 + vScaleBytes f ≤ spBytes ∧
      contested d 0 (portAt d (.item 1) 0) = false) ∧
    (∀ x, find? (vecDev [1, 0]).mem.ecc x = none) ∧ (∀ x, cmpRegion (vecDev [1, 0]) x = none) :=
  ⟨by decide +kernel, fun _ => rfl, quiet_cmp _ (by decide +kernel)⟩

/-- A sequence past its last iteration, a move of no bytes, a transfer waiting for a slot. -/
theorem test_witness_TileWorkEnds :
    let v := onDisp (vecDev [3]) fun x => { x with vec := [(1, { uid := 1, prog := [3], iter := 1 })] }
    let m := withItems [item 3 .move .started []] []
    let w := onXl (run_ []) fun x => { x with waiting := [{ part := 63, work := .item 1, due := true }] }
    runsType v 0 .vector 2 = true ∧ (vecOf v 0).any (fun x => x.2.iter == seqLoop x.1.wi) = true ∧
    runsType m 0 .move 3 = true ∧ running? m 0 .move = some (item 3 .move .started []) ∧
    m.xl.parked.contains (.item 1) = false ∧ moveTotal (item 3 .move .started []).wi ≤ (item 3 .move .started []).prog ∧
    (item 3 .move .started []).held = false ∧ (item 3 .move .started []).remote = 0 ∧
    inRun w = true ∧ slotWaiter w 63 = some { part := 63, work := .item 1, due := true } := by decide +kernel

theorem test_witness_NanBlock :
    (∃ v ∈ [FV.nan], isFin v = false) ∧ (∀ v ∈ [FV.fin false 1 0], isFin v = true) ∧ (2 ≤ 7 ∧ [0x7F800000] ≠ ([] : List Nat)) := by
  decide +kernel

theorem test_witness_Fp32RoundTrip : decode32 0x00000001 ≠ .nan ∧ decode32 0xFF7FFFFF ≠ .nan ∧ decode32 0x7F800001 = .nan := by decide +kernel

/-- A running walk of one entry: its batch to be formed, a remote batch waiting, a page read, all done, its far requests. -/
def walk1 (r : AttRun) (w : List (Nat × Nat × Nat)) : Dev :=
  { withItems [item 4 .matrix .started w] [] with att := { runs := [(1, r)] } }

def run1 : AttRun := { uid := 1, header := 0, homes := [], next := 0, q := [], qpos := [], rows := [] }

theorem test_witness_AttentionWalk :
    let on := fun (d : Dev) => (attOn d 0).isSome
    let pg : AttPage := { index := 5, kv := [], side := [] }
    let f : FarReq := { slot := 2, tag := 9, home := 0, first := 0, entries := [], base := 0, bytes := 0 }
    let h : HomeReq := { id := 4, part := 0, qpn := 1, pd := 0, addr := 0, payload := [], tile := 1151 }
    on (walk1 run1 []) = true ∧ batchReady (item 4 .matrix .started []) run1 = true ∧
    batchReady (item 4 .matrix .started []) { run1 with batch := [0], remoteBatch := true } = true ∧
    (pageOf (walk1 { run1 with pages := [pg] } []) 0 5).isSome = true ∧
    walkDone (item 4 .matrix .started []) { run1 with next := 1 } = true ∧
    (visitRuns (walk1 run1 []) 0 0 [(0, [1])]).2 = none ∧
    (visitRuns (onMem (walk1 run1 []) fun m => { m with ecc := [(spBase, .poisoned)] }) 0 0 [(0, [1])]).2 = some 0x60 ∧
    (farOf (walk1 { run1 with far := [f] } [(440, 2, 2)]) 0 2 .out).isSome = true ∧
    (attWi (item 4 .matrix .started [(440, 2, 2)]).wi).policy = 2 ∧
    (farOf (walk1 { run1 with far := [{ f with state := .retry, tries := 15, retryMax := 15 }] } []) 0 2 .retry).isSome = true ∧
    (match farIssue (walk1 run1 []) (item 4 .matrix .started []) run1 { f with retryMax := 2, tries := 2 } with | .busy => true | _ => false) = true ∧
    (match (homeFetch { run_ [] with att := { homes := [h] } } h).2 with | .pages l => l.isEmpty | _ => false) = true ∧
    subExists (run_ []) 28 = true ∧ (100 ≤ 100) ∧
    homeReady { run_ [] with att := { homes := [h] } } 4 = some h := by
  dsimp only
  repeat' apply And.intro
  all_goals decide +kernel

/-- A started token work item with one operation. -/
def tokDev (op fa v : Nat) (d : List (Fld × Nat × Nat)) : Dev :=
  withItems [item 5 .token .started [(192, 4, op), (256, 64, fa), (320, 64, v)]] d

/-- Each operation on the first word of tile 0's scratchpad and on its last; a tile with 64 words, a word that is registered and one
that is not; a wait that is met, one that is not, one that expires; a signal to be sent. -/
theorem test_witness_TokenOperations :
    (∀ op ∈ [1, 2, 3, 4], ∀ fa ∈ [spBase, spBase + spBytes - 8], tokReady (tokDev op fa 7 []) 1 op = true ∧
      nextTokOp (item 5 .token .started [(192, 4, op), (256, 64, fa), (320, 64, 7)]) = some (0, op, fa, 7)) ∧
    (let full := onDisp (tokDev 1 spBase 7 []) fun x => { x with tokens := (List.range 64).map fun i => (spBase + 8 * (i + 1), 0) }
     tokenAt full spBase = none ∧ 64 ≤ tokensOn full 0 ∧ tokReady full 1 1 = true) ∧
    (tokenAt (tokDev 1 spBase 7 []) spBase = none ∧ tokensOn (tokDev 1 spBase 7 []) 0 < 64) ∧
    (let d := onDisp (tokDev 2 spBase 7 [(.tileOwnerAssigned, 0, 1)]) fun x => { x with tokens := [(spBase, 1)] }
     spBase >>> 48 = rd d .meshNodeId ∧ (localAdd d 0x800 0 spBase 7).2 = none ∧ (localAdd (tokDev 2 spBase 7 []) 0x800 0 spBase 7).2 = some 0xC7 ∧
     spBase >>> 48 ≠ rd (tokDev 2 spBase 7 [(.meshNodeId, 0, 1)]) .meshNodeId) ∧
    (let d := onDisp (tokDev 3 spBase 7 []) fun x => { x with tokens := [(spBase, 7)] }
     tokenSeen d spBase = some 7 ∧ tokenSeen (tokDev 3 spBase 7 []) spBase = none ∧ tokReady d 1 3 = true ∧ (7 ≤ 7) ∧ (6 < 7)) ∧
    (let d := onDisp (tokDev 4 spBase 7 []) fun x => { x with tokens := [(spBase, 7)] }
     tokenAt d spBase ≠ none ∧ (∀ x ∈ d.disp.items, waitsOn d x ≠ some spBase) ∧ tokReady d 1 4 = true) ∧
    (let it := { item 5 .token .started [(192, 4, 3), (256, 64, spBase), (320, 64, 7)] with prog := 1 }
     let d := onDisp (withItems [it] [(.dispatchWaitTimeout, 0, 1)]) fun x => { x with tokens := [(spBase, 6)] }
     let m := onDisp d fun x => { x with tokens := [(spBase, 7)] }
     waitMetNow m it = true ∧ gePending it = some (spBase, 7) ∧ waitExpires d it = true) ∧
    (let it := item 5 .token .placed [(192, 4, 1), (256, 64, spBase), (320, 64, 7)]
     let d := withItems [it] [(.tileOwnerAssigned, 0, 1)]
     tokReady d 1 1 = true ∧ waitOf d it ≠ .bad ∧ it.graph = none ∧ it.rerun = false ∧ it.patched = false ∧
     tokRefsBad 0 [tokOp it.wi 0, tokOp it.wi 1] d = false ∧ tokRefsBad 0 [tokOp it.wi 0, tokOp it.wi 1] (withItems [it] []) = true) ∧
    (let it := item 5 .token .placed [(95, 1, 1)]
     let d := onDisp (withItems [it] [(.tileOwnerAssigned, 0, 1)]) fun x => { x with tokens := [(spBase, 0)] }
     waitMetNow d it = true ∧ gePending it = none) ∧
    (let d := onDisp (run_ []) fun x => { x with signals := [{ uid := 3, part := 0, tile := 0, fa := spBase, add := 1 }] }
     inRun d = true ∧ (d.disp.signals.find? fun g => g.uid = 3).isSome = true) := by
  dsimp only
  repeat' apply And.intro
  all_goals decide +kernel

/-- A placed fence and a placed step graph, with a bad wait and without; a fence with nothing before it, with each field; a step graph
with bad fields and with good ones; a step that may issue; a graph with nothing open, past its last step and failed. -/
theorem test_witness_FencesAndGraphs :
    let g := fun fs => (item 7 .home .placed fs)
    let ok := [(416, 32, 1), (448, 16, 1)]
    let sg := fun (r : GraphRun) => onDisp (withItems [item 7 .home .started ok] [(.dispatchCtrlEnable, 0, 1)]) fun x => { x with graphs := [r] }
    (∀ ty ∈ [6, 7], ∀ b ∈ [0, 1], (homeStartable (withItems [item ty .home .placed [(95, 1, b)]] []) 1 ty).isSome = true) ∧
    waitOf (withItems [g [(95, 1, 1)]] []) (g [(95, 1, 1)]) = .bad ∧ waitOf (withItems [g []] []) (g []) ≠ .bad ∧
    (g []).graph = none ∧ (g []).rerun = false ∧ (g []).patched = false ∧
    (∀ m ∈ [0, 1, 2, 3], (fenceReady (withItems [item 6 .home .started [(208, 2, m), (200, 8, 2)]] []) 1).isSome = true) ∧
    fenceDomain (item 6 .home .started [(208, 2, 3), (200, 8, 2)]).wi ≠ 0 ∧ fenceMark (item 6 .home .started [(208, 2, 1)]).wi = true ∧
    fenceKeepReset (item 6 .home .started [(208, 2, 2)]).wi = true ∧ fenceKeepReset (item 6 .home .started [(208, 2, 1)]).wi = false ∧
    graphBad (graphWi (g []).wi) = true ∧ graphBad (graphWi (g ok).wi) = false ∧
    (issueReady (sg { uid := 1 }) 1).isSome = true ∧ oldestOpen 0 { uid := 1, open_ := [(0, 1)], step := 1 } = some 0 ∧
    (issueReady (sg { uid := 1, open_ := [(0, 1)], step := 0, next := 0 }) 1).isSome = true ∧
    (itemOf (sg { uid := 1, step := 1 }) 1).isSome = true ∧ (graphRunOf (sg { uid := 1, step := 1 }) 1).isSome = true ∧
    (graphWi (g ok).wi).count ≤ 1 ∧ 0 < (graphWi (g ok).wi).count ∧
    (itemOf (sg { uid := 1, cause := 0x60 }) 1).isSome = true ∧ (graphRunOf (sg { uid := 1, cause := 0x60 }) 1).any (fun r => r.cause != 0 && r.step == 0) = true := by
  dsimp only
  repeat' apply And.intro
  all_goals decide +kernel

/-- A retirement that is granted: the tile waits for its spare. -/
theorem test_witness_TileFaultRules_swap :
    (find? (tileFault (wr (wr (run_ []) .safetyTileRetireTile 0 1151) .safetyTileRetireBusy 0 1) 1151 9 true true).safe.swaps 1151).isSome = true := by
  have h : ∀ f, f ∈ [Fld.tileOwnerReleasing, .spareMapUse] → ∀ (p x : Nat) i,
      rd (safetyEvent (fresh (wr (wr (run_ []) .safetyTileRetireTile 0 1151) .safetyTileRetireBusy 0 1)).2 0x40 p 0 0xEC 9 1 1151 x 0 0) f i = f.info.reset := by
    intro f hf p x i
    rw [rd_safetyEvent]
    · exact rd_at_other f i [(.bootStatusStage, 0, 8), (.safetyTileRetireTile, 0, 1151), (.safetyTileRetireBusy, 0, 1)]
        (by rcases hf with _ | ⟨_, _ | ⟨_, hf⟩⟩ <;> first | decide | cases hf)
    all_goals rcases hf with _ | ⟨_, _ | ⟨_, hf⟩⟩ <;> first | decide | cases hf
  have e : ∀ p, isSet (safetyEvent (fresh (wr (wr (run_ []) .safetyTileRetireTile 0 1151) .safetyTileRetireBusy 0 1)).2 0x40 p 0 0xEC 9 1 1151
      (openField (wr (wr (run_ []) .safetyTileRetireTile 0 1151) .safetyTileRetireBusy 0 1)).1 0 0) .tileOwnerReleasing 1151 = false := by
    intro p; unfold isSet; rw [h _ (.head _)]; rfl
  have e' : ∀ p, spareFree (safetyEvent (fresh (wr (wr (run_ []) .safetyTileRetireTile 0 1151) .safetyTileRetireBusy 0 1)).2 0x40 p 0 0xEC 9 1 1151
      (openField (wr (wr (run_ []) .safetyTileRetireTile 0 1151) .safetyTileRetireBusy 0 1)).1 0 0) 1151 = true := by
    intro p; unfold spareFree; rw [h _ (.tail _ (.head _))]; rfl
  have s : ∀ d : Dev, d.disp.items = [] → d.att.homes = [] → stopUnits d 1151 = d := by
    intro d h1 h2; simp [stopUnits, tileItems, h1, h2]
  unfold tileFault faultEvent
  dsimp only
  rw [s _ rfl rfl]
  unfold openField at *
  simp [e, e', onSafe, onDisp, find?_put_self]

/-- A unit that may hang; a checked item on each unit and none with a home request; a retirement under way, refused for each reason, and
granted; a tile that is released, has no spare, or is swapped; a spare with nothing to replay. -/
theorem test_witness_TileFaultRules :
    let d := withItems [item 1 .matrix .started []] [(.safetyCfgWatchdogUs, 0, 1)]
    let h : HomeReq := { id := 4, part := 0, qpn := 1, pd := 0, addr := 0, payload := [], tile := 1151 }
    let home := { run_ [] with att := { homes := [h] } }
    let w : Swap := { cls := 9, copy := false }
    let s := onSafe (run_ []) fun x => { x with swaps := [(1151, w)] }
    rd d .safetyCfgWatchdogUs 0 ≠ 0 ∧ mayHang d 0 = true ∧ checkedItem d 0 false = some (item 1 .matrix .started []) ∧
    checkedItem (withItems [item 2 .vector .started []] []) 0 true = some (item 2 .vector .started []) ∧
    h ∈ home.att.homes ∧ checkedItem home 1151 true = none ∧ (homeReady home 4).isSome = true ∧
    isSet (run_ [(.safetyTileRetireBusy, 0, 1)]) .safetyTileRetireBusy 0 = true ∧ tiles ≤ 1152 ∧
    isSet (run_ []) .safetyTileRetireBusy 0 = false ∧ tileFailedBit (run_ []) 1151 = false ∧ spareFree (run_ []) 1151 = true ∧
    tileFailedBit (run_ [(.safetyTileFailed, 17, 2 ^ 63)]) 1151 = true ∧ spareFree (run_ [(.spareMapUse, 15, 1)]) 1151 = false ∧
    isSet (run_ [(.tileOwnerReleasing, 1151, 1)]) .tileOwnerReleasing 1151 = true ∧ isSet (run_ []) .tileOwnerReleasing 1151 = false ∧
    inRun s = true ∧ find? s.safe.swaps 1151 = some w ∧ w.taken = false ∧ journalOf s 1151 = {} := by
  dsimp only
  repeat' apply And.intro
  all_goals decide +kernel

/-- A crossing's entry for the block of an endpoint in both banks, with every group up, and given bits. -/
def rt (c dest bits : Nat) : List (Fld × Nat × Nat) :=
  [(.meshRouteTable, c * 2 * 1024 + dest / 64, bits + (2 ^ groupsOf c - 1) <<< 8),
   (.meshRouteTable, (c * 2 + 1) * 1024 + dest / 64, bits + (2 ^ groupsOf c - 1) <<< 8), (.meshLinkStatusUp, c, 2 ^ groupsOf c - 1)]

/-- Routes between the Laurel die and the first Hedge die, both ways. -/
def hbm0 : List (Fld × Nat × Nat) := rt 9 0x1000 1 ++ rt 0 0x1000 1 ++ rt 4 0x2000 1 ++ rt 8 0x2000 1

/-- A flit from a Hedge endpoint to the atomic unit of the same die, or to an endpoint named. -/
def flit1 (op : Nat) : Flit :=
  { dest := 0x1005, src := 0x1010, txn := 65535, op := op, epoch := 0, last := true, poison := false, vc := 0, part := 0, cong := false,
    addr := 0, byteFirst := 0, byteLast := 31, atomic := 0, payload := 0 }

/-- Each code served within one die; refused without a route, lost at an entry that delivers locally, and with a poisoned operand. -/
theorem test_witness_Atomics :
    (∀ k, k < 8 → atomicOk (run_ []) { flit1 2 with atomic := k } k = true ∧ (flitRefusal (run_ []) { flit1 2 with atomic := k }).2 = .serve ∧
      atomicOk (run_ []) { flit1 2 with atomic := k, poison := true } k = true) ∧
    (flitRefusal (run_ []) { flit1 2 with src := 0 }).2 = .refuse 0xC3 ∧ atomicOk (run_ (rt 0 0x1005 3)) { flit1 2 with src := 0 } 0 = true ∧
    (flitRefusal (run_ (rt 0 0x1005 3)) { flit1 2 with src := 0 }).2 = .lost ∧
    (∀ x, find? (run_ []).mem.ecc x = none) ∧ (∀ x, cmpRegion (run_ []) x = none) ∧
    (∀ x, unitFailed (run_ []) (place (run_ []) x) = false) :=
  ⟨by decide +kernel, by decide +kernel, by decide +kernel, by decide +kernel, fun _ => rfl, quiet_cmp _ (by decide +kernel),
   fun _ => quiet_units _ rfl rfl (fun c => rd_at_other .memoryDdrStatState c [(.bootStatusStage, 0, 8)] (by decide)) _⟩

/-- A read of one byte and of 4,096, a write of one flit and of two; each of the refusals, and a flit that is lost. -/
theorem test_witness_FlitReadWrite :
    let r := { flit1 0 with dest := 0x1000 }
    let w := { flit1 1 with dest := 0x1000 }
    let far := { r with src := 0 }
    let tile := { r with src := 1, dest := 1151, addr := spBase + 1151 * 0x200000 }
    let sealed_ := run_ [(.yewSealStatusSealed, 63, 1), (.partSealCfgHedge, 63, 1)]
    (∀ n ∈ [1, 4096], mayStart (run_ []) { r with payload := n } = true ∧ flitOk (run_ []) { r with payload := n } 0 = true ∧
      readBytes { r with payload := n } = n ∧ touchesHole (run_ []) r.addr n = false) ∧
    (flitRefusal (run_ []) r).2 = .serve ∧ writeOk (run_ []) [w] = true ∧
    writeOk (run_ []) [{ w with last := false }, { w with addr := 32 }] = true ∧ (flitRefusal (run_ []) w).2 = .serve ∧
    (memWrite (run_ []) false (writePart w).2.length (writePart w).1 (writePart w).2).2 = none ∧
    (flitRefusal (run_ []) far).2 = .refuse 0xC3 ∧ routeOf (run_ []) far.epoch far.src far.dest = .noRoute ∧
    (flitRefusal (run_ (rt 0 0x1000 3)) far).2 = .lost ∧
    (flitRefusal (run_ []) tile).2 = .refuse 0xC7 ∧ (flitRefusal sealed_ r).2 = .refuse 0x8A ∧
    (flitRefusal (onSafe (run_ []) fun x => { x with swaps := [(1151, { cls := 9, copy := false })] }) tile).2 = .refuse 0xEC ∧
    flitOk (run_ []) far 0 = true ∧ mayStart (run_ []) tile = true ∧ writeOk sealed_ [w] = true := by
  dsimp only
  repeat' apply And.intro
  all_goals decide +kernel

/-- An answer of each kind without a route back, with one, and lost, of one flit and of two; a notification with each of the three ways; a carried
work item, a transaction that waits; an endpoint with nothing on its way and one with an answer; a remote transaction without flits. -/
theorem test_witness_FlitAnswers :
    let a := fun k (s l : Nat) => ({ src := s, txn := 3, kind := k, who := .flit s 3, from_ := 0x1000, left := l } : MeshAns)
    let d := fun k s l rs => onMesh (run_ rs) fun m => { m with flight := [a k s l] }
    let y : Notify := { row := 23, addr := 0, old := 0, new := 1, epoch := 0 }
    let n := fun rs => onDisp (run_ ((.transportCtrlEnable, 0, 1) :: rs)) fun x =>
      { x with notifies := [y], carried := [{ tile := 1151, uid := 1, epoch := 0 }], remotes := [{ who := .token 1, flits := [] }] }
    (∀ k ∈ [AnsKind.readData, .writeAck, .atomicResult, .error], ∀ l ∈ [1, 2], answerOf (d k 0x1010 l []) k 0x1010 3 = some (a k 0x1010 l) ∧
      answerOf (d k 0 l []) k 0 3 = some (a k 0 l)) ∧
    routeOf (d .error 0x1010 1 []) 0 0x1000 0x1010 = .arrives ∧ routeOf (d .error 0 1 []) 0 0x1000 0 = .noRoute ∧
    routeOf (d .error 0 1 (rt 4 0 3)) 0 0x1000 0 = .lost ∧
    inRun (n []) = true ∧ notifyFront (n []) 23 = some y ∧ (carriedFront (n []) 1151).isSome = true ∧
    routeOf (n (rt 9 0x817 1)) y.epoch 0x2005 0x817 = .arrives ∧ routeOf (n (rt 9 0x817 3)) y.epoch 0x2005 0x817 = .lost ∧
    routeOf (n []) y.epoch 0x2005 0x817 = .noRoute ∧
    isSet (n []) .transportCtrlEnable 0 = true ∧ (remoteFront (n [])).isSome = true ∧
    (onMesh (run_ []) fun m => { m with waiting := [(0x1010, 3)] }).mesh.waiting.contains (0x1010, 3) = true ∧
    (sideOf 0x200D).isSome = true ∧ onWay (d .error 0 1 []) 0x200D = [] ∧ onWay (d .error 0 1 []) 0 ≠ [] := by
  dsimp only
  repeat' apply And.intro
  all_goals decide +kernel

/-- The last bank of the last tile, a patrol of HBM4 and one of a die with a module, each kind of error on a line and none. -/
theorem test_witness_ScrubAndPatrol :
    let q := onMem (run_ [(.memoryScrubCfgHbmHours, 0, 24), (.memoryScrubCfgDdrHours, 0, 24)]) fun m => { m with ddrGib := [(7, 1)] }
    let e := fun x => onMem (run_ []) fun m => { m with ecc := [(64, x)] }
    domState (run_ []) (.tile 1151) = 0 ∧ (∀ x, find? (run_ []).mem.ecc x = none) ∧ rd q .bootStatusStage 0 = 8 ∧
    q.mem.hedgeFailed.contains 3 = false ∧ rd q .memoryScrubCfgHbmHours 0 ≠ 0 ∧ rd q .memoryScrubCfgDdrHours 0 ≠ 0 ∧ 0 < ddrLines q 3 ∧
    unitFailed (e .corrected) (place (e .corrected) 64) = false ∧
    find? (e .corrected).mem.ecc 64 = some .corrected ∧ find? (e .uncorrectable).mem.ecc 64 = some .uncorrectable ∧
    tokenAt (e .uncorrectable) 64 = none ∧
    tokenAt (onDisp (e .uncorrectable) fun x => { x with tokens := [(64, 5)] }) 64 = some 5 ∧ find? (e .poisoned).mem.ecc 64 = some .poisoned ∧ find? (e .poisoned).mem.ecc 0 = none := by
  refine ⟨by decide +kernel, fun _ => rfl, ?_⟩
  dsimp only
  repeat' apply And.intro
  all_goals decide +kernel

theorem test_witness_DdrAndCompression :
    let en : List (Fld × Nat × Nat) := [(.memoryCmpRegionEnable, 15, 1)]
    let ok : List (Fld × Nat × Nat) := [(.memoryCmpRegionBase, 15, 0x10000), (.memoryCmpRegionLimit, 15, 0x10000)]
    rd (run_ [(.memoryDdrStatState, 7, 1)]) .memoryDdrStatState 7 = 1 ∧ takesDriver (run_ ok) ∧
    isSet (run_ en) .memoryCmpRegionEnable 15 = true ∧ isSet (run_ ok) .memoryCmpRegionEnable 15 = false ∧
    cmpRefused (run_ ok) 15 = false ∧ cmpRefused (run_ []) 15 = true ∧ isSet (run_ [(.memoryCmpRegionBusy, 15, 1)]) .memoryCmpRegionBusy 15 = true := by
  decide +kernel

/-- A command of the last partition at the head of the queue. -/
def cmd1 (op : Nat) (fs : List (Nat × Nat × Nat)) : Desc := desc ((1, 4, op) :: (8, 6, 63) :: fs)

def cmdDev (c : Desc) (rs : List (Fld × Nat × Nat)) : Dev := onXl (run_ rs) fun x => { x with commands := [c] }

/-- Each command whole, with tables and without; one that is malformed; a resume of a held slot with its generation, to retry and to
abort; an invalidation that is over; the queue's configuration at both ends of its sizes and beyond. -/
theorem test_witness_TranslationCommands :
    let en : List (Fld × Nat × Nat) := [(.xlatePtBaseEn, 63, 1)]
    let h : HeldXfer := { work := .item 1, cause := 1 }
    let d := fun (a : Nat) => onXl (cmdDev (cmd1 3 [(160, 10, 1023), (176, 16, 5), (192, 2, a)]) en) fun x => { x with held := [(1023, h)], slotGen := [(1023, 5)] }
    let v : Inval := { id := 2, part := 63, whole := true, firstPage := 0, pages := 0, cmd := cmd1 2 [], waits := [1], waited := 0 }
    cmdMalformed (cmd1 1 [(128, 32, 1)]) = false ∧ cmdMalformed (cmd1 2 []) = false ∧ cmdMalformed (cmd1 3 [(160, 10, 1023)]) = false ∧
    cmdMalformed (cmd1 3 [(160, 10, 1023), (192, 2, 1)]) = false ∧ cmdMalformed (cmd1 4 []) = false ∧
    (cmdDev (cmd1 4 []) en).xl.commands.head? = some (cmd1 4 []) ∧ (cmdDev (cmd1 4 []) en).xl.invals = [] ∧
    inRun (cmdDev (cmd1 4 []) en) = true ∧ isSet (cmdDev (cmd1 1 []) en) .xlatePtBaseEn 63 = true ∧
    isSet (cmdDev (cmd1 1 []) []) .xlatePtBaseEn 63 = false ∧ cmdMalformed (cmd1 1 []) = true ∧
    cmdAction (cmd1 3 [(192, 2, 1)]) = 1 ∧ cmdAction (cmd1 3 []) = 0 ∧
    (∀ a ∈ [0, 1], find? (d a).xl.held 1023 = some h ∧ getD (d a).xl.slotGen 1023 0 = 5 ∧
      cmdGen (cmd1 3 [(160, 10, 1023), (176, 16, 5), (192, 2, a)]) = 5 ∧ cmdAction (cmd1 3 [(160, 10, 1023), (176, 16, 5), (192, 2, a)]) = a) ∧
    invalReady (onXl (run_ []) fun x => { x with invals := [v] }) 2 = some v ∧
    takesDriver (run_ []) ∧ (∀ s ∈ [6, 12], bitOf (16 + s) 4 = true ∧ cut (16 + s) 0 4 = s) ∧ cut (16 + 5) 0 4 = 5 ∧ cut (16 + 13) 0 4 = 13 ∧
    isSet (run_ []) .xlateCmdqCfgEnable 0 = false ∧ isSet (run_ [(.xlateCmdqCfgEnable, 0, 1)]) .xlateCmdqCfgEnable 0 = true ∧
    rd (run_ []) .xlateCmdqCfgLog2Size 0 < 16 ∧ rd (run_ []) .xlateCmdqCfgCq 0 < 2 ^ 16 := by
  dsimp only
  repeat' apply And.intro
  all_goals decide +kernel

/-- A free slot, and a slot held under another generation. -/
theorem test_witness_StaleResume :
    let c := cmd1 3 [(160, 10, 1023), (176, 16, 5)]
    let d := cmdDev c [(.xlatePtBaseEn, 63, 1)]
    let d' := onXl d fun x => { x with held := [(1023, { work := .item 1, cause := 1 })], slotGen := [(1023, 6)] }
    (cmdAction c = 1 ↔ (Instr.resumeRetry = .resumeAbort)) ∧
    (cmdAction (cmd1 3 [(160, 10, 1023), (192, 2, 1)]) = 1 ↔ (Instr.resumeAbort = .resumeAbort)) ∧
    inRun d = true ∧ d.xl.commands = [c] ∧ cmdOp c = 3 ∧ d.xl.invals = [] ∧ cmdCause d c = 0 ∧
    (∀ x, ([] : List Desc).head? = some x → 1 ≤ cmdOp x ∧ cmdOp x ≤ 4) ∧
    find? d.xl.held (cmdSlot c) = none ∧ getD d'.xl.slotGen (cmdSlot c) 0 ≠ cmdGen c := by
  refine ⟨by decide +kernel, by decide +kernel, by decide +kernel, rfl, by decide +kernel, rfl, by decide +kernel, ?_, by decide +kernel, by decide +kernel⟩
  intro x h; cases h

/-- A module that trains at each end of the stages; each cause of a detach, while attached and not; a rejoin with the epoch and another. -/
theorem test_witness_AttachAndModules :
    let att : List (Fld × Nat × Nat) := [(.hlStatusAttached, 0, 1)]
    trains (run_ []) = true ∧ trains (at_ [(.bootStatusStage, 0, 4)]) = true ∧
    moduleUp (run_ []) 1 = false ∧ moduleUp (run_ [(.hlStatusMod1, 0, 2)]) 1 = true ∧
    takesDriver (run_ att) ∧ inRun (run_ att) = true ∧ attached (run_ att) = true ∧ hostUp (run_ att) = false ∧
    rd (run_ ((.hlCfgHbMs, 0, 1) :: att)) .hlCfgHbMs 0 ≠ 0 ∧
    (rd (run_ ((.hlStatusMod1, 0, 2) :: (.hlStatusCfgModule, 0, 1) :: att)) .hlStatusCfgModule 0 = 1 ∧
      moduleUp (run_ ((.hlStatusMod1, 0, 2) :: (.hlStatusCfgModule, 0, 1) :: att)) 1 = true) ∧
    (moduleUp (run_ [(.hlStatusMod1, 0, 2)]) 1 = true ∧ 1 ≠ rd (run_ [(.hlStatusMod1, 0, 2)]) .hlStatusCfgModule 0) ∧
    attached (run_ []) = false ∧ listed (run_ att) .ringStateState = [] ∧ listed (run_ att) .cqState = [] ∧ listed (run_ att) .eqState = [] ∧
    5 = rd (run_ [(.hlEpoch, 0, 5)]) .hlEpoch 0 ∧ 4 ≠ rd (run_ [(.hlEpoch, 0, 5)]) .hlEpoch 0 := by decide +kernel

/-- A device in RUN with module 0 up and a leaf of partition 0 at DVA 0, for reads, writes and atomics, with its pinned bit. -/
def paged (rs : List (Fld × Nat × Nat)) : Dev :=
  onXl (run_ ((.hlStatusMod0, 0, 2) :: (.hlStatusAttached, 0, 1) :: hbm0 ++ rs)) fun x =>
    { x with tlb := [{ cache := .sliceLeaf 0, part := 0, level := 1, tag := 0, pte := 0x3C }] }

/-- Requests outside RUN, on the other module, above NumVFs and from a stranger; accesses that reach memory, that meet an error there and
whose address does not translate; an FLR of the physical function and of the last virtual one; work items that wait for the host. -/
theorem test_witness_HostRequests :
    let q : CfgReq := { module := 0, fn := 0, rid := 0, reg := .numVfs, write := some 63 }
    let a : ApReq := { module := 0, fn := 0, rid := 0, off := 0 }
    let boot := at_ [(.hlStatusMod0, 0, 2)]
    let bad := onMem (paged []) fun m => { m with ecc := [(0, .poisoned)] }
    let none_ := run_ [(.hlStatusMod0, 0, 2)]
    let vf := onHl (paged [(.hlHostRidMask, 0, 65535)]) fun h => { h with numVfs := 63 }
    let mv := item 3 .move .started [(352, 21, 1), (320, 32, 1)]
    let held := onXl (withItems [mv] [(.hlStatusAttached, 0, 1)]) fun x => { x with parked := [.item 1] }
    let att := item 4 .matrix .started []
    let heldA := onXl (withItems [att] [(.hlStatusAttached, 0, 1)]) fun x => { x with parked := [.item 1] }
    moduleUp boot 0 = true ∧ serving boot = false ∧ serving (paged []) = true ∧ q.module = rd (paged []) .hlStatusCfgModule 0 ∧
    q.fn ≤ (paged []).hl.numVfs ∧ hostRid (paged []) 0 = true ∧ (paged []).hl.numVfs < 63 ∧ 1 ≠ rd (paged []) .hlStatusCfgModule 0 ∧
    hostRid vf 1 = false ∧
    (∀ n ∈ [1, 4096], apPossible (paged []) a n 4096 = true ∧ apRefused (paged []) a = none ∧ (apPlace (paged []) a n .read).2 = .at_ 0 ∧
      (apBack a 0 (memRead (apPlace (paged []) a n .read).1 0 n)).2.1 = none) ∧
    apPossible boot a 1 4096 = true ∧ (memRead (apPlace bad a 1 .read).1 0 1).2.1 = some 0x60 ∧ (apPlace none_ a 1 .read).2 = .bad 0x09 ∧
    apRefused none_ a = none ∧ apPossible (paged []) a 512 512 = true ∧ (apPlace (paged []) a 1 .write).2 = .at_ 0 ∧
    (memWrite (apPlace (paged []) a 1 .write).1 false 1 0 [7]).2 = none ∧ (memWrite (apPlace bad a 1 .write).1 false 1 0 [7]).2 = some 0x60 ∧
    (apPlace none_ a 1 .write).2 = .bad 0x09 ∧
    apAtomicPossible (paged []) a 64 = true ∧ apAtomicPossible (paged []) a 32 = true ∧ (apPlace (paged []) a 8 .atomic).2 = .at_ 0 ∧
    (∀ k ∈ [1, 2, 3], (memAtomic (apPlace (paged []) a 8 .atomic).1 k 0 5 6).2.1 = none) ∧ (apPlace none_ a 8 .atomic).2 = .bad 0x09 ∧
    (apBack a 0 (memRead (apPlace (paged (rt 8 0x2000 3)) a 1 .read).1 0 1)).2.1 = some 0xC8 ∧
    (apPlace (onXl (paged []) fun x => { x with invals := [{ id := 0, part := 0, whole := true, firstPage := 0, pages := 0, cmd := 0, waits := [1], waited := 1 }] }) a 1 .read).2 = .wait ∧
    peerRid (paged [(.hlPeerRidValid, 511, 1), (.hlPeerRidId, 511, 9)]) 63 9 = true ∧
    63 ≤ vf.hl.numVfs ∧ (hostWork held 0).any (fun x => x.lane == .move) = true ∧ (hostWork heldA 0).any (fun x => x.lane != .move) = true := by
  dsimp only
  repeat' apply And.intro
  all_goals decide +kernel

/-- The last queues, owned by the last partition; a masked vector and one that is not; queues that are enabled, refused and granted. -/
theorem test_witness_EventAndCompletionQueues :
    let own : List (Fld × Nat × Nat) := [(.cqPartition, 16383, 63), (.eqPartition, 255, 63)]
    let e1 : List (Fld × Nat × Nat) := [(.eqArmed, 0, 1), (.eqProducer, 0, 1)]
    let un := onHl (paged e1) fun h => { h with msix := [(0, 0)] }
    let base : List (Fld × Nat × Nat) := [(.hlFlushHpa, 0, 1), (.eqLog2Size, 255, 16), (.cqLog2Size, 16383, 6), (.cqEq, 16383, 255),
      (.partQuotaEqMax, 0, 256), (.partQuotaCqMax, 0, 1024)]
    16384 ≤ cqs ∧ 256 ≤ eqs ∧ takesDriver (run_ own) ∧ rd (run_ own) .cqPartition 16383 = 63 ∧ voteHolds (run_ own) .cqPartition 16383 = true ∧
    rd (run_ own) .eqPartition 255 = 63 ∧ voteHolds (run_ own) .eqPartition 255 = true ∧
    msiReady (paged e1) 0 = true ∧ bitOf (vecState (paged e1) 0 0) 0 = true ∧ msiReady un 0 = true ∧ bitOf (vecState un 0 0) 0 = false ∧
    isSet (run_ [(.cqEnable, 16383, 1)]) .cqEnable 16383 = true ∧ isSet (run_ []) .cqEnable 16383 = false ∧ rd (run_ []) .cqState 16383 = 0 ∧
    cqRefusedEnable (run_ []) 16383 = true ∧ cqRefusedEnable (run_ ((.eqEnable, 255, 1) :: base)) 16383 = false ∧
    isSet (run_ [(.eqEnable, 255, 1)]) .eqEnable 255 = true ∧ isSet (run_ []) .eqEnable 255 = false ∧ rd (run_ []) .eqState 255 = 0 ∧
    eqRefusedEnable (run_ []) 255 = true ∧ eqRefusedEnable (run_ base) 255 = false := by
  dsimp only
  repeat' apply And.intro
  all_goals decide +kernel

/-- A group that is up, its first replay and its seventeenth; a re-balancing; a group in reversal; a bad change, an entry write and a
commit at the head of the queue; a drain that is over, and one that is not. -/
theorem test_witness_LinksAndRoutes :
    let up := run_ [(.meshLinkStatusUp, 7, 2 ^ 34 - 1)]
    let seventeen := onMesh up fun m => { m with replays := [(3 * 64 + 33, List.replicate 16 0)] }
    let rev := onMesh (run_ []) fun m => { m with reversing := [(3, 2 ^ 33)] }
    let q := fun (c w : Nat) => onMesh (run_ []) fun m => { m with routeQ := [{ cmd := c, data := w }] }
    let dr := run_ [(.meshRouteCtrlDraining, 0, 1)]
    let old := onMesh dr fun m => { m with flight := [{ src := 0, txn := 0, kind := .error, who := .flit 0 0, epoch := 1 }] }
    diesOn up = true ∧ groupUp up 7 33 = true ∧ getD up.mesh.replays (min 7 (otherEnd 7) * 64 + 33) [] = [] ∧
    (seventeen.upNs :: (getD seventeen.mesh.replays (min 7 (otherEnd 7) * 64 + 33) []).filter fun t => decide (seventeen.upNs - t < 1000000)).length = 17 ∧
    (rd up .meshLinkStatusUp 7 - 2 ^ 33) % 2 ^ 34 ≠ 0 ∧ reversing rev 3 33 = true ∧
    meshUp (run_ []) = true ∧ (routeFront (q 9 1) false).any (fun c => !routeBad c) = true ∧
    (routeFront (q 10 1) false).any routeBad = true ∧ (routeFront (q (2 ^ 14) 0) true).any (fun c => !routeBad c) = true ∧
    (routeFront (q (2 ^ 14 + 2 ^ 15) 0) true).any routeBad = true ∧
    isSet dr .meshRouteCtrlDraining 0 = true ∧ oldFlits dr = 0 ∧ oldFlits old ≠ 0 ∧ old.mesh.slowSent = false ∧ takesDriver (run_ []) := by
  dsimp only
  repeat' apply And.intro
  all_goals decide +kernel

/-! Transport. -/

/-- A running device with queue pair `n`, its other state, and a live set 0 of one path, up or down, on sub-port 28. -/
def qpDev (n : Nat) (q : Qp) (r : QpRun) (up : Bool) (rs : List (Fld × Nat × Nat)) : Dev :=
  { run_ ([(.transportQpcDirValid, n / 65536, 1), (.transportCtrlEnable, 0, 1), (.portCtrlEnable, 7, 1), (.portsubLinkState, 28, 2),
      (.yewSlotState, 0, 1), (.yewSlotKind, 0, 1), (.yewSlotState, 1, 1), (.yewSlotKind, 1, 2), (.cqState, 0, 1), (.eqState, 0, 1)] ++ rs) with
    tr := { qps := [(n, q)], runs := [(n, r)], live := [(0, { set := 0, descs := [packFields [(16, 3, 7), (21, 1, 1)]], paths := [{ up := up }], owner := n })] } }

def qp1 : Qp := { state := 1, rxSlot := 1, remoteQpn := 1 }

/-- A queue pair that may not be drained and one that may; errors and resets of one and of one that is idle; addresses that fit an image and
one past the end; one that may become ready and one that is already. -/
theorem test_witness_QueuePairCommands :
    let n := 2 ^ 24 - 1
    let d := fun (s : Nat) => qpDev n { qp1 with state := s } {} true []
    takesDriver (d 1) ∧ rd (d 1) .transportQpCmdBusy 0 = 0 ∧ isSet (run_ [(.transportQpCmdBusy, 0, 1)]) .transportQpCmdBusy = true ∧
    qpAt (run_ []) n = none ∧ qpPlace (run_ []) n = none ∧ qpAt (d 1) n = some qp1 ∧ (∀ s ∈ [1, 2], decide (s ≠ 2) = (s == 1)) ∧
    imageAddr (hbmEnd - 512) = true ∧ imageAddr hbmEnd = false ∧ imageAddr 8 = false ∧
    (liveOf (touch (d 1) n) qp1.pathSet).any (fun l => readyOk (touch (d 1) n) n qp1 l.descs) = true ∧
    (liveOf (touch (d 2) n) qp1.pathSet).any (fun l => !readyOk (touch (d 2) n) n { qp1 with state := 2 } l.descs) = true ∧
    (makeLive (touch (d 1) n) qp1.pathSet n).2 = some 0 ∧ liveOf (touch (d 1) n) 65535 = none ∧
    readyOk (readSet (touch (d 1) n) 65535).1 n qp1 (readSet (touch (d 1) n) 65535).2 = true := by
  dsimp only
  repeat' apply And.intro
  all_goals decide +kernel

/-- Doorbells in each state; a good and a malformed request of each kind; a record of each state that a timer meets, with its last try and
before it; no path left; an acknowledgement due; a context on its way. -/
theorem test_witness_SendQueueAndTimers :
    let n := 2 ^ 24 - 1
    let q : Qp := { qp1 with state := 2, part := 63 }
    let wr1 := fun (op l x : Nat) => qpDev n q { wrs := [(0, desc [(1, 4, op), (224, 32, l), (16, 16, x)])] } true []
    let rec1 := fun (s : RecState) (k : Nat) => onTr (qpDev n { q with rnrRetry := 6 } {} true []) fun t =>
      { t with recs := [{ slot := 0, qpn := n, psn := 5, n := 1, msg := 0, off := 0, len := 0, state := s, rnr := k }] }
    let lost := qpDev n q { lostEvent := true, pending := true } false []
    takesDriver lost ∧ (∀ s ∈ [1, 3], qpAt (qpDev n { q with state := s } {} true []) n = some { q with state := s }) ∧
    (nextWr (wr1 1 1 0) n 1).any (fun w => !wrBad q w.2) = true ∧ (nextWr (wr1 2 1 0) n 2).any (fun w => !wrBad q w.2) = true ∧
    (nextWr (wr1 3 0 0) n 3).any (fun w => !wrBad q w.2) = true ∧ (nextWr (wr1 4 0 0) n 4).any (fun w => !wrBad q w.2) = true ∧
    (nextWr (wr1 1 1 1) n 1).any (fun w => wrBad q w.2) = true ∧ (nextWr (wr1 2 0 0) n 2).any (fun w => wrBad q w.2) = true ∧
    (nextWr (wr1 3 (2 ^ 31 + 1) 0) n 3).any (fun w => wrBad q w.2) = true ∧ (nextWr (wr1 4 1 0) n 4).any (fun w => wrBad q w.2) = true ∧
    (rtoArmed (rec1 .sent 0) n 5).isSome = true ∧ (recIn (rec1 .rnrWait 6) n 5 .rnrWait).any (fun x => x.1.rnrRetry ≠ 7 ∧ x.1.rnrRetry ≤ x.2.rnr) = true ∧
    (recIn (rec1 .rnrWait 5) n 5 .rnrWait).any (fun x => x.2.rnr < x.1.rnrRetry) = true ∧ (recIn (rec1 .heldWait 0) n 5 .heldWait).isSome = true ∧
    qpAt lost n = some q ∧ qpSends q = true ∧ qpReceives q = true ∧ (runOf lost n).lostEvent = true ∧ anyUp lost q.pathSet = false ∧
    (runOf lost n).pending = true ∧ isSet lost .transportCtrlEnable = true ∧
    ((onTr lost fun t => { t with ctxWait := [(n, .refetch false 64)] }).tr.ctxWait.any fun w => w.1 == n) = true ∧ (qpAt lost n).isSome = true ∧
    (∀ w ∈ lost.tr.ctxWait, w.1 ≠ n) ∧ (onTr (run_ []) fun t => { t with fetching := [n] }).tr.fetching.contains n = true := by
  dsimp only
  repeat' apply And.intro
  all_goals decide +kernel

/-- Commands that are done: one to drain, with and without a work request under way, one to set in error, one of each state to reset, and a sound
image to write. -/
theorem test_witness_QueuePairCommands_done :
    let n := 2 ^ 24 - 1
    let d := fun (q : Qp) => qpDev n q {} true (hbm0 ++ [(.partQuotaQpMax, 0, 1), (.transportLocalIpValid, 0, 1)])
    let r := dpaRead (touch (qpAddr (d { qp1 with state := 0 }) 0) n) 0x2000 0 512
    let image := onMem (d { qp1 with state := 0 }) fun m => { m with bytes := [(5, 4), (13, 4), (21, 4), (0x33, 0x10), (0x38, 6), (0x40, 6)] }
    let image := onTr image fun t => { t with pdCache := [(0, { val := 1, part := 0 })] }
    let ri := dpaRead (touch (qpAddr image 0) n) 0x2000 0 512
    ({ qp1 with state := 2 } : Qp).sqHead = qp1.sqDone ∧ recsOf (d qp1) n = [] ∧ msgsOf (d qp1) n = [] ∧ (runOf (d qp1) n).wrs = [] ∧
    (∀ s ∈ [1, 4, 5, 6], decide (s = 0 ∨ s = 2 ∨ s = 3 ∨ 7 ≤ s) = false) ∧ imageAddr 0 = true ∧ r.2.1 = none ∧ ri.2.1 = none ∧
    (voteContext (fromBytes ri.2.2)).any (fun x => !(imageBad ri.1 x (qpOf x)).2 &&
      decide (rd (imageBad ri.1 x (qpOf x)).1 .partCountQps (qpOf x).part < rd (imageBad ri.1 x (qpOf x)).1 .partQuotaQpMax (qpOf x).part)) = true := by
  dsimp only
  repeat' apply And.intro
  all_goals decide +kernel

/-- A retry that can be issued, to a home with a connection, and one whose home has none. -/
theorem test_witness_AttentionWalk_retry :
    let it := item 4 .matrix .started []
    let d := onTr (qpDev 5 { qp1 with state := 2 } {} true [(.meshNodeMapEn, 0, 1), (.yewEngineOkLow, 0, 1), (.dispatchAttnCtrlFarEnable, 0, 1)]) fun t =>
      { t with nodeCache := [(3, 5)] }
    let f : FarReq := { slot := 0, tag := 0, home := 0, first := 0, entries := [], base := 0, bytes := 0, tries := 2, outMax := 1 }
    (match farIssue d it { run1 with homes := [3] } f with | .sent _ => true | _ => false) = true ∧
    (match farIssue d it { run1 with homes := [4] } f with | .noPath _ => true | _ => false) = true := by
  decide +kernel

/-- A packet of one byte for queue pair 5 that meets every check, with an opcode and a PSN. -/
def pkt (op psn : Nat) : Packet :=
  { srcIp := 0, dstIp := 0, udpSrc := 0, udpDst := 0, ipOk := true, udpOk := true, dscp := 0, ecn := 2, hopLimit := 64, flowLabel := 0, version := 1, opcode := op, last := true,
    solicit := false, retx := false, fa := false, aborted := false, atomicCode := 0, path := 0, reserved := 0, destQpn := 5, psn := psn,
    msg := 0, nonce := 1, addr := 0, rh := 0, msgOffset := 0, length := 1, total := 1, txTs := 0, srcQpn := 1, ext := 0, payload := [7],
    mark := { key := 9, salt := 8, intact := true } }

/-- A device that has received a packet for a queue pair in a state. -/
def rxDev (s op psn : Nat) : Dev :=
  let d := qpDev 5 { qp1 with state := s } {} true ((.yewEngineOkLow, 0, 1) :: (.memoryHbmCfgInterleave, 0, 1) :: hbm0)
  { d with tr := { d.tr with rx := [{ sub := 28, ts := 0, len := 100, p := pkt op psn }] },
           yew := { keys := [(1, { active := some { key := 9, salt := 8 } })] } }

/-- Each opcode at the front of the received packets; no context, a state that receives nothing, another sender; a request beyond the window and
a malformed response, both accepted; the window's three parts at their ends. -/
theorem test_witness_ReceivedPackets :
    let r := fun op psn => ({ sub := 28, ts := 0, len := 100, p := pkt op psn } : RxPkt)
    (∀ op ∈ [1, 2, 3, 4, 5, 6, 7, 8, 9, 10, 11, 12, 13], rxFront (rxDev 2 op 0) op = some (r op 0)) ∧
    qpPlace (run_ []) 5 = none ∧ qpPlace (rxDev 2 1 0) 5 ≠ none ∧ (rxDev 2 1 0).tr.fetching.contains 5 = false ∧
    qpReceives { qp1 with state := 1 } = false ∧ qpReceives { qp1 with state := 2 } = true ∧ (pkt 1 0).srcQpn ≠ ({ qp1 with remoteQpn := 2 } : Qp).remoteQpn ∧
    (accept (rxDev 2 1 1024) (r 1 1024)).2.any (fun q => rxClass q 1024 == .beyond) = true ∧
    (∀ op ∈ [3, 6, 10, 11, 13], (accept (rxDev 2 op 0) { r op 0 with p := { pkt op 0 with reserved := 1 } }).2.isSome = true ∧
      malformed { pkt op 0 with reserved := 1 } = true) ∧
    openUnder (rxDev 2 1 0) 0 0 (pkt 1 0).mark = .noKey ∧ openUnder (rxDev 2 1 0) 0 1 { key := 8, salt := 8, intact := true } = .bad ∧
    parkFits (rxDev 2 1 0) (r 1 0) = true ∧ parkFits (rxDev 2 1 0) { r 1 0 with len := 2 ^ 40 } = false ∧
    (rxDev 2 1 0 |> fun d => onTr d fun t => { t with fetching := [5] }).tr.fetching.contains 5 = true ∧ qp1.rxExpected < 2 ^ 32 ∧ (1023 < 1024) ∧ (1024 < 2 ^ 31) ∧ (2 ^ 31 < 2 ^ 32) := by
  dsimp only
  repeat' apply And.intro
  all_goals decide +kernel

/-- Each opcode accepted and sound, new where it is a request; a WRITE in the region of the fabric window and one that no region allows; a NAK of a
packet with a record. -/
theorem test_witness_ReceivedPackets_done :
    let r := fun op => ({ sub := 28, ts := 0, len := 100, p := pkt op 0 } : RxPkt)
    let ctl := fun op x => ({ r op with p := { pkt op 0 with length := 0, total := if op = 2 then 1 else 0, payload := [], ext := x } } : RxPkt)
    let ok := fun (x : RxPkt) => match accept (rxDev 2 x.p.opcode 0) x with
      | (d, some q) => rxClass q 0 == .new && (!keepsOpen x.p.opcode || (openFor d x.p).isSome) && (holdOf d 5 0).isNone && !malformed x.p
      | _ => false
    let win := onTr (rxDev 2 1 0) fun t => { t with
      pdCache := [(0, { val := packFields [(0, 1, 1), (19, 1, 1)], part := 0 })]
      regionCache := [(0, { val := packFields [(0, 1, 1), (1, 1, 1), (3, 1, 1), (128, 64, 4096)], part := 0 })] }
    let named := onTr (rxDev 2 11 0) fun t => { t with
      recs := [{ slot := 0, qpn := 5, psn := 0, n := 1, msg := 0, off := 0, len := 0 }], msgs := [{ id := 0, qpn := 5, who := .sq 0, op := 1 }] }
    (∀ op ∈ [1, 4, 7, 8, 9, 3], ok (r op) = true) ∧ ok (ctl 2 1) = true ∧ (∀ op ∈ [5, 6, 10, 12, 13], ok (ctl op 0) = true) ∧
    ok (ctl 11 (2 ^ 176)) = true ∧ (recAt named 5 0).any (fun x => (msgById named x.msg).isSome) = true ∧ recAt (rxDev 2 11 0) 5 0 = none ∧
    (regionCheck (rxDev 2 1 0) 0 0 false false 0 0 1 3).2 = none ∧ (regionCheck win 0 0 true true 0 4095 1 3).2 = some (.dpa 4095) ∧
    (match (rxPlace (regionCheck win 0 0 true true 0 4095 1 3).1 qp1 .other (.dpa 4095) [7]).2 with | .ok x => x.isEmpty | _ => false) = true ∧
    (match (rxPlace (rxDev 2 1 0) qp1 .other (.dpa hbmEnd) [7]).2 with | .mfail 0x64 => true | _ => false) = true := by
  dsimp only
  repeat' apply And.intro
  all_goals decide +kernel

/-- A sub-port that is up with nothing to send; a path set that is not live, and one that is; a path that is down under a sender; meters of a port and of another,
and a packet of each colour. -/
theorem test_witness_PathsAndTransmission :
    let d := qpDev 5 { qp1 with state := 2 } {} false []
    let m := fun (k c p : Nat) => onTop (run_ [(.topiaryMeterMap, (31 * 64 + 63) * 8 + 7, k)]) fun t => { t with buckets := [(7 * 255 + 3, { tc := c, tp := p })] }
    let p : TxPkt := { sub := 31, cls := 7, part := 63, qpn := 0, len := 64, path := 0, body := .raw 0 0 [] false false }
    let near := onMem (qpDev 5 { qp1 with state := 2 } {} false hbm0) fun m => { m with bytes := [(2, 7 + 32)] }
    inRun d = true ∧ subUp d 28 = true ∧ (pick (noteRed (pumpAll d) 28) 28).isNone = true ∧ liveOf d 65535 = none ∧ liveOf d 0 ≠ none ∧
    (let g := pumpAll (onTop d fun t => { t with queue := [{ p with sub := 28 }] })
     (match pick (noteRed g 28) 28 with | some (x, _) => x.sub == 28 | none => false) = true) ∧
    (let g := { wr d .yewEngineOkLow 0 1 with yew := { keys := [(0, { active := some { key := 9, salt := 8 } })] } }
     let g := noteRed (pumpAll (onTop g fun t => { t with queue := [{ p with sub := 28, qpn := 5, part := 0, body := .ready 5 (pkt 13 0) }] })) 28
     (match pick g 28 with
      | some (x, r) => (match buildPkt g x with | (h, .ok y) => (sendPkt h x y r).2 | _ => false)
      | none => false) = true) ∧
    pathValid (readSet (wr d .transportPathsetInvalSet 0 0) 0).1 ((readSet (wr d .transportPathsetInvalSet 0 0) 0).2.getD 63 0) = false ∧
    pathValid (readSet (wr near .transportPathsetInvalSet 0 0) 0).1 ((readSet (wr near .transportPathsetInvalSet 0 0) 0).2.getD 0 0) = true ∧
    (liveOf (onTr near fun t => { t with live := [(0, { set := 0, descs := [0], paths := [{ up := false }], owner := 5 })] }) 0).any
      (fun l => l.paths.length == 1 && !pathValid near (l.descs.getD 0 0)) = true ∧
    isSet d .transportCtrlEnable 0 = true ∧ (liveOf d 0).any (fun l => (probeOwner d l).isSome && probePaths d l == [0]) = true ∧
    { run_ [] with boot := { powered := true } }.boot.powered = true ∧
    find? (m 3 5 6).top.buckets (7 * 255 + 3) = some { tc := 5, tp := 6 } ∧ (7 * 255 + 3) / 255 = 7 ∧ (7 * 255 + 3) / 255 ≠ 0 ∧
    meterOf (m 255 0 0) p = none ∧ meterOf (m 3 0 0) p = some (7 * 255 + 3) ∧
    (bucketsOf (m 3 0 0) (7 * 255 + 3)).tp < counted (m 3 0 0) p * 1024 ∧
    counted (m 3 0 1000000) p * 1024 ≤ (bucketsOf (m 3 0 1000000) (7 * 255 + 3)).tp ∧
    (bucketsOf (m 3 0 1000000) (7 * 255 + 3)).tc < counted (m 3 0 1000000) p * 1024 := by
  dsimp only
  repeat' apply And.intro
  all_goals decide +kernel

/-! Ports. -/

/-- A frame of a length, for any address. -/
def frame1 (len : Nat) (b : FrameBody) : Frame :=
  { dstMac := 0xFFFFFFFFFFFF, srcMac := 0, etherType := 0x86DD, tag := none, length := len, fcsOk := true, fecCorrected := 0, fecUncorrectable := 0,
    fecSymbols := 0, body := b }

/-- Sub-port 31 up (port 7 in mode 2). -/
def up31 (rs : List (Fld × Nat × Nat)) : Dev :=
  run_ ([(.portCfgMode, 7, 2), (.portCtrlEnable, 7, 1), (.portsubLinkState, 31, 2)] ++ rs)

theorem test_witness_PortsAndFrames :
    let los := up31 [(.portsubLinkLos, 31, 1)]
    let held := up31 [(.portsubLinkState, 31, 1)]
    let pk := pkt 1 0
    let ip := up31 [(.transportLocalIpValid, 15, 1), (.transportCfgUdpPort, 0, 4791)]
    bitOf 1 0 = true ∧ bitOf 0 0 = false ∧ rd (run_ [(.portCfgMode, 7, 3)]) .portCfgMode 7 = 3 ∧ isSet (up31 []) .portCtrlEnable 7 = true ∧
    (∀ k, k < 4 → rd (run_ []) .portsubLinkState (4 * 7 + k) ≠ 2) ∧ subExists (up31 []) 31 = true ∧
    subRuns (up31 []) 31 = true ∧ isSet (up31 []) .portsubLinkLos 31 = false ∧ rd (up31 []) .portsubLinkState 31 = 2 ∧
    rd held .portsubLinkState 31 = 1 ∧ rd held .portsubLinkState 31 ≠ 2 ∧ subRuns los 31 = true ∧ isSet los .portsubLinkLos 31 = true ∧
    subUp (run_ []) 31 = false ∧ subUp (up31 []) 31 = true ∧ { frame1 64 (.raw []) with fcsOk := false }.fcsOk = false ∧
    { frame1 64 (.raw []) with fecUncorrectable := 1 }.fecUncorrectable ≠ 0 ∧ (frame1 63 (.raw [])).length < 64 ∧ 9216 < (frame1 9217 (.raw [])).length ∧
    macTaken (up31 []) 31 2 = false ∧ vidTaken (up31 []) 31 { frame1 64 (.raw []) with tag := some 5 } = false ∧
    isPause { frame1 64 (.raw (List.replicate 14 0 ++ [1, 1])) with etherType := 0x8808 } = true ∧ isPause (frame1 9216 (.raw [])) = false ∧
    macTaken (up31 []) 31 0xFFFFFFFFFFFF = true ∧ vidTaken (up31 []) 31 (frame1 64 (.raw [])) = true ∧
    (clahimOf ip (frame1 64 (.clahim { pk with udpDst := 4791 }))).isSome = true ∧ clahimOf ip (frame1 64 (.raw [])) = none ∧
    isSet (up31 []) .portsubRawCfgRxEn 31 = false ∧ isSet (up31 [(.portsubRawCfgRxEn, 31, 1)]) .portsubRawCfgRxEn 31 = true := by
  dsimp only
  repeat' apply And.intro
  all_goals decide +kernel

/-- A doorbell of each raw ring; descriptors that break the rules, meet a link that is down, or are taken; a received frame with no buffer, a
buffer whose page waits, and one that takes it. -/
theorem test_witness_PortsAndFrames_raw :
    let x := fun (n : Nat) => desc [(128, 16, n)]
    let tx := fun (n : Nat) (d : Dev) => onPort d fun p => { p with rawTx := [(0, [(9, x n)])] }
    let en : List (Fld × Nat × Nat) := [(.portsubRawCfgTxEn, 0, 1)]
    let up : List (Fld × Nat × Nat) := [(.portCtrlEnable, 0, 1), (.portsubLinkState, 0, 2)]
    let f := frame1 64 (.raw [1, 2, 3])
    let rx := fun (d : Dev) => onTr d fun t => { t with rawRx := [(0, 4, f)] }
    let buf := onPort (paged []) fun p => { p with bufs := [(0, [{ index := 6, addr := 0, len := 256 }])] }
    let wait := onXl buf fun y => { y with invals := [{ id := 0, part := 0, whole := true, firstPage := 0, pages := 0, cmd := 0, waits := [], waited := 0 }] }
    bitOf (0 * 2 ^ 37 + 31 * 2 ^ 32 + 5) 37 = false ∧ bitOf (1 * 2 ^ 37 + 31 * 2 ^ 32 + 5) 37 = true ∧ bitOf (2 ^ 38) 37 = false ∧ bitOf (2 ^ 38 + 2 ^ 37) 37 = true ∧
    rawFront (tx 59 (paged en)) 0 = some (9, x 59) ∧ rawBad (x 59) = true ∧ rawBad (x 60) = false ∧ rawBad (x 9212) = false ∧ rawBad (x 9213) = true ∧
    subUp (paged en) 0 = false ∧ subUp (paged (en ++ up)) 0 = true ∧
    (match (dvaRead (paged (en ++ up)) (rawAgent 0) 0 (fieldAt (x 60) 8 0 64) (fieldAt (x 60) 0x10 0 16) true).2 with
      | .ok l => l == List.replicate 60 0 | _ => false) = true ∧
    (match (dvaRead (run_ (en ++ up)) (rawAgent 0) 0 0 60 true).2 with | .xfail _ _ _ _ => true | _ => false) = true ∧
    (match (dvaRead wait (rawAgent 0) 0 0 60 true).2 with | .wait => true | _ => false) = true ∧
    (match (dvaRead (onMem (paged (en ++ up)) fun m => { m with ecc := [(0, .poisoned)] }) (rawAgent 0) 0 0 60 true).2 with
      | .mfail 0x60 => true | _ => false) = true ∧ inRun (paged (en ++ up)) = true ∧
    rawRxFront (rx buf) 0 = some (4, f) ∧ (fillBufs 0 64 [1, 2, 3] 0 0 0 (run_ [])).2 = .bad ∧
    (fillBufs 0 64 [1, 2, 3] 0 0 0 (paged [])).2 = .done 0 0 0 true ∧
    (fillBufs 0 64 [1, 2, 3] 0 0 0 wait).2 = .wait ∧ (fillBufs 0 64 [1, 2, 3] 0 0 0 buf).2 = .done 6 1 3 false := by
  dsimp only
  repeat' apply And.intro
  all_goals decide +kernel

/-- A change that waits, one that breaks the rules and one that is taken, its base ahead and passed; a cancel before the start and after; a start
that is due with and without a list; an entry that is over. -/
theorem test_witness_TimeAndGates :
    let ok : List (Fld × Nat × Nat) := [(.portsubGateAdminCycleNs, 31, 1000), (.portsubGateAdminEntries, 31, 1), (.portsubGateEntry, (31 * 2 + 1) * 256, 64 * 256 + 255)]
    let pend : List (Fld × Nat × Nat) := [(.portsubGateCtrlPending, 31, 1)]
    let g : GateRun := { base := 0, cycle := 1000, entries := 1, cycleStart := 0, next := 0, endAt := 0, gates := 255 }
    takesDriver (run_ ok) ∧ isSet (run_ pend) .portsubGateCtrlPending 31 = true ∧ isSet (run_ ok) .portsubGateCtrlPending 31 = false ∧
    gateAdminOk (run_ ok) 31 = true ∧ gateAdminOk (run_ []) 31 = false ∧ now (run_ ok) ≤ rd (run_ ok) .portsubGateAdminBase 31 ∧
    rd (run_ ((.timeNowNs, 0, 1) :: ok)) .portsubGateAdminBase 31 < now (run_ ((.timeNowNs, 0, 1) :: ok)) ∧
    now (run_ ((.portsubGateStart, 31, 1) :: pend)) < rd (run_ ((.portsubGateStart, 31, 1) :: pend)) .portsubGateStart 31 ∧
    rd (run_ pend) .portsubGateStart 31 ≤ now (run_ pend) ∧ isSet (run_ pend) .portsubGateAdminEnable 31 = false ∧
    gateDue (onPort (run_ []) fun p => { p with gates := [(31, g)] }) 31 = some g := by
  dsimp only
  repeat' apply And.intro
  all_goals decide +kernel

/-! Collectives. -/

def collDev (g : CollGroup) (r : List CollRun) (q : List Desc) (rs : List (Fld × Nat × Nat)) : Dev :=
  { run_ ((.transportCollCtrlEnable, 0, 1) :: rs) with
    coll := { groups := [(255, g)], runs := r.map fun x => (255, x), queue := [(63, q.map fun w => (0, w))] } }

/-- A descriptor of group 255: one block of 32 elements from 0 to 64 KiB on, once. -/
def collD (op : Nat) (fs : List (Nat × Nat × Nat)) : Desc :=
  desc ([(1, 2, op), (16, 8, 255), (128, 64, 65536), (192, 28, 32), (224, 32, 1)] ++ fs)

def grp : CollGroup := { part := 63, rank := 0, direct := false, timeoutMs := 1, members := [(0, 0), (1, 0)] }

theorem test_witness_Collectives :
    let load := onMem (run_ ((.transportCollCmdAddr, 0, 1) :: hbm0)) fun m => { m with bytes := [(64, 2), (68, 1), (136, 1)] }
    let load := { load with tr := { qps := [(1, {})] } }
    let away := at_ (((.bootStatusStage, 0, 8) :: (.transportCollCmdAddr, 0, 1) :: hbm0) ++ [(.transportQpcDirValid, 0, 1), (.transportQpcDirHost, 0, 1), (.hlStatusAttached, 0, 1)])
    let away := onMem away fun m => { m with bytes := [(64, 2), (68, 1), (136, 1)] }
    let r : CollRun := { part := 63, desc := collD 1 [] }
    (∀ s ∈ [0, 1, 2, 3], rd (run_ [(.transportCollGroupState, 255, s)]) .transportCollGroupState 255 = s) ∧ takesDriver load ∧
    (match (groupLoadGo load 255).2 with | .ok 0 => true | _ => false) = true ∧
    (match (groupLoadGo away 255).2 with | .error 1 => true | _ => false) = true ∧
    isSet (run_ [(.transportCollCmdBusy, 0, 1)]) .transportCollCmdBusy = true ∧ isSet load .transportCollCmdBusy = false ∧
    hbmEnd < rd (run_ [(.transportCollCmdAddr, 0, 2 ^ 40)]) .transportCollCmdAddr 0 * 64 + 64 ∧
    collOp (collD 3 []) ≠ 0 ∧ collOp (collD 0 []) = 0 ∧
    (∀ op ∈ [1, 2, 3], (collHead (collDev grp [] [collD op []] []) 63 op).isSome = true ∧ collDescBad (collD op []) = false) ∧
    collHead (collDev grp [] [collD 1 [(224, 32, 0)]] []) 63 1 = some (collD 1 [(224, 32, 0)]) ∧ collDescBad (collD 1 [(192, 28, 31)]) = true ∧
    find? (collDev grp [] [] []).coll.groups 255 = some grp ∧ find? (run_ []).coll.groups 255 = none ∧
    collShapeBad (collD 1 []) grp = false ∧ collShapeBad (collD 1 [(64, 64, 65600)]) grp = true ∧ ({ grp with part := 62 } : CollGroup).part ≠ 63 ∧
    (repeatReady (collDev grp [r] [] []) 255).isSome = true ∧
    (roundReady (collDev grp [{ r with active := true, written := [(0, 4096), (1, 4096)] }] [] []) 255).isSome = true ∧
    (r.rep + 1 < collRepeat (collD 1 [(225, 1, 1)]) ∧ collRepeat r.desc ≤ r.rep + 1) ∧
    (collRun? (collDev grp [{ r with active := true }] [] []) 255).isSome = true ∧
    (roundReady (collDev grp [{ r with active := true }] [] []) 255).isNone = true := by
  dsimp only
  repeat' apply And.intro
  all_goals decide +kernel

/-! Keys, partitions. -/

/-- The last slot, loaded with a TX key or empty, under each cause that refuses a command, and where each is done; slots that hold or erase a key,
an engine in service, a table entry of each table. -/
theorem test_witness_KeySlots :
    let k := 65535
    let ld : List (Fld × Nat × Nat) := [(.yewSlotState, k, 1), (.yewSlotKind, k, 1)]
    let rec_ := onMem (run_ ((.yewSlotKind, k, 1) :: hbm0)) fun m => { m with bytes := [(0x24, 1)] }
    let two : List (Fld × Nat × Nat) := [(.yewSlotState, k, 2)]
    takesDriver (run_ ld) ∧ (run_ ld).yew.keys = [] ∧ activeAtOnce (run_ ((.yewSlotUserQpn, k, 5) :: ld)) k = false ∧ rd (run_ ld) .yewSlotState k ≠ 0 ∧
    slotLoaded (run_ []) k 0 3 = false ∧ (dpaRead (run_ []) 0x2005 0 48).2.1 = some 0xC3 ∧ isSet (run_ [(.yewSlotCmdBusy, 0, 1)]) .yewSlotCmdBusy 0 = true ∧ isSet (run_ ld) .yewSlotCmdBusy 0 = false ∧
    isSet (run_ [(.yewStatusAlarm, 0, 1)]) .yewStatusAlarm 0 = true ∧ isSet (run_ two) .yewStatusAlarm 0 = false ∧ slotUsable (run_ two) k = false ∧
    isSet (run_ ld) .yewCfgClearSaveEn 0 = false ∧ sealedNow (run_ [(.yewSealStatusSealed, 0, 1)]) (rd (run_ ld) .yewSlotOwner k) = true ∧
    rd (run_ []) .yewSlotState k ≠ 1 ∧ rd (run_ [(.yewSlotState, k, 1)]) .yewSlotKind k = 0 ∧
    slotUsable rec_ k = true ∧ rd rec_ .yewSlotCmdAddr 0 * 64 + 48 ≤ hbmEnd ∧
    (dpaRead (keksDue (slotCmd rec_ k 1)) 0x2005 (rd rec_ .yewSlotCmdAddr 0 * 64) 48).2.1 = none ∧
    (recordOf (dpaRead (keksDue (slotCmd rec_ k 1)) 0x2005 (rd rec_ .yewSlotCmdAddr 0 * 64) 48).2.2).map (·.1) = some (rd rec_ .yewSlotKind k) ∧
    rd rec_ .yewSlotKind k ≠ 0 ∧ rd rec_ .yewSlotState k = 0 ∧ rd (run_ ld) .yewSlotState k = 1 ∧
    rd (run_ two) .yewSlotState k = 2 ∧ rd (run_ two) .yewSlotInflight k = 0 ∧ isSet (run_ [(.yewSlotPrev, k, 1)]) .yewSlotPrev k = true ∧
    { run_ ld with boot := { powered := true } }.boot.powered = true ∧ slotUsers (run_ ld) (slotsInUse (run_ ld)) = [] ∧
    engineIn (run_ [(.yewEngineOkHigh, 0, 2 ^ 63)]) 127 = true ∧ rd (run_ []) .yewEngineOkLow 0 < 2 ^ 64 ∧ rd (run_ []) .yewEngineOkHigh 0 < 2 ^ 64 ∧
    bitOf (2 ^ 22 - 1) 20 = true ∧ bitOf (2 ^ 22 - 1) 21 = true ∧ bitOf 0 20 = false ∧ bitOf (2 ^ 21) 21 = true := by
  dsimp only
  repeat' apply And.intro
  all_goals decide +kernel

/-- The last slot loaded with the zero key of a kind. -/
def loaded (kind : Nat) : Dev :=
  onYew (run_ [(.yewSlotState, 65535, 1), (.yewSlotKind, 65535, kind), (.yewCfgClearSaveEn, 0, 1)]) fun y =>
    { y with keys := [(65535, { active := some { key := 0, salt := 0 } })] }

/-- A wrapped load under a KEK in the last slot; a slot to save, clear and wrapped, and one that is empty. -/
theorem test_witness_KeySlots_wrapped :
    let up := { loaded 3 with regs := hbm0.foldl (fun r x => put r (fkey x.1 x.2.1) x.2.2) (loaded 3).regs }
    kekOf (slotCmdKek (loaded 3) 0 2 65535) 65535 = some 0 ∧ rd (loaded 3) .yewSlotCmdAddr 0 * 64 + 56 ≤ hbmEnd ∧ slotUsable (loaded 3) 0 = true ∧
    (dpaRead (keksDue (slotCmdKek up 0 2 65535)) 0x2005 0 56).2.1 = none ∧ kekOf (keksDue (slotCmdKek up 0 2 65535)) 65535 = some 0 ∧
    isSet (loaded 2) .yewCfgClearSaveEn 0 = true ∧ sealedNow (loaded 2) (rd (loaded 2) .yewSlotOwner 65535) = false ∧
    (saveCheck (keksDue (slotCmd (loaded 2) 65535 4)) 65535).2.isSome = true ∧
    (saveCheck (keksDue (slotCmd (loaded 2) 0 4)) 0).2.isNone = true ∧
    (saveCheck (keksDue (slotCmdKek (loaded 3) 65535 5 65535)) 65535).2.isSome = true ∧
    kekOf (saveCheck (keksDue (slotCmdKek (loaded 3) 65535 5 65535)) 65535).1 65535 = some 0 ∧
    kekOf (saveCheck (keksDue (slotCmdKek (loaded 3) 65535 5 0)) 65535).1 0 = none := by
  decide +kernel

/-- A report asked for while one is, one whose buffer does not translate, one that is taken and one that waits; a turn whose buffer is read and
written, waits, or has gone. -/
theorem test_witness_KeySlots_attest :
    let busy : List (Fld × Nat × Nat) := [(.pwinAttestCtrlBusy, 0, 1)]
    let wait := fun (d : Dev) => onXl d fun y => { y with invals := [{ id := 0, part := 0, whole := true, firstPage := 0, pages := 0, cmd := 0, waits := [], waited := 0 }] }
    let fails := fun (r : FRes) => match r with | .fail _ _ _ _ => true | _ => false
    let oks := fun (r : FRes) => match r with | .ok _ => true | _ => false
    let rfails := fun (r : ARes) => match r with | .xfail _ _ _ _ => true | _ => false
    let roks := fun (r : ARes) => match r with | .ok _ => true | _ => false
    isSet (run_ busy) .pwinAttestCtrlBusy 0 = true ∧ isSet (run_ []) .pwinAttestCtrlBusy 63 = false ∧
    fails (translate (wr (wr (run_ []) .pwinAttestCtrlErr 63 0) .pwinAttestCtrlBusy 63 1) device 63 (attestDva (run_ []) 63) 512 .write true).2 = true ∧
    oks (translate (wr (wr (paged []) .pwinAttestCtrlErr 0 0) .pwinAttestCtrlBusy 0 1) device 0 (attestDva (paged []) 0) 512 .write true).2 = true ∧
    (translate (wr (wr (wait (paged [])) .pwinAttestCtrlErr 0 0) .pwinAttestCtrlBusy 0 1) device 0 0 512 .write true).2 = .stall ∧
    inRun (paged busy) = true ∧ attestTurn (paged busy) = some 0 ∧ roks (dvaRead (paged busy) device 0 (attestDva (paged busy) 0 + 64) 48 true).2 = true ∧
    rfails (dvaRead (run_ busy) device 0 (attestDva (run_ busy) 0 + 64) 48 true).2 = true ∧
    (dvaRead (wait (paged busy)) device 0 64 48 true).2 = .wait ∧
    roks (dvaWrite (fresh (paged busy)).2 device 0 0 (List.replicate 352 0) true .other).2 = true := by
  dsimp only
  repeat' apply And.intro
  all_goals decide +kernel

/-- A partition that meets every condition of R439: it owns no tile, one Hedge die, one sub-port and one engine. -/
def sealable (p : Nat) (rs : List (Fld × Nat × Nat)) : Dev :=
  run_ ([(.memoryHbmCfgInterleave, 0, 1), (.partSealCfgHedge, p, 1), (.partSubports, p, 1), (.yewEngineOwnerReserved, 0, 1),
    (.yewEngineOwnerPartition, 0, p), (.partSealCfgShare, p, 48), (.partSealCfgResShare, p, 48), (.powerSealFloor, p, 64)] ++ rs)

/-- The tiles of row 0 for a partition. -/
def row0 (p : Nat) : List (Fld × Nat × Nat) := (List.range 48).flatMap fun c => [(.tileOwnerPartition, c, p), (.tileOwnerAssigned, c, 1)]

/-- A tile that is to be had and one for each reason it is not; a seal that an assignment and a release would break; a release under way with
work that has not started, and drained. -/
theorem test_witness_TileOwnership :
    let mine : List (Fld × Nat × Nat) := [(.tileOwnerPartition, 1151, 63), (.tileOwnerAssigned, 1151, 1)]
    let rel := mine ++ [(.tileOwnerReleasing, 1151, 1), (.tileCmdBusy, 0, 1), (.tileCmdTile, 0, 1151)]
    let w := { item 1 .matrix .placed [] with tile := 1151 }
    let sd := sealable 1 [(.yewSealStatusSealed, 1, 1)]
    takesDriver (run_ []) ∧ isSet (run_ []) .tileCmdBusy 0 = false ∧ isSet (run_ mine) .tileOwnerAssigned 1151 = true ∧
    isSet (run_ rel) .tileOwnerReleasing 1151 = true ∧ tileFailedBit (run_ [(.safetyTileFailed, 17, 2 ^ 63)]) 1151 = true ∧
    isSet (run_ []) .tileOwnerAssigned 1151 = false ∧ tileFailedBit (run_ []) 1151 = false ∧
    breaksSeal (tileCmd sd 0 1 1) (wake (setOwner (tileCmd sd 0 1 1) 0 1 1 0) (.tile 0)) = true ∧
    breaksSeal (tileCmd (run_ []) 0 1 1) (wake (setOwner (tileCmd (run_ []) 0 1 1) 0 1 1 0) (.tile 0)) = false ∧
    tileOwner (run_ []) 1151 ≠ some 63 ∧ tileOwner (run_ mine) 1151 = some 63 ∧
    breaksSeal (tileCmd (run_ mine) 1151 63 2) (setOwner (tileCmd (run_ mine) 1151 63 2) 1151 0 0 0) = false ∧
    isSet (run_ rel) .tileCmdBusy 0 = true ∧ releasing (run_ rel) 1151 = true ∧ unstartedOn (withItems [w] rel) 1151 ≠ [] ∧
    tileItems (run_ rel) 1151 = [] ∧ (run_ rel).att.homes = [] ∧ journalOf (run_ rel) 1151 = {} ∧ rd (run_ rel) .tileCmdTile 0 = 1151 := by
  dsimp only
  repeat' apply And.intro
  all_goals decide +kernel

/-- An entry of a field that nothing was written to reads its reset value. -/
theorem rd_at_index (f : Fld) (i : Nat) (l : List (Fld × Nat × Nat)) (h : ∀ x ∈ l, x.1 ∉ votedWith f ∨ i ≠ x.2.1) :
    rd (at_ l) f i = f.info.reset := by
  have : ∀ (l : List (Fld × Nat × Nat)) (d : Dev), (∀ x ∈ l, x.1 ∉ votedWith f ∨ i ≠ x.2.1) →
      rd (l.foldl (fun d x => wr d x.1 x.2.1 x.2.2) d) f i = rd d f i := by
    intro l
    induction l with
    | nil => intro d _; rfl
    | cons x t ih =>
      intro d hx
      rw [List.foldl_cons, ih _ (fun y hy => hx y (.tail _ hy)), rd_wr_other _ _ (hx x (.head _))]
  rw [at_, this l {} h]
  cases f <;> rfl

/-- A partition that owns row 0 and is sealed, and what its command to release tile 0 would leave. -/
def sealedRow : Dev := tileCmd (sealable 1 ((.yewSealStatusSealed, 1, 1) :: row0 1)) 0 1 2

theorem test_witness_TileOwnership_release :
    tileOwner sealedRow 0 = some 1 ∧ breaksSeal sealedRow (setOwner sealedRow 0 0 0 0) = true := by
  have hn : ∀ t, 48 ≤ t → tileOwner sealedRow t = none := by
    intro t ht
    have h : rd sealedRow .tileOwnerAssigned t = 0 := by
      have : rd sealedRow .tileOwnerAssigned t = rd (sealable 1 ((.yewSealStatusSealed, 1, 1) :: row0 1)) .tileOwnerAssigned t := by
        unfold sealedRow tileCmd
        rw [rd_wr_other _ _ (.inl (by decide)), rd_wr_other _ _ (.inl (by decide)), rd_wr_other _ _ (.inl (by decide))]
      rw [this]
      refine rd_at_index .tileOwnerAssigned t _ fun x hx => ?_
      have hb : x.1 ∉ votedWith .tileOwnerAssigned ∨ x.2.1 < 48 := by revert x; decide +kernel
      rcases hb with hb | hb
      · exact .inl hb
      · exact .inr (by omega)
    simp [tileOwner, isSet, h]
  have hw : wholeRows sealedRow 1 = true := by
    refine List.all_eq_true.2 fun r hr => ?_
    obtain ⟨_, hr⟩ := List.mem_filter.1 hr
    obtain ⟨c, _, hc⟩ := List.any_eq_true.1 hr
    have : r = 0 := by
      by_contra h0
      rw [hn (tileAt r c) (by unfold tileAt; omega)] at hc
      cases hc
    subst this
    decide +kernel
  have hw' : wholeRows (setOwner sealedRow 0 0 0 0) 1 = false := by decide +kernel
  refine ⟨by decide +kernel, List.any_eq_true.2 ⟨1, List.mem_filter.2 ⟨by decide, by decide +kernel⟩, ?_⟩⟩
  simp [sealConds, hw, hw']

/-- Each command in a state that allows it and in one that does not; an image with room and without; work that has not started, a partition at
rest; a RESTORE of an unsound image; a seal that is granted, one that is not. -/
theorem test_witness_FreezeSaveSeal :
    let s := fun (x : Nat) => run_ [(.partStatusState, 63, x)]
    let busy := run_ [(.partStatusBusy, 63, 1)]
    let rest := { busy with parts := { restoring := [63] } }
    takesDriver (s 0) ∧ isSet busy .partStatusBusy 63 = true ∧ isSet (s 0) .partStatusBusy 63 = false ∧
    rd (s 0) .partStatusState 63 = 0 ∧ rd (s 1) .partStatusState 63 = 1 ∧ rd (s 2) .partStatusState 63 = 2 ∧
    imageBase (s 2) 63 + imageLength (tilesOf (s 2) 63).length ≤ hbmEnd ∧
    notStarted (withItems [{ item 1 .matrix .placed [] with part := 63 }] [(.partStatusState, 63, 1)]) 63 ≠ [] ∧
    atRest (s 1) 63 = true ∧ qpsOf (s 1) 63 = [] ∧ tilesOf (s 1) 63 = [] ∧
    busy.parts.restoring.contains 63 = false ∧ rest.parts.restoring.contains 63 = true ∧ imageSound rest 63 = false ∧
    false ∈ sealConds (run_ []) 63 := by
  dsimp only
  repeat' apply And.intro
  all_goals decide +kernel

/-- A queue that no register names is partition 0's. -/
theorem test_witness_FreezeSaveSeal_seal : false ∉ sealConds (sealable 63 []) 63 := by
  have hr : ∀ f i, f ∈ [Fld.ringCfgPartition, .cqPartition, .eqPartition] → (63 = rd (sealable 63 []) f i) = False := by
    intro f i hf
    have : rd (sealable 63 []) f i = f.info.reset := by
      refine rd_at_other f i _ fun x hx => ?_
      rcases hf with _ | ⟨_, _ | ⟨_, _ | ⟨_, hf⟩⟩⟩
      · revert x; decide +kernel
      · revert x; decide +kernel
      · revert x; decide +kernel
      · cases hf
    rw [this]
    rcases hf with _ | ⟨_, _ | ⟨_, _ | ⟨_, hf⟩⟩⟩
    · decide +kernel
    · decide +kernel
    · decide +kernel
    · cases hf
  have h1 : ∀ r, ringOwned (sealable 63 []) 63 r = false := fun r => by
    simp [ringOwned, eq_comm (b := 63), hr _ r (List.mem_cons_self ..)]
  have h2 : ∀ c, cqOwned (sealable 63 []) 63 c = false := fun c => by
    simp [cqOwned, eq_comm (b := 63), hr .cqPartition c (by decide)]
  have h3 : ∀ e, eqOwned (sealable 63 []) 63 e = false := fun e => by
    simp [eqOwned, eq_comm (b := 63), hr .eqPartition e (by decide)]
  have ho : ownStructures (sealable 63 []) 63 = true := by
    have a : isSet (sealable 63 []) .xlatePtBaseEn 63 = false := by decide +kernel
    have b : isSet (sealable 63 []) .meshNodeMapEn 63 = false := by decide +kernel
    have c : qpsOf (sealable 63 []) 63 = [] := by decide +kernel
    simp [ownStructures, a, b, c, h1, h2, h3]
  unfold sealConds
  rw [ho]
  decide +kernel

/-- The header of a saved image of a partition without tiles, before and with its digest. -/
def head0 : List Byte := toBytes 24 1 ++ toBytes 8 0x10000
def header0 (dig : Nat) : List Byte := head0 ++ (toBytes 48 dig ++ List.replicate 176 0)

/-- A device that restores partition 63 from such an image. -/
def image0 (dig : Nat) (rs : List (Fld × Nat × Nat)) : Dev := setBytes (run_ ((.partStatusBusy, 63, 1) :: rs)) 0 (header0 dig)

theorem length_header0 (x : Nat) : (header0 x).length = 256 := by
  simp only [header0, head0, List.length_append, length_toBytes, List.length_replicate]

theorem cut_header0 (k n x : Nat) (h : k + n ≤ 256) :
    cut (fromBytes (header0 x)) (8 * k) (8 * n) = fromBytes (((header0 x).drop k).take n) :=
  cut_fromBytes k n _ (by rw [length_header0]; exact h)

theorem cut_head0 (k n x : Nat) (h : k + n ≤ 32) : cut (fromBytes (header0 x)) (8 * k) (8 * n) = fromBytes ((head0.drop k).take n) := by
  have l : head0.length = 32 := by simp only [head0, List.length_append, length_toBytes]
  rw [cut_header0 k n x (by omega), header0, List.drop_append_of_le_length (by omega), List.take_append_of_le_length (by rw [List.length_drop]; omega)]

theorem header0_fields (x : Nat) :
    cut (fromBytes (header0 x)) 0x40 32 = 0 ∧ cut (fromBytes (header0 x)) 0 32 = 1 ∧ cut (fromBytes (header0 x)) 0xC0 64 = 0x10000 ∧
    cut (fromBytes (header0 x)) 0x60 32 = 0 ∧ cut (fromBytes (header0 x)) 0x80 32 = 0 ∧ cut (fromBytes (header0 x)) 0xA0 32 = 0 :=
  ⟨(cut_head0 8 4 x (by decide)).trans (by decide +kernel), (cut_head0 0 4 x (by decide)).trans (by decide +kernel),
   (cut_head0 24 8 x (by decide)).trans (by decide +kernel), (cut_head0 12 4 x (by decide)).trans (by decide +kernel),
   (cut_head0 16 4 x (by decide)).trans (by decide +kernel), (cut_head0 20 4 x (by decide)).trans (by decide +kernel)⟩

theorem header0_digest (x : Nat) (h : x < 2 ^ 384) : cut (fromBytes (header0 x)) 0x100 384 = x := by
  have l : head0.length = 32 := by simp only [head0, List.length_append, length_toBytes]
  have e : ((header0 x).drop 32).take 48 = toBytes 48 x := by
    rw [header0, ← l, List.drop_left', List.take_left']
    · rw [length_toBytes]
    · rfl
  have c := cut_header0 32 48 x (by decide)
  rw [e, fromBytes_toBytes, Nat.mod_eq_of_lt h] at c
  exact c

theorem getBytes_setBytes_past (d : Dev) (a x n : Nat) (bs : List Byte) (h : a + bs.length ≤ x) : getBytes (setBytes d a bs) x n = getBytes d x n :=
  readSparse_writeSparse_past _ _ _ _ _ h

theorem tilesOf_setBytes (d : Dev) (a p : Nat) (bs : List Byte) : tilesOf (setBytes d a bs) p = tilesOf d p := rfl

theorem rd_setBytes (d : Dev) (a : Nat) (bs : List Byte) (f : Fld) (i : Nat) : rd (setBytes d a bs) f i = rd d f i := rfl

theorem image0_read (x n : Nat) (rs : List (Fld × Nat × Nat)) :
    getBytes (image0 x rs) 0 256 = header0 x ∧ getBytes (image0 x rs) 0x100 n = getBytes (run_ ((.partStatusBusy, 63, 1) :: rs)) 0x100 n := by
  refine ⟨?_, getBytes_setBytes_past _ _ _ _ _ (by rw [length_header0])⟩
  have := getBytes_setBytes (run_ ((.partStatusBusy, 63, 1) :: rs)) 0 (header0 x)
  rwa [length_header0] at this

/-- What the image holds after its header. -/
def rest0 : List Byte := getBytes (run_ [(.partStatusBusy, 63, 1)]) 0x100 (imageLength 0 - 0x100)

theorem image0_base (x : Nat) (rs : List (Fld × Nat × Nat)) (h : ∀ y ∈ rs, y.1 ∉ votedWith .partCmdAddr) : imageBase (image0 x rs) 63 = 0 := by
  have : rd (image0 x rs) .partCmdAddr 63 = 0 := by
    rw [image0, rd_setBytes]
    exact rd_at_other .partCmdAddr 63 ((.bootStatusStage, 0, 8) :: (.partStatusBusy, 63, 1) :: rs) (by
      intro y hy
      rcases List.mem_cons.1 hy with rfl | hy
      · decide
      rcases List.mem_cons.1 hy with rfl | hy
      · decide
      exact h y hy)
  simp only [imageBase, this, Nat.zero_mul]

/-- A sound image. -/
theorem test_witness_FreezeSaveSeal_image : imageSound (image0 (sha384 rest0) []) 63 = true := by
  generalize hx : sha384 rest0 = x
  obtain ⟨h1, h2, h3, h4, h5, h6⟩ := header0_fields x
  obtain ⟨r1, r2⟩ := image0_read x (imageLength 0 - 0x100) []
  unfold imageSound
  dsimp only
  rw [image0_base x [] (by decide), r1, h1, Nat.zero_add, Nat.zero_add, r2, show sha384 (getBytes (run_ [(.partStatusBusy, 63, 1)]) 0x100 (imageLength 0 - 0x100)) = x from hx,
    header0_digest x (hx ▸ sha384_lt _), h2, h3, h4, h5, h6, beq_self_eq_true x, Bool.and_true]
  show (decide (256 ≤ hbmEnd) && 1 == 1 && 65536 == imageLength 0 && decide (imageLength 0 ≤ hbmEnd) && decide (0 ≤ 64 ∧ 0 ≤ 1024 ∧ 0 ≤ 256)) = true
  decide

/-- It fits a partition without tiles, and not one with a tile. -/
theorem test_witness_FreezeSaveSeal_fits (x : Nat) :
    imageFits (image0 x []) 63 = true ∧ imageFits (image0 x [(.tileOwnerPartition, 0, 63), (.tileOwnerAssigned, 0, 1)]) 63 = false := by
  obtain ⟨h1, _, _, h4, h5, h6⟩ := header0_fields x
  have a : tilesOf (image0 x []) 63 = [] := by
    rw [image0, tilesOf_setBytes]
    decide +kernel
  have b : (tilesOf (image0 x [(.tileOwnerPartition, 0, 63), (.tileOwnerAssigned, 0, 1)]) 63).isEmpty = false := by
    rw [image0, tilesOf_setBytes]
    decide +kernel
  constructor
  · unfold imageFits
    simp only [image0_base x [] (by decide), (image0_read x 0 []).1, h1, h4, h5, h6, a, recordsAt, List.range_zero, List.map_nil, List.all_nil,
      Bool.and_true, beq_self_eq_true]
  · unfold imageFits
    simp only [image0_base x [(.tileOwnerPartition, 0, 63), (.tileOwnerAssigned, 0, 1)] (by decide), (image0_read x 0 _).1, h1, h4, h5, h6, recordsAt,
      List.range_zero, List.map_nil, List.all_nil, Bool.and_true]
    cases h : tilesOf (image0 x [(.tileOwnerPartition, 0, 63), (.tileOwnerAssigned, 0, 1)]) 63 with
    | nil => rw [h] at b; cases b
    | cons y t => rfl

/-! ### Start-up -/

/-- The public key of private key 7, its digest, and its signature over the image's first 384 bytes. -/
def pub7 : Nat := 0x8741db24782054fca50dd92d97a93ced727c6554ae1ef585ef68d5ca7db1175cc9f3365a510bbe333de41992afd2307a81f1bc0273dc760c16aae8914e05ae4482757f2f52be47ffe5c15689bc817774644af0dd813039f73bbfdcef55f96064
def dig7 : Nat := 0xbe560ae471ad77c03fd396ee383a3dba179f1f2e361e5dea91972d83b7236c476d008811ae1ddf8d53d85f5cef5d2631
def sig7 : Nat := 0xb48c25d15579a29f5c36d359cf52cf414471f8834b6e0063bd8563b7f3d8f4093b7053cb9ee5e24c70281ad168e164467f493cbb49f65cdd9aa417292407be765230af5984859002a7ed48fc899c729c4cfbd5a33258e2883cd058f4664cbe4e

/-- An image that END alone follows: NODE_ID 5, both flags, the new owner `pub7`, signed by the vendor `pub7`. -/
def bytes7 : List Byte := toBytes 4 0x4E4F4C42 ++ toBytes 2 1 ++ toBytes 1 3 ++ toBytes 1 0xA0 ++ toBytes 4 528 ++ toBytes 1 0 ++ toBytes 1 3 ++
  toBytes 2 5 ++ toBytes 16 0 ++ toBytes 96 0 ++ toBytes 96 pub7 ++ toBytes 32 0 ++ toBytes 16 15 ++
  (toBytes 16 1 ++ toBytes 96 pub7 ++ toBytes 96 sig7 ++ toBytes 48 0)

/-- Flash contents that begin with a sequence at an address. -/
def flashOf : List Byte → Nat → KMap Byte
  | [], _ => []
  | b :: t, a => if b = 0xFF then flashOf t (a + 1) else (a, b) :: flashOf t (a + 1)

def perm7 : Perm := { vendorDigest := dig7 }

/-- A powered device at a stage row, with flash contents. -/
def boot_ (due : Nat) (fl : KMap Byte) (rs : List (Fld × Nat × Nat)) (g : BootSt → BootSt := id) : Dev :=
  onBoot (at_ rs) fun b => g { b with powered := true, due := due, flash := fl }


/-- The powered device at VERIFY with that image. -/
def imaged : Dev := boot_ 2 (flashOf bytes7 0) []

theorem find?_flashOf (l : List Byte) (a k : Nat) (h : k < a) : find? (flashOf l a) k = none := by
  induction l generalizing a with
  | nil => rfl
  | cons b t ih =>
    rw [flashOf]
    split
    · exact ih (a + 1) (by omega)
    · rw [find?, if_neg (by omega)]
      exact ih (a + 1) (by omega)

theorem getD_flashOf (l : List Byte) (a i : Nat) : getD (flashOf l a) (a + i) 0xFF = l.getD i 0xFF := by
  induction l generalizing a i with
  | nil => rfl
  | cons b t ih =>
    cases i with
    | zero =>
      rw [flashOf]
      split
      · rename_i h
        rw [getD, find?_flashOf _ _ _ (by omega), h]
        rfl
      · rw [getD, find?, if_pos (by omega)]
        rfl
    | succ i =>
      have := ih (a + 1) i
      rw [show a + (i + 1) = a + 1 + i by omega, flashOf]
      split
      · exact this
      · rw [getD, find?, if_neg (by omega)]
        exact this

theorem flashBytes_imaged (a n : Nat) (h : a + n ≤ 528) : flashBytes imaged a n = (bytes7.drop a).take n := by
  have l : bytes7.length = 528 := by simp only [bytes7, List.length_append, length_toBytes]
  apply List.ext_getElem
  · simp only [flashBytes, List.length_map, List.length_range, List.length_take, List.length_drop]
    omega
  · intro i hi hj
    simp only [flashBytes, List.length_map, List.length_range] at hi
    have := getD_flashOf bytes7 0 (a + i)
    rw [Nat.zero_add] at this
    simp only [flashBytes, List.getElem_map, List.getElem_range, List.getElem_take, List.getElem_drop]
    exact this.trans (List.getD_eq_getElem _ _ (by omega))

theorem trailer_imaged : trailer imaged = 272 := by decide +kernel

theorem image_parts : headerOk imaged = true ∧ lengthOk imaged = true ∧ ((records imaged).getD []).all (recordOk imaged) = true := by decide +kernel

theorem image_signed : signerOk perm7 imaged = true ∧ signatureOk imaged = true := by
  unfold signerOk signatureOk flashNum
  rw [trailer_imaged, flashBytes_imaged _ _ (by decide), flashBytes_imaged _ _ (by decide), flashBytes_imaged _ _ (by decide),
    flashBytes_imaged _ _ (by decide)]
  decide +kernel

theorem image_measure : Machine.measure imaged = 0x75b9117e3ffd0f798a32b3bf36e316a789df161909d255d1ac90ae3aa096654b9d4f56d8b4910cc5b501aec529924bb := by
  unfold Machine.measure
  rw [show imgLength imaged = 528 by decide +kernel, flashBytes_imaged _ _ (by decide)]
  decide +kernel

/-- What VERIFY finds in the image. -/
theorem image_cause (pm : Perm) (h : signerOk pm imaged = true) :
    verifyCause pm imaged true = if imgSvn imaged < pm.svnMin then 0xF3 else if bitOf (flashNum imaged 6 1) pm.variant = false then 0xF4
      else if (unusedOwner pm).isNone then 0xF6 else 0 := by
  obtain ⟨a, b, c⟩ := image_parts
  have e : (flashNum imaged 7 1 != 0xA0) = false := by decide +kernel
  have f : imgFlag imaged 0 = true := by decide +kernel
  simp [verifyCause, a, b, c, h, image_signed.2, e, f]

/-- Fuses of a chip on which the image is too old, and of one with an owner of another key. -/
def permNew : Perm := { perm7 with svnMin := 1 }
def permOwned : Perm := { perm7 with owners := [{ digest := 1, valid := true, used := true }, {}, {}, {}] }

theorem image_causes : verifyCause perm7 imaged true = 0 ∧ verifyCause permNew imaged true = 0xF3 ∧ signerOk permOwned imaged = false := by
  have s : signerOk permNew imaged = true := by decide +kernel
  rw [image_cause _ image_signed.1, image_cause _ s]
  decide +kernel

theorem trailer_same (d e : Dev) (hn : flashNum d = flashNum e) : trailer d = trailer e := by
  unfold trailer imgLength
  rw [hn]

theorem stream_same (d e : Dev) (hn : flashNum d = flashNum e) (hr : recordAt d = recordAt e) (n a : Nat) : stream d n a = stream e n a := by
  induction n generalizing a with
  | zero =>
    unfold stream
    with_reducible rfl
  | succ n ih =>
    have hs : stream d n = stream e n := funext ih
    unfold stream
    rw [hr, trailer_same d e hn, hs]

theorem recordOk_same (d e : Dev) (hb : flashBytes d = flashBytes e) (hn : flashNum d = flashNum e) (r : ImgRecord) : recordOk d r = recordOk e r := by
  unfold recordOk
  rw [hb, trailer_same d e hn]

/-- VERIFY depends on the flash contents only. -/
theorem cause_flash (pm : Perm) (d e : Dev) (h : d.boot.flash = e.boot.flash) : verifyCause pm d true = verifyCause pm e true := by
  have hb : flashBytes d = flashBytes e := by
    funext a n
    unfold flashBytes flashByte
    rw [h]
  have hn : flashNum d = flashNum e := by
    funext a n
    unfold flashNum
    rw [hb]
  have hr : recordAt d = recordAt e := by
    funext a
    unfold recordAt
    rw [hn]
  have hs : stream d = stream e := funext fun n => funext fun a => stream_same d e hn hr n a
  have ho : recordOk d = recordOk e := funext fun r => recordOk_same d e hb hn r
  unfold verifyCause headerOk lengthOk signerOk signatureOk imgSvn imgFlag records imgLength
  rw [trailer_same d e hn, hb, hn, hs, ho]

/-- Power, fuses, and what VERIFY meets: no image, one that passes at a cold start, and at a warm one with the layout the device has and with another. -/
theorem test_witness_StartUp : State.reset.dev.boot.powered = false ∧ (boot_ 0 [] []).boot.powered = true ∧
    (boot_ 0 [] []).boot.flashCmd = none ∧ (boot_ 0 [] []).boot.fuse = none ∧
    (boot_ 3 [] [] fun b => { b with fuse := some { svn := some 3 } }).boot.fuse.isSome = true ∧ stageDue (boot_ 1 [] []) 1 = true ∧
    stageDue imaged 2 = true ∧ imaged.boot.warm = false ∧ verifyCause {} (boot_ 2 [] []) true ≠ 0 := by
  decide +kernel

theorem test_witness_StartUp_warm :
    let d := boot_ 2 (flashOf bytes7 0) [(.meshNodeId, 0, 5)] fun b => { b with warm := true }
    let d' := boot_ 2 (flashOf bytes7 0) [(.meshNodeId, 0, 6)] fun b => { b with warm := true }
    verifyCause perm7 d true = 0 ∧ verifyCause perm7 d' true = 0 ∧ d.boot.warm = true ∧ stageDue d 2 = true ∧
    imgInterleave d = rd d .memoryHbmCfgInterleave 0 ∧ imgNode d = rd d .meshNodeId 0 ∧ imgNode d' ≠ rd d' .meshNodeId 0 := by
  intro d d'
  have a : verifyCause perm7 d true = 0 := by rw [cause_flash perm7 d imaged rfl, image_causes.1]
  have b : verifyCause perm7 d' true = 0 := by rw [cause_flash perm7 d' imaged rfl, image_causes.1]
  refine ⟨a, b, ?_⟩
  clear a b
  revert d d'
  decide +kernel

/-- The order of the checks: no header, a header without a length, an unknown signer, a bad signature, an old image. -/
theorem test_witness_StartUp_causes :
    headerOk (boot_ 2 [] []) = false ∧ (headerOk imaged = true ∧ lengthOk imaged = true ∧ signerOk permOwned imaged = false) ∧
    (signerOk perm7 imaged = true ∧ signatureOk imaged = true ∧ imgSvn imaged < permNew.svnMin) := by
  exact ⟨by decide +kernel, ⟨image_parts.1, image_parts.2.1, image_causes.2.2⟩, image_signed.1, image_signed.2, by decide +kernel⟩

theorem test_witness_StartUp_length :
    let d := boot_ 2 (flashOf (bytes7.take 256) 0) []
    let e := boot_ 2 (flashOf (bytes7.take 256 ++ toBytes 16 15 ++ toBytes 256 0) 0) []
    headerOk d = true ∧ lengthOk d = false ∧ headerOk e = true ∧ lengthOk e = true ∧ signerOk perm7 e = false := by
  decide +kernel

/-- RAILS of a start-up with and without fuse changes; in holdback; before a cold reset that waits, and that a trip then holds. -/
theorem test_witness_StartUp_rails :
    let d := boot_ 3 [] []
    let e := boot_ 3 [] [] fun b => { b with fuse := some { svn := some 3 } }
    let c := fun rs => boot_ 3 [] rs fun b => { b with fuse := some { svn := some 3 }, coldAfter := some 1 }
    let hot : List (Fld × Nat × Nat) := [(.bootStatusStage, 0, 15), (.bootStatusCause, 0, 0xA7), (.powerSensorTemp, 152, 1600), (.powerSensorValid, 152, 1)]
    stageDue d 3 = true ∧ d.boot.coldAfter = none ∧ d.boot.fuse = none ∧ rd d .bootStatusStage 0 ≠ 15 ∧ stageDue e 3 = true ∧ e.boot.fuse ≠ none ∧
    (boot_ 3 [] [(.bootStatusStage, 0, 15)] fun b => { b with fuse := some { svn := some 3 } }).boot.coldAfter = none ∧
    rd (boot_ 3 [] [(.bootStatusStage, 0, 15)]) .bootStatusStage 0 = 15 ∧
    (c []).boot.coldAfter = some 1 ∧ (c []).boot.powered = true ∧ (c []).boot.fuse ≠ none ∧ tripHeld (c []) = false ∧ tripHeld (c hot) = true := by
  decide +kernel

theorem test_witness_StartUp_dies : stageDue (boot_ 4 [] []) 4 = true ∧ (boot_ 4 [] []).boot.warm = false ∧ tileFailedBit (boot_ 4 [] []) 1151 = false ∧
    spareFree (boot_ 4 [] []) 1151 = true ∧ spareFree (boot_ 4 [] [(.spareMapUse, spareOf 1151, 1)]) 1151 = false ∧
    stageDue (boot_ 4 [] [] fun b => { b with warm := true }) 4 = true ∧ (boot_ 4 [] [] fun b => { b with warm := true }).boot.warm = true ∧
    (∀ x ∈ [0, 8], (Instr.dies { failedDie := some x, badTiles := [] }).wellFormed = true) := by
  decide +kernel

/-- CONFIG finds another image, and the same. -/
theorem test_witness_StartUp_config :
    let d := boot_ 5 (flashOf bytes7 0) ((List.range 6).map fun i => (.bootImageDigest, i, cut (Machine.measure imaged) (64 * i) 64))
    stageDue (boot_ 5 (flashOf bytes7 0) []) 5 = true ∧ sameImage (boot_ 5 (flashOf bytes7 0) []) = false ∧ stageDue d 5 = true ∧ sameImage d = true := by
  have m (rs : List (Fld × Nat × Nat)) : Machine.measure (boot_ 5 (flashOf bytes7 0) rs) = Machine.measure imaged := rfl
  unfold sameImage
  simp only [m, image_measure]
  decide +kernel

/-- Channels without modules, refused and accepted. -/
def good5 : Dimm := { gib := 64, ecc := true, width := 4, ranks := 1, speed := 6400 }
def pairs5 : List DimmPair := [{ channel := 0, a := some good5, b := none }, { channel := 7, a := some good5, b := some { good5 with gib := 16 } }]

theorem test_witness_StartUp_bringup : stageDue (boot_ 6 [] []) 6 = true ∧ (boot_ 6 [] []).boot.warm = false ∧ dimmsOf pairs5 1 = [] ∧
    dimmsOf pairs5 0 ≠ [] ∧ dimmsRefused (dimmsOf pairs5 0) = false ∧ dimmsOf pairs5 7 ≠ [] ∧ dimmsRefused (dimmsOf pairs5 7) = true := by
  decide +kernel

def stackUnits : List BringUnit := (List.range 12).map .hbm

theorem test_witness_StartUp_parts :
    let d := boot_ 8 [] [(.memoryDdrStatState, 7, 1)]
    let e := boot_ 8 [] [] fun b => { b with done := stackUnits }
    partRuns d (.hbm 11) = true ∧ partRuns d (.ddr 7) = true ∧ partRuns d .optics = true ∧ partRuns e .preload = true ∧
    bringupOver (boot_ 8 [] [(.memoryDdrStatState, 7, 1)] fun b => { b with done := .optics :: .preload :: .ddr 7 :: stackUnits }) = true := by
  decide +kernel

/-- The preload that ends well reads the image it measured. -/
theorem test_witness_StartUp_preload :
    let d := boot_ 8 (flashOf bytes7 0) ((List.range 6).map fun i => (.bootImageDigest, i, cut (Machine.measure imaged) (64 * i) 64)) fun b =>
      { b with done := stackUnits, recAt := 256 }
    let e := boot_ 8 (flashOf bytes7 0) [] fun b => { b with done := stackUnits, recAt := 256 }
    partRuns d .preload = true ∧ sameImage d = true ∧ partRuns e .preload = true ∧ sameImage e = false := by
  have m (rs : List (Fld × Nat × Nat)) :
      Machine.measure (boot_ 8 (flashOf bytes7 0) rs fun b => { b with done := stackUnits, recAt := 256 }) = Machine.measure imaged := rfl
  unfold sameImage
  simp only [m, image_measure]
  decide +kernel

/-! ### Records of the image -/

/-- A device that applies the record of kind `k`, flags `f`, argument and value. -/
def rec_ (k f a v : Nat) (rs : List (Fld × Nat × Nat)) (g : BootSt → BootSt := id) : Dev :=
  boot_ 7 (flashOf (toBytes 16 (packFields [(0, 8, k), (8, 8, f), (32, 32, a), (64, 64, v)])) 0) rs g

theorem test_witness_ImageRecords :
    let d := rec_ 1 0 0x2800000 1 []
    let f := rec_ 15 0 0 0 [(.tileCmdResult, 0, 0xE9)] fun b => { b with waiting := some (.tileCmdGo, 0) }
    let w := rec_ 2 0 0x29 0x100 [] fun b => { b with warm := true }
    let x := rec_ 2 0 0x29 0x100 []
    (∃ r, recordDue d 1 = some r ∧ stallsNow d r.arg 8 = false ∧ waitFailed d = false ∧ applies d r = true ∧ r.arg = 0x2800000 ∧ r.value % 4 ≤ 1) ∧
    (recordDue f 15).isSome = true ∧ waitFailed f = true ∧
    (∃ r, recordDue w 2 = some r ∧ waitFailed w = false ∧ applies w r = false) ∧
    (∃ r, recordDue x 2 = some r ∧ applies x r = true ∧ cut r.arg 0 4 ≤ 9) := by
  dsimp only
  refine ⟨⟨_, rfl, by decide +kernel⟩, by decide +kernel, by decide +kernel, ⟨_, rfl, by decide +kernel⟩, ⟨_, rfl, by decide +kernel⟩⟩

/-- A doorbell that is discarded, a write the record's register takes, an INTERLEAVE it may not have; and END with a shadow and without one. -/
theorem test_witness_ImageRecords_refused :
    let w := fun (a v : Nat) => ({ src := .sequencer, part := actsFor .sequencer a, off := a, width := 8, val := v } : RegWrite)
    let d := rec_ 1 0 0x3800000 (2 ^ 63) []
    let x := nativeWrite (onBoot d fun b => { b with waiting := none }) (w 0x3800000 (2 ^ 63))
    let g := rec_ 1 0 0x800008 5 []
    let y := nativeWrite (onBoot g fun b => { b with waiting := none }) (w 0x800008 5)
    let sh := { rec_ 15 0 0 0 [] with shadow := [(fkey .mgmtAlertMask 0, 9)] }
    (recordDue d 1).isSome = true ∧ stallsNow d 0x3800000 8 = false ∧ stageDue x.1 7 = true ∧ (x.2 != .applied) = true ∧
    (recordDue g 1).isSome = true ∧ stallsNow g 0x800008 8 = false ∧ stageDue y.1 7 = true ∧ (y.2 == .applied) = true ∧
    (wordFields 0x800008).any (refusedBy y.1 (w 0x800008 5)) = false ∧ startsCommand (w 0x800008 5) = none ∧
    (recordDue (rec_ 1 0 0x2800000 2 []) 1).any (fun r => applies (rec_ 1 0 0x2800000 2 []) r && decide (1 < r.value % 4)) = true ∧
    (recordDue (rec_ 15 0 0 0 []) 15).isSome = true ∧ waitFailed (rec_ 15 0 0 0 []) = false ∧ find? sh.shadow (fkey .mgmtAlertMask 0) = some 9 ∧
    (recordDue sh 15).isSome = true ∧ (recordDue (rec_ 15 0 0 0 [] fun b => { b with warm := true }) 15).isSome = true := by
  dsimp only
  repeat' apply And.intro
  all_goals decide +kernel

theorem test_witness_ImageRecords_blob :
    let d := boot_ 8 (flashOf (toBytes 16 (packFields [(0, 8, 3), (32, 32, 16), (64, 64, 64)])) 0) [] fun b => { b with done := stackUnits }
    (blobDue d).isSome = true := by
  decide +kernel

/-! ### Flash and resets -/

def flash_ (op : Nat) (rs : List (Fld × Nat × Nat)) : Dev :=
  boot_ 0 [] rs fun b => { b with flashCmd := some { op := op, addr := 0, data := List.replicate 32 0 } }

theorem test_witness_FlashAndResets :
    isSet (boot_ 0 [] [(.bootFlashCmdBusy, 0, 1)]) .bootFlashCmdBusy 0 = true ∧ isSet (boot_ 0 [] []) .bootFlashCmdBusy 0 = false ∧
    flashRefused (boot_ 0 [] [(.bootFlashAddr, 0, 0x101)]) 3 0x101 = true ∧
    (∀ op ∈ [1, 2, 3, 4], flashRefused (boot_ 0 [] [(.bootStatusStage, 0, 8)]) op (rd (boot_ 0 [] [(.bootStatusStage, 0, 8)]) .bootFlashAddr 0) = false) ∧
    (∀ op ∈ [1, 2, 3, 4], ∃ c, (flash_ op []).boot.flashCmd = some c ∧ c.op = op ∧ (flash_ op []).boot.powered = true) := by
  refine ⟨by decide +kernel, by decide +kernel, by decide +kernel, by decide +kernel, ?_⟩
  intro op _
  exact ⟨_, rfl, rfl, rfl⟩

/-- A cold reset that waits for fuses, one held by a trip, one that happens, and one without the word. -/
theorem test_witness_FlashAndResets_cold :
    let d := boot_ 0 [] [(.bootStatusStage, 0, 8)]
    let f := boot_ 3 [] [] fun b => { b with fuse := some { svn := some 3 } }
    let h := boot_ 0 [] [(.bootStatusStage, 0, 15), (.bootStatusCause, 0, 0xA7), (.powerSensorTemp, 152, 1600), (.powerSensorValid, 152, 1)]
    d.boot.powered = true ∧ d.boot.fuse = none ∧ tripHeld d = false ∧ d.boot.flashCmd = none ∧ f.boot.fuse.isSome = true ∧
    h.boot.fuse = none ∧ tripHeld h = true ∧ (State.reset.dev.boot.powered = false) := by
  decide +kernel

theorem test_witness_FlashAndResets_cooldown :
    let h := boot_ 0 [] [(.bootStatusStage, 0, 15), (.bootStatusCause, 0, 0xA7)]
    let k := onPwr h fun x => { x with heldReset := some 1 }
    let l : List SensorReading := (List.range 16).map fun i => { sensor := 152 + i, temp := 320 }
    cooled (senseAll h l) = true ∧ h.pwr.heldReset = none ∧ cooled (senseAll k l) = true ∧ k.pwr.heldReset = some 1 ∧ h.boot.powered = true := by
  decide +kernel

theorem test_witness_FlashAndResets_warm :
    let d := boot_ 0 [] [(.bootStatusStage, 0, 8)]
    rd d .bootStatusStage 0 = 8 ∧ d.boot.powered = true ∧ everyQp d = [] ∧ rd (boot_ 0 [] []) .bootStatusStage 0 ≠ 8 := by
  decide +kernel

/-! ### Power and heat -/

/-- A tile no partition has turns off; a domain that wakes, whose PLL fails the first and the third time. -/
theorem test_witness_PowerControl :
    let d := run_ []
    let w := fun (m : Domain) (n : Nat) => onPwr (setDomState (run_ []) m 2) fun x => { x with waking := [m], pllFails := [(pllOf d m, n)] }
    inRun d = true ∧ validDomain (.tile 5) = true ∧ domState d (.tile 5) < 4 ∧ stateAllowed d (.tile 5) 4 = true ∧
    tolerates d (.tile 5) 4 = true ∧ idle d (.tile 5) = true ∧ d.pwr.waking.contains (.tile 5) = false ∧
    ∀ m ∈ [Domain.hedge 3, .laurel, .mesh], ∀ n ∈ [1, 2], (w m n).pwr.waking.contains m = true ∧ inRun (w m n) = true ∧
      pllStopped (w m n) m = true ∧ getD (w m n).pwr.pllFails (pllOf (w m n) m) 0 = n := by
  decide +kernel

/-- A tile in CS3 whose partition no longer tolerates it. -/
theorem test_witness_PowerControl_ltr :
    let d := run_ [(.tileOwnerAssigned, 5, 1), (.tileOwnerPartition, 5, 1), (.powerTileState, 5, 3)]
    takesDriver d ∧ tolerates d (.tile 5) (domState d (.tile 5)) = true ∧ domState d (.tile 5) ≤ 4 ∧
    tolerates (wr d .powerPartLtr 1 5) (.tile 5) (domState d (.tile 5)) = false := by
  decide +kernel

/-- A sealed partition of six rows whose floor a limit holds, and one too low for it. -/
def sixRows (v : Nat) : Dev :=
  run_ ((.yewSealStatusSealed, 1, 1) :: (.powerSealFloor, 1, 64) :: (.powerLimitSustainedW, 0, v) ::
    (List.range 6).flatMap fun r => [(.tileOwnerAssigned, tileAt r 0, 1), (.tileOwnerPartition, tileAt r 0, 1)])

theorem test_witness_PowerControl_limit : takesDriver (sixRows 1900) ∧ sealedOnes (sixRows 1900) = [1] ∧ sealedNow (sixRows 1900) 1 = true ∧
    budgetOk (sixRows 1900) [1] = true ∧ budgetOk (sixRows 1200) [1] = false := by
  decide +kernel

theorem test_witness_PowerControl_floor :
    let d := sixRows 1210
    sealedNow d 1 = true ∧ sealedNow d 0 = false ∧ sealFloor (wr d .powerSealFloor 1 0) 1 = 0 ∧
    sealFloor (wr d .powerSealFloor 1 32) 1 ≠ 0 ∧ budgetOk (wr d .powerSealFloor 1 32) [1] = true ∧
    sealFloor (wr d .powerSealFloor 1 65) 1 ≠ 0 ∧ budgetOk (wr d .powerSealFloor 1 65) [1] = false := by
  decide +kernel

/-- The controller over its limit with each rate to lower, under it, and well below it a second time. -/
theorem test_witness_PowerControl_rates :
    let o := fun l => onPwr (run_ l) fun x => { x with samples := [3000000] }
    let b := onPwr (run_ [(.powerRateShared, 0, 60)]) fun x => { x with below := true }
    inRun (o []) = true ∧ overLimit (o []) = true ∧ 8 < rd (o []) .powerRateShared 0 ∧
    overLimit (o [(.powerRateShared, 0, 8)]) = true ∧ rd (o [(.powerRateShared, 0, 8)]) .powerRateShared 0 ≤ 8 ∧
    rd (o [(.powerRateShared, 0, 8)]) .powerRateHedge 0 < 3 ∧ overLimit (run_ []) = false ∧ (run_ []).pwr.below = false ∧
    overLimit b = false ∧ wellBelow b = true ∧ b.pwr.below = true ∧ b.pwr.sealDrop = 0 ∧ rd b .powerRateHedge 0 = 0 ∧
    rd b .powerRateShared 0 < 64 := by
  decide +kernel

theorem test_witness_PowerControl_guards :
    let g := onPwr (run_ []) fun x => { x with guards := [6], guardEvent := some 0 }
    (4 ≤ rd (run_ []) .bootStatusStage 0 ∧ rd (run_ []) .bootStatusStage 0 ≤ 8 ∧ (run_ []).pwr.guards.contains 6 = false ∧
      (run_ []).pwr.guardEvent = none) ∧
    (g.pwr.guards.contains 6 = true ∧ g.pwr.guards.contains 5 = false ∧ g.pwr.guardEvent = some 0 ∧ g.upNs - 0 < 1000000 ∧
      g.boot.powered = false) := by
  decide +kernel

/-- The cap's three cases: a hot sensor, all sensors well below with the cap lowered, and the cap at its top. -/
theorem test_witness_Heat :
    let hot := senseAll (run_ []) [{ sensor := 0, temp := 105 * 8 }]
    let low := senseAll (run_ [(.powerRateThermal, 0, 60)]) [{ sensor := 0, temp := -2048 }]
    inRun (run_ []) = true ∧ (hotOnes hot capSensors (throttleC hot)).isEmpty = false ∧
    (hotOnes low capSensors (throttleC low)).isEmpty = true ∧ rd low .powerRateThermal 0 < 64 ∧ allBelow low capSensors (throttleC low - 3) = true ∧
    (hotOnes (run_ []) capSensors (throttleC (run_ []))).isEmpty = true ∧ 64 ≤ rd (run_ []) .powerRateThermal 0 ∧ memUnits ≠ [] := by
  decide +kernel

theorem test_witness_Heat_trip :
    let d := boot_ 0 [] []
    rd d .bootStatusStage 0 ≠ 15 ∧ hotOnes (senseAll d [{ sensor := 166, temp := 110 * 8 }]) (pairSensors 7) (tripC d) ≠ [] ∧
    pairGap (senseAll d [{ sensor := 166, temp := 880 }, { sensor := 167, temp := 839 }]) 7 = some 41 := by
  decide +kernel

/-! ### Failures -/

theorem copies_booted (f : Fld) (i : Nat) (h : f ≠ .bootStatusStage) :
    copies (boot_ 0 [] [(.bootStatusStage, 0, 8)]) f i = (f.info.reset, f.info.reset, f.info.reset) :=
  (copies_wr_ne (i := 0) {} 8 (.inl h)).trans rfl

theorem test_witness_Failures_scrub :
    let d := boot_ 0 [] [(.bootStatusStage, 0, 8)]
    d.boot.powered = true ∧ rd d .bootStatusStage 0 ≠ 15 ∧ (∀ f ∈ votedFlds, ∀ i, voteHolds d f i = true) ∧
    (∀ f ∈ votedFlds, ∀ i, (copies d f i).1 = (copies d f i).2.1 ∧ (copies d f i).1 = (copies d f i).2.2) ∧
    (majority (copies d .tileOwnerPartition 3).1 (copies d .tileOwnerPartition 3).2.1 (copies d .tileOwnerPartition 3).2.2).isSome = true := by
  have h : ∀ f ∈ votedFlds, f ≠ Fld.bootStatusStage := by decide +kernel
  refine ⟨rfl, by decide +kernel, fun f hf i => ?_, fun f hf i => ?_, by decide +kernel⟩
  · unfold voteHolds
    rw [copies_booted f i (h f hf)]
    simp [majority]
  · rw [copies_booted f i (h f hf)]
    exact ⟨rfl, rfl⟩

/-- A vote of three different copies, lost and not yet lost. -/
theorem test_witness_Failures_lost :
    let d := fun (l : List Nat) => onSafe { ({} : Dev) with regs := [(fkey .tileOwnerPartition 7, 1)], regsB := [(fkey .tileOwnerPartition 7, 2)] }
      fun x => { x with lost := l }
    voteHolds (d []) .tileOwnerPartition 7 = false ∧ fkey .tileOwnerPartition 7 ∉ (d []).safe.lost ∧
    voteHolds (d [fkey .tileOwnerPartition 7]) .tileOwnerPartition 7 = false ∧
    fkey .tileOwnerPartition 7 ∈ (d [fkey .tileOwnerPartition 7]).safe.lost := by
  decide +kernel

theorem test_witness_Failures : inRun (run_ []) = true ∧ unitFailed (run_ []) (.hbm 11) = false ∧ (run_ []).mem.hedgeFailed.contains 3 = false ∧
    (boot_ 0 [] []).boot.powered = true ∧ rd (boot_ 0 [] [(.memoryDdrStatState, 7, 1)]) .memoryDdrStatState (15 / 2) = 1 := by
  decide +kernel

/-! ### Register accesses -/

/-- A running device with a module of the host link up. -/
def hosted (rs : List (Fld × Nat × Nat)) : Dev := run_ ((.hlStatusMod1, 0, 1) :: rs)

theorem test_witness_NativeAndManagement :
    let src := Source.host 1 0 7
    let w := fun (d : Dev) => onAcc d fun a => { a with held := [{ src := src, off := 0, width := 4, val := some 0 }] }
    let f := hosted [(.hlHostRidId, 0, 1), (.hlHostRidMask, 0, 65535)]
    canReach (hosted []) src 0x800008 4 = true ∧ canReach (hosted []) (.host 1 63 7) 0x10FFC 4 = true ∧ fnPresent (hosted []) 63 = false ∧
    serving (hosted []) = true ∧ hostRid (hosted []) 7 = true ∧ hostRid f 7 = false ∧ canReach f src 0x800008 4 = true ∧
    waitsBehind (w (hosted [])) src = true ∧ waitsBehind (hosted []) src = false ∧ isSet (hosted []) .safetyStatusHalted 0 = false ∧
    doorbell (hostOffset 0 0x800009) 2 = none ∧ inCompat (hostOffset 0 0x800009) = false ∧ accessOk (hostOffset 0 0x800009) 2 = false ∧
    sealedOnes (hosted []) = [] ∧ serving (at_ [(.hlStatusMod1, 0, 1)]) = false := by
  decide +kernel

/-- A stalled write that waits, a shadow to commit, posted writes with an empty and a full queue and with a lower half held. -/
theorem test_witness_NativeAndManagement_queues :
    let p := fun (n : Nat) => onAcc (hosted []) fun a => { a with posted := List.replicate n { off := 0, width := 4, val := 0 } }
    let h := onAcc (hosted []) fun a => { a with half := some (0, 1) }
    hostUp (hosted []) = true ∧ (hosted []).acc.half = none ∧ (p 63).acc.posted.length < 64 ∧ 64 ≤ (p 64).acc.posted.length ∧
    (p 64).acc.half = none ∧ h.acc.half = some (0, 1) ∧ h.acc.posted.length < 64 ∧ crosses32 4 = false ∧ crosses32 0x50000 = true := by
  decide +kernel

theorem test_witness_NativeAndManagement_commit :
    let d := { run_ [] with shadow := [(fkey .mgmtAlertMask 0, 5)] }
    takesDriver d ∧ find? d.shadow (fkey .mgmtAlertMask 0) = some 5 ∧ find? (run_ []).shadow (fkey .mgmtAlertMask 0) = none ∧
    waitsBehind (run_ []) .i3c = false ∧ canReach (boot_ 0 [] []) .i3c 0x50000 8 = true ∧ canReach (hosted []) (.host 1 0 7) 0x50000 8 = true ∧
    rd (boot_ 0 [] [(.bootStatusStage, 0, 15)]) .bootStatusStage 0 = 15 ∧ alertByte (boot_ 0 [] [(.mgmtAlertPending, 0, 1), (.mgmtAlertMask, 0, 1)]) ≠ 0 ∧
    sealedOnes (boot_ 0 [] []) = [] := by
  decide +kernel

/-- A write of a register without effects elsewhere, and an alert that has its turn again after 10 ms. -/
theorem test_witness_NativeAndManagement_plain :
    let w : RegWrite := { src := .host 1 0 7, part := actsFor (.host 1 0 7) 0x800008, off := 0x800008, width := 8, val := 5 }
    let d := hosted []
    let a := onAcc { boot_ 0 [] [(.mgmtAlertPending, 0, 1), (.mgmtAlertMask, 0, 1)] with upNs := 10000000 } fun x => { x with alertNs := some 0 }
    hostOffset 0 0x800008 = 0x800008 ∧ doorbell w.off 8 = none ∧ isPosted w = false ∧ accessOk w.off 8 = true ∧ assigned w = true ∧
    stallsNow d w.off 8 = false ∧ sealedOnes d = [] ∧ (wordFields w.off).any (lockedNow d) = false ∧ (gateLocked d w).isNone = true ∧
    (∀ y ∈ wordFields w.off, meetsField w y = true → holdsField w y = true ∧ y.fld.info.access = .rw ∧ isCommand y.fld = false ∧
      y.fld ∉ [Fld.timeSetNs, .timeStepNs, .xlateCmdqDoorbell, .transportPathsetInvalSet, .meshNodeMapInvalNode, .yewTableInvalAll,
        .topiaryMeterCir, .topiaryMeterPir, .topiaryMeterCbs, .topiaryMeterPbs, .transportQpcDirValid, .transportQpcDirHost,
        .transportQpcDirBase, .portsubRawCfgRxEn, .portsubRawCfgTxEn]) ∧
    ((wordFields w.off).filter (holdsField w)).isEmpty = false ∧
    alertByte a ≠ 0 ∧ a.boot.powered = true ∧ a.acc.alertNs = some 0 ∧ 0 + 10000000 ≤ a.upNs := by
  dsimp only
  repeat' apply And.intro
  all_goals decide +kernel

/-! ### Ill-formed commands -/

/-- Commands that a number below `b` makes well formed and `b` does not. -/
def below (b : Nat) (l : List (Nat → Instr)) : Bool := l.all fun c => (c (b - 1)).wellFormed && !(c b).wellFormed

def cfg1 : CfgReq := { module := 0, fn := 0, rid := 0, reg := .numVfs, write := none }
def ap1 : ApReq := { module := 0, fn := 0, rid := 0, off := 0 }

theorem test_below_2 : below (2) [
    .moduleLinkUp, (.moduleLinkDown · false), .hotReset] = true := by decide +kernel

theorem test_below_4 : below (4) [
    (.linkDirectionRebalance · 0 0), (.linkGroupReversalEnd · 0), (.hbmPatrol · []), (.ddrPatrol · []), .hedgeDieFailure] = true := by decide +kernel

theorem test_below_7 : below (7) [
    .overCurrentTrip, .currentGuardRelease] = true := by decide +kernel

theorem test_below_8 : below (8) [
    .ddrChannelFailure, .meterRefill, (.portEnable · 0), (.thermalTrip · []), (.tripPairDisagreement · [])] = true := by decide +kernel

theorem test_below_10 : below (10) [
    (.dieLinkCrcFail · 0), (.dieLinkLockLoss · 0)] = true := by decide +kernel

theorem test_below_12 : below (12) [
    .hbmStackFailure] = true := by decide +kernel

theorem test_below_16 : below (16) [
    .cmpRegionEnable, .cmpRegionDisable, .cmpRegionBusyEnd, .moduleOverPower] = true := by decide +kernel

theorem test_below_24 : below (24) [
    .dispatcherTurn, (.activeSetAdjust · 0 0), .tokenNotify] = true := by decide +kernel

theorem test_below_32 : below (32) [
    (.utilisationSample · 0), .transmitOpportunity, .subportLossOfSignal, .linkHoldExpiry, (.ethernetFrameReceive · ((frame1 64 (.raw [])))),
    .gateChange, .gateCancel, .gateStart, .gateEntryEnd, .rawTransmit, .rawFrameReceive, .subportSignalRestored] = true := by decide +kernel

theorem test_below_34 : below (34) [
    (.linkGroupReversalEnd 0 ·)] = true := by decide +kernel

theorem test_below_64 : below (64) [
    (.ringDoorbell · 4 0), (.activeSetAdjust 0 · 0), .faultSlotRetry, (.scratchpadScrub 0 · []), (.cqDoorbell · 4 0), (.cqArm · 4 0),
    (.eqDoorbell · 4 0), (.eqArm · 4 0), .functionLevelReset, (.nodeMapInval · 0), (.sqDoorbell · 4 0), (.rqDoorbell · 4 0),
    (.rawRxDoorbell · 4 0), (.rawTxDoorbell · 4 0), (.collDoorbell · 4 0), .allReduce, .reduceScatter, .allGather, .attestGo, .attestReportDone,
    (.tileAssign 0 ·), (.tileRelease 0 ·), .freeze, .freezeTimeout, .partitionFrozen, .save, .saveDone, .restore, .restoreDone, .thaw,
    .sealPartition, .unsealPartition] = true := by decide +kernel

theorem test_below_101 : below (101) [
    (.activeSetAdjust 0 0 ·), (.utilisationSample 0 ·)] = true := by decide +kernel

theorem test_below_128 : below (128) [
    .yewEngineMismatch] = true := by decide +kernel

theorem test_below_256 : below (256) [
    .msixSend, .eqEnable, .eqDisable, .groupLoad, .groupUnload, .collectiveRepeatStart, .collectiveSignal, .collectiveRoundTimeout] = true := by decide +kernel

theorem test_below_1152 : below (1152) [
    .matrix, .matrixComplete, .vectorSequence, .vectorSequenceComplete, .load, .store, .bcast, .iota, .fadd, .fsub, .fmul, .fma, .fmin, .fmax,
    .fabs, .fneg, .fcopysign, .fcmp, .select, .iadd, .isub, .vectorAnd, .vectorOr, .xor, .shl, .shr, .sra, .itof, .ftoi, .exp, .exp2, .rcp,
    .rsqrt, .sum, .lmax, (.datapathCheckFailed · false), .move, .moveComplete, .attention, .attentionBatch, (.attentionPageDone · 0),
    .attentionComplete, (.farTimeout · 0), (.farRetry · 0), (.scratchpadScrub · 0 []), .hpaCompletionTimeout, .tileReleaseTimeout,
    .tileReleaseDone, .watchdogExpiry, .spareCopyDone] = true := by decide +kernel

theorem test_below_2048 : below (2048) [
    (.tileAssign · 0), (.tileRelease · 0), .tileRetire] = true := by decide +kernel

theorem test_below_4096 : below (4096) [
    .ringEnable, .ringDisable, .ringRestart] = true := by decide +kernel

theorem test_below_16384 : below (16384) [
    .cqEnable, .cqDisable] = true := by decide +kernel

theorem test_below_65536 : below (65536) [
    (.readData · 0), (.readData 0 ·), (.writeAck · 0), (.writeAck 0 ·), (.atomicResult · 0), (.atomicResult 0 ·), .workItem, (.errorFlit · 0),
    (.errorFlit 0 ·), .flitHeaderError, (.txnTimeout · 0), (.txnTimeout 0 ·), (.nodeMapInval 0 ·), .pathsetInval, .probeTimer, .loadClear,
    (.loadWrapped · 0), (.loadWrapped 0 ·), .erase, .eraseComplete, .saveClear, (.saveWrapped · 0), (.saveWrapped 0 ·), .rxGraceExpiry,
    .keyWordError, .coldReset, .warmReset] = true := by decide +kernel

theorem test_below_two_pow_24 : below (2 ^ 24) [
    (.writeContext · 0), (.readContext · 0), .ready, .drain, .qpError, .qpReset, .sqWrite, .sqRead, .sqSend, .sqAtomic, .contextFetchDone,
    .ackDelayExpiry, (.rtoExpiry · 0), (.rnrResend · 0), (.heldResend · 0), .pathExhaustedTimer] = true := by decide +kernel

theorem test_below_two_pow_32 : below (2 ^ 32) [
    .cmdqEnable, .cmdqDoorbell, .hlHeartbeat, .hlRejoin, (.rtoExpiry 0 ·), (.rnrResend 0 ·), (.heldResend 0 ·), (.portEnable 0 ·), .timeAdjust,
    .tableInval, (.ltrWrite false 0 ·), (.limitWrite .sustained ·), .i3cRead, (.i3cWrite · 0)] = true := by decide +kernel

theorem test_below_two_pow_64 : below (2 ^ 64) [
    (.writeContext 0 ·), (.readContext 0 ·), .timeSet, .timeStep, (.i3cWrite 0 ·)] = true := by decide +kernel

def refuses (l : List Instr) : Bool := l.all fun c => !c.wellFormed

/-- Commands with an ill-formed structured operand: flits and frames, sources and queues, requests, readings and register writes. -/
theorem test_ill_formed :
    refuses [
    .flitRead { flit1 1 with dest := 65536 } [], .flitRead { flit1 1 with src := 65536 } [], .flitRead { flit1 1 with txn := 65536 } [],
    .flitRead { flit1 1 with op := 16 } [], .flitRead { flit1 1 with epoch := 2 } [], .flitRead { flit1 1 with vc := 4 } [],
    .flitRead { flit1 1 with part := 64 } [], .flitRead { flit1 1 with addr := 2 ^ 48 } [], .flitRead { flit1 1 with byteFirst := 32 } [],
    .flitRead { flit1 1 with byteLast := 32 } [], .flitRead { flit1 1 with atomic := 8 } [], .flitRead { flit1 1 with payload := 2 ^ 256 } [],
    .atomicAdd { flit1 1 with op := 16 }, .atomicFetchAdd { flit1 1 with op := 16 }, .atomicSwap { flit1 1 with op := 16 },
    .atomicCas { flit1 1 with op := 16 }, .atomicUmax { flit1 1 with op := 16 }, .atomicUmin { flit1 1 with op := 16 },
    .atomicAnd { flit1 1 with op := 16 }, .atomicOr { flit1 1 with op := 16 }, .flitWrite [flit1 3, { flit1 3 with vc := 4 }] [] [],
    .ethernetFrameReceive 0 { frame1 64 (.raw []) with dstMac := 2 ^ 48 }, .ethernetFrameReceive 0 { frame1 64 (.raw []) with srcMac := 2 ^ 48 },
    .ethernetFrameReceive 0 { frame1 64 (.raw []) with etherType := 65536 }, .ethernetFrameReceive 0 { frame1 64 (.raw []) with tag := some 65536 }] = true ∧
    refuses [
    .coppiceEntry (.tile 1152) 1, .coppiceEntry (.hedge 4) 1, .coppiceEntry .mesh 0, .coppiceEntry .mesh 5, .coppiceExitDone (.tile 1152),
    .pllLockTimeout (.hedge 4), .bringupPartDone (.hbm 12) true, .bringupPartDone (.ddr 8) true, .queueRefetch (.ring 4096),
    .queueRefetch (.sq 0), .queueRefetch (.sq (2 ^ 24)), .queueRefetch (.rq 0), .queueRefetch (.rq (2 ^ 24)), .queueRefetch (.coll 64), .queueRefetch (.rawTx 32), .timeNowRead (.host 2 0 0),
    .registerWrite (.host 0 64 0) 0 4 0, .registerWrite (.host 0 0 65536) 0 4 0, .registerWrite .i3c 0x3FFFFFD 4 0, .registerWrite .i3c 0 0 0,
    .registerWrite .i3c 0 65 0, .registerWrite .i3c 0 4 (2 ^ 32)] = true ∧
    refuses [
    .configRequest { cfg1 with module := 2 }, .configRequest { cfg1 with fn := 64 }, .configRequest { cfg1 with rid := 65536 },
    .configRequest { cfg1 with reg := .vectorControl 256 }, .configRequest { cfg1 with fn := 1, reg := .vectorControl 32 },
    .configRequest { cfg1 with reg := .other 4096 }, .apertureRead { ap1 with module := 2 } 1, .apertureRead ap1 0, .apertureRead ap1 4097,
    .apertureWrite { ap1 with fn := 64 } [], .apertureWrite ap1 (List.replicate 513 0), .apertureFetchadd { ap1 with rid := 65536 } 32 0,
    .apertureFetchadd ap1 33 0, .apertureFetchadd ap1 32 (2 ^ 32), .apertureSwap ap1 16 0, .apertureSwap ap1 64 (2 ^ 64), .apertureCas ap1 0 0 0,
    .apertureCas ap1 32 (2 ^ 32) 0, .apertureCas ap1 128 0 (2 ^ 128), .dieLinkCrcFail 7 34, .dieLinkCrcFail 8 16, .dieLinkLockLoss 9 16] = true ∧
    refuses [
    .physicalAttackAlarm 0, .physicalAttackAlarm 5, .dies { failedDie := some 9, badTiles := [] }, .dies { failedDie := none, badTiles := [0, 1152] },
    .bringup [{ channel := 8, a := none, b := none }], .ltrWrite true 4096 0, .ltrWrite false 64 0, .limitWrite (.sealFloor 64) 0,
    .thermalCapStep [{ sensor := 168, temp := 0 }], .memoryHotStep [{ sensor := 168, temp := 0 }], .thermalTrip 0 [{ sensor := 168, temp := 0 }],
    .tripPairDisagreement 0 [{ sensor := 168, temp := 0 }], .tripCooldown [{ sensor := 168, temp := 0 }], .deviceHalt 1, .compatPostedWrite 0x400000 4 0,
    .compatPostedWrite 2 4 0, .compatPostedWrite 0 8 0, .compatPostedWrite 0 4 (2 ^ 32), .ringDoorbell 0 0 0, .cqDoorbell 0 65 0,
    .cqArm 0 8 (2 ^ 64), .eqDoorbell 0 4 (2 ^ 32), .eqArm 0 0 0, .sqDoorbell 0 65 0, .rqDoorbell 0 4 (2 ^ 32), .collDoorbell 0 0 0,
    .rawRxDoorbell 0 65 0, .rawTxDoorbell 0 4 (2 ^ 32)] = true := by
  decide +kernel

/-! ### Results worked out by hand from the rules -/

/-- Lane 0 of a vector operation's result, and the flags of its work item, for lane 0 of three sources, an immediate and a predicate. -/
def lane0 (c : Nat → Instr) (o : Nat) (a b m : Nat) (imm : Nat := 0) (fmt : Nat := 0) : Option (Nat × Nat) :=
  let d := onDisp (oneOp o) fun x => { x with vec := [(1, { uid := 1, prog := [packFields
    [(0, 8, o), (8, 4, 4), (12, 4, 1), (16, 4, 2), (20, 4, 3), (24, 4, fmt), (32, 32, imm)]], regs := [(1, [a]), (2, [b]), (3, [m])] })] }
  (after (c 0) (st d)).bind fun t => (find? t.dev.disp.vec 1).bind fun r => (itemOf t.dev 1).map fun it => ((vreg r 4).getD 0 0, it.flags)

/-- R78, R102: integers wrap, shifts use the low five bits of the immediate. -/
theorem test_vector_integers :
    lane0 .iadd 0x20 0xFFFFFFFF 2 0 = some (1, 0) ∧ lane0 .isub 0x21 1 2 0 = some (0xFFFFFFFF, 0) ∧
    lane0 .vectorAnd 0x22 0xF0F0 0xFF00 0 = some (0xF000, 0) ∧ lane0 .vectorOr 0x23 0xF0F0 0xFF00 0 = some (0xFFF0, 0) ∧
    lane0 .xor 0x24 0xF0F0 0xFF00 0 = some (0x0FF0, 0) ∧ lane0 .shl 0x25 0x80000001 0 0 33 = some (2, 0) ∧
    lane0 .shr 0x26 0x80000000 0 0 31 = some (1, 0) ∧ lane0 .sra 0x27 0x80000000 0 0 31 = some (0xFFFFFFFF, 0) ∧
    lane0 .bcast 0x03 0 0 0 0x3F800000 = some (0x3F800000, 0) ∧ lane0 .iota 0x04 0 0 0 7 = some (7, 0) := by
  repeat' apply And.intro
  all_goals decide +kernel

/-- R78, R79, R80: ties to even, opposite infinities, zero times infinity, a sum above the range, one rounding of a fused product. -/
theorem test_vector_arithmetic :
    lane0 .fadd 0x10 0x3F800000 0x33800000 0 = some (0x3F800000, 0) ∧ lane0 .fadd 0x10 0x3F800001 0x33800000 0 = some (0x3F800002, 0) ∧
    lane0 .fsub 0x11 0x7F800000 0x7F800000 0 = some (0x7FC00000, 1) ∧ lane0 .fadd 0x10 0x7F7FFFFF 0x7F7FFFFF 0 = some (0x7F800000, 2) ∧
    lane0 .fmul 0x12 0 0xFF800000 0 = some (0x7FC00000, 1) ∧ lane0 .fmul 0x12 0x00000001 0x3F000000 0 = some (0, 0) ∧
    lane0 .fma 0x13 0x3F800001 0x3F800001 0xBF800002 = some (0x28800000, 0) := by
  repeat' apply And.intro
  all_goals decide +kernel

/-- R78: a number beats a NaN, the sign operations are exact, a predicate gives a mask, a mask selects. -/
theorem test_vector_moves :
    lane0 .fmin 0x14 0x7FC00001 0x40000000 0 = some (0x40000000, 0) ∧ lane0 .fmax 0x15 0x3F800000 0xFF800001 0 = some (0x3F800000, 0) ∧
    lane0 .fmin 0x14 0x7FC00001 0xFF800001 0 = some (0x7FC00000, 0) ∧ lane0 .fabs 0x16 0x80000001 0 0 = some (1, 0) ∧
    lane0 .fneg 0x17 0x3F800000 0 0 = some (0xBF800000, 0) ∧ lane0 .fcopysign 0x18 0x3F800000 0x80000000 0 = some (0xBF800000, 0) ∧
    lane0 .fcmp 0x19 0x3F800000 0x40000000 0 0 1 = some (0xFFFFFFFF, 0) ∧ lane0 .fcmp 0x19 0x80000000 0 0 0 1 = some (0, 0) ∧
    lane0 .fcmp 0x19 0x7FC00000 0 0 0 3 = some (0xFFFFFFFF, 0) ∧ lane0 .select 0x1A 5 6 0 = some (6, 0) ∧ lane0 .select 0x1A 5 6 9 = some (5, 0) := by
  repeat' apply And.intro
  all_goals decide +kernel

/-- R78, R80: conversions round to even and saturate; the special functions' special cases. -/
theorem test_vector_special :
    lane0 .itof 0x28 16777217 0 0 = some (0x4B800000, 0) ∧ lane0 .itof 0x28 0xFFFFFFFF 0 0 = some (0xBF800000, 0) ∧
    lane0 .ftoi 0x29 0x40200000 0 0 = some (2, 0) ∧ lane0 .ftoi 0x29 0xCF800000 0 0 = some (0x80000000, 1) ∧
    lane0 .ftoi 0x29 0x7FC00000 0 0 = some (0, 1) ∧ lane0 .exp 0x30 0xFF800000 0 0 = some (0, 0) ∧ lane0 .exp 0x30 0x7F800000 0 0 = some (0x7F800000, 0) ∧
    lane0 .exp2 0x31 0x43800000 0 0 = some (0x7F800000, 2) ∧ lane0 .rcp 0x32 0x80000000 0 0 = some (0xFF800000, 4) ∧
    lane0 .rcp 0x32 0xFF800000 0 0 = some (0x80000000, 0) ∧ lane0 .rcp 0x32 1 0 0 = some (0x7F800000, 2) ∧
    lane0 .rsqrt 0x33 0xBF800000 0 0 = some (0x7FC00000, 1) ∧ lane0 .rsqrt 0x33 0x80000000 0 0 = some (0xFF800000, 4) ∧
    lane0 .rsqrt 0x33 0x7F800000 0 0 = some (0, 0) := by
  repeat' apply And.intro
  all_goals decide +kernel

/-- FIPS 180-4: the digest of "abc", its first byte the lowest. -/
theorem test_sha384 : toBytes 48 (sha384 [0x61, 0x62, 0x63]) =
    [0xCB, 0x00, 0x75, 0x3F, 0x45, 0xA3, 0x5E, 0x8B, 0xB5, 0xA0, 0x3D, 0x69, 0x9A, 0xC6, 0x50, 0x07, 0x27, 0x2C, 0x32, 0xAB, 0x0E, 0xDE, 0xD1, 0x63,
     0x1A, 0x8B, 0x60, 0x5A, 0x43, 0xFF, 0x5B, 0xED, 0x80, 0x86, 0x07, 0x2B, 0xA1, 0xE7, 0xCC, 0x23, 0x58, 0xBA, 0xEC, 0xA1, 0x34, 0xC8, 0x25, 0xA7] := by
  decide +kernel

/-- FIPS 197, C.3. -/
theorem test_aes256 :
    let k := List.range 32
    let x := (List.range 16).map (17 * ·)
    let y := [0x8E, 0xA2, 0xB7, 0xCA, 0x51, 0x67, 0x45, 0xBF, 0xEA, 0xFC, 0x49, 0x90, 0x4B, 0x49, 0x60, 0x89]
    aesEncrypt k x = y ∧ aesDecrypt k y = x := by
  decide +kernel

/-- No row of the table gives bits. -/
theorem test_no_words : decodeTableWord 32 0 = none ∧ decodeTableWord 64 (2 ^ 64 - 1) = none ∧ State.reset.withFetchWord 32 5 = State.reset :=
  ⟨rfl, rfl, rfl⟩

/-! ### Commands -/

/-- R530, R17: a 2-byte write is discarded and counted, with its offset and module. -/
theorem test_discard : let w := Instr.registerWrite (.host 1 0 7) 0x800009 2 5
    reg w (hosted []) .discardedWrites = some 1 ∧ reg w (hosted []) .lastDiscardOffset = some 0x800009 ∧
    reg w (hosted []) .lastDiscardSource = some 1 := by
  decide +kernel

/-- R84, R91: a ring with LOG2_SIZE 5 does not enable, one with 6 does. -/
theorem test_ring_enable : reg (.ringEnable 9) (run_ [(.ringCfgLog2Size, 9, 5)]) .ringStateState 9 = some 0 ∧
    reg (.ringEnable 9) (run_ [(.ringCfgLog2Size, 9, 6)]) .ringStateState 9 = some 1 := by
  decide +kernel

/-- R490: 48.00 V at 25 A is 1,200 W, over any window it is alone in, and 1.2 mJ a sample. -/
theorem test_power_sample : reg (.powerSample 4800 25000) (boot_ 0 [] []) .powerInputAvg1msW = some 1200 ∧
    reg (.powerSample 4800 25000) (boot_ 0 [] []) .powerInputVolts = some 4800 ∧
    reg (.powerSample 4800 25000) (boot_ 0 [] []) .powerEnergyMj = some 1 := by
  decide +kernel

/-- R494: the cap falls by 4. -/
theorem test_thermal_cap : reg (.thermalCapStep [{ sensor := 0, temp := 110 * 8 }]) (run_ []) .powerRateThermal = some 60 := by
  decide +kernel

/-- R475: a cold reset without its word. -/
theorem test_cold_reset : reg (.coldReset 0x5A16) (boot_ 0 [] [(.bootStatusStage, 0, 8)]) .bootStatusStage = some 8 ∧
    reg (.coldReset 0x5A17) (boot_ 0 [] [(.bootStatusStage, 0, 8)]) .bootStatusStage = some 0 ∧
    reg (.coldReset 0x5A17) (boot_ 0 [] [(.bootStatusStage, 0, 8)]) .bootStatusResetKind = some 1 := by
  decide +kernel

/-- R557: the identification code has 32 bits, least significant bit first. -/
theorem test_idcode : (after .idcode State.reset).map (·.dev.out) = some [.tdo 32 0x0128014F] := by
  decide +kernel

/-- R179: a maximum of unsigned 64-bit words in HBM4. -/
theorem test_umax :
    (after (.atomicUmax { flit1 2 with addr := 0, atomic := 4, payload := 9 }) (st (setBytes (run_ []) 0 [7]))).map
      (fun t => getBytes t.dev 0 8) = some [9, 0, 0, 0, 0, 0, 0, 0] := by
  decide +kernel

end Sys2Proof.Tests
end

section
/-!
Register fields by their copies: O7, O8 and O2.
-/
namespace Sys2Proof.Machine

/-! ### Voted fields (R16, R503) -/

/-- A field that is voted alone reads the majority of its own copies, or its fallback. -/
theorem rd_eq_majority {d : Dev} {f : Fld} {i a b c : Nat} (hv : f.info.voted = true) (hw : votedWith f = [f])
    (hc : copies d f i = (a, b, c)) : rd d f i = (majority a b c).getD (fallback f) := by
  have hh : (votedWith f).all (fun g => voteHolds d g i) = (majority a b c).isSome := by simp [hw, voteHolds, hc]
  unfold rd
  rw [if_pos hv, hh, hc]
  dsimp only
  cases majority a b c with
  | none => rfl
  | some v => rfl

theorem majority_eq_none {a b c : Nat} (hab : a ≠ b) (hac : a ≠ c) (hbc : b ≠ c) : majority a b c = none := by
  simp [majority, hab, hac, hbc]

theorem majority_self_left (a c : Nat) : majority a a c = some a := by simp [majority]

theorem majority_self_outer (a b : Nat) : majority a b a = some a := by simp [majority]

theorem majority_self_right (a b : Nat) : majority a b b = some b := by
  by_cases h : a = b <;> simp [majority, h]

/-! ### Cold reset (R14) -/

/-- With nothing stored, the three copies of every entry are its cold-reset value. -/
theorem copies_reset (f : Fld) (i : Nat) : copies State.reset.dev f i = (f.info.reset, f.info.reset, f.info.reset) := rfl

theorem voteHolds_reset (f : Fld) (i : Nat) : voteHolds State.reset.dev f i = true := by
  simp [voteHolds, copies_reset, majority_self_left]

theorem rd_reset (f : Fld) (i : Nat) : rd State.reset.dev f i = f.info.reset := by
  have hh : (votedWith f).all (fun g => voteHolds State.reset.dev g i) = true := List.all_eq_true.2 fun g _ => voteHolds_reset g i
  unfold rd
  rw [hh, copies_reset]
  dsimp only
  rw [majority_self_left]
  split
  · rfl
  · rfl

/-! ### The obligations -/

/-- Settles O7: a plain field stores the value, a voted one in all three copies, and keys of different entries differ. -/
theorem registerWriteRead : Obligations.RegisterWriteRead := by
  unfold Obligations.RegisterWriteRead
  intro d f g i j v
  refine ⟨fun hheld => ?_, fun hother => rd_wr_other d v hother⟩
  cases hv : f.info.voted with
  | false => exact rd_wr_self d f i v hv
  | true => exact rd_wr_voted d f i v hv hheld

/-- Settles O2: the state at reset stores nothing. -/
theorem resetState : Obligations.ResetState := by
  unfold Obligations.ResetState
  exact ⟨rfl, rd_reset, fun a n => readSparse_nil a n, rfl, by decide⟩

/-- Settles O8, by the majority of each pair of copies. -/
theorem votedRead : Obligations.VotedRead := by
  unfold Obligations.VotedRead
  intro d f i a b c hv hw hc
  rw [rd_eq_majority hv hw hc]
  refine ⟨?_, ?_, ?_, fun hab hac hbc => ?_⟩
  · rintro rfl; rw [majority_self_left]; rfl
  · rintro rfl; rw [majority_self_outer]; rfl
  · rintro rfl; rw [majority_self_right]; rfl
  · rw [majority_eq_none hab hac hbc]; rfl

end Sys2Proof.Machine
end

section
/-!
Answers of commands, and O37: a DDR5 channel's failure and compressed regions (R194, R198).
-/
namespace Sys2Proof.Machine

/-! ### How a command answers -/

theorem answers_act {c : Instr} {s : State} {n : String} {b : Bool} {e : Dev} (h : exec c s = act s n b e) (hb : b = true) :
    Answers c s e := by
  subst hb
  exact h.trans (act_true s n e)

theorem answers_cmd {c : Instr} {s : State} {n : String} {b : Bool} {e : Dev} (h : exec c s = cmd s n b e) (hb : b = true) :
    Answers c s e := by
  subst hb
  exact h.trans (cmd_true s n e)

/-- A register command that is taken has its effect. -/
theorem answers_drv {c : Instr} {s : State} {n : String} {b : Bool} {e : Dev} (h : exec c s = drv s n b e) (hb : b = true)
    (ht : takesDriver s.dev) : Answers c s e := by
  subst hb
  exact h.trans (drv_runs ht.1 ht.2)

/-! ### Codes move, registers do not -/

/-- A chain of updates that each leave an entry's reading leaves it. -/
theorem rd_foldl {α : Type} {g : Dev → α → Dev} {f : Fld} {i : Nat} (h : ∀ d x, rd (g d x) f i = rd d f i) (l : List α) (d : Dev) :
    rd (l.foldl g d) f i = rd d f i := by
  induction l generalizing d with
  | nil => rfl
  | cons x t ih => exact (ih (g d x)).trans (h d x)

theorem rd_setCode (d : Dev) (ix c : Nat) (f : Fld) (i : Nat) : rd (setCode d ix c) f i = rd d f i := by
  unfold setCode
  dsimp only
  split
  · rfl
  · exact rd_onMem d _ f i

theorem rd_cmpExpand (d : Dev) (k : Nat) (f : Fld) (i : Nat) : rd (cmpExpand d k) f i = rd d f i :=
  rd_foldl (fun d _ => rd_setCode d _ 3 f i) _ d

theorem rd_moveCodes (d : Dev) (l : List (Nat × List Nat)) (f : Fld) (i : Nat) : rd (moveCodes d l) f i = rd d f i := by
  unfold moveCodes
  refine rd_foldl (fun d r => ?_) l d
  refine rd_foldl (fun d c => ?_) r.2.zipIdx d
  exact rd_setCode d _ c.1 f i

/-- Setting ENABLE of a region writes that entry alone among the registers. -/
theorem rd_setRegion (d : Dev) (k v : Nat) (f : Fld) (i : Nat) : rd (setRegion d k v) f i = rd (wr d .memoryCmpRegionEnable k v) f i := by
  unfold setRegion
  exact rd_moveCodes _ _ f i

/-! ### What the commands do to the registers -/

/-- The registers after a channel's failure: STATE 3 and one entry on its way. -/
theorem rd_channelFail (d : Dev) (c : Nat) (f : Fld) (i : Nat) : rd (channelFail d c) f i = rd (wr d .memoryDdrStatState c 3) f i := by
  unfold channelFail memEvent
  exact rd_postEq _ _ _ f i

/-- The registers after a region has been enabled. -/
theorem rd_cmpEnableEffect {d : Dev} {k : Nat} (he : isSet d .memoryCmpRegionEnable k = false) (hr : cmpRefused d k = false) (f : Fld)
    (i : Nat) : rd (cmpEnableEffect d k) f i =
      rd (wr (setRegion (wr d .memoryCmpRegionRefused k 0) k 1) .memoryCmpRegionBusy k 1) f i := by
  simp only [cmpEnableEffect, he, hr, Bool.false_eq_true, if_false]
  exact rd_cmpExpand _ _ f i

theorem keepsRegs_setRegion {d e : Dev} {l : List (Fld × Nat)} {k v : Nat} (h : keepsRegs d e l)
    (hk : (Fld.memoryCmpRegionEnable, k) ∈ l) : keepsRegs d (setRegion e k v) l :=
  keepsRegs_of_rd (keepsRegs_wr h hk) (rd_setRegion e k v)

/-- What a refused enable leaves. -/
theorem cmpEnableEffect_refused {d : Dev} {k : Nat} (he : isSet d .memoryCmpRegionEnable k = false) (hr : cmpRefused d k = true) :
    cmpEnableEffect d k = wr d .memoryCmpRegionRefused k 1 := by
  simp only [cmpEnableEffect, he, hr, Bool.false_eq_true, if_false, if_true]

/-- An enable that no rule breaks clears REFUSED and sets ENABLE and BUSY. -/
theorem cmpEnableEffect_taken {d : Dev} {k : Nat} (he : isSet d .memoryCmpRegionEnable k = false) (hr : cmpRefused d k = false) :
    rd (cmpEnableEffect d k) .memoryCmpRegionRefused k = 0 ∧ rd (cmpEnableEffect d k) .memoryCmpRegionEnable k = 1 ∧
    rd (cmpEnableEffect d k) .memoryCmpRegionBusy k = 1 ∧
    keepsRegs d (cmpEnableEffect d k) [(.memoryCmpRegionRefused, k), (.memoryCmpRegionEnable, k), (.memoryCmpRegionBusy, k)] := by
  have h := rd_cmpEnableEffect he hr
  refine ⟨?_, ?_, ?_, keepsRegs_of_rd ?_ h⟩
  · rw [h, rd_wr_ne _ _ rfl (.inl (by decide)), rd_setRegion, rd_wr_ne _ _ rfl (.inl (by decide))]
    exact rd_wr_self _ _ _ _ rfl
  · rw [h, rd_wr_ne _ _ rfl (.inl (by decide)), rd_setRegion]
    exact rd_wr_self _ _ _ _ rfl
  · rw [h]
    exact rd_wr_self _ _ _ _ rfl
  · exact keepsRegs_wr (keepsRegs_setRegion (keepsRegs_wr (keepsRegs_refl d _) (by simp)) (by simp)) (by simp)

/-- Disabling an enabled region clears ENABLE and sets BUSY. -/
theorem cmpDisableEffect_enabled {d : Dev} {k : Nat} (he : isSet d .memoryCmpRegionEnable k = true) :
    rd (cmpDisableEffect d k) .memoryCmpRegionEnable k = 0 ∧ rd (cmpDisableEffect d k) .memoryCmpRegionBusy k = 1 ∧
    keepsRegs d (cmpDisableEffect d k) [(.memoryCmpRegionEnable, k), (.memoryCmpRegionBusy, k)] := by
  have hx : cmpDisableEffect d k = wr (setRegion (cmpExpand d k) k 0) .memoryCmpRegionBusy k 1 := if_pos he
  rw [hx]
  refine ⟨?_, rd_wr_self _ _ _ _ rfl, ?_⟩
  · rw [rd_wr_ne _ _ rfl (.inl (by decide)), rd_setRegion]
    exact rd_wr_self _ _ _ _ rfl
  · exact keepsRegs_wr (keepsRegs_setRegion (keepsRegs_of_rd (keepsRegs_refl d _) (rd_cmpExpand d k)) (by simp)) (by simp)

/-! ### The obligation -/

/-- Settles O37: the registers a command leaves are those of its writes, since codes are kept in memory. -/
theorem ddrAndCompression : Obligations.DdrAndCompression := by
  unfold Obligations.DdrAndCompression
  refine ⟨fun s c hc h1 => ?_, fun s k hk ht => ⟨?_, ?_⟩, fun s k hk hb => ?_⟩
  · refine ⟨channelFail s.dev c, answers_act rfl (by simp [hc, h1]), ?_, keepsRegs_of_rd ?_ (rd_channelFail s.dev c), wr_mem _ _ _ _⟩
    · rw [rd_channelFail]
      exact rd_wr_self _ _ _ _ rfl
    · exact keepsRegs_wr (keepsRegs_refl s.dev _) (.head _)
  · refine ⟨cmpEnableEffect s.dev k, answers_drv rfl (decide_eq_true hk) ht, fun he => if_pos he, fun he hr => ?_,
      fun he hr => cmpEnableEffect_taken he hr⟩
    rw [cmpEnableEffect_refused he hr]
    exact ⟨rd_wr_self _ _ _ _ rfl, onlyRegs_wr (onlyRegs_refl s.dev _) (.head _)⟩
  · refine ⟨cmpDisableEffect s.dev k, answers_drv rfl (decide_eq_true hk) ht, fun he => ?_, fun he => cmpDisableEffect_enabled he⟩
    exact if_neg (by simp [he])
  · exact ⟨wr s.dev .memoryCmpRegionBusy k 0, answers_act rfl (by simp [hk, hb]), rd_wr_self _ _ _ _ rfl,
      onlyRegs_wr (onlyRegs_refl s.dev _) (.head _)⟩

end Sys2Proof.Machine
end

section
/-!
Where the fields of a word of the control window lie (R528, R530): the place of an entry is fixed by its number.
-/
namespace Sys2Proof.Machine

theorem foldl_dims (l : List (Nat × Nat)) (c : Nat) : l.foldl (fun a x => a * x.1) c = c * dimSize l := by
  induction l generalizing c with
  | nil => exact (Nat.mul_one c).symm
  | cons x t ih =>
    unfold dimSize
    rw [List.foldl_cons, List.foldl_cons, ih, ih (1 * x.1), Nat.one_mul, Nat.mul_assoc]

theorem dimSize_cons (x : Nat × Nat) (l : List (Nat × Nat)) : dimSize (x :: l) = x.1 * dimSize l := by
  show l.foldl (fun a x => a * x.1) (1 * x.1) = _
  rw [foldl_dims, Nat.one_mul]

/-- An entry found in a range of bits begins there, at the place its number within the array gives. -/
theorem mem_entriesIn {lo hi : Nat} {dims : List (Nat × Nat)} {pos flat : Nat} {e : Nat × Nat} (h : e ∈ entriesIn lo hi dims pos flat) :
    lo ≤ e.2 ∧ e.2 < hi ∧ ∃ j, j < dimSize dims ∧ e.1 = flat * dimSize dims + j ∧ e.2 = pos + entryBits dims j := by
  induction dims generalizing pos flat with
  | nil =>
    unfold entriesIn at h
    split at h
    · rename_i hin
      obtain rfl := List.mem_singleton.1 h
      exact ⟨hin.1, hin.2, 0, Nat.one_pos, by simp [dimSize], by simp [entryBits]⟩
    · simp at h
  | cons x rest ih =>
    obtain ⟨n, st⟩ := x
    unfold entriesIn at h
    split at h
    · simp at h
    · obtain ⟨i, hi', he⟩ := List.mem_flatMap.1 h
      obtain ⟨r, hr, rfl⟩ := List.mem_map.1 hi'
      have hr := List.mem_range.1 hr
      generalize hI : (lo - pos) / st + r = i at he
      have hin : i < n := by omega
      obtain ⟨hlo, hhi, j, hj, h1, h2⟩ := ih he
      have hD : 0 < dimSize rest := by omega
      refine ⟨hlo, hhi, i * dimSize rest + j, ?_, ?_, ?_⟩
      · rw [dimSize_cons]
        calc i * dimSize rest + j < (i + 1) * dimSize rest := by rw [Nat.add_mul]; omega
          _ ≤ n * dimSize rest := Nat.mul_le_mul_right _ hin
      · rw [h1, dimSize_cons, Nat.add_mul, Nat.mul_assoc, Nat.add_assoc]
      · have hq : (i * dimSize rest + j) / dimSize rest = i := by
          rw [Nat.mul_comm, Nat.mul_add_div hD, Nat.div_eq_of_lt hj, Nat.add_zero]
        have hm : (i * dimSize rest + j) % dimSize rest = j := by
          rw [Nat.mul_comm, Nat.mul_add_mod, Nat.mod_eq_of_lt hj]
        rw [h2, entryBits, hq, hm, Nat.add_assoc]

/-- A field found in the word around an offset begins in it, where its number says. -/
theorem mem_wordFields {off : Nat} {y : FldAt} (h : y ∈ wordFields off) :
    8 * (off / 8 * 8) ≤ y.pos ∧ y.pos < 8 * (off / 8 * 8) + 64 ∧ y.pos = y.fld.info.base + entryBits y.fld.info.dims y.idx := by
  obtain ⟨f, _, hf⟩ := List.mem_flatMap.1 (List.mem_filter.1 h).1
  obtain ⟨e, he, rfl⟩ := List.mem_map.1 hf
  obtain ⟨hlo, hhi, j, _, hj, hp⟩ := mem_entriesIn he
  rw [Nat.zero_mul, Nat.zero_add] at hj
  exact ⟨hlo, hhi, hj ▸ hp⟩

/-- In one word a field and an entry number name one place. -/
theorem wordFields_ext {off : Nat} {y z : FldAt} (hy : y ∈ wordFields off) (hz : z ∈ wordFields off) (hf : y.fld = z.fld)
    (hi : y.idx = z.idx) : y = z := by
  have hp : y.pos = z.pos := by rw [(mem_wordFields hy).2.2, (mem_wordFields hz).2.2, hf, hi]
  cases y; cases z; simp_all

theorem wordFields_eq_of_word {a b : Nat} (h : a / 8 = b / 8) : wordFields a = wordFields b := by
  simp only [wordFields, h]

/-- Every field has a bit. -/
theorem width_pos (f : Fld) : 0 < f.info.width := by cases f <;> decide

/-- A write that covers a field meets it. -/
theorem meetsField_of_holdsField {w : RegWrite} {y : FldAt} (h : holdsField w y = true) : meetsField w y = true := by
  have hw := width_pos y.fld
  obtain ⟨h1, h2⟩ := of_decide_eq_true h
  exact decide_eq_true ⟨by omega, by omega⟩

/-- What a write carries for a field fits it. -/
theorem carried_lt (w : RegWrite) (y : FldAt) : carried w y < 2 ^ y.fld.info.width := Nat.mod_lt _ (Nat.two_pow_pos _)

end Sys2Proof.Machine
end

section
/-!
Writes of plain fields (R14): registers that are RW, whose write is no command and has no effect elsewhere.
-/
namespace Sys2Proof.Machine

/-- RW fields whose new value changes other state. -/
def sideFlds : List Fld :=
  [.timeSetNs, .timeStepNs, .xlateCmdqDoorbell, .transportPathsetInvalSet, .meshNodeMapInvalNode, .yewTableInvalAll,
   .topiaryMeterCir, .topiaryMeterPir, .topiaryMeterCbs, .topiaryMeterPbs, .transportQpcDirValid, .transportQpcDirHost,
   .transportQpcDirBase, .portsubRawCfgRxEn, .portsubRawCfgTxEn]

/-- A field whose write sets it and does nothing else. -/
def plainFld (f : Fld) : Bool := decide (f.info.access = .rw ∧ isCommand f = false ∧ f ∉ sideFlds)

theorem plainFld_iff {f : Fld} : plainFld f = true ↔ f.info.access = .rw ∧ isCommand f = false ∧ f ∉ sideFlds := decide_eq_true_iff

/-- No RW field is held as voted copies (R537). -/
theorem voted_eq_false_of_rw (f : Fld) (h : f.info.access = .rw) : f.info.voted = false := by revert h; cases f <;> decide

/-! ### One plain field -/

theorem plainField_plain {w : RegWrite} {y : FldAt} (h : plainFld y.fld = true) (d : Dev) :
    plainField w d y = wr d y.fld y.idx (carried w y) := by
  obtain ⟨hrw, hc, _⟩ := plainFld_iff.1 h
  simp [plainField, hrw, hc]

/-- The new value of a plain field changes nothing elsewhere. -/
theorem follow_plain {w : RegWrite} {y : FldAt} (h : plainFld y.fld = true) (d : Dev) : follow w d y = d := by
  obtain ⟨f, i, p⟩ := y
  dsimp only at h
  have hrw := (plainFld_iff.1 h).1
  unfold follow
  dsimp only
  split
  rotate_right
  · exact if_neg (by rw [hrw]; decide)
  all_goals exact absurd h (by decide)

/-- The write of a plain field is no command. -/
theorem fieldCommand_plain {f : Fld} (h : plainFld f = true) (d : Dev) (i v : Nat) : fieldCommand d f i v = d := by
  unfold fieldCommand
  split
  rotate_right
  · rfl
  all_goals exact absurd h (by decide)

end Sys2Proof.Machine
end

section
/-!
The whole of a plain write, from its fields to the register file (R14, R17, R530).
-/
namespace Sys2Proof.Machine

/-! ### A chain of plain fields -/

section
variable {w : RegWrite} {l : List FldAt}

theorem onlyRegs_plainFields {d e : Dev} {L : List (Fld × Nat)} (hp : ∀ y ∈ l, plainFld y.fld = true)
    (hL : ∀ y ∈ l, (y.fld, y.idx) ∈ L) (h : onlyRegs d e L) : onlyRegs d (l.foldl (plainField w) e) L := by
  induction l generalizing e with
  | nil => exact h
  | cons y t ih =>
    rw [List.foldl_cons, plainField_plain (hp y (.head _))]
    exact ih (fun z hz => hp z (.tail _ hz)) (fun z hz => hL z (.tail _ hz)) (onlyRegs_wr h (hL y (.head _)))

/-- A chain of plain fields leaves `v` in an entry that holds it before, or that one of them names, when each that names the
entry carries `v`. -/
theorem rd_plainFields {d : Dev} {f : Fld} {i v : Nat} (hp : ∀ y ∈ l, plainFld y.fld = true) (hf : f.info.voted = false)
    (hv : ∀ y ∈ l, y.fld = f → y.idx = i → carried w y = v) (h : rd d f i = v ∨ ∃ y ∈ l, y.fld = f ∧ y.idx = i) :
    rd (l.foldl (plainField w) d) f i = v := by
  induction l generalizing d with
  | nil => simpa using h
  | cons y t ih =>
    rw [List.foldl_cons, plainField_plain (hp y (.head _))]
    refine ih (fun z hz => hp z (.tail _ hz)) (fun z hz => hv z (.tail _ hz)) ?_
    by_cases hy : y.fld = f ∧ y.idx = i
    · obtain ⟨rfl, rfl⟩ := hy
      left
      rw [rd_wr_self _ _ _ _ hf, Nat.mod_eq_of_lt (carried_lt w y), hv y (.head _) rfl rfl]
    · rw [rd_wr d y.idx i _ hf, if_neg fun e => hy ⟨e.1.symm, e.2.symm⟩]
      refine h.imp id ?_
      rintro ⟨z, hz, hzf⟩
      rcases List.mem_cons.1 hz with rfl | hz
      · exact absurd hzf hy
      · exact ⟨z, hz, hzf⟩

theorem follow_plainFields (hp : ∀ y ∈ l, plainFld y.fld = true) (d : Dev) : l.foldl (follow w) d = d := by
  induction l generalizing d with
  | nil => rfl
  | cons y t ih =>
    rw [List.foldl_cons, follow_plain (hp y (.head _))]
    exact ih (fun z hz => hp z (.tail _ hz)) d

theorem fieldCommand_plainFields (hp : ∀ y ∈ l, plainFld y.fld = true) (d : Dev) :
    l.foldl (fun d e => fieldCommand d e.fld e.idx (carried w e)) d = d := by
  induction l generalizing d with
  | nil => rfl
  | cons y t ih =>
    rw [List.foldl_cons, fieldCommand_plain (hp y (.head _))]
    exact ih (fun z hz => hp z (.tail _ hz)) d

end

/-! ### A write that meets plain fields only -/

/-- The fields a write meets are plain, and it covers them whole. -/
def plainWrite (w : RegWrite) : Prop := ∀ y ∈ wordFields w.off, meetsField w y = true → holdsField w y = true ∧ plainFld y.fld = true

/-- The fields a write covers. -/
def heldFields (w : RegWrite) : List FldAt := (wordFields w.off).filter (holdsField w)

theorem plainFld_of_mem_heldFields {w : RegWrite} (hw : plainWrite w) {y : FldAt} (hy : y ∈ heldFields w) : plainFld y.fld = true := by
  obtain ⟨hm, hh⟩ := List.mem_filter.1 hy
  exact (hw y hm (meetsField_of_holdsField hh)).2

/-- A plain write carries no value for a field that is not plain. -/
theorem carriedFor_plain {w : RegWrite} (hw : plainWrite w) {f : Fld} (hf : plainFld f = false) : carriedFor w f = none := by
  unfold carriedFor
  rw [Option.map_eq_none_iff, List.find?_eq_none]
  intro y hy h
  obtain ⟨hyf, hh⟩ := Bool.and_eq_true_iff.1 h
  have hp := (hw y hy (meetsField_of_holdsField hh)).2
  rw [beq_iff_eq.1 hyf, hf] at hp
  exact Bool.false_ne_true hp

/-- Every field of the word of XLATE.CMDQ_CFG is a command. -/
theorem isCommand_cmdqWord {off : Nat} {x y : FldAt} (hx : x ∈ wordFields off) (hf : x.fld = .xlateCmdqCfgEnable)
    (hy : y ∈ wordFields off) : isCommand y.fld = true := by
  obtain ⟨hlo, hhi, hp⟩ := mem_wordFields hx
  rw [hf] at hp
  have hpos : x.pos = 33554500 := hp
  have hw : wordFields off = wordFields 4194312 := wordFields_eq_of_word (by omega)
  rw [hw] at hy
  have hall : (wordFields 4194312).all (fun y => isCommand y.fld) = true := by decide +kernel
  exact List.all_eq_true.1 hall y hy

section
variable {d : Dev} {w : RegWrite} (hw : plainWrite w)
include hw

/-- A plain write of the word of XLATE.CMDQ_CFG covers no field of it. -/
theorem cmdqWrite_plain (hc : ((wordFields w.off).any fun e => e.fld == .xlateCmdqCfgEnable) = true) :
    cmdqWrite d w = ((heldFields w).foldl (plainField w) d, .applied) := by
  obtain ⟨x, hx, hxf⟩ := List.any_eq_true.1 hc
  have hnil : heldFields w = [] := List.eq_nil_iff_forall_not_mem.2 fun y hy => by
    have hp := (plainFld_iff.1 (plainFld_of_mem_heldFields hw hy)).2.1
    rw [isCommand_cmdqWord hx (beq_iff_eq.1 hxf) (List.mem_filter.1 hy).1] at hp
    exact Bool.false_ne_true hp.symm
  unfold cmdqWrite
  rw [carriedFor_plain hw (by decide), hnil]
  rfl

theorem limitStops_plain : limitStops d w = none := by
  unfold limitStops
  rw [carriedFor_plain hw (f := .powerLimitSustainedW) (by decide), carriedFor_plain hw (f := .powerSealFloor) (by decide)]

theorem setLimits_plain : setLimits d w = d := by
  unfold setLimits
  rw [carriedFor_plain hw (f := .powerLimitSustainedW) (by decide), carriedFor_plain hw (f := .powerSealFloor) (by decide)]

theorem slotQuota_plain (d' : Dev) : slotQuota d d' w = none := by
  unfold slotQuota
  rw [carriedFor_plain hw (by decide)]
  rfl

theorem bootCtrl_plain : bootCtrl d w = d := by
  unfold bootCtrl
  rw [carriedFor_plain hw (f := .bootCtrlCold) (by decide), carriedFor_plain hw (f := .bootCtrlWarm) (by decide)]
  simp

theorem regApply_plain (hs : sealedOnes d = []) : regApply d w = ((heldFields w).foldl (plainField w) d, .applied) := by
  have hp : ∀ y ∈ heldFields w, plainFld y.fld = true := fun y hy => plainFld_of_mem_heldFields hw hy
  unfold heldFields at hp ⊢
  simp only [regApply, setLimits_plain hw, slotQuota_plain hw, hs, List.isEmpty_nil, Bool.not_true, Bool.false_and, Bool.false_eq_true,
    if_false, follow_plainFields hp, fieldCommand_plainFields hp, bootCtrl_plain hw]

/-- A plain write that no rule discards sets the fields it covers, and is applied. -/
theorem regWrite_plain (hs : sealedOnes d = []) (hl : (wordFields w.off).any (lockedNow d) = false) (hg : gateLocked d w = none) :
    regWrite d w = ((heldFields w).foldl (plainField w) d, .applied) := by
  have hcut : ((wordFields w.off).any fun e => meetsField w e && !holdsField w e) = false := by
    refine List.any_eq_false.2 fun y hy h => ?_
    obtain ⟨hm, hh⟩ := Bool.and_eq_true_iff.1 h
    rw [(hw y hy hm).1] at hh
    exact Bool.false_ne_true hh
  unfold regWrite
  simp only [hcut, hl, hg, limitStops_plain hw, carriedFor_plain hw (f := .meshRouteWrCmdCommit) (by decide), Option.isSome_none,
    Bool.false_eq_true, if_false, regApply_plain hw hs]
  split
  · rename_i hc
    exact cmdqWrite_plain hw hc
  · rfl

/-- Every field a plain write covers takes the value it carries, and nothing else changes. -/
theorem heldFields_written : (∀ y ∈ heldFields w, rd ((heldFields w).foldl (plainField w) d) y.fld y.idx = carried w y) ∧
    onlyRegs d ((heldFields w).foldl (plainField w) d) ((heldFields w).map fun y => (y.fld, y.idx)) := by
  have hp : ∀ y ∈ heldFields w, plainFld y.fld = true := fun y hy => plainFld_of_mem_heldFields hw hy
  refine ⟨fun y hy => ?_, onlyRegs_plainFields hp (fun y hy => List.mem_map.2 ⟨y, hy, rfl⟩) (onlyRegs_refl d _)⟩
  refine rd_plainFields hp (voted_eq_false_of_rw _ (plainFld_iff.1 (hp y hy)).1) (fun z hz hf hi => ?_) (.inr ⟨y, hy, rfl, rfl⟩)
  rw [wordFields_ext (List.mem_filter.1 hz).1 (List.mem_filter.1 hy).1 hf hi]

end

/-- A write of an assigned register that is no doorbell and no posted write is a register write. -/
theorem nativeWrite_register {d : Dev} {w : RegWrite} (hp : isPosted w = false) (hd : doorbell w.off w.width = none)
    (ha : accessOk w.off w.width = true) (hr : assigned w = true) : nativeWrite d w = regWrite d w := by
  simp [nativeWrite, hp, hd, ha, hr]

/-- The one field in the word of DISPATCH.WAIT_TIMEOUT (R89). -/
def waitTimeoutAt : FldAt := { fld := .dispatchWaitTimeout, idx := 0, pos := 67108928 }

theorem wordFields_waitTimeout : wordFields 0x800008 = [waitTimeoutAt] := by decide +kernel

theorem doorbell_waitTimeout {width : Nat} (h : width = 4 ∨ width = 8) : doorbell 0x800008 width = none := by
  rcases h with rfl | rfl
  · decide +kernel
  · decide +kernel

theorem holdsField_waitTimeout {w : RegWrite} (ho : w.off = 0x800008) (hw : w.width = 4 ∨ w.width = 8) :
    holdsField w waitTimeoutAt = true := by
  refine decide_eq_true ?_
  have hp : waitTimeoutAt.pos = 67108928 := rfl
  have hb : waitTimeoutAt.fld.info.width = 32 := rfl
  omega

theorem carried_waitTimeout {w : RegWrite} (ho : w.off = 0x800008) : carried w waitTimeoutAt = w.val % 2 ^ 32 := by
  have hp : waitTimeoutAt.pos - 8 * w.off = 0 := by rw [ho]; rfl
  unfold carried cut
  rw [hp]
  rfl

/-- DISPATCH.WAIT_TIMEOUT takes what a write of its 4 bytes, or of its aligned 8, carries for it (R89). -/
theorem nativeWrite_waitTimeout {d : Dev} {w : RegWrite} (ho : w.off = 0x800008) (hw : w.width = 4 ∨ w.width = 8)
    (hs : sealedOnes d = []) : nativeWrite d w = (wr d .dispatchWaitTimeout 0 (w.val % 2 ^ 32), .applied) := by
  have hword : wordFields w.off = [waitTimeoutAt] := by rw [ho]; exact wordFields_waitTimeout
  have hholds := holdsField_waitTimeout ho hw
  have hpl : plainFld waitTimeoutAt.fld = true := by decide
  have hplain : plainWrite w := by
    unfold plainWrite
    rw [hword]
    rintro y hy -
    obtain rfl := List.mem_singleton.1 hy
    exact ⟨hholds, hpl⟩
  have hheld : heldFields w = [waitTimeoutAt] := by
    unfold heldFields
    rw [hword]
    exact List.filter_cons_of_pos hholds
  have hreg : nativeWrite d w = regWrite d w := by
    refine nativeWrite_register ?_ (ho ▸ doorbell_waitTimeout hw) ?_ ?_
    · simp [isPosted, inMirror, mirrorBase, ho]
    · rcases hw with h | h <;> simp [accessOk, ho, h]
    · simp [assigned, inCompat, ho, wordFields_waitTimeout]
  have hlock : (wordFields w.off).any (lockedNow d) = false := by rw [hword]; rfl
  have hgate : gateLocked d w = none := by unfold gateLocked; rw [hword]; rfl
  rw [hreg, regWrite_plain hplain hs hlock hgate, hheld, List.foldl_cons, List.foldl_nil, plainField_plain hpl, carried_waitTimeout ho]
  rfl

end Sys2Proof.Machine
end

section
/-!
Accesses of the host link, of the COMPAT window and of the management connector (R376, R529 to R542, R553 to R557), and O60.
-/
namespace Sys2Proof.Machine

/-! ### Frames -/

theorem rd_bump_self (d : Dev) (f : Fld) (i n : Nat) (hf : f.info.voted = false) :
    rd (bump d f i n) f i = (rd d f i + n) % 2 ^ f.info.width := rd_wr_self _ _ _ _ hf

/-- A flag that is written 1 is set. -/
theorem isSet_wr_one (d : Dev) (f : Fld) (i : Nat) (hf : f.info.voted = false) (hw : f.info.width = 1) : isSet (wr d f i 1) f i = true := by
  unfold isSet
  rw [rd_wr_self _ _ _ _ hf, hw]
  rfl

/-- What leaves the block changes no register. -/
theorem onlyRegs_emit {d e : Dev} {l : List (Fld × Nat)} (h : onlyRegs d e l) (o : Out) :
    onlyRegs { d with out := (emit e o).out } (emit e o) l :=
  ⟨congrArg (fun x : Dev => { x with out := (emit e o).out }) h.1, fun f i hf => h.2 f i hf⟩

/-- A shadow is no register in effect (R15). -/
theorem onlyRegs_shadow {d e : Dev} {l : List (Fld × Nat)} (h : onlyRegs d e l) (m : KMap Nat) :
    onlyRegs { d with shadow := m } { e with shadow := m } l :=
  ⟨congrArg (fun x : Dev => { x with shadow := m }) h.1, fun f i hf => h.2 f i hf⟩

/-! ### Discarded writes (R17, R545) -/

theorem rd_discardWrite (d : Dev) (src off part : Nat) :
    rd (discardWrite d src off part) .discardedWrites 0 = (rd d .discardedWrites 0 + 1) % 2 ^ 32 ∧
    rd (discardWrite d src off part) .lastDiscardOffset 0 = off % 2 ^ 26 ∧
    rd (discardWrite d src off part) .lastDiscardSource 0 = src % 2 ^ 2 := by
  unfold discardWrite
  refine ⟨?_, ?_, ?_⟩
  · rw [rd_wr_ne _ _ rfl (.inl (by decide)), rd_wr_ne _ _ rfl (.inl (by decide)), rd_wr_ne _ _ rfl (.inl (by decide))]
    exact rd_bump_self _ _ _ _ rfl
  · rw [rd_wr_ne _ _ rfl (.inl (by decide)), rd_wr_ne _ _ rfl (.inl (by decide))]
    exact rd_wr_self _ _ _ _ rfl
  · rw [rd_wr_ne _ _ rfl (.inl (by decide))]
    exact rd_wr_self _ _ _ _ rfl

theorem onlyRegs_discardWrite (d : Dev) (src off part : Nat) : onlyRegs d (discardWrite d src off part)
    [(.discardedWrites, 0), (.lastDiscardOffset, 0), (.lastDiscardSource, 0), (.lastDiscardPartition, 0)] :=
  onlyRegs_wr (onlyRegs_wr (onlyRegs_wr (onlyRegs_bump (onlyRegs_refl d _) (by simp)) (by simp)) (by simp)) (by simp)

@[simp] theorem discardWrite_out (d : Dev) (src off part : Nat) : (discardWrite d src off part).out = d.out := by
  simp [discardWrite, bump]

/-! ### Which accesses act (R471, R513, R531) -/

theorem stage_ne_holdback {d : Dev} (h : serving d = true) : rd d .bootStatusStage ≠ 15 := by
  have h8 : rd d .bootStatusStage = 8 := beq_iff_eq.1 h
  rw [h8]
  decide

/-- Outside holdback and halt a write goes to its register. -/
theorem gatedWrite_runs {d : Dev} {w : RegWrite} (hb : rd d .bootStatusStage ≠ 15) (hh : isSet d .safetyStatusHalted = false) :
    gatedWrite d w = nativeWrite d w := by
  simp [gatedWrite, hb, hh]

/-- A write that nothing delays and no state of the device refuses goes to its register. -/
theorem arrive_runs {d : Dev} {src : Source} {off width val : Nat} (hw : waitsBehind d src = false) (hs : stallsNow d off width = false)
    (hb : rd d .bootStatusStage ≠ 15) (hh : isSet d .safetyStatusHalted = false) :
    arrive d src off width val = nativeWrite d { src := src, part := actsFor src off, off := off, width := width, val := val } := by
  unfold arrive
  rw [hw, hs]
  exact gatedWrite_runs hb hh

/-- A write behind a stalled one of its source joins those that wait. -/
theorem arrive_waits {d : Dev} {src : Source} {off width val : Nat} (hw : waitsBehind d src = true) :
    arrive d src off width val =
      (onAcc d fun a => { a with held := a.held ++ [{ src := src, off := off, width := width, val := some val }] }, .waits) := by
  unfold arrive
  rw [hw]
  rfl

theorem stallsNow_of_not_accessOk {d : Dev} {off width : Nat} (h : accessOk off width = false) : stallsNow d off width = false := by
  simp [stallsNow, h]

theorem stallsNow_waitTimeout (d : Dev) (width : Nat) : stallsNow d 0x800008 width = false := by simp [stallsNow]

/-! ### Register writes of the host link (R14 to R17, R470, R529, R530) -/

section
variable {d : Dev} {m fn rid off width val : Nat}

theorem outsideWrite_absent (h : serving d = false ∨ fnPresent d fn = false) : outsideWrite d (.host m fn rid) off width val = d := by
  rcases h with h | h <;> simp [outsideWrite, h]

theorem outsideWrite_foreign (hs : serving d = true) (hf : fnPresent d fn = true) (hr : hostRid d rid = false) :
    outsideWrite d (.host m fn rid) off width val = bump d .hlPeerRefused := by
  simp [outsideWrite, hs, hf, hr]

theorem outsideWrite_host (hs : serving d = true) (hf : fnPresent d fn = true) (hr : hostRid d rid = true) :
    outsideWrite d (.host m fn rid) off width val = (arrive d (.host m fn rid) (hostOffset fn off) width val).1 := by
  simp [outsideWrite, hs, hf, hr]

/-- A write of the host that nothing delays is the write of its register. -/
theorem outsideWrite_runs (hs : serving d = true) (hf : fnPresent d fn = true) (hr : hostRid d rid = true)
    (hw : waitsBehind d (.host m fn rid) = false) (hh : isSet d .safetyStatusHalted = false)
    (hst : stallsNow d (hostOffset fn off) width = false) :
    outsideWrite d (.host m fn rid) off width val =
      (nativeWrite d { src := .host m fn rid, part := actsFor (.host m fn rid) (hostOffset fn off), off := hostOffset fn off,
                       width := width, val := val }).1 := by
  rw [outsideWrite_host hs hf hr, arrive_runs hw hst (stage_ne_holdback hs) hh]

end

/-- Outside the COMPAT block a write of no width and alignment of R530 that meets no doorbell is discarded. -/
theorem nativeWrite_discards {d : Dev} {w : RegWrite} (hd : doorbell w.off w.width = none) (hc : inCompat w.off = false)
    (ha : accessOk w.off w.width = false) : nativeWrite d w = (discard d w, .discarded) := by
  have hout := of_decide_eq_false hc
  have hm : inMirror w.off = false := decide_eq_false (by unfold mirrorBase; omega)
  simp [nativeWrite, isPosted, hm, hd, ha]

theorem module_lt_of_canReach {d : Dev} {m fn rid off width : Nat} (h : canReach d (.host m fn rid) off width = true) : m < 2 := by
  simp only [canReach, Bool.and_eq_true, decide_eq_true_eq] at h
  exact h.1.1

/-! ### Stalled writes (R532) -/

/-- The stalled write `h` given up: the counter, the flag, its I3C answer. -/
def givenUp (d : Dev) (h : HeldAcc) (t : List HeldAcc) : Dev :=
  let x := wr (bump (onAcc d fun a => { a with held := t }) .stallTimeouts) .accessStatusStallTimeout 0 1
  if h.src = .i3c then i3cStatus (x, .dropped) else x

theorem stallTimeout_eq {pm : Perm} {d : Dev} {h : HeldAcc} {t : List HeldAcc} (hd : d.acc.held = h :: t) :
    stallTimeout pm d = releaseAll pm (givenUp d h t) := by
  unfold stallTimeout
  rw [hd]
  rfl

/-- The answer of a discarded write leaves accesses and registers. -/
theorem i3cStatus_dropped (d : Dev) : ∃ n, i3cStatus (d, .dropped) = emit (choose d 3).2 (.i3c [n]) := ⟨_, rfl⟩

/-- The counted timeout before the answer. -/
theorem givenUp_counts (d : Dev) (t : List HeldAcc) :
    let x := wr (bump (onAcc d fun a => { a with held := t }) .stallTimeouts) .accessStatusStallTimeout 0 1
    x.acc = { d.acc with held := t } ∧ rd x .stallTimeouts 0 = (rd d .stallTimeouts 0 + 1) % 2 ^ 32 ∧
    isSet x .accessStatusStallTimeout 0 = true ∧
    onlyRegs { d with acc := x.acc } x [(.stallTimeouts, 0), (.accessStatusStallTimeout, 0)] := by
  intro x
  have hacc : x.acc = { d.acc with held := t } := by simp [x, bump, onAcc]
  refine ⟨hacc, ?_, isSet_wr_one _ _ _ rfl rfl, ?_⟩
  · rw [rd_wr_ne _ _ rfl (.inl (by decide))]
    exact rd_bump_self _ _ _ _ rfl
  · rw [hacc]
    exact onlyRegs_wr (onlyRegs_bump (onlyRegs_refl _ _) (.head _)) (.tail _ (.head _))

theorem givenUp_spec (d : Dev) (h : HeldAcc) (t : List HeldAcc) : (givenUp d h t).acc.held = t ∧
    rd (givenUp d h t) .stallTimeouts 0 = (rd d .stallTimeouts 0 + 1) % 2 ^ 32 ∧
    isSet (givenUp d h t) .accessStatusStallTimeout 0 = true ∧
    (h.src ≠ .i3c → onlyRegs { d with acc := (givenUp d h t).acc } (givenUp d h t) [(.stallTimeouts, 0), (.accessStatusStallTimeout, 0)]) := by
  obtain ⟨hacc, hcount, hflag, honly⟩ := givenUp_counts d t
  unfold givenUp
  dsimp only
  split
  · rename_i hi
    obtain ⟨n, hn⟩ := i3cStatus_dropped (wr (bump (onAcc d fun a => { a with held := t }) .stallTimeouts) .accessStatusStallTimeout 0 1)
    rw [hn]
    exact ⟨congrArg AccSt.held hacc, hcount, hflag, fun hn => absurd hi hn⟩
  · exact ⟨congrArg AccSt.held hacc, hcount, hflag, fun _ => honly⟩

/-! ### COMMIT (R536) -/

theorem commitGo_none {d : Dev} (h : find? d.shadow (fkey .mgmtAlertMask 0) = none) : commitGo d = d := by
  unfold commitGo
  rw [h]

/-- The shadow takes effect, and is a shadow no more. -/
theorem commitGo_some {d : Dev} {v : Nat} (h : find? d.shadow (fkey .mgmtAlertMask 0) = some v) :
    rd (commitGo d) .mgmtAlertMask 0 = v % 2 ^ 8 ∧ find? (commitGo d).shadow (fkey .mgmtAlertMask 0) = none ∧
    onlyRegs { d with shadow := (commitGo d).shadow } (commitGo d) [(.mgmtAlertMask, 0)] := by
  have hx : commitGo d = { wr d .mgmtAlertMask 0 v with shadow := del d.shadow (fkey .mgmtAlertMask 0) } := by
    unfold commitGo
    rw [h]
  rw [hx]
  refine ⟨rd_wr_self d .mgmtAlertMask 0 v rfl, find?_del_self _ _, ?_⟩
  exact onlyRegs_shadow (onlyRegs_wr (onlyRegs_refl d _) (.head _)) _

/-! ### Reads of device time (R376) -/

theorem timeRead_now {d : Dev} {src : Source} (hw : waitsBehind d src = false)
    (hh : ∀ m fn rid, src = .host m fn rid → serving d = true ∧ fnPresent d fn = true ∧ hostRid d rid = true) :
    timeRead d src = timeReadNow d src := by
  cases src with
  | host m fn rid =>
    obtain ⟨hs, hf, hr⟩ := hh m fn rid rfl
    simp [timeRead, hs, hf, hr, hw]
  | i3c => simp [timeRead, hw]
  | compat => simp [timeRead, hw]
  | sequencer => simp [timeRead, hw]

theorem timeReadNow_spec (d : Dev) (src : Source) : (timeReadNow d src).out = .regRead src 0x50000 (now d) :: d.out ∧
    rd (timeReadNow d src) .timeNowFrac 0 = d.port.frac % 2 ^ 32 ∧
    onlyRegs { d with out := (timeReadNow d src).out } (timeReadNow d src) [(.timeNowFrac, 0)] := by
  refine ⟨by simp [timeReadNow, timeLatch], rd_wr_self d .timeNowFrac 0 d.port.frac rfl, ?_⟩
  exact onlyRegs_emit (onlyRegs_wr (onlyRegs_refl d _) (.head _)) _

/-! ### The COMPAT window (R541, R542) -/

@[simp] theorem compatShow_acc (d : Dev) : (compatShow d).acc = d.acc := by simp [compatShow]

theorem onlyRegs_compatShow (d : Dev) : onlyRegs d (compatShow d) [(.compatStatusBusy, 0), (.compatStatusQueued, 0)] :=
  onlyRegs_wr (onlyRegs_wr (onlyRegs_refl d _) (.head _)) (.tail _ (.head _))

theorem rd_compatStatusQueued (d : Dev) : rd (compatShow d) .compatStatusQueued 0 = d.acc.posted.length % 2 ^ 7 := rd_wr_self _ _ _ _ rfl

/-- BUSY and QUEUED are all that is shown. -/
theorem rd_compatShow_ne (d : Dev) {f : Fld} (i : Nat) (hf : f.info.voted = false) (hb : f ≠ .compatStatusBusy)
    (hq : f ≠ .compatStatusQueued) : rd (compatShow d) f i = rd d f i := by
  unfold compatShow
  rw [rd_wr_ne _ _ hf (.inl hq), rd_wr_ne _ _ hf (.inl hb)]

theorem compatQueue_room {d : Dev} {w : PostedWrite} (h : d.acc.posted.length < 64) :
    compatQueue d w = onAcc d fun a => { a with posted := a.posted ++ [w] } := if_pos h

theorem compatQueue_full {d : Dev} {w : PostedWrite} (h : 64 ≤ d.acc.posted.length) :
    compatQueue d w = wr (bump d .compatDiscards) .compatStatusOverflow 0 1 := if_neg (by omega)

theorem compatPosted_none {d : Dev} {off val : Nat} (h : d.acc.half = none) : compatPosted d off val = compatShow (compatPlain d off val) := by
  unfold compatPosted
  rw [h]

/-- A lower half of a register with a field across its halves is held. -/
theorem compatPosted_half {d : Dev} {off val : Nat} (h : d.acc.half = none) (ha : off % 8 = 0) (hc : crosses32 off = true) :
    (compatPosted d off val).acc = { d.acc with half := some (off, val) } := by
  rw [compatPosted_none h, compatPlain, if_pos ⟨ha, hc⟩, compatShow_acc]
  rfl

/-- Any other write goes to the queue. -/
theorem compatPosted_queue {d : Dev} {off val : Nat} (h : d.acc.half = none) (hp : off % 8 ≠ 0 ∨ crosses32 off = false) :
    compatPosted d off val = compatShow (compatQueue d { off := off, width := 4, val := val }) := by
  have hn : ¬ (off % 8 = 0 ∧ crosses32 off = true) := fun ⟨ha, hc⟩ => by
    rcases hp with hp | hp
    · exact hp ha
    · rw [hp] at hc; exact Bool.false_ne_true hc
  rw [compatPosted_none h, compatPlain, if_neg hn]

/-- A write that finds the queue full is discarded, counted and shown. -/
theorem compatShow_full {d : Dev} {w : PostedWrite} (h : 64 ≤ d.acc.posted.length) :
    (compatShow (compatQueue d w)).acc = d.acc ∧ isSet (compatShow (compatQueue d w)) .compatStatusOverflow 0 = true ∧
    rd (compatShow (compatQueue d w)) .compatDiscards 0 = (rd d .compatDiscards 0 + 1) % 2 ^ 32 := by
  rw [compatQueue_full h]
  refine ⟨by simp [bump], ?_, ?_⟩
  · unfold isSet
    rw [rd_compatShow_ne _ _ rfl (by decide) (by decide)]
    exact isSet_wr_one _ _ _ rfl rfl
  · rw [rd_compatShow_ne _ _ rfl (by decide) (by decide), rd_wr_ne _ _ rfl (.inl (by decide))]
    exact rd_bump_self _ _ _ _ rfl

/-- The upper half of the held one joins it as one write of 8 bytes. -/
theorem compatPosted_join {d : Dev} {o lo val : Nat} (h : d.acc.half = some (o, lo)) (hr : d.acc.posted.length < 64) :
    (compatPosted d (o + 4) val).acc =
      { d.acc with half := none, posted := d.acc.posted ++ [{ off := o, width := 8, val := lo + val * 2 ^ 32 }] } := by
  have hq : ∀ w, compatQueue (onAcc d fun a => { a with half := none }) w = _ := fun w => compatQueue_room hr
  unfold compatPosted
  rw [h]
  dsimp only
  rw [if_pos rfl, hq, compatShow_acc]
  rfl

/-! ### The I3C target (R554) -/

theorem i3cStatus_applied (d : Dev) : i3cStatus (d, .applied) = emit d (.i3c [0]) := rfl

@[simp] theorem readLatch_out (d : Dev) (off width : Nat) : (readLatch d off width).out = d.out := by
  unfold readLatch timeLatch
  split
  · exact wr_out _ _ _ _
  · rfl

theorem i3cRead_refused {pm : Perm} {d : Dev} {off : Nat} (h : d.boot.powered = false ∨ waitsBehind d .i3c = true) : i3cRead pm d off = d := by
  rcases h with h | h <;> simp [i3cRead, h]

theorem i3cRead_taken {pm : Perm} {d : Dev} {off : Nat} (hp : d.boot.powered = true) (hw : waitsBehind d .i3c = false) :
    i3cRead pm d off = i3cReadNow pm d off := by
  simp [i3cRead, hp, hw]

/-- A register answers with its value and status 0. -/
theorem i3cReadNow_value {pm : Perm} {d : Dev} {off : Nat} (h : rd d .bootStatusStage 0 ≠ 15 ∨ off < 0x200000) :
    (i3cReadNow pm d off).out = .i3c ((toBytes 8 (nativeRead pm d off 8 false)).map (·.toNat) ++ [0]) :: d.out := by
  unfold i3cReadNow
  rw [if_neg (by omega), emit_out, readLatch_out]

/-- In holdback a register outside GLOBAL and BOOT answers with status 2. -/
theorem i3cReadNow_holdback {pm : Perm} {d : Dev} {off : Nat} (h : rd d .bootStatusStage 0 = 15) (ho : 0x200000 ≤ off) :
    ∃ bs, bs.length = 8 ∧ (i3cReadNow pm d off).out = .i3c (bs ++ [2]) :: d.out := by
  refine ⟨(toBytes 8 (fresh d).1).map (·.toNat), by simp, ?_⟩
  unfold i3cReadNow
  rw [if_pos ⟨h, ho⟩]
  rfl

theorem i3cWrite_refused {d : Dev} {off val : Nat} (h : d.boot.powered = false ∨ waitsBehind d .i3c = true) : i3cWrite d off val = d := by
  rcases h with h | h <;> simp [i3cWrite, h]

/-- A write beyond the control window is discarded with status 1. -/
theorem i3cWrite_beyond {d : Dev} {off val : Nat} (hp : d.boot.powered = true) (hw : waitsBehind d .i3c = false) (ho : 0x4000000 < off + 8) :
    rd (i3cWrite d off val) .discardedWrites 0 = (rd d .discardedWrites 0 + 1) % 2 ^ 32 ∧
    rd (i3cWrite d off val) .lastDiscardSource 0 = 2 ∧ (i3cWrite d off val).out = .i3c [1] :: d.out := by
  have hx : i3cWrite d off val = emit (discardWrite (choose d (2 ^ 26)).2 2 (choose d (2 ^ 26)).1 0) (.i3c [1]) := by
    unfold i3cWrite
    rw [hp, hw, if_neg (by decide), if_neg (by omega)]
    rfl
  obtain ⟨hcount, -, hsrc⟩ := rd_discardWrite (choose d (2 ^ 26)).2 2 (choose d (2 ^ 26)).1 0
  rw [hx, rd_emit, rd_emit, hcount, hsrc, emit_out, discardWrite_out]
  exact ⟨rfl, rfl, rfl⟩

/-- A write of DISPATCH.WAIT_TIMEOUT over I3C sets it, with status 0. -/
theorem i3cWrite_waitTimeout {d : Dev} {val : Nat} (hp : d.boot.powered = true) (hw : waitsBehind d .i3c = false)
    (hb : rd d .bootStatusStage 0 ≠ 15) (hh : isSet d .safetyStatusHalted 0 = false) (hs : sealedOnes d = []) :
    rd (i3cWrite d 0x800008 val) .dispatchWaitTimeout 0 = val % 2 ^ 32 ∧ (i3cWrite d 0x800008 val).out = .i3c [0] :: d.out := by
  have hx : i3cWrite d 0x800008 val = emit (wr d .dispatchWaitTimeout 0 (val % 2 ^ 32)) (.i3c [0]) := by
    unfold i3cWrite
    rw [hp, hw, if_neg (by decide), if_pos (by decide), arrive_runs hw (stallsNow_waitTimeout d 8) hb hh,
      nativeWrite_waitTimeout rfl (.inr rfl) hs, i3cStatus_applied]
  rw [hx, rd_emit, emit_out, wr_out]
  exact ⟨(rd_wr_self _ _ _ _ rfl).trans (Nat.mod_mod _ _), rfl⟩

/-! ### The alert and the test access port (R555, R557) -/

theorem alertDue_of_elapsed {d : Dev} (h : ∀ t, d.acc.alertNs = some t → t + 10000000 ≤ d.upNs) : alertDue d = true :=
  (Option.all_eq_true _ _).2 fun t ht => decide_eq_true (h t ht)

theorem boundaryOut_bypasses {d : Dev} (h : rd d .bootStatusStage 0 ≠ 15) : boundaryOut d = emit d (.tdo 1 0) := if_neg h

/-- In holdback the boundary chain shifts out what it captured. -/
theorem boundaryOut_holdback {d : Dev} (h : rd d .bootStatusStage 0 = 15) :
    ∃ n v, (boundaryOut d).out = .tdo n v :: d.out ∧ { boundaryOut d with out := d.out, free := d.free } = d := by
  have hx : boundaryOut d = emit (fresh (fresh d).2).2 (.tdo (fresh d).1 (fresh (fresh d).2).1) := if_pos h
  rw [hx]
  exact ⟨_, _, rfl, rfl⟩

/-! ### The three kinds of register write that O60 follows to the end -/

/-- A write of the host with no width and alignment of R530 is counted and noted. -/
theorem outsideWrite_discards {d : Dev} {m fn rid off width val : Nat} (hm : m < 2) (hs : serving d = true) (hf : fnPresent d fn = true)
    (hr : hostRid d rid = true) (hw : waitsBehind d (.host m fn rid) = false) (hh : isSet d .safetyStatusHalted = false)
    (hd : doorbell (hostOffset fn off) width = none) (hc : inCompat (hostOffset fn off) = false)
    (ha : accessOk (hostOffset fn off) width = false) :
    let e := outsideWrite d (.host m fn rid) off width val
    rd e .discardedWrites 0 = (rd d .discardedWrites 0 + 1) % 2 ^ 32 ∧ rd e .lastDiscardOffset 0 = hostOffset fn off % 2 ^ 26 ∧
    rd e .lastDiscardSource 0 = m ∧
    onlyRegs d e [(.discardedWrites, 0), (.lastDiscardOffset, 0), (.lastDiscardSource, 0), (.lastDiscardPartition, 0)] := by
  intro e
  have he : e = discardWrite d m (hostOffset fn off) (actsFor (.host m fn rid) (hostOffset fn off)) := by
    refine (outsideWrite_runs hs hf hr hw hh (stallsNow_of_not_accessOk ha)).trans ?_
    rw [nativeWrite_discards hd hc ha]
    rfl
  obtain ⟨hcount, hoff, hsrc⟩ := rd_discardWrite d m (hostOffset fn off) (actsFor (.host m fn rid) (hostOffset fn off))
  rw [he]
  exact ⟨hcount, hoff, hsrc.trans (Nat.mod_eq_of_lt (by omega)), onlyRegs_discardWrite _ _ _ _⟩

/-- A plain write of the host sets the fields it covers and nothing else. -/
theorem outsideWrite_plain {d : Dev} {m fn rid off width val : Nat} (hs : serving d = true) (hf : fnPresent d fn = true)
    (hr : hostRid d rid = true) (hw : waitsBehind d (.host m fn rid) = false) (hh : isSet d .safetyStatusHalted = false) {w : RegWrite}
    (hwr : w = { src := .host m fn rid, part := actsFor (.host m fn rid) (hostOffset fn off), off := hostOffset fn off, width := width, val := val })
    (hd : doorbell w.off w.width = none) (hp : isPosted w = false) (ha : accessOk w.off w.width = true) (has : assigned w = true)
    (hst : stallsNow d w.off w.width = false) (hse : sealedOnes d = []) (hl : (wordFields w.off).any (lockedNow d) = false)
    (hg : gateLocked d w = none) (hpl : plainWrite w) :
    outsideWrite d (.host m fn rid) off width val = (heldFields w).foldl (plainField w) d := by
  subst hwr
  rw [outsideWrite_runs hs hf hr hw hh hst, nativeWrite_register hp hd ha has, regWrite_plain hpl hse hl hg]

/-- P0's write of DISPATCH.WAIT_TIMEOUT sets it and nothing else. -/
theorem outsideWrite_waitTimeout {d : Dev} {m rid val : Nat} (hs : serving d = true) (hf : fnPresent d 0 = true) (hr : hostRid d rid = true)
    (hw : waitsBehind d (.host m 0 rid) = false) (hh : isSet d .safetyStatusHalted = false) (hse : sealedOnes d = []) :
    outsideWrite d (.host m 0 rid) 0x800008 4 val = wr d .dispatchWaitTimeout 0 (val % 2 ^ 32) := by
  have ho : hostOffset 0 0x800008 = 0x800008 := rfl
  rw [outsideWrite_runs hs hf hr hw hh (by rw [ho]; exact stallsNow_waitTimeout d 4), nativeWrite_waitTimeout ho (.inl rfl) hse]

/-! ### The obligation -/

/-- Settles O60, access by access: the register writes of the host link, then the stalled, posted and management accesses. -/
theorem nativeAndManagement : Obligations.NativeAndManagement := by
  unfold Obligations.NativeAndManagement
  refine ⟨fun s m fn rid off width val hreach hval => ?_, fun s h t hheld => ?_, fun s ht => ?_, fun s src hreach hw hhost => ?_,
    fun s off val hoff hal hval hup => ?_, fun s w t hposted => ?_, fun s off val hoff hval => ⟨?_, ?_⟩, fun s hp hb hdue => ?_,
    fun s => ⟨?_, ?_, ?_⟩⟩
  · refine ⟨outsideWrite s.dev (.host m fn rid) off width val, answers_cmd rfl (by simp [hreach, hval]), outsideWrite_absent,
      fun hs hf => ⟨fun hr => ?_, fun hr hw => ?_, fun hr hw hh => ⟨?_, ?_, ?_⟩⟩⟩
    · rw [outsideWrite_foreign hs hf hr]
      exact ⟨rd_bump_self _ _ _ _ rfl, onlyRegs_bump (onlyRegs_refl _ _) (.head _)⟩
    · rw [outsideWrite_host hs hf hr, arrive_waits hw]
      exact ⟨by simp, rfl⟩
    · exact outsideWrite_discards (module_lt_of_canReach hreach) hs hf hr hw hh
    · intro w held hd hp ha has hst hse hl hg hplain
      have hpl : plainWrite w := fun y hy hm => by
        obtain ⟨hholds, hfld⟩ := hplain y hy hm
        exact ⟨hholds, plainFld_iff.2 hfld⟩
      rw [outsideWrite_plain hs hf hr hw hh rfl hd hp ha has hst hse hl hg hpl]
      exact heldFields_written hpl
    · rintro rfl rfl rfl hse
      rw [outsideWrite_waitTimeout hs hf hr hw hh hse, Nat.mod_eq_of_lt hval]
      exact ⟨(rd_wr_self _ _ _ _ rfl).trans (Nat.mod_eq_of_lt hval), onlyRegs_wr (onlyRegs_refl _ _) (.head _)⟩
  · exact ⟨stallTimeout s.perm s.dev, givenUp s.dev h t, answers_act rfl (by simp [hheld]), stallTimeout_eq hheld, givenUp_spec s.dev h t⟩
  · exact ⟨commitGo s.dev, answers_drv (n := "COMMIT") rfl rfl ht, commitGo_none, fun v hv => commitGo_some hv⟩
  · refine ⟨timeRead s.dev src, answers_cmd rfl hreach, ?_⟩
    rw [timeRead_now hw hhost]
    exact timeReadNow_spec s.dev src
  · have hexists : (decide (off < 0x400000 ∧ 4 = 4 ∧ off % 4 = 0 ∧ val < 2 ^ 32) && hostUp s.dev) = true :=
      Bool.and_eq_true_iff.2 ⟨decide_eq_true ⟨hoff, rfl, hal, hval⟩, hup⟩
    refine ⟨if serving s.dev then compatPosted s.dev off val else s.dev, answers_cmd rfl hexists, fun hs => ?_,
      fun hs hn ha hc => ?_, fun hs hn hp => ⟨fun hr => ?_, fun hfull => ?_⟩, fun o lo hs hl ho hr => ?_⟩
    · rw [if_neg (by simp [hs])]
    · rw [if_pos hs]
      exact compatPosted_half hn ha hc
    · rw [if_pos hs, compatPosted_queue hn hp, compatQueue_room hr, compatShow_acc]
      rfl
    · rw [if_pos hs, compatPosted_queue hn hp]
      exact compatShow_full hfull
    · subst ho
      rw [if_pos hs]
      exact compatPosted_join hl hr
  · refine ⟨_, compatShow (onAcc s.dev fun a => { a with posted := t }), answers_act rfl (by simp [hposted]), compatShow_acc _,
      rd_compatStatusQueued _, ?_, by rw [hposted]⟩
    rw [compatShow_acc]
    exact onlyRegs_compatShow _
  · exact ⟨i3cRead s.perm s.dev off, answers_cmd rfl (decide_eq_true hoff), i3cRead_refused, fun hp hw => by
      rw [i3cRead_taken hp hw]
      exact ⟨i3cReadNow_value, i3cReadNow_holdback⟩⟩
  · refine ⟨i3cWrite s.dev off val, answers_cmd rfl (decide_eq_true ⟨hoff, hval⟩), i3cWrite_refused,
      fun hp hw => ⟨i3cWrite_beyond hp hw, ?_⟩⟩
    rintro rfl hb hh hse
    exact i3cWrite_waitTimeout hp hw hb hh hse
  · exact ⟨raiseAlert s.dev, answers_act rfl (by simp [hp, hb, alertDue_of_elapsed hdue]), rfl, rfl, rfl⟩
  · exact ⟨bypassOut s.dev, answers_cmd (n := "BYPASS") rfl rfl, rfl⟩
  · exact ⟨emit s.dev (.tdo 32 0x0128014F), answers_cmd (n := "IDCODE") rfl rfl, rfl⟩
  · intro c hc
    have hx : Answers c s (boundaryOut s.dev) := by
      rcases List.mem_cons.1 hc with rfl | hc
      · exact answers_cmd (n := "SAMPLE_PRELOAD") rfl rfl
      · obtain rfl := List.mem_singleton.1 hc
        exact answers_cmd (n := "EXTEST") rfl rfl
    exact ⟨boundaryOut s.dev, hx, boundaryOut_bypasses, boundaryOut_holdback⟩

end Sys2Proof.Machine
end

section
/-!
Die links, the direction of their groups, and route changes (R38, R281, R286 to R290), and O43.
-/
namespace Sys2Proof.Machine

theorem answers_evt {c : Instr} {s : State} {n : String} {x b : Bool} {e : Dev} (h : exec c s = evt s n x b e) (hx : x = true)
    (hb : b = true) : Answers c s e := by
  subst hx
  exact answers_act h hb

/-! ### Fabric events and answers sent again -/

@[simp] theorem rd_fabricEvent (d : Dev) (cause : Nat) (eid : Option Nat) (c g n : Nat) (f : Fld) (i : Nat) :
    rd (fabricEvent d cause eid c g n) f i = rd d f i := by
  cases eid <;> rfl

@[simp] theorem fabricEvent_mesh (d : Dev) (cause : Nat) (eid : Option Nat) (c g n : Nat) : (fabricEvent d cause eid c g n).mesh = d.mesh := by
  cases eid <;> rfl

/-- A fabric event puts one entry on its way. -/
theorem length_entries_fabricEvent (d : Dev) (cause : Nat) (eid : Option Nat) (c g n : Nat) :
    (fabricEvent d cause eid c g n).hl.entries.length = d.hl.entries.length + 1 := by
  cases eid <;> exact List.length_append

theorem rd_pickGroup (d : Dev) (a : MeshAns) (f : Fld) (i : Nat) : rd (pickGroup d a).1 f i = rd d f i := by
  unfold pickGroup
  split
  · split
    · rfl
    · dsimp only
      split <;> rfl
  · rfl

theorem rd_regroup (d : Dev) (c g : Nat) (f : Fld) (i : Nat) : rd (regroup d c g) f i = rd d f i := by
  unfold regroup
  rw [rd_onMesh]
  refine List.foldlRecOn d.mesh.flight _ (motive := fun r : Dev × List MeshAns => rd r.1 f i = rd d f i) rfl fun r hr a _ => ?_
  dsimp only
  split
  · exact (rd_pickGroup r.1 a f i).trans hr
  · exact hr

/-! ### Link groups (R281) -/

/-- One end of a link group taken down. -/
def groupOff (d : Dev) (c g : Nat) : Dev :=
  if bitOf (rd d .meshLinkStatusUp c) g then wr d .meshLinkStatusUp c (rd d .meshLinkStatusUp c - 2 ^ g) else d

/-- Taking away a bit that is set clears it. -/
theorem bitOf_sub_two_pow {x g : Nat} (h : bitOf x g = true) : bitOf (x - 2 ^ g) g = false := by
  unfold bitOf at *
  rw [Nat.testBit_eq_decide_div_mod_eq, decide_eq_true_eq] at h
  have hq : (x - 2 ^ g) / 2 ^ g = x / 2 ^ g - 1 := by simpa using Nat.sub_mul_div x (2 ^ g) 1
  rw [Nat.testBit_eq_decide_div_mod_eq, decide_eq_false_iff_not, hq]
  omega

theorem rd_groupOff_up {d : Dev} {c g : Nat} (h : bitOf (rd d .meshLinkStatusUp c) g = true) :
    rd (groupOff d c g) .meshLinkStatusUp c = (rd d .meshLinkStatusUp c - 2 ^ g) % 2 ^ 34 := by
  rw [groupOff, if_pos h]
  exact rd_wr_self _ _ _ _ rfl

theorem rd_groupOff_ne (d : Dev) {c k : Nat} (g : Nat) (h : k ≠ c) : rd (groupOff d c g) .meshLinkStatusUp k = rd d .meshLinkStatusUp k := by
  unfold groupOff
  split
  · exact rd_wr_ne _ _ rfl (.inr h)
  · rfl

theorem bitOf_groupOff (d : Dev) (c g : Nat) : bitOf (rd (groupOff d c g) .meshLinkStatusUp c) g = false := by
  cases h : bitOf (rd d .meshLinkStatusUp c) g with
  | false => rw [groupOff, if_neg (by simp [h])]; exact h
  | true =>
    rw [rd_groupOff_up h, bitOf, Nat.testBit_mod_two_pow, ← bitOf, bitOf_sub_two_pow h, Bool.and_false]

theorem keepsRegs_groupOff {d e : Dev} {l : List (Fld × Nat)} {c : Nat} (g : Nat) (h : keepsRegs d e l) (hc : (Fld.meshLinkStatusUp, c) ∈ l) :
    keepsRegs d (groupOff e c g) l := by
  unfold groupOff
  split
  · exact keepsRegs_wr h hc
  · exact h

theorem otherEnd_ne {c : Nat} (h : c < 10) : otherEnd c ≠ c := by
  unfold otherEnd
  split
  · omega
  · split <;> omega

/-- The registers after a group has gone down, while its crossing keeps another. -/
theorem rd_groupDown {d : Dev} {c g : Nat} (hc : c < 10) (h : rd (groupOff d c g) .meshLinkStatusUp c ≠ 0) (f : Fld) (i : Nat) :
    rd (groupDown d c g) f i = rd (groupOff (groupOff d c g) (otherEnd c) g) f i := by
  have hx (e : Dev) (n : Nat) (f : Fld) (i : Nat) :
      rd (fabricEvent (regroup (regroup e c g) (otherEnd c) g) 0xC5 none c g n) f i = rd e f i := by
    rw [rd_fabricEvent, rd_regroup, rd_regroup]
  have hne : rd (groupOff (groupOff d c g) (otherEnd c) g) .meshLinkStatusUp c ≠ 0 := by
    rwa [rd_groupOff_ne _ _ (otherEnd_ne hc).symm]
  exact (congrArg (rd · f i) (if_neg ((hx _ _ _ _).trans_ne hne))).trans (hx _ _ f i)

/-- A group that is up goes down at both ends; while its crossing keeps another, no other register changes. -/
theorem groupDown_spec {d : Dev} {c g : Nat} (hc : c < 10) (hb : bitOf (rd d .meshLinkStatusUp c) g = true)
    (h : (rd d .meshLinkStatusUp c - 2 ^ g) % 2 ^ 34 ≠ 0) :
    rd (groupDown d c g) .meshLinkStatusUp c = (rd d .meshLinkStatusUp c - 2 ^ g) % 2 ^ 34 ∧
    bitOf (rd (groupDown d c g) .meshLinkStatusUp (otherEnd c)) g = false ∧
    keepsRegs d (groupDown d c g) [(.meshLinkStatusUp, c), (.meshLinkStatusUp, otherEnd c)] := by
  have hr := rd_groupDown hc ((rd_groupOff_up hb).trans_ne h)
  refine ⟨?_, ?_, keepsRegs_of_rd ?_ hr⟩
  · rw [hr, rd_groupOff_ne _ _ (otherEnd_ne hc).symm, rd_groupOff_up hb]
  · rw [hr, bitOf_groupOff]
  · exact keepsRegs_groupOff g (keepsRegs_groupOff g (keepsRegs_refl d _) (by simp)) (by simp)

theorem groupUp_iff {d : Dev} {c g : Nat} : groupUp d c g = true ↔ (c < 10 ∧ g < groupsOf c) ∧ bitOf (rd d .meshLinkStatusUp c) g = true := by
  rw [groupUp, Bool.and_eq_true, decide_eq_true_eq]

/-! ### Directions (R38) -/

/-- From `d` to `e` the groups `ts` of Hedge die `q` have begun to reverse, and nothing else has changed but the free values drawn. -/
structure Turns (q : Nat) (ts : List Nat) (d e : Dev) : Prop where
  bits (g : Nat) : bitOf (getD e.mesh.reversing q 0) g = (bitOf (getD d.mesh.reversing q 0) g || decide (g ∈ ts))
  others (p : Nat) (h : p ≠ q) : getD e.mesh.reversing p 0 = getD d.mesh.reversing p 0
  only : { e with mesh := { e.mesh with reversing := d.mesh.reversing }, free := d.free } = d

theorem turns_nil_choose (q : Nat) (d : Dev) (n : Nat) : Turns q [] d (choose d n).2 :=
  ⟨fun g => by simp, fun _ _ => rfl, rfl⟩

theorem Turns.trans {q : Nat} {ts us : List Nat} {d e f : Dev} (h : Turns q ts d e) (k : Turns q us e f) : Turns q (ts ++ us) d f where
  bits g := by rw [k.bits, h.bits, Bool.or_assoc]; simp
  others p hp := (k.others p hp).trans (h.others p hp)
  only := by
    have h2 := congrArg (fun x : Dev => { x with mesh := { x.mesh with reversing := d.mesh.reversing }, free := d.free }) k.only
    exact h2.trans h.only

theorem Turns.toHedge {q : Nat} {ts : List Nat} {d e : Dev} (h : Turns q ts d e) (p : Nat) : towardHedge e p = towardHedge d p := by
  have hm : e.mesh.toHedge = d.mesh.toHedge := (congrArg (fun x : Dev => x.mesh.toHedge) h.only :)
  rw [towardHedge, towardHedge, hm]

/-- With a group to choose from, one of them begins to reverse, and the rest are left. -/
theorem reverseOne_turns (q : Nat) {set : List Nat} (d : Dev) (h : set ≠ []) :
    ∃ g ∈ set, Turns q [g] d (reverseOne q set d).1 ∧ (reverseOne q set d).2 = set.filter (· ≠ g) := by
  have hlt : (choose d set.length).1 < set.length := Nat.mod_lt _ (List.length_pos_iff.2 h)
  refine ⟨set[(choose d set.length).1], List.getElem_mem hlt, ?_⟩
  simp only [reverseOne, List.getElem?_eq_getElem hlt]
  refine ⟨⟨fun g => ?_, fun p hp => getD_put_ne _ _ _ hp, rfl⟩, trivial⟩
  simp [bitOf, Nat.testBit_or, Nat.testBit_two_pow, eq_comm]

/-- As many groups begin to reverse as are asked for. -/
theorem reverseMany_turns (q n : Nat) {set : List Nat} (d : Dev) (hs : set.Nodup) (hn : n ≤ set.length) :
    ∃ ts, ts ⊆ set ∧ ts.Nodup ∧ ts.length = n ∧ Turns q ts d (reverseMany q n set d) := by
  induction n generalizing set d with
  | zero => exact ⟨[], by simp, List.nodup_nil, rfl, fun g => by simp [reverseMany], fun _ _ => rfl, rfl⟩
  | succ n ih =>
    obtain ⟨g, hg, hturn, hrest⟩ := reverseOne_turns q d (List.length_pos_iff.1 (Nat.lt_of_lt_of_le n.succ_pos hn))
    have hrest' : (reverseOne q set d).2 = set.erase g := by
      rw [hrest, hs.erase_eq_filter]
      exact List.filter_congr fun x _ => by rw [Bool.eq_iff_iff]; simp
    obtain ⟨ts, hsub, hnd, hlen, hturns⟩ := ih (set := set.erase g) (reverseOne q set d).1 (hs.erase g)
      (by rw [List.length_erase_of_mem hg]; omega)
    refine ⟨g :: ts, ?_, ?_, by simp [hlen], ?_⟩
    · exact List.cons_subset.2 ⟨hg, List.Subset.trans hsub List.erase_subset⟩
    · exact List.nodup_cons.2 ⟨fun hmem => hs.not_mem_erase (hsub hmem), hnd⟩
    · rw [reverseMany, hrest']
      exact hturn.trans hturns

/-- The groups that carry flits towards a Hedge die once the reversals under way have ended. -/
def headed (d : Dev) (q g : Nat) : Bool := bitOf (towardHedge d q) g != bitOf (getD d.mesh.reversing q 0) g

def headedCount (d : Dev) (q : Nat) : Nat := ((List.range 34).filter (headed d q)).length

/-- The groups not in reversal whose direction is towards the Hedge die, or away from it. -/
def idleGroups (d : Dev) (q : Nat) (toward : Bool) : List Nat :=
  (List.range 34).filter fun g => !bitOf (getD d.mesh.reversing q 0) g && (bitOf (towardHedge d q) g == toward)

theorem nodup_idleGroups (d : Dev) (q : Nat) (toward : Bool) : (idleGroups d q toward).Nodup := List.nodup_range.filter _

/-- Elements that a filter left out, once it lets them in, add their number. -/
theorem length_filter_or_mem {l ts : List Nat} {p : Nat → Bool} (hl : l.Nodup) (hts : ts.Nodup) (hsub : ts ⊆ l)
    (hp : ∀ g ∈ ts, p g = false) : (l.filter fun g => p g || decide (g ∈ ts)).length = (l.filter p).length + ts.length := by
  have hd : (l.filter p).Disjoint ts := fun g hg hmem => by simp [hp g hmem] at hg
  rw [← List.length_append]
  refine ((List.perm_ext_iff_of_nodup (hl.filter _) ((hl.filter _).append hts hd)).2 fun g => ?_).length_eq
  simp only [List.mem_filter, List.mem_append, Bool.or_eq_true, decide_eq_true_eq]
  have := @hsub g
  tauto

theorem mem_idleGroups {d : Dev} {q g : Nat} {b : Bool} :
    g ∈ idleGroups d q b ↔ g ∈ List.range 34 ∧ bitOf (getD d.mesh.reversing q 0) g = false ∧ bitOf (towardHedge d q) g = b := by
  simp [idleGroups]

theorem headed_idle {d : Dev} {q g : Nat} {b : Bool} (h : g ∈ idleGroups d q b) : headed d q g = b := by
  obtain ⟨_, hrev, hdir⟩ := mem_idleGroups.1 h
  rw [headed, hrev, hdir, Bool.bne_false]

section
variable {q : Nat} {ts : List Nat} {d e : Dev} {b : Bool} (h : Turns q ts d e) (hts : ts.Nodup)
include h

/-- The groups that begin to reverse change sides, and no other does. -/
theorem headed_turns (hsub : ts ⊆ idleGroups d q b) (g : Nat) : headed e q g = if g ∈ ts then !b else headed d q g := by
  rw [headed, headed, h.toHedge, h.bits]
  split
  next hg =>
    obtain ⟨_, hrev, hdir⟩ := mem_idleGroups.1 (hsub hg)
    simp [hg, hrev, hdir]
  next hg => simp [hg]

include hts

/-- Groups that turn towards the Hedge die add to those headed for it. -/
theorem headedCount_turns_to (hsub : ts ⊆ idleGroups d q false) : headedCount e q = headedCount d q + ts.length := by
  have heq : headed e q = fun g => headed d q g || decide (g ∈ ts) := funext fun g => by
    rw [headed_turns h hsub]
    split <;> simp [*]
  rw [headedCount, heq]
  exact length_filter_or_mem List.nodup_range hts (fun g hg => (mem_idleGroups.1 (hsub hg)).1) fun g hg => headed_idle (hsub hg)

/-- Groups that turn away from the Hedge die are headed for it no more. -/
theorem headedCount_turns_from (hsub : ts ⊆ idleGroups d q true) : headedCount e q = headedCount d q - ts.length := by
  have heq : headed d q = fun g => headed e q g || decide (g ∈ ts) := funext fun g => by
    rw [headed_turns h hsub]
    split
    next hg => simp [hg, headed_idle (hsub hg)]
    next hg => simp [hg]
  refine Nat.eq_sub_of_add_eq (Eq.symm ?_)
  rw [headedCount, heq]
  exact length_filter_or_mem List.nodup_range hts (fun g hg => (mem_idleGroups.1 (hsub hg)).1) fun g hg => by
    rw [headed_turns h hsub, if_pos hg, Bool.not_true]

end

/-- What a re-balancing counts for the direction towards the Hedge die: idle groups of that direction and groups turning to it. -/
theorem headedCount_eq (d : Dev) (q : Nat) :
    headedCount d q = (((List.range 34).filter fun g => !bitOf (getD d.mesh.reversing q 0) g).filter (bitOf (towardHedge d q))).length +
      (((List.range 34).filter (bitOf (getD d.mesh.reversing q 0))).filter fun g => !bitOf (towardHedge d q) g).length := by
  rw [headedCount, List.length_eq_length_filter_add fun g => !bitOf (getD d.mesh.reversing q 0) g]
  simp only [List.filter_filter]
  congr 2
  · refine List.filter_congr fun g _ => ?_
    cases hr : bitOf (getD d.mesh.reversing q 0) g <;> simp [headed, hr]
  · refine List.filter_congr fun g _ => ?_
    cases hr : bitOf (getD d.mesh.reversing q 0) g <;> simp [headed, hr]

theorem idleGroups_eq (d : Dev) (q : Nat) (b : Bool) :
    idleGroups d q b = ((List.range 34).filter fun g => !bitOf (getD d.mesh.reversing q 0) g).filter fun g => bitOf (towardHedge d q) g == b := by
  rw [List.filter_filter]
  exact List.filter_congr fun g _ => Bool.and_comm _ _

/-- The groups a re-balancing asks for in the direction towards the Hedge die, rounded as `r` says. -/
def wanted (a b r : Nat) : Nat := clampTo 2 32 ((34 * a + (a + b - 1) * r) / (a + b))

theorem rebalance_none (d : Dev) (q : Nat) {a b : Nat} (h : a + b = 0) : rebalance d q a b = d := if_pos h

theorem rebalance_some (d : Dev) (q : Nat) {a b : Nat} (h : a + b ≠ 0) :
    rebalance d q a b =
      if headedCount d q < wanted a b (choose d 2).1 then
        reverseMany q (min (wanted a b (choose d 2).1 - headedCount d q) ((idleGroups d q false).length - 2)) (idleGroups d q false) (choose d 2).2
      else
        reverseMany q (min (headedCount d q - wanted a b (choose d 2).1) ((idleGroups d q true).length - 2)) (idleGroups d q true) (choose d 2).2 := by
  rw [headedCount_eq, idleGroups_eq, idleGroups_eq]
  simp only [beq_true, beq_false]
  exact if_neg h

/-- A re-balancing turns groups around until the share is met, leaving two in each direction. -/
theorem rebalance_turns (d : Dev) (q : Nat) {a b : Nat} (h : a + b ≠ 0) : ∃ ts, Turns q ts d (rebalance d q a b) ∧
    headedCount (rebalance d q a b) q = if headedCount d q < wanted a b (choose d 2).1
      then headedCount d q + min (wanted a b (choose d 2).1 - headedCount d q) ((idleGroups d q false).length - 2)
      else headedCount d q - min (headedCount d q - wanted a b (choose d 2).1) ((idleGroups d q true).length - 2) := by
  have hturn (n : Nat) (side : Bool) (hn : n ≤ (idleGroups d q side).length) : ∃ ts, ts ⊆ idleGroups d q side ∧ ts.Nodup ∧ ts.length = n ∧
      Turns q ts d (reverseMany q n (idleGroups d q side) (choose d 2).2) := by
    obtain ⟨ts, hsub, hnd, hlen, ht⟩ := reverseMany_turns q n (choose d 2).2 (nodup_idleGroups d q side) hn
    exact ⟨ts, hsub, hnd, hlen, (turns_nil_choose q d 2).trans ht⟩
  rw [rebalance_some d q h]
  split
  · obtain ⟨ts, hsub, hnd, hlen, ht⟩ := hturn _ false ((Nat.min_le_right _ _).trans (Nat.sub_le _ 2))
    exact ⟨ts, ht, by rw [headedCount_turns_to ht hnd hsub, hlen]⟩
  · obtain ⟨ts, hsub, hnd, hlen, ht⟩ := hturn _ true ((Nat.min_le_right _ _).trans (Nat.sub_le _ 2))
    exact ⟨ts, ht, by rw [headedCount_turns_from ht hnd hsub, hlen]⟩

/-! ### Route changes (R286 to R289) -/

@[simp] theorem showQueue_mesh (d : Dev) : (showQueue d).mesh = d.mesh := wr_mesh _ _ _ _

/-- The head of the queue leaves it, and PENDING follows. -/
def routeTake (d : Dev) : Dev := showQueue (onMesh d fun m => { m with routeQ := m.routeQ.drop 1 })

section
variable {d : Dev} {c : RouteCmd}

theorem routeApply_bad (h : routeBad c = true) : routeApply d c = fabricEvent (routeTake d) 0xC9 none (cut c.cmd 0 4) 0 0 := if_pos h

theorem routeApply_entry (h : routeBad c = false) (hc : bitOf c.cmd 14 = false) : routeApply d c =
    bump (setRoute (routeTake d) (cut c.cmd 0 4) (1 - rd (routeTake d) .meshRouteCtrlEpoch) (cut c.cmd 4 10) c.data) .meshRouteChanges :=
  (if_neg (by simp [h])).trans (if_neg (by simp [hc]))

theorem routeApply_commit (h : routeBad c = false) (hc : bitOf c.cmd 14 = true) : routeApply d c =
    bump (onMesh (wr (wr (routeTake d) .meshRouteCtrlEpoch 0 (1 - rd (routeTake d) .meshRouteCtrlEpoch)) .meshRouteCtrlDraining 0 1)
      fun m => { m with slowSent := false }) .meshRouteChanges :=
  (if_neg (by simp [h])).trans (if_pos hc)

theorem rd_routeTake {f : Fld} (i : Nat) (hv : f.info.voted = false) (hf : f ≠ .meshRouteCtrlPending) :
    rd (routeTake d) f i = rd d f i := rd_wr_ne _ _ hv (.inl hf)

theorem routeApply_routeQ : (routeApply d c).mesh.routeQ = d.mesh.routeQ.drop 1 := by
  cases hb : routeBad c with
  | true => simp [routeApply_bad hb, routeTake]
  | false =>
    cases hc : bitOf c.cmd 14 with
    | false => simp [routeApply_entry hb hc, routeTake, setRoute, bump]
    | true => simp [routeApply_commit hb hc, routeTake, bump]

theorem keepsRegs_routeApply_bad (h : routeBad c = true) : keepsRegs d (routeApply d c) [(.meshRouteCtrlPending, 0)] := by
  rw [routeApply_bad h]
  exact keepsRegs_of_rd (keepsRegs_wr (keepsRegs_refl d _) (.head _)) fun f i => rd_fabricEvent _ _ _ _ _ _ f i

/-- A change that is applied is counted. -/
theorem routeApply_changes (h : routeBad c = false) : rd (routeApply d c) .meshRouteChanges 0 = (rd d .meshRouteChanges 0 + 1) % 2 ^ 32 := by
  cases hc : bitOf c.cmd 14 with
  | false =>
    rw [routeApply_entry h hc, rd_bump_self _ _ _ _ rfl, setRoute, rd_wr_ne _ _ rfl (.inl (by decide)), rd_routeTake 0 rfl (by decide)]
    rfl
  | true =>
    rw [routeApply_commit h hc, rd_bump_self _ _ _ _ rfl, rd_onMesh, rd_wr_ne _ _ rfl (.inl (by decide)),
      rd_wr_ne _ _ rfl (.inl (by decide)), rd_routeTake 0 rfl (by decide)]
    rfl

/-- An entry write sets the entry of the bank not in use, and the epoch stays. -/
theorem routeApply_entry_spec (h : routeBad c = false) (hc : bitOf c.cmd 14 = false) :
    routeEntry (routeApply d c) (cut c.cmd 0 4) (1 - rd d .meshRouteCtrlEpoch 0) (cut c.cmd 4 10) = c.data % 2 ^ 64 ∧
    rd (routeApply d c) .meshRouteCtrlEpoch 0 = rd d .meshRouteCtrlEpoch 0 := by
  rw [routeApply_entry h hc, rd_routeTake 0 rfl (by decide)]
  refine ⟨?_, ?_⟩
  · rw [routeEntry, bump, rd_wr_ne _ _ rfl (.inl (by decide))]
    exact rd_wr_self _ _ _ _ rfl
  · rw [bump, rd_wr_ne _ _ rfl (.inl (by decide)), setRoute, rd_wr_ne _ _ rfl (.inl (by decide)), rd_routeTake 0 rfl (by decide)]

/-- A commit turns the epoch and starts to drain. -/
theorem routeApply_commit_spec (h : routeBad c = false) (hc : bitOf c.cmd 14 = true) :
    rd (routeApply d c) .meshRouteCtrlEpoch 0 = (1 - rd d .meshRouteCtrlEpoch 0) % 2 ∧ rd (routeApply d c) .meshRouteCtrlDraining 0 = 1 := by
  rw [routeApply_commit h hc, rd_routeTake 0 rfl (by decide)]
  refine ⟨?_, ?_⟩
  · rw [bump, rd_wr_ne _ _ rfl (.inl (by decide)), rd_onMesh, rd_wr_ne _ _ rfl (.inl (by decide))]
    exact rd_wr_self _ _ _ _ rfl
  · rw [bump, rd_wr_ne _ _ rfl (.inl (by decide)), rd_onMesh]
    exact rd_wr_self _ _ _ _ rfl

end

/-- A command at the head that may act is a commit exactly when a commit was asked for. -/
theorem routeFront_commit {d : Dev} {commit : Bool} {c : RouteCmd} (h : routeFront d commit = some c) : bitOf c.cmd 14 = commit := by
  obtain ⟨_, hc⟩ := Option.filter_eq_some_iff.1 h
  exact eq_of_beq (Bool.and_eq_true_iff.1 hc).1

/-- The command at the head of the queue is applied, and what it has held back is let go (R532). -/
theorem answers_route {s : State} {i : Instr} {commit : Bool} {c : RouteCmd} (hi : (i, commit) ∈ [(Instr.routeEntryWrite, false), (.routeCommit, true)])
    (hm : meshUp s.dev = true) (hf : routeFront s.dev commit = some c) : Answers i s (releaseAll s.perm (routeApply s.dev c)) := by
  rcases List.mem_cons.1 hi with hi | hi
  · obtain ⟨rfl, rfl⟩ := Prod.mk.inj hi
    refine (answers_act (n := "ROUTE_ENTRY_WRITE") rfl (by simp [hm, hf])).trans ?_
    rw [hf]
  · obtain ⟨rfl, rfl⟩ := Prod.mk.inj (List.mem_singleton.1 hi)
    refine (answers_act (n := "ROUTE_COMMIT") rfl (by simp [hm, hf])).trans ?_
    rw [hf]

/-! ### The node-map cache (R290) -/

theorem nodeMapInval_nodeCache (d : Dev) (p n : Nat) : (nodeMapInval d p n).tr.nodeCache = del d.tr.nodeCache (p * 65536 + n) := by
  simp [nodeMapInval]

/-- What the transport engine keeps is no register. -/
theorem onlyRegs_tr {d e : Dev} {l : List (Fld × Nat)} (h : onlyRegs d e l) (t : TrSt) : onlyRegs { d with tr := t } { e with tr := t } l :=
  ⟨congrArg (fun x : Dev => { x with tr := t }) h.1, fun f i hf => h.2 f i hf⟩

theorem onlyRegs_nodeMapInval (d : Dev) (p n : Nat) : onlyRegs { d with tr := (nodeMapInval d p n).tr } (nodeMapInval d p n)
    [(.meshNodeMapInvalPartition, 0), (.meshNodeMapInvalNode, 0)] :=
  onlyRegs_tr (onlyRegs_wr (onlyRegs_wr (onlyRegs_refl d _) (by simp)) (by simp)) _

/-! ### The obligation -/

/-- Settles O43: a re-balancing turns distinct idle groups, so the count it aims at is met as far as two may stay. -/
theorem linksAndRoutes : Obligations.LinksAndRoutes := by
  unfold Obligations.LinksAndRoutes
  refine ⟨fun s c g hd hg => ?_, fun s q a b hq hd => ?_, fun s q g hr => ?_, fun s c i commit hi hm hf => ?_, fun s hdr => ⟨fun ho => ?_, fun ho hs => ?_⟩,
    fun s p n hp hn ht => ?_⟩
  · obtain ⟨hnames, hup⟩ := groupUp_iff.1 hg
    have hen : (diesOn s.dev && groupUp s.dev c g) = true := Bool.and_eq_true_iff.2 ⟨hd, hg⟩
    refine ⟨rd_bump_self _ _ _ _ rfl, ⟨crcFail s.dev c g, answers_evt rfl (decide_eq_true hnames) hen, fun hl => if_neg (Nat.not_lt.2 hl),
      fun hl => if_pos hl⟩, groupDown s.dev c g, answers_evt rfl (decide_eq_true hnames) hen, rfl, groupDown_spec hnames.1 hup⟩
  · refine ⟨rebalance s.dev q a b, answers_evt rfl (decide_eq_true hq) hd, rebalance_none s.dev q, ?_⟩
    by_cases h0 : a + b = 0
    · rw [rebalance_none s.dev q h0]
      exact ⟨fun h => absurd h0 h, fun _ _ h => h, fun _ _ => rfl, rfl⟩
    · obtain ⟨ts, hturns, hcount⟩ := rebalance_turns s.dev q h0
      exact ⟨fun _ => ⟨(choose s.dev 2).1, Nat.mod_lt _ (by decide), hcount⟩, fun g _ hg => (hturns.bits g).trans (Bool.or_eq_true_iff.2 (.inl hg)),
        hturns.others, hturns.only⟩
  · exact ⟨reversalEnd s.dev q g, answers_act rfl hr, getD_put_self _ _ _ _, getD_putD_self _ _ _ _,
      fun p hp => ⟨getD_put_ne _ _ _ hp, getD_putD_ne _ _ _ hp⟩, rfl⟩
  · have hc := routeFront_commit hf
    exact ⟨_, routeApply s.dev c, answers_route hi hm hf, rfl, routeApply_routeQ, keepsRegs_routeApply_bad, routeApply_changes,
      fun hb he => routeApply_entry_spec hb (hc.trans he), fun hb he => routeApply_commit_spec hb (hc.trans he)⟩
  · exact ⟨wr s.dev .meshRouteCtrlDraining 0 0, answers_act rfl (by simp [hdr, ho]), rd_wr_self _ _ _ _ rfl,
      onlyRegs_wr (onlyRegs_refl s.dev _) (.head _)⟩
  · exact ⟨_, answers_act rfl (by simp [hdr, ho, hs]), fabricEvent_mesh _ _ _ _ _ _, length_entries_fabricEvent _ _ _ _ _ _,
      fun f i _ => rd_fabricEvent _ _ _ _ _ _ f i⟩
  · refine ⟨nodeMapInval s.dev p n, answers_drv rfl (decide_eq_true ⟨hp, hn⟩) ht, ?_, fun k hk => ?_, onlyRegs_nodeMapInval s.dev p n⟩
    · rw [nodeMapInval_nodeCache]
      exact find?_del_self _ _
    · rw [nodeMapInval_nodeCache]
      exact find?_del_ne _ hk

end Sys2Proof.Machine
end

section
/-!
Taking a work item to its unit (R92, R94, R115, R124, R125), and O21.
-/
namespace Sys2Proof.Machine

/-! ### What a unit takes -/

/-- What may start is the next work item of its lane, of the type asked for, and the lane's unit is free. -/
theorem startable_next {d : Dev} {t ty : Nat} {l : Lane} (h : startable d t l ty = true) :
    ∃ it, nextOf d t l = some it ∧ wiType it.wi = ty ∧ running? d t l = none := by
  unfold startable at h
  cases hn : nextOf d t l with
  | none => simp [hn] at h
  | some it =>
    simp only [hn, unitFree, Bool.and_eq_true, beq_iff_eq, Option.isNone_iff_eq_none] at h
    obtain ⟨⟨⟨⟨⟨⟨⟨-, hty⟩, -⟩, -⟩, hfree, -⟩, -⟩, -⟩, -⟩ := h
    exact ⟨it, rfl, hty, hfree⟩

theorem startLane_next {d : Dev} {t : Nat} {l : Lane} {it : Item} (k : Dev → Item → Dev) (h : nextOf d t l = some it) :
    startLane d t l k = startWith d it k := by
  unfold startLane
  rw [h]

/-! ### Beginning a work item -/

section
variable {d : Dev} {it : Item}

/-- A wait on no registered token ends the work item before it begins (R115). -/
theorem begin_bad (h : waitOf d it = .bad) : begin_ d it = (d, .end_ it 0x4A) := if_pos h

/-- A copy with nothing left to patch is what its late patches leave. -/
theorem latePatch_none (h : it.graph = none) : latePatch d it = (d, .go it) := by
  unfold latePatch
  rw [h]

/-- A copy of a step graph that its patches end, or keep where it is, does not begin (R124). -/
theorem begin_unpatched {d' : Dev} {r : StartRes} (hw : waitOf d it ≠ .bad) (hr : it.rerun = false) (hp : it.patched = false)
    (hl : latePatch d it = (d', r)) (hgo : ∀ x, r ≠ .go x) : begin_ d it = (d', r) := by
  unfold begin_
  rw [if_neg hw, hr, hp]
  cases r with
  | go x => exact absurd rfl (hgo x)
  | end_ x c => simp [hl]
  | wait => simp [hl]

theorem begin_begins {d' : Dev} {it' : Item} (h : begins d it d' it') : begin_ d it = (d', .go it') := by
  obtain ⟨hw, d0, x, hx, rfl, rfl⟩ := h
  have hgo : (if it.rerun || it.patched then (d, StartRes.go it) else latePatch d it) = (d0, .go x) := by
    rcases hx with ⟨hn, rfl, rfl⟩ | ⟨-, hr, hp, hl⟩
    · split
      · rfl
      · rename_i hrp
        simp only [Bool.or_eq_true, not_or] at hrp
        exact latePatch_none (hn.resolve_right fun h => h.elim hrp.1 hrp.2)
    · simp [hr, hp, hl]
  unfold begin_
  rw [if_neg hw, hgo]
  dsimp only
  by_cases hl : x.lane = .token ∨ x.lane = .home
  · rcases hl with hl | hl <;> simp [hl]
  · obtain ⟨h1, h2⟩ := not_or.1 hl
    simp [h1, h2]

end

/-- A start does what the rules of a start say. -/
theorem startWith_startsBy (d : Dev) (it : Item) (k : Dev → Item → Dev) : startsBy d it k (startWith d it k) := by
  refine ⟨fun h => ?_, fun d' it' h => ?_, fun hw _ hr hp => ⟨fun d' x c hl => ?_, fun d' hl => ?_⟩⟩
  · rw [startWith, begin_bad h]
  · rw [startWith, begin_begins h]
  · rw [startWith, begin_unpatched hw hr hp hl (by simp)]
  · rw [startWith, begin_unpatched hw hr hp hl (by simp)]

/-! ### The obligation -/

/-- Settles O21: each of the four commands starts the next work item of its lane by its unit's own start. -/
theorem unitStart : Obligations.UnitStart := by
  intro s t c l ty k hc hs
  obtain ⟨it, hn, hty, hfree⟩ := startable_next hs
  refine ⟨it, startWith s.dev it k, hn, hty, hfree, ?_, startWith_startsBy s.dev it k⟩
  rw [← startLane_next k hn]
  simp only [List.mem_cons, List.not_mem_nil, or_false, Prod.mk.injEq] at hc
  rcases hc with ⟨rfl, rfl, rfl, rfl⟩ | ⟨rfl, rfl, rfl, rfl⟩ | ⟨rfl, rfl, rfl, rfl⟩ | ⟨rfl, rfl, rfl, rfl⟩
  · exact answers_act (n := "MATRIX") rfl hs
  · exact answers_act (n := "VECTOR_SEQUENCE") rfl hs
  · exact answers_act (n := "MOVE") rfl hs
  · exact answers_act (n := "ATTENTION") rfl hs

end Sys2Proof.Machine
end

section
/-!
Matrix work items: what the checks find and how a product ends (R68, R83, R126), and O22.
-/
namespace Sys2Proof.Machine

/-! ### Checks (R83) -/

/-- Whether a format is reserved or the operands are no pair of R66. -/
def formatsBad (x : MatrixWi) : Bool := fmtReserved x.aFmt || fmtReserved x.bFmt || fmtReserved x.outFmt || !pairOk x.aFmt x.bFmt

theorem formatsBad_iff (x : MatrixWi) : formatsBad x = true ↔
    fmtReserved x.aFmt = true ∨ fmtReserved x.bFmt = true ∨ fmtReserved x.outFmt = true ∨ pairOk x.aFmt x.bFmt = false := by
  simp [formatsBad, or_assoc]

theorem matrixCause_formats (x : MatrixWi) : formatsBad x = true ↔ matrixCause x = 0x40 := by
  unfold matrixCause
  rw [← formatsBad]
  split
  · simp [*]
  · constructor
    · intro h; contradiction
    · intro h; split_ifs at h <;> exact absurd h (by decide)

/-- A work item that passes every check has sizes and a rounding mode its formats allow. -/
theorem matrixCause_passes {x : MatrixWi} (h : matrixCause x = 0) :
    1 ≤ x.m ∧ 1 ≤ x.n ∧ 1 ≤ x.k ∧ x.m * x.n ≤ 16384 ∧ (isBlock x.aFmt = true → x.k % 32 = 0) ∧
      (isBlock x.outFmt = true → x.n % 32 = 0) ∧ (x.outFmt ≠ 0 → x.round < 2) := by
  unfold matrixCause at h
  split_ifs at h with hf hround hpruned hsize hblock hover
  simp only [Bool.or_eq_true, Bool.and_eq_true, bne_iff_ne, decide_eq_true_eq, not_or, not_and, not_not] at hround hsize hblock
  obtain ⟨⟨⟨hmn, hm⟩, hn⟩, hk⟩ := hsize
  exact ⟨by omega, by omega, by omega, by omega, hblock.1, hblock.2, fun ho => by have := hround ho; omega⟩

theorem matrixStart_rejects {d : Dev} {it : Item} (h : matrixCause (matrixWi it.wi) ≠ 0) :
    matrixStart d it = finish d it (matrixCause (matrixWi it.wi)) := if_pos h

theorem matrixStart_runs {d : Dev} {it : Item} (h : matrixCause (matrixWi it.wi) = 0) : matrixStart d it = d := if_neg (not_not.2 h)

/-! ### The end of a product (R68, R126) -/

section
variable {d : Dev} {t : Nat} {it : Item}

theorem matrixEnd_succeeds (hr : running? d t .matrix = some it) (h : (product d it.uid t (matrixWi it.wi)).2.1 = none) :
    matrixEnd d t = finishWith (product d it.uid t (matrixWi it.wi)).1 it (product d it.uid t (matrixWi it.wi)).2.2
      (matrixCycles (matrixWi it.wi)) 0 := by
  unfold matrixEnd
  rw [hr]
  rcases hp : product d it.uid t (matrixWi it.wi) with ⟨d', r, fl⟩
  obtain rfl : r = _ := by simpa [hp] using h
  simp only [hp]

theorem matrixEnd_fails {c : Nat} (hr : running? d t .matrix = some it) (h : (product d it.uid t (matrixWi it.wi)).2.1 = some c) :
    matrixEnd d t = finishFree (product d it.uid t (matrixWi it.wi)).1 it (product d it.uid t (matrixWi it.wi)).2.2 c := by
  unfold matrixEnd
  rw [hr]
  rcases hp : product d it.uid t (matrixWi it.wi) with ⟨d', r, fl⟩
  obtain rfl : r = _ := by simpa [hp] using h
  simp only [hp]

end

/-! ### The obligation -/

/-- Settles O22, from the branches of the checks and of the product's end. -/
theorem matrixWork : Obligations.MatrixWork := by
  refine ⟨fun d it => ⟨matrixStart_rejects, matrixStart_runs⟩, fun x => ⟨?_, matrixCause_passes⟩, fun s t it hr ht => ?_⟩
  · rw [← formatsBad_iff, matrixCause_formats]
  · exact ⟨matrixEnd s.dev t, answers_act (n := "MATRIX_COMPLETE") rfl ht, matrixEnd_succeeds hr, fun c => matrixEnd_fails hr⟩

end Sys2Proof.Machine
end

section
/-!
Vector operations on registers (R78 to R80, R102, R103), and O24.
-/
namespace Sys2Proof.Machine

/-- A sequence that has an operation next runs it with its work item, its state and its slot. -/
theorem vecDo_of_vecOf {d : Dev} {t : Nat} {it : Item} {r : VecRun} (k : Dev → Item → VecRun → Nat → Dev) (h : vecOf d t = some (it, r)) :
    vecDo d t k = k d it r (r.prog.getD r.slot 0) := by
  unfold vecDo
  rw [h]

/-- Where a work item's number stays, looking it up finds the changed one. -/
theorem itemOf_modItem_self (d : Dev) (u : Nat) {f : Item → Item} (hf : ∀ x, (f x).uid = x.uid) :
    itemOf (modItem d u f) u = (itemOf d u).map f := by
  unfold itemOf modItem
  simp only [onDisp_disp, List.find?_map]
  have hp : ((fun x : Item => decide (x.uid = u)) ∘ fun x => if x.uid = u then f x else x) = fun x => decide (x.uid = u) := by
    funext x
    by_cases h : x.uid = u <;> simp [h, hf]
  rw [hp]
  cases hx : d.disp.items.find? fun x => decide (x.uid = u) with
  | none => rfl
  | some x =>
    have hu : x.uid = u := by simpa using List.find?_some hx
    simp [hu]

theorem advance_next (r : VecRun) (n : Nat) :
    ((advance r n).slot, (advance r n).iter) = if r.slot + n < r.prog.length then (r.slot + n, r.iter) else (0, r.iter + 1) := by
  unfold advance
  split <;> rfl

@[simp] theorem advance_regs (r : VecRun) (n : Nat) : (advance r n).regs = r.regs := by unfold advance; split <;> rfl
@[simp] theorem advance_uid (r : VecRun) (n : Nat) : (advance r n).uid = r.uid := by unfold advance; split <;> rfl

section
variable {r r' : VecRun}

theorem vreg_congr (h : r'.regs = r.regs) (j : Nat) : vreg r' j = vreg r j := by
  unfold vreg
  rw [h]

theorem vreg_put_self {i : Nat} {v : List Nat} (h : r'.regs = put r.regs i v) : vreg r' i = v := by
  unfold vreg
  rw [h, find?_put_self]
  rfl

theorem vreg_put_ne {i j : Nat} {v : List Nat} (h : r'.regs = put r.regs i v) (hj : j ≠ i) : vreg r' j = vreg r j := by
  unfold vreg
  rw [h, find?_put_ne _ _ hj]

end

theorem find?_setVec (d : Dev) {r : VecRun} {u : Nat} (h : r.uid = u) : find? (setVec d r).disp.vec u = some r := by
  subst h
  exact find?_put_self _ _ _

/-- A sequence after the issue of slot `w` with result lanes `v`: the register written, the times of R103, the next slot. -/
def afterIssue (r : VecRun) (w lat : Nat) (srcs v : List Nat) : VecRun :=
  let sfu := decide (0x30 ≤ vOp w ∧ vOp w ≤ 0x33)
  let t := issueAt r srcs (some (vD w)) sfu
  advance { r with regs := put r.regs (vD w) v, ready := put r.ready (vD w) (t + lat), clock := t + 1,
                   sfuFree := if sfu then t + 4 else r.sfuFree, last := max r.last (t + lat) } 1

theorem issue_eq (d : Dev) (it : Item) (r : VecRun) (w lat : Nat) (srcs : List Nat) (f : VecRun → List Nat × Nat) :
    issue d it r w lat srcs f = modItem (setVec d (afterIssue r w lat srcs (f r).1)) it.uid fun y => { y with flags := y.flags ||| (f r).2 } := rfl

theorem afterIssue_regs (r : VecRun) (w lat : Nat) (srcs v : List Nat) : (afterIssue r w lat srcs v).regs = put r.regs (vD w) v := advance_regs _ 1

theorem afterIssue_uid (r : VecRun) (w lat : Nat) (srcs v : List Nat) : (afterIssue r w lat srcs v).uid = r.uid := advance_uid _ 1

/-- A command whose meaning is an issue of the lanes `f` is that register operation (R103). -/
theorem registerOp_of_issue {c : Nat → Instr} {o : Nat} (n : String) (lat : Nat) (srcs : Nat → List Nat) (f : VecRun → Nat → List Nat × Nat)
    (h : ∀ t s, exec (c t) s = act s n (vecAt s.dev t o) (vecDo s.dev t fun d it r w => issue d it r w lat (srcs w) fun r => f r w)) :
    registerOp c o f := by
  intro s t it r hv hu ho
  have hx := answers_act (h t s) ho
  rw [vecDo_of_vecOf _ hv, issue_eq] at hx
  exact ⟨_, _, hx, find?_setVec _ ((afterIssue_uid ..).trans hu), vreg_put_self (afterIssue_regs ..), fun j => vreg_put_ne (afterIssue_regs ..),
    advance_next _ 1, itemOf_modItem_self _ _ fun _ => rfl, rfl⟩

/-! ### The obligation -/

/-- Settles O24: each operation is an issue of its own lanes. -/
theorem vectorFloatOps : Obligations.VectorFloatOps :=
  ⟨registerOp_of_issue "FADD" 4 (fun w => [vA w, vB w]) _ fun _ _ => rfl,
    registerOp_of_issue "FSUB" 4 (fun w => [vA w, vB w]) _ fun _ _ => rfl,
    registerOp_of_issue "FMUL" 4 (fun w => [vA w, vB w]) _ fun _ _ => rfl,
    registerOp_of_issue "FMA" 5 (fun w => [vA w, vB w, vC w]) _ fun _ _ => rfl,
    registerOp_of_issue "FMIN" 2 (fun w => [vA w, vB w]) _ fun _ _ => rfl,
    registerOp_of_issue "FMAX" 2 (fun w => [vA w, vB w]) _ fun _ _ => rfl,
    registerOp_of_issue "FABS" 1 (fun w => [vA w]) _ fun _ _ => rfl,
    registerOp_of_issue "FNEG" 1 (fun w => [vA w]) _ fun _ _ => rfl,
    registerOp_of_issue "FCOPYSIGN" 1 (fun w => [vA w, vB w]) _ fun _ _ => rfl,
    registerOp_of_issue "FCMP" 2 (fun w => [vA w, vB w]) _ fun _ _ => rfl,
    registerOp_of_issue "SELECT" 1 (fun w => [vA w, vB w, vC w]) _ fun _ _ => rfl,
    registerOp_of_issue "ITOF" 3 (fun w => [vA w]) _ fun _ _ => rfl,
    registerOp_of_issue "FTOI" 3 (fun w => [vA w]) _ fun _ _ => rfl,
    registerOp_of_issue "EXP" 14 (fun w => [vA w]) _ fun _ _ => rfl,
    registerOp_of_issue "EXP2" 14 (fun w => [vA w]) _ fun _ _ => rfl,
    registerOp_of_issue "RCP" 12 (fun w => [vA w]) _ fun _ _ => rfl,
    registerOp_of_issue "RSQRT" 12 (fun w => [vA w]) _ fun _ _ => rfl,
    registerOp_of_issue "SUM" 14 (fun w => [vA w]) _ fun _ _ => rfl,
    registerOp_of_issue "LMAX" 10 (fun w => [vA w]) _ fun _ _ => rfl⟩

end Sys2Proof.Machine
end

section
/-!
Conversion to block formats (R57 to R62), and O27.
-/
namespace Sys2Proof.Machine

/-! ### Blocks with a NaN or an infinity (R62) -/

theorem any_not_isFin {l : List FV} : (l.any fun v => !isFin v) = true ↔ ∃ v ∈ l, isFin v = false := by simp

theorem toBlock_not_finite {f rule : Nat} {rnd : Nat → Rnd} {l : List FV} (h : ∃ v ∈ l, isFin v = false) :
    toBlock f rule rnd l = (List.replicate 32 0, 0xFF, flNanBlock) := if_pos (any_not_isFin.2 h)

/-! ### Blocks of finite values (R57 to R60) -/

theorem sharedExp_le (f rule m : Nat) (e : Int) : sharedExp f rule m e ≤ 127 := by
  unfold sharedExp
  dsimp only
  omega

/-- The scale code of a block's largest magnitude is none of the special code 0xFF. -/
theorem scaleCode_le (f rule : Nat) (o : Option (Nat × Int)) :
    (match o with
      | none => ((-127 : Int), 0)
      | some (m, e) => let x := sharedExp f rule m e; (x, (x + 127).toNat)).2 ≤ 254 := by
  cases o with
  | none => exact Nat.zero_le _
  | some me =>
    have := sharedExp_le f rule me.1 me.2
    dsimp only
    omega

/-- Rounding an element can raise SATURATED alone. -/
theorem roundElem_flags (f : Nat) (r : Rnd) (neg : Bool) (m : Nat) (e : Int) :
    (roundElem f r neg m e).2 = 0 ∨ (roundElem f r neg m e).2 = flSaturated := by
  unfold roundElem
  dsimp only
  split_ifs <;> simp

/-- Flags joined along a list share no bit with a mask that none of them shares one with. -/
theorem foldl_or_and {α : Type} (g : α → Nat) {k : Nat} {l : List α} (h : ∀ x ∈ l, g x &&& k = 0) (a : Nat) (ha : a &&& k = 0) :
    (l.foldl (fun a x => a ||| g x) a) &&& k = 0 := by
  induction l generalizing a with
  | nil => exact ha
  | cons x t ih =>
    refine ih (fun y hy => h y (.tail _ hy)) _ ?_
    rw [Nat.and_or_distrib_right, ha, h x (.head _)]
    rfl

/-- The code and flags of an element of a block of finite values with scale entry `entry`. -/
def finiteElem (f entry : Nat) (rnd : Nat → Rnd) (vi : FV × Nat) : Nat × Nat :=
  match vi.1 with
  | .fin n m e => roundElem f (rnd vi.2) n m (e - scaleExp f entry vi.2)
  | _ => (0, 0)

theorem finiteElem_flags (f entry : Nat) (rnd : Nat → Rnd) (vi : FV × Nat) : (finiteElem f entry rnd vi).2 &&& flNanBlock = 0 := by
  obtain ⟨v, i⟩ := vi
  cases v with
  | nan => exact Nat.zero_and _
  | inf n => exact Nat.zero_and _
  | fin n m e =>
    have hf : (finiteElem f entry rnd (.fin n m e, i)).2 = 0 ∨ (finiteElem f entry rnd (.fin n m e, i)).2 = flSaturated :=
      roundElem_flags f (rnd i) n m (e - scaleExp f entry i)
    rcases hf with hf | hf <;> rw [hf] <;> rfl

theorem toBlock_finite (f rule : Nat) (rnd : Nat → Rnd) {l : List FV} (h : ∀ v ∈ l, isFin v = true) :
    ∃ k micro, k ≤ 254 ∧ toBlock f rule rnd l = ((l.zipIdx.map (finiteElem f (k + 256 * micro) rnd)).map (·.1), k + 256 * micro,
      (l.zipIdx.map (finiteElem f (k + 256 * micro) rnd)).foldl (fun a c => a ||| c.2) 0) := by
  have hall : ¬ (l.any fun v => !isFin v) = true := fun ha => by
    obtain ⟨v, hv, hf⟩ := any_not_isFin.1 ha
    exact absurd (h v hv) (by simp [hf])
  exact ⟨_, _, scaleCode_le f rule (maxMag l), if_neg hall⟩

/-! ### Rows of blocks -/

/-- A row in a block format is its first block, converted alone, and the rest. -/
theorem convert_block {f : Nat} (rule round seed ordinal fuel ix : Nat) {l : List Nat} (hf : 2 ≤ f) (hl : l ≠ []) :
    convert f rule round seed ordinal (fuel + 1) ix l =
      let b := toBlock f rule (fun i => rndOf round seed ordinal (ix + i)) ((l.take 32).map decode32)
      let r := convert f rule round seed ordinal fuel (ix + 32) (l.drop 32)
      (b.1 ++ r.1, b.2.1 :: r.2.1, b.2.2 ||| r.2.2) := by
  have h0 : f ≠ 0 := by omega
  have h1 : f ≠ 1 := by omega
  have he : ¬ l.isEmpty = true := fun h => hl (List.isEmpty_iff.1 h)
  rw [convert, if_neg h0, if_neg h1, if_neg he]

/-! ### The obligation -/

/-- Settles O27: the two kinds of block, and a row cut at its first block. -/
theorem nanBlock : Obligations.NanBlock := by
  refine ⟨fun f rule rnd l h => toBlock_not_finite h, fun f rule rnd l h => ?_,
    fun f rule round seed ordinal fuel ix l hf hl => convert_block rule round seed ordinal fuel ix hf hl⟩
  obtain ⟨k, micro, hk, hb⟩ := toBlock_finite f rule rnd h
  rw [hb]
  constructor
  · dsimp only
    omega
  · refine foldl_or_and _ (fun c hc => ?_) 0 rfl
    obtain ⟨vi, -, rfl⟩ := List.mem_map.1 hc
    exact finiteElem_flags f _ rnd vi

end Sys2Proof.Machine
end

section
/-!
FP32 codes as exact values and back (R75, R79), and O28.
-/
namespace Sys2Proof.Machine

/-! ### Rounding a value that is on its grid -/

theorem rneAt_self (m : Nat) (e : Int) : rneAt m e e = m := by simp [rneAt, truncAt]

/-- A magnitude whose exponent is already its quantum is encoded as it stands. -/
theorem toF32_of_quantum (neg : Bool) {m : Nat} {e : Int} (hm : m ≠ 0) (hq : quantum 24 (-149) m e = e) :
    toF32 neg m e = ((encodeIeee 8 23 127 neg m e).1, if (encodeIeee 8 23 127 neg m e).2 then flOverflow else 0) := by
  simp [toF32, hm, hq, rneAt_self]

theorem quantum_subnormal {m : Nat} (hm : m ≠ 0) (h : m < 2 ^ 23) : quantum 24 (-149) m (-149) = -149 := by
  have := (Nat.log2_lt hm).2 h
  simp only [quantum, leadExp]
  omega

theorem quantum_normal {m : Nat} {e : Int} (h : 2 ^ 23 ≤ m) (h' : m < 2 ^ 24) (he : -149 ≤ e) : quantum 24 (-149) m e = e := by
  have hm : m ≠ 0 := by omega
  have h1 := (Nat.log2_lt hm).2 h'
  have h2 := (Nat.le_log2 hm).2 h
  simp only [quantum, leadExp]
  omega

theorem encodeIeee_subnormal (neg : Bool) {m : Nat} (h : m < 2 ^ 23) :
    encodeIeee 8 23 127 neg m (-149) = ((if neg then 2 ^ 31 else 0) + m, false) := by
  have h1 : ¬ m ≥ 2 ^ (23 + 1) := by omega
  unfold encodeIeee
  simp only [if_neg h1, if_pos h]

theorem encodeIeee_normal (neg : Bool) {ex m : Nat} (hx : 1 ≤ ex) (hx' : ex < 255) (h : m < 2 ^ 23) :
    encodeIeee 8 23 127 neg (2 ^ 23 + m) ((ex : Int) - 150) = ((if neg then 2 ^ 31 else 0) + ex * 2 ^ 23 + m, false) := by
  have h1 : ¬ 2 ^ 23 + m ≥ 2 ^ (23 + 1) := by omega
  have h2 : ¬ 2 ^ 23 + m < 2 ^ 23 := by omega
  have h3 : (ex : Int) - 150 + (23 : Nat) + 127 = ex := by omega
  have h4 : ¬ ((2 ^ 8 - 1 : Nat) : Int) ≤ ex := by omega
  unfold encodeIeee
  simp only [if_neg h1, if_neg h2, h3, ge_iff_le, if_neg h4, Int.toNat_natCast]
  simp

/-! ### The fields of a code -/

/-- The FP32 code with a sign, an exponent field and a mantissa field. -/
def code32 (neg : Bool) (ex m : Nat) : Nat := (if neg then 2 ^ 31 else 0) + ex * 2 ^ 23 + m

theorem exists_code32 {x : Nat} (h : x < 2 ^ 32) : ∃ neg ex m, ex < 256 ∧ m < 2 ^ 23 ∧ x = code32 neg ex m := by
  refine ⟨decide (2 ^ 31 ≤ x), x / 2 ^ 23 % 256, x % 2 ^ 23, by omega, by omega, ?_⟩
  unfold code32
  split <;> simp_all <;> omega

section
variable (neg : Bool) {ex m : Nat}

theorem code32_mantissa (hm : m < 2 ^ 23) : code32 neg ex m % 2 ^ 23 = m := by
  unfold code32
  cases neg <;> simp <;> omega

theorem code32_exponent (hx : ex < 256) (hm : m < 2 ^ 23) : (code32 neg ex m >>> 23) % 2 ^ 8 = ex := by
  unfold code32
  rw [Nat.shiftRight_eq_div_pow]
  cases neg <;> simp <;> omega

theorem code32_sign (hx : ex < 256) (hm : m < 2 ^ 23) : bitOf (code32 neg ex m) 31 = neg := by
  unfold code32 bitOf
  rw [Nat.testBit_eq_decide_div_mod_eq]
  cases neg <;> simp <;> omega

theorem decode32_code32 (hx : ex < 256) (hm : m < 2 ^ 23) : decode32 (code32 neg ex m) =
    if ex = 255 then (if m = 0 then .inf neg else .nan)
    else if ex = 0 then .fin neg m (-149) else .fin neg (2 ^ 23 + m) ((ex : Int) - 150) := by
  unfold decode32 decodeIeee decodePlain
  simp only [code32_mantissa neg hm, code32_exponent neg hx hm, code32_sign neg hx hm]
  split
  · simp_all
  · split
    · simp_all
    · simp_all; omega

end

/-! ### There and back -/

theorem encode32_decode32 {x : Nat} (h : x < 2 ^ 32) (hn : decode32 x ≠ .nan) : encode32 (decode32 x) = (x, 0) := by
  obtain ⟨neg, ex, m, hx, hm, rfl⟩ := exists_code32 h
  rw [decode32_code32 neg hx hm] at hn ⊢
  by_cases h255 : ex = 255
  · subst h255
    by_cases h0 : m = 0
    · subst h0
      cases neg <;> rfl
    · simp [h0] at hn
  by_cases hx0 : ex = 0
  · subst hx0
    by_cases h0 : m = 0
    · subst h0
      cases neg <;> rfl
    · rw [if_neg h255, if_pos rfl, encode32, toF32_of_quantum neg h0 (quantum_subnormal h0 hm), encodeIeee_subnormal neg hm]
      simp [code32]
  · have hq := quantum_normal (m := 2 ^ 23 + m) (e := (ex : Int) - 150) (by omega) (by omega) (by omega)
    rw [if_neg h255, if_neg hx0, encode32, toF32_of_quantum neg (by omega) hq, encodeIeee_normal neg (by omega) (by omega) hm]
    rfl

/-! ### NaN operands (R79) -/

theorem addFV_nan_left (v : FV) : addFV .nan v = (.nan, 0) := rfl
theorem addFV_nan_right (v : FV) : addFV v .nan = (.nan, 0) := by cases v <;> rfl
theorem mulFV_nan_left (v : FV) : mulFV .nan v = (.nan, 0) := rfl
theorem mulFV_nan_right (v : FV) : mulFV v .nan = (.nan, 0) := by cases v <;> rfl

/-! ### The obligation -/

/-- Settles O28: by the fields of a code, and by the rows of the sum and the product where an operand is a NaN. -/
theorem fp32RoundTrip : Obligations.Fp32RoundTrip := by
  refine ⟨fun x => encode32_decode32, fun x h => ?_, fun a b h => ?_⟩
  · rw [h]
    rfl
  · unfold fAdd fMul
    rw [h, addFV_nan_left, mulFV_nan_left, addFV_nan_right, mulFV_nan_right]
    exact ⟨rfl, rfl, rfl, rfl⟩

end Sys2Proof.Machine
end

section
/-!
Reads and writes of a scratchpad whose words carry no error, by the tile's own units (R48, R171, R182).
-/
namespace Sys2Proof.Machine

/-! ### Addresses -/

/-- The bytes [a, a+n) lie in the scratchpad of tile `t`. -/
def inScratch (t a n : Nat) : Prop := t < tiles ∧ spAddr t 0 ≤ a ∧ a + n ≤ spAddr t spBytes

theorem inScratch_spAddr {t o n : Nat} (ht : t < tiles) (h : o + n ≤ spBytes) : inScratch t (spAddr t o) n := by
  unfold inScratch spAddr at *
  exact ⟨ht, by omega, by omega⟩

theorem inScratch_drop {t a n k : Nat} (h : inScratch t a n) (hk : k ≤ n) : inScratch t (a + k) (n - k) := by
  obtain ⟨ht, h1, h2⟩ := h
  exact ⟨ht, by omega, by omega⟩

theorem place_scratch {t a n : Nat} (d : Dev) (h : inScratch t a n) (hn : 0 < n) : place d a = .scratch t (a - spAddr t 0) := by
  obtain ⟨ht, h1, h2⟩ := h
  have hend : spAddr t spBytes = spAddr t 0 + spBytes := by unfold spAddr; omega
  have hbase : spAddr t 0 = spBase + t * 0x200000 := Nat.add_zero _
  have hhbm : hbmEnd ≤ spBase := by decide
  have hddr : 2 * ddrBase = spBase := by decide
  have hlen : spBytes ≤ 0x200000 := by decide
  obtain ⟨o, rfl⟩ : ∃ o, a = spAddr t 0 + o := ⟨a - spAddr t 0, by omega⟩
  have hq : (spAddr t 0 + o - spBase) / 0x200000 = t := by omega
  have hr : (spAddr t 0 + o - spBase) % 0x200000 = o := by omega
  unfold place
  dsimp only
  rw [if_neg (by omega), if_neg (by omega), if_pos (by omega), hq, hr, if_pos (by omega), Nat.add_sub_cancel_left]

/-! ### Sound memories -/

/-- No word or line carries an error and no compressed region is enabled. -/
def soundMem (d : Dev) : Prop := (∀ x, find? d.mem.ecc x = none) ∧ ∀ x, cmpRegion d x = none

theorem wake_eq (d : Dev) (m : Domain) : wake d m = { d with pwr := (wake d m).pwr } := by
  unfold wake
  split <;> rfl

/-- A demand read of a scratchpad word without an error wakes the tile and does nothing else. -/
theorem demand_sound {d : Dev} (hs : soundMem d) (t o b : Nat) : demand d (.scratch t o) b = (wake d (.tile t), none) := by
  have he : eccAt (wake d (.tile t)) (.scratch t o) b = none := by
    rw [wake_eq]
    exact hs.1 b
  unfold demand
  simp [touch_, isMemory, he]

/-! ### Reads -/

theorem demandRange_sound {d : Dev} {t : Nat} (hs : soundMem d) (fuel : Nat) {a n : Nat} (h : inScratch t a n) :
    ∃ p, demandRange d fuel a n = ({ d with pwr := p }, none) := by
  induction fuel generalizing d a n with
  | zero => exact ⟨d.pwr, rfl⟩
  | succ fuel ih =>
    rw [demandRange]
    by_cases hn : n = 0
    · exact ⟨d.pwr, if_pos hn⟩
    · rw [if_neg hn, place_scratch d h (by omega)]
      simp only [hs.2 a, demand_sound hs, grain]
      rw [wake_eq]
      obtain ⟨p, hp⟩ := ih (d := { d with pwr := (wake d (.tile t)).pwr }) hs (inScratch_drop h (min_le_left n (a / 8 * 8 + 8 - a)))
      rw [hp]
      exact ⟨p, rfl⟩

/-- A unit's read of its tile's scratchpad gives the bytes that lie there. -/
theorem spRead_sound {d : Dev} {t o n : Nat} (hs : soundMem d) (ht : t < tiles) (h : o + n ≤ spBytes) :
    ∃ p, spRead d t o n = ({ d with pwr := p }, none, getBytes d (spAddr t o) n) := by
  obtain ⟨p, hp⟩ := demandRange_sound hs n (inScratch_spAddr ht h)
  refine ⟨p, ?_⟩
  unfold spRead memRead
  rw [hp]
  rfl

/-! ### Writes -/

/-- From `d` to `e` the bytes `bs` have been written at `a` and nothing else but error states, token shadows and wakes has
changed; no error is left. -/
def Stored (d e : Dev) (a : Nat) (bs : List Byte) : Prop :=
  ∃ p m k, e = { d with pwr := p, mem := m, disp := { d.disp with tokens := k } } ∧ m.bytes = writeSparse d.mem.bytes a bs ∧
    ∀ x, find? m.ecc x = none

theorem writeSparse_append (m : KMap Byte) (a : Nat) (xs ys : List Byte) :
    writeSparse m a (xs ++ ys) = writeSparse (writeSparse m a xs) (a + xs.length) ys := by
  induction xs generalizing m a with
  | nil => rfl
  | cons b t ih =>
    simp only [List.cons_append, writeSparse, List.length_cons]
    rw [ih, show a + 1 + t.length = a + (t.length + 1) by omega]

section
variable {d e f : Dev} {a : Nat} {bs : List Byte}

theorem Stored.nil (hs : soundMem d) (a : Nat) : Stored d d a [] := ⟨d.pwr, d.mem, d.disp.tokens, rfl, rfl, hs.1⟩

theorem Stored.append {cs : List Byte} (h : Stored d e a bs) (h' : Stored e f (a + bs.length) cs) : Stored d f a (bs ++ cs) := by
  obtain ⟨p, m, k, rfl, hb, -⟩ := h
  obtain ⟨p', m', k', rfl, hb', he'⟩ := h'
  exact ⟨p', m', k', rfl, by rw [hb', writeSparse_append]; exact congrArg (writeSparse · _ cs) hb, he'⟩

theorem Stored.sound (h : Stored d e a bs) (hs : soundMem d) : soundMem e := by
  obtain ⟨p, m, k, rfl, -, he⟩ := h
  exact ⟨he, hs.2⟩

theorem Stored.contested (h : Stored d e a bs) (w : Writer) (t : Nat) : contested e t (portAt e w t) = contested d t (portAt d w t) := by
  obtain ⟨p, m, k, rfl, -, -⟩ := h
  rfl

theorem Stored.getBytes (h : Stored d e a bs) (x n : Nat) : getBytes e x n = getBytes (setBytes d a bs) x n := by
  obtain ⟨p, m, k, rfl, hb, -⟩ := h
  exact congrArg (readSparse · x n) hb

theorem readSparse_writeSparse_disjoint (m : KMap Byte) {a x n : Nat} {bs : List Byte} (h : bs = [] ∨ x + n ≤ a ∨ a + bs.length ≤ x) :
    readSparse (writeSparse m a bs) x n = readSparse m x n := by
  rcases h with rfl | h
  · rfl
  refine List.ext_getElem (by simp [length_readSparse]) fun i h1 h2 => ?_
  rw [length_readSparse] at h1
  rw [getElem_readSparse, getElem_readSparse, getD_writeSparse_out _ _ _ _ (by omega)]

theorem Stored.written (h : Stored d e a bs) : Machine.getBytes e a bs.length = bs := (h.getBytes a _).trans (getBytes_setBytes d a bs)

theorem Stored.kept {x n : Nat} (h : Stored d e a bs) (hx : bs = [] ∨ x + n ≤ a ∨ a + bs.length ≤ x) :
    Machine.getBytes e x n = Machine.getBytes d x n := (h.getBytes x n).trans (readSparse_writeSparse_disjoint _ hx)

end

theorem shadowNote_eq (d : Dev) (b : Nat) : shadowNote d b = { d with disp := { d.disp with tokens := (shadowNote d b).disp.tokens } } := by
  unfold shadowNote
  split <;> rfl

theorem find?_del_none {α : Type} {m : KMap α} (h : ∀ x, find? m x = none) (b x : Nat) : find? (del m b) x = none := by
  by_cases hx : x = b
  · rw [hx, find?_del_self]
  · rw [find?_del_ne m hx, h x]

theorem soundMem_wake {d : Dev} (hs : soundMem d) (m : Domain) : soundMem (wake d m) := by
  rw [wake_eq]
  exact hs

theorem writeUnit_sound {d : Dev} (hs : soundMem d) (t o b a : Nat) (bs : List Byte) (byItem : Bool) :
    ∃ e, writeUnit d (.scratch t o) b a bs byItem = (e, none) ∧ Stored d e a bs := by
  unfold writeUnit
  simp only [isMemory, unitFailed, demand_sound hs, grain, touch_, Bool.not_true, Bool.false_eq_true, if_false]
  split
  · refine ⟨_, rfl, ?_⟩
    rw [shadowNote_eq, wake_eq]
    exact ⟨_, _, _, rfl, rfl, find?_del_none hs.1 b⟩
  · refine ⟨_, rfl, ?_⟩
    rw [shadowNote_eq, wake_eq]
    exact ⟨_, _, _, rfl, rfl, hs.1⟩

theorem memWrite_sound {t : Nat} (byItem : Bool) (fuel : Nat) {d : Dev} {a : Nat} {bs : List Byte} (hs : soundMem d)
    (h : inScratch t a bs.length) (hf : bs.length ≤ fuel) : ∃ e, memWrite d byItem fuel a bs = (e, none) ∧ Stored d e a bs := by
  induction fuel generalizing d a bs with
  | zero =>
    obtain rfl := List.eq_nil_of_length_eq_zero (Nat.le_zero.1 hf)
    exact ⟨d, rfl, Stored.nil hs a⟩
  | succ fuel ih =>
    rw [memWrite]
    by_cases hn : bs = []
    · subst hn
      exact ⟨d, rfl, Stored.nil hs a⟩
    · have hpos := List.length_pos_iff.2 hn
      rw [if_neg (by simpa using hn), place_scratch d h hpos]
      simp only [hs.2 a, grain]
      obtain ⟨k, hk⟩ : ∃ k, k = min bs.length (a / 8 * 8 + 8 - a) := ⟨_, rfl⟩
      rw [← hk]
      have hlen : (bs.take k).length = k := by rw [List.length_take]; omega
      obtain ⟨e, he, hst⟩ := writeUnit_sound hs t (a - spAddr t 0) (a / 8 * 8) a (bs.take k) byItem
      obtain ⟨e', he', hst'⟩ := ih (hst.sound hs) (bs := bs.drop k) (by rw [List.length_drop]; exact inScratch_drop h (by omega))
        (by rw [List.length_drop]; omega)
      rw [he, he']
      refine ⟨e', rfl, ?_⟩
      rw [← hlen] at hst'
      have := hst.append hst'
      rwa [hlen, List.take_append_drop] at this

theorem memStore_nil (d : Dev) (w : Writer) (src a : Nat) : memStore d w src a [] = (d, none) := by
  unfold memStore
  split
  · split <;> rfl
  · rfl

theorem memStore_uncontested {d : Dev} {w : Writer} {src a t o : Nat} (bs : List Byte) (hp : place d a = .scratch t o)
    (hc : contested d t (portAt d w t) = false) : memStore d w src a bs = memWrite d w.uid.isSome bs.length a bs := by
  unfold memStore
  rw [hp]
  simp only [hc, Bool.false_eq_true, if_false]

/-- A unit's write to its tile's scratchpad that no other unit can take a word from stores its bytes. -/
theorem spWrite_sound {d : Dev} {u t o : Nat} {bs : List Byte} (hs : soundMem d) (ht : t < tiles) (h : o + bs.length ≤ spBytes ∨ bs = [])
    (hc : contested d t (portAt d (.item u) t) = false) : ∃ e, spWrite d u t o bs = (e, none) ∧ Stored d e (spAddr t o) bs := by
  unfold spWrite
  by_cases hn : bs = []
  · subst hn
    exact ⟨d, memStore_nil .., Stored.nil hs _⟩
  · have hi := inScratch_spAddr ht (h.resolve_right hn)
    rw [memStore_uncontested bs (place_scratch d hi (List.length_pos_iff.2 hn)) hc]
    exact memWrite_sound _ _ hs hi le_rfl

end Sys2Proof.Machine
end

section
/-!
LOAD and STORE of the vector unit (R78, R101 to R104), and O25.
-/
namespace Sys2Proof.Machine

/-- The offsets of the planes a LOAD or STORE in slot `w` names (R101). -/
def planesAt (r : VecRun) (w : Nat) : Nat × Nat := memOffsets w (r.prog.getD (r.slot + 1) 0) r.iter

/-! ### LOAD -/

/-- The bytes a LOAD in slot `w` reads of its element plane, and of its scale plane. -/
def loadElems (d : Dev) (it : Item) (r : VecRun) (w : Nat) : List Byte := getBytes d (spAddr it.tile (planesAt r w).1) (vElemBytes (vFmt w))

def loadScales (d : Dev) (it : Item) (r : VecRun) (w : Nat) : List Byte :=
  if isBlock (vFmt w) then getBytes d (spAddr it.tile (planesAt r w).2) (vScaleBytes (vFmt w)) else []

/-- The lanes a LOAD of format `f` gives from the bytes of its planes (R78). -/
def loadLanes (f : Nat) (es ss : List Byte) : List Nat :=
  if f = 0 then codes 32 256 es else (denseRow f 256 es ss).1.map fun v => (encode32 v).1

section
variable {d : Dev} {it : Item} {r : VecRun} {w : Nat}

/-- Where the planes can be read, a LOAD writes its register and changes times, flags and wakes beside it. -/
theorem loadSlot_sound (hs : soundMem d) (ht : it.tile < tiles) (he : (planesAt r w).1 + vElemBytes (vFmt w) ≤ spBytes)
    (hsc : isBlock (vFmt w) = true → (planesAt r w).2 + vScaleBytes (vFmt w) ≤ spBytes) :
    ∃ p k c l g, loadSlot d it r w = modItem (setVec { d with pwr := p } (advance
      { r with regs := put r.regs (vD w) (loadLanes (vFmt w) (loadElems d it r w) (loadScales d it r w)), ready := k, clock := c, last := l } 2))
      it.uid g := by
  obtain ⟨p, hp⟩ := spRead_sound hs ht he
  obtain ⟨q, hq⟩ : ∃ q, (if isBlock (vFmt w) then spRead { d with pwr := p } it.tile (planesAt r w).2 (vScaleBytes (vFmt w))
      else ({ d with pwr := p }, none, [])) = ({ d with pwr := q }, none, loadScales d it r w) := by
    unfold loadScales
    by_cases hb : isBlock (vFmt w) = true
    · obtain ⟨q, hq⟩ := spRead_sound (d := { d with pwr := p }) hs ht (hsc hb)
      rw [if_pos hb, if_pos hb]
      exact ⟨q, hq⟩
    · rw [if_neg hb, if_neg hb]
      exact ⟨p, rfl⟩
  have hl (f : Nat) (es ss : List Byte) :
      (if f = 0 then codes 32 256 es else ((denseRow f 256 es ss).1.map encode32).map (·.1)) = loadLanes f es ss := by
    simp [loadLanes, List.map_map, Function.comp_def]
  unfold planesAt at hp hq
  unfold loadSlot
  simp only [hp, hq, Option.orElse_none, hl]
  exact ⟨q, _, _, _, _, rfl⟩

/-! ### STORE -/

/-- The element codes, scale entries and flags of a STORE in slot `w` (R104). -/
def storeCodes (it : Item) (r : VecRun) (w : Nat) : List Nat × List Nat × Nat :=
  convert (vFmt w) (vRule w) (vRound w) (seqSeed it.wi) r.ordinal 9 (r.iter * 256) (vreg r (vA w))

def storeElems (it : Item) (r : VecRun) (w : Nat) : List Byte := packCodes (elemBits (vFmt w)) (storeCodes it r w).1

def storeScales (it : Item) (r : VecRun) (w : Nat) : List Byte :=
  if isBlock (vFmt w) then packCodes (8 * scaleBytes (vFmt w)) (storeCodes it r w).2.1 else []

/-- A format without scale entries writes no byte of a scale plane. -/
theorem spWrite_storeScales (d : Dev) (u t o : Nat) (it : Item) (r : VecRun) (w : Nat) : spWrite d u t o (storeScales it r w) =
    if isBlock (vFmt w) then spWrite d u t o (packCodes (8 * scaleBytes (vFmt w)) (storeCodes it r w).2.1) else (d, none) := by
  unfold storeScales
  split
  · rfl
  · exact memStore_nil ..

theorem storeSlot_eq {e e' : Dev} (h : spWrite d it.uid it.tile (planesAt r w).1 (storeElems it r w) = (e, none))
    (h' : spWrite e it.uid it.tile (planesAt r w).2 (storeScales it r w) = (e', none)) :
    ∃ k l j g, storeSlot d it r w = modItem (setVec e' (advance { r with clock := k, last := l, ordinal := j } 2)) it.uid g := by
  rw [spWrite_storeScales] at h'
  unfold storeElems storeCodes planesAt at *
  -- `storeSlot` is unfolded before it meets its arguments: the kernel would otherwise evaluate the write's address to compare the two forms
  have hF : storeSlot = storeSlot := rfl
  conv at hF => rhs; delta storeSlot
  rw [hF]
  simp only [h, h', Option.orElse_none]
  exact ⟨_, _, _, _, rfl⟩

/-- Where the planes can be written, a STORE writes its converted lanes and changes times, flags, the ordinal and wakes beside them. -/
theorem storeSlot_sound (hs : soundMem d) (ht : it.tile < tiles) (hc : contested d it.tile (portAt d (.item it.uid) it.tile) = false)
    (he : (planesAt r w).1 + (storeElems it r w).length ≤ spBytes)
    (hsb : (planesAt r w).2 + (storeScales it r w).length ≤ spBytes ∨ storeScales it r w = []) :
    ∃ e e' k l j g, Stored d e (spAddr it.tile (planesAt r w).1) (storeElems it r w) ∧
      Stored e e' (spAddr it.tile (planesAt r w).2) (storeScales it r w) ∧
      storeSlot d it r w = modItem (setVec e' (advance { r with clock := k, last := l, ordinal := j } 2)) it.uid g := by
  obtain ⟨e, hw, hst⟩ := spWrite_sound hs ht (.inl he) hc
  obtain ⟨e', hw', hst'⟩ := spWrite_sound (hst.sound hs) ht hsb ((hst.contested _ _).trans hc)
  obtain ⟨k, l, j, g, hx⟩ := storeSlot_eq hw hw'
  exact ⟨e, e', k, l, j, g, hst, hst', hx⟩

end

/-! ### The obligation -/

/-- Settles O25: both from what a unit's reads and writes of a sound scratchpad do. -/
theorem vectorLoadStore : Obligations.VectorLoadStore := by
  intro s t it r hv hu ht hecc hcmp w o E S c eb sb next
  have hs : soundMem s.dev := ⟨hecc, hcmp⟩
  refine ⟨fun hat he hsc => ?_, fun hat he hsb hc => ?_⟩
  · have hx : Answers (.load t) s (loadSlot s.dev it r w) := by
      have := answers_act (c := .load t) (n := "LOAD") rfl hat
      rwa [vecDo_of_vecOf vopLoad hv] at this
    obtain ⟨p, k, c, l, g, hl⟩ := loadSlot_sound (w := w) hs ht he hsc
    rw [hl] at hx
    exact ⟨_, _, hx, find?_setVec _ ((advance_uid ..).trans hu), advance_next _ 2, vreg_put_self (advance_regs ..),
      fun j => vreg_put_ne (advance_regs ..), rfl⟩
  · have hx : Answers (.store t) s (storeSlot s.dev it r w) := by
      have := answers_act (c := .store t) (n := "STORE") rfl hat
      rwa [vecDo_of_vecOf vopStore hv] at this
    obtain ⟨e, e', k, l, j, g, (hst : Stored s.dev e (spAddr it.tile o.1) eb), (hst' : Stored e e' (spAddr it.tile o.2) sb), hl⟩ :=
      storeSlot_sound (r := r) (w := w) hs ht hc he hsb
    rw [hl] at hx
    refine ⟨_, _, hx, find?_setVec _ ((advance_uid ..).trans hu), advance_next _ 2, vreg_congr (advance_regs ..), fun hd => ?_, hst'.written,
      fun a h1 h2 => ?_, ?_⟩
    · refine (hst'.kept (hd.imp_right ?_)).trans hst.written
      unfold spAddr
      omega
    · exact (hst'.kept (by omega)).trans (hst.kept (by omega))
    · obtain ⟨p, m, q, rfl, -, -⟩ := hst
      obtain ⟨p', m', q', rfl, -, -⟩ := hst'
      rfl

end Sys2Proof.Machine
end

section
/-!
Tile faults, retirement and the switch-over to a spare (R82, R505 to R509), and O32.
-/
namespace Sys2Proof.Machine

/-! ### A tile faults (R505, R506) -/

/-- The device once a tile's fault has been reported and its units have stopped. -/
def faultStopped (d : Dev) (t cls : Nat) : Dev :=
  stopUnits (faultEvent (openField d).2 ((tileOwner d t).getD 0) 0 0xEC cls 1 t (openField d).1) t

/-- Tile `t` takes no work items and waits for its spare. -/
def awaitSpare (d : Dev) (t : Nat) (w : Swap) : Dev :=
  onSafe (onDisp (wake d (.spare (spareOf t))) fun s => { s with blocked := t :: s.blocked.filter (· ≠ t) })
    fun x => { x with swaps := put x.swaps t w }

theorem awaitSpare_spec (d : Dev) (t : Nat) (w : Swap) : t ∈ (awaitSpare d t w).disp.blocked ∧ find? (awaitSpare d t w).safe.swaps t = some w ∧
    onlyRegs { d with disp := (awaitSpare d t w).disp, safe := (awaitSpare d t w).safe, pwr := (awaitSpare d t w).pwr } (awaitSpare d t w) [] := by
  unfold awaitSpare
  rw [wake_eq]
  exact ⟨List.mem_cons_self, find?_put_self _ _ _, rfl, fun _ _ _ => rfl⟩

section
variable (d : Dev) (t cls : Nat) (copy asked : Bool)

/-- A tile that faults fails when it is being released or has no spare, and waits for its spare otherwise. -/
theorem tileFault_eq : tileFault d t cls copy asked =
    if isSet (faultStopped d t cls) .tileOwnerReleasing t || !spareFree (faultStopped d t cls) t then failTile (faultStopped d t cls) t cls
    else awaitSpare (faultStopped d t cls) t { cls := cls, copy := copy, retire := asked } := rfl

variable {d t cls}

theorem tileFault_fails (h : isSet (faultStopped d t cls) .tileOwnerReleasing t = true ∨ spareFree (faultStopped d t cls) t = false) :
    tileFault d t cls copy asked = failTile (faultStopped d t cls) t cls := by
  rw [tileFault_eq, if_pos (by simpa using h)]

theorem tileFault_waits (hr : isSet (faultStopped d t cls) .tileOwnerReleasing t = false) (hs : spareFree (faultStopped d t cls) t = true) :
    tileFault d t cls copy asked = awaitSpare (faultStopped d t cls) t { cls := cls, copy := copy, retire := asked } := by
  rw [tileFault_eq, if_neg (by simp [hr, hs])]

end

/-! ### What finds a fault (R82, R505) -/

section
variable {d : Dev} {t : Nat} {v : Bool}

theorem checkFailed_item {it : Item} (h : checkedItem d t v = some it) :
    checkFailed d t v = tileFault (finishFree (orphan (dropWalk d it.uid) it.uid) it it.flags 0x46) t 8 true false := by
  unfold checkFailed
  rw [h]

theorem checkFailed_home (h : checkedItem d t v = none) : checkFailed d t v = tileFault d t 8 true false := by
  unfold checkFailed
  rw [h]

end

/-! ### Retirement (R509) -/

/-- TILE holds the tile the driver names. -/
theorem rd_retireTile (d : Dev) {t : Nat} (ht : t < 2048) : rd (wr d .safetyTileRetireTile 0 t) .safetyTileRetireTile 0 = t :=
  (rd_wr_self d _ _ _ rfl).trans (Nat.mod_eq_of_lt ht)

theorem isSet_wr_ne (d : Dev) {f g : Fld} {i j : Nat} (v : Nat) (hg : g.info.voted = false) (h : g ≠ f) : isSet (wr d f i v) g j = isSet d g j := by
  unfold isSet
  rw [rd_wr_ne d v hg (.inl h)]

/-- A tile that the driver asks to retire and that cannot be: no tile, failed, or without a spare. -/
def retireBad (d : Dev) (t : Nat) : Prop := tiles ≤ t ∨ tileFailedBit d t = true ∨ spareFree d t = false

/-- Whether a tile can retire does not rest on TILE. -/
theorem retireBad_wr (d : Dev) (t v : Nat) : retireBad (wr d .safetyTileRetireTile 0 v) t ↔ retireBad d t := by
  unfold retireBad tileFailedBit spareFree
  rw [rd_wr_ne d v rfl (.inl (by decide)), rd_wr_ne d v rfl (.inl (by decide)), wr_safe]

theorem retireGo_busy {d : Dev} (hb : isSet d .safetyTileRetireBusy = true) : retireGo d = d := if_pos hb

section
variable {d : Dev} {t : Nat} (ht : rd d .safetyTileRetireTile = t)
include ht

theorem retireGo_refused (hb : isSet d .safetyTileRetireBusy = false) (h : retireBad d t) : retireGo d = wr d .safetyTileRetireResult 0 0xEA := by
  unfold retireGo retireBad at *
  simp only [hb, ht, Bool.false_eq_true, if_false]
  rw [if_pos (by simpa using h)]

theorem retireGo_runs (hb : isSet d .safetyTileRetireBusy = false) (h : ¬ retireBad d t) :
    let f := tileFault (wr d .safetyTileRetireBusy 0 1) t 9 true true
    ((find? f.safe.swaps t).isSome = true → retireGo d = f) ∧
    (find? f.safe.swaps t = none → retireGo d = wr (wr f .safetyTileRetireBusy 0 0) .safetyTileRetireResult 0 0) := by
  have hgo : retireGo d = if (find? (tileFault (wr d .safetyTileRetireBusy 0 1) t 9 true true).safe.swaps t).isSome
      then tileFault (wr d .safetyTileRetireBusy 0 1) t 9 true true
      else wr (wr (tileFault (wr d .safetyTileRetireBusy 0 1) t 9 true true) .safetyTileRetireBusy 0 0) .safetyTileRetireResult 0 0 := by
    unfold retireGo retireBad at *
    simp only [hb, ht, Bool.false_eq_true, if_false]
    rw [if_neg (by simpa using h)]
  exact ⟨fun hf => hgo.trans (if_pos hf), fun hf => hgo.trans (if_neg (by simp [hf]))⟩

end

/-! ### The spare takes over (R507, R508) -/

theorem memOnly_scrubUnit (d : Dev) (b : Nat) (c : Option Nat) : MemOnly d (scrubUnit d b c) := by
  unfold scrubUnit
  dsimp only
  split
  · exact .refl d
  · split
    · exact (memOnly_setEcc _ _ _).trans (memOnly_countCe _ _ _)
    · split
      · exact ((memOnly_setBytes _ _ _).trans (memOnly_setEcc _ _ _)).trans (memOnly_countCe _ _ _)
      · exact memOnly_poison _ _ _ _
    · exact .refl d

theorem memOnly_copyWords (d : Dev) (t : Nat) : MemOnly d (copyWords d t) := memOnly_foldl _ (fun _ _ => memOnly_scrubUnit _ _ _) _ d

theorem memOnly_restoreTokens (d : Dev) (t : Nat) : MemOnly d (restoreTokens d t) :=
  memOnly_foldl _ (fun _ _ => (memOnly_setBytes _ _ _).trans (memOnly_setEcc _ _ _)) _ d

/-- Journals are no part of what an access to memory changes. -/
theorem MemOnly.journals {d e : Dev} (h : MemOnly d e) : e.disp.journals = d.disp.journals := by
  obtain ⟨_, _, _, _, _, _, _, _, rfl⟩ := h.rest
  rfl

theorem safetyEvent_disp (d : Dev) (ty part die cause cls region unit detail run lost : Nat) :
    (safetyEvent d ty part die cause cls region unit detail run lost).disp = d.disp := by
  obtain ⟨x, e, hx, h, -⟩ := safetyEvent_only d ty part die cause cls region unit detail run lost
  have hd : x.disp = d.disp := (congrArg Dev.disp h :)
  rw [hx, postEq_disp, hd]

/-- The fields of a spare's entry in the spare map (R26). -/
def mapFlds : List Fld := [.spareMapUse, .spareMapTile]

/-- A switch-over writes no other field that is voted or shared with the spare map. -/
theorem mapFlds_apart : ∀ f ∈ mapFlds, f.info.voted = false ∧ f ∉ memFlds ∧ .safetyFaultSeq ∉ votedWith f ∧ .safetyLastRecord ∉ votedWith f ∧
    ∀ g ∈ [Fld.sparesRuntimeLeft, .sparesInService, .mgmtAlertPending, .powerTileState], f ≠ g := by decide

section
variable (d : Dev) (s t : Nat)

theorem putInService_disp : (putInService d s t).disp = d.disp := by
  unfold putInService
  dsimp only
  split
  · rw [faultEvent, safetyEvent_disp]
    simp [alert, bump, drop1]
  · simp [bump, drop1]

/-- Putting a spare into service leaves the map's entry as it was written, whatever it reports. -/
theorem rd_putInService {f : Fld} (hf : f ∈ mapFlds) :
    rd (putInService d s t) f s = rd (wr (wr d .spareMapUse s 2) .spareMapTile s t) f s := by
  obtain ⟨hv, -, hseq, hlast, hne⟩ := mapFlds_apart f hf
  have hcount (d : Dev) (x y : Nat) : rd (wr (wr d .sparesRuntimeLeft 0 x) .sparesInService 0 y) f s = rd d f s := by
    rw [rd_wr_ne _ _ hv (.inl (hne _ (by decide))), rd_wr_ne _ _ hv (.inl (hne _ (by decide)))]
  unfold putInService
  dsimp only
  split
  · rw [faultEvent, rd_safetyEvent _ _ _ _ _ _ _ _ _ _ _ _ _ hseq hlast, alert, rd_wr_ne _ _ hv (.inl (hne _ (by decide)))]
    exact hcount _ _ _
  · exact hcount _ _ _

end

/-- The device once the spare has taken tile `t`'s endpoint, before its journal is read (R507, R508). -/
def swappedIn (d : Dev) (t : Nat) (w : Swap) : Dev :=
  setDomState (restoreTokens (onSafe (putInService (if w.copy then copyWords d t else zeroScratch d t) (spareOf t) t)
    fun x => { x with swaps := put x.swaps t { w with taken := true } }) t) (.tile t) 0

section
variable (d : Dev) (t : Nat) (w : Swap)

theorem journalOf_swappedIn : journalOf (swappedIn d t w) t = journalOf d t := by
  have hcopy : (if w.copy then copyWords d t else zeroScratch d t).disp.journals = d.disp.journals := by
    split
    · exact (memOnly_copyWords d t).journals
    · rfl
  unfold journalOf swappedIn setDomState
  rw [wr_disp, (memOnly_restoreTokens _ t).journals, onSafe_disp, putInService_disp, hcopy]

theorem rd_swappedIn {f : Fld} (hf : f ∈ mapFlds) :
    rd (swappedIn d t w) f (spareOf t) = rd (wr (wr (if w.copy then copyWords d t else zeroScratch d t) .spareMapUse (spareOf t) 2)
      .spareMapTile (spareOf t) t) f (spareOf t) := by
  obtain ⟨hv, hmem, -, -, hne⟩ := mapFlds_apart f hf
  unfold swappedIn setDomState
  rw [rd_wr_ne _ _ hv (.inl (hne _ (by decide))), (memOnly_restoreTokens _ t).regs _ _ hmem, rd_onSafe, rd_putInService _ _ _ hf]

theorem swappedIn_use : rd (swappedIn d t w) .spareMapUse (spareOf t) = 2 := by
  rw [rd_swappedIn d t w (by decide), rd_wr_ne _ _ rfl (.inl (by decide)), rd_wr_self _ _ _ _ rfl]
  rfl

theorem swappedIn_tile (ht : t < tiles) : rd (swappedIn d t w) .spareMapTile (spareOf t) = t := by
  rw [rd_swappedIn d t w (by decide), rd_wr_self _ _ _ _ rfl]
  exact Nat.mod_eq_of_lt (lt_trans ht (by decide))

theorem swappedIn_domState : domState (swappedIn d t w) (.tile t) = 0 := rd_wr_self _ _ _ _ rfl

/-- Where the journal lists nothing there is nothing to replay. -/
theorem spareTakes_nothing (h : journalOf d t = {}) : spareTakes d t w = replayEnd (swappedIn d t w) t 0 := by
  have hj : journalOf (swappedIn d t w) t = {} := (journalOf_swappedIn d t w).trans h
  have hread : journalRead (swappedIn d t w) t = (swappedIn d t w, true) := by
    unfold journalRead
    rw [hj]
    rfl
  unfold spareTakes
  dsimp only
  rw [← swappedIn, hread]
  simp [hj]

end

/-! ### The obligation -/

/-- Settles O32: each command by its effect, a fault by whether a spare can take the tile. -/
theorem tileFaultRules : Obligations.TileFaultRules := by
  refine ⟨fun s t ht hr hw hm => ?_, fun s t v ht hr => ⟨fun it h => ?_, fun h hh hc hht hready => ?_⟩, fun s t ht hb => ?_,
    fun d t cls copy asked => ⟨tileFault_fails copy asked, fun hr hs => ⟨_, (tileFault_waits copy asked hr hs).symm, awaitSpare_spec _ t _⟩⟩,
    fun s t w ht hr hd hw hk => ?_⟩
  · exact ⟨_, answers_act (n := "WATCHDOG_EXPIRY") rfl (by simp [ht, hr, hw, hm]), rfl⟩
  · exact ⟨_, answers_act (n := "DATAPATH_CHECK_FAILED") rfl (by simp [ht, hr, h]), checkFailed_item h⟩
  · have hany : (s.dev.att.homes.any fun h => h.tile == t && (homeReady s.dev h.id).isSome) = true :=
      List.any_eq_true.2 ⟨h, hh, by simp [hht, hready]⟩
    exact ⟨_, answers_act (n := "DATAPATH_CHECK_FAILED") rfl (by simp [ht, hr, hany]), checkFailed_home hc⟩
  · have hbusy : isSet (wr s.dev .safetyTileRetireTile 0 t) .safetyTileRetireBusy = isSet s.dev .safetyTileRetireBusy :=
      isSet_wr_ne _ _ rfl (by decide)
    have htile := rd_retireTile s.dev ht
    refine ⟨_, answers_cmd (n := "TILE_RETIRE") rfl (by simp [ht, hb]), fun h => ?_, fun h hbad => ?_, fun h ht' hf hs => ?_⟩
    · rw [retireGo_busy (hbusy.trans h)]
      exact ⟨htile, onlyRegs_wr (onlyRegs_refl _ _) (by simp)⟩
    · rw [retireGo_refused htile (hbusy.trans h) ((retireBad_wr _ _ _).2 hbad)]
      refine ⟨?_, rd_wr_self _ _ _ _ rfl, onlyRegs_wr (onlyRegs_wr (onlyRegs_refl _ _) (by simp)) (by simp)⟩
      rw [rd_wr_ne _ _ rfl (.inl (by decide)), htile]
    · have hbad : ¬ retireBad s.dev t := by simp [retireBad, ht', hf, hs]
      obtain ⟨hsome, hnone⟩ := retireGo_runs htile (hbusy.trans h) fun hx => hbad ((retireBad_wr _ _ _).1 hx)
      refine ⟨hsome, fun hn => ?_⟩
      rw [hnone hn]
      refine ⟨?_, rd_wr_self _ _ _ _ rfl, onlyRegs_wr (onlyRegs_wr (onlyRegs_refl _ _) (by simp)) (by simp)⟩
      rw [rd_wr_ne _ _ rfl (.inl (by decide)), rd_wr_self _ _ _ _ rfl]
      rfl
  · have hx : exec (.spareCopyDone t) s = act s "SPARE_COPY_DONE" (decide (t < tiles) && inRun s.dev && domState s.dev (.spare (spareOf t)) == 0 &&
        (find? s.dev.safe.swaps t).any fun w => !w.taken) (spareTakes s.dev t w) := by
      change execSpareCopyDone t s = _
      rw [execSpareCopyDone, hw]
    have hd' : domState s.dev (.spare (spareOf t)) = 0 := hd
    exact ⟨_, answers_act hx (by simp [ht, hr, hd', hw, hk]), rfl, fun hj => ⟨swappedIn s.dev t w, spareTakes_nothing _ _ _ hj,
      swappedIn_use _ _ _, swappedIn_tile _ _ _ ht, swappedIn_domState _ _ _⟩⟩

end Sys2Proof.Machine
end

section
/-!
Ring doorbells (R84, R90, R91, R240 to R244), and O15.
-/
namespace Sys2Proof.Machine

/-! ### The value of a doorbell (R240) -/

/-- A ring's number and an index, as a doorbell carries them. -/
theorem cut_doorbell {r i : Nat} (hr : r < rings) (hi : i < 2 ^ 32) :
    cut (r * 2 ^ 32 + i) 32 12 = r ∧ cut (r * 2 ^ 32 + i) 0 32 = i ∧ (r * 2 ^ 32 + i) >>> 44 = 0 := by
  unfold rings at hr
  simp only [cut, Nat.shiftRight_eq_div_pow]
  omega

@[simp] theorem rd_wake (d : Dev) (m : Domain) (f : Fld) (i : Nat) : rd (wake d m) f i = rd d f i := by
  rw [wake_eq]
  rfl

/-! ### What a doorbell leaves -/

/-- The window's doorbell register and the ring's hint hold the doorbell. -/
def doorbellHeld (d : Dev) (win r i : Nat) : Dev := wr (wr (wr d .pwinRingDbIndex win i) .pwinRingDbRing win r) .ringDoorbellHint r i

section
variable (d : Dev) (win : Nat) {r i : Nat}

theorem rd_doorbellHeld_ne {f : Fld} (j : Nat) (hf : f.info.voted = false) (hn : f ∉ [Fld.pwinRingDbIndex, .pwinRingDbRing, .ringDoorbellHint]) :
    rd (doorbellHeld d win r i) f j = rd d f j := by
  simp only [List.mem_cons, List.not_mem_nil, or_false, not_or] at hn
  obtain ⟨hx, hw, hh⟩ := hn
  rw [doorbellHeld, rd_wr_ne _ _ hf (.inl hh), rd_wr_ne _ _ hf (.inl hw), rd_wr_ne _ _ hf (.inl hx)]

theorem onlyRegs_doorbellHeld {l : List (Fld × Nat)} (hl : [(Fld.ringDoorbellHint, r), (.pwinRingDbIndex, win), (.pwinRingDbRing, win)] ⊆ l) :
    onlyRegs d (doorbellHeld d win r i) l :=
  onlyRegs_wr (onlyRegs_wr (onlyRegs_wr (onlyRegs_refl d l) (hl (by simp))) (hl (by simp))) (hl (by simp))

theorem doorbellHeld_holds (hr : r < rings) (hi : i < 2 ^ 32) : rd (doorbellHeld d win r i) .ringDoorbellHint r = i ∧
    rd (doorbellHeld d win r i) .pwinRingDbIndex win = i ∧ rd (doorbellHeld d win r i) .pwinRingDbRing win = r := by
  refine ⟨?_, ?_, ?_⟩
  · rw [doorbellHeld, rd_wr_self _ _ _ _ rfl]
    exact Nat.mod_eq_of_lt hi
  · rw [doorbellHeld, rd_wr_ne _ _ rfl (.inl (by decide)), rd_wr_ne _ _ rfl (.inl (by decide)), rd_wr_self _ _ _ _ rfl]
    exact Nat.mod_eq_of_lt hi
  · rw [doorbellHeld, rd_wr_ne _ _ rfl (.inl (by decide)), rd_wr_self _ _ _ _ rfl]
    exact Nat.mod_eq_of_lt hr

end

/-- A doorbell of the ring's own partition is held, and a ring that runs or parks fetches on. -/
theorem ringDoorbellEffect_owned {d : Dev} {win r i : Nat} (hr : r < rings) (hi : i < 2 ^ 32) (hp : rd d .ringCfgPartition r = win)
    (hv : voteHolds d .ringCfgPartition r = true) : ringDoorbellEffect d win 8 (r * 2 ^ 32 + i) =
      if (rd d .ringStateState r = 1 ∨ rd d .ringStateState r = 2) ∧ isSet d .ringStateEnable r = true
      then ringGo (wr (doorbellHeld (wake d .laurel) win r i) .ringStateState r 1) r 64
      else doorbellHeld (wake d .laurel) win r i := by
  obtain ⟨hcr, hci, hct⟩ := cut_doorbell hr hi
  have hvw : voteHolds (wake d .laurel) .ringCfgPartition r = true := by rw [wake_eq]; exact hv
  have hst : rd (doorbellHeld (wake d .laurel) win r i) .ringStateState r = rd d .ringStateState r := by
    rw [rd_doorbellHeld_ne _ _ _ rfl (by decide), rd_wake]
  have hen : isSet (doorbellHeld (wake d .laurel) win r i) .ringStateEnable r = isSet d .ringStateEnable r := by
    rw [isSet, rd_doorbellHeld_ne _ _ _ rfl (by decide), rd_wake, isSet]
  unfold ringDoorbellEffect
  simp only [hcr, hci, hct, dbRefused, ringOwnerLost, hvw, rd_wake, hp]
  rw [← doorbellHeld, hst, hen]
  simp

/-- Settles O15: a doorbell that the ring's partition owns, by the ring's state. -/
theorem ringDoorbell : Obligations.RingDoorbell := by
  intro s win r i hw hr hi ht hp hv
  refine ⟨_, answers_drv (n := "RING_DOORBELL") rfl (decide_eq_true hw) ht, fun h0 => ?_, fun hs hen => ?_⟩
  · obtain ⟨hhint, hindex, hring⟩ := doorbellHeld_holds (wake s.dev .laurel) win hr hi
    rw [ringDoorbellEffect_owned hr hi hp hv, if_neg (by simp [h0])]
    exact ⟨hhint, hindex, hring, onlyRegs_doorbellHeld _ _ (List.Subset.refl _)⟩
  · rw [ringDoorbellEffect_owned hr hi hp hv, if_pos ⟨hs, hen⟩]
    refine ⟨_, rfl, ?_, rd_wr_self _ _ _ _ rfl, onlyRegs_wr (onlyRegs_doorbellHeld _ _ ?_) (by simp)⟩
    · rw [rd_wr_ne _ _ rfl (.inl (by decide))]
      exact (doorbellHeld_holds _ _ hr hi).1
    · simp

end Sys2Proof.Machine
end

section
/-!
Enabling, disabling and restarting a ring (R84, R90, R91, R127), and O12 and O13.
-/
namespace Sys2Proof.Machine

/-! ### Sleeping queues -/

@[simp] theorem rd_setSleep (d : Dev) (q : QueueId) (w : Option Nat) (f : Fld) (i : Nat) : rd (setSleep d q w) f i = rd d f i := rfl

@[simp] theorem isSet_setSleep (d : Dev) (q : QueueId) (w : Option Nat) (f : Fld) (i : Nat) : isSet (setSleep d q w) f i = isSet d f i := rfl

@[simp] theorem voteHolds_setSleep (d : Dev) (q : QueueId) (w : Option Nat) (f : Fld) (i : Nat) :
    voteHolds (setSleep d q w) f i = voteHolds d f i := rfl

theorem sleepOf_setSleep_self (d : Dev) (q : QueueId) (w : Option Nat) : sleepOf (setSleep d q w) q = w := by
  unfold sleepOf setSleep
  cases w with
  | none => simp [List.find?_eq_none]
  | some x => simp

theorem setSleep_wr (d : Dev) (q : QueueId) (w : Option Nat) (f : Fld) (i v : Nat) :
    setSleep (wr d f i v) q w = wr (setSleep d q w) f i v := by
  unfold setSleep wr onHl
  dsimp only
  split
  · rfl
  · rfl

theorem sleepOf_wr (d : Dev) (q : QueueId) (f : Fld) (i v : Nat) : sleepOf (wr d f i v) q = sleepOf d q := by
  unfold sleepOf
  rw [wr_hl]

/-! ### Enabling (R84, R90, R91) -/

theorem phaseAt_lt (j l : Nat) : phaseAt j l < 2 := by unfold phaseAt; omega

/-- The ring's HEAD and the phase it expects. -/
theorem setRingHead_spec (d : Dev) (r h : Nat) : rd (setRingHead d r h) .ringHeadIndex r = h % 2 ^ 32 ∧
    rd (setRingHead d r h) .ringHeadExpectedPhase r = phaseAt h (rd d .ringCfgLog2Size r) := by
  refine ⟨?_, ?_⟩
  · rw [setRingHead, rd_wr_ne _ _ rfl (.inl (by decide)), rd_wr_self _ _ _ _ rfl]
    rfl
  · rw [setRingHead, rd_wr_self _ _ _ _ rfl]
    exact Nat.mod_eq_of_lt (phaseAt_lt _ _)

theorem rd_setRingHead_ne (d : Dev) (r h : Nat) {f : Fld} (i : Nat) (hf : f.info.voted = false)
    (hn : f ≠ .ringHeadIndex ∧ f ≠ .ringHeadExpectedPhase) : rd (setRingHead d r h) f i = rd d f i := by
  rw [setRingHead, rd_wr_ne _ _ hf (.inl hn.2), rd_wr_ne _ _ hf (.inl hn.1)]

/-- A granted ring: in STATE 1, counted for its partition, its phase expected from HEAD on. -/
def ringGranted (d : Dev) (r : Nat) : Dev :=
  setRingHead (bump (wr (wr d .ringStateEnable r 1) .ringStateState r 1) .partCountRings (rd d .ringCfgPartition r)) r (rd d .ringHeadIndex r)

section
variable {d : Dev} {r : Nat}

theorem ringEnableEffect_enabled (h : isSet d .ringStateEnable r = true) : ringEnableEffect d r = d := if_pos h

variable (h : isSet d .ringStateEnable r = false)
include h

theorem ringEnableEffect_running (hs : rd d .ringStateState r ≠ 0) : ringEnableEffect d r = wr d .ringStateEnable r 1 :=
  (if_neg (by simp [h])).trans (if_pos (by simpa using hs))

variable (hs : rd d .ringStateState r = 0)
include hs

theorem ringEnableEffect_refused (hc : ringRefusal d r ≠ 0) : ringEnableEffect d r = wr d .ringStateLastCause r (ringRefusal d r) :=
  (if_neg (by simp [h])).trans ((if_neg (by simp [hs])).trans (if_pos hc))

theorem ringEnableEffect_granted (hc : ringRefusal d r = 0) : ringEnableEffect d r = ringGranted d r := by
  have hp : rd (wr (wr d .ringStateEnable r 1) .ringStateState r 1) .ringCfgPartition r = rd d .ringCfgPartition r := by
    rw [rd_wr_other _ _ (.inl (by decide)), rd_wr_other _ _ (.inl (by decide))]
  have hh : rd (wr (wr d .ringStateEnable r 1) .ringStateState r 1) .ringHeadIndex r = rd d .ringHeadIndex r := by
    rw [rd_wr_ne _ _ rfl (.inl (by decide)), rd_wr_ne _ _ rfl (.inl (by decide))]
  unfold ringEnableEffect ringGranted
  rw [h, hs, hc]
  simp only [hp, hh]
  rfl

end

/-- A refusal's cause fits LAST_CAUSE. -/
theorem ringRefusal_lt (d : Dev) (r : Nat) : ringRefusal d r < 256 := by
  unfold ringRefusal
  dsimp only
  split_ifs <;> decide

theorem ringGranted_spec (d : Dev) (r : Nat) :
    rd (ringGranted d r) .ringStateState r = 1 ∧ rd (ringGranted d r) .ringStateEnable r = 1 ∧
    rd (ringGranted d r) .partCountRings (rd d .ringCfgPartition r) = (rd d .partCountRings (rd d .ringCfgPartition r) + 1) % 2 ^ 7 ∧
    rd (ringGranted d r) .ringHeadExpectedPhase r = phaseAt (rd d .ringHeadIndex r) (rd d .ringCfgLog2Size r) ∧
    rd (ringGranted d r) .ringHeadIndex r = rd d .ringHeadIndex r % 2 ^ 32 ∧
    onlyRegs d (ringGranted d r) [(.ringStateEnable, r), (.ringStateState, r), (.partCountRings, rd d .ringCfgPartition r),
      (.ringHeadIndex, r), (.ringHeadExpectedPhase, r)] := by
  have hin {f : Fld} (i : Nat) (hf : f.info.voted = false) (he : f ≠ .ringStateEnable) (hs : f ≠ .ringStateState) :
      rd (wr (wr d .ringStateEnable r 1) .ringStateState r 1) f i = rd d f i := by
    rw [rd_wr_ne _ _ hf (.inl hs), rd_wr_ne _ _ hf (.inl he)]
  unfold ringGranted
  refine ⟨?_, ?_, ?_, ?_, (setRingHead_spec _ _ _).1, ?_⟩
  · rw [rd_setRingHead_ne _ _ _ _ rfl (by decide), bump, rd_wr_ne _ _ rfl (.inl (by decide)), rd_wr_self _ _ _ _ rfl]
    rfl
  · rw [rd_setRingHead_ne _ _ _ _ rfl (by decide), bump, rd_wr_ne _ _ rfl (.inl (by decide)), rd_wr_ne _ _ rfl (.inl (by decide)),
      rd_wr_self _ _ _ _ rfl]
    rfl
  · rw [rd_setRingHead_ne _ _ _ _ rfl (by decide), rd_bump_self _ _ _ _ rfl, hin _ rfl (by decide) (by decide)]
    rfl
  · rw [(setRingHead_spec _ _ _).2, bump, rd_wr_ne _ _ rfl (.inl (by decide)), hin _ rfl (by decide) (by decide)]
  · exact onlyRegs_wr (onlyRegs_wr (onlyRegs_bump (onlyRegs_wr (onlyRegs_wr (onlyRegs_refl d _) (by simp)) (by simp)) (by simp)) (by simp)) (by simp)

/-- Settles O12: an enable by what it finds the ring to be. -/
theorem ringEnable : Obligations.RingEnable := by
  intro s r hr ht
  refine ⟨_, answers_drv (n := "RING_ENABLE") rfl (decide_eq_true hr) ht, ringEnableEffect_enabled, fun h hs hc => ?_, fun h hs hc => ?_,
    fun h hs => ?_⟩
  · rw [ringEnableEffect_refused h hs hc]
    refine ⟨?_, ?_, ?_, onlyRegs_wr (onlyRegs_refl _ _) (by simp)⟩
    · rw [rd_wr_ne _ _ rfl (.inl (by decide)), hs]
    · rw [isSet_wr_ne _ _ rfl (by decide), h]
    · rw [rd_wr_self _ _ _ _ rfl]
      exact Nat.mod_eq_of_lt (ringRefusal_lt _ _)
  · rw [ringEnableEffect_granted h hs hc]
    exact ringGranted_spec s.dev r
  · rw [ringEnableEffect_running h hs]
    exact ⟨rd_wr_self _ _ _ _ rfl, onlyRegs_wr (onlyRegs_refl _ _) (by simp)⟩

/-! ### Disabling (R91) -/

/-- A ring that settles stops running when it is disabled with nothing in flight, and stays as it is otherwise. -/
theorem settle_state (d : Dev) (r : Nat) (he : isSet d .ringStateEnable r = false) :
    rd (settle d r) .ringStateState r = if rd d .ringInflight r = 0 then 0 else rd d .ringStateState r := by
  have hz : rd (wr d .ringStateState r 0) .ringStateState r = 0 := rd_wr_self _ _ _ _ rfl
  unfold settle
  rw [he]
  by_cases hi : rd d .ringInflight r = 0
  · by_cases hs : rd d .ringStateState r = 0
    · simp [hi, hs]
    · simp only [hi, beq_self_eq_true, bne_iff_ne.2 hs, Bool.not_false, Bool.and_self, if_true]
      split
      · exact hz
      · rw [drop1, rd_wr_ne _ _ rfl (.inl (by decide)), hz]
  · simp [hi]

theorem isSet_settle (d : Dev) (r i : Nat) : isSet (settle d r) .ringStateEnable i = isSet d .ringStateEnable i := by
  unfold settle
  dsimp only
  split
  · split
    · exact isSet_wr_ne _ _ rfl (by decide)
    · exact (isSet_wr_ne _ _ rfl (by decide)).trans (isSet_wr_ne _ _ rfl (by decide))
  · rfl

theorem sleepOf_settle (d : Dev) (r : Nat) (q : QueueId) : sleepOf (settle d r) q = sleepOf d q := by
  unfold settle
  dsimp only
  split
  · split
    · exact sleepOf_wr _ _ _ _ _
    · exact (sleepOf_wr _ _ _ _ _).trans (sleepOf_wr _ _ _ _ _)
  · rfl

/-- Settling a ring writes its STATE and its partition's count alone. -/
theorem onlyRegs_settle {d e : Dev} {l : List (Fld × Nat)} {r : Nat} (h : onlyRegs d e l) (hs : (Fld.ringStateState, r) ∈ l)
    (hp : (Fld.partCountRings, rd e .ringCfgPartition r) ∈ l) : onlyRegs d (settle e r) l := by
  have hw := onlyRegs_wr (v := 0) h hs
  have hc : rd (wr e .ringStateState r 0) .ringCfgPartition r = rd e .ringCfgPartition r := rd_wr_other _ _ (.inl (by decide))
  unfold settle
  dsimp only
  split
  · split
    · exact hw
    · exact onlyRegs_wr hw (hc ▸ hp)
  · exact h

theorem ringDisableEffect_spec (d : Dev) (r : Nat) : isSet (ringDisableEffect d r) .ringStateEnable r = false ∧
    sleepOf (ringDisableEffect d r) (.ring r) = none ∧
    rd (ringDisableEffect d r) .ringStateState r = (if rd d .ringInflight r = 0 then 0 else rd d .ringStateState r) ∧
    onlyRegs (setSleep d (.ring r) none) (ringDisableEffect d r)
      [(.ringStateEnable, r), (.ringStateState, r), (.partCountRings, rd d .ringCfgPartition r)] := by
  have he : isSet (wr d .ringStateEnable r 0) .ringStateEnable r = false := by
    rw [isSet, rd_wr_self _ _ _ _ rfl]
    rfl
  refine ⟨(isSet_settle _ _ _).trans he, (sleepOf_settle _ _ _).trans (sleepOf_setSleep_self _ _ _), ?_, ?_⟩
  · rw [ringDisableEffect, settle_state _ _ ((isSet_setSleep _ _ _ _ _).trans he), rd_setSleep, rd_setSleep, rd_wr_ne _ _ rfl (.inl (by decide)),
      rd_wr_ne _ _ rfl (.inl (by decide))]
  · rw [ringDisableEffect, setSleep_wr]
    refine onlyRegs_settle (onlyRegs_wr (onlyRegs_refl _ _) (by simp)) (by simp) ?_
    rw [rd_wr_other _ _ (.inl (by decide))]
    simp

/-- Settles O13: a disabled ring settles; a stopped one that is restarted is left for its dispatcher's next turn. -/
theorem ringDisableRestart : Obligations.RingDisableRestart := by
  intro s r hr ht
  obtain ⟨hen, hsleep, hstate, hframe⟩ := ringDisableEffect_spec s.dev r
  refine ⟨⟨_, answers_drv (n := "RING_DISABLE") rfl (decide_eq_true hr) ht, hen, hsleep, fun h => ?_, fun h => ?_, hframe⟩,
    _, answers_drv (n := "RING_RESTART") rfl (decide_eq_true hr) ht, fun he hs => ?_, fun h => ?_⟩
  · rw [hstate, if_pos h]
  · rw [hstate, if_neg h]
  · have hx : ringRestartEffect s.dev r = setSleep (wr s.dev .ringStateState r 1) (.ring r) (some 0) := if_pos (by simp [he, hs])
    rw [hx]
    refine ⟨(rd_setSleep _ _ _ _ _).trans (rd_wr_self _ _ _ _ rfl), sleepOf_setSleep_self _ _ _, ?_⟩
    rw [setSleep_wr]
    exact onlyRegs_wr (onlyRegs_refl _ _) (by simp)
  · refine if_neg ?_
    rcases h with h | h
    · simp [h]
    · simp [h]

end Sys2Proof.Machine
end

section
/-!
A dispatcher's turn and its checks (R87, R133), and O18.
-/
namespace Sys2Proof.Machine

/-! ### The turn (R87) -/

/-- The dispatcher's pointer moves past ring `r`, and up to eight of the ring's work items are forwarded. -/
def turnForwarded (d : Dev) (row r : Nat) : Dev :=
  forwardN 8 r (onDisp d fun x => { x with ringPtr := put x.ringPtr row ((r + 1) % rings) })

/-- With no empty token work item to complete, a turn serves the ring that is first from the pointer on. -/
theorem turnEffect_ring {d : Dev} {row r : Nat} (he : emptyTokens d row = [])
    (hr : firstFrom (getD d.disp.ringPtr row 0) (turnRings d row) = some r) : turnEffect d row =
      if (fetchedOf (turnForwarded d row r) r).isEmpty && sleepOf (turnForwarded d row r) (.ring r) = some 0
      then ringGo (turnForwarded d row r) r 64 else turnForwarded d row r := by
  unfold turnEffect
  rw [he, List.foldl_nil]
  dsimp only
  rw [hr]
  rfl

theorem turnRings_nonempty {d : Dev} {row p r : Nat} (h : firstFrom p (turnRings d row) = some r) : (turnRings d row).isEmpty = false := by
  cases hl : turnRings d row with
  | nil => simp [hl, firstFrom] at h
  | cons x t => rfl

/-! ### The checks, in order (R133) -/

section
variable {d : Dev} {p : Nat} {w : Desc} {b : Bool}

theorem causeBy_type (h : wiType w = 0 ∨ 7 < wiType w) : causeBy d p w b = 0x48 := if_pos (by simpa using h)

variable (h1 : 1 ≤ wiType w) (h7 : wiType w ≤ 7)
include h1 h7

/-- Past the check of its type, a work item is checked for reserved fields, its place, and its references. -/
theorem causeBy_typed : causeBy d p w b = if wiReserved w then 0x51 else if b then 0x49 else if refBad d p w then 0x4A else 0 :=
  if_neg (by
    simp only [Bool.or_eq_true, decide_eq_true_eq, not_or, not_lt]
    exact ⟨Nat.one_le_iff_ne_zero.1 h1, h7⟩)

theorem causeBy_reserved (hr : wiReserved w = true) : causeBy d p w b = 0x51 := (causeBy_typed h1 h7).trans (if_pos hr)

variable (hr : wiReserved w = false)
include hr

theorem causeBy_place (hb : b = true) : causeBy d p w b = 0x49 := by rw [causeBy_typed h1 h7, hr, hb]; rfl

theorem causeBy_ref (hb : b = false) (hf : refBad d p w = true) : causeBy d p w b = 0x4A := by rw [causeBy_typed h1 h7, hr, hb, hf]; rfl

end

/-- Settles O18: the turn by its one ring, the checks by their order. -/
theorem dispatcherTurn : Obligations.DispatcherTurn := by
  refine ⟨fun s row r hrow hrun hen hempty hfirst => ?_, fun d p w => ⟨causeBy_type, causeBy_reserved, causeBy_place, causeBy_ref⟩,
    fun d it hc => if_pos hc⟩
  refine ⟨_, turnForwarded s.dev row r, answers_act (n := "DISPATCHER_TURN") rfl (by simp [hrow, hrun, hen, turnRings_nonempty hfirst]), rfl,
    fun hf hs => ?_, fun h => ?_⟩
  · rw [turnEffect_ring hempty hfirst, if_pos (by simp [hf, hs])]
  · rw [turnEffect_ring hempty hfirst, if_neg]
    rcases h with hf | hs
    · simp [hf]
    · simp [hs]

end Sys2Proof.Machine
end

section
/-!
The active set of a row and partition (R96), and O20.
-/
namespace Sys2Proof.Machine

/-! ### Columns -/

/-- Taking from a list without repetitions the members of a sublist gives the sublist. -/
theorem filter_contains_sublist {l m : List Nat} (h : m.Sublist l) (hl : l.Nodup) : (l.filter fun c => m.contains c) = m := by
  induction h with
  | slnil => rfl
  | @cons m l a h ih =>
    obtain ⟨ha, hl⟩ := List.nodup_cons.1 hl
    have hm : a ∉ m := fun hm => ha (h.mem hm)
    rw [List.filter_cons_of_neg (by simpa using hm), ih hl]
  | @cons_cons m l a h ih =>
    obtain ⟨ha, hl⟩ := List.nodup_cons.1 hl
    rw [List.filter_cons_of_pos (by simp)]
    refine congrArg _ (Eq.trans (List.filter_congr fun x hx => ?_) (ih hl))
    have hx : x ≠ a := fun e => ha (e ▸ hx)
    simp [hx]

theorem nodup_rowColumns (d : Dev) (row p : Nat) : (rowColumns d row p).Nodup := List.nodup_range.filter _

theorem activeSet_sublist (d : Dev) (row p : Nat) : (activeSet d row p).Sublist (rowColumns d row p) := by
  unfold activeSet
  dsimp only
  split
  · exact List.take_sublist _ _
  · exact List.filter_sublist

/-- Where a partition has a tile in the row, its active set is not empty. -/
theorem rowColumns_of_activeSet_nil {d : Dev} {row p : Nat} (h : activeSet d row p = []) : rowColumns d row p = [] := by
  unfold activeSet at h
  dsimp only at h
  split at h
  · exact (List.take_eq_nil_iff.1 h).resolve_left Nat.one_ne_zero
  next hne => exact absurd (by rw [h]; rfl) hne

/-! ### What a measurement stores -/

/-- The columns and the count below SHRINK_PCT kept for a row and partition. -/
def storeActive (d : Dev) (k : Nat) (c : List Nat) (l : Nat) : Dev := onDisp d fun s => { s with active := put s.active k { cols := c, lowUs := l } }

section
variable (d : Dev) (row p : Nat)

theorem lowUs_storeActive (k : Nat) (c : List Nat) (l : Nat) : (getD (storeActive d k c l).disp.active k {}).lowUs = l := by
  rw [storeActive, onDisp_disp, getD_put_self]

theorem activeSet_storeActive (c : List Nat) (l : Nat) : activeSet (storeActive d (row * 64 + p) c l) row p =
    if ((rowColumns d row p).filter fun x => c.contains x).isEmpty then (rowColumns d row p).take 1
    else (rowColumns d row p).filter fun x => c.contains x := by
  unfold activeSet
  rw [storeActive, onDisp_disp, getD_put_self]
  rfl

/-- Some of a row's columns, stored, are the active set. -/
theorem activeSet_storeActive_sublist {c : List Nat} (l : Nat) (h : c.Sublist (rowColumns d row p)) (hc : c ≠ []) :
    activeSet (storeActive d (row * 64 + p) c l) row p = c := by
  rw [activeSet_storeActive, filter_contains_sublist h (nodup_rowColumns d row p), if_neg (by simpa using hc)]

theorem activeSet_storeActive_self (l : Nat) : activeSet (storeActive d (row * 64 + p) (activeSet d row p) l) row p = activeSet d row p := by
  by_cases h : activeSet d row p = []
  · rw [activeSet_storeActive, rowColumns_of_activeSet_nil h, h]
    rfl
  · exact activeSet_storeActive_sublist d row p l (activeSet_sublist d row p) h

/-- The active set joined by one more column of the partition's. -/
theorem activeSet_storeActive_snoc {c : Nat} (l : Nat) (h : c ∈ rowColumns d row p) :
    activeSet (storeActive d (row * 64 + p) (activeSet d row p ++ [c]) l) row p =
      (rowColumns d row p).filter fun x => (activeSet d row p).contains x || x == c := by
  have hf : (fun x => (activeSet d row p ++ [c]).contains x) = fun x => (activeSet d row p).contains x || x == c := by
    funext x
    by_cases hx : x = c
    · simp [hx]
    · simp [hx, beq_eq_false_iff_ne.2 hx]
  have hc : c ∈ (rowColumns d row p).filter fun x => (activeSet d row p).contains x || x == c := List.mem_filter.2 ⟨h, by simp⟩
  rw [activeSet_storeActive, hf, if_neg fun he => absurd hc (by rw [List.isEmpty_iff.1 he]; simp)]

end

/-- A measurement stores a set and a count, whatever it finds, and may draw a free value. -/
theorem activeAdjust_stores (d : Dev) (row p pct : Nat) :
    ∃ n c l, activeAdjust d row p pct = storeActive { d with free := n } (row * 64 + p) c l := by
  unfold activeAdjust
  dsimp only
  split
  · split
    · exact ⟨d.free, _, _, rfl⟩
    · exact ⟨_, _, _, rfl⟩
  · split
    · split
      · exact ⟨d.free, _, _, rfl⟩
      · exact ⟨d.free, _, _, rfl⟩
    · exact ⟨d.free, _, _, rfl⟩

/-- Whether the lanes of the active set's highest column are empty (R96). -/
def topIdle (d : Dev) (row p : Nat) : Bool :=
  let top := (activeSet d row p).foldl max 0
  (laneItems d (tileAt row top) .matrix).isEmpty && (laneItems d (tileAt row top) .vector).isEmpty && (laneItems d (tileAt row top) .move).isEmpty

/-- The tile with the highest column may leave: the hold is over, its lanes are empty, and it is not the last (R96). -/
def mayShrink (d : Dev) (row p : Nat) : Prop :=
  rd d .dispatchOccCtrlShrinkHold ≤ (getD d.disp.active (row * 64 + p) {}).lowUs + 1 ∧ topIdle d row p = true ∧ 1 < (activeSet d row p).length

section
variable {d : Dev} {row p pct : Nat}

theorem activeAdjust_full (hg : rd d .dispatchOccCtrlGrowPct < pct)
    (hm : ((rowColumns d row p).filter fun c => !(activeSet d row p).contains c) = []) :
    activeAdjust d row p pct = storeActive d (row * 64 + p) (activeSet d row p) 0 := by
  unfold activeAdjust
  dsimp only
  rw [if_pos hg, hm]
  rfl

/-- Above GROW_PCT one of the columns outside the set joins it. -/
theorem activeAdjust_grows (hg : rd d .dispatchOccCtrlGrowPct < pct)
    (hm : ((rowColumns d row p).filter fun c => !(activeSet d row p).contains c) ≠ []) : ∃ c ∈ rowColumns d row p, c ∉ activeSet d row p ∧
      activeAdjust d row p pct = storeActive { d with free := d.free + 1 } (row * 64 + p) (activeSet d row p ++ [c]) 0 := by
  have hlt : (choose d ((rowColumns d row p).filter fun c => !(activeSet d row p).contains c).length).1 <
      ((rowColumns d row p).filter fun c => !(activeSet d row p).contains c).length := Nat.mod_lt _ (List.length_pos_iff.2 hm)
  have hmem := List.mem_filter.1 (List.getElem_mem hlt)
  refine ⟨_, hmem.1, by simpa using hmem.2, ?_⟩
  unfold activeAdjust
  dsimp only
  rw [if_pos hg, if_neg (by simpa using hm), List.getElem?_eq_getElem hlt]
  rfl

section
variable (hg : pct ≤ rd d .dispatchOccCtrlGrowPct)
include hg

theorem activeAdjust_between (hs : rd d .dispatchOccCtrlShrinkPct ≤ pct) :
    activeAdjust d row p pct = storeActive d (row * 64 + p) (activeSet d row p) 0 :=
  (if_neg (Nat.not_lt.2 hg)).trans (if_neg (Nat.not_lt.2 hs))

variable (hs : pct < rd d .dispatchOccCtrlShrinkPct)
include hs

theorem activeAdjust_shrinks (h : mayShrink d row p) : activeAdjust d row p pct =
    storeActive d (row * 64 + p) ((activeSet d row p).filter (· ≠ (activeSet d row p).foldl max 0)) 0 := by
  refine ((if_neg (Nat.not_lt.2 hg)).trans (if_pos hs)).trans (if_pos ?_)
  rw [mayShrink, topIdle] at h
  simpa [and_assoc] using h

theorem activeAdjust_counts (h : ¬ mayShrink d row p) : activeAdjust d row p pct =
    storeActive d (row * 64 + p) (activeSet d row p) ((getD d.disp.active (row * 64 + p) {}).lowUs + 1) := by
  refine ((if_neg (Nat.not_lt.2 hg)).trans (if_pos hs)).trans (if_neg ?_)
  rw [mayShrink, topIdle] at h
  simpa [and_assoc] using h

end

/-- A set of more than one column keeps one when its highest leaves. -/
theorem filter_ne_nonempty {l : List Nat} (hn : l.Nodup) (hl : 1 < l.length) (a : Nat) : l.filter (· ≠ a) ≠ [] := by
  intro h
  have hall : ∀ x ∈ l, x = a := by simpa [List.filter_eq_nil_iff] using h
  have h0 := hall _ (List.getElem_mem (Nat.lt_of_succ_lt hl))
  have h1 := hall _ (List.getElem_mem hl)
  exact absurd ((hn.getElem_inj_iff).1 (h0.trans h1.symm)) Nat.zero_ne_one

end

/-- Settles O20: what is stored in each of the cases of the share, and that storing changes nothing else. -/
theorem activeSetAdjust : Obligations.ActiveSetAdjust := by
  intro s row part pct hrow hpart hpct own set low top idle
  refine ⟨_, answers_cmd (n := "ACTIVE_SET_ADJUST") rfl (decide_eq_true ⟨hrow, hpart, hpct⟩), ?_, ?_, fun k hk => ?_,
    fun hg => ⟨?_, fun hm => ?_, fun hm => ?_⟩, fun hg hs => ⟨fun h => ?_, fun h => ?_⟩, fun hg hs => ?_⟩
  · obtain ⟨n, c, l, h⟩ := activeAdjust_stores s.dev row part pct
    rw [h]
    exact onlyRegs_refl _ _
  · obtain ⟨n, c, l, h⟩ := activeAdjust_stores s.dev row part pct
    rw [h]
    rfl
  · obtain ⟨n, c, l, h⟩ := activeAdjust_stores s.dev row part pct
    rw [h]
    exact find?_put_ne _ _ hk
  · by_cases hm : (own.filter fun c => !set.contains c) = []
    · rw [activeAdjust_full hg hm]
      exact lowUs_storeActive _ _ _ _
    · obtain ⟨c, -, -, h⟩ := activeAdjust_grows hg hm
      rw [h]
      exact lowUs_storeActive _ _ _ _
  · rw [activeAdjust_full hg hm]
    exact activeSet_storeActive_self _ _ _ _
  · obtain ⟨c, hc, hn, h⟩ := activeAdjust_grows hg hm
    rw [h]
    exact ⟨c, hc, hn, activeSet_storeActive_snoc _ _ _ _ hc⟩
  · have hset : set.Sublist own := activeSet_sublist _ _ _
    rw [activeAdjust_shrinks hg hs h]
    exact ⟨lowUs_storeActive _ _ _ _, activeSet_storeActive_sublist _ _ _ _ (List.filter_sublist.trans hset)
      (filter_ne_nonempty ((nodup_rowColumns _ _ _).sublist hset) h.2.2 _)⟩
  · rw [activeAdjust_counts hg hs h]
    exact ⟨lowUs_storeActive _ _ _ _, activeSet_storeActive_self _ _ _ _⟩
  · rw [activeAdjust_between hg hs]
    exact ⟨lowUs_storeActive _ _ _ _, activeSet_storeActive_self _ _ _ _⟩

end Sys2Proof.Machine
end

section
/-!
Vector operations on immediates and integers (R102), and O23.
-/
namespace Sys2Proof.Machine

/-- Lanes that agree make one register operation. -/
theorem registerOp_congr {c : Nat → Instr} {o : Nat} {f g : VecRun → Nat → List Nat × Nat} (hf : registerOp c o f) (h : ∀ r w, f r w = g r w) :
    registerOp c o g := by
  obtain rfl : f = g := funext fun r => funext (h r)
  exact hf

/-- An arithmetic shift to the right is a division that rounds down. -/
theorem shiftRight_eq_fdiv (x : Int) (n : Nat) : x >>> n = Int.fdiv x (2 ^ n) := by
  rw [Int.shiftRight_eq_div_pow, Int.fdiv_eq_ediv_of_nonneg x (pow_nonneg (by decide) n)]
  norm_cast

/-- Settles O23: each operation is an issue of its own lanes, and shifts are products and quotients by powers of two. -/
theorem vectorIntegerOps : Obligations.VectorIntegerOps := by
  refine ⟨registerOp_of_issue "BCAST" 1 (fun _ => []) _ fun _ _ => rfl,
    registerOp_of_issue "IOTA" 1 (fun _ => []) _ fun _ _ => rfl,
    registerOp_of_issue "IADD" 2 (fun w => [vA w, vB w]) _ fun _ _ => rfl,
    registerOp_of_issue "ISUB" 2 (fun w => [vA w, vB w]) _ fun _ _ => rfl,
    registerOp_of_issue "VECTOR_AND" 2 (fun w => [vA w, vB w]) _ fun _ _ => rfl,
    registerOp_of_issue "VECTOR_OR" 2 (fun w => [vA w, vB w]) _ fun _ _ => rfl,
    registerOp_of_issue "XOR" 2 (fun w => [vA w, vB w]) _ fun _ _ => rfl,
    registerOp_congr (registerOp_of_issue "SHL" 2 (fun w => [vA w]) _ fun _ _ => rfl) fun r w => ?_,
    registerOp_congr (registerOp_of_issue "SHR" 2 (fun w => [vA w]) _ fun _ _ => rfl) fun r w => ?_,
    registerOp_congr (registerOp_of_issue "SRA" 2 (fun w => [vA w]) _ fun _ _ => rfl) fun r w => ?_⟩
  · simp only [Nat.shiftLeft_eq]
  · simp only [Nat.shiftRight_eq_div_pow]
  · simp only [shiftRight_eq_fdiv]
    rfl

end Sys2Proof.Machine
end

section
/-!
The ends of vector sequences and moves, and waits for a fault slot (R103, R106, R126, R217, R291), and O26.
-/
namespace Sys2Proof.Machine

section
variable {s : State} {t : Nat} {it : Item}

/-- A sequence whose last iteration has issued ends with the time its last result was written (R103). -/
theorem answers_vectorSequenceComplete {r : VecRun} (hr : runsType s.dev t .vector 2 = true) (hv : vecOf s.dev t = some (it, r))
    (hi : r.iter = seqLoop it.wi) : Answers (.vectorSequenceComplete t) s (finishWith s.dev it 0 r.last 0) := by
  refine (answers_act (n := "VECTOR_SEQUENCE_COMPLETE") rfl (by simp [hr, hv, hi])).trans ?_
  rw [hv]

/-- A move with all of its pieces done ends with the first cause any of them met (R126, R291). -/
theorem answers_moveComplete (hr : runsType s.dev t .move 3 = true) (hm : running? s.dev t .move = some it) (hd : it.held = false)
    (hp : s.dev.xl.parked.contains (.item it.uid) = false) (hremote : it.remote = 0) (hprog : moveTotal it.wi ≤ it.prog) :
    Answers (.moveComplete t) s (finishFree s.dev it 0 it.cause) := by
  have hdone : moveDone s.dev t = true := by simp only [moveDone, hm, hr, hd, hp, hremote, hprog]; rfl
  refine (answers_act (n := "MOVE_COMPLETE") rfl hdone).trans ?_
  rw [moveEnd, hm]

end

/-- The transfer that a freed slot makes retry is one of its partition that is due (R217). -/
theorem slotWaiter_due {d : Dev} {p : Nat} {w : SlotWait} (h : slotWaiter d p = some w) : w.part = p ∧ w.due = true ∧ w ∈ d.xl.waiting := by
  obtain ⟨hp, hd⟩ : w.part = p ∧ w.due = true := by simpa using List.find?_some h
  exact ⟨hp, hd, List.mem_of_find?_eq_some h⟩

theorem answers_faultSlotRetry {s : State} {p : Nat} {w : SlotWait} (hr : inRun s.dev = true) (hw : slotWaiter s.dev p = some w) :
    Answers (.faultSlotRetry p) s (slotRetry s.dev w) := by
  refine (answers_act (n := "FAULT_SLOT_RETRY") rfl (by simp [hr, hw])).trans ?_
  rw [hw]

/-- Settles O26, command by command. -/
theorem tileWorkEnds : Obligations.TileWorkEnds := by
  refine ⟨fun s t it r hr hv hi => ⟨_, answers_vectorSequenceComplete hr hv hi, rfl⟩,
    fun s t it hr hm hd hp hremote hprog => ⟨_, answers_moveComplete hr hm hd hp hremote hprog, rfl⟩, fun s p w hr hw => ?_⟩
  obtain ⟨hp, hdue, hmem⟩ := slotWaiter_due hw
  exact ⟨hp, hdue, hmem, _, answers_faultSlotRetry hr hw, rfl⟩

end Sys2Proof.Machine
end

section
/-!
Token work items, waits and signals (R113 to R119, R133), and O30.
-/
namespace Sys2Proof.Machine

/-! ### Operations of a token work item (R113 to R115) -/

section
variable {d : Dev} {it : Item} {i fa v : Nat}

theorem runTokOp_register (h : nextTokOp it = some (i, 1, fa, v)) : runTokOp d it = registerToken d it i (fa % 2 ^ 48) v := by
  unfold runTokOp
  simp only [h]

/-- The device once word `a` holds `v` and is registered. -/
def tokenSet (d : Dev) (a v : Nat) : Dev := onDisp (memWrite d true 8 a (toBytes 8 v)).1 fun x => { x with tokens := put x.tokens a v }

theorem tokenAt_tokenSet (d : Dev) (a v : Nat) : tokenAt (tokenSet d a v) a = some v := find?_put_self _ _ _

section
variable {a : Nat}

theorem registerToken_full (hn : tokenAt d a = none) (h : 64 ≤ tokensOn d ((a - spBase) / 0x200000)) : registerToken d it i a v = finish d it 0x4A :=
  if_pos (by simp [hn, h])

theorem registerToken_new (hn : tokenAt d a = none) (h : tokensOn d ((a - spBase) / 0x200000) < 64) :
    registerToken d it i a v = tokAdvance (tokenSet d a v) it i := by
  unfold registerToken
  dsimp only
  rw [if_neg (by simp [h]), hn]
  rfl

theorem registerToken_again {old : Nat} (ho : tokenAt d a = some old) :
    registerToken d it i a v = tokAdvance (notifyToken (tokenSet d a v) a old v) it i := by
  unfold registerToken
  dsimp only
  rw [if_neg (by simp [ho]), ho]
  rfl

end

section
variable (h : nextTokOp it = some (i, 2, fa, v))
include h

theorem runTokOp_add_here (hn : fa >>> 48 = rd d .meshNodeId) : runTokOp d it =
    match (localAdd d (0x800 + tileRow it.tile) it.part (fa % 2 ^ 48) v).2 with
    | none => tokAdvance (localAdd d (0x800 + tileRow it.tile) it.part (fa % 2 ^ 48) v).1 it i
    | some c => finish (localAdd d (0x800 + tileRow it.tile) it.part (fa % 2 ^ 48) v).1 it c := by
  unfold runTokOp
  simp only [h, hn]
  rcases localAdd d (0x800 + tileRow it.tile) it.part (fa % 2 ^ 48) v with ⟨d', _ | c⟩
  · rfl
  · rfl

theorem runTokOp_add_remote (hn : fa >>> 48 ≠ rd d .meshNodeId) :
    runTokOp d it = sendRemote (modItem d it.uid fun x => { x with remote := 1 }) (.token it.uid)
      (remoteFlits d (0x800 + tileRow it.tile) it.part fa 8 2 0 v 0 []) 0 := by
  unfold runTokOp
  simp only [h, hn]
  rfl

end

section
variable (h : nextTokOp it = some (i, 3, fa, v))
include h

theorem runTokOp_wait_unregistered (hs : tokenSeen d (fa % 2 ^ 48) = none) : runTokOp d it = finish d it 0x4A := by
  unfold runTokOp
  simp only [h, hs]

theorem runTokOp_wait {x : Nat} (hs : tokenSeen d (fa % 2 ^ 48) = some x) :
    runTokOp d it = if v ≤ x then tokAdvance d it i else modItem d it.uid fun y => { y with prog := 1 } := by
  unfold runTokOp
  simp only [h, hs]

end

section
variable (h : nextTokOp it = some (i, 4, fa, v))
include h

theorem runTokOp_release_unregistered (hs : tokenAt d (fa % 2 ^ 48) = none) : runTokOp d it = finish d it 0x4A := by
  unfold runTokOp
  simp only [h, hs]
  rfl

theorem runTokOp_release (hs : tokenAt d (fa % 2 ^ 48) ≠ none) : runTokOp d it = tokAdvance (releaseToken d (fa % 2 ^ 48)) it i := by
  unfold runTokOp
  simp only [h]
  exact if_neg (by simpa using hs)

end

end

/-! ### The step of a token work item (R108, R133) -/

/-- A work item that begins goes on with its unit's own start. -/
theorem startWith_begins {d d' : Dev} {it it' : Item} {k : Dev → Item → Dev} (h : begins d it d' it') : startWith d it k = k d' it' :=
  (startWith_startsBy d it k).2.1 d' it' h

/-- Begin, and run the first operation when the work item names words it may name. -/
def tokenFirst (d : Dev) (it : Item) : Dev := if tokRefsBad it.part [tokOp it.wi 0, tokOp it.wi 1] d = true then finish d it 0x4A else runTokOp d it

section
variable {d : Dev} {u : Nat} {it : Item}

theorem tokenStep_placed (hi : itemOf d u = some it) (hp : it.phase = .placed) : tokenStep d u = startWith d it tokenFirst := by
  unfold tokenStep
  simp only [hi, hp]
  rfl

theorem tokenStep_runs {d' : Dev} {it' : Item} (hi : itemOf d u = some it) (h : tokenRuns d it d' it') : tokenStep d u = runTokOp d' it' := by
  rcases h with ⟨hp, rfl, rfl⟩ | ⟨hp, hb, hrefs⟩
  · unfold tokenStep
    simp only [hi, hp]
    rfl
  · rw [tokenStep_placed hi hp, startWith_begins hb]
    exact if_neg (by simp [hrefs])

end

/-- Each operation has a command whose meaning is the step of its token work item. -/
theorem answers_tokenStep {s : State} {u k : Nat} {c : Instr}
    (hc : (k, c) ∈ [(1, Instr.registerSet u), (2, .tokenAdd u), (3, .waitGe u), (4, .tokenRelease u)]) (hr : tokReady s.dev u k = true) :
    Answers c s (tokenStep s.dev u) := by
  simp only [List.mem_cons, List.not_mem_nil, or_false, Prod.mk.injEq] at hc
  rcases hc with ⟨rfl, rfl⟩ | ⟨rfl, rfl⟩ | ⟨rfl, rfl⟩ | ⟨rfl, rfl⟩
  · exact answers_act (n := "REGISTER_SET") rfl hr
  · exact answers_act (n := "TOKEN_ADD") rfl hr
  · exact answers_act (n := "WAIT_GE") rfl hr
  · exact answers_act (n := "TOKEN_RELEASE") rfl hr

/-! ### Waits (R115, R116, R119) -/

section
variable {d : Dev} {u : Nat} {it : Item} (hi : itemOf d u = some it)
include hi

theorem waitRelease_header (hg : gePending it = none) : waitRelease d u = modItem d u fun x => { x with waitMet := true } := by
  unfold waitRelease
  simp only [hi, hg]

theorem waitRelease_ge {w : Nat × Nat} {i : Nat} {o : Nat × Nat × Nat} (hg : gePending it = some w) (hn : nextTokOp it = some (i, o)) :
    waitRelease d u = tokAdvance d it i := by
  unfold waitRelease
  simp only [hi, hg, hn]

end

theorem finishUid_of_itemOf {d : Dev} {u : Nat} {it : Item} (c : Nat) (hi : itemOf d u = some it) : finishUid d u c = finish d it c := by
  unfold finishUid
  rw [hi]

/-- A wait expires only while WAIT_TIMEOUT is set and no work item of the partition is held (R119). -/
theorem waitExpires_timed {d : Dev} {it : Item} (h : waitExpires d it = true) : rd d .dispatchWaitTimeout 0 ≠ 0 ∧ anyHeld d it.part = false := by
  unfold waitExpires at h
  simp only [Bool.and_eq_true, bne_iff_ne, Bool.not_eq_true'] at h
  exact ⟨h.2, h.1.2⟩

/-! ### Signals (R114, R117) -/

theorem issueSignal_here {d : Dev} {g : Signal} (h : g.fa >>> 48 = rd d .meshNodeId) : issueSignal d g =
    let r := localAdd (onDisp d fun s => { s with signals := s.signals.filter fun x => x.uid ≠ g.uid }) (0x800 + tileRow g.tile) g.part
      (g.fa % 2 ^ 48) g.add
    signalAnswered r.1 g.uid (r.2.getD 0) := if_pos h

theorem issueSignal_remote {d : Dev} {g : Signal} (h : g.fa >>> 48 ≠ rd d .meshNodeId) : issueSignal d g =
    let d' := onDisp d fun s => { s with signals := s.signals.filter fun x => x.uid ≠ g.uid }
    sendRemote d' (.signal g.uid) (remoteFlits d' (0x800 + tileRow g.tile) g.part g.fa 8 2 0 g.add 0 []) 0 := if_neg h

theorem answers_workItemSignal {s : State} {u : Nat} {g : Signal} (hr : inRun s.dev = true)
    (hg : (s.dev.disp.signals.find? fun g => g.uid = u) = some g) : Answers (.workItemSignal u) s (issueSignal s.dev g) := by
  refine (answers_act (n := "WORK_ITEM_SIGNAL") rfl (by simp only [hr, hg]; rfl)).trans ?_
  rw [hg]

/-! ### The obligation -/

/-- Settles O30: each operation by what the word it names holds, waits and signals by their commands. -/
theorem tokenOperations : Obligations.TokenOperations := by
  refine ⟨fun s u k c it hc hi hr => ⟨_, answers_tokenStep hc hr, fun hp => ?_, fun d it' hrun => ?_⟩, fun s u it hi hm => ?_,
    fun s u it hi he => ?_, fun s u g hr hg => ?_⟩
  · rw [tokenStep_placed hi hp]
    exact startWith_startsBy s.dev it tokenFirst
  · rw [tokenStep_runs hi hrun]
    refine ⟨fun i fa v hn => ?_, fun i fa v hn => ?_, fun i fa v hn => ?_, fun i fa v hn => ?_⟩
    · rw [runTokOp_register hn]
      exact ⟨tokenAt_tokenSet _ _ _, registerToken_full, registerToken_new, fun old => registerToken_again⟩
    · refine ⟨fun hf hr => ?_, fun x hf hr => ?_, runTokOp_add_remote hn⟩
      · rw [runTokOp_add_here hn hf, hr]
      · rw [runTokOp_add_here hn hf, hr]
    · refine ⟨runTokOp_wait_unregistered hn, fun x hs => ⟨fun hv => ?_, fun hv => ?_⟩⟩
      · rw [runTokOp_wait hn hs, if_pos hv]
      · rw [runTokOp_wait hn hs, if_neg (Nat.not_le.2 hv)]
    · exact ⟨find?_del_self _ _, runTokOp_release_unregistered hn, runTokOp_release hn⟩
  · exact ⟨_, answers_act (n := "TOKEN_WAIT_MET") rfl (by simp [hi, hm]), waitRelease_header hi, fun w i o => waitRelease_ge hi⟩
  · exact ⟨_, answers_act (n := "TOKEN_WAIT_TIMEOUT") rfl (by simp [hi, he]), finishUid_of_itemOf 0x4B hi, waitExpires_timed he⟩
  · obtain rfl : g.uid = u := by simpa using List.find?_some hg
    exact ⟨_, answers_workItemSignal hr hg, issueSignal_here, issueSignal_remote⟩

end Sys2Proof.Machine
end

section
/-!
Fences and step graphs (R109 to R111, R121 to R127), and O31.
-/
namespace Sys2Proof.Machine

/-! ### Flush reads (R255) -/

/-- A chain of updates of what leaves the device and of the host link leaves the rest. -/
theorem foldl_out_hl {α : Type} {g : Dev → α → Dev} (h : ∀ d x, g d x = { d with out := (g d x).out, hl := (g d x).hl }) (l : List α) (d : Dev) :
    l.foldl g d = { d with out := (l.foldl g d).out, hl := (l.foldl g d).hl } := by
  induction l generalizing d with
  | nil => rfl
  | cons x t ih => rw [List.foldl_cons, ih, h]

/-- Flush reads leave the device but for what leaves it and the host link's lists. -/
theorem flush_frame (d : Dev) (n : Nat) (c : Dirty → Bool) : flush d n c = { d with out := (flush d n c).out, hl := (flush d n c).hl } := by
  have hm (l : List Nat) (d : Dev) := foldl_out_hl (g := flushModule) (fun _ _ => rfl) l d
  unfold flush
  dsimp only
  split
  · exact hm _ d
  · rw [foldl_out_hl fun _ _ => rfl, hm]

theorem flushModules_hl (l : List Nat) (d : Dev) : (l.foldl flushModule d).hl.dirty = d.hl.dirty.filter (fun x => x.module ∉ l) ∧
    (l.foldl flushModule d).hl.peerDirty = d.hl.peerDirty := by
  induction l generalizing d with
  | nil => simp
  | cons m t ih =>
    obtain ⟨hd, hp⟩ := ih (flushModule d m)
    rw [List.foldl_cons, hd, hp]
    refine ⟨?_, rfl⟩
    simp only [flushModule, onHl_hl, emit_hl, List.filter_filter, List.mem_cons, not_or]
    exact List.filter_congr fun x _ => by simp [Bool.and_comm]

theorem flushPeers_hl (l : List (Nat × Nat)) (d : Dev) :
    (l.foldl (fun d x => flushPeer d x.1 x.2) d).hl.peerDirty = d.hl.peerDirty.filter (fun x => (x.module, x.peer) ∉ l) ∧
    (l.foldl (fun d x => flushPeer d x.1 x.2) d).hl.dirty = d.hl.dirty := by
  induction l generalizing d with
  | nil => simp
  | cons m t ih =>
    obtain ⟨hp, hd⟩ := ih (flushPeer d m.1 m.2)
    rw [List.foldl_cons, hp, hd]
    refine ⟨?_, rfl⟩
    simp only [flushPeer, onHl_hl, emit_hl, List.filter_filter, List.mem_cons, not_or]
    exact List.filter_congr fun x _ => by simp [Bool.and_comm, Prod.ext_iff]

/-- What is left when everything placed as a covered write is taken away is not covered. -/
theorem not_covered_of_left {α : Type} [BEq α] [LawfulBEq α] [DecidableEq α] {l l' : List Dirty} {c : Dirty → Bool} {x : Dirty} (g : Dirty → α)
    (hl : l' = l.filter fun y => g y ∉ ((l.filter c).map g).eraseDups) (hx : x ∈ l') : c x = false := by
  obtain ⟨hmem, hnot⟩ := List.mem_filter.1 (hl ▸ hx)
  by_contra hc
  refine absurd ?_ (of_decide_eq_true hnot)
  exact List.mem_eraseDups.2 (List.mem_map.2 ⟨x, List.mem_filter.2 ⟨hmem, by simpa using hc⟩, rfl⟩)

section
variable {d : Dev} {n : Nat} {c : Dirty → Bool} {x : Dirty}

/-- After its flush reads none of the writes covered is left unflushed. -/
theorem flush_dirty (hx : x ∈ (flush d n c).hl.dirty) : c x = false := by
  refine not_covered_of_left (l := d.hl.dirty) (·.module) ?_ hx
  unfold flush
  dsimp only
  split
  · exact (flushModules_hl _ d).1
  · rw [(flushPeers_hl _ _).2, (flushModules_hl _ d).1]

theorem flush_peerDirty (hn : n ≠ 0) (hx : x ∈ (flush d n c).hl.peerDirty) : c x = false := by
  refine not_covered_of_left (l := d.hl.peerDirty) (fun y => (y.module, y.peer)) ?_ hx
  unfold flush
  dsimp only
  rw [if_neg hn, (flushPeers_hl _ _).1, (flushModules_hl _ d).2]

end

/-! ### Journals (R109, R129) -/

/-- A journal as a mark leaves it. -/
def marked (j : Journal) : Journal := { j with rolling := j.rolling.filter fun e => e.state ≠ 2, broken := false }

/-- A journal as KEEP_RESET leaves it. -/
def keepCleared (j : Journal) : Journal := { j with keep := [] }

/-- The journals of tiles `ts` changed by `f`, where `b` asks for it. -/
def onJournals (b : Bool) (f : Journal → Journal) (ts : List Nat) (d : Dev) : Dev :=
  if b then ts.foldl (fun d t => setJournal d t (f (journalOf d t))) d else d

theorem journalOf_setJournal (d : Dev) (t u : Nat) (j : Journal) : journalOf (setJournal d t j) u = if u = t then j else journalOf d u := by
  unfold journalOf setJournal
  rw [onDisp_disp]
  split
  next h => rw [h, getD_putD_self]
  next h => exact getD_putD_ne _ _ _ h

theorem journalOf_onJournals (b : Bool) (f : Journal → Journal) {ts : List Nat} (hn : ts.Nodup) (d : Dev) (t : Nat) :
    journalOf (onJournals b f ts d) t = if b = true ∧ t ∈ ts then f (journalOf d t) else journalOf d t := by
  cases b with
  | false => rfl
  | true =>
    simp only [onJournals, if_true, true_and]
    induction ts generalizing d with
    | nil => rfl
    | cons u l ih =>
      obtain ⟨hu, hl⟩ := List.nodup_cons.1 hn
      rw [List.foldl_cons, ih hl, journalOf_setJournal]
      by_cases h : t = u
      · subst h
        simp [hu]
      · simp [h]

theorem onJournals_frame (b : Bool) (f : Journal → Journal) (ts : List Nat) (d : Dev) :
    onJournals b f ts d = { d with disp := (onJournals b f ts d).disp } := by
  cases b with
  | false => rfl
  | true =>
    simp only [onJournals, if_true]
    induction ts generalizing d with
    | nil => rfl
    | cons u l ih => rw [List.foldl_cons, ih]; rfl

theorem nodup_tilesOf (d : Dev) (p : Nat) : (tilesOf d p).Nodup := List.nodup_range.filter _

/-! ### Fences (R109, R110) -/

/-- A fence's flush reads, and the journals of its partition's tiles as it asks. -/
def fenceEnded (d : Dev) (it : Item) : Dev :=
  onJournals (fenceKeepReset it.wi) keepCleared (tilesOf d it.part)
    (onJournals (fenceMark it.wi) marked (tilesOf d it.part) (flush d (fenceDomain it.wi) (fenceCovers it)))

section
variable (d : Dev) (it : Item)

theorem fenceEnd_eq : fenceEnd d it = finishFree (fenceEnded d it) it 0 0 := by
  have ht : tilesOf (flush d (fenceDomain it.wi) (fenceCovers it)) it.part = tilesOf d it.part := by
    rw [flush_frame]
    rfl
  unfold fenceEnd
  dsimp only
  rw [ht]
  rfl

theorem fenceEnded_hl : (fenceEnded d it).hl = (flush d (fenceDomain it.wi) (fenceCovers it)).hl := by
  rw [fenceEnded, onJournals_frame, onJournals_frame]

theorem fenceEnded_frame : fenceEnded d it = { d with hl := (fenceEnded d it).hl, disp := (fenceEnded d it).disp, out := (fenceEnded d it).out } := by
  conv_lhs => rw [fenceEnded, onJournals_frame, onJournals_frame, flush_frame]
  conv_rhs => rw [fenceEnded, onJournals_frame, onJournals_frame, flush_frame]

/-- A tile's journal after a fence: marked and reset where the fence asks for it and the tile is its partition's. -/
theorem journalOf_fenceEnded (t : Nat) : journalOf (fenceEnded d it) t =
    if fenceKeepReset it.wi = true ∧ t ∈ tilesOf d it.part
    then keepCleared (if fenceMark it.wi = true ∧ t ∈ tilesOf d it.part then marked (journalOf d t) else journalOf d t)
    else if fenceMark it.wi = true ∧ t ∈ tilesOf d it.part then marked (journalOf d t) else journalOf d t := by
  have hf : journalOf (flush d (fenceDomain it.wi) (fenceCovers it)) t = journalOf d t := by
    rw [flush_frame]
    rfl
  rw [fenceEnded, journalOf_onJournals _ _ (nodup_tilesOf _ _), journalOf_onJournals _ _ (nodup_tilesOf _ _), hf]

/-- KEEP_RESET leaves the rolling window to the mark. -/
theorem rolling_fenceEnded (t : Nat) : (journalOf (fenceEnded d it) t).rolling =
    if fenceMark it.wi = true ∧ t ∈ tilesOf d it.part then (marked (journalOf d t)).rolling else (journalOf d t).rolling := by
  rw [journalOf_fenceEnded]
  split
  · rw [keepCleared]
    split
    · rfl
    · rfl
  · split
    · rfl
    · rfl

/-- A mark leaves the keep list to KEEP_RESET. -/
theorem keep_fenceEnded (t : Nat) : (journalOf (fenceEnded d it) t).keep =
    if fenceKeepReset it.wi = true ∧ t ∈ tilesOf d it.part then [] else (journalOf d t).keep := by
  rw [journalOf_fenceEnded]
  split
  · rfl
  · split
    · rfl
    · rfl

end

theorem fenceReady_scope {d : Dev} {u : Nat} {it : Item} (h : fenceReady d u = some it) : ∀ x ∈ d.disp.items, inScope it x = false := by
  have hp := (Option.filter_eq_some_iff.1 h).2
  simp only [Bool.and_eq_true, Bool.not_eq_true', List.any_eq_false, Bool.not_eq_true] at hp
  exact hp.2

theorem answers_fence {s : State} {u : Nat} {it : Item} (h : homeStartable s.dev u 6 = some it) :
    Answers (.fence u) s (startWith s.dev it fun d _ => d) := by
  refine (answers_act (n := "FENCE") rfl (by simp [h])).trans ?_
  rw [h]

theorem answers_fenceComplete {s : State} {u : Nat} {it : Item} (h : fenceReady s.dev u = some it) :
    Answers (.fenceComplete u) s (fenceEnd s.dev it) := by
  refine (answers_act (n := "FENCE_COMPLETE") rfl (by simp [h])).trans ?_
  rw [h]

/-! ### Step graphs begin (R111, R124) -/

section
variable {d : Dev} {it : Item}

theorem graphStart_bad (h : graphBad (graphWi it.wi) = true) : graphStart d it = finish d it 0x50 := if_pos h

section
variable {d' : Dev} (h : graphBad (graphWi it.wi) = false)
include h

theorem graphStart_table {ps : List Nat}
    (hr : readPatches (rowAgent (homeRow d it.ring)) it.part (graphWi it.wi).patch (graphWi it.wi).patches d = (d', .ok ps)) :
    graphStart d it = if ps.any (patchBad (graphWi it.wi).items) || !ascending ps then finish d' it 0x50
      else onDisp d' fun y => { y with graphs := y.graphs ++ [{ uid := it.uid, patches := ps }] } := by
  unfold graphStart
  simp only [h, hr]
  rfl

/-- A patch table that cannot be read yet leaves the work item at its dispatcher. -/
theorem graphStart_waits
    (hr : readPatches (rowAgent (homeRow d it.ring)) it.part (graphWi it.wi).patch (graphWi it.wi).patches d = (d', .error 0)) :
    graphStart d it = modItem d' it.uid fun y => { y with phase := .placed, patched := false } := by
  unfold graphStart
  simp only [h, hr]
  rfl

theorem graphStart_unreadable {c : Nat} (hc : c ≠ 0)
    (hr : readPatches (rowAgent (homeRow d it.ring)) it.part (graphWi it.wi).patch (graphWi it.wi).patches d = (d', .error c)) :
    graphStart d it = finish d' it c := by
  obtain ⟨c, rfl⟩ := Nat.exists_eq_succ_of_ne_zero hc
  unfold graphStart
  simp only [h, hr]
  rfl

end

end

theorem answers_stepGraph {s : State} {u : Nat} {it : Item} (h : homeStartable s.dev u 7 = some it) :
    Answers (.stepGraph u) s (startWith s.dev it graphStart) := by
  refine (answers_act (n := "STEP_GRAPH") rfl (by simp [h])).trans ?_
  rw [h]

/-! ### Steps issue (R121, R129) -/

section
variable {d : Dev} {u : Nat} {it : Item} {r : GraphRun}

/-- A step that may issue is one of the replay's, and begins only where R121 allows it. -/
theorem issueReady_allowed (h : issueReady d u = some (it, r)) : r.step < (graphWi it.wi).count ∧
    (r.next = 0 → stepAllowed d (graphWi it.wi) r = true) := by
  unfold issueReady at h
  split at h
  next it' r' _ _ =>
    dsimp only at h
    split at h
    next hc =>
      obtain ⟨rfl, rfl⟩ := Prod.mk.inj (Option.some.inj h)
      simp only [Bool.and_eq_true, Bool.or_eq_true, decide_eq_true_eq] at hc
      exact ⟨hc.1.2, fun hn => hc.2.resolve_left (by omega)⟩
    next => exact absurd h (by simp)
  next => exact absurd h (by simp)

theorem stepAllowed_iff_oldest {x : GraphWi} {o : Nat} (ho : oldestOpen x.first r = some o) :
    stepAllowed d x r = true ↔ r.step ≤ o + clampTo 1 4 (rd d .dispatchStepAhead 0) := by
  unfold stepAllowed
  rw [ho]
  exact decide_eq_true_iff

end

/-- The work item shows the step that issues, and with STEP_MARK a step boundary marks the partition's tiles (R129). -/
theorem issueStep_eq (d : Dev) (it : Item) (r : GraphRun) :
    let x := graphWi it.wi
    let e := modItem d it.uid fun y => { y with step := (x.first + r.step) % 2 ^ 32 }
    let e' := if r.begun = false ∧ 0 < r.step ∧ x.mark = true then (tilesOf e it.part).foldl journalMark e else e
    issueStep d it r = issueItems (x.items + 1) (modGraph e' it.uid fun r => { r with begun := true }) it.uid := by
  intro x e e'
  have hm : (!r.begun && decide (r.step > 0) && x.mark) = true ↔ r.begun = false ∧ 0 < r.step ∧ x.mark = true := by simp [and_assoc]
  exact congrArg (fun d => issueItems (x.items + 1) (modGraph d it.uid fun r => { r with begun := true }) it.uid) (if_congr hm rfl rfl)

theorem answers_stepIssue {s : State} {u : Nat} {it : Item} {r : GraphRun} (h : issueReady s.dev u = some (it, r)) :
    Answers (.stepIssue u) s (issueStep s.dev it r) := by
  refine (answers_act (n := "STEP_ISSUE") rfl (by simp [h])).trans ?_
  rw [h]

/-! ### Replays end (R126) -/

section
variable {d : Dev} {u : Nat} {it : Item} {r : GraphRun} (hi : itemOf d u = some it) (hg : graphRunOf d u = some r) (ho : r.open_ = [])
include hi hg ho

theorem graphEnded_whole (h : (graphWi it.wi).count ≤ r.step) : graphEnded d u = some (it, 0) := by
  simp [graphEnded, hi, hg, ho, h]

theorem graphEnded_stopped (h : r.step < (graphWi it.wi).count) (hc : r.cause ≠ 0) : graphEnded d u = some (it, r.cause) := by
  simp [graphEnded, hi, hg, ho, graphStopped, hc, h]

end

theorem answers_stepGraphComplete {s : State} {u c : Nat} {it : Item} (hr : inRun s.dev = true) (h : graphEnded s.dev u = some (it, c)) :
    Answers (.stepGraphComplete u) s (finishFree s.dev it 0 c) := by
  refine (answers_act (n := "STEP_GRAPH_COMPLETE") rfl (by simp [hr, h])).trans ?_
  rw [h]

/-! ### The obligation -/

/-- Settles O31: a fence by its flush reads and journals, a step graph by its table, its next step and its end. -/
theorem fencesAndGraphs : Obligations.FencesAndGraphs := by
  refine ⟨fun s u it h => ⟨_, answers_fence h, startWith_startsBy s.dev it _⟩, fun s u it h => ?_, fun s u it h => ?_, fun s u it r h => ?_,
    fun s u it r hr hi hg ho => ⟨fun hs => ?_, fun hs hc => ?_⟩⟩
  · refine ⟨_, fenceEnded s.dev it, answers_fenceComplete h, fenceEnd_eq s.dev it, fenceReady_scope h, fun x hx => ?_, fun hd x hx => ?_,
      fun hm t ht x hx => ?_, fun hm t => ?_, fun hk t ht => ?_, fun hk t => ?_, ?_⟩
    · exact flush_dirty (fenceEnded_hl s.dev it ▸ hx)
    · exact flush_peerDirty hd (fenceEnded_hl s.dev it ▸ hx)
    · rw [rolling_fenceEnded, if_pos ⟨hm, ht⟩] at hx
      exact of_decide_eq_true (List.mem_filter.1 hx).2
    · rw [rolling_fenceEnded, if_neg (by simp [hm])]
    · rw [keep_fenceEnded, if_pos ⟨hk, ht⟩]
    · rw [keep_fenceEnded, if_neg (by simp [hk])]
    · rw [← fenceEnded_frame]
      exact onlyRegs_refl _ _
  · refine ⟨_, answers_stepGraph h, startWith_startsBy s.dev it graphStart, fun d it' hb => ?_⟩
    rw [startWith_begins hb]
    refine ⟨graphStart_bad, fun d' ps hbad hr => ⟨fun hps => ?_, fun hps ha => ?_⟩, fun d' => graphStart_waits,
      fun d' c hbad => graphStart_unreadable hbad⟩
    · rw [graphStart_table hbad hr, if_pos (by simpa using hps)]
    · rw [graphStart_table hbad hr, if_neg (by simp [hps, ha])]
  · obtain ⟨hstep, hallowed⟩ := issueReady_allowed h
    exact ⟨_, answers_stepIssue h, issueStep_eq s.dev it r, hstep, fun hn o ho => (stepAllowed_iff_oldest ho).1 (hallowed hn)⟩
  · exact ⟨_, answers_stepGraphComplete hr (graphEnded_whole hi hg ho hs), rfl⟩
  · exact ⟨_, answers_stepGraphComplete hr (graphEnded_stopped hi hg ho hs hc), rfl⟩

end Sys2Proof.Machine
end

section
/-!
Answers, notifications, timeouts and header errors of mesh transactions (R116, R270 to R285, R291), and O35.
-/
namespace Sys2Proof.Machine

/-! ### Answers (R273, R279, R285) -/

section
variable {d : Dev} {k : AnsKind} {src txn : Nat} {a : MeshAns}

/-- The answer a row delivers is on its way, of its kind, to its transaction. -/
theorem answerOf_spec (h : answerOf d k src txn = some a) : a ∈ d.mesh.flight ∧ a.kind = k ∧ a.src = src ∧ a.txn = txn := by
  have hp : (a.kind = k ∧ a.src = src) ∧ a.txn = txn := by simpa using List.find?_some h
  exact ⟨List.mem_of_find?_eq_some h, hp.1.1, hp.1.2, hp.2⟩

theorem deliverAnswer_noRoute (h : routeOf d a.epoch a.from_ a.src = .noRoute) :
    deliverAnswer d a = bump (onMesh d fun m => { m with flight := m.flight.erase a }) .meshNoRouteDrops := by
  unfold deliverAnswer
  rw [h]

theorem deliverAnswer_lost (h : routeOf d a.epoch a.from_ a.src = .lost) :
    deliverAnswer d a = onMesh d fun m => { m with flight := m.flight.erase a } := by
  unfold deliverAnswer
  rw [h]

theorem deliverAnswer_flit (h : routeOf d a.epoch a.from_ a.src = .arrives) (hl : 1 < a.left) : deliverAnswer d a =
    onMesh d fun m => { m with flight := m.flight.map fun x => if x = a then { x with left := x.left - 1 } else x } := by
  unfold deliverAnswer
  rw [h]
  exact if_pos hl

theorem deliverAnswer_last (h : routeOf d a.epoch a.from_ a.src = .arrives) (hl : a.left ≤ 1) :
    deliverAnswer d a = takeAnswer (noteLimit (onMesh d fun m => { m with flight := m.flight.erase a }) a) a := by
  unfold deliverAnswer
  rw [h]
  exact if_neg (Nat.not_lt.2 hl)

end

theorem answers_answerRow {s : State} {k : AnsKind} {c : Instr} {n : String} {src txn : Nat} {a : MeshAns}
    (hc : exec c s = answerRow s n k src txn) (hr : inRun s.dev = true) (ha : answerOf s.dev k src txn = some a) :
    Answers c s (deliverAnswer s.dev a) := by
  refine (answers_act hc (by simp [hr, ha])).trans ?_
  rw [ha]

/-- Each kind of answer has a command whose meaning is its row. -/
theorem answerRow_of_mem {k : AnsKind} {c : Nat → Nat → Instr}
    (h : (k, c) ∈ [(AnsKind.readData, Instr.readData), (.writeAck, .writeAck), (.atomicResult, .atomicResult), (.error, .errorFlit)])
    (s : State) (src txn : Nat) : ∃ n, exec (c src txn) s = answerRow s n k src txn := by
  simp only [List.mem_cons, List.not_mem_nil, or_false, Prod.mk.injEq] at h
  rcases h with ⟨rfl, rfl⟩ | ⟨rfl, rfl⟩ | ⟨rfl, rfl⟩ | ⟨rfl, rfl⟩
  · exact ⟨"READ_DATA", rfl⟩
  · exact ⟨"WRITE_ACK", rfl⟩
  · exact ⟨"ATOMIC_RESULT", rfl⟩
  · exact ⟨"ERROR_FLIT", rfl⟩

/-! ### Notifications and work items (R116, R272, R279) -/

section
variable {d : Dev} {n : Notify}

theorem notifyFront_spec {row : Nat} (h : notifyFront d row = some n) : n ∈ d.disp.notifies ∧ n.row = row :=
  ⟨List.mem_of_find?_eq_some h, by simpa using List.find?_some h⟩

/-- What the row's waiters go on seeing once a notification is discarded. -/
def staleAfter (d : Dev) (n : Notify) : KMap Nat := if (find? d.disp.stale n.addr).isSome then d.disp.stale else put d.disp.stale n.addr n.old

theorem notifyArrives_arrives (h : routeOf d n.epoch 0x2005 (0x800 + n.row) = .arrives) :
    notifyArrives d n = onDisp d fun x => { x with notifies := x.notifies.erase n, stale := del x.stale n.addr } := by
  unfold notifyArrives
  rw [h]

theorem notifyArrives_lost (h : routeOf d n.epoch 0x2005 (0x800 + n.row) = .lost) :
    notifyArrives d n = onDisp d fun x => { x with notifies := x.notifies.erase n, stale := staleAfter d n } := by
  unfold notifyArrives
  rw [h]
  rfl

theorem notifyArrives_noRoute (h : routeOf d n.epoch 0x2005 (0x800 + n.row) = .noRoute) :
    notifyArrives d n = bump (onDisp d fun x => { x with notifies := x.notifies.erase n, stale := staleAfter d n }) .meshNoRouteDrops := by
  unfold notifyArrives
  rw [h]
  rfl

/-- Of the dispatchers' state a notification changes what is on its way and what waiters see, and nothing else. -/
theorem notifyArrives_disp (d : Dev) (n : Notify) : ∃ st, (notifyArrives d n).disp = { d.disp with notifies := d.disp.notifies.erase n, stale := st } := by
  cases h : routeOf d n.epoch 0x2005 (0x800 + n.row) with
  | arrives => exact ⟨_, by rw [notifyArrives_arrives h, onDisp_disp]⟩
  | lost => exact ⟨_, by rw [notifyArrives_lost h, onDisp_disp]⟩
  | noRoute => exact ⟨_, by rw [notifyArrives_noRoute h, bump, wr_disp, onDisp_disp]⟩

end

theorem answers_tokenNotify {s : State} {row : Nat} {n : Notify} (hr : inRun s.dev = true) (hn : notifyFront s.dev row = some n) :
    Answers (.tokenNotify row) s (notifyArrives s.dev n) := by
  refine (answers_act (n := "TOKEN_NOTIFY") rfl (by simp [hr, hn])).trans ?_
  rw [hn]

theorem answers_workItem {s : State} {t : Nat} {c : Carried} (hr : inRun s.dev = true) (hc : carriedFront s.dev t = some c) :
    Answers (.workItem t) s (onDisp s.dev fun x => { x with carried := x.carried.erase c }) := by
  refine (answers_act (n := "WORK_ITEM") rfl (by simp [hr, hc])).trans ?_
  rw [hc]

/-! ### Header errors (R282) -/

/-- What a header error discards at an endpoint: one of the flits on their way there, a free choice. -/
def headerDiscard (d : Dev) (eid : Nat) : Dev :=
  match (onWay d eid)[(choose d (onWay d eid).length).1]? with
  | some x => discardFlit { d with free := d.free + 1 } x
  | none => d

theorem headerError_eq (d : Dev) (eid : Nat) : headerError d eid =
    fabricEvent (bump (headerDiscard d eid) .meshHeaderDrops) 0xC6 (some eid) 0 0 (rd (bump (headerDiscard d eid) .meshHeaderDrops) .meshHeaderDrops) := rfl

theorem headerDiscard_none {d : Dev} {eid : Nat} (h : onWay d eid = []) : headerDiscard d eid = d := by
  unfold headerDiscard
  rw [h]
  rfl

theorem headerDiscard_some {d : Dev} {eid : Nat} (h : onWay d eid ≠ []) :
    ∃ x ∈ onWay d eid, headerDiscard d eid = discardFlit { d with free := d.free + 1 } x := by
  have hlt : (choose d (onWay d eid).length).1 < (onWay d eid).length := Nat.mod_lt _ (List.length_pos_iff.2 h)
  refine ⟨_, List.getElem_mem hlt, ?_⟩
  unfold headerDiscard
  rw [List.getElem?_eq_getElem hlt]

theorem rd_discardFlit (d : Dev) (x : OnWay) (f : Fld) (i : Nat) : rd (discardFlit d x) f i = rd d f i := by
  cases x <;> rfl

theorem rd_headerDiscard (d : Dev) (eid : Nat) (f : Fld) (i : Nat) : rd (headerDiscard d eid) f i = rd d f i := by
  by_cases h : onWay d eid = []
  · rw [headerDiscard_none h]
  · obtain ⟨x, -, hx⟩ := headerDiscard_some h
    rw [hx, rd_discardFlit]
    rfl

/-! ### REMOTE transactions (R291) -/

theorem answers_remote {s : State} {r : Remote} (hr : inRun s.dev = true) (he : isSet s.dev .transportCtrlEnable 0 = true)
    (hf : remoteFront s.dev = some r) : Answers .remote s (takeRemote (onDisp s.dev fun x => { x with remotes := x.remotes.erase r }) r) := by
  refine (answers_act (n := "REMOTE") rfl (by simp [hr, he, hf])).trans ?_
  rw [hf]

/-! ### The obligation -/

/-- Settles O35: each flit by the route it finds, a header error by what is on its way. -/
theorem flitAnswers : Obligations.FlitAnswers := by
  refine ⟨fun s k c src txn a hc hr ha => ?_, fun s row n hr hn => ?_, fun s t x hr hx => ⟨_, answers_workItem hr hx, rfl, rfl⟩,
    fun s src txn hr hw => ⟨_, answers_act (n := "TXN_TIMEOUT") rfl (by rw [hr, hw]; rfl), rfl, rfl, rfl⟩, fun s eid he => ?_,
    fun s r hr he hf => ⟨List.mem_of_find?_eq_some hf, List.find?_some hf, _, answers_remote hr he hf, rfl⟩⟩
  · obtain ⟨hmem, hkind, hsrc, htxn⟩ := answerOf_spec ha
    obtain ⟨n, hx⟩ := answerRow_of_mem hc s src txn
    refine ⟨hmem, hkind, hsrc, htxn, _, answers_answerRow hx hr ha, fun h => ?_, deliverAnswer_lost, deliverAnswer_flit, deliverAnswer_last⟩
    rw [deliverAnswer_noRoute h]
    exact ⟨rd_bump_self _ _ _ _ rfl, onlyRegs_bump (onlyRegs_refl _ _) (by simp)⟩
  · obtain ⟨hmem, hrow⟩ := notifyFront_spec hn
    obtain ⟨st, hd⟩ := notifyArrives_disp s.dev n
    refine ⟨hmem, hrow, _, answers_tokenNotify hr hn, by rw [hd], by rw [hd], fun h => ?_, fun h => ?_, fun h => ?_⟩
    · rw [notifyArrives_arrives h]
      exact ⟨rfl, rfl⟩
    · rw [notifyArrives_lost h]
      exact ⟨rfl, rfl⟩
    · rw [notifyArrives_noRoute h]
      refine ⟨by rw [bump, wr_disp]; rfl, rd_bump_self _ _ _ _ rfl, ?_⟩
      rw [bump, wr_disp]
      exact onlyRegs_bump (onlyRegs_refl _ _) (by simp)
  · refine ⟨_, headerDiscard s.dev eid, answers_cmd (n := "FLIT_HEADER_ERROR") rfl he, ?_, headerError_eq s.dev eid, headerDiscard_none,
      headerDiscard_some⟩
    rw [headerError_eq, rd_fabricEvent, rd_bump_self _ _ _ _ rfl, rd_headerDiscard]
    rfl

end Sys2Proof.Machine
end

section
/-!
The steps of an attention walk (R145 to R157, R161, R167, R168) and of a home (R164 to R166), and O29.
-/
namespace Sys2Proof.Machine

/-! ### Batches (R149 to R151, R156) -/

section
variable {d : Dev} {it : Item} {r : AttRun}

/-- A batch may be formed only while the walk's range has entries left. -/
theorem batchReady_next (h : batchReady it r = true) (hr : r.remoteBatch = false) : r.next ≤ lastEntry it r := by
  unfold batchReady at h
  split at h
  next => exact of_decide_eq_true h
  next => exact absurd (hr.symm.trans h) (by decide)

theorem formBatch_remote (h : r.remoteBatch = true) : formBatch d it r = remoteBatch d it r := if_pos h

/-- Under POLICY 1 a remote batch is always pulled. -/
theorem remoteBatch_pull (h : (attWi it.wi).policy = 1) :
    let r' := { r with batch := [], batchFirst := 0, remoteBatch := false }
    remoteBatch d it r = pullBatch (setRun d r') it r' (entHome (r.batch.headD 0)) r.batchFirst r.batch := if_pos h

end

theorem answers_attentionBatch {s : State} {t : Nat} {it : Item} {r : AttRun} (hr : inRun s.dev = true) (ha : attOn s.dev t = some (it, r))
    (hb : batchReady it r = true) : Answers (.attentionBatch t) s (formBatch s.dev it r) := by
  refine (answers_act (n := "ATTENTION_BATCH") rfl (by simp [hr, ha, hb])).trans ?_
  rw [ha]

/-! ### Pages and the result (R142, R143, R145, R146, R150, R152) -/

theorem runAt_setRun {d : Dev} {r : AttRun} {uid : Nat} (h : r.uid = uid) : runAt (setRun d r) uid = some r := h ▸ find?_put_self _ _ _

/-- A walk without a batch reads no further page. -/
theorem feedLocal_of_batch_nil {d : Dev} {uid : Nat} {r : AttRun} (h : runAt d uid = some r) (hb : r.batch = []) (n : Nat) :
    feedLocal n d uid = d := by
  cases n with
  | zero => rfl
  | succ n =>
    unfold feedLocal
    rw [h]
    cases itemOf d uid with
    | none => rfl
    | some it => simp only [hb]

/-- A walk with a page's triples merged into its rows and the page left behind; the order of the page's sums is drawn from `d`. -/
def pageMerged (d : Dev) (it : Item) (r : AttRun) (p : AttPage) : AttRun :=
  let x := attWi it.wi
  let g := hdrGeom r.header
  let m := mergeRows r.rows (pagePartials g x.scale (Config.freeNat d.free) x.first x.last x.mask (p.index * g.ppp)
    (r.q.map fun row => row.map decodeBf16) r.qpos p.kv p.side)
  { r with rows := m.1, flags := r.flags ||| m.2, pages := r.pages.filter fun y => y.index ≠ p.index }

theorem pageDone_eq (d : Dev) (it : Item) (r : AttRun) (p : AttPage) :
    pageDone d it r p = feedLocal 17 (setRun { d with free := d.free + 1 } (pageMerged d it r p)) it.uid := rfl

theorem pageDone_of_batch_nil {d : Dev} {it : Item} {r : AttRun} {p : AttPage} (hu : r.uid = it.uid) (hb : r.batch = []) :
    pageDone d it r p = setRun { d with free := d.free + 1 } (pageMerged d it r p) :=
  feedLocal_of_batch_nil (r := pageMerged d it r p) (runAt_setRun hu) hb 17

theorem answers_attentionPageDone {s : State} {t page : Nat} {it : Item} {r : AttRun} {p : AttPage} (hr : inRun s.dev = true)
    (hp : pageOf s.dev t page = some (it, r, p)) : Answers (.attentionPageDone t page) s (pageDone s.dev it r p) := by
  refine (answers_act (n := "ATTENTION_PAGE_DONE") rfl (by simp [hr, hp])).trans ?_
  rw [hp]

section
variable {d d' : Dev} {it : Item} {r : AttRun}

/-- The runs of a walk's result, with its flags. -/
def attOut (it : Item) (r : AttRun) : List (Nat × List Byte) × Nat := outRuns (attWi it.wi).outFmt (hdrGeom r.header).dim r.rows

/-- The words that the result covers in part are visited before any is written. -/
def attVisited (d : Dev) (it : Item) (r : AttRun) : Dev × Option Nat := visitRuns d it.tile (attWi it.wi).out (attOut it r).1

theorem attWrite_whole (h : attVisited d it r = (d', none)) :
    let w := writeRuns d' it.uid it.tile (attWi it.wi).out (attOut it r).1
    attWrite d it r = attEnd w.1 it (r.flags ||| (attOut it r).2) (w.2.getD 0) := by
  unfold attVisited attOut at h
  unfold attWrite
  dsimp only
  rw [h]
  rfl

theorem attWrite_refused {c : Nat} (h : attVisited d it r = (d', some c)) :
    attWrite d it r = attEnd d' it (r.flags ||| (attOut it r).2) c := by
  unfold attVisited attOut at h
  unfold attWrite
  dsimp only
  rw [h]
  rfl

end

theorem answers_attentionComplete {s : State} {t : Nat} {it : Item} {r : AttRun} (hr : inRun s.dev = true) (ha : attOn s.dev t = some (it, r))
    (hw : walkDone it r = true) : Answers (.attentionComplete t) s (attWrite s.dev it r) := by
  refine (answers_act (n := "ATTENTION_COMPLETE") rfl (by simp [hr, ha, hw])).trans ?_
  rw [ha]

/-! ### Far requests (R153, R167, R168) -/

section
variable {d d' : Dev} {it : Item} {r : AttRun} {f : FarReq}

/-- The fallback is counted and the request's reservation given up before the batch goes on. -/
def farGivenUp (d : Dev) (f : FarReq) : Dev := releaseFar (bump d .dispatchAttnFallback) f

/-- The far requests of a walk but for one. -/
def otherFar (r : AttRun) (f : FarReq) : List FarReq := r.far.filter fun y => y.slot ≠ f.slot

theorem farFallback_retry (h : (attWi it.wi).policy = 2) :
    farFallback d it r f = setRun (farGivenUp d f) { r with far := otherFar r f ++ [{ f with state := .retry, reply := [] }] } := if_pos h

theorem farFallback_pull (h : (attWi it.wi).policy ≠ 2) : farFallback d it r f =
    pullBatch (setRun (farGivenUp d f) { r with far := otherFar r f }) it { r with far := otherFar r f } f.home f.first f.entries := if_neg h

theorem farRetry_exhausted (h : f.retryMax ≤ f.tries) : farRetry d it r f = attEnd d it r.flags 0x5A := if_pos h

/-- What issuing a request once more gives, its try counted. -/
def farTryAgain (d : Dev) (it : Item) (r : AttRun) (f : FarReq) : FarTry :=
  farIssue d it { r with far := otherFar r f } { f with tries := f.tries + 1 }

section
variable (h : f.tries < f.retryMax)
include h

theorem farRetry_again : farRetry d it r f =
    match farTryAgain d it r f with
    | .sent d => d
    | .busy => d
    | .noPath d => setRun d { r with far := otherFar r f ++ [{ f with tries := f.tries + 1 }] } := if_neg (Nat.not_le.2 h)

theorem farRetry_sent (ht : farTryAgain d it r f = .sent d') : farRetry d it r f = d' := by rw [farRetry_again h, ht]

theorem farRetry_busy (ht : farTryAgain d it r f = .busy) : farRetry d it r f = d := by rw [farRetry_again h, ht]

theorem farRetry_noPath (ht : farTryAgain d it r f = .noPath d') :
    farRetry d it r f = setRun d' { r with far := otherFar r f ++ [{ f with tries := f.tries + 1 }] } := by rw [farRetry_again h, ht]

end

end

theorem answers_farTimeout {s : State} {t q : Nat} {it : Item} {r : AttRun} {f : FarReq} (h : farOf s.dev t q .out = some (it, r, f)) :
    Answers (.farTimeout t q) s (farFallback s.dev it r f) := by
  refine (answers_act (n := "FAR_TIMEOUT") rfl (by simp [h])).trans ?_
  rw [h]

theorem answers_farRetry {s : State} {t q : Nat} {it : Item} {r : AttRun} {f : FarReq} (h : farOf s.dev t q .retry = some (it, r, f)) :
    Answers (.farRetry t q) s (farRetry s.dev it r f) := by
  refine (answers_act (n := "FAR_RETRY") rfl (by simp [h])).trans ?_
  rw [h]

/-! ### Utilisation (R154) -/

/-- A sub-port's utilisation `u` after a sample `x`. -/
def sampled (u x : Nat) : Nat := ((u : Int) + Int.fdiv ((x : Int) - u) 8).toNat

/-- An eighth of the difference, rounded down, never takes a utilisation below zero. -/
theorem sampled_eq (u x : Nat) : (sampled u x : Int) = u + ((x : Int) - u).fdiv 8 := by
  have h8 : ((x : Int) - u).fdiv 8 = ((x : Int) - u) / 8 := Int.fdiv_eq_ediv_of_nonneg _ (by decide)
  refine Int.toNat_of_nonneg ?_
  rw [h8]
  omega

/-- What a sample of a sub-port leaves: its utilisation alone is new. -/
def utilSampled (d : Dev) (sub pct : Nat) : Dev :=
  onAtt d fun a => { a with util := putD a.util sub (sampled (getD a.util sub 0) (pct * 65536 / 100)) 0 }

theorem getD_utilSampled_self (d : Dev) (sub pct : Nat) : ((getD (utilSampled d sub pct).att.util sub 0 : Nat) : Int) =
    (getD d.att.util sub 0 : Nat) + (((pct * 65536 / 100 : Nat) : Int) - (getD d.att.util sub 0 : Nat)).fdiv 8 :=
  (congrArg Nat.cast (getD_putD_self _ _ _ _)).trans (sampled_eq _ _)

theorem getD_utilSampled_ne (d : Dev) {sub i : Nat} (pct : Nat) (h : i ≠ sub) :
    getD (utilSampled d sub pct).att.util i 0 = getD d.att.util i 0 := getD_putD_ne _ _ _ h

theorem answers_utilisationSample {s : State} {sub pct : Nat} (hs : subExists s.dev sub = true) (hp : pct ≤ 100) :
    Answers (.utilisationSample sub pct) s (utilSampled s.dev sub pct) :=
  answers_cmd (n := "UTILISATION_SAMPLE") rfl (by simp [hs, hp])

/-! ### The home (R164 to R166) -/

section
variable {d d' : Dev} {h : HomeReq}

theorem homeDone_pages {l : List (List Byte × List Byte)} (hf : homeFetch d h = (d', .pages l)) : homeDone d h =
    homeDrop (homeReply { d' with free := d'.free + 1 } h 0 (homePartial h.payload (Config.freeNat d'.free) l)) h := by
  unfold homeDone
  rw [hf]
  rfl

theorem homeDone_status {c : Nat} (hf : homeFetch d h = (d', .status c)) : homeDone d h = homeDrop (homeReply d' h c []) h := by
  unfold homeDone
  rw [hf]

theorem homeDone_wait (hf : homeFetch d h = (d', .wait)) : homeDone d h =
    onAtt d' fun a => { a with homes := a.homes.map fun y => if y.id = h.id then { y with stalled := true } else y } := by
  unfold homeDone
  rw [hf]

end

theorem answers_homeComputeDone {s : State} {q : Nat} {h : HomeReq} (hr : inRun s.dev = true) (hh : homeReady s.dev q = some h) :
    Answers (.homeComputeDone q) s (homeDone s.dev h) := by
  refine (answers_act (n := "HOME_COMPUTE_DONE") rfl (by simp [hr, hh])).trans ?_
  rw [hh]

/-! ### The obligation -/

/-- Settles O29, step by step: each command by its effect, and the effect by its cases. -/
theorem attentionWalk : Obligations.AttentionWalk := by
  refine ⟨fun s t it r hr ha hb => ⟨_, answers_attentionBatch hr ha hb, fun hm => ?_, fun hm => ⟨batchReady_next hb hm, rfl⟩⟩,
    fun s t page it r p hr hp => ⟨_, answers_attentionPageDone hr hp, pageDone_eq s.dev it r p, pageDone_of_batch_nil⟩,
    fun s t it r hr ha hw => ⟨_, answers_attentionComplete hr ha hw, fun hv => attWrite_whole (Prod.ext rfl hv),
      fun c hv => attWrite_refused (Prod.ext rfl hv)⟩,
    fun s t q it r f hf => ⟨_, answers_farTimeout hf, farFallback_retry, farFallback_pull⟩,
    fun s t q it r f hf => ⟨_, answers_farRetry hf, farRetry_exhausted,
      fun ht => ⟨fun d => farRetry_sent ht, farRetry_busy ht, fun d => farRetry_noPath ht⟩⟩,
    fun s sub pct hs hp => ⟨_, answers_utilisationSample hs hp, ⟨rfl, fun _ _ _ => rfl⟩, getD_utilSampled_self s.dev sub pct,
      fun i => getD_utilSampled_ne s.dev pct⟩,
    fun s q h hr hh => ⟨_, answers_homeComputeDone hr hh, fun d l => homeDone_pages, fun d c => homeDone_status, fun d => homeDone_wait⟩⟩
  rw [formBatch_remote hm]
  exact ⟨rfl, remoteBatch_pull⟩

end Sys2Proof.Machine
end

section
/-!
Places, and reads and writes of words and lines that carry no error (R171, R182, R187, R190, R193), and O9 and O10.
-/
namespace Sys2Proof.Machine

/-! ### Places (R187) -/

theorem place_of_lt_hbmEnd (d : Dev) {a : Nat} (h : a < hbmEnd) : place d a = .hbm (hbmStack d a) := if_pos h

theorem hbmStack_of_blocks {d : Dev} (h : rd d .memoryHbmCfgInterleave ≠ 1) (a : Nat) : hbmStack d a = a / 256 % 12 := if_neg h

theorem hbmStack_of_quarters {d : Dev} (h : rd d .memoryHbmCfgInterleave = 1) (a : Nat) :
    hbmStack d a = 3 * (a / 0x3000000000) + (a - a / 0x3000000000 * 0x3000000000) / 256 % 3 := if_pos h

theorem hbmStack_lt (d : Dev) {a : Nat} (h : a < hbmEnd) : hbmStack d a < 12 := by
  by_cases hi : rd d .memoryHbmCfgInterleave = 1
  · unfold hbmEnd at h
    rw [hbmStack_of_quarters hi]
    omega
  · rw [hbmStack_of_blocks hi]
    exact Nat.mod_lt _ (by decide)

/-- With INTERLEAVE 1 the stack of an address belongs to the die of its quarter. -/
theorem dieOf_hbmStack {d : Dev} (h : rd d .memoryHbmCfgInterleave = 1) (a : Nat) : dieOf (.hbm (hbmStack d a)) = a / 0x3000000000 := by
  rw [hbmStack_of_quarters h, dieOf]
  omega

/-- Settles O10, by the stack's formula in each mode. -/
theorem hbmInterleave : Obligations.HbmInterleave := by
  intro d a ha
  rw [place_of_lt_hbmEnd d ha]
  exact ⟨⟨_, rfl, hbmStack_lt d ha⟩, fun h => by rw [hbmStack_of_blocks h], fun h => ⟨_, rfl, dieOf_hbmStack h a⟩⟩

/-! ### What the decode depends on -/

section
variable {d e : Dev} (hr : ∀ f i, rd e f i = rd d f i)
include hr

theorem hbmStack_congr (x : Nat) : hbmStack e x = hbmStack d x := by simp only [hbmStack, hr]

theorem place_congr (hg : e.mem.ddrGib = d.mem.ddrGib) (x : Nat) : place e x = place d x := by
  have hc : ddrChannel e = ddrChannel d := by
    unfold ddrChannel
    rw [hg]
  unfold place
  rw [hbmStack_congr hr x, hc]

theorem cmpRegion_congr (x : Nat) : cmpRegion e x = cmpRegion d x := by simp only [cmpRegion, isSet, hr]

theorem unitFailed_congr (hs : e.mem.stacksFailed = d.mem.stacksFailed) (hh : e.mem.hedgeFailed = d.mem.hedgeFailed) (p : Place) :
    unitFailed e p = unitFailed d p := by
  cases p <;> simp only [unitFailed, hr, hs, hh]

end

/-! ### Visits of a word or line without an error -/

theorem touch_eq (d : Dev) (p : Place) : touch_ d p = { d with pwr := (touch_ d p).pwr } := by
  cases p with
  | hbm s => simp only [touch_]; rw [wake_eq, wake_eq d]
  | ddr c => simp only [touch_]; rw [wake_eq, wake_eq d]
  | scratch t o => exact wake_eq d _
  | control o => rfl
  | hole => rfl

theorem eccAt_of_live {d : Dev} {p : Place} (hu : unitFailed d p = false) (b : Nat) : eccAt d p b = find? d.mem.ecc b := by
  simp [eccAt, hu]

/-- A demand read of a word or line without an error wakes its tile or die and does nothing else. -/
theorem demand_clean {d : Dev} {p : Place} {b : Nat} (hm : isMemory p = true) (he : eccAt d p b = none) : demand d p b = (touch_ d p, none) := by
  have ht : eccAt (touch_ d p) p b = none := by
    rw [touch_eq]
    exact he
  unfold demand
  simp [hm, ht]

/-! ### Writes (R182, R193) -/

/-- From `d` to `e` the bytes `bs` have been written at `a`: beside them only error states, token shadows and wakes have changed, and
where there was no error there is none. -/
def Wrote (d e : Dev) (a : Nat) (bs : List Byte) : Prop :=
  ∃ p ec fs k, e = { d with
    pwr := p, disp := { d.disp with tokens := k }
    mem := { d.mem with bytes := writeSparse d.mem.bytes a bs, ecc := ec, flips := fs } } ∧
    ∀ x, find? d.mem.ecc x = none → find? ec x = none

section
variable {d e f : Dev} {a : Nat} {bs : List Byte}

theorem Wrote.nil (d : Dev) (a : Nat) : Wrote d d a [] := ⟨_, _, _, _, rfl, fun _ h => h⟩

theorem Wrote.append {cs : List Byte} (h : Wrote d e a bs) (h' : Wrote e f (a + bs.length) cs) : Wrote d f a (bs ++ cs) := by
  obtain ⟨p, ec, fs, k, rfl, he⟩ := h
  obtain ⟨p', ec', fs', k', rfl, he'⟩ := h'
  exact ⟨p', ec', fs', k', by rw [writeSparse_append], fun x hx => he' x (he x hx)⟩

theorem Wrote.getBytes (h : Wrote d e a bs) (x n : Nat) : getBytes e x n = getBytes (setBytes d a bs) x n := by
  obtain ⟨p, ec, fs, k, rfl, -⟩ := h
  rfl

theorem Wrote.find?_ecc {x : Nat} (h : Wrote d e a bs) (hx : find? d.mem.ecc x = none) : find? e.mem.ecc x = none := by
  obtain ⟨p, ec, fs, k, rfl, he⟩ := h
  exact he x hx

theorem Wrote.rd (h : Wrote d e a bs) (f : Fld) (i : Nat) : rd e f i = rd d f i := by
  obtain ⟨p, ec, fs, k, rfl, -⟩ := h
  rfl

theorem Wrote.units (h : Wrote d e a bs) : e.mem.ddrGib = d.mem.ddrGib ∧ e.mem.stacksFailed = d.mem.stacksFailed ∧
    e.mem.hedgeFailed = d.mem.hedgeFailed := by
  obtain ⟨p, ec, fs, k, rfl, -⟩ := h
  exact ⟨rfl, rfl, rfl⟩

end

theorem find?_del_of_none {α : Type} {m : KMap α} {x : Nat} (h : find? m x = none) (b : Nat) : find? (del m b) x = none := by
  by_cases hx : x = b
  · rw [hx, find?_del_self]
  · rw [find?_del_ne m hx, h]

/-- A write within a word or line without an error stores its bytes. -/
theorem writeUnit_clean {d : Dev} {p : Place} {b : Nat} (hm : isMemory p = true) (hu : unitFailed d p = false)
    (he : find? d.mem.ecc b = none) (a : Nat) (bs : List Byte) (byItem : Bool) :
    ∃ e, writeUnit d p b a bs byItem = (e, none) ∧ Wrote d e a bs := by
  have hd := demand_clean hm ((eccAt_of_live hu b).trans he)
  unfold writeUnit
  simp only [hm, hu, hd, Bool.not_true, Bool.false_eq_true, if_false]
  split
  · refine ⟨_, rfl, ?_⟩
    rw [shadowNote_eq, touch_eq]
    exact ⟨_, _, _, _, rfl, fun x hx => find?_del_of_none hx b⟩
  · refine ⟨_, rfl, ?_⟩
    rw [shadowNote_eq, touch_eq]
    exact ⟨_, _, _, _, rfl, fun x hx => hx⟩

/-- The bytes [a, a+n) lie in memories in service, in no compressed region, and no word or line up to their end carries an error. -/
def cleanRange (d : Dev) (a n : Nat) : Prop :=
  (∀ x, a ≤ x → x < a + n → isMemory (place d x) = true ∧ unitFailed d (place d x) = false) ∧
  (∀ x, a / 64 * 64 ≤ x → x < a + n → find? d.mem.ecc x = none) ∧ ∀ x, a ≤ x → x < a + n → cmpRegion d x = none

theorem cleanRange_drop {d : Dev} {a n k : Nat} (h : cleanRange d a n) (hk : k ≤ n) : cleanRange d (a + k) (n - k) := by
  obtain ⟨hp, he, hc⟩ := h
  exact ⟨fun x h1 h2 => hp x (by omega) (by omega), fun x h1 h2 => he x (by omega) (by omega), fun x h1 h2 => hc x (by omega) (by omega)⟩

theorem Wrote.cleanRange {d e : Dev} {a x n : Nat} {bs : List Byte} (h : Wrote d e a bs) (hc : cleanRange d x n) : cleanRange e x n := by
  obtain ⟨hp, hn, hg⟩ := hc
  obtain ⟨hddr, hstack, hhedge⟩ := h.units
  refine ⟨fun y h1 h2 => ?_, fun y h1 h2 => h.find?_ecc (hn y h1 h2), fun y h1 h2 => ?_⟩
  · rw [place_congr h.rd hddr, unitFailed_congr h.rd hstack hhedge]
    exact hp y h1 h2
  · rw [cmpRegion_congr h.rd]
    exact hg y h1 h2

/-- The first address of the word or line of a byte lies in the byte's 64-byte line, at most at the byte, and the next past it. -/
theorem grain_bounds (p : Place) (a : Nat) : a / 64 * 64 ≤ a / grain p * grain p ∧ a / grain p * grain p ≤ a ∧ a < a / grain p * grain p + grain p := by
  cases p <;> simp only [grain] <;> omega

theorem memWrite_clean (byItem : Bool) (fuel : Nat) {d : Dev} {a : Nat} {bs : List Byte} (hc : cleanRange d a bs.length)
    (hf : bs.length ≤ fuel) : ∃ e, memWrite d byItem fuel a bs = (e, none) ∧ Wrote d e a bs := by
  induction fuel generalizing d a bs with
  | zero =>
    obtain rfl := List.eq_nil_of_length_eq_zero (Nat.le_zero.1 hf)
    exact ⟨d, rfl, .nil d a⟩
  | succ fuel ih =>
    rw [memWrite]
    by_cases hn : bs = []
    · subst hn
      exact ⟨d, rfl, .nil d a⟩
    · have hpos := List.length_pos_iff.2 hn
      obtain ⟨hlo, hle, hhi⟩ := grain_bounds (place d a) a
      obtain ⟨hm, hu⟩ := hc.1 a le_rfl (by omega)
      rw [if_neg (by simpa using hn)]
      simp only [hc.2.2 a le_rfl (by omega)]
      obtain ⟨k, hk⟩ : ∃ k, k = min bs.length (a / grain (place d a) * grain (place d a) + grain (place d a) - a) := ⟨_, rfl⟩
      rw [← hk]
      have hlen : (bs.take k).length = k := by rw [List.length_take]; omega
      obtain ⟨e, he, hw⟩ := writeUnit_clean hm hu (hc.2.1 _ hlo (by omega)) a (bs.take k) byItem
      obtain ⟨e', he', hw'⟩ := ih (bs := bs.drop k) (a := a + k) (d := e)
        (by rw [List.length_drop]; exact hw.cleanRange (cleanRange_drop hc (by omega))) (by rw [List.length_drop]; omega)
      rw [he, he']
      refine ⟨e', rfl, ?_⟩
      rw [← List.take_append_drop k bs]
      exact hw.append (hlen.symm ▸ hw')

/-- Settles O9: a write of clean words and lines stores its bytes and no others. -/
theorem memoryWriteRead : Obligations.MemoryWriteRead := by
  intro d a bs byItem hp he hc
  obtain ⟨e, hw, hst⟩ := memWrite_clean byItem bs.length (d := d) (a := a) ⟨hp, he, hc⟩ le_rfl
  rw [hw]
  exact ⟨rfl, (hst.getBytes a _).trans (getBytes_setBytes d a bs), fun x hx => (hst.getBytes x 1).trans (getBytes_setBytes_out d a x bs hx)⟩

end Sys2Proof.Machine
end

section
/-!
Scrub and patrol (R182 to R184, R192, R193), and O36.
-/
namespace Sys2Proof.Machine

/-! ### What scrub and patrol keep -/

/-- The DDR5 capacities, and how far scrub and patrol have come: what no error changes. -/
def patrolState (d : Dev) : KMap Nat × KMap Nat × KMap Nat × KMap Nat := (d.mem.ddrGib, d.mem.spScrub, d.mem.hbmPatrol, d.mem.ddrPatrol)

theorem patrolState_foldl {α : Type} {g : Dev → α → Dev} (h : ∀ d x, patrolState (g d x) = patrolState d) (l : List α) (d : Dev) :
    patrolState (l.foldl g d) = patrolState d := by
  induction l generalizing d with
  | nil => rfl
  | cons x t ih => exact (ih (g d x)).trans (h d x)

section
variable (d : Dev)

@[simp] theorem patrolState_setEcc (b : Nat) (e : Option Ecc) : patrolState (setEcc d b e) = patrolState d := by
  unfold patrolState setEcc
  simp only [onMem_mem]
  split <;> rfl

@[simp] theorem patrolState_setBytes (a : Nat) (bs : List Byte) : patrolState (setBytes d a bs) = patrolState d := rfl

@[simp] theorem patrolState_onBank (t b : Nat) (f : BankStat → BankStat) : patrolState (onBank d t b f) = patrolState d := rfl

@[simp] theorem patrolState_ceStep (k n : Nat) : patrolState (ceStep d k n).1 = patrolState d := rfl

@[simp] theorem patrolState_memEvent (p : Place) (c a n : Nat) : patrolState (memEvent d p c a n) = patrolState d := rfl

@[simp] theorem patrolState_bump (f : Fld) (i n : Nat) : patrolState (bump d f i n) = patrolState d := by simp only [patrolState, bump, wr_mem]

@[simp] theorem patrolState_wake (m : Domain) : patrolState (wake d m) = patrolState d := by
  rw [wake_eq]
  rfl

@[simp] theorem patrolState_countCe (p : Place) (a : Nat) : patrolState (countCe d p a) = patrolState d := by
  cases p with
  | hbm s => simp only [countCe]; split <;> simp
  | ddr c => simp only [countCe]; split <;> simp
  | scratch t o => simp only [countCe]; split <;> simp
  | control o => rfl
  | hole => rfl

@[simp] theorem patrolState_countUe (p : Place) : patrolState (countUe d p) = patrolState d := by
  cases p <;> simp [countUe]

theorem patrolState_poisonChunks (n : Nat) : patrolState (poisonChunks d n) = patrolState d := by
  refine patrolState_foldl (fun d j => ?_) _ d
  split
  · rfl
  · exact patrolState_foldl (fun d l => patrolState_setEcc d _ _) _ d

@[simp] theorem patrolState_metaLoss (p : Place) (l : Nat) : patrolState (metaLoss d p l) = patrolState d := by
  unfold metaLoss
  split
  · rfl
  · exact (patrolState_memEvent _ _ _ _ _).trans (patrolState_poisonChunks d _)

@[simp] theorem patrolState_poison (p : Place) (b : Nat) (e : Option Nat) : patrolState (poison d p b e) = patrolState d := by
  cases e <;> simp [poison]

@[simp] theorem patrolState_scrubUnit (b : Nat) (c : Option Nat) : patrolState (scrubUnit d b c) = patrolState d := by
  unfold scrubUnit
  dsimp only
  split
  · rfl
  · split
    · simp
    · split <;> simp
    · rfl

theorem patrolState_beyondCode (b g : Nat) : patrolState (beyondCode d b g) = patrolState d := by
  unfold beyondCode
  dsimp only
  split
  · exact patrolState_setEcc _ b _
  · exact patrolState_setEcc (choose d 2).2 b none

theorem patrolState_strikeSram (g : Nat) : patrolState (strikeSram d g) = patrolState d := by
  unfold strikeSram
  split <;> rfl

theorem patrolState_strikeOne (u : Upset) : patrolState (strikeOne d u) = patrolState d := by
  unfold strikeOne
  dsimp only
  split
  · exact patrolState_strikeSram d _
  split
  · rfl
  split
  · exact patrolState_setEcc _ _ _
  · exact patrolState_setEcc _ _ _
  · exact patrolState_setEcc _ _ _
  · exact patrolState_beyondCode _ _ _

@[simp] theorem patrolState_strike (l : List Upset) : patrolState (strike d l) = patrolState d := patrolState_foldl patrolState_strikeOne l d

end

section
variable {d e : Dev} (h : patrolState e = patrolState d)
include h

theorem ddrGib_congr : e.mem.ddrGib = d.mem.ddrGib := congrArg (·.1) h

theorem channelLines_congr (c : Nat) : channelLines e c = channelLines d c := by rw [channelLines, ddrGib_congr h, channelLines]

theorem channelAddr_congr (c o : Nat) : channelAddr e c o = channelAddr d c o := by
  unfold channelAddr usedChannels
  rw [ddrGib_congr h]

theorem ddrLines_congr (q : Nat) : ddrLines e q = ddrLines d q := by
  rw [ddrLines, channelLines_congr h, channelLines_congr h, ddrLines]

theorem ddrLine_congr (q j : Nat) : ddrLine e q j = ddrLine d q j := by
  simp only [ddrLine, channelLines_congr h, channelAddr_congr h]

theorem spScrub_congr : e.mem.spScrub = d.mem.spScrub := congrArg (·.2.1) h

theorem hbmPatrol_congr : e.mem.hbmPatrol = d.mem.hbmPatrol := congrArg (·.2.2.1) h

theorem ddrPatrol_congr : e.mem.ddrPatrol = d.mem.ddrPatrol := congrArg (·.2.2.2) h

end

/-! ### One visit -/

section
variable {d : Dev} {a : Nat} (c : Option Nat)

theorem scrubUnit_none (he : find? d.mem.ecc a = none) : scrubUnit d a c = d := by
  unfold scrubUnit
  dsimp only
  rw [he]
  exact ite_self d

variable (hu : unitFailed d (place d a) = false)
include hu

theorem scrubUnit_corrected (he : find? d.mem.ecc a = some .corrected) : scrubUnit d a c = countCe (setEcc d a none) (place d a) a := by
  simp [scrubUnit, hu, he]

theorem scrubUnit_token {v : Nat} (he : find? d.mem.ecc a = some .uncorrectable) (ht : tokenAt d a = some v) :
    scrubUnit d a c = countCe (setEcc (setBytes d a (toBytes 8 v)) a none) (place d a) a := by
  simp [scrubUnit, hu, he, ht]

theorem scrubUnit_uncorrectable (he : find? d.mem.ecc a = some .uncorrectable) (ht : tokenAt d a = none) :
    scrubUnit d a c = poison d (place d a) a c := by
  simp [scrubUnit, hu, he, ht]

theorem scrubUnit_poisoned (he : find? d.mem.ecc a = some .poisoned) : scrubUnit d a c = d := by
  simp [scrubUnit, hu, he]

end

/-- Visits of words without an error change nothing. -/
theorem foldl_scrubUnit_none {d : Dev} (he : ∀ x, find? d.mem.ecc x = none) (at_ : Nat → Nat) (c : Option Nat) (l : List Nat) :
    l.foldl (fun d w => scrubUnit d (at_ w) c) d = d := by
  induction l with
  | nil => rfl
  | cons w t ih => rw [List.foldl_cons, scrubUnit_none c (he _), ih]

/-! ### The commands -/

/-- The state a patrol of a die visits its line in: the die awake, after the errors found. -/
def patrolled (d : Dev) (q : Nat) (up : List Upset) : Dev := strike (wake d (.hedge q)) up

theorem patrolState_patrolled (d : Dev) (q : Nat) (up : List Upset) : patrolState (patrolled d q up) = patrolState d := by simp [patrolled]

theorem hbmLine_patrolled (d : Dev) (q r : Nat) (up : List Upset) (j : Nat) : hbmLine (patrolled d q up) r j = hbmLine d r j := by
  have hr : rd (patrolled d q up) .memoryHbmCfgInterleave = rd d .memoryHbmCfgInterleave :=
    ((memOnly_strike up _).regs _ 0 (by decide)).trans (rd_wake d _ _ 0)
  simp only [hbmLine, hr]

theorem spScrubEffect_eq (d : Dev) (t b : Nat) (up : List Upset) : spScrubEffect d t b up =
    onMem ((List.range 8).foldl (fun e w => scrubUnit e (bankLine t b (getD d.mem.spScrub (t * 64 + b) 0) + 8 * w) none) (strike d up))
      fun m => { m with spScrub := putD m.spScrub (t * 64 + b) ((getD d.mem.spScrub (t * 64 + b) 0 + 1) % 384) 0 } := by
  unfold spScrubEffect
  simp only [spScrub_congr (patrolState_strike d up)]
  rfl

theorem hbmPatrolEffect_eq (d : Dev) (q : Nat) (up : List Upset) : hbmPatrolEffect d q up =
    onMem (scrubUnit (patrolled d q up) (hbmLine d q (getD d.mem.hbmPatrol q 0)) (some 0x67)) fun m =>
      { m with hbmPatrol := putD m.hbmPatrol q ((getD d.mem.hbmPatrol q 0 + 1) % (0x3000000000 / 64)) 0 } := by
  rw [← hbmPatrol_congr (patrolState_patrolled d q up), ← hbmLine_patrolled d q q up]
  rfl

theorem ddrPatrolEffect_eq (d : Dev) (q : Nat) (up : List Upset) : ddrPatrolEffect d q up =
    onMem (scrubUnit (patrolled d q up) (ddrLine d q (getD d.mem.ddrPatrol q 0)) (some 0x67)) fun m =>
      { m with ddrPatrol := putD m.ddrPatrol q ((getD d.mem.ddrPatrol q 0 + 1) % ddrLines d q) 0 } := by
  have hp := patrolState_patrolled d q up
  rw [← ddrPatrol_congr hp, ← ddrLine_congr hp, ← ddrLines_congr ((patrolState_scrubUnit (patrolled d q up) _ _).trans hp)]
  rfl

section
variable {s : State} {q : Nat} (up : List Upset) (hr : rd s.dev .bootStatusStage 0 = 8) (hq : q < 4)
  (hf : s.dev.mem.hedgeFailed.contains q = false)
include hr hq hf

theorem answers_hbmPatrol (hh : rd s.dev .memoryScrubCfgHbmHours 0 ≠ 0) : Answers (.hbmPatrol q up) s (hbmPatrolEffect s.dev q up) :=
  answers_act (n := "HBM_PATROL") rfl (by rw [execHbmPatrol.inRunMem, hr, hf]; simp [hq, hh])

theorem answers_ddrPatrol (hh : rd s.dev .memoryScrubCfgDdrHours 0 ≠ 0) (hl : 0 < ddrLines s.dev q) :
    Answers (.ddrPatrol q up) s (ddrPatrolEffect s.dev q up) :=
  answers_act (n := "DDR_PATROL") rfl (by rw [hr, hf]; simp [hq, hh, hl])

end

theorem answers_scratchpadScrub {s : State} {t b : Nat} (up : List Upset) (ht : t < tiles) (hb : b < 64) (hd : domState s.dev (.tile t) = 0) :
    Answers (.scratchpadScrub t b up) s (spScrubEffect s.dev t b up) :=
  answers_act (n := "SCRATCHPAD_SCRUB") rfl (by simp [ht, hb, hd])

/-- Settles O36: each command by its visit, and the visit by the error state it meets. -/
theorem scrubAndPatrol : Obligations.ScrubAndPatrol := by
  refine ⟨fun s t b up ht hb hd => ⟨_, answers_scratchpadScrub up ht hb hd, spScrubEffect_eq s.dev t b up, ?_⟩,
    fun s q up hr hq hf => ⟨fun hh => ⟨_, answers_hbmPatrol up hr hq hf hh, hbmPatrolEffect_eq s.dev q up⟩,
      fun hh hl => ⟨_, answers_ddrPatrol up hr hq hf hh hl, ddrPatrolEffect_eq s.dev q up⟩⟩,
    fun d a c hu => ⟨scrubUnit_none c, scrubUnit_corrected c hu, scrubUnit_uncorrectable c hu, fun v => scrubUnit_token c hu,
      scrubUnit_poisoned c hu⟩⟩
  rintro rfl he
  rw [spScrubEffect_eq, strike, List.foldl_nil, foldl_scrubUnit_none he]
  exact ⟨rfl, fun _ => rfl⟩

end Sys2Proof.Machine
end

section
/-!
Requests of the mesh: what refuses them, how they are answered, READ and WRITE (R171, R271 to R279, R440, R507), and O34.
-/
namespace Sys2Proof.Machine

/-! ### Setting out (R272, R484) -/

theorem inject_eq (d : Dev) (x : Nat) : inject d x = { d with pwr := (inject d x).pwr } := by
  unfold inject
  dsimp only
  split
  · rw [wake_eq, wake_eq d]
  · rw [wake_eq, wake_eq d]
  · rw [wake_eq]

theorem pickGroup_eq (d : Dev) (a : MeshAns) : (pickGroup d a).1 = { d with free := (pickGroup d a).1.free } := by
  unfold pickGroup
  split
  · split
    · rfl
    · dsimp only
      split <;> rfl
  · rfl

/-- An answer that sets out is on its way; beside this only wakes and free values change. -/
theorem sendAnswer_sent (d : Dev) (a : MeshAns) : ∃ p n g, sendAnswer d a = { d with
    pwr := p, free := n, mesh := { d.mesh with flight := d.mesh.flight ++ [{ a with left := answerFlits a, group := g }] } } := by
  unfold sendAnswer
  dsimp only
  rw [inject_eq, pickGroup_eq]
  exact ⟨_, _, _, rfl⟩

section
variable (d : Dev) (f : Flit) (k : AnsKind) (cause : Nat) (bs : List Byte)

theorem startTxn_eq : startTxn d f =
    { d with pwr := (startTxn d f).pwr, mesh := { d.mesh with waiting := (startTxn d f).mesh.waiting } } := by
  unfold startTxn
  rw [inject_eq]
  rfl

/-- A transaction that has started waits for its answer. -/
theorem mem_waiting_startTxn : (f.src, f.txn) ∈ (startTxn d f).mesh.waiting := by
  simp only [startTxn, onMesh_mesh]
  split
  · rename_i h
    exact List.contains_iff_mem.1 h
  · simp

/-- An answered request leaves its transaction waiting and one more answer on its way; beside these only wakes and free values
change. -/
theorem answerFlit_sent : ∃ p n a, answerFlit d f k cause bs = { d with
    pwr := p, free := n, mesh := { d.mesh with waiting := (startTxn d f).mesh.waiting, flight := d.mesh.flight ++ [a] } } ∧
    a.src = f.src ∧ a.txn = f.txn ∧ a.kind = k ∧ a.cause = cause ∧ a.bytes = bs := by
  unfold answerFlit
  obtain ⟨p, n, g, h⟩ := sendAnswer_sent (startTxn d f) {
    src := f.src, txn := f.txn, kind := k, who := .flit f.src f.txn, cause := cause, bytes := bs, from_ := f.dest, epoch := f.epoch
    cong := f.cong }
  rw [h, startTxn_eq]
  exact ⟨_, _, _, rfl, rfl, rfl, rfl, rfl, rfl⟩

theorem mem_waiting_answerFlit : (f.src, f.txn) ∈ (answerFlit d f k cause bs).mesh.waiting := by
  obtain ⟨p, n, a, h, -⟩ := answerFlit_sent d f k cause bs
  rw [h]
  exact mem_waiting_startTxn d f

theorem answerFlit_mem : (answerFlit d f k cause bs).mem = d.mem := by
  obtain ⟨p, n, a, h, -⟩ := answerFlit_sent d f k cause bs
  rw [h]

theorem rd_answerFlit (g : Fld) (i : Nat) : rd (answerFlit d f k cause bs) g i = rd d g i := by
  obtain ⟨p, n, a, h, -⟩ := answerFlit_sent d f k cause bs
  rw [h]
  rfl

end

/-! ### Refusals (R274, R279, R440, R507) -/

/-- What may refuse a request, with its cause. -/
def refusedFor (d : Dev) (f : Flit) (c : Nat) : Prop :=
  (c = 0xC3 ∧ routeOf d f.epoch f.src f.dest = .noRoute) ∨ (c = 0xEC ∧ tileAbsent d f.addr = true) ∨
  (c = 0xC7 ∧ tileRefuses d f.part f.addr = true) ∨
  (c = 0x8A ∧ tileRefuses d f.part f.addr = false ∧ sealRefuses d f.part f.addr = true)

/-- A request is refused for a cause it meets, and only counters change; or it is lost or served, and nothing changes. -/
theorem flitRefusal_cases (d : Dev) (f : Flit) :
    (∃ d' c, flitRefusal d f = (d', .refuse c) ∧ refusedFor d f c ∧ d'.mem = d.mem) ∨ flitRefusal d f = (d, .lost) ∨
      flitRefusal d f = (d, .serve) := by
  unfold flitRefusal refusedFor
  split
  · rename_i hr
    exact .inl ⟨_, _, rfl, .inl ⟨rfl, hr⟩, rfl⟩
  · exact .inr (.inl rfl)
  split
  · rename_i ha
    exact .inl ⟨_, _, rfl, .inr (.inl ⟨rfl, ha⟩), rfl⟩
  split
  · exact .inr (.inr rfl)
  split
  · rename_i ht
    exact .inl ⟨_, _, rfl, .inr (.inr (.inl ⟨rfl, ht⟩)), wr_mem ..⟩
  rename_i ht
  split
  · rename_i hs
    exact .inl ⟨_, _, rfl, .inr (.inr (.inr ⟨rfl, Bool.eq_false_of_not_eq_true ht, hs⟩)), wr_mem ..⟩
  · exact .inr (.inr rfl)

section
variable {d : Dev} {f : Flit} {c : Nat}

theorem refusedFor_of_refuse (h : (flitRefusal d f).2 = .refuse c) : refusedFor d f c ∧ (flitRefusal d f).1.mem = d.mem := by
  rcases flitRefusal_cases d f with ⟨d', c', hr, hw, hm⟩ | hr | hr <;> rw [hr] at h ⊢ <;> cases h
  exact ⟨hw, hm⟩

theorem flitRefusal_of_lost (h : (flitRefusal d f).2 = .lost) : flitRefusal d f = (d, .lost) := by
  rcases flitRefusal_cases d f with ⟨d', c', hr, -⟩ | hr | hr
  · rw [hr] at h; cases h
  · exact hr
  · rw [hr] at h; cases h

theorem flitRefusal_of_serve (h : (flitRefusal d f).2 = .serve) : flitRefusal d f = (d, .serve) := by
  rcases flitRefusal_cases d f with ⟨d', c', hr, -⟩ | hr | hr
  · rw [hr] at h; cases h
  · rw [hr] at h; cases h
  · exact hr

variable {k : Dev → Dev}

/-- A refused request is answered with its cause and touches no byte. -/
theorem serveFlit_refused (h : (flitRefusal d f).2 = .refuse c) :
    serveFlit d f k = answerFlit (flitRefusal d f).1 f .error c [] ∧ (serveFlit d f k).mem = d.mem := by
  have hs : serveFlit d f k = answerFlit (flitRefusal d f).1 f .error c [] := by
    have hp : flitRefusal d f = ((flitRefusal d f).1, .refuse c) := Prod.ext rfl h
    unfold serveFlit
    rw [hp]
  exact ⟨hs, by rw [hs, answerFlit_mem, (refusedFor_of_refuse h).2]⟩

theorem serveFlit_lost (h : (flitRefusal d f).2 = .lost) : serveFlit d f k = startTxn d f := by
  unfold serveFlit
  rw [flitRefusal_of_lost h]

theorem serveFlit_served (h : (flitRefusal d f).2 = .serve) : serveFlit d f k = k d := by
  unfold serveFlit
  rw [flitRefusal_of_serve h]

/-- Whatever becomes of a request, its source waits for the answer. -/
theorem mem_waiting_serveFlit (hk : (f.src, f.txn) ∈ (k d).mesh.waiting) : (f.src, f.txn) ∈ (serveFlit d f k).mesh.waiting := by
  rcases flitRefusal_cases d f with ⟨d', c, hr, -⟩ | hr | hr <;> unfold serveFlit <;> rw [hr]
  · exact mem_waiting_answerFlit d' f .error c []
  · exact mem_waiting_startTxn d f
  · exact hk

/-! ### READ (R172, R273) -/

/-- A READ that is served answers what a demand read finds. -/
theorem flitReadEffect_served (up : List Upset) (h : (flitRefusal d f).2 = .serve) : flitReadEffect d f up =
    answerFlit (memRead (strike d up) f.addr (readBytes f)).1 f .readData ((memRead (strike d up) f.addr (readBytes f)).2.1.getD 0)
      (memRead (strike d up) f.addr (readBytes f)).2.2 := by
  unfold flitReadEffect
  rw [serveFlit_served h]
  split <;> rename_i hr <;> rw [hr] <;> rfl

theorem answers_flitRead {s : State} (up : List Upset) (hr : inRun s.dev = true) (hm : mayStart s.dev f = true) (ho : flitOk s.dev f 0 = true)
    (hl : f.last = true) (h1 : 1 ≤ readBytes f) (h2 : readBytes f ≤ 4096) (hh : touchesHole s.dev f.addr (readBytes f) = false) :
    Answers (.flitRead f up) s (flitReadEffect s.dev f up) :=
  answers_act (n := "FLIT_READ") rfl (by simp [hr, hm, ho, hl, h1, h2, hh])

/-! ### WRITE (R176, R273) -/

/-- What the target of a WRITE makes of its flits: the state, and the cause of the first part that is discarded. -/
def flitWritten (d : Dev) (f : Flit) (fs : List Flit) (up : List Upset) (lost : List Nat) : Dev × Option Nat :=
  (flitRuns (f :: fs)).foldl
    (fun r x => ((applyRun r.1 (flitWriter d f) (lostWords d lost) x).1,
      r.2.orElse fun _ => (applyRun r.1 (flitWriter d f) (lostWords d lost) x).2))
    ((lostWords d lost).foldl (fun e a => collide e (flitWriter d f) f.src a) (strike d up), none)

section
variable {fs : List Flit} {up : List Upset} {lost : List Nat} (h : (flitRefusal d f).2 = .serve)
include h

/-- A WRITE that is served acknowledges, or answers the cause of its first part that was discarded. -/
theorem flitWriteEffect_served :
    ((flitWritten d f fs up lost).2 = none → flitWriteEffect d (f :: fs) up lost = answerFlit (flitWritten d f fs up lost).1 f .writeAck 0 []) ∧
    ∀ c, (flitWritten d f fs up lost).2 = some c →
      flitWriteEffect d (f :: fs) up lost = answerFlit (flitWritten d f fs up lost).1 f .error c [] := by
  unfold flitWriteEffect
  dsimp only
  rw [serveFlit_served h]
  split
  · rename_i d' c' heq
    have hw : flitWritten d f fs up lost = (d', some c') := heq
    rw [hw]
    exact ⟨fun hn => (nomatch hn), fun c hc => by cases hc; rfl⟩
  · rename_i d' heq
    have hw : flitWritten d f fs up lost = (d', none) := heq
    rw [hw]
    exact ⟨fun _ => rfl, fun c hc => nomatch hc⟩

end

/-- One flit without lost words makes one write of its bytes. -/
theorem flitWritten_single (up : List Upset) (hp : f.poison = false) : flitWritten d f [] up [] =
    memWrite (strike d up) (flitWriter d f).uid.isSome (writePart f).2.length (writePart f).1 (writePart f).2 := by
  have hl : lostWords d [] = [] := rfl
  have hr : flitRuns [f] = [(false, writePart f)] := by rw [flitRuns, hp]; rfl
  unfold flitWritten
  rw [hl, hr]
  rfl

theorem answers_flitWrite {s : State} {fs : List Flit} (up : List Upset) (lost : List Nat) (hr : inRun s.dev = true)
    (hw : writeOk s.dev fs = true) : Answers (.flitWrite fs up lost) s (flitWriteEffect s.dev fs up lost) :=
  answers_act (n := "FLIT_WRITE") rfl (by rw [hr, hw]; rfl)

end

/-- Settles O34: each request by what meets it on its way, and one that is served by what its target does. -/
theorem flitReadWrite : Obligations.FlitReadWrite := by
  refine ⟨fun s f up hr hm ho hl h1 h2 hh => ⟨_, answers_flitRead up hr hm ho hl h1 h2 hh, fun c => serveFlit_refused, serveFlit_lost,
      flitReadEffect_served up⟩,
    fun s f fs up lost hr hw => ⟨_, answers_flitWrite up lost hr hw, fun c => serveFlit_refused, serveFlit_lost, fun hs => ?_⟩,
    fun d f c h => (refusedFor_of_refuse h).1⟩
  obtain ⟨hack, herr⟩ := flitWriteEffect_served (fs := fs) (up := up) (lost := lost) hs
  refine ⟨hack, herr, ?_⟩
  rintro rfl rfl hp
  exact flitWritten_single up hp

end Sys2Proof.Machine
end

section
/-!
Atomics of the mesh (R179, R271 to R274, R279, R282), and O33.
-/
namespace Sys2Proof.Machine

/-! ### An atomic in a memory without errors (R179) -/

/-- Bytes that touch no hole begin in a memory. -/
theorem isMemory_of_touchesHole {d : Dev} {a n : Nat} (h : touchesHole d a n = false) (hn : 0 < n) : isMemory (place d a) = true := by
  have h0 := List.any_eq_false.1 h 0 (by simp)
  have ha : min (a + 64 * 0) (a + n - 1) = a := by omega
  simpa only [ha, Bool.not_eq_true', Bool.not_eq_false] using h0

theorem notifyToken_eq (d : Dev) (a old v : Nat) : notifyToken d a old v = { d with
    pwr := (notifyToken d a old v).pwr, disp := { d.disp with notifies := (notifyToken d a old v).disp.notifies } } := by
  unfold notifyToken
  split
  · rw [wake_eq]
    rfl
  · rfl

/-- A word stored for an atomic: beside its bytes only wakes, the token shadow and notifications change. -/
theorem notifyToken_stored (d : Dev) (q : Place) (a old v : Nat) (bs : List Byte) : ∃ p k n,
    notifyToken (shadowNote (setBytes (touch_ d q) a bs) a) a old v =
      { setBytes d a bs with pwr := p, disp := { d.disp with tokens := k, notifies := n } } := by
  rw [notifyToken_eq]
  generalize (notifyToken _ a old v).pwr = p
  generalize (notifyToken _ a old v).disp.notifies = n
  rw [shadowNote_eq]
  generalize (shadowNote _ a).disp.tokens = k
  rw [touch_eq]
  exact ⟨p, k, n, rfl⟩

theorem atomicNote_none {d : Dev} {a : Nat} (h : cmpRegion d a = none) : atomicNote d a = d := by
  unfold atomicNote
  rw [h]

/-- An atomic of a word without an error stores the word its code says and gives the old one; no register and nothing of the mesh changes. -/
theorem memAtomic_clean {d : Dev} {a : Nat} (hm : isMemory (place d a) = true) (hu : unitFailed d (place d a) = false)
    (he : find? d.mem.ecc (a / grain (place d a) * grain (place d a)) = none) (hc : cmpRegion d a = none) (code x y : Nat) :
    ∃ e, memAtomic d code a x y = (e, none, fromBytes (getBytes d a 8)) ∧
      e.mem = (setBytes d a (toBytes 8 (atomicWord code (fromBytes (getBytes d a 8)) (x % 2 ^ 64) (y % 2 ^ 64)))).mem ∧
      (∀ f i, rd e f i = rd d f i) ∧ e.mesh = d.mesh := by
  have hr : atomicRead d (place d a) a = (touch_ d (place d a), none) := by
    unfold atomicRead
    rw [hc]
    exact demand_clean hm ((eccAt_of_live hu _).trans he)
  have hold : getBytes (touch_ d (place d a)) a 8 = getBytes d a 8 := by rw [touch_eq]; rfl
  unfold memAtomic
  rw [hr]
  dsimp only
  rw [hold]
  generalize fromBytes (getBytes d a 8) = old
  generalize atomicWord code old _ _ = v
  obtain ⟨p, k, n, hs⟩ := notifyToken_stored d (place d a) a old v (toBytes 8 v)
  generalize notifyToken _ a old v = e at hs ⊢
  have hrd : ∀ f i, rd e f i = rd d f i := fun f i => by rw [hs]; rfl
  rw [atomicNote_none ((cmpRegion_congr hrd a).trans hc)]
  exact ⟨e, rfl, by rw [hs], hrd, by rw [hs]; rfl⟩

/-! ### The transaction -/

section
variable {d : Dev} {f : Flit}

theorem mem_waiting_atomicEffect (d : Dev) (f : Flit) : (f.src, f.txn) ∈ (atomicEffect d f).mesh.waiting := by
  refine mem_waiting_serveFlit ?_
  split
  · exact mem_waiting_answerFlit d f .error 0x60 []
  · split
    · exact mem_waiting_answerFlit _ f .error _ []
    · exact mem_waiting_answerFlit _ f .atomicResult 0 _

/-- An atomic with a poisoned operand is not performed. -/
theorem atomicEffect_poisoned (h : (flitRefusal d f).2 = .serve) (hp : f.poison = true) : atomicEffect d f = answerFlit d f .error 0x60 [] := by
  unfold atomicEffect
  rw [serveFlit_served h, if_pos hp]

theorem atomicEffect_performed {d' : Dev} {old : Nat} (h : (flitRefusal d f).2 = .serve) (hp : f.poison = false)
    (ha : memAtomic d f.atomic f.addr (cut f.payload 0 64) (cut f.payload 64 64) = (d', none, old)) :
    atomicEffect d f = answerFlit d' f .atomicResult 0 (toBytes 8 (if f.atomic = 0 then 0 else old)) := by
  unfold atomicEffect
  rw [serveFlit_served h, hp, ha]
  rfl

/-- The word an atomic's flit leaves where its address holds `old`. -/
def flitAtomicWord (f : Flit) (old : Nat) : Nat := atomicWord f.atomic old (cut f.payload 0 64) (cut f.payload 64 64)

/-- An atomic that is served on a word without an error stores its word, changes no register, and answers the old word, zero for ADD. -/
theorem atomicEffect_clean (h : (flitRefusal d f).2 = .serve) (hp : f.poison = false) (hm : isMemory (place d f.addr) = true)
    (hu : unitFailed d (place d f.addr) = false) (he : find? d.mem.ecc (f.addr / grain (place d f.addr) * grain (place d f.addr)) = none)
    (hc : cmpRegion d f.addr = none) :
    (atomicEffect d f).mem = (setBytes d f.addr (toBytes 8 (flitAtomicWord f (fromBytes (getBytes d f.addr 8))))).mem ∧
    (∀ g i, rd (atomicEffect d f) g i = rd d g i) ∧
    ∃ a, (atomicEffect d f).mesh.flight = d.mesh.flight ++ [a] ∧ a.src = f.src ∧ a.txn = f.txn ∧ a.kind = .atomicResult ∧ a.cause = 0 ∧
      a.bytes = toBytes 8 (if f.atomic = 0 then 0 else fromBytes (getBytes d f.addr 8)) := by
  obtain ⟨d', ha, hmem, hrd, hmesh⟩ := memAtomic_clean hm hu he hc f.atomic (cut f.payload 0 64) (cut f.payload 64 64)
  have hcut : ∀ lo, cut f.payload lo 64 % 2 ^ 64 = cut f.payload lo 64 := fun lo => Nat.mod_mod _ _
  rw [hcut, hcut] at hmem
  rw [atomicEffect_performed h hp ha]
  obtain ⟨p, n, a, hsent, hans⟩ := answerFlit_sent d' f .atomicResult 0 (toBytes 8 (if f.atomic = 0 then 0 else fromBytes (getBytes d f.addr 8)))
  exact ⟨(answerFlit_mem ..).trans hmem, fun g i => (rd_answerFlit ..).trans (hrd g i), a, by rw [hsent, hmesh], hans⟩

end

/-- Each code of an atomic has a command, and its rule is the word it leaves. -/
theorem atomic_of_mem {k : Nat} {c : Flit → Instr} {op : Nat → Nat → Nat → Nat}
    (h : (k, c, op) ∈ [(0, Instr.atomicAdd, fun o a _ => (o + a) % 2 ^ 64), (1, .atomicFetchAdd, fun o a _ => (o + a) % 2 ^ 64),
      (2, .atomicSwap, fun _ a _ => a), (3, .atomicCas, fun o a b => if o = b then a else o), (4, .atomicUmax, fun o a _ => max o a),
      (5, .atomicUmin, fun o a _ => min o a), (6, .atomicAnd, fun o a _ => o &&& a), (7, .atomicOr, fun o a _ => o ||| a)]) :
    (∀ s f, ∃ n, exec (c f) s = act s n (atomicOk s.dev f k) (atomicEffect s.dev f)) ∧ op = atomicWord k := by
  simp only [List.mem_cons, List.not_mem_nil, or_false, Prod.mk.injEq] at h
  rcases h with ⟨rfl, rfl, rfl⟩ | ⟨rfl, rfl, rfl⟩ | ⟨rfl, rfl, rfl⟩ | ⟨rfl, rfl, rfl⟩ | ⟨rfl, rfl, rfl⟩ | ⟨rfl, rfl, rfl⟩ | ⟨rfl, rfl, rfl⟩ |
    ⟨rfl, rfl, rfl⟩
  · exact ⟨fun _ _ => ⟨"ATOMIC_ADD", rfl⟩, rfl⟩
  · exact ⟨fun _ _ => ⟨"ATOMIC_FETCH_ADD", rfl⟩, rfl⟩
  · exact ⟨fun _ _ => ⟨"ATOMIC_SWAP", rfl⟩, rfl⟩
  · exact ⟨fun _ _ => ⟨"ATOMIC_CAS", rfl⟩, rfl⟩
  · exact ⟨fun _ _ => ⟨"ATOMIC_UMAX", rfl⟩, rfl⟩
  · exact ⟨fun _ _ => ⟨"ATOMIC_UMIN", rfl⟩, rfl⟩
  · exact ⟨fun _ _ => ⟨"ATOMIC_AND", rfl⟩, rfl⟩
  · exact ⟨fun _ _ => ⟨"ATOMIC_OR", rfl⟩, rfl⟩

theorem atomicOk_spec {d : Dev} {f : Flit} {k : Nat} (h : atomicOk d f k = true) : f.atomic = k ∧ touchesHole d f.addr 8 = false := by
  simp only [atomicOk, Bool.and_eq_true, beq_iff_eq, Bool.not_eq_true'] at h
  obtain ⟨⟨⟨-, hk⟩, -⟩, hh⟩ := h
  exact ⟨hk, hh⟩

/-- Settles O33: the request by what meets it, the word by the atomic's code. -/
theorem atomics : Obligations.Atomics := by
  intro s f k c op hmem hok old
  obtain ⟨hexec, rfl⟩ := atomic_of_mem hmem
  obtain ⟨n, hc⟩ := hexec s f
  obtain ⟨rfl, hh⟩ := atomicOk_spec hok
  refine ⟨_, answers_act hc hok, mem_waiting_atomicEffect _ _, fun x => serveFlit_refused, serveFlit_lost, fun hs hp => ?_,
    fun hs hp he hcmp hu => ?_⟩
  · rw [atomicEffect_poisoned hs hp]
    exact ⟨rfl, answerFlit_mem ..⟩
  · obtain ⟨hw, hrd, hans⟩ := atomicEffect_clean hs hp (isMemory_of_touchesHole hh (by decide)) (hu f.addr) (he _) (hcmp f.addr)
    refine ⟨?_, fun x hx => ?_, fun g i _ => hrd g i, hans⟩
    · rw [getBytes, hw]
      exact getBytes_setBytes s.dev f.addr _
    · rw [getBytes, hw]
      exact getBytes_setBytes_out s.dev f.addr x _ hx

end Sys2Proof.Machine
end

section
/-!
Commands of the translation command queue (R220 to R227, R559), and O38 and O39.
-/
namespace Sys2Proof.Machine

/-! ### The command at the head of the queue (R223, R224) -/

theorem cmdFront_head {d : Dev} {c : Desc} {op : Nat} (hr : inRun d = true) (hh : d.xl.commands.head? = some c) (ho : cmdOp c = op)
    (hs : op = 1 ∨ op = 2 ∨ d.xl.invals = []) : cmdFront d op = some c := by
  have hmay : (op == 1 || op == 2 || d.xl.invals.isEmpty) = true := by
    simpa [or_assoc] using hs
  simp [cmdFront, hr, hh, ho, hmay]

theorem resumeFront_head {d : Dev} {c : Desc} {abort : Bool} (hf : cmdFront d 3 = some c) (ha : cmdAction c = 1 ↔ abort = true) :
    resumeFront d abort = some c := by
  have hb : (cmdAction c == 1) = abort := Bool.eq_iff_iff.2 (beq_iff_eq.trans ha)
  simp [resumeFront, hf, hb]

/-- A command that starts where there is one at the head answers with that one run. -/
theorem answers_front {i : Instr} {s : State} {n : String} {front : Option Desc} {c : Desc} {eff : Desc → Dev → Dev}
    (h : exec i s = act s n front.isSome (match front with
      | some c => cmdRun s.dev c (eff c)
      | none => s.dev)) (hf : front = some c) : Answers i s (cmdRun s.dev c (eff c)) := by
  subst hf
  exact answers_act h rfl

/-- The commands of the queue, each with its OP and its effect (R223). -/
def xlateCommands (c : Desc) : List (Instr × Nat × (Dev → Dev)) :=
  [(Instr.invalRange, 1, fun d => invalStart d c false), (.invalPartition, 2, fun d => invalStart d c true),
    (.resumeRetry, 3, resumeEffect c), (.resumeAbort, 3, resumeEffect c), (.sync, 4, fun d => cmdDone d c 0 0)]

theorem answers_xlateCommand {s : State} {c : Desc} {i : Instr} {op : Nat} {eff : Dev → Dev} (hm : (i, op, eff) ∈ xlateCommands c)
    (hr : inRun s.dev = true) (hh : s.dev.xl.commands.head? = some c) (ho : cmdOp c = op) (hi : 3 ≤ op → s.dev.xl.invals = [])
    (ha : op = 3 → (cmdAction c = 1 ↔ i = .resumeAbort)) : Answers i s (cmdRun s.dev c eff) := by
  simp only [xlateCommands, List.mem_cons, List.not_mem_nil, or_false, Prod.mk.injEq] at hm
  rcases hm with ⟨rfl, rfl, rfl⟩ | ⟨rfl, rfl, rfl⟩ | ⟨rfl, rfl, rfl⟩ | ⟨rfl, rfl, rfl⟩ | ⟨rfl, rfl, rfl⟩
  · exact answers_front (eff := fun c d => invalStart d c false) rfl (cmdFront_head hr hh ho (.inl rfl))
  · exact answers_front (eff := fun c d => invalStart d c true) rfl (cmdFront_head hr hh ho (.inr (.inl rfl)))
  · exact answers_front (eff := resumeEffect) rfl
      (resumeFront_head (cmdFront_head hr hh ho (.inr (.inr (hi (by decide))))) ((ha rfl).trans (by simp)))
  · exact answers_front (eff := resumeEffect) rfl
      (resumeFront_head (cmdFront_head hr hh ho (.inr (.inr (hi (by decide))))) ((ha rfl).trans (by simp)))
  · exact answers_front (eff := fun c d => cmdDone d c 0 0) rfl (cmdFront_head hr hh ho (.inr (.inr (hi (by decide)))))

/-! ### Rejected or run (R223) -/

/-- The command at the head has left the queue. -/
def headTaken (d : Dev) : Dev := onXl d fun x => { x with commands := x.commands.drop 1 }

section
variable {d : Dev} {c : Desc} (eff : Dev → Dev)

theorem cmdRun_rejected (h : cmdCause d c ≠ 0) : cmdRun d c eff = settleCmds (cmdDone (headTaken d) c (cmdCause d c) 0) :=
  congrArg settleCmds (if_pos h)

theorem cmdRun_accepted (h : cmdCause d c = 0) : cmdRun d c eff = settleCmds (eff (headTaken d)) :=
  congrArg settleCmds (if_neg (not_not.2 h))

end

section
variable {d : Dev} {c : Desc}

theorem cmdCause_malformed (h : cmdMalformed c = true) : cmdCause d c = 0x10 := if_pos h

variable (h : cmdMalformed c = false)
include h

theorem cmdCause_noTables (ho : cmdOp c ≠ 4) (ht : isSet d .xlatePtBaseEn (cmdPart c) = false) : cmdCause d c = 0x12 := by
  simp [cmdCause, h, ho, ht]

theorem cmdCause_none (ho : cmdOp c = 4 ∨ isSet d .xlatePtBaseEn (cmdPart c) = true) : cmdCause d c = 0 := by
  rcases ho with ho | ho
  · simp [cmdCause, h, ho]
  · simp [cmdCause, h, ho]

end

/-- A command that completes with a cause sends its entry, whatever its CQE. -/
theorem cmdDone_cause {d : Dev} {c : Desc} {x : Nat} (n : Nat) (h : x ≠ 0) : cmdDone d c x n = cmdEntry d c x n :=
  if_pos (by simp [h])

/-- Nothing is settled while the command at the head has an OP of the table. -/
theorem settleCmds_head {d : Dev} (h : ∀ x, d.xl.commands.head? = some x → 1 ≤ cmdOp x ∧ cmdOp x ≤ 4) : settleCmds d = d := by
  unfold settleCmds
  cases hc : d.xl.commands with
  | nil => rfl
  | cons x t =>
    obtain ⟨hlo, hhi⟩ := h x (by rw [hc]; rfl)
    exact if_neg (by omega)

/-! ### Entries (R245) -/

/-- Fields from byte 3 on leave the bytes before it as they are. -/
theorem foldl_fields_mod (fs : List (Nat × Nat)) (h : ∀ f ∈ fs, 3 ≤ f.1) (a : Nat) :
    fs.foldl (fun a f => a + f.2 <<< (8 * f.1)) a % 2 ^ 24 = a % 2 ^ 24 := by
  induction fs generalizing a with
  | nil => rfl
  | cons f t ih =>
    have hdvd : 2 ^ 24 ∣ f.2 <<< (8 * f.1) := by
      rw [Nat.shiftLeft_eq]
      exact Dvd.dvd.mul_left (Nat.pow_dvd_pow 2 (by have := h f (.head _); omega)) _
    rw [List.foldl_cons, ih fun x hx => h x (.tail _ hx)]
    obtain ⟨k, hk⟩ := hdvd
    rw [hk, Nat.add_mul_mod_self_left]

/-- The cause of an entry stands in its byte 2. -/
theorem cut_entryOf_cause (ty part cause source : Nat) {fs : List (Nat × Nat)} (h : ∀ f ∈ fs, 3 ≤ f.1) :
    cut (entryOf ty part cause source fs).toNat 16 8 = cause % 256 := by
  have hm := foldl_fields_mod fs h (ty % 128 * 2 + part % 64 * 2 ^ 8 + cause % 256 * 2 ^ 16 + source % 2 ^ 32 * 2 ^ 32)
  simp only [entryOf, BitVec.toNat_ofNat, cut, Nat.shiftRight_eq_div_pow]
  omega

/-- What a completion with a cause adds to the entries on their way. -/
theorem cmdEntry_posted (d : Dev) (c : Desc) (x n : Nat) : ∃ q : QEntry,
    cmdEntry d c x n = onHl d (fun h => { h with entries := h.entries ++ [q] }) ∧
    q.toEq = false ∧ q.num = d.xl.cmdCq ∧ cut q.entry.toNat 16 8 = x % 256 :=
  ⟨_, rfl, rfl, rfl, cut_entryOf_cause _ _ _ _ (by simp)⟩

/-! ### RESUME (R220, R221) -/

theorem resumeEffect_stale {d : Dev} {c : Desc} (h : find? d.xl.held (cmdSlot c) = none ∨ getD d.xl.slotGen (cmdSlot c) 0 ≠ cmdGen c) :
    resumeEffect c d = cmdDone d c 0x11 0 := by
  unfold resumeEffect
  cases hf : find? d.xl.held (cmdSlot c) with
  | none => rfl
  | some x => exact if_pos (h.resolve_left (by simp [hf]))

section
variable {d : Dev} {c : Desc} {h : HeldXfer} (hf : find? d.xl.held (cmdSlot c) = some h) (hg : getD d.xl.slotGen (cmdSlot c) 0 = cmdGen c)
include hf hg

theorem resumeEffect_retry (ha : cmdAction c = 0) : resumeEffect c d = cmdDone (retryWork (releaseSlot d (cmdSlot c)) h.work) c 0 0 := by
  simp [resumeEffect, hf, hg, ha]

theorem resumeEffect_abort (ha : cmdAction c ≠ 0) : resumeEffect c d = cmdDone (abortWork (releaseSlot d (cmdSlot c)) h.work h.cause) c 0 0 := by
  simp [resumeEffect, hf, hg, ha]

end

/-- Settles O39: a stale RESUME takes its head and sends one entry, and the next command waits for its own turn. -/
theorem staleResume : Obligations.StaleResume := by
  intro s c rest i hi ha hr hc ho hinv hcause hnext hstale
  have hm : (i, 3, resumeEffect c) ∈ xlateCommands c := by
    simp only [List.mem_cons, List.not_mem_nil, or_false] at hi
    rcases hi with rfl | rfl
    · simp [xlateCommands]
    · simp [xlateCommands]
  have hx : (headTaken s.dev).xl = { s.dev.xl with commands := rest } := by
    simp [headTaken, hc]
  have hst : resumeEffect c (headTaken s.dev) = cmdDone (headTaken s.dev) c 0x11 0 := resumeEffect_stale hstale
  obtain ⟨q, hq, hcq, hnum, hbyte⟩ := cmdEntry_posted (headTaken s.dev) c 0x11 0
  have hans := answers_xlateCommand hm hr (by rw [hc]; rfl) ho (fun _ => hinv) fun _ => ha
  rw [cmdRun_accepted _ hcause, hst, cmdDone_cause _ (by decide), hq, settleCmds_head (by rw [onHl_xl, hx]; exact hnext)] at hans
  exact ⟨_, q, hans, hx, rfl, hcq, hnum, hbyte, rfl⟩

end Sys2Proof.Machine
end

section
/-!
The translation command queue itself: what starts, ends and lies in it (R220 to R227, R559), and O38.
-/
namespace Sys2Proof.Machine

/-! ### Invalidations (R226, R227) -/

/-- What an invalidation leaves cached: of its partition only what lies outside its range. -/
theorem mem_tlb_invalStart {d : Dev} {c : Desc} {whole : Bool} {x : TlbEntry} : x ∈ (invalStart d c whole).xl.tlb ↔
    x ∈ d.xl.tlb ∧ (x.part = cmdPart c → whole = false ∧ overlaps x (cmdDva c / 65536) (cmdPages c) = false) := by
  simp [invalStart, imp_iff_not_or]

theorem invalReady_waits {d : Dev} {id : Nat} {v : Inval} (h : invalReady d id = some v) :
    ∀ u ∈ v.waits, ∀ x ∈ d.disp.items, x.uid = u → x.phase ≠ .started := by
  obtain ⟨-, hw⟩ := Option.filter_eq_some_iff.1 h
  intro u hu x hx he hp
  have := List.all_eq_true.1 hw u hu
  simp only [Bool.not_eq_true', List.any_eq_false] at this
  exact this x hx (by simp [he, hp])

theorem answers_invalidationComplete {s : State} {id : Nat} {v : Inval} (hr : inRun s.dev = true) (h : invalReady s.dev id = some v) :
    Answers (.invalidationComplete id) s (resumeParked (forgetStalls
      (cmdDone (onXl s.dev fun x => { x with invals := x.invals.filter fun y => y.id ≠ id }) v.cmd 0 v.waited))) := by
  have hx : exec (.invalidationComplete id) s = act s "INVALIDATION_COMPLETE" (inRun s.dev && (invalReady s.dev id).isSome)
      (match invalReady s.dev id with
       | some v => resumeParked (forgetStalls (cmdDone (onXl s.dev fun x => { x with invals := x.invals.filter fun y => y.id ≠ id }) v.cmd 0 v.waited))
       | none => s.dev) := rfl
  rw [h] at hx
  exact answers_act hx (by simp [hr])

/-! ### The configuration register (R559) -/

/-- Only voted fields are voted together. -/
theorem voted_of_mem_votedWith {f g : Fld} (h : f ∈ votedWith g) : f = g ∨ f.info.voted = true := by
  unfold votedWith at h
  split at h
  case h_14 => exact .inl (List.mem_singleton.1 h)
  all_goals revert f; decide

/-- Writing a plain field what it reads changes no reading. -/
theorem rd_wr_keep {d : Dev} {f : Fld} {i : Nat} (hf : f.info.voted = false) (hv : rd d f i < 2 ^ f.info.width) (g : Fld) (j : Nat) :
    rd (wr d f i (rd d f i)) g j = rd d g j := by
  by_cases h : f ∈ votedWith g ∧ j = i
  · obtain ⟨hm, rfl⟩ := h
    obtain rfl := (voted_of_mem_votedWith hm).resolve_right (by simp [hf])
    rw [rd_wr_self _ _ _ _ hf]
    exact Nat.mod_eq_of_lt hv
  · exact rd_wr_other _ _ (not_and_or.1 h)

section
variable {d : Dev} {src v : Nat}

section
variable (he : isSet d .xlateCmdqCfgEnable = true)
include he

/-- While the queue is enabled, a write that changes its size or CQ is discarded. -/
theorem cmdqCfgWrite_discarded (h : cut v 0 4 ≠ rd d .xlateCmdqCfgLog2Size ∨ cut v 5 16 ≠ rd d .xlateCmdqCfgCq) :
    cmdqCfgWrite d src v = discardWrite d src 0x400008 0 := (if_pos he).trans (if_pos h)

variable (hl : cut v 0 4 = rd d .xlateCmdqCfgLog2Size) (hc : cut v 5 16 = rd d .xlateCmdqCfgCq)
include hl hc

theorem cmdqCfgWrite_again (hb : bitOf v 4 = true) : cmdqCfgWrite d src v = d :=
  (if_pos he).trans ((if_neg (by simp [hl, hc])).trans (if_pos hb))

theorem cmdqCfgWrite_disables (hb : bitOf v 4 = false) : cmdqCfgWrite d src v = setSleep (wr d .xlateCmdqCfgEnable 0 0) .cmdq none :=
  (if_pos he).trans ((if_neg (by simp [hl, hc])).trans (if_neg (by simp [hb])))

end

/-- A write to the disabled queue's configuration sets its size and CQ. -/
def cmdqSet (d : Dev) (v : Nat) : Dev := wr (wr d .xlateCmdqCfgLog2Size 0 (cut v 0 4)) .xlateCmdqCfgCq 0 (cut v 5 16)

/-- The enabled queue starts at HEAD 0. -/
def cmdqStarted (d : Dev) (v : Nat) : Dev :=
  wr (wr (wr (cmdqSet d v) .xlateCmdqCfgEnable 0 1) .xlateCmdqHeadIndex 0 0) .xlateCmdqHeadExpectedPhase 0 1

variable (he : isSet d .xlateCmdqCfgEnable = false)
include he

theorem cmdqCfgWrite_set (h : ¬ (bitOf v 4 = true ∧ 6 ≤ cut v 0 4 ∧ cut v 0 4 ≤ 12)) : cmdqCfgWrite d src v = cmdqSet d v :=
  (if_neg (by simp [he])).trans (if_neg (by simpa using h))

theorem cmdqCfgWrite_enables (hb : bitOf v 4 = true) (hl : 6 ≤ cut v 0 4 ∧ cut v 0 4 ≤ 12) : cmdqCfgWrite d src v =
    onXl (cmdqStarted d v) fun x => { x with cmdBase := rd (cmdqStarted d v) .xlateCmdqBase, cmdLog2 := cut v 0 4, cmdCq := cut v 5 16 } :=
  (if_neg (by simp [he])).trans (if_pos (by simp [hb, hl]))

end

theorem cut_lt (x lo len : Nat) : cut x lo len < 2 ^ len := Nat.mod_lt _ (Nat.two_pow_pos _)

theorem cmdqSet_spec (d : Dev) (v : Nat) :
    rd (cmdqSet d v) .xlateCmdqCfgLog2Size 0 = cut v 0 4 ∧ rd (cmdqSet d v) .xlateCmdqCfgCq 0 = cut v 5 16 ∧
    isSet (cmdqSet d v) .xlateCmdqCfgEnable = isSet d .xlateCmdqCfgEnable ∧
    onlyRegs d (cmdqSet d v) [(.xlateCmdqCfgLog2Size, 0), (.xlateCmdqCfgCq, 0)] := by
  refine ⟨?_, ?_, ?_, onlyRegs_wr (onlyRegs_wr (onlyRegs_refl d _) (by simp)) (by simp)⟩
  · rw [cmdqSet, rd_wr_ne _ _ rfl (.inl (by decide)), rd_wr_self _ _ _ _ rfl]
    exact Nat.mod_eq_of_lt (cut_lt ..)
  · rw [cmdqSet, rd_wr_self _ _ _ _ rfl]
    exact Nat.mod_eq_of_lt (cut_lt ..)
  · rw [cmdqSet, isSet_wr_ne _ _ rfl (by decide), isSet_wr_ne _ _ rfl (by decide)]

theorem cmdqStarted_spec (d : Dev) (v : Nat) : rd (cmdqStarted d v) .xlateCmdqCfgEnable 0 = 1 ∧ rd (cmdqStarted d v) .xlateCmdqHeadIndex 0 = 0 ∧
    rd (cmdqStarted d v) .xlateCmdqHeadExpectedPhase 0 = 1 ∧ rd (cmdqStarted d v) .xlateCmdqCfgLog2Size 0 = cut v 0 4 ∧
    rd (cmdqStarted d v) .xlateCmdqCfgCq 0 = cut v 5 16 ∧ rd (cmdqStarted d v) .xlateCmdqBase = rd d .xlateCmdqBase ∧
    onlyRegs d (cmdqStarted d v) [(.xlateCmdqCfgEnable, 0), (.xlateCmdqCfgLog2Size, 0), (.xlateCmdqCfgCq, 0),
      (.xlateCmdqHeadIndex, 0), (.xlateCmdqHeadExpectedPhase, 0)] := by
  obtain ⟨hl, hc, -, -⟩ := cmdqSet_spec d v
  refine ⟨?_, ?_, rd_wr_self _ _ _ _ rfl, ?_, ?_, ?_, ?_⟩
  · rw [cmdqStarted, rd_wr_ne _ _ rfl (.inl (by decide)), rd_wr_ne _ _ rfl (.inl (by decide))]
    exact rd_wr_self _ _ _ _ rfl
  · rw [cmdqStarted, rd_wr_ne _ _ rfl (.inl (by decide))]
    exact rd_wr_self _ _ _ _ rfl
  · rw [cmdqStarted, rd_wr_ne _ _ rfl (.inl (by decide)), rd_wr_ne _ _ rfl (.inl (by decide)), rd_wr_ne _ _ rfl (.inl (by decide)), hl]
  · rw [cmdqStarted, rd_wr_ne _ _ rfl (.inl (by decide)), rd_wr_ne _ _ rfl (.inl (by decide)), rd_wr_ne _ _ rfl (.inl (by decide)), hc]
  · rw [cmdqStarted, rd_wr_ne _ _ rfl (.inl (by decide)), rd_wr_ne _ _ rfl (.inl (by decide)), rd_wr_ne _ _ rfl (.inl (by decide)), cmdqSet,
      rd_wr_ne _ _ rfl (.inl (by decide)), rd_wr_ne _ _ rfl (.inl (by decide))]
  · exact onlyRegs_wr (onlyRegs_wr (onlyRegs_wr (onlyRegs_wr (onlyRegs_wr (onlyRegs_refl d _) (by simp)) (by simp)) (by simp)) (by simp)) (by simp)

/-- A change of the translation state beside a frame's writes. -/
theorem onlyRegs_onXl {d e : Dev} {l : List (Fld × Nat)} (h : onlyRegs d e l) (f : XlSt → XlSt) :
    onlyRegs { d with xl := (onXl e f).xl } (onXl e f) l :=
  ⟨congrArg (fun x : Dev => { x with xl := (onXl e f).xl }) h.1, h.2⟩

/-- A configuration that reads `l` and `c`, with ENABLE 0. -/
theorem cut_cmdqCfg {l c : Nat} (hl : l < 16) (hc : c < 2 ^ 16) :
    cut (l + c <<< 5) 0 4 = l ∧ cut (l + c <<< 5) 5 16 = c ∧ bitOf (l + c <<< 5) 4 = false := by
  simp only [cut, bitOf, Nat.testBit_eq_decide_div_mod_eq, Nat.shiftRight_eq_div_pow, Nat.shiftLeft_eq, decide_eq_false_iff_not]
  omega

/-- A frame from after a draw is one from before it, with the draw counted. -/
theorem onlyRegs_choose {d e : Dev} {n : Nat} {l : List (Fld × Nat)} (h : onlyRegs (choose d n).2 e l) :
    onlyRegs { d with free := e.free } e l := by
  have hf := congrArg Dev.free h.1
  have he : { d with free := e.free } = (choose d n).2 := congrArg (fun k => { d with free := k }) hf
  rw [he]
  exact h

theorem answers_cmdqEnable {s : State} {cfg : Nat} (hv : cfg < 2 ^ 32) (hb : bitOf cfg 4 = true) (ht : takesDriver s.dev) :
    Answers (.cmdqEnable cfg) s (cmdqCfgWrite (choose s.dev 4).2 (choose s.dev 4).1 cfg) :=
  answers_drv (n := "CMDQ_ENABLE") rfl (Bool.and_eq_true_iff.2 ⟨decide_eq_true hv, hb⟩) ht

/-- Disabling the queue stops its fetch (R559). -/
theorem cmdqDisable_spec {d : Dev} (hl : rd d .xlateCmdqCfgLog2Size 0 < 16) (hc : rd d .xlateCmdqCfgCq 0 < 2 ^ 16) :
    let e := cmdqCfgWrite d 0 (rd d .xlateCmdqCfgLog2Size + rd d .xlateCmdqCfgCq <<< 5)
    isSet e .xlateCmdqCfgEnable 0 = false ∧
    (isSet d .xlateCmdqCfgEnable 0 = true → onlyRegs (setSleep d .cmdq none) e [(.xlateCmdqCfgEnable, 0)]) ∧
    (isSet d .xlateCmdqCfgEnable 0 = false → onlyRegs d e []) := by
  obtain ⟨hcl, hcc, hb⟩ := cut_cmdqCfg hl hc
  intro e
  cases he : isSet d .xlateCmdqCfgEnable 0 with
  | true =>
    have hx : e = wr (setSleep d .cmdq none) .xlateCmdqCfgEnable 0 0 := (cmdqCfgWrite_disables he hcl hcc hb).trans (setSleep_wr ..)
    rw [hx]
    refine ⟨?_, fun _ => onlyRegs_wr (onlyRegs_refl _ _) (by simp), nofun⟩
    rw [isSet, rd_wr_self _ _ _ _ rfl]
    rfl
  | false =>
    have hx : e = cmdqSet d _ := cmdqCfgWrite_set he (by simp [hb])
    obtain ⟨-, -, hen, hframe⟩ := cmdqSet_spec d (rd d .xlateCmdqCfgLog2Size + rd d .xlateCmdqCfgCq <<< 5)
    rw [hx]
    refine ⟨hen.trans he, nofun, fun _ => ⟨hframe.1, fun f i _ => ?_⟩⟩
    have hq : rd (wr d .xlateCmdqCfgLog2Size 0 (rd d .xlateCmdqCfgLog2Size)) .xlateCmdqCfgCq = rd d .xlateCmdqCfgCq := rd_wr_ne _ _ rfl (.inl (by decide))
    rw [cmdqSet, hcl, hcc, ← hq, rd_wr_keep rfl (hq ▸ hc), rd_wr_keep rfl hl]

/-! ### The doorbell -/

theorem wake_wr_laurel (d : Dev) {f : Fld} {i : Nat} (v : Nat) (hf : f ∉ votedWith .powerLaurelState) :
    wake (wr d f i v) .laurel = wr (wake d .laurel) f i v := by
  have hd : domState (wr d f i v) .laurel = domState d .laurel := rd_wr_other _ _ (.inl hf)
  unfold wake
  rw [hd, wr_pwr]
  split
  · rfl
  · unfold wr onPwr
    dsimp only
    split
    · rfl
    · rfl

theorem answers_cmdqDoorbell {s : State} {v : Nat} (hv : v < 2 ^ 32) (ht : takesDriver s.dev) :
    Answers (.cmdqDoorbell v) s (cmdqGo (wake (wr s.dev .xlateCmdqDoorbell 0 v) .laurel) 64) :=
  answers_drv (n := "CMDQ_DOORBELL") rfl (decide_eq_true hv) ht

theorem cmdqGo_disabled {d : Dev} (w : Nat) (h : isSet d .xlateCmdqCfgEnable = false) : cmdqGo d w = d := if_neg (by simp [h])

/-! ### The obligation -/

/-- Settles O38: the command at the head by what is wrong with it, the configuration by whether the queue is enabled. -/
theorem translationCommands : Obligations.TranslationCommands := by
  refine ⟨fun s c i op eff hm hr hh ho hi ha => ?_, fun d c whole => ⟨fun x hx => ?_, fun x hx hp => ?_⟩, fun d c h hf hg => ⟨?_, ?_⟩,
    fun s id v hr h => ?_, fun s cfg hv ht hb => ?_, fun s ht hl hc => ?_, fun s v hv ht => ?_⟩
  · refine ⟨_, answers_xlateCommand hm hr hh ho hi ha, fun hmal => ?_, fun hok h4 hen => ?_, fun hok h => ?_⟩
    · have hx := cmdCause_malformed (d := s.dev) hmal
      rw [cmdRun_rejected _ (by rw [hx]; decide), hx]
      rfl
    · have hx := cmdCause_noTables hok (ho ▸ h4) hen
      rw [cmdRun_rejected _ (by rw [hx]; decide), hx]
      rfl
    · exact cmdRun_accepted _ (cmdCause_none hok (ho ▸ h))
  · exact (mem_tlb_invalStart.1 hx).2
  · exact mem_tlb_invalStart.2 ⟨hx, fun h => absurd h hp⟩
  · exact resumeEffect_retry hf hg
  · exact resumeEffect_abort hf hg
  · exact ⟨_, answers_invalidationComplete hr h, invalReady_waits h, rfl⟩
  · have hst := cmdqStarted_spec (choose s.dev 4).2 cfg
    have hset := cmdqSet_spec (choose s.dev 4).2 cfg
    refine ⟨_, answers_cmdqEnable hv hb ht, fun he hlo hhi => ?_, fun he hl => ?_, fun he hl hc => ?_,
      fun he h => ?_⟩
    · obtain ⟨hen, hhead, hphase, hlog, hcq, hbase, hframe⟩ := hst
      have hxl : (cmdqStarted (choose s.dev 4).2 cfg).xl = s.dev.xl := (congrArg Dev.xl hframe.1 :)
      rw [cmdqCfgWrite_enables (d := (choose s.dev 4).2) he hb ⟨hlo, hhi⟩]
      simp only [rd_onXl]
      refine ⟨hen, hhead, hphase, hlog, hcq, ?_, onlyRegs_onXl (onlyRegs_choose hframe) _⟩
      rw [onXl_xl, hxl, hbase]
      rfl
    · obtain ⟨hlog, hcq, hen, hframe⟩ := hset
      rw [cmdqCfgWrite_set (d := (choose s.dev 4).2) he fun h => hl h.2]
      exact ⟨hen.trans he, hlog, hcq, onlyRegs_choose hframe⟩
    · rw [cmdqCfgWrite_again (d := (choose s.dev 4).2) he hl hc hb]
      exact onlyRegs_choose (onlyRegs_refl _ _)
    · rw [cmdqCfgWrite_discarded (d := (choose s.dev 4).2) he h]
      obtain ⟨hcount, hoff, -⟩ := rd_discardWrite (choose s.dev 4).2 (choose s.dev 4).1 0x400008 0
      exact ⟨hcount, hoff, onlyRegs_choose (onlyRegs_discardWrite ..)⟩
  · exact ⟨_, answers_drv (n := "CMDQ_DISABLE") rfl rfl ht, cmdqDisable_spec hl hc⟩
  · refine ⟨_, answers_cmdqDoorbell hv ht, fun he => ?_, fun he => ?_⟩
    · have hw : isSet (wake (wr s.dev .xlateCmdqDoorbell 0 v) .laurel) .xlateCmdqCfgEnable = false := by
        rw [isSet, rd_wake, rd_wr_ne _ _ rfl (.inl (by decide))]
        exact he
      rw [cmdqGo_disabled _ hw, wake_wr_laurel _ _ (by decide)]
      refine ⟨?_, onlyRegs_wr (onlyRegs_refl _ _) (by simp)⟩
      rw [rd_wr_self _ _ _ _ rfl]
      exact Nat.mod_eq_of_lt hv
    · rfl

end Sys2Proof.Machine
end

section
/-!
What completions leave behind: they take work items out of the list and put none into it, and no tile changes hands (R126, R127, R446).
-/
namespace Sys2Proof.Machine

/-- From `d` to `e` no work item appears and no tile changes hands. -/
structure OnlyLeaves (d e : Dev) : Prop where
  items : ∀ x ∈ e.disp.items, x ∈ d.disp.items
  owner : ∀ t, tileOwner e t = tileOwner d t

theorem OnlyLeaves.refl (d : Dev) : OnlyLeaves d d := ⟨fun _ h => h, fun _ => rfl⟩

theorem OnlyLeaves.trans {a b c : Dev} (h : OnlyLeaves a b) (k : OnlyLeaves b c) : OnlyLeaves a c :=
  ⟨fun x hx => h.items x (k.items x hx), fun t => (k.owner t).trans (h.owner t)⟩

theorem OnlyLeaves.tilesOf {d e : Dev} (h : OnlyLeaves d e) (p : Nat) : tilesOf e p = tilesOf d p := by
  simp only [Machine.tilesOf, h.owner]

theorem onlyLeaves_foldl {α : Type} {g : Dev → α → Dev} (h : ∀ d x, OnlyLeaves d (g d x)) (l : List α) (d : Dev) :
    OnlyLeaves d (l.foldl g d) := by
  induction l generalizing d with
  | nil => exact .refl d
  | cons x t ih => exact (h d x).trans (ih _)

/-! ### Registers, memory, journals -/

section
variable (d : Dev)

theorem tileOwner_congr {e : Dev} {t : Nat} (hp : rd e .tileOwnerPartition t = rd d .tileOwnerPartition t)
    (ha : rd e .tileOwnerAssigned t = rd d .tileOwnerAssigned t) : tileOwner e t = tileOwner d t := by
  unfold tileOwner isSet
  rw [hp, ha]

theorem onlyLeaves_wr {f : Fld} (i v : Nat) (hf : f ∉ votedWith .tileOwnerPartition) : OnlyLeaves d (wr d f i v) :=
  ⟨fun x hx => by rwa [wr_disp] at hx, fun _ => tileOwner_congr d (rd_wr_other _ _ (.inl hf)) (rd_wr_other _ _ (.inl hf))⟩

theorem onlyLeaves_ite {a b : Dev} {c : Prop} [Decidable c] (ha : OnlyLeaves d a) (hb : OnlyLeaves d b) : OnlyLeaves d (if c then a else b) := by
  split
  · exact ha
  · exact hb

theorem onlyLeaves_of_memOnly {e : Dev} (h : MemOnly d e) : OnlyLeaves d e := by
  refine ⟨fun x hx => ?_, fun t => tileOwner_congr d (h.regs _ _ (by decide)) (h.regs _ _ (by decide))⟩
  obtain ⟨_, _, _, _, _, _, _, _, rfl⟩ := h.rest
  exact hx

theorem onlyLeaves_answered {α : Type} (src dest : Nat) (x : Option Nat × α) : OnlyLeaves d (answered src dest (d, x)).1 := by
  unfold answered responseCause
  dsimp only
  split
  · exact .refl d
  · exact onlyLeaves_wr d (f := .meshNoRouteDrops) _ _ (by decide)
  · exact .refl d

theorem onlyLeaves_dpaWrite (src a : Nat) (bs : List Byte) : OnlyLeaves d (dpaWrite d src a bs).1 := by
  unfold dpaWrite
  split
  · exact .refl d
  · split
    · exact .refl d
    · exact (onlyLeaves_of_memOnly d (memOnly_memWrite ..)).trans (onlyLeaves_answered ..)

theorem onlyLeaves_hostReach (src m a n : Nat) : OnlyLeaves d (hostReach d src m a n).1 := by
  unfold hostReach
  split
  · exact onlyLeaves_wr d (f := .hlHpaDiscards) _ _ (by decide)
  · split
    · exact .refl d
    · exact .refl d

theorem onlyLeaves_hostWrite (src m a : Nat) (bs : List Byte) : OnlyLeaves d (hostWrite d src m a bs).1 := by
  have hr := onlyLeaves_hostReach d src m a bs.length
  unfold hostWrite
  split
  next he => rwa [he] at hr
  next d' he =>
    rw [he] at hr
    have hm : OnlyLeaves d' (onMem d' fun x => { x with host := writeSparse x.host a bs }) := ⟨fun _ h => h, fun _ => rfl⟩
    exact hr.trans (hm.trans (onlyLeaves_answered ..))

theorem onlyLeaves_setJournal (t : Nat) (j : Journal) : OnlyLeaves d (setJournal d t j) := ⟨fun _ h => h, fun _ => rfl⟩

theorem onlyLeaves_journalStore (t : Nat) (keep : Bool) (e : JEntry) : OnlyLeaves d (journalStore d t keep e) := by
  rw [journalStore]
  exact onlyLeaves_dpaWrite ..

theorem onlyLeaves_journalSet (t u : Nat) (f : JEntry → JEntry) : OnlyLeaves d (journalSet d t u f) := by
  unfold journalSet
  dsimp only
  split
  · exact (onlyLeaves_setJournal d _ _).trans (onlyLeaves_journalStore ..)
  · split
    · exact (onlyLeaves_setJournal d _ _).trans (onlyLeaves_journalStore ..)
    · exact onlyLeaves_setJournal d _ _

end

/-! ### Completions (R126, R127) -/

section
variable (d : Dev)

theorem onlyLeaves_postCq (c : Nat) (e : Entry) (w : Writer) : OnlyLeaves d (postCq d c e w) := ⟨fun _ h => h, fun _ => rfl⟩

theorem onlyLeaves_postEq (q : Nat) (e : Entry) : OnlyLeaves d (postEq d q e) := ⟨fun _ h => h, fun _ => rfl⟩

theorem onlyLeaves_setSleep (q : QueueId) (w : Option Nat) : OnlyLeaves d (setSleep d q w) := ⟨fun _ h => h, fun _ => rfl⟩

theorem onlyLeaves_safetyEvent (ty part die cause cls region unit detail run lost : Nat) :
    OnlyLeaves d (safetyEvent d ty part die cause cls region unit detail run lost) :=
  ⟨fun x hx => by rwa [safetyEvent_disp] at hx,
    fun _ => tileOwner_congr d (rd_safetyEvent _ _ _ _ _ _ _ _ _ _ _ _ _ (by decide) (by decide))
      (rd_safetyEvent _ _ _ _ _ _ _ _ _ _ _ _ _ (by decide) (by decide))⟩

theorem onlyLeaves_replayEnd (t lost : Nat) : OnlyLeaves d (replayEnd d t lost) := by
  unfold replayEnd
  split
  · exact .refl d
  · dsimp only
    refine OnlyLeaves.trans ?_ ((onlyLeaves_safetyEvent ..).trans (onlyLeaves_wr _ (f := .safetyTilesReplayed) _ _ (by decide)))
    split
    · have hs : OnlyLeaves d (onSafe d fun x => { x with swaps := del x.swaps t }) := ⟨fun _ h => h, fun _ => rfl⟩
      refine OnlyLeaves.trans (hs.trans ((onlyLeaves_wr _ (f := .safetyTileRetireBusy) 0 0 (by decide)).trans
        (onlyLeaves_wr _ (f := .safetyTileRetireResult) 0 0 (by decide)))) ?_
      exact ⟨fun _ h => h, fun _ => rfl⟩
    · exact ⟨fun _ h => h, fun _ => rfl⟩

theorem onlyLeaves_popReplay (t u : Nat) : OnlyLeaves d (popReplay d t u) := by
  unfold popReplay
  split
  · exact .refl d
  · dsimp only
    refine onlyLeaves_ite d ?_ (.refl d)
    split
    · refine OnlyLeaves.trans ?_ (onlyLeaves_replayEnd _ _ _)
      exact ⟨fun _ h => h, fun _ => rfl⟩
    · exact ⟨fun _ h => h, fun _ => rfl⟩

theorem onlyLeaves_graphDone (it : Item) : OnlyLeaves d (graphDone d it) := by
  unfold graphDone
  split
  · exact .refl d
  · exact ⟨fun _ h => h, fun _ => rfl⟩

theorem onlyLeaves_dropItem (u : Nat) : OnlyLeaves d (dropItem d u) := ⟨fun _ h => (List.mem_filter.1 h).1, fun _ => rfl⟩

/-- A work item that leaves is dropped before anything else changes. -/
theorem onlyLeaves_dropItem_leave (it : Item) (c : Nat) : OnlyLeaves (dropItem d it.uid) (leave d it c) := by
  unfold leave
  dsimp only
  refine OnlyLeaves.trans ?_ (onlyLeaves_ite _ (.refl _) (onlyLeaves_wr _ (f := .ringInflight) _ _ (by decide)))
  refine OnlyLeaves.trans ?_ ((onlyLeaves_graphDone _ it).trans (onlyLeaves_popReplay ..))
  refine OnlyLeaves.trans ?_ (onlyLeaves_ite _ (onlyLeaves_postCq ..) (.refl _))
  refine OnlyLeaves.trans ?_ (onlyLeaves_ite _ (.refl _) (onlyLeaves_journalSet ..))
  exact ⟨fun _ h => h, fun _ => rfl⟩

theorem onlyLeaves_leave (it : Item) (c : Nat) : OnlyLeaves d (leave d it c) := (onlyLeaves_dropItem d _).trans (onlyLeaves_dropItem_leave d it c)

theorem onlyLeaves_settle (r : Nat) : OnlyLeaves d (settle d r) := by
  have hs := onlyLeaves_wr d (f := .ringStateState) r 0 (by decide)
  unfold settle
  dsimp only
  exact onlyLeaves_ite d (onlyLeaves_ite d hs (hs.trans (onlyLeaves_wr _ (f := .partCountRings) _ _ (by decide)))) (.refl d)

theorem onlyLeaves_ringStop (r c : Nat) : OnlyLeaves d (ringStop d r c) := by
  unfold ringStop
  dsimp only
  refine onlyLeaves_ite d (.refl d) (OnlyLeaves.trans ?_ (onlyLeaves_settle _ r))
  refine OnlyLeaves.trans ?_ (onlyLeaves_foldl (fun d it => (onlyLeaves_leave d it _).trans (onlyLeaves_settle ..)) _ _)
  refine OnlyLeaves.trans ?_ (onlyLeaves_postEq ..)
  exact ((onlyLeaves_wr d (f := .ringStateState) _ _ (by decide)).trans (onlyLeaves_wr _ (f := .ringStateLastCause) _ _ (by decide))).trans
    (onlyLeaves_setSleep ..)

/-- The work items that complete leave one by one, and none of them is left. -/
theorem leaves_gone (l : List Item) (c : Nat) : OnlyLeaves d (l.foldl (fun d x => leave d x c) d) ∧
    ∀ y ∈ l, ∀ x ∈ (l.foldl (fun d x => leave d x c) d).disp.items, x.uid ≠ y.uid := by
  refine ⟨onlyLeaves_foldl (fun d x => onlyLeaves_leave d x c) l d, ?_⟩
  induction l generalizing d with
  | nil => intro y hy; cases hy
  | cons z t ih =>
    rw [List.foldl_cons, List.forall_mem_cons]
    refine ⟨fun x hx => ?_, ih _⟩
    have hz := (onlyLeaves_dropItem_leave d z c).items x ((onlyLeaves_foldl (fun d x => onlyLeaves_leave d x c) t _).items x hx)
    exact of_decide_eq_true (List.mem_filter.1 hz).2

theorem completeAll_gone (l : List Item) (c : Nat) : OnlyLeaves d (completeAll d l c) ∧
    ∀ y ∈ l, ∀ x ∈ (completeAll d l c).disp.items, x.uid ≠ y.uid := by
  obtain ⟨hleave, hgone⟩ := leaves_gone d l c
  have hrings : OnlyLeaves (l.foldl (fun d x => leave d x c) d) (completeAll d l c) :=
    (onlyLeaves_foldl (fun d (x : Item) => onlyLeaves_ringStop d x.ring c) l _).trans
      (onlyLeaves_foldl (fun d (x : Item) => onlyLeaves_settle d x.ring) l _)
  exact ⟨hleave.trans hrings, fun y hy x hx => hgone y hy x (hrings.items x hx)⟩

end

/-! ### Collectives and queue pairs (R408, R454) -/

section
variable (d : Dev)

theorem onlyLeaves_collPost (g : Nat) (r : CollRun) (c : Nat) : OnlyLeaves d (collPost d g r c) := by
  unfold collPost collRoundTime
  split
  · exact ⟨fun _ h => h, fun _ => rfl⟩
  · exact ⟨fun _ h => h, fun _ => rfl⟩

theorem onlyLeaves_collShow : OnlyLeaves d (collShow d) := onlyLeaves_wr d (f := .transportCollBufLevel) _ _ (by decide)

theorem onlyLeaves_onColl (f : CollSt → CollSt) : OnlyLeaves d (onColl d f) := ⟨fun _ h => h, fun _ => rfl⟩

theorem onlyLeaves_onMem (f : MemSt → MemSt) : OnlyLeaves d (onMem d f) := ⟨fun _ h => h, fun _ => rfl⟩

theorem onlyLeaves_collEnd (g : Nat) (r : CollRun) (c : Nat) : OnlyLeaves d (collEnd d g r c) := by
  unfold collEnd
  dsimp only
  refine OnlyLeaves.trans ?_ (onlyLeaves_ite _ (onlyLeaves_collPost ..) (.refl _))
  refine OnlyLeaves.trans ?_ ((onlyLeaves_onColl _ _).trans (onlyLeaves_collShow _))
  exact onlyLeaves_ite d ((onlyLeaves_onColl d _).trans (onlyLeaves_onMem _ _)) (onlyLeaves_onColl d _)

theorem onlyLeaves_writeBack (n : Nat) (q : Qp) : OnlyLeaves d (writeBack d n q) := by
  unfold writeBack
  split
  · exact onlyLeaves_hostWrite ..
  · exact onlyLeaves_dpaWrite ..
  · exact .refl d

theorem onlyLeaves_onTr (f : TrSt → TrSt) : OnlyLeaves d (onTr d f) := ⟨fun _ h => h, fun _ => rfl⟩

theorem onlyLeaves_dropResident (n : Nat) : OnlyLeaves d (dropResident d n) :=
  ((onlyLeaves_onTr d _).trans (onlyLeaves_onTr _ _)).trans
    ((onlyLeaves_wr _ (f := .transportResident) _ _ (by decide)).trans (onlyLeaves_wr _ (f := .transportSticky) _ _ (by decide)))

theorem onlyLeaves_liveCheck (set : Nat) : OnlyLeaves d (liveCheck d set) :=
  onlyLeaves_ite d ((onlyLeaves_onTr d _).trans (onlyLeaves_wr _ (f := .transportLiveSets) _ _ (by decide))) (onlyLeaves_onTr d _)

theorem onlyLeaves_freezeQp (n : Nat) : OnlyLeaves d (freezeQp d n) := by
  unfold freezeQp
  split
  · refine onlyLeaves_ite d ?_ (.refl d)
    refine OnlyLeaves.trans ?_ ((onlyLeaves_setSleep ..).trans (onlyLeaves_setSleep ..))
    refine OnlyLeaves.trans ?_ ((onlyLeaves_onTr _ _).trans (onlyLeaves_liveCheck _ _))
    exact (onlyLeaves_writeBack ..).trans (onlyLeaves_dropResident ..)
  · exact .refl d

end

end Sys2Proof.Machine
end

section
/-!
Freezing, saving, restoring, thawing and sealing a partition (R439, R449, R453 to R457), and O53.
-/
namespace Sys2Proof.Machine

/-! ### Results of a partition's commands (R445) -/

section
variable (d : Dev) (p : Nat)

theorem rd_partResult {c : Nat} (hc : c < 256) : rd (partResult d p c) .partStatusResult p = c := by
  rw [partResult, rd_wr_self _ _ _ _ rfl]
  exact Nat.mod_eq_of_lt hc

theorem rd_partResult_ne (c : Nat) {f : Fld} (i : Nat) (hf : f.info.voted = false) (hn : f ≠ .partStatusResult) :
    rd (partResult d p c) f i = rd d f i := rd_wr_ne _ _ hf (.inl hn)

/-- A refused command leaves its cause and nothing else. -/
theorem refused_of_eq_partResult {d e : Dev} {p c : Nat} (h : e = partResult d p c) (hc : c < 256) :
    rd e .partStatusResult p = c ∧ onlyRegs d e [(.partStatusResult, p)] := by
  subst h
  exact ⟨rd_partResult d p hc, onlyRegs_wr (onlyRegs_refl d _) (.head _)⟩

theorem partBusy_set : isSet (wr d .partStatusBusy p 1) .partStatusBusy p = true ∧ onlyRegs d (wr d .partStatusBusy p 1) [(.partStatusBusy, p)] :=
  ⟨isSet_wr_one _ _ _ rfl rfl, onlyRegs_wr (onlyRegs_refl d _) (.head _)⟩

/-- A change of the partitions' state beside a frame's writes. -/
theorem onlyRegs_onParts {d e : Dev} {l : List (Fld × Nat)} (h : onlyRegs d e l) (f : PartSt → PartSt) :
    onlyRegs { d with parts := (onParts e f).parts } (onParts e f) l :=
  ⟨congrArg (fun x : Dev => { x with parts := (onParts e f).parts }) h.1, h.2⟩

end

/-! ### FREEZE, SAVE, RESTORE and THAW (R453 to R457) -/

section
variable {d : Dev} {p : Nat}

theorem freezeGo_busy (hb : isSet d .partStatusBusy p = true) : freezeGo d p = d := if_pos hb
theorem saveGo_busy (hb : isSet d .partStatusBusy p = true) : saveGo d p = d := if_pos hb
theorem restoreGo_busy (hb : isSet d .partStatusBusy p = true) : restoreGo d p = d := if_pos hb
theorem thawGo_busy (hb : isSet d .partStatusBusy p = true) : thawGo d p = d := if_pos hb

variable (hb : isSet d .partStatusBusy p = false)
include hb

theorem freezeGo_refused (h : p = 0 ∨ rd d .partStatusState p ≠ 0) : freezeGo d p = partResult d p 0xEA :=
  (if_neg (by simp [hb])).trans (if_pos h)

theorem freezeGo_starts (h0 : p ≠ 0) (hs : rd d .partStatusState p = 0) : freezeGo d p = partResult (wr d .partStatusState p 1) p 0 :=
  (if_neg (by simp [hb])).trans (if_neg (by simp [h0, hs]))

theorem saveGo_refused (h : rd d .partStatusState p ≠ 2 ∨ hbmEnd < imageBase d p + imageLength (tilesOf d p).length) :
    saveGo d p = partResult d p 0xEA := (if_neg (by simp [hb])).trans (if_pos h)

theorem saveGo_starts (hs : rd d .partStatusState p = 2) (h : imageBase d p + imageLength (tilesOf d p).length ≤ hbmEnd) :
    saveGo d p = wr d .partStatusBusy p 1 := (if_neg (by simp [hb])).trans (if_neg (by simp [hs, h]))

theorem restoreGo_refused (h : p = 0 ∨ rd d .partStatusState p ≠ 2) : restoreGo d p = partResult d p 0xEA :=
  (if_neg (by simp [hb])).trans (if_pos h)

theorem restoreGo_starts (h0 : p ≠ 0) (hs : rd d .partStatusState p = 2) :
    restoreGo d p = onParts (wr d .partStatusBusy p 1) fun b => { b with restoring := p :: b.restoring } :=
  (if_neg (by simp [hb])).trans (if_neg (by simp [h0, hs]))

theorem thawGo_refused (hs : rd d .partStatusState p ≠ 2) : thawGo d p = partResult d p 0xEA :=
  (if_neg (by simp [hb])).trans (if_pos hs)

theorem thawGo_runs (hs : rd d .partStatusState p = 2) : thawGo d p =
    fetchAll (partResult (wr (((qpsOf d p).filter fun x => x.2.state = 6).foldl (fun d x => thawQp d x.1) d) .partStatusState p 0) p 0) p :=
  (if_neg (by simp [hb])).trans (if_neg (by simp [hs]))

end

/-- A partition that begins to quiesce. -/
theorem partQuiesces (d : Dev) (p : Nat) : rd (partResult (wr d .partStatusState p 1) p 0) .partStatusState p = 1 ∧
    rd (partResult (wr d .partStatusState p 1) p 0) .partStatusResult p = 0 ∧
    onlyRegs d (partResult (wr d .partStatusState p 1) p 0) [(.partStatusState, p), (.partStatusResult, p)] := by
  refine ⟨?_, rd_partResult _ _ (by decide), onlyRegs_wr (onlyRegs_wr (onlyRegs_refl d _) (by simp)) (by simp)⟩
  rw [rd_partResult_ne _ _ _ _ rfl (by decide)]
  exact rd_wr_self _ _ _ _ rfl

/-! ### Quiescing (R453, R454) -/

theorem freezeCut_spec (d : Dev) (p : Nat) : { freezeCut d p with disp := d.disp } = d ∧
    (∀ x ∈ (freezeCut d p).disp.items, x.part = p → x.rerun = false → x.phase ≠ .fetched ∧ x.phase ≠ .placed) ∧
    (freezeCut d p).disp.items.length = d.disp.items.length := by
  refine ⟨rfl, fun x hx hp hr => ?_, by simp [freezeCut]⟩
  simp only [freezeCut, onDisp_disp, List.mem_map] at hx
  obtain ⟨y, hy, he⟩ := hx
  split at he
  next => subst he; exact ⟨nofun, nofun⟩
  next hc =>
    subst he
    rw [List.contains_iff_mem, List.mem_map] at hc
    refine not_or.1 fun hph => hc ⟨y, ?_, rfl⟩
    simp [notStarted, hy, hp, hr, hph]

theorem onlyLeaves_onJournals (b : Bool) (f : Journal → Journal) (ts : List Nat) (d : Dev) : OnlyLeaves d (onJournals b f ts d) :=
  onlyLeaves_ite d (onlyLeaves_foldl (fun d t => onlyLeaves_setJournal d t _) ts d) (.refl d)

/-- A journal with nothing to replay. -/
def emptied (j : Journal) : Journal := { j with keep := [], rolling := [] }

/-- The work items of a partition at rest, in the order in which they complete: copies of step graphs that were cut, then the rest. -/
def restingItems (d : Dev) (p : Nat) : List Item :=
  let its := d.disp.items.filter fun x => x.part = p
  its.filter (fun x => x.phase = .cut) ++ its.filter fun x => x.phase != .cut

theorem mem_restingItems {d : Dev} {p : Nat} {x : Item} : x ∈ restingItems d p ↔ x ∈ d.disp.items ∧ x.part = p := by
  by_cases hc : x.phase = .cut
  · simp [restingItems, hc]
  · simp [restingItems, hc]

/-- The collectives and queue pairs of a partition leave. -/
def queuesLeave (d : Dev) (p : Nat) : Dev :=
  let d := (d.coll.runs.filter fun e => e.2.part = p).foldl (fun d e => collEnd d e.1 e.2 0xE8) d
  ((qpsOf d p).filter fun x => qpReceives x.2).foldl (fun d x => freezeQp d x.1) d

theorem onlyLeaves_queuesLeave (d : Dev) (p : Nat) : OnlyLeaves d (queuesLeave d p) :=
  (onlyLeaves_foldl (fun d (e : Nat × CollRun) => onlyLeaves_collEnd d e.1 e.2 0xE8) _ _).trans
    (onlyLeaves_foldl (fun d (x : Nat × Qp) => onlyLeaves_freezeQp d x.1) _ _)

/-- A partition at rest when its work items, collectives and queue pairs have left. -/
def drained (d : Dev) (p : Nat) : Dev := queuesLeave (completeAll d (restingItems d p) 0xE8) p

theorem frozenEffect_eq (d : Dev) (p : Nat) : frozenEffect d p =
    wr (onJournals true emptied (tilesOf (drained d p) p) (drained d p)) .partStatusState p 2 := rfl

/-- No work item of the partition is left, and its tiles are still its own. -/
theorem drained_gone (d : Dev) (p : Nat) : OnlyLeaves d (drained d p) ∧ ∀ x ∈ (drained d p).disp.items, x.part ≠ p := by
  obtain ⟨hall, hgone⟩ := completeAll_gone d (restingItems d p) 0xE8
  have hrest := onlyLeaves_queuesLeave (completeAll d (restingItems d p) 0xE8) p
  refine ⟨hall.trans hrest, fun x hx hp => ?_⟩
  have hx' := hrest.items x hx
  exact hgone x (mem_restingItems.2 ⟨hall.items x hx', hp⟩) x hx' rfl

theorem drained_nothing {d : Dev} {p : Nat} (hi : ∀ x ∈ d.disp.items, x.part ≠ p) (hc : ∀ x ∈ d.coll.runs, x.2.part ≠ p)
    (hq : qpsOf d p = []) : drained d p = d := by
  have hr : restingItems d p = [] := List.eq_nil_iff_forall_not_mem.2 fun x hx => hi x (mem_restingItems.1 hx).1 (mem_restingItems.1 hx).2
  have hc' : d.coll.runs.filter (fun e => e.2.part = p) = [] := List.filter_eq_nil_iff.2 (by simpa using hc)
  have hx : completeAll d [] 0xE8 = d := rfl
  simp [drained, hr, hx, queuesLeave, hc', hq]

theorem frozenEffect_spec (d : Dev) (p : Nat) : rd (frozenEffect d p) .partStatusState p = 2 ∧
    (∀ x ∈ (frozenEffect d p).disp.items, x.part ≠ p) ∧
    ∀ t ∈ tilesOf d p, (journalOf (frozenEffect d p) t).keep = [] ∧ (journalOf (frozenEffect d p) t).rolling = [] := by
  obtain ⟨hleaves, hgone⟩ := drained_gone d p
  have hj : ∀ t, journalOf (frozenEffect d p) t = journalOf (onJournals true emptied (tilesOf (drained d p) p) (drained d p)) t := fun t => by
    rw [frozenEffect_eq, journalOf, wr_disp, journalOf]
  refine ⟨?_, fun x hx => hgone x ?_, fun t ht => ?_⟩
  · rw [frozenEffect_eq]
    exact rd_wr_self _ _ _ _ rfl
  · rw [frozenEffect_eq, wr_disp] at hx
    exact (onlyLeaves_onJournals ..).items x hx
  · rw [hj, journalOf_onJournals _ _ (nodup_tilesOf _ _), if_pos ⟨rfl, by rwa [hleaves.tilesOf]⟩]
    exact ⟨rfl, rfl⟩

theorem frozenEffect_nothing {d : Dev} {p : Nat} (hi : ∀ x ∈ d.disp.items, x.part ≠ p) (hc : ∀ x ∈ d.coll.runs, x.2.part ≠ p)
    (hq : qpsOf d p = []) (ht : tilesOf d p = []) : frozenEffect d p = wr d .partStatusState p 2 := by
  rw [frozenEffect_eq, drained_nothing hi hc hq, ht]
  rfl

/-! ### Images (R455, R456) -/

/-- A RESTORE that is over is BUSY no more. -/
def restoreOver (d : Dev) (p : Nat) : Dev := onParts (wr d .partStatusBusy p 0) fun b => { b with restoring := b.restoring.filter (· ≠ p) }

section
variable (d : Dev) (p : Nat)

theorem onlyRegs_restoreOver : onlyRegs { d with parts := (restoreOver d p).parts } (restoreOver d p) [(.partStatusBusy, p)] :=
  onlyRegs_onParts (onlyRegs_wr (onlyRegs_refl d _) (.head _)) _

theorem rd_restoreOver {f : Fld} (hf : .partStatusBusy ∉ votedWith f) (i : Nat) : rd (restoreOver d p) f i = rd d f i :=
  rd_wr_other _ _ (.inl hf)

theorem restoreOver_idle : isSet (restoreOver d p) .partStatusBusy p = false := by
  have h : rd (restoreOver d p) .partStatusBusy p = 0 := (rd_onParts ..).trans (rd_wr_self _ _ _ _ rfl)
  rw [isSet, h]
  rfl

theorem restoreOver_mem : (restoreOver d p).mem = d.mem := wr_mem _ _ _ _

theorem getBytes_restoreOver (a n : Nat) : getBytes (restoreOver d p) a n = getBytes d a n := by
  rw [getBytes, restoreOver_mem, getBytes]

theorem imageBase_restoreOver : imageBase (restoreOver d p) p = imageBase d p := by
  rw [imageBase, rd_restoreOver _ _ (by decide), imageBase]

theorem imageSound_restoreOver : imageSound (restoreOver d p) p = imageSound d p := by
  simp only [imageSound, imageBase_restoreOver, getBytes_restoreOver]

theorem voteHolds_restoreOver {f : Fld} (hf : f ≠ .partStatusBusy) (i : Nat) : voteHolds (restoreOver d p) f i = voteHolds d f i := by
  have hc : copies (restoreOver d p) f i = copies d f i := copies_wr_ne d 0 (.inl hf)
  rw [voteHolds, hc, voteHolds]

theorem imageFits_restoreOver : imageFits (restoreOver d p) p = imageFits d p := by
  have ht : tilesOf (restoreOver d p) p = tilesOf d p := by
    have hl : OnlyLeaves d (restoreOver d p) :=
      (onlyLeaves_wr d (f := .partStatusBusy) p 0 (by decide)).trans ⟨fun _ h => h, fun _ => rfl⟩
    exact hl.tilesOf p
  have hr := @rd_restoreOver d p
  have hv := @voteHolds_restoreOver d p
  simp only [imageFits, imageBase_restoreOver, getBytes_restoreOver, ht, recordsAt, ringOwned, cqOwned, eqOwned,
    hr (f := .ringCfgPartition) (by decide), hr (f := .ringStateState) (by decide), hr (f := .ringCfgLog2Size) (by decide),
    hr (f := .cqPartition) (by decide), hr (f := .cqState) (by decide), hr (f := .cqLog2Size) (by decide),
    hr (f := .eqPartition) (by decide), hr (f := .eqState) (by decide), hr (f := .eqLog2Size) (by decide),
    hv (f := .ringCfgPartition) (by decide), hv (f := .cqPartition) (by decide), hv (f := .eqPartition) (by decide)]

end

section
variable (d : Dev) (p i : Nat)

theorem rd_putLines (a : Nat) (bs : List Byte) {f : Fld} (hf : f ∉ memFlds) : rd (putLines d a bs) f i = rd d f i :=
  (memOnly_memWrite _ _ _ _ _).regs f i hf

theorem rd_restoreLine (src dst : Nat) {f : Fld} (hf : f ∉ memFlds) : rd (restoreLine d src dst) f i = rd d f i := by
  have hm : rd (memRead d src 64).1 f i = rd d f i := (memOnly_memRead ..).regs f i hf
  unfold restoreLine
  split
  next he =>
    rw [he] at hm
    rw [rd_putLines _ _ _ _ hf, hm]
  next he =>
    rw [he] at hm
    rw [rd_foldl (fun _ _ => (memOnly_poison _ _ _ _).regs f i hf), rd_putLines _ _ _ _ hf, hm]

theorem rd_restoreTile (t a : Nat) {f : Fld} (hf : f ∉ memFlds) : rd (restoreTile d t a) f i = rd d f i := by
  unfold restoreTile
  dsimp only
  rw [rd_foldl, rd_foldl (fun _ _ => rd_restoreLine _ _ _ _ hf)]
  intro d x
  split
  · rfl
  · rfl

/-- A register of a queue, not a partition's BUSY. -/
theorem rd_busy_wr {f : Fld} (j v : Nat) (hf : f ≠ .partStatusBusy) : rd (wr d f j v) .partStatusBusy i = rd d .partStatusBusy i :=
  rd_wr_ne d v rfl (.inl hf.symm)

theorem rd_busy_restoreRing (x : Nat) : rd (restoreRing d p x) .partStatusBusy i = rd d .partStatusBusy i := by
  unfold restoreRing bump
  dsimp only
  split
  · simp (disch := decide) only [rd_busy_wr]
  · simp (disch := decide) only [rd_busy_wr]

theorem rd_busy_restoreCq (x : Nat) : rd (restoreCq d p x) .partStatusBusy i = rd d .partStatusBusy i := by
  unfold restoreCq bump
  simp (disch := decide) only [rd_onHl, rd_busy_wr]

theorem rd_busy_restoreEq (x : Nat) : rd (restoreEq d p x) .partStatusBusy i = rd d .partStatusBusy i := by
  unfold restoreEq bump
  simp (disch := decide) only [rd_busy_wr]

theorem rd_busy_restoreTile (t a : Nat) : rd (restoreTile d t a) .partStatusBusy i = rd d .partStatusBusy i :=
  rd_restoreTile d i t a (by decide)

theorem rd_busy_restoreTiles (a : Nat × Nat → Nat) (l : List (Nat × Nat)) :
    rd (l.foldl (fun d x => restoreTile d x.1 (a x)) d) .partStatusBusy i = rd d .partStatusBusy i := by
  refine rd_foldl (fun d x => ?_) l d
  exact rd_busy_restoreTile ..

theorem rd_busy_restoreImage : rd (restoreImage d p) .partStatusBusy i = rd d .partStatusBusy i := by
  unfold restoreImage
  dsimp only
  rw [rd_busy_wr _ _ _ _ (by decide), rd_busy_wr _ _ _ _ (by decide), rd_foldl fun d x => rd_busy_restoreEq d p i x,
    rd_foldl fun d x => rd_busy_restoreCq d p i x, rd_foldl fun d x => rd_busy_restoreRing d p i x,
    rd_busy_restoreTiles]

end

section
variable {d : Dev} {p : Nat}

theorem restoreDone_eq (d : Dev) (p : Nat) : restoreDone d p =
    if !imageSound d p then partResult (restoreOver d p) p 0xEB
    else if !imageFits d p then partResult (restoreOver d p) p 0xEA
    else partResult (restoreImage (restoreOver d p) p) p 0 := by
  rw [← imageSound_restoreOver, ← imageFits_restoreOver]
  rfl

theorem restoreDone_unsound (h : imageSound d p = false) : restoreDone d p = partResult (restoreOver d p) p 0xEB := by
  rw [restoreDone_eq, h]
  rfl

variable (h : imageSound d p = true)
include h

theorem restoreDone_misfit (hf : imageFits d p = false) : restoreDone d p = partResult (restoreOver d p) p 0xEA := by
  rw [restoreDone_eq, h, hf]
  rfl

theorem restoreDone_restores (hf : imageFits d p = true) : restoreDone d p = partResult (restoreImage (restoreOver d p) p) p 0 := by
  rw [restoreDone_eq, h, hf]
  rfl

end

theorem partResult_idle {d : Dev} {p : Nat} (c : Nat) (h : isSet d .partStatusBusy p = false) :
    isSet (partResult d p c) .partStatusBusy p = false := by
  rw [isSet, rd_partResult_ne _ _ _ _ rfl (by decide)]
  exact h

/-- Whatever a RESTORE finds, it ends: with 0xEB or 0xEA and memory as it was, or with the image restored. -/
theorem restoreDone_spec (d : Dev) (p : Nat) : isSet (restoreDone d p) .partStatusBusy p = false ∧
    (imageSound d p = false → rd (restoreDone d p) .partStatusResult p = 0xEB ∧ (restoreDone d p).mem = d.mem) ∧
    (imageSound d p = true → imageFits d p = false → rd (restoreDone d p) .partStatusResult p = 0xEA ∧ (restoreDone d p).mem = d.mem) ∧
    (imageSound d p = true → imageFits d p = true → rd (restoreDone d p) .partStatusResult p = 0 ∧
      ∃ d', restoreDone d p = partResult (restoreImage d' p) p 0 ∧ onlyRegs { d with parts := d'.parts } d' [(.partStatusBusy, p)]) := by
  have hmem : ∀ c, (partResult (restoreOver d p) p c).mem = d.mem := fun c => (wr_mem ..).trans (restoreOver_mem d p)
  refine ⟨?_, fun hs => ?_, fun hs hf => ?_, fun hs hf => ?_⟩
  · have hi : isSet (restoreImage (restoreOver d p) p) .partStatusBusy p = false := by
      rw [isSet, rd_busy_restoreImage]
      exact restoreOver_idle d p
    rw [restoreDone_eq]
    split
    · exact partResult_idle _ (restoreOver_idle d p)
    · split
      · exact partResult_idle _ (restoreOver_idle d p)
      · exact partResult_idle _ hi
  · rw [restoreDone_unsound hs]
    exact ⟨rd_partResult _ _ (by decide), hmem _⟩
  · rw [restoreDone_misfit hs hf]
    exact ⟨rd_partResult _ _ (by decide), hmem _⟩
  · rw [restoreDone_restores hs hf]
    exact ⟨rd_partResult _ _ (by decide), _, rfl, onlyRegs_restoreOver d p⟩

/-! ### Seals (R439, R449) -/

theorem eligible_congr {d e : Dev} (hs : ∀ o, isSet e .yewSealStatusSealed o = isSet d .yewSealStatusSealed o)
    (hm : ∀ o, rd e .partSealCfgHedge o = rd d .partSealCfgHedge o) (hf : e.mem.hedgeFailed = d.mem.hedgeFailed) (p : Nat) :
    eligible e p = eligible d p := by
  simp only [eligible, hs, hm, hf]

/-- An entry that stays in a slice is in one that its partition may use (R211). -/
theorem mem_tlb_dropIneligible {d : Dev} {x : TlbEntry} (h : x ∈ (dropIneligible d).xl.tlb) : x ∈ d.xl.tlb ∧
    ∀ q, x.part < 64 → x.cache = .sliceLeaf q ∨ x.cache = .sliceTable q → (eligible d x.part).contains q = true := by
  obtain ⟨hx, hstay⟩ := List.mem_filter.1 h
  refine ⟨hx, fun q hp hc => ?_⟩
  have hget : ((List.range 64).map (eligible d)).getD x.part [] = eligible d x.part := by
    simp [List.getD_eq_getElem?_getD, List.getElem?_range hp]
  rcases hc with hc | hc
  · simpa only [hc, hget] using hstay
  · simpa only [hc, hget] using hstay

/-- The bits of a seal, before translations leave their slices. -/
def sealBits (d : Dev) (p v : Nat) : Dev := wr (wr (wr d .yewSealStatusSealed p v) .partStatusSealed p v) .yewSealStatusLost p 0

/-- What SEAL (1) and UNSEAL (0) leave: the partition's bits, and translations in eligible slices only. -/
theorem sealed_spec (d : Dev) (p : Nat) {v : Nat} (hv : v < 2) :
    let e := partResult (setSealed d p v) p 0
    rd e .partStatusResult p = 0 ∧ rd e .yewSealStatusSealed p = v ∧ rd e .partStatusSealed p = v ∧ rd e .yewSealStatusLost p = 0 ∧
    (∀ x ∈ e.xl.tlb, x ∈ d.xl.tlb ∧
      ∀ q, x.part < 64 → x.cache = .sliceLeaf q ∨ x.cache = .sliceTable q → (eligible e x.part).contains q = true) ∧
    onlyRegs { d with xl := { d.xl with tlb := e.xl.tlb } } e
      [(.partStatusResult, p), (.yewSealStatusSealed, p), (.partStatusSealed, p), (.yewSealStatusLost, p)] := by
  intro e
  have hsb : onlyRegs d (sealBits d p v) [(.partStatusResult, p), (.yewSealStatusSealed, p), (.partStatusSealed, p), (.yewSealStatusLost, p)] :=
    onlyRegs_wr (onlyRegs_wr (onlyRegs_wr (onlyRegs_refl d _) (by simp)) (by simp)) (by simp)
  have hxl : (sealBits d p v).xl = d.xl := by simp only [sealBits, wr_xl]
  have hex : e.xl = (dropIneligible (sealBits d p v)).xl := wr_xl ..
  have hrd : ∀ {f : Fld}, .partStatusResult ∉ votedWith f → ∀ i, rd e f i = rd (sealBits d p v) f i := fun hf i => rd_wr_other _ _ (.inl hf)
  have hval : v % 2 = v := Nat.mod_eq_of_lt hv
  refine ⟨rd_partResult _ _ (by decide), ?_, ?_, ?_, fun x hx => ?_, ?_⟩
  · rw [hrd (by decide), sealBits, rd_wr_ne _ _ rfl (.inl (by decide)), rd_wr_ne _ _ rfl (.inl (by decide)), rd_wr_self _ _ _ _ rfl]
    exact hval
  · rw [hrd (by decide), sealBits, rd_wr_ne _ _ rfl (.inl (by decide)), rd_wr_self _ _ _ _ rfl]
    exact hval
  · rw [hrd (by decide), sealBits, rd_wr_self _ _ _ _ rfl]
    rfl
  · rw [hex] at hx
    obtain ⟨hmem, helig⟩ := mem_tlb_dropIneligible hx
    have hq : eligible e x.part = eligible (sealBits d p v) x.part :=
      eligible_congr (fun o => congrArg (· == 1) (hrd (by decide) o)) (hrd (by decide)) (congrArg MemSt.hedgeFailed (wr_mem ..)) _
    rw [hq, ← hxl]
    exact ⟨hmem, helig⟩
  · have hb : { d.xl with tlb := e.xl.tlb } = (dropIneligible (sealBits d p v)).xl := by
      rw [hex, ← hxl]
      rfl
    rw [hb]
    exact onlyRegs_wr (onlyRegs_onXl hsb _) (.head _)

section
variable {d : Dev} {p : Nat}

theorem sealGo_busy (hb : isSet d .partStatusBusy p = true) : sealGo d p = d := if_pos hb
theorem unsealGo_busy (hb : isSet d .partStatusBusy p = true) : unsealGo d p = d := if_pos hb

variable (hb : isSet d .partStatusBusy p = false)
include hb

theorem sealGo_first (h0 : p = 0) : sealGo d p = partResult d p 0xEA := (if_neg (by simp [hb])).trans (if_pos h0)

theorem sealGo_refused (h0 : p ≠ 0) (h : false ∈ sealConds d p) : sealGo d p = partResult d p 0x88 :=
  (if_neg (by simp [hb])).trans ((if_neg h0).trans (if_neg (by simpa using h)))

theorem sealGo_seals (h0 : p ≠ 0) (h : false ∉ sealConds d p) : sealGo d p = partResult (setSealed d p 1) p 0 :=
  (if_neg (by simp [hb])).trans ((if_neg h0).trans (if_pos (by simpa using h)))

theorem unsealGo_unseals : unsealGo d p = partResult (setSealed d p 0) p 0 := if_neg (by simp [hb])

end

/-! ### The obligation -/

section
variable {s : State} {p : Nat} (hp : p < partitions) (ht : takesDriver s.dev)
include hp ht

theorem answers_freeze : Answers (.freeze p) s (freezeGo s.dev p) := answers_drv (n := "FREEZE") rfl (decide_eq_true hp) ht
theorem answers_save : Answers (.save p) s (saveGo s.dev p) := answers_drv (n := "SAVE") rfl (decide_eq_true hp) ht
theorem answers_restore : Answers (.restore p) s (restoreGo s.dev p) := answers_drv (n := "RESTORE") rfl (decide_eq_true hp) ht
theorem answers_thaw : Answers (.thaw p) s (thawGo s.dev p) := answers_drv (n := "THAW") rfl (decide_eq_true hp) ht
theorem answers_sealPartition : Answers (.sealPartition p) s (sealGo s.dev p) := answers_drv (n := "SEAL") rfl (decide_eq_true hp) ht
theorem answers_unsealPartition : Answers (.unsealPartition p) s (unsealGo s.dev p) := answers_drv (n := "UNSEAL") rfl (decide_eq_true hp) ht

end

theorem busyWith_of {d : Dev} {p : Nat} {restore : Bool} (hp : p < partitions) (hb : isSet d .partStatusBusy p = true)
    (hr : d.parts.restoring.contains p = restore) : busyWith d p restore = true := by
  simp only [busyWith, hp, hb, hr, decide_true, Bool.and_self, beq_self_eq_true]

/-- Settles O53: each command by the partition's state, quiescing by what completions leave, seals by the bits they set. -/
theorem freezeSaveSeal : Obligations.FreezeSaveSeal := by
  refine ⟨fun s p c hc hp ht => ?_, fun s p hp hs => ⟨fun hn => ?_, fun hr => ?_⟩, fun s p hp hb => ⟨fun hr => ?_, fun hr => ?_⟩,
    fun s p hp ht => ⟨?_, ?_⟩⟩
  · simp only [List.mem_cons, List.not_mem_nil, or_false] at hc
    rcases hc with rfl | rfl | rfl | rfl
    · refine ⟨_, answers_freeze hp ht, freezeGo_busy, fun hb => ⟨fun _ h => refused_of_eq_partResult (freezeGo_refused hb h) (by decide),
        fun _ h0 hst => ?_, fun h => absurd rfl h, ?_, nofun, nofun, nofun⟩⟩
      · rw [freezeGo_starts hb h0 hst]
        exact partQuiesces _ _
      · rintro (⟨h, -⟩ | ⟨h, -⟩)
        · cases h
        · cases h
    · refine ⟨_, answers_save hp ht, saveGo_busy, fun hb => ⟨nofun, nofun,
        fun _ hst => refused_of_eq_partResult (saveGo_refused hb (.inl hst)) (by decide), ?_, fun _ hst h => ?_, nofun, nofun⟩⟩
      · rintro (⟨h, -⟩ | ⟨-, h⟩)
        · cases h
        · exact refused_of_eq_partResult (saveGo_refused hb (.inr h)) (by decide)
      · rw [saveGo_starts hb hst h]
        exact partBusy_set _ _
    · refine ⟨_, answers_restore hp ht, restoreGo_busy, fun hb => ⟨nofun, nofun,
        fun _ hst => refused_of_eq_partResult (restoreGo_refused hb (.inr hst)) (by decide), ?_, nofun, fun _ h0 hst => ?_, nofun⟩⟩
      · rintro (⟨-, h⟩ | ⟨h, -⟩)
        · exact refused_of_eq_partResult (restoreGo_refused hb (.inl h)) (by decide)
        · cases h
      · obtain ⟨hset, hframe⟩ := partBusy_set s.dev p
        rw [restoreGo_starts hb h0 hst]
        exact ⟨hset, congrArg (fun b : PartSt => p :: b.restoring) (wr_parts ..), onlyRegs_onParts hframe _⟩
    · refine ⟨_, answers_thaw hp ht, thawGo_busy, fun hb => ⟨nofun, nofun,
        fun _ hst => refused_of_eq_partResult (thawGo_refused hb hst) (by decide), ?_, nofun, nofun, fun _ hst => ⟨_, rfl, thawGo_runs hb hst⟩⟩⟩
      rintro (⟨h, -⟩ | ⟨h, -⟩)
      · cases h
      · cases h
  · have hne : (notStarted s.dev p).isEmpty = false := by simpa using hn
    exact ⟨_, answers_act (n := "FREEZE_TIMEOUT") rfl (by simp [hp, hs, hne]), freezeCut_spec s.dev p⟩
  · obtain ⟨hstate, hitems, hjournals⟩ := frozenEffect_spec s.dev p
    refine ⟨_, answers_act (n := "PARTITION_FROZEN") rfl (by simp [hp, hs, hr]), hstate, hitems, hjournals, fun hi hc hq hti => ?_⟩
    rw [frozenEffect_nothing hi hc hq hti]
    exact onlyRegs_wr (onlyRegs_refl _ _) (.head _)
  · refine ⟨_, answers_act (n := "SAVE_DONE") rfl (busyWith_of hp hb hr), partResult_idle _ ?_, rd_partResult _ _ (by decide), rfl⟩
    rw [isSet, rd_wr_self _ _ _ _ rfl]
    rfl
  · exact ⟨_, answers_act (n := "RESTORE_DONE") rfl (busyWith_of hp hb hr), restoreDone_spec s.dev p⟩
  · refine ⟨_, answers_sealPartition hp ht, sealGo_busy, fun hb => ⟨
      fun h0 => refused_of_eq_partResult (sealGo_first hb h0) (by decide),
      fun h0 h => refused_of_eq_partResult (sealGo_refused hb h0 h) (by decide), fun h0 h => ?_⟩⟩
    obtain ⟨hres, hsealed, hstatus, hlost, hslices, hframe⟩ := sealed_spec s.dev p (v := 1) (by decide)
    rw [sealGo_seals hb h0 h]
    exact ⟨hres, beq_iff_eq.2 hsealed, beq_iff_eq.2 hstatus, by rw [isSet, hlost]; rfl, hslices, hframe⟩
  · refine ⟨_, answers_unsealPartition hp ht, unsealGo_busy, fun hb => ?_⟩
    obtain ⟨hres, hsealed, hstatus, -, hslices, hframe⟩ := sealed_spec s.dev p (v := 0) (by decide)
    rw [unsealGo_unseals hb]
    exact ⟨hres, by rw [sealedNow, isSet, hsealed]; rfl, by rw [isSet, hstatus]; rfl, hslices, hframe⟩

end Sys2Proof.Machine
end

section
/-!
Delivery of queue entries (R245, R250, R252), the fetch procedure and its schedule (R241 to R243), and O11, O16 and O17.
-/
namespace Sys2Proof.Machine

/-! ### Delivery (R245, R250, R252) -/

theorem deliverN_none {d : Dev} (h : d.hl.entries = []) (n : Nat) : deliverN n d = d := by
  cases n with
  | zero => rfl
  | succ n => simp only [deliverN, h]

/-- What the queue an entry is for does with it: the device, and whether the entry is done with. -/
def handOver (d : Dev) (q : QEntry) : Dev × Bool := if q.toEq then eqDeliver d q.num q.entry else cqDeliver d q.num q.entry q.op

theorem deliverN_handOver {d e : Dev} {q : QEntry} {t : List QEntry} (hq : d.hl.entries = q :: t) (hs : entryStalled d q = false)
    (hr : handOver (onHl d fun h => { h with entries := t }) q = (e, true)) (n : Nat) : deliverN (n + 1) d = deliverN n e := by
  simp only [deliverN, hq, hs, Bool.false_eq_true, if_false]
  rw [← handOver, hr]
  rfl

/-- The only entry on its way leaves the list when its queue takes or discards it. -/
theorem deliver_one {d e : Dev} {q : QEntry} (hq : d.hl.entries = [q]) (hs : entryStalled d q = false)
    (hr : handOver (onHl d fun h => { h with entries := [] }) q = (e, true)) (he : e.hl.entries = []) : deliver d = e := by
  rw [deliver, hq]
  exact (deliverN_handOver hq hs hr 19).trans (deliverN_none he 19)

theorem eqDeliver_stopped {d : Dev} {n : Nat} (x : Entry) (h : rd d .eqState n ≠ 1) : eqDeliver d n x = (bump d .eqLost n, true) :=
  if_pos (bne_iff_ne.2 h)

theorem cqDeliver_stopped {d : Dev} {n : Nat} (x : Entry) (op : Writer) (h : rd d .cqState n ≠ 1) :
    cqDeliver d n x op = (bump d .cqLost n, true) :=
  if_pos (bne_iff_ne.2 h)

theorem bump_hl (d : Dev) (f : Fld) (i n : Nat) : (bump d f i n).hl = d.hl := wr_hl ..

/-- A CQ that stops is in STATE 2 with its cause, its entry counted lost. -/
theorem cqStop_spec (d : Dev) (c : Nat) {cause : Nat} (hc : cause < 256) : rd (cqStop d c cause) .cqState c = 2 ∧
    rd (cqStop d c cause) .cqLastCause c = cause ∧ rd (cqStop d c cause) .cqLost c = (rd d .cqLost c + 1) % 2 ^ 32 := by
  refine ⟨?_, ?_, ?_⟩
  · rw [cqStop, rd_postEq, bump, rd_wr_ne _ _ rfl (.inl (by decide)), rd_wr_ne _ _ rfl (.inl (by decide)), rd_wr_self _ _ _ _ rfl]
    rfl
  · rw [cqStop, rd_postEq, bump, rd_wr_ne _ _ rfl (.inl (by decide)), rd_wr_self _ _ _ _ rfl]
    exact Nat.mod_eq_of_lt hc
  · rw [cqStop, rd_postEq, rd_bump_self _ _ _ _ rfl, rd_wr_ne _ _ rfl (.inl (by decide)), rd_wr_ne _ _ rfl (.inl (by decide))]
    rfl

theorem cqDeliver_full {d : Dev} {c : Nat} (x : Entry) (op : Writer) (hs : rd d .cqState c = 1)
    (hf : (rd d .cqProducer c + 2 ^ 32 - rd d .cqConsumer c) % 2 ^ 32 = 2 ^ rd d .cqLog2Size c) :
    cqDeliver d c x op = (cqStop d c 0xE0, true) :=
  (if_neg (by simp [hs])).trans (if_pos hf)

/-- Settles O11: an entry for a queue that is not running is counted and gone; a full completion queue stops. -/
theorem deliveryRules : Obligations.DeliveryRules := by
  refine ⟨fun d h => deliver_none h, fun d q hq hs ht hn => ?_, fun d q hq hs ht hn => ?_, fun d c x op hs hf => ?_⟩
  · exact deliver_one hq hs ((if_pos ht).trans (eqDeliver_stopped _ hn)) (congrArg HlSt.entries (bump_hl ..))
  · exact deliver_one hq hs ((if_neg (by simp [ht])).trans (cqDeliver_stopped _ _ hn)) (congrArg HlSt.entries (bump_hl ..))
  · obtain ⟨hstate, hcause, hlost⟩ := cqStop_spec d c (cause := 0xE0) (by decide)
    rw [cqDeliver_full x op hs hf]
    exact ⟨hstate, hcause, hlost, rfl⟩

/-! ### The fetch procedure (R241, R242) -/

section
variable {F : Fetch} {d d' : Dev} (n w : Nat)

theorem fetchRun_bad {c : Nat} (hr : F.read d (F.head d) = (d', .bad c)) : fetchRun F (n + 1) w d = F.onBad (setSleep d' F.id none) c := by
  rw [fetchRun]
  simp only [hr]

/-- What a pass does with a slot that was read: take it, or go by what is announced and how long the queue has slept. -/
theorem fetchRun_got {x : Desc} (hr : F.read d (F.head d) = (d', .got x)) : fetchRun F (n + 1) w d =
    if fieldAt x 0 0 1 = phaseAt (F.head d) (F.log2 d') then fetchRun F n 64 (F.setHead (F.accept d' (F.head d) x) ((F.head d + 1) % 2 ^ 32))
    else if announced (F.hint d') (F.head d) = false then F.running (setSleep d' F.id none)
    else if 16384 < w then bump (F.parked (setSleep d' F.id none)) .hlParks
    else setSleep d' F.id (some w) := by
  rw [fetchRun]
  simp only [hr, Bool.not_eq_true']

end

/-- Settles O16, by the branches of one pass. -/
theorem fetchProcedure : Obligations.FetchProcedure := by
  refine fun F n w d d' => ⟨fun x hr => ?_, fun c hr => fetchRun_bad n w hr⟩
  rw [fetchRun_got n w hr]
  exact ⟨fun hp => if_pos hp, fun hp ha => (if_neg hp).trans (if_pos ha),
    fun hp ha hw => (if_neg hp).trans ((if_neg (by simp [ha])).trans (if_neg (Nat.not_lt.2 hw))),
    fun hp ha hw => (if_neg hp).trans ((if_neg (by simp [ha])).trans (if_pos hw))⟩

/-! ### Back-off (R242, R243) -/

/-- A sleeping queue is fetched again at its next interval. -/
theorem answers_queueRefetch {s : State} {q : QueueId} {w : Nat} (hr : inRun s.dev = true) (hw : sleeps s.dev q = some w) :
    Answers (.queueRefetch q) s (refetch s.dev q (nextSleep w)) := by
  have h := answers_act (c := .queueRefetch q) (s := s) (n := "QUEUE_REFETCH") (b := inRun s.dev && (sleeps s.dev q).isSome) rfl (by simp [hr, hw])
  rwa [hw] at h

/-- A ring that this row wakes is not between turns. -/
theorem le_of_sleeps_ring {d : Dev} {r w : Nat} (h : sleeps d (.ring r) = some w) : 64 ≤ w :=
  of_decide_eq_true (Option.filter_eq_some_iff.1 h).2

/-- Settles O17: each kind of queue goes on by its own fetch. -/
theorem queueRefetch : Obligations.QueueRefetch := by
  intro s q w hr hw
  refine ⟨_, answers_queueRefetch hr hw, ?_, ?_, ?_, ?_, ?_, ?_⟩
  · rintro r rfl
    exact ⟨le_of_sleeps_ring hw, rfl⟩
  · rintro rfl
    rfl
  · rintro n rfl
    rfl
  · rintro n rfl
    rfl
  · rintro p rfl
    rfl
  · rintro b rfl
    rfl

end Sys2Proof.Machine
end

section
/-!
Doorbells that are discarded (R239, R240, R545), and O14.
-/
namespace Sys2Proof.Machine

/-- A doorbell that is not 8 bytes wide or has a reserved bit set is refused, whoever owns the queue. -/
theorem dbRefused_malformed {width val top : Nat} (owned : Bool) (h : width ≠ 8 ∨ 2 ^ top ≤ val) : dbRefused width val top owned = true := by
  unfold dbRefused
  rcases h with h | h
  · simp [h]
  · have hbits : val >>> top ≠ 0 := by
      rw [Nat.shiftRight_eq_div_pow]
      exact (Nat.div_pos h (Nat.two_pow_pos top)).ne'
    simp [hbits]

/-- A discarded doorbell wakes the Laurel die and counts in DB_DISCARDS of its window. -/
def doorbellDropped (d : Dev) (win : Nat) : Dev := bump (wake d .laurel) .pwinDbDiscards win

theorem doorbellDropped_spec (d : Dev) (win : Nat) :
    rd (doorbellDropped d win) .pwinDbDiscards win = (rd d .pwinDbDiscards win + 1) % 2 ^ 32 ∧
    onlyRegs (wake d .laurel) (doorbellDropped d win) [(.pwinDbDiscards, win)] := by
  refine ⟨?_, onlyRegs_bump (onlyRegs_refl _ _) (.head _)⟩
  rw [doorbellDropped, rd_bump_self _ _ _ _ rfl, rd_wake]
  rfl

section
variable (d : Dev) (win : Nat) {width val : Nat}

theorem ringDbEffect_malformed (h : width ≠ 8 ∨ 2 ^ 44 ≤ val) : ringDoorbellEffect d win width val = doorbellDropped d win :=
  if_pos (dbRefused_malformed _ h)

theorem collDbEffect_malformed (h : width ≠ 8 ∨ 2 ^ 32 ≤ val) : collDbEffect d win width val = doorbellDropped d win :=
  if_pos (dbRefused_malformed _ h)

theorem cqDbEffect_malformed (h : width ≠ 8 ∨ 2 ^ 47 ≤ val) : cqDbEffect d win width val = doorbellDropped d win :=
  if_pos (dbRefused_malformed _ h)

theorem eqDbEffect_malformed (h : width ≠ 8 ∨ 2 ^ 41 ≤ val) : eqDbEffect d win width val = doorbellDropped d win :=
  if_pos (dbRefused_malformed _ h)

end

/-! ### The commands, with ARM and without -/

section
variable {s : State} {win : Nat} (hw : win < 64) (ht : takesDriver s.dev) (width val : Nat)
include hw ht

theorem answers_cqDb {c : Instr} (hc : c ∈ [Instr.cqDoorbell win width val, .cqArm win width val])
    (ha : c = .cqArm win width val ↔ bitOf val 46 = true) : Answers c s (cqDbEffect s.dev win width val) := by
  simp only [List.mem_cons, List.not_mem_nil, or_false] at hc
  rcases hc with rfl | rfl
  · exact answers_drv (n := "CQ_DOORBELL") rfl (by simpa [hw] using ha) ht
  · exact answers_drv (n := "CQ_ARM") rfl (by simpa [hw] using ha) ht

theorem answers_eqDb {c : Instr} (hc : c ∈ [Instr.eqDoorbell win width val, .eqArm win width val])
    (ha : c = .eqArm win width val ↔ bitOf val 40 = true) : Answers c s (eqDbEffect s.dev win width val) := by
  simp only [List.mem_cons, List.not_mem_nil, or_false] at hc
  rcases hc with rfl | rfl
  · exact answers_drv (n := "EQ_DOORBELL") rfl (by simpa [hw] using ha) ht
  · exact answers_drv (n := "EQ_ARM") rfl (by simpa [hw] using ha) ht

end

/-- Settles O14: every doorbell that is malformed leaves the device the same. -/
theorem doorbellsDiscarded : Obligations.DoorbellsDiscarded := by
  intro s win width val hw ht
  have hd := doorbellDropped_spec s.dev win
  refine ⟨fun h => ⟨_, answers_drv (n := "RING_DOORBELL") rfl (decide_eq_true hw) ht, ?_⟩,
    fun h => ⟨_, answers_drv (n := "COLL_DOORBELL") rfl (decide_eq_true hw) ht, ?_⟩,
    fun c hc h ha => ⟨_, answers_cqDb hw ht width val hc ha, ?_⟩, fun c hc h ha => ⟨_, answers_eqDb hw ht width val hc ha, ?_⟩⟩
  · rwa [ringDbEffect_malformed _ _ h]
  · rwa [collDbEffect_malformed _ _ h]
  · rwa [cqDbEffect_malformed _ _ h]
  · rwa [eqDbEffect_malformed _ _ h]

end Sys2Proof.Machine
end

section
/-!
The registers that completion and event queues have alike; their doorbells, enables, disables and interrupts (R239, R240, R248 to
R253), and O42.
-/
namespace Sys2Proof.Machine

/-! ### The registers of a queue -/

/-- The registers a completion queue and an event queue have alike: those of the queue, the count of its partition, and the doorbell of
a window. -/
structure QueueFlds where
  enable : Fld
  state : Fld
  producer : Fld
  consumer : Fld
  lost : Fld
  armed : Fld
  owner : Fld
  count : Fld
  dbIndex : Fld
  dbQueue : Fld
  dbArm : Fld

def cqFlds : QueueFlds where
  enable := .cqEnable
  state := .cqState
  producer := .cqProducer
  consumer := .cqConsumer
  lost := .cqLost
  armed := .cqArmed
  owner := .cqPartition
  count := .partCountCqs
  dbIndex := .pwinCqDbIndex
  dbQueue := .pwinCqDbCq
  dbArm := .pwinCqDbArm

def eqFlds : QueueFlds where
  enable := .eqEnable
  state := .eqState
  producer := .eqProducer
  consumer := .eqConsumer
  lost := .eqLost
  armed := .eqArmed
  owner := .eqPartition
  count := .partCountEqs
  dbIndex := .pwinEqDbIndex
  dbQueue := .pwinEqDbEq
  dbArm := .pwinEqDbArm

namespace QueueFlds
variable (q : QueueFlds)

/-- The registers are plain, those of the queue differ from each other, those of its doorbell too, and they have the widths of the register
tables. -/
structure Sound : Prop where
  plain : ∀ f ∈ [q.enable, q.state, q.producer, q.consumer, q.lost, q.armed, q.count, q.dbIndex, q.dbQueue, q.dbArm], f.info.voted = false
  runNodup : [q.enable, q.state, q.count, q.producer, q.consumer, q.lost].Nodup
  bellNodup : [q.dbIndex, q.dbQueue, q.dbArm, q.consumer, q.armed].Nodup
  flagWidth : q.enable.info.width = 1 ∧ q.armed.info.width = 1
  stateWidth : q.state.info.width = 2
  indexWidth : q.consumer.info.width = 32 ∧ q.dbIndex.info.width = 32

theorem sound_cqFlds : cqFlds.Sound := ⟨by decide, by decide, by decide, by decide, by decide, by decide⟩
theorem sound_eqFlds : eqFlds.Sound := ⟨by decide, by decide, by decide, by decide, by decide, by decide⟩

/-! ### Enables and disables (R249, R251) -/

/-- A granted queue: in STATE 1, counted for its partition, its indices and its count of lost entries at 0. -/
def granted (d : Dev) (n : Nat) : Dev :=
  wr (wr (wr (bump (wr (wr d q.enable n 1) q.state n 1) q.count (rd d q.owner n)) q.producer n 0) q.consumer n 0) q.lost n 0

/-- A disabled queue: in STATE 0, and no more counted for its partition. -/
def disabled (d : Dev) (n : Nat) : Dev :=
  let e := if rd d q.state n ≠ 0 ∧ voteHolds d q.owner n then drop1 d q.count (rd d q.owner n) else d
  wr (wr e q.enable n 0) q.state n 0

variable {q}

theorem Sound.granted_spec (h : q.Sound) (d : Dev) (n : Nat) :
    rd (q.granted d n) q.enable n = 1 ∧ rd (q.granted d n) q.state n = 1 ∧ rd (q.granted d n) q.producer n = 0 ∧
    rd (q.granted d n) q.consumer n = 0 ∧ rd (q.granted d n) q.lost n = 0 ∧
    rd (q.granted d n) q.count (rd d q.owner n) = (rd d q.count (rd d q.owner n) + 1) % 2 ^ q.count.info.width ∧
    onlyRegs d (q.granted d n) [(q.enable, n), (q.state, n), (q.count, rd d q.owner n), (q.producer, n), (q.consumer, n), (q.lost, n)] := by
  obtain ⟨hp, hn, -, ⟨hen, -⟩, hst, -⟩ := h
  have hplain {f : Fld} (hf : f ∈ [q.enable, q.state, q.count, q.producer, q.consumer, q.lost]) : f.info.voted = false := hp f (by
    simp only [List.mem_cons, List.not_mem_nil, or_false] at hf ⊢
    tauto)
  simp only [List.nodup_cons, List.mem_cons, not_or, List.not_mem_nil, not_false_eq_true] at hn
  obtain ⟨⟨-, hec, -⟩, ⟨hsc, -⟩, -⟩ := id hn
  unfold granted bump
  refine ⟨?_, ?_, ?_, ?_, ?_, ?_, onlyRegs_wr (onlyRegs_wr (onlyRegs_wr (onlyRegs_wr (onlyRegs_wr (onlyRegs_wr (onlyRegs_refl d _)
    (by simp)) (by simp)) (by simp)) (by simp)) (by simp)) (by simp)⟩
  · simp [rd_wr _ _ _ _ (hplain (f := q.enable) (by simp)), hn, hen]
  · simp [rd_wr _ _ _ _ (hplain (f := q.state) (by simp)), hn, hst]
  · simp [rd_wr _ _ _ _ (hplain (f := q.producer) (by simp)), hn]
  · simp [rd_wr _ _ _ _ (hplain (f := q.consumer) (by simp)), hn]
  · simp [rd_wr _ _ _ _ (hplain (f := q.lost) (by simp))]
  · simp [rd_wr _ _ _ _ (hplain (f := q.count) (by simp)), hn, Ne.symm hec, Ne.symm hsc]

theorem Sound.disabled_spec (h : q.Sound) (d : Dev) (n : Nat) : rd (q.disabled d n) q.enable n = 0 ∧ rd (q.disabled d n) q.state n = 0 ∧
    onlyRegs d (q.disabled d n) [(q.enable, n), (q.state, n), (q.count, rd d q.owner n)] := by
  have hen : q.enable.info.voted = false := h.plain _ (by simp)
  have hne : q.enable ≠ q.state := List.ne_of_not_mem_cons (List.nodup_cons.1 h.runNodup).1
  unfold disabled
  refine ⟨?_, ?_, onlyRegs_wr (onlyRegs_wr ?_ (by simp)) (by simp)⟩
  · rw [rd_wr_ne _ _ hen (.inl hne), rd_wr_self _ _ _ _ hen, Nat.zero_mod]
  · rw [rd_wr_self _ _ _ _ (h.plain _ (by simp)), Nat.zero_mod]
  · split
    · exact onlyRegs_wr (onlyRegs_refl d _) (by simp)
    · exact onlyRegs_refl d _

/-! ### Doorbells (R240, R250, R253) -/

variable (q) in
/-- A doorbell of queue `n` with index `i` and ARM bit `a`: its window holds it, and the queue's consumer index moves. -/
def rung (d : Dev) (win n i a : Nat) : Dev := wr (wr (wr (wr d q.dbIndex win i) q.dbQueue win n) q.dbArm win a) q.consumer n i

theorem Sound.rung_spec (h : q.Sound) (d : Dev) (win a : Nat) {n i : Nat} (hn : n < 2 ^ q.dbQueue.info.width) (hi : i < 2 ^ 32) :
    rd (q.rung d win n i a) q.consumer n = i ∧ rd (q.rung d win n i a) q.dbIndex win = i ∧ rd (q.rung d win n i a) q.dbQueue win = n ∧
    onlyRegs d (q.rung d win n i a) [(q.consumer, n), (q.dbIndex, win), (q.dbQueue, win), (q.dbArm, win)] := by
  obtain ⟨hp, -, hb, -, -, hco, hix⟩ := h
  simp only [List.nodup_cons, List.mem_cons, not_or, List.not_mem_nil, not_false_eq_true] at hb
  unfold rung
  refine ⟨?_, ?_, ?_, onlyRegs_wr (onlyRegs_wr (onlyRegs_wr (onlyRegs_wr (onlyRegs_refl d _) (by simp)) (by simp)) (by simp)) (by simp)⟩
  · rw [rd_wr_self _ _ _ _ (hp _ (by simp)), hco, Nat.mod_eq_of_lt hi]
  · simpa [rd_wr _ _ _ _ (hp q.dbIndex (by simp)), hb, hix] using hi
  · simp [rd_wr _ _ _ _ (hp q.dbQueue (by simp)), hb, Nat.mod_eq_of_lt hn]

/-- Arming a queue after its doorbell writes ARMED beside what the doorbell wrote. -/
theorem Sound.armed_spec (h : q.Sound) (d : Dev) (win a : Nat) {n i : Nat} (hi : i < 2 ^ 32) :
    rd (wr (q.rung d win n i a) q.armed n 1) q.consumer n = i ∧ rd (wr (q.rung d win n i a) q.armed n 1) q.armed n = 1 ∧
    onlyRegs d (wr (q.rung d win n i a) q.armed n 1)
      [(q.consumer, n), (q.armed, n), (q.dbIndex, win), (q.dbQueue, win), (q.dbArm, win)] := by
  obtain ⟨hp, -, hb, ⟨-, har⟩, -, hco, -⟩ := h
  simp only [List.nodup_cons, List.mem_cons, not_or, List.not_mem_nil, not_false_eq_true] at hb
  unfold rung
  refine ⟨?_, ?_, onlyRegs_wr (onlyRegs_wr (onlyRegs_wr (onlyRegs_wr (onlyRegs_wr (onlyRegs_refl d _) (by simp)) (by simp)) (by simp))
    (by simp)) (by simp)⟩
  · simpa [rd_wr _ _ _ _ (hp q.consumer (by simp)), hb, hco] using hi
  · rw [rd_wr_self _ _ _ _ (hp _ (by simp)), har]
    rfl

end QueueFlds

/-- A queue's number and an index with an ARM bit, as the doorbell of a CQ or an EQ carries them. -/
theorem cut_cqDb {c i a : Nat} (hc : c < cqs) (hi : i < 2 ^ 32) (ha : a < 2) :
    cut (a * 2 ^ 46 + c * 2 ^ 32 + i) 32 14 = c ∧ cut (a * 2 ^ 46 + c * 2 ^ 32 + i) 0 32 = i ∧
    cut (a * 2 ^ 46 + c * 2 ^ 32 + i) 46 1 = a ∧ (a * 2 ^ 46 + c * 2 ^ 32 + i) >>> 47 = 0 := by
  unfold cqs at hc
  simp only [cut, Nat.shiftRight_eq_div_pow]
  omega

theorem bitOf_cqDb {c i a : Nat} (hc : c < cqs) (hi : i < 2 ^ 32) (ha : a < 2) :
    bitOf (a * 2 ^ 46 + c * 2 ^ 32 + i) 46 = decide (a = 1) := by
  unfold cqs at hc
  simp only [bitOf, Nat.testBit_eq_decide_div_mod_eq, decide_eq_decide]
  omega

theorem cut_eqDb {q i a : Nat} (hq : q < eqs) (hi : i < 2 ^ 32) (ha : a < 2) :
    cut (a * 2 ^ 40 + q * 2 ^ 32 + i) 32 8 = q ∧ cut (a * 2 ^ 40 + q * 2 ^ 32 + i) 0 32 = i ∧
    cut (a * 2 ^ 40 + q * 2 ^ 32 + i) 40 1 = a ∧ (a * 2 ^ 40 + q * 2 ^ 32 + i) >>> 41 = 0 := by
  unfold eqs at hq
  simp only [cut, Nat.shiftRight_eq_div_pow]
  omega

theorem bitOf_eqDb {q i a : Nat} (hq : q < eqs) (hi : i < 2 ^ 32) (ha : a < 2) :
    bitOf (a * 2 ^ 40 + q * 2 ^ 32 + i) 40 = decide (a = 1) := by
  unfold eqs at hq
  simp only [bitOf, Nat.testBit_eq_decide_div_mod_eq, decide_eq_decide]
  omega

/-- A CQ armed at an index. -/
def cqArmedAt (d : Dev) (c i : Nat) : Dev := onHl (wr d .cqArmed c 1) fun h => { h with cqArmIndex := putD h.cqArmIndex c i 0 }

section
variable {d : Dev} {win : Nat}

theorem cqDbEffect_owned {c i a : Nat} (hc : c < cqs) (hi : i < 2 ^ 32) (ha : a < 2) (hp : rd d .cqPartition c = win)
    (hv : voteHolds d .cqPartition c = true) : cqDbEffect d win 8 (a * 2 ^ 46 + c * 2 ^ 32 + i) =
      if a = 1 then cqNotify (cqArmedAt (cqFlds.rung (wake d .laurel) win c i a) c i) c else cqFlds.rung (wake d .laurel) win c i a := by
  obtain ⟨hn, hx, har, htop⟩ := cut_cqDb hc hi ha
  have hvw : voteHolds (wake d .laurel) .cqPartition c = true := by rw [wake_eq]; exact hv
  unfold cqDbEffect
  simp only [hn, hx, har, htop, bitOf_cqDb hc hi ha, dbRefused, hvw, rd_wake, hp, bne_self_eq_false, beq_self_eq_true, Bool.and_self, Bool.not_true,
    Bool.or_self, Bool.false_eq_true, if_false, decide_eq_true_eq]
  rfl

theorem eqDbEffect_owned {q i a : Nat} (hq : q < eqs) (hi : i < 2 ^ 32) (ha : a < 2) (hp : rd d .eqPartition q = win)
    (hv : voteHolds d .eqPartition q = true) : eqDbEffect d win 8 (a * 2 ^ 40 + q * 2 ^ 32 + i) =
      if a = 1 then wr (eqFlds.rung (wake d .laurel) win q i a) .eqArmed q 1 else eqFlds.rung (wake d .laurel) win q i a := by
  obtain ⟨hn, hx, har, htop⟩ := cut_eqDb hq hi ha
  have hvw : voteHolds (wake d .laurel) .eqPartition q = true := by rw [wake_eq]; exact hv
  unfold eqDbEffect
  simp only [hn, hx, har, htop, bitOf_eqDb hq hi ha, dbRefused, hvw, rd_wake, hp, bne_self_eq_false, beq_self_eq_true, Bool.and_self, Bool.not_true,
    Bool.or_self, Bool.false_eq_true, if_false, decide_eq_true_eq]
  rfl

end

/-- A change of the host link's state beside a frame's writes. -/
theorem onlyRegs_onHl {d e : Dev} {l : List (Fld × Nat)} (h : onlyRegs d e l) (f : HlSt → HlSt) :
    onlyRegs { d with hl := (onHl e f).hl } (onHl e f) l :=
  ⟨congrArg (fun x : Dev => { x with hl := (onHl e f).hl }) h.1, h.2⟩

/-- What the host link keeps and what leaves the block are no registers. -/
theorem onlyRegs_hl_out {d e : Dev} {l : List (Fld × Nat)} (h : onlyRegs d e l) (x : HlSt) (o : List Out) :
    onlyRegs { d with hl := x, out := o } { e with hl := x, out := o } l :=
  ⟨congrArg (fun y : Dev => { y with hl := x, out := o }) h.1, h.2⟩

/-! ### Interrupts (R253) -/

theorem vecState_setMsix (d : Dev) (fn v x : Nat) : vecState (setMsix d fn v x) fn v = x := getD_putD_self ..

section
variable (d : Dev) (q : Nat)

theorem vecState_wr (f : Fld) (i x : Nat) : vecState (wr d f i x) = vecState d := by
  unfold vecState
  rw [wr_hl]

/-- An EQ's message disarms it, whether it leaves or stays pending, and writes no other register. -/
theorem msiEffect_disarms : rd (msiEffect d q) .eqArmed q = 0 ∧
    onlyRegs { d with hl := (msiEffect d q).hl, out := (msiEffect d q).out } (msiEffect d q) [(.eqArmed, q)] := by
  have hz : rd (wr d .eqArmed q 0) .eqArmed q = 0 := rd_wr_self _ _ _ _ rfl
  have hw : onlyRegs d (wr d .eqArmed q 0) [(.eqArmed, q)] := onlyRegs_wr (onlyRegs_refl d _) (.head _)
  unfold msiEffect
  dsimp only
  split
  · exact ⟨hz, onlyRegs_hl_out hw _ _⟩
  · exact ⟨hz, onlyRegs_hl_out hw _ _⟩

theorem msiEffect_masked (h : bitOf (vecState d (rd d .eqPartition q) (rd d .eqVector q)) 0 = true) :
    (msiEffect d q).out = d.out ∧ vecState (msiEffect d q) (rd d .eqPartition q) (rd d .eqVector q) = 3 := by
  have he : msiEffect d q = setMsix (wr d .eqArmed q 0) (rd d .eqPartition q) (rd d .eqVector q) 3 := if_pos (by rwa [vecState_wr])
  rw [he]
  exact ⟨wr_out .., vecState_setMsix ..⟩

theorem msiEffect_sent (h : bitOf (vecState d (rd d .eqPartition q) (rd d .eqVector q)) 0 = false) :
    (msiEffect d q).out = .msix (rd d .hlStatusCfgModule 0) (rd d .eqPartition q) (rd d .eqVector q) :: d.out ∧
      find? (msiEffect d q).hl.lastMsi q = some d.upNs := by
  have hm : rd (wr d .eqArmed q 0) .hlStatusCfgModule 0 = rd d .hlStatusCfgModule 0 := rd_wr_ne _ _ rfl (.inl (by decide))
  unfold msiEffect
  simp only [vecState_wr, h, hm, Bool.false_eq_true, if_false, onHl_out, onHl_hl, emit_out, wr_out, wr_upNs, find?_put_self, and_self]

end

/-! ### The obligation -/

section
variable {s : State} {win i : Nat} (hw : win < 64) (hi : i < 2 ^ 32) (ht : takesDriver s.dev)
include hw hi ht

section
variable {c : Nat} (hc : c < cqs) (hp : rd s.dev .cqPartition c = win) (hv : voteHolds s.dev .cqPartition c = true)
include hc hp hv

theorem answers_cqDoorbell : Answers (.cqDoorbell win 8 (c * 2 ^ 32 + i)) s (cqFlds.rung (wake s.dev .laurel) win c i 0) := by
  have hbit : bitOf (c * 2 ^ 32 + i) 46 = false := by simpa using bitOf_cqDb hc hi (a := 0) (by decide)
  have he : cqDbEffect s.dev win 8 (c * 2 ^ 32 + i) = cqFlds.rung (wake s.dev .laurel) win c i 0 := by
    simpa using cqDbEffect_owned hc hi (a := 0) (by decide) hp hv
  rw [← he]
  exact answers_drv (n := "CQ_DOORBELL") rfl (by rw [decide_eq_true hw, hbit]; rfl) ht

theorem answers_cqArm : Answers (.cqArm win 8 (2 ^ 46 + c * 2 ^ 32 + i)) s
    (cqNotify (cqArmedAt (cqFlds.rung (wake s.dev .laurel) win c i 1) c i) c) := by
  have hbit : bitOf (2 ^ 46 + c * 2 ^ 32 + i) 46 = true := by simpa using bitOf_cqDb hc hi (a := 1) (by decide)
  have he : cqDbEffect s.dev win 8 (2 ^ 46 + c * 2 ^ 32 + i) = cqNotify (cqArmedAt (cqFlds.rung (wake s.dev .laurel) win c i 1) c i) c := by
    simpa using cqDbEffect_owned hc hi (a := 1) (by decide) hp hv
  rw [← he]
  exact answers_drv (n := "CQ_ARM") rfl (by rw [decide_eq_true hw, hbit]; rfl) ht

end

section
variable {q : Nat} (hq : q < eqs) (hp : rd s.dev .eqPartition q = win) (hv : voteHolds s.dev .eqPartition q = true)
include hq hp hv

theorem answers_eqDoorbell : Answers (.eqDoorbell win 8 (q * 2 ^ 32 + i)) s (eqFlds.rung (wake s.dev .laurel) win q i 0) := by
  have hbit : bitOf (q * 2 ^ 32 + i) 40 = false := by simpa using bitOf_eqDb hq hi (a := 0) (by decide)
  have he : eqDbEffect s.dev win 8 (q * 2 ^ 32 + i) = eqFlds.rung (wake s.dev .laurel) win q i 0 := by
    simpa using eqDbEffect_owned hq hi (a := 0) (by decide) hp hv
  rw [← he]
  exact answers_drv (n := "EQ_DOORBELL") rfl (by rw [decide_eq_true hw, hbit]; rfl) ht

theorem answers_eqArm : Answers (.eqArm win 8 (2 ^ 40 + q * 2 ^ 32 + i)) s
    (wr (eqFlds.rung (wake s.dev .laurel) win q i 1) .eqArmed q 1) := by
  have hbit : bitOf (2 ^ 40 + q * 2 ^ 32 + i) 40 = true := by simpa using bitOf_eqDb hq hi (a := 1) (by decide)
  have he : eqDbEffect s.dev win 8 (2 ^ 40 + q * 2 ^ 32 + i) = wr (eqFlds.rung (wake s.dev .laurel) win q i 1) .eqArmed q 1 := by
    simpa using eqDbEffect_owned hq hi (a := 1) (by decide) hp hv
  rw [← he]
  exact answers_drv (n := "EQ_ARM") rfl (by rw [decide_eq_true hw, hbit]; rfl) ht

end

end

section
variable {d : Dev} {n : Nat}

theorem cqEnableEffect_refused (he : isSet d .cqEnable n = false) (hs : rd d .cqState n = 0) (hr : cqRefusedEnable d n = true) :
    cqEnableEffect d n = wr d .cqLastCause n 0xE7 :=
  (if_neg (by simp [he])).trans ((if_neg (by simp [hs])).trans (if_pos hr))

theorem cqEnableEffect_granted (he : isSet d .cqEnable n = false) (hs : rd d .cqState n = 0) (hr : cqRefusedEnable d n = false) :
    cqEnableEffect d n = cqFlds.granted d n :=
  (if_neg (by simp [he])).trans ((if_neg (by simp [hs])).trans (if_neg (by simp [hr])))

theorem eqEnableEffect_refused (he : isSet d .eqEnable n = false) (hs : rd d .eqState n = 0) (hr : eqRefusedEnable d n = true) :
    eqEnableEffect d n = wr d .eqLastCause n 0xE7 :=
  (if_neg (by simp [he])).trans ((if_neg (by simp [hs])).trans (if_pos hr))

theorem eqEnableEffect_granted (he : isSet d .eqEnable n = false) (hs : rd d .eqState n = 0) (hr : eqRefusedEnable d n = false) :
    eqEnableEffect d n = eqFlds.granted d n :=
  (if_neg (by simp [he])).trans ((if_neg (by simp [hs])).trans (if_neg (by simp [hr])))

end

/-- Settles O42: CQs and EQs by the registers they have alike, interrupts by their vector's mask. -/
theorem eventAndCompletionQueues : Obligations.EventAndCompletionQueues := by
  have hcq := QueueFlds.sound_cqFlds
  have heq := QueueFlds.sound_eqFlds
  refine ⟨fun s win c i hw hc hi ht hp hv => ⟨?_, ?_⟩, fun s win q i hw hq hi ht hp hv => ⟨?_, ?_⟩, fun s q hr => ?_,
    fun s c hc ht => ?_, fun s q hq ht => ?_, fun s c hc ht => ?_, fun s q hq ht => ?_⟩
  · exact ⟨_, answers_cqDoorbell hw hi ht hc hp hv, hcq.rung_spec _ _ _ hc hi⟩
  · obtain ⟨hcons, harmed, hframe⟩ := hcq.armed_spec (wake s.dev .laurel) win 1 (n := c) hi
    exact ⟨_, _, answers_cqArm hw hi ht hc hp hv, rfl, hcons, harmed, getD_putD_self .., onlyRegs_onHl hframe _⟩
  · exact ⟨_, answers_eqDoorbell hw hi ht hq hp hv, heq.rung_spec _ _ _ hq hi⟩
  · exact ⟨_, answers_eqArm hw hi ht hq hp hv, heq.armed_spec _ _ _ hi⟩
  · obtain ⟨hdisarmed, hframe⟩ := msiEffect_disarms s.dev q
    exact ⟨_, answers_act (n := "MSIX_SEND") rfl hr, hdisarmed, hframe, msiEffect_masked s.dev q, msiEffect_sent s.dev q⟩
  · refine ⟨_, answers_drv (n := "CQ_ENABLE") rfl (decide_eq_true hc) ht, fun h => if_pos h, fun he hs hr => ?_, fun he hs hr => ?_⟩
    · rw [cqEnableEffect_refused he hs hr]
      exact ⟨rd_wr_self _ _ _ _ rfl, onlyRegs_wr (onlyRegs_refl _ _) (.head _)⟩
    · rw [cqEnableEffect_granted he hs hr]
      exact hcq.granted_spec _ _
  · refine ⟨_, answers_drv (n := "EQ_ENABLE") rfl (decide_eq_true hq) ht, fun h => if_pos h, fun he hs hr => ?_, fun he hs hr => ?_⟩
    · rw [eqEnableEffect_refused he hs hr]
      exact ⟨rd_wr_self _ _ _ _ rfl, onlyRegs_wr (onlyRegs_refl _ _) (.head _)⟩
    · rw [eqEnableEffect_granted he hs hr]
      exact heq.granted_spec _ _
  · exact ⟨_, answers_drv (n := "CQ_DISABLE") rfl (decide_eq_true hc) ht, hcq.disabled_spec _ _⟩
  · exact ⟨_, answers_drv (n := "EQ_DISABLE") rfl (decide_eq_true hq) ht, heq.disabled_spec _ _⟩

end Sys2Proof.Machine
end

section
/-!
Modules of the host link, detaching and rejoining (R233, R259 to R264), and O40.
-/
namespace Sys2Proof.Machine

/-! ### Modules (R233) -/

/-- What only writes registers leaves the host link's state. -/
theorem hl_of_onlyRegs {d e : Dev} {l : List (Fld × Nat)} (h : onlyRegs d e l) : e.hl = d.hl := by
  have := congrArg Dev.hl h.1
  exact this

theorem onlyRegs_mono {d e : Dev} {l l' : List (Fld × Nat)} (h : onlyRegs d e l) (hl : l ⊆ l') : onlyRegs d e l' :=
  ⟨h.1, fun f i hf => h.2 f i fun x hx => hf x (hl hx)⟩

/-- The field of a module's state. -/
def modFld (m : Nat) : Fld := if m = 0 then .hlStatusMod0 else .hlStatusMod1

theorem modFld_plain (m : Nat) : (modFld m).info.voted = false ∧ (modFld m).info.width = 2 ∧
    modFld m ∉ [Fld.hlStatusCfgModule, .mgmtAlertPending] := by
  unfold modFld
  split
  · decide
  · decide

theorem moduleUp_eq (d : Dev) (m : Nat) : moduleUp d m = (rd d (modFld m) 0 != 0) := by
  unfold moduleUp modFld
  split
  · rfl
  · rfl

theorem moduleUp_wr_cfg (d : Dev) (v m : Nat) : moduleUp (wr d .hlStatusCfgModule 0 v) m = moduleUp d m := by
  obtain ⟨hv, -, hn⟩ := modFld_plain m
  rw [moduleUp_eq, moduleUp_eq, rd_wr_ne _ _ hv (.inl (List.ne_of_not_mem_cons hn))]

/-- A module's state, before CFG_MODULE follows it. -/
def moduleSet (d : Dev) (m st : Nat) : Dev := wr d (modFld m) 0 st

theorem setModule_eq (d : Dev) (m st : Nat) : setModule d m st =
    if moduleUp (moduleSet d m st) 0 = true then wr (moduleSet d m st) .hlStatusCfgModule 0 0
    else if moduleUp (moduleSet d m st) 1 = true then wr (moduleSet d m st) .hlStatusCfgModule 0 1 else moduleSet d m st := by
  unfold setModule moduleSet modFld
  split
  · rfl
  · rfl

theorem setModule_spec (d : Dev) (m : Nat) {st : Nat} (hst : st < 4) : rd (setModule d m st) (modFld m) 0 = st ∧
    onlyRegs d (setModule d m st) [(modFld m, 0), (.hlStatusCfgModule, 0)] := by
  obtain ⟨hv, hw, hn⟩ := modFld_plain m
  have hset : rd (moduleSet d m st) (modFld m) 0 = st := by
    rw [moduleSet, rd_wr_self _ _ _ _ hv, hw]
    exact Nat.mod_eq_of_lt hst
  have hf : onlyRegs d (moduleSet d m st) [(modFld m, 0), (.hlStatusCfgModule, 0)] := onlyRegs_wr (onlyRegs_refl d _) (.head _)
  have hcfg (v : Nat) : rd (wr (moduleSet d m st) .hlStatusCfgModule 0 v) (modFld m) 0 = st ∧
      onlyRegs d (wr (moduleSet d m st) .hlStatusCfgModule 0 v) [(modFld m, 0), (.hlStatusCfgModule, 0)] :=
    ⟨(rd_wr_ne _ _ hv (.inl (List.ne_of_not_mem_cons hn))).trans hset, onlyRegs_wr hf (by simp)⟩
  rw [setModule_eq]
  split
  · exact hcfg 0
  · split
    · exact hcfg 1
    · exact ⟨hset, hf⟩

/-- CFG_MODULE is the lowest module that is up, when one is. -/
theorem setModule_cfg {d : Dev} {m st : Nat} (hm : m < 2) (hst : st < 4) (h0 : st ≠ 0) :
    (moduleUp (setModule d m st) 0 = true → rd (setModule d m st) .hlStatusCfgModule 0 = 0) ∧
    (moduleUp (setModule d m st) 0 = false → rd (setModule d m st) .hlStatusCfgModule 0 = 1) := by
  have hup : moduleUp (moduleSet d m st) m = true := by
    obtain ⟨hv, hw, -⟩ := modFld_plain m
    rw [moduleUp_eq, moduleSet, rd_wr_self _ _ _ _ hv, hw, Nat.mod_eq_of_lt (show st < 2 ^ 2 from hst)]
    exact bne_iff_ne.2 h0
  rw [setModule_eq]
  split
  · rename_i hz
    exact ⟨fun _ => rd_wr_self _ _ _ _ rfl, fun h => absurd hz (by rw [moduleUp_wr_cfg] at h; simp [h])⟩
  · rename_i hz
    have hone : m = 1 := by
      by_contra hne
      exact hz ((show m = 0 by omega) ▸ hup)
    subst hone
    rw [if_pos hup, moduleUp_wr_cfg]
    exact ⟨fun h => absurd h hz, fun _ => rd_wr_self _ _ _ _ rfl⟩

/-- The event 0xE5: one entry on its way and the management alert. -/
theorem degraded_spec {d e : Dev} {l : List (Fld × Nat)} (m : Nat) (h : onlyRegs d e l) (ha : (Fld.mgmtAlertPending, 0) ∈ l) :
    keepsRegs d (degraded e m) l ∧ (degraded e m).hl.entries.length = d.hl.entries.length + 1 := by
  refine ⟨keepsRegs_of_rd (keepsRegs_wr h.2 ha) fun f i => rd_postEq _ _ _ f i, ?_⟩
  rw [degraded, entries_postEq, List.length_append, alert, wr_hl, hl_of_onlyRegs h]
  rfl

/-- A module that trains slowly or goes down. -/
theorem degraded_setModule_spec (d : Dev) (m : Nat) {st : Nat} (hst : st < 4) : rd (degraded (setModule d m st) m) (modFld m) 0 = st ∧
    keepsRegs d (degraded (setModule d m st) m) [(modFld m, 0), (.hlStatusCfgModule, 0), (.mgmtAlertPending, 0)] ∧
    (degraded (setModule d m st) m).hl.entries.length = d.hl.entries.length + 1 := by
  obtain ⟨hv, -, hn⟩ := modFld_plain m
  obtain ⟨hset, hf⟩ := setModule_spec d m hst
  refine ⟨?_, degraded_spec m (onlyRegs_mono hf (by simp)) (by simp)⟩
  rw [degraded, rd_postEq, alert, rd_wr_ne _ _ hv (.inl fun h => hn (by simp [h])), hset]

/-! ### Detaching (R259, R260) -/

/-- Detached: a new epoch, and the management alert. -/
def detached (d : Dev) : Dev := alert (wr (bump d .hlEpoch) .hlStatusAttached 0 0) 4

theorem detached_spec (d : Dev) : attached (detached d) = false ∧ rd (detached d) .hlEpoch 0 = (rd d .hlEpoch 0 + 1) % 2 ^ 32 ∧
    onlyRegs d (detached d) [(.hlEpoch, 0), (.hlStatusAttached, 0), (.mgmtAlertPending, 0)] := by
  refine ⟨?_, ?_, onlyRegs_wr (onlyRegs_wr (onlyRegs_bump (onlyRegs_refl d _) (by simp)) (by simp)) (by simp)⟩
  · rw [attached, detached, alert, isSet_wr_ne _ _ rfl (by decide), isSet, rd_wr_self _ _ _ _ rfl]
    rfl
  · rw [detached, alert, rd_wr_ne _ _ rfl (.inl (by decide)), rd_wr_ne _ _ rfl (.inl (by decide)), rd_bump_self _ _ _ _ rfl]
    rfl

theorem filter_put {α : Type} (m : KMap α) {k : Nat} (v : α) {p : Nat → Bool} (hk : p k = false) :
    (put m k v).filter (fun e => p e.1) = m.filter fun e => p e.1 := by
  induction m with
  | nil => simp [put, hk]
  | cons e t ih =>
    simp only [put]
    split
    · rename_i h
      simp [hk, ← h]
    · split
      · simp [hk]
      · simp only [List.filter_cons, ih]

theorem filter_del {α : Type} (m : KMap α) {k : Nat} {p : Nat → Bool} (hk : p k = false) :
    (del m k).filter (fun e => p e.1) = m.filter fun e => p e.1 := by
  induction m with
  | nil => rfl
  | cons e t ih =>
    simp only [del]
    split
    · rename_i h
      simp [ih, hk, ← h]
    · simp only [List.filter_cons, ih]

theorem fkey_mod (f : Fld) (i : Nat) : fkey f i % 1024 = f.ctorIdx := by
  have := ctorIdx_lt f
  unfold fkey
  omega

/-- A write lists no entry of another field. -/
theorem listed_wr (d : Dev) {f g : Fld} (i v : Nat) (h : f ≠ g) : listed (wr d f i v) g = listed d g := by
  have hk : (fkey f i % 1024 == g.ctorIdx) = false := by
    rw [fkey_mod]
    exact beq_false_of_ne fun e => h (ctorIdx_inj e)
  have hf : (wr d f i v).regs.filter (fun e => e.1 % 1024 == g.ctorIdx) = d.regs.filter fun e => e.1 % 1024 == g.ctorIdx := by
    have hput (x y : Nat) : (putD d.regs (fkey f i) x y).filter (fun e => e.1 % 1024 == g.ctorIdx) =
        d.regs.filter fun e => e.1 % 1024 == g.ctorIdx := by
      unfold putD
      split
      · exact filter_del _ (p := fun k => k % 1024 == g.ctorIdx) hk
      · exact filter_put _ _ (p := fun k => k % 1024 == g.ctorIdx) hk
    unfold wr
    dsimp only
    split
    · exact hput _ _
    · exact hput _ _
  unfold listed
  rw [hf]

theorem listed_detached (d : Dev) {g : Fld} (h : g ∉ [Fld.hlEpoch, .hlStatusAttached, .mgmtAlertPending]) :
    listed (detached d) g = listed d g := by
  simp only [List.mem_cons, List.not_mem_nil, or_false, not_or] at h
  obtain ⟨he, ha, hm⟩ := h
  rw [detached, alert, listed_wr _ _ _ (Ne.symm hm), listed_wr _ _ _ (Ne.symm ha), bump, listed_wr _ _ _ (Ne.symm he)]

theorem detach_detached {d : Dev} (h : attached d = false) : detach d = d := if_pos (by simp [h])

/-- With no ring, CQ or EQ that has a state, detaching stops none. -/
theorem detach_attached {d : Dev} (h : attached d = true) (hr : listed d .ringStateState = []) (hc : listed d .cqState = [])
    (hq : listed d .eqState = []) : detach d = resumeParked (detached d) := by
  have hr' : listed (detached d) .ringStateState = [] := (listed_detached d (by decide)).trans hr
  have hc' : listed (detached d) .cqState = [] := (listed_detached d (by decide)).trans hc
  have hq' : listed (detached d) .eqState = [] := (listed_detached d (by decide)).trans hq
  rw [detach, ← detached]
  simp only [h, hr', hc', hq', Bool.not_true, Bool.false_eq_true, if_false, List.foldl_nil]

/-- The four causes of a detach. -/
theorem answers_detach {s : State} {c : Instr}
    (h : (c = .hlDetach ∧ takesDriver s.dev) ∨ (c = .hlDownTimeout ∧ inRun s.dev = true ∧ attached s.dev = true ∧ hostUp s.dev = false) ∨
      (c = .hlHeartbeatTimeout ∧ inRun s.dev = true ∧ attached s.dev = true ∧ rd s.dev .hlCfgHbMs 0 ≠ 0) ∨
      (c = .hotReset (rd s.dev .hlStatusCfgModule 0) ∧ rd s.dev .hlStatusCfgModule 0 < 2 ∧
        moduleUp s.dev (rd s.dev .hlStatusCfgModule 0) = true)) : Answers c s (detach s.dev) := by
  rcases h with ⟨rfl, ht⟩ | ⟨rfl, hr, ha, hu⟩ | ⟨rfl, hr, ha, hb⟩ | ⟨rfl, hm, hu⟩
  · exact answers_drv (n := "HL_DETACH") rfl rfl ht
  · exact answers_act (n := "HL_DOWN_TIMEOUT") rfl (by simp [hr, ha, hu])
  · exact answers_act (n := "HL_HEARTBEAT_TIMEOUT") rfl (by simp [hr, ha, hb])
  · have h := answers_cmd (s := s) (c := .hotReset (rd s.dev .hlStatusCfgModule 0)) (n := "HOT_RESET") rfl (by simp [hm, hu])
    rwa [if_pos rfl] at h

/-! ### Rejoining (R261, R262) -/

/-- Messages that left late change what leaves and the vectors alone. -/
theorem msixResume_frame (d : Dev) : msixResume d = { d with out := (msixResume d).out, hl := (msixResume d).hl } :=
  foldl_out_hl (fun _ _ => rfl) _ d

theorem rd_msixResume (d : Dev) (f : Fld) (i : Nat) : rd (msixResume d) f i = rd d f i := by
  rw [msixResume_frame]
  rfl

section
variable {d : Dev} {x : Nat}

theorem rejoinEffect_attached (ha : attached d = true) : rejoinEffect d x = wr (wr d .hlRejoinEpoch 0 x) .hlRejoinResult 0 3 :=
  if_pos (by rw [attached, isSet_wr_ne _ _ rfl (by decide)]; exact ha)

theorem rejoinEffect_epoch (ha : attached d = false) (hx : x ≠ rd d .hlEpoch 0) :
    rejoinEffect d x = wr (wr d .hlRejoinEpoch 0 x) .hlRejoinResult 0 2 :=
  (if_neg (by rw [attached, isSet_wr_ne _ _ rfl (by decide)]; exact Bool.eq_false_iff.1 ha)).trans
    (if_neg (by rw [rd_wr_ne _ _ rfl (.inl (by decide))]; exact hx))

/-- The host attached again, with a new epoch. -/
def rejoined (d : Dev) (x : Nat) : Dev := wr (wr (bump (wr d .hlRejoinEpoch 0 x) .hlEpoch) .hlStatusAttached 0 1) .hlRejoinResult 0 1

theorem rejoinEffect_rejoins (ha : attached d = false) (hx : x = rd d .hlEpoch 0) : rejoinEffect d x = msixResume (rejoined d x) :=
  (if_neg (by rw [attached, isSet_wr_ne _ _ rfl (by decide)]; exact Bool.eq_false_iff.1 ha)).trans
    (if_pos (by rw [rd_wr_ne _ _ rfl (.inl (by decide))]; exact hx))

end

/-- The registers of a rejoin that is refused with result `k`. -/
theorem refusedRejoin_spec (d : Dev) {x k : Nat} (hx : x < 2 ^ 32) (hk : k < 4) :
    let e := wr (wr d .hlRejoinEpoch 0 x) .hlRejoinResult 0 k
    rd e .hlRejoinEpoch 0 = x ∧ rd e .hlRejoinResult 0 = k ∧ rd e .hlEpoch 0 = rd d .hlEpoch 0 ∧ attached e = attached d ∧ e.hl = d.hl ∧
    e.out = d.out ∧ onlyRegs d e [(.hlRejoinEpoch, 0), (.hlRejoinResult, 0), (.hlEpoch, 0), (.hlStatusAttached, 0)] := by
  refine ⟨?_, (rd_wr_self _ _ _ _ rfl).trans (Nat.mod_eq_of_lt hk), ?_, ?_, ?_, ?_,
    onlyRegs_wr (onlyRegs_wr (onlyRegs_refl d _) (by simp)) (by simp)⟩
  · rw [rd_wr_ne _ _ rfl (.inl (by decide)), rd_wr_self _ _ _ _ rfl]
    exact Nat.mod_eq_of_lt hx
  · rw [rd_wr_ne _ _ rfl (.inl (by decide)), rd_wr_ne _ _ rfl (.inl (by decide))]
  · rw [attached, isSet_wr_ne _ _ rfl (by decide), isSet_wr_ne _ _ rfl (by decide), attached]
  · rw [wr_hl, wr_hl]
  · rw [wr_out, wr_out]

theorem rejoined_spec (d : Dev) {x : Nat} (hx : x < 2 ^ 32) :
    rd (rejoined d x) .hlRejoinEpoch 0 = x ∧ rd (rejoined d x) .hlRejoinResult 0 = 1 ∧
    rd (rejoined d x) .hlEpoch 0 = (rd d .hlEpoch 0 + 1) % 2 ^ 32 ∧ attached (rejoined d x) = true ∧
    onlyRegs d (rejoined d x) [(.hlRejoinEpoch, 0), (.hlRejoinResult, 0), (.hlEpoch, 0), (.hlStatusAttached, 0)] := by
  unfold rejoined
  refine ⟨?_, rd_wr_self _ _ _ _ rfl, ?_, ?_,
    onlyRegs_wr (onlyRegs_wr (onlyRegs_bump (onlyRegs_wr (onlyRegs_refl d _) (by simp)) (by simp)) (by simp)) (by simp)⟩
  · rw [rd_wr_ne _ _ rfl (.inl (by decide)), rd_wr_ne _ _ rfl (.inl (by decide)), bump, rd_wr_ne _ _ rfl (.inl (by decide)), rd_wr_self _ _ _ _ rfl]
    exact Nat.mod_eq_of_lt hx
  · rw [rd_wr_ne _ _ rfl (.inl (by decide)), rd_wr_ne _ _ rfl (.inl (by decide)), rd_bump_self _ _ _ _ rfl, rd_wr_ne _ _ rfl (.inl (by decide))]
    rfl
  · rw [attached, isSet_wr_ne _ _ rfl (by decide), isSet_wr_one _ _ _ rfl rfl]

/-- A rejoin write: refused while attached or with another epoch, and granted otherwise. -/
theorem rejoinEffect_spec (d : Dev) {x : Nat} (hx : x < 2 ^ 32) :
    let e := rejoinEffect d x
    rd e .hlRejoinEpoch 0 = x ∧ (attached d = true ∨ x ≠ rd d .hlEpoch 0 → e.hl = d.hl ∧ e.out = d.out) ∧
    onlyRegs { d with hl := e.hl, out := e.out } e [(.hlRejoinEpoch, 0), (.hlRejoinResult, 0), (.hlEpoch, 0), (.hlStatusAttached, 0)] ∧
    (attached d = true → rd e .hlRejoinResult 0 = 3 ∧ rd e .hlEpoch 0 = rd d .hlEpoch 0 ∧ attached e = true) ∧
    (attached d = false → x = rd d .hlEpoch 0 →
      rd e .hlRejoinResult 0 = 1 ∧ attached e = true ∧ rd e .hlEpoch 0 = (rd d .hlEpoch 0 + 1) % 2 ^ 32) ∧
    (attached d = false → x ≠ rd d .hlEpoch 0 → rd e .hlRejoinResult 0 = 2 ∧ attached e = false ∧ rd e .hlEpoch 0 = rd d .hlEpoch 0) := by
  intro e
  by_cases ha : attached d = true
  · obtain ⟨hrj, hres, hep, hat, hhl, hout, hf⟩ := refusedRejoin_spec d hx (k := 3) (by decide)
    have he : e = _ := rejoinEffect_attached ha
    rw [he]
    exact ⟨hrj, fun _ => ⟨hhl, hout⟩, onlyRegs_hl_out hf _ _, fun _ => ⟨hres, hep, hat.trans ha⟩, fun h => absurd ha (by simp [h]),
      fun h => absurd ha (by simp [h])⟩
  · have ha' : attached d = false := Bool.eq_false_iff.2 ha
    by_cases hx' : x = rd d .hlEpoch 0
    · obtain ⟨hrj, hres, hep, hat, hf⟩ := rejoined_spec d hx
      have he : e = _ := rejoinEffect_rejoins ha' hx'
      have hat' : attached (msixResume (rejoined d x)) = true := (congrArg (· == 1) (rd_msixResume ..)).trans hat
      rw [he]
      refine ⟨(rd_msixResume ..).trans hrj, fun h => (h.elim ha (absurd hx')).elim, ?_, fun h => absurd h ha, fun _ _ =>
        ⟨(rd_msixResume ..).trans hres, hat', (rd_msixResume ..).trans hep⟩, fun _ h => absurd hx' h⟩
      have hframe := onlyRegs_hl_out hf (msixResume (rejoined d x)).hl (msixResume (rejoined d x)).out
      rwa [← msixResume_frame] at hframe
    · obtain ⟨hrj, hres, hep, hat, hhl, hout, hf⟩ := refusedRejoin_spec d hx (k := 2) (by decide)
      have he : e = _ := rejoinEffect_epoch ha' hx'
      rw [he]
      exact ⟨hrj, fun _ => ⟨hhl, hout⟩, onlyRegs_hl_out hf _ _, fun h => absurd h ha, fun _ h => absurd h hx',
        fun _ _ => ⟨hres, hat.trans ha', hep⟩⟩

/-! ### The obligation -/

/-- Settles O40: a module by the state it is set to, a detach by what it leaves, a rejoin by its three answers. -/
theorem attachAndModules : Obligations.AttachAndModules := by
  refine ⟨fun s m hm ht => ⟨?_, ?_, ?_⟩, fun s c hc => ⟨_, answers_detach hc, detach_detached, fun ha => ⟨rfl, fun hr hq he => ?_⟩⟩,
    fun s m hm hu hne => ⟨_, ?_, rfl⟩,
    fun s x hx ht => ⟨⟨_, answers_drv (n := "HL_REJOIN") rfl (decide_eq_true hx) ht, rejoinEffect_spec s.dev hx⟩,
      _, answers_drv (n := "HL_HEARTBEAT") rfl (decide_eq_true hx) ht, ?_, ?_⟩⟩
  · obtain ⟨hst, hf⟩ := setModule_spec s.dev m (st := 2) (by decide)
    obtain ⟨h0, h1⟩ := setModule_cfg (d := s.dev) hm (st := 2) (by decide) (by decide)
    exact ⟨_, _, answers_cmd (n := "MODULE_LINK_UP") rfl (by simp [hm, ht]), rfl, hst, h0, h1, hf⟩
  · exact ⟨_, _, answers_cmd (n := "MODULE_LINK_DOWN") rfl (by simp [hm, ht]), rfl, degraded_setModule_spec s.dev m (st := 1) (by decide)⟩
  · refine ⟨_, answers_cmd (n := "MODULE_LINK_DOWN") rfl (by simp [hm, ht]), fun h => ?_, fun h => ?_⟩
    · simp [linkDownEffect, h]
    · have he : linkDownEffect s.dev m false = degraded (setModule s.dev m 0) m := by simp [linkDownEffect, h]
      rw [he]
      exact degraded_setModule_spec s.dev m (st := 0) (by decide)
  · exact ⟨_, detach_attached ha hr hq he, detached_spec s.dev⟩
  · have h := answers_cmd (s := s) (c := .hotReset m) (n := "HOT_RESET") rfl (by simp [hm, hu])
    rwa [if_neg hne] at h
  · exact (rd_wr_self _ _ _ _ rfl).trans (Nat.mod_eq_of_lt hx)
  · exact onlyRegs_wr (onlyRegs_refl _ _) (.head _)

end Sys2Proof.Machine
end

section
/-!
Requests of the host link: configuration space, the aperture, Function Level Reset and timed-out accesses (R234 to R238, R257, R263,
R265, R470), and O41.
-/
namespace Sys2Proof.Machine

/-! ### Configuration space (R234, R235, R257, R470) -/

section
variable {d : Dev} {q : CfgReq}

theorem cfgEffect_notServing (h : serving d = false) :
    cfgEffect d q = if q.fn = 0 then emit d (.completion q.module .retry [] false) else emit d (.completion q.module .unsupported [] false) :=
  if_pos (by simp [h])

variable (h : serving d = true)
include h

theorem cfgEffect_absent (hm : q.module ≠ rd d .hlStatusCfgModule 0 ∨ d.hl.numVfs < q.fn) :
    cfgEffect d q = emit d (.completion q.module .unsupported [] false) :=
  (if_neg (by simp [h])).trans (if_pos (by simpa [fnPresent] using hm))

variable (hm : q.module = rd d .hlStatusCfgModule 0) (hf : q.fn ≤ d.hl.numVfs)
include hm hf

/-- What a request that the function takes meets: its requester, then the register it names. -/
theorem cfgEffect_taken : cfgEffect d q =
    if !hostRid d q.rid then emit (bump d .hlPeerRefused) (.completion q.module .unsupported [] false)
    else match q.write with
      | some v => emit (cfgWrite d q.fn v q.reg) (.completion q.module .success [] false)
      | none => emit (cfgRead d q.fn q.reg).1 (.completion q.module .success (toBytes 4 (cfgRead d q.fn q.reg).2) false) :=
  (if_neg (by simp [h])).trans (if_neg (by simp [hm, fnPresent, hf]))

theorem cfgEffect_stranger (hr : hostRid d q.rid = false) :
    cfgEffect d q = emit (bump d .hlPeerRefused) (.completion q.module .unsupported [] false) :=
  (cfgEffect_taken h hm hf).trans (if_pos (by simp [hr]))

theorem cfgEffect_read (hr : hostRid d q.rid = true) (hw : q.write = none) : cfgEffect d q =
    emit (cfgRead d q.fn q.reg).1 (.completion q.module .success (toBytes 4 (cfgRead d q.fn q.reg).2) false) := by
  rw [cfgEffect_taken h hm hf, hr, hw]
  rfl

theorem cfgEffect_write (hr : hostRid d q.rid = true) {v : Nat} (hw : q.write = some v) :
    cfgEffect d q = emit (cfgWrite d q.fn v q.reg) (.completion q.module .success [] false) := by
  rw [cfgEffect_taken h hm hf, hr, hw]
  rfl

end

/-! ### Who may use the aperture (R235, R257, R470) -/

section
variable {d : Dev} {q : ApReq}

theorem apRefused_notServing (h : serving d = false ∨ d.hl.numVfs < q.fn) :
    apRefused d q = some (emit d (.completion q.module .unsupported [] false)) :=
  if_pos (by simpa [fnPresent] using h)

variable (h : serving d = true) (hf : q.fn ≤ d.hl.numVfs)
include h hf

theorem apRefused_known (hr : hostRid d q.rid = true ∨ peerRid d q.fn q.rid = true) : apRefused d q = none :=
  (if_neg (by simp [h, fnPresent, hf])).trans (if_neg (by rcases hr with hr | hr <;> simp [hr]))

theorem apRefused_stranger (hr : hostRid d q.rid = false) (hp : peerRid d q.fn q.rid = false) :
    apRefused d q = some (emit (bump d .hlPeerRefused) (.completion q.module .unsupported [] false)) :=
  (if_neg (by simp [h, fnPresent, hf])).trans (if_pos (by simp [hr, hp]))

end

/-- A request that is not refused meets a serving device, a function present, and a requester it knows. -/
theorem apRefused_eq_none {d : Dev} {q : ApReq} (h : apRefused d q = none) :
    (!serving d || !fnPresent d q.fn) = false ∧ (!hostRid d q.rid && !peerRid d q.fn q.rid) = false := by
  unfold apRefused at h
  split at h
  · cases h
  · rename_i hs
    split at h
    · cases h
    · rename_i hr
      exact ⟨Bool.eq_false_iff.2 hs, Bool.eq_false_iff.2 hr⟩

/-! ### Aperture accesses (R237, R226, R266) -/

section
variable {d d' : Dev} {q : ApReq}

theorem apReadEffect_refused {len : Nat} (hr : apRefused d q = some d') : apReadEffect d q len = d' := by
  simp only [apReadEffect, hr]

theorem apAtomicEffect_refused {i : Instr} {bits op x y : Nat} (hr : apRefused d q = some d') : apAtomicEffect d i q bits op x y = d' := by
  simp only [apAtomicEffect, hr]

theorem apWriteEffect_absent {bs : List Byte} (h : serving d = false ∨ d.hl.numVfs < q.fn) : apWriteEffect d q bs = d := by
  have hs : (!serving d || !fnPresent d q.fn) = true := by simpa [fnPresent] using h
  simp only [apWriteEffect, hs, if_true]

theorem apWriteEffect_stranger {bs : List Byte} (h : serving d = true) (hf : q.fn ≤ d.hl.numVfs) (hr : hostRid d q.rid = false)
    (hp : peerRid d q.fn q.rid = false) : apWriteEffect d q bs = bump d .hlPeerRefused := by
  simp [apWriteEffect, h, fnPresent, hf, hr, hp]

variable (hr : apRefused d q = none)
include hr

section
variable {len : Nat}

/-- A read that reaches memory: its bytes, or what the failure leaves. -/
theorem apReadEffect_reached {a : Nat} {r : Dev × Option Nat × List Byte} (hp : apPlace d q len .read = (d', .at_ a))
    (hb : apBack q a (memRead d' a len) = r) :
    (r.2.1 = none → apReadEffect d q len = emit r.1 (.completion q.module .success r.2.2 false)) ∧
    (r.2.1 = some 0xC8 → apReadEffect d q len = emit (apFail r.1 q 0xC8) (.completion q.module .abort [] false)) ∧
    (∀ c, c ≠ 0xC8 → r.2.1 = some c → apReadEffect d q len = emit (apFail r.1 q c) (.completion q.module .success r.2.2 true)) := by
  obtain ⟨e, c, bs⟩ := r
  simp only [apReadEffect, hr, hp, hb]
  refine ⟨?_, ?_, ?_⟩
  · rintro rfl
    rfl
  · rintro rfl
    rfl
  · rintro c hc rfl
    exact if_neg hc

theorem apReadEffect_bad {c : Nat} (hp : apPlace d q len .read = (d', .bad c)) :
    apReadEffect d q len = emit (apFail d' q c) (.completion q.module .abort [] false) := by
  simp only [apReadEffect, hr, hp]
  rfl

theorem apReadEffect_wait (hp : apPlace d q len .read = (d', .wait)) : apReadEffect d q len = apStall d' (.apertureRead q len) := by
  simp only [apReadEffect, hr, hp]

end

section
variable {bs : List Byte}

theorem apWriteEffect_reached {a : Nat} {r : Dev × Option Nat × Unit} (hp : apPlace d q bs.length .write = (d', .at_ a))
    (hb : apBack q a ((memStore d' .other (apEid q) a bs).1, (memStore d' .other (apEid q) a bs).2, ()) = r) :
    (r.2.1 = none → apWriteEffect d q bs = r.1) ∧ (∀ c, r.2.1 = some c → apWriteEffect d q bs = apFail r.1 q c) := by
  obtain ⟨hs, hk⟩ := apRefused_eq_none hr
  obtain ⟨e, c, u⟩ := r
  simp only [apWriteEffect, hs, hk, Bool.false_eq_true, if_false, hp, hb]
  refine ⟨?_, ?_⟩
  · rintro rfl
    rfl
  · rintro c rfl
    rfl

theorem apWriteEffect_bad {c : Nat} (hp : apPlace d q bs.length .write = (d', .bad c)) : apWriteEffect d q bs = apFail d' q c := by
  obtain ⟨hs, hk⟩ := apRefused_eq_none hr
  simp only [apWriteEffect, hs, hk, Bool.false_eq_true, if_false, hp]

theorem apWriteEffect_wait (hp : apPlace d q bs.length .write = (d', .wait)) : apWriteEffect d q bs = apStall d' (.apertureWrite q bs) := by
  obtain ⟨hs, hk⟩ := apRefused_eq_none hr
  simp only [apWriteEffect, hs, hk, Bool.false_eq_true, if_false, hp]

end

section
variable {i : Instr} {op x y : Nat}

theorem apAtomicEffect_width {bits : Nat} (hb : bits ≠ 64) :
    apAtomicEffect d i q bits op x y = emit d (.completion q.module .unsupported [] false) := by
  simp only [apAtomicEffect, hr]
  exact if_pos hb

theorem apAtomicEffect_reached {a : Nat} {r : Dev × Option Nat × Nat} (hp : apPlace d q 8 .atomic = (d', .at_ a))
    (hb : apBack q a (memAtomic d' op a x y) = r) :
    (r.2.1 = none → apAtomicEffect d i q 64 op x y = emit r.1 (.completion q.module .success (toBytes 8 r.2.2) false)) ∧
    (∀ c, r.2.1 = some c → apAtomicEffect d i q 64 op x y = emit (apFail r.1 q c) (.completion q.module .abort [] false)) := by
  obtain ⟨e, c, old⟩ := r
  simp only [apAtomicEffect, hr, ne_eq, not_true_eq_false, if_false, hp, hb]
  refine ⟨?_, ?_⟩
  · rintro rfl
    rfl
  · rintro c rfl
    rfl

theorem apAtomicEffect_bad {c : Nat} (hp : apPlace d q 8 .atomic = (d', .bad c)) :
    apAtomicEffect d i q 64 op x y = emit (apFail d' q c) (.completion q.module .abort [] false) := by
  simp only [apAtomicEffect, hr, ne_eq, not_true_eq_false, if_false, hp]
  rfl

theorem apAtomicEffect_wait (hp : apPlace d q 8 .atomic = (d', .wait)) : apAtomicEffect d i q 64 op x y = apStall d' i := by
  simp only [apAtomicEffect, hr, ne_eq, not_true_eq_false, if_false, hp]

end

end

/-- The three AtomicOps of the aperture are one effect with their code, operand and comparand. -/
theorem answers_apAtomic {s : State} {q : ApReq} {bits op x y : Nat} {i : Instr}
    (hi : (i, op, y) ∈ [(Instr.apertureFetchadd q bits x, 1, 0), (.apertureSwap q bits x, 2, 0), (.apertureCas q bits y x, 3, y)])
    (hp : apAtomicPossible s.dev q bits = true) : Answers i s (apAtomicEffect s.dev i q bits op x y) := by
  simp only [List.mem_cons, List.not_mem_nil, or_false, Prod.mk.injEq] at hi
  rcases hi with ⟨rfl, rfl, rfl⟩ | ⟨rfl, rfl, rfl⟩ | ⟨rfl, rfl, -⟩
  · exact answers_cmd (n := "APERTURE_FETCHADD") rfl hp
  · exact answers_cmd (n := "APERTURE_SWAP") rfl hp
  · exact answers_cmd (n := "APERTURE_CAS") rfl hp

end Sys2Proof.Machine
end

section
/-!
The Function Level Reset (R263) and timed-out host accesses (R238, R265), and O41.
-/
namespace Sys2Proof.Machine

/-! ### What a reset may do (R263) -/

/-- From `d` to `e` memory, vectors and owners stay, and no ring is enabled, no CQ or EQ leaves STATE 0. -/
structure OnlyStops (d e : Dev) : Prop where
  mem : e.mem = d.mem
  msix : e.hl.msix = d.hl.msix
  owner : ∀ f ∈ [Fld.ringCfgPartition, .cqPartition, .eqPartition], ∀ i, copies e f i = copies d f i
  flag : ∀ f ∈ [Fld.ringStateEnable, .cqState, .eqState], ∀ i, rd d f i = 0 → rd e f i = 0

theorem OnlyStops.refl (d : Dev) : OnlyStops d d := ⟨rfl, rfl, fun _ _ _ => rfl, fun _ _ _ h => h⟩

theorem OnlyStops.trans {a b c : Dev} (h : OnlyStops a b) (k : OnlyStops b c) : OnlyStops a c :=
  ⟨k.mem.trans h.mem, k.msix.trans h.msix, fun f hf i => (k.owner f hf i).trans (h.owner f hf i),
    fun f hf i hz => k.flag f hf i (h.flag f hf i hz)⟩

theorem onlyStops_foldl {α : Type} {g : Dev → α → Dev} (h : ∀ d x, OnlyStops d (g d x)) (l : List α) (d : Dev) :
    OnlyStops d (l.foldl g d) := by
  induction l generalizing d with
  | nil => exact .refl d
  | cons x t ih => exact (h d x).trans (ih _)

theorem onlyStops_ite {d a b : Dev} {c : Prop} [Decidable c] (ha : OnlyStops d a) (hb : OnlyStops d b) : OnlyStops d (if c then a else b) := by
  split
  · exact ha
  · exact hb

/-- A write of 0, or of a register that says neither whose a queue is nor that it runs. -/
theorem onlyStops_wr (d : Dev) {f : Fld} (i : Nat) {v : Nat} (hf : f ∉ [Fld.ringCfgPartition, .cqPartition, .eqPartition])
    (hv : f ∉ [Fld.ringStateEnable, .cqState, .eqState] ∨ v = 0) : OnlyStops d (wr d f i v) := by
  refine ⟨wr_mem .., congrArg HlSt.msix (wr_hl ..), fun g hg j => copies_wr_ne d v (.inl fun h => hf (h ▸ hg)), fun g hg j hz => ?_⟩
  have hplain : ∀ g ∈ [Fld.ringStateEnable, .cqState, .eqState], g.info.voted = false := by decide
  rw [rd_wr _ _ _ _ (hplain g hg)]
  split
  · rename_i h
    rw [hv.resolve_left fun hn => hn (h.1 ▸ hg), Nat.zero_mod]
  · exact hz

theorem onlyStops_setSleep (d : Dev) (q : QueueId) (w : Option Nat) : OnlyStops d (setSleep d q w) :=
  ⟨rfl, rfl, fun _ _ _ => rfl, fun _ _ _ h => h⟩

theorem onlyStops_settle (d : Dev) (r : Nat) : OnlyStops d (settle d r) := by
  have hstate := onlyStops_wr d (f := .ringStateState) r (v := 0) (by decide) (.inl (by decide))
  exact onlyStops_ite (onlyStops_ite hstate (hstate.trans (onlyStops_wr _ _ (by decide) (.inl (by decide))))) (.refl d)

theorem onlyStops_ringDisable (d : Dev) (r : Nat) : OnlyStops d (ringDisableEffect d r) :=
  (onlyStops_wr d r (by decide) (.inr rfl)).trans ((onlyStops_setSleep _ _ _).trans (onlyStops_settle _ r))

/-- What a queue's disable needs for the same. -/
theorem onlyStops_disabled {q : QueueFlds} (hc : q.count ∉ [Fld.ringCfgPartition, .cqPartition, .eqPartition, .ringStateEnable, .cqState, .eqState])
    (he : q.enable ∉ [Fld.ringCfgPartition, .cqPartition, .eqPartition]) (hs : q.state ∉ [Fld.ringCfgPartition, .cqPartition, .eqPartition])
    (d : Dev) (n : Nat) : OnlyStops d (q.disabled d n) := by
  have hcount := onlyStops_wr d (f := q.count) (rd d q.owner n) (v := rd d q.count (rd d q.owner n) - 1)
    (fun h => hc (List.mem_append_left _ h)) (.inl fun h => hc (List.mem_append_right [Fld.ringCfgPartition, .cqPartition, .eqPartition] h))
  exact (onlyStops_ite hcount (.refl d)).trans ((onlyStops_wr _ n he (.inr rfl)).trans (onlyStops_wr _ n hs (.inr rfl)))

theorem onlyStops_cqDisable (d : Dev) (c : Nat) : OnlyStops d (cqDisableEffect d c) :=
  onlyStops_disabled (q := cqFlds) (by decide) (by decide) (by decide) d c

theorem onlyStops_eqDisable (d : Dev) (q : Nat) : OnlyStops d (eqDisableEffect d q) :=
  onlyStops_disabled (q := eqFlds) (by decide) (by decide) (by decide) d q

/-! ### The queues of a function -/

/-- Whether an entry is the function's, by the majority of its owner. -/
def ownedBy (fn : Nat) (owner : Fld) (d : Dev) (i : Nat) : Bool := voteHolds d owner i && rd d owner i == fn

theorem OnlyStops.ownedBy {d e : Dev} (h : OnlyStops d e) {owner : Fld} (ho : owner ∈ [Fld.ringCfgPartition, .cqPartition, .eqPartition])
    (fn i : Nat) : ownedBy fn owner e i = ownedBy fn owner d i := by
  have hvote : ∀ f ∈ [Fld.ringCfgPartition, .cqPartition, .eqPartition], votedWith f = [f] ∧ f.info.voted = true := by decide
  obtain ⟨hw, hv⟩ := hvote owner ho
  unfold Machine.ownedBy rd voteHolds
  simp only [hw, hv, h.owner owner ho, List.all_cons, List.all_nil, if_true]

/-- Every entry of the list that is the function's is turned off. -/
def offEach (fn : Nat) (owner : Fld) (off : Dev → Nat → Dev) (d : Dev) (l : List Nat) : Dev :=
  l.foldl (fun d i => if ownedBy fn owner d i then off d i else d) d

/-- The function's rings, CQs and EQs, as far as they have a value. -/
def ringsOff (fn : Nat) (d : Dev) : Dev := offEach fn .ringCfgPartition ringDisableEffect d (listed d .ringStateEnable)
def cqsOff (fn : Nat) (d : Dev) : Dev := offEach fn .cqPartition cqDisableEffect d (listed d .cqState)
def eqsOff (fn : Nat) (d : Dev) : Dev := offEach fn .eqPartition eqDisableEffect d (listed d .eqState)

theorem flrEffect_virtual (d : Dev) {fn : Nat} (h : fn ≠ 0) : flrEffect d fn =
    onHl (eqsOff fn (cqsOff fn (ringsOff fn d))) fun h => { h with msix := h.msix.filter fun e => e.1 / 256 != fn } := if_neg h

theorem mem_of_find? {α : Type} {m : KMap α} {k : Nat} {v : α} (h : find? m k = some v) : (k, v) ∈ m := by
  induction m with
  | nil => cases h
  | cons e t ih =>
    simp only [find?] at h
    split at h
    · rename_i hk
      cases h
      exact hk ▸ .head _
    · exact .tail _ (ih h)

/-- An entry that is not listed reads its reset value. -/
theorem rd_of_not_listed {d : Dev} {f : Fld} {i : Nat} (hf : f.info.voted = false) (h : i ∉ listed d f) : rd d f i = f.info.reset := by
  have hk : find? d.regs (fkey f i) = none := by
    by_contra hne
    obtain ⟨v, hv⟩ := Option.ne_none_iff_exists'.1 hne
    refine h (List.mem_map.2 ⟨(fkey f i, v), List.mem_filter.2 ⟨mem_of_find? hv, ?_⟩, ?_⟩)
    · exact beq_iff_eq.2 (fkey_mod f i)
    · have := ctorIdx_lt f
      simp only [fkey]
      omega
  simp only [rd, hf, Bool.false_eq_true, if_false, getD, hk, Option.getD_none]

section
variable {fn : Nat} {owner flag : Fld} {off : Dev → Nat → Dev} (hoff : ∀ d i, OnlyStops d (off d i))
include hoff

theorem onlyStops_offEach (l : List Nat) (d : Dev) : OnlyStops d (offEach fn owner off d l) :=
  onlyStops_foldl (fun d i => onlyStops_ite (hoff d i) (.refl d)) l d

variable (ho : owner ∈ [Fld.ringCfgPartition, .cqPartition, .eqPartition]) (hf : flag ∈ [Fld.ringStateEnable, .cqState, .eqState])
  (hz : ∀ d i, rd (off d i) flag i = 0)
include ho hf hz

/-- An entry of the function that is in the list is off in the end. -/
theorem rd_offEach_of_mem {l : List Nat} {i : Nat} (hi : i ∈ l) {d : Dev} (hd : ownedBy fn owner d i = true) :
    rd (offEach fn owner off d l) flag i = 0 := by
  induction l generalizing d with
  | nil => cases hi
  | cons x t ih =>
    have hstep : OnlyStops d (if ownedBy fn owner d x then off d x else d) := onlyStops_ite (hoff d x) (.refl d)
    rcases List.mem_cons.1 hi with rfl | hi
    · refine (onlyStops_offEach hoff t _).flag flag hf i ?_
      exact (congrArg (rd · flag i) (if_pos hd)).trans (hz d i)
    · exact ih hi ((hstep.ownedBy ho fn i).trans hd)

/-- Every entry of the function is off when those that have a value are turned off. -/
theorem rd_offEach_listed {d : Dev} {i : Nat} (hd : ownedBy fn owner d i = true) : rd (offEach fn owner off d (listed d flag)) flag i = 0 := by
  by_cases hi : i ∈ listed d flag
  · exact rd_offEach_of_mem hoff ho hf hz hi hd
  · have hreset : ∀ f ∈ [Fld.ringStateEnable, .cqState, .eqState], f.info.voted = false ∧ f.info.reset = 0 := by decide
    obtain ⟨hplain, hzero⟩ := hreset flag hf
    exact (onlyStops_offEach hoff _ d).flag flag hf i ((rd_of_not_listed hplain hi).trans hzero)

end

theorem rd_ringDisable (d : Dev) (r : Nat) : rd (ringDisableEffect d r) .ringStateEnable r = 0 :=
  ((onlyStops_setSleep _ _ _).trans (onlyStops_settle _ r)).flag _ (.head _) _ (rd_wr_self _ _ _ _ rfl)

theorem rd_cqDisable (d : Dev) (c : Nat) : rd (cqDisableEffect d c) .cqState c = 0 := rd_wr_self _ _ _ _ rfl
theorem rd_eqDisable (d : Dev) (q : Nat) : rd (eqDisableEffect d q) .eqState q = 0 := rd_wr_self _ _ _ _ rfl

/-- A reset of a virtual function turns off what it owns, forgets its vectors, and leaves memory. -/
theorem flrEffect_spec (d : Dev) {fn : Nat} (h : fn ≠ 0) :
    (∀ x, x ∈ (flrEffect d fn).hl.msix ↔ x ∈ d.hl.msix ∧ x.1 / 256 ≠ fn) ∧
    (∀ r, voteHolds d .ringCfgPartition r = true → rd d .ringCfgPartition r = fn → isSet (flrEffect d fn) .ringStateEnable r = false) ∧
    (∀ c, voteHolds d .cqPartition c = true → rd d .cqPartition c = fn → rd (flrEffect d fn) .cqState c = 0) ∧
    (∀ q, voteHolds d .eqPartition q = true → rd d .eqPartition q = fn → rd (flrEffect d fn) .eqState q = 0) ∧
    (flrEffect d fn).mem = d.mem := by
  have hown {f : Fld} {i : Nat} (hv : voteHolds d f i = true) (hr : rd d f i = fn) : ownedBy fn f d i = true := by simp [ownedBy, hv, hr]
  have hrings : OnlyStops d (ringsOff fn d) := onlyStops_offEach onlyStops_ringDisable _ d
  have hcqs : OnlyStops (ringsOff fn d) (cqsOff fn (ringsOff fn d)) := onlyStops_offEach onlyStops_cqDisable _ _
  have heqs : OnlyStops (cqsOff fn (ringsOff fn d)) (eqsOff fn (cqsOff fn (ringsOff fn d))) := onlyStops_offEach onlyStops_eqDisable _ _
  have hall := (hrings.trans hcqs).trans heqs
  rw [flrEffect_virtual d h]
  refine ⟨fun x => ?_, fun r hv hr => ?_, fun c hv hr => ?_, fun q hv hr => ?_, hall.mem⟩
  · simp [hall.msix]
  · have hz : rd (ringsOff fn d) .ringStateEnable r = 0 :=
      rd_offEach_listed onlyStops_ringDisable (by simp) (by simp) rd_ringDisable (hown hv hr)
    rw [isSet, rd_onHl, (hcqs.trans heqs).flag _ (by simp) r hz]
    rfl
  · have hz : rd (cqsOff fn (ringsOff fn d)) .cqState c = 0 :=
      rd_offEach_listed onlyStops_cqDisable (by simp) (by simp) rd_cqDisable ((hrings.ownedBy (by simp) fn c).trans (hown hv hr))
    exact heqs.flag _ (by simp) c hz
  · exact rd_offEach_listed onlyStops_eqDisable (by simp) (by simp) rd_eqDisable
      (((hrings.trans hcqs).ownedBy (by simp) fn q).trans (hown hv hr))

/-! ### Timed-out accesses (R238, R265) -/

section
variable {d : Dev} {t : Nat} {it : Item}

theorem lane_of_running {l : Lane} (h : running? d t l = some it) : it.lane = l := by
  have hp := List.find?_some h
  simp only [Bool.and_eq_true, decide_eq_true_eq] at hp
  exact hp.2

/-- A move that waits for the host is parked, or has issued a piece with a side there. -/
theorem hostWork_move (h : hostWork d t = some it) (hl : it.lane = .move) (hp : d.xl.parked.contains (.item it.uid) = false) :
    ∃ p ∈ issued it, hostPiece d it p = true := by
  unfold hostWork at h
  split at h
  · rename_i x hx
    split at h
    · rename_i hc
      cases h
      rw [hp, Bool.false_or, Bool.and_eq_true] at hc
      exact List.any_eq_true.1 hc.2
    · cases h
  · split at h
    · rename_i x hx
      split at h
      · cases h
        exact absurd (hl.symm.trans (lane_of_running hx)) (by decide)
      · cases h
    · cases h

/-- The work item waits for nothing any more. -/
def unparked (d : Dev) (it : Item) : Dev := onXl d fun x => { x with parked := x.parked.filter (· ≠ .item it.uid) }

/-- A move ends with 0xE6, unless it has a cause, and issues nothing more. -/
def moveTimedOut (d : Dev) (it : Item) : Dev :=
  modItem d it.uid fun y => { y with prog := moveTotal it.wi, cause := if y.cause = 0 then 0xE6 else y.cause, held := false }

theorem unparked_of_not_parked (hp : d.xl.parked.contains (.item it.uid) = false) : unparked d it = d := by
  have hf : d.xl.parked.filter (· ≠ .item it.uid) = d.xl.parked :=
    List.filter_eq_self.2 fun w hw => decide_eq_true fun he => by simp [← he, hw] at hp
  exact congrArg (fun l => { d with xl := { d.xl with parked := l } }) hf

theorem hpaTimeout_other (hl : it.lane ≠ .move) : hpaTimeout d it = attEnd (unparked d it) it it.flags 0xE6 := if_neg hl

theorem hpaTimeout_parked (hl : it.lane = .move) (hp : d.xl.parked.contains (.item it.uid) = true) :
    hpaTimeout d it = moveTimedOut (unparked d it) it := by
  simp only [hpaTimeout, hl, hp, if_true]
  rfl

/-- The access of one of the pieces with a side in host memory was not completed. -/
theorem hpaTimeout_issued (hl : it.lane = .move) (hp : d.xl.parked.contains (.item it.uid) = false)
    (hh : ∃ p ∈ issued it, hostPiece d it p = true) : ∃ p ∈ issued it, hostPiece d it p = true ∧
      hpaTimeout d it = moveTimedOut (scramble { d with free := d.free + 1 } it p) it := by
  obtain ⟨p, hi, hpc⟩ := hh
  have hne : 0 < ((issued it).filter (hostPiece d it)).length := List.length_pos_of_mem (List.mem_filter.2 ⟨hi, hpc⟩)
  have hlt : (choose d ((issued it).filter (hostPiece d it)).length).1 < ((issued it).filter (hostPiece d it)).length := Nat.mod_lt _ hne
  have hmem := List.mem_filter.1 (List.getElem_mem hlt)
  refine ⟨_, hmem.1, hmem.2, ?_⟩
  have hu := unparked_of_not_parked hp
  rw [hpaTimeout, ← unparked, hu]
  simp only [hl, hp, if_true, Bool.false_eq_true, if_false, List.getElem?_eq_getElem hlt]
  rfl

end

/-! ### The obligation -/

/-- Settles O41: each request by what it meets on its way, the reset by what it turns off, a timed-out access by its work item's lane. -/
theorem hostRequests : Obligations.HostRequests := by
  refine ⟨fun s q hm hf hu => ?_, fun s q len hp => ?_, fun s q h => apRefused_notServing h,
    fun s q h hf => ⟨apRefused_known h hf, apRefused_stranger h hf⟩, fun s q bs hp => ?_, fun s q bits op x y i hi hp => ?_,
    fun s fn hf hn => ?_, fun s t it hr ha hw => ?_⟩
  · refine ⟨_, answers_cmd (n := "CONFIG_REQUEST") rfl (by simp [hm, hf, hu]), fun h hz => (cfgEffect_notServing h).trans (if_pos hz),
      fun h hz => (cfgEffect_notServing h).trans (if_neg hz), cfgEffect_absent, cfgEffect_stranger, fun h hc hn hr =>
      ⟨cfgEffect_read h hc hn hr, fun v hv => ⟨cfgEffect_write h hc hn hr hv, fun hreg hz => ?_⟩⟩⟩
    rw [cfgEffect_write h hc hn hr hv, hreg, hz]
    rfl
  · exact ⟨_, answers_cmd (n := "APERTURE_READ") rfl hp, fun d => apReadEffect_refused, fun hr =>
      ⟨fun d a hp => apReadEffect_reached hr hp rfl, fun d c => apReadEffect_bad hr, fun d => apReadEffect_wait hr⟩⟩
  · exact ⟨_, answers_cmd (n := "APERTURE_WRITE") rfl hp, apWriteEffect_absent, apWriteEffect_stranger, fun hr =>
      ⟨fun d a hp => apWriteEffect_reached hr hp rfl, fun d c => apWriteEffect_bad hr, fun d => apWriteEffect_wait hr⟩⟩
  · refine ⟨_, answers_apAtomic hi hp, fun d => apAtomicEffect_refused, fun hr => apAtomicEffect_width hr, fun hr hb => ?_⟩
    subst hb
    exact ⟨fun d a hp => apAtomicEffect_reached hr hp rfl, fun d c => apAtomicEffect_bad hr, fun d => apAtomicEffect_wait hr⟩
  · exact ⟨_, answers_cmd (n := "FUNCTION_LEVEL_RESET") rfl (by simp [hf, fnPresent, hn]), fun hz => if_pos hz, flrEffect_spec s.dev⟩
  · have h := answers_act (s := s) (c := .hpaCompletionTimeout t) (n := "HPA_COMPLETION_TIMEOUT") rfl (by simp [hr, ha, hw])
    rw [hw] at h
    exact ⟨_, h, hpaTimeout_other, hpaTimeout_parked, fun hl hp => hpaTimeout_issued hl hp (hostWork_move hw hl hp)⟩

end Sys2Proof.Machine
end

section
/-!
Received packets (R321 to R330), and O46: the checks a packet meets before its opcode's effect, the class of its PSN, and the effect.
-/
namespace Sys2Proof.Machine

/-! ### Contexts of queue pairs -/

theorem qpAt_setQp_self (d : Dev) (n : Nat) (q : Qp) : qpAt (setQp d n q) n = some q := find?_put_self ..

theorem qpAt_setQp_ne (d : Dev) {n m : Nat} (q : Qp) (h : m ≠ n) : qpAt (setQp d n q) m = qpAt d m := find?_put_ne _ _ h

@[simp] theorem qpAt_wr (d : Dev) (f : Fld) (i v n : Nat) : qpAt (wr d f i v) n = qpAt d n := by rw [qpAt, wr_tr]; rfl

@[simp] theorem qpAt_modRun (d : Dev) (n m : Nat) (f : QpRun → QpRun) : qpAt (modRun d n f) m = qpAt d m := rfl

/-! ### The park (R325) -/

section
variable {d : Dev} {r : RxPkt}

theorem parkRx_full (h : parkFits d r = false) : parkRx d r = bump d .transportParkDrops := if_pos (by simp [h])

/-- A packet that fits is parked, and its context is being fetched. -/
theorem parkRx_fits (h : parkFits d r = true) : (parkRx d r).tr.parked = d.tr.parked ++ [r] ∧ r.p.destQpn ∈ (parkRx d r).tr.fetching ∧
    onlyRegs { d with tr := (parkRx d r).tr } (parkRx d r) [(.transportMissParkLevel, 0)] := by
  rw [parkRx, if_neg (by simp [h])]
  dsimp only
  rw [wr_tr]
  refine ⟨rfl, ?_, onlyRegs_wr (onlyRegs_refl _ _) (.head _)⟩
  dsimp only [onTr_tr]
  split
  next hc => exact List.contains_iff_mem.1 hc
  next => exact List.mem_append_right _ List.mem_cons_self

/-! ### Steps 2 to 7 (R321) -/

theorem accept_noContext (h : qpPlace d r.p.destQpn = none) : accept d r = (bump d .transportRxNoContext, none) := if_pos (by simp [h])

section
variable (hp : qpPlace d r.p.destQpn ≠ none)
include hp

/-- A packet whose context is not resident is parked. -/
theorem accept_parks (h : d.tr.fetching.contains r.p.destQpn = true ∨ qpAt d r.p.destQpn = none) : accept d r = (parkRx d r, none) := by
  unfold accept
  dsimp only
  rw [if_neg (by simpa using hp)]
  split
  · rfl
  next hf => rw [h.resolve_left hf]

section
variable {q : Qp} (hf : d.tr.fetching.contains r.p.destQpn = false) (hq : qpAt d r.p.destQpn = some q)
include hf hq

theorem accept_closed (h : qpReceives q = false) : accept d r = (bump d .transportRxStateDrops, none) := by
  simp [accept, hp, hf, hq, h, -List.contains_eq_mem]

variable (h : qpReceives q = true)
include h

theorem accept_stranger (hs : r.p.srcIp ≠ q.remoteIp ∨ r.p.srcQpn ≠ q.remoteQpn) : accept d r = (bump d .transportRxMalformed, none) := by
  simp [accept, hp, hf, hq, h, hs, -List.contains_eq_mem]

variable (hi : r.p.srcIp = q.remoteIp) (hs : r.p.srcQpn = q.remoteQpn)
include hi hs

theorem accept_noKey (ho : openUnder (touch d r.p.destQpn) q.part q.rxSlot r.p.mark = .noKey) :
    accept d r = (bump (touch d r.p.destQpn) .yewNoKeyDrops, none) := by
  simp [accept, hp, hf, hq, h, hi, hs, ho, -List.contains_eq_mem]

theorem accept_forged (ho : openUnder (touch d r.p.destQpn) q.part q.rxSlot r.p.mark = .bad) :
    accept d r = (authFail (touch d r.p.destQpn) r.p.destQpn q, none) := by
  simp [accept, hp, hf, hq, h, hi, hs, ho, -List.contains_eq_mem]

end
end
end

/-! ### Requests and responses that are accepted (R321 to R323, R327) -/

/-- A request's mark is noted for the next ACK (R330). -/
def markNoted (g : Dev) (r : RxPkt) : Dev := if r.p.ecn = 3 then modRun g r.p.destQpn fun x => { x with ece := x.ece + 1 } else g

/-- A request with a new PSN: a hold answers it, a malformed one is refused, any other has its opcode's effect. -/
def newRequest (g : Dev) (q : Qp) (r : RxPkt) (fresh : Dev → Qp → RxPkt → Dev) : Dev :=
  match holdOf g r.p.destQpn r.p.psn with
  | some h =>
    if h.aborted then refuse (dropHold g r.p.destQpn r.p.psn) q r (if r.p.opcode = 2 then readPsns r.p else 1) 5 h.cause
    else nakFor g r 2
  | none =>
    if malformed r.p then
      let c := choose g 17
      refuse c.2 q r 1 4 (0x20 + c.1)
    else fresh g q r

section
variable {g : Dev} {q : Qp} {r : RxPkt} {fresh : Dev → Qp → RxPkt → Dev}

theorem newRequest_held {h : RxHold} (hh : holdOf g r.p.destQpn r.p.psn = some h) (hb : h.aborted = false) : newRequest g q r fresh = nakFor g r 2 := by
  rw [newRequest, hh]
  exact if_neg (by simp [hb])

theorem newRequest_aborted {h : RxHold} (hh : holdOf g r.p.destQpn r.p.psn = some h) (hb : h.aborted = true) : newRequest g q r fresh =
    refuse (dropHold g r.p.destQpn r.p.psn) q r (if r.p.opcode = 2 then readPsns r.p else 1) 5 h.cause := by
  rw [newRequest, hh]
  exact if_pos hb

section
variable (hh : holdOf g r.p.destQpn r.p.psn = none)
include hh

theorem newRequest_malformed (hm : malformed r.p = true) : ∃ c g', 0x20 ≤ c ∧ c ≤ 0x30 ∧ { g' with free := g.free } = g ∧
    newRequest g q r fresh = refuse g' q r 1 4 c := by
  refine ⟨0x20 + (choose g 17).1, (choose g 17).2, by omega, ?_, rfl, ?_⟩
  · have hlt : (choose g 17).1 < 17 := Nat.mod_lt _ (by decide)
    omega
  · rw [newRequest, hh]
    exact if_pos hm

theorem newRequest_fresh (hm : malformed r.p = false) : newRequest g q r fresh = fresh g q r := by
  rw [newRequest, hh]
  exact if_neg (by simp [hm])

end
end

section
variable {d g : Dev} {r : RxPkt}

section
variable {dup fresh : Dev → Qp → RxPkt → Dev}

theorem request_dropped (ha : accept d r = (g, none)) : request d r dup fresh = g := by rw [request, ha]

/-- An accepted request goes on by the class of its PSN. (The class is made a variable, so that the kernel does not evaluate it.) -/
theorem request_accepted {q : Qp} (ha : accept d r = (g, some q)) :
    (rxClass q r.p.psn = .beyond → request d r dup fresh = bump (markNoted g r) .transportRxBeyondWindow) ∧
    (rxClass q r.p.psn = .dup → request d r dup fresh = dup (bump (markNoted g r) .transportRxDuplicates) q r) ∧
    (rxClass q r.p.psn = .new → request d r dup fresh = newRequest (markNoted g r) q r fresh) := by
  obtain ⟨cls, hcls⟩ : ∃ c, c = rxClass := ⟨_, rfl⟩
  unfold request
  rw [← hcls]
  split
  next h => exact nomatch (h.symm.trans ha)
  next g' q' h =>
    obtain ⟨rfl, hq⟩ := Prod.mk.inj (h.symm.trans ha)
    obtain rfl := Option.some.inj hq
    dsimp only
    rw [← markNoted]
    split
    next hc => simp [hc]
    next hc => simp [hc]
    next hc =>
      simp only [hc, reduceCtorEq, false_imp_iff, true_and, true_imp_iff]
      rfl

end

section
variable {effect : Dev → Qp → RxPkt → Dev}

theorem response_dropped (ha : accept d r = (g, none)) : response d r effect = g := by rw [response, ha]

theorem response_malformed {q : Qp} (ha : accept d r = (g, some q)) (hm : malformed r.p = true) :
    response d r effect = bump g .transportRxMalformed := by
  rw [response, ha]
  exact if_pos hm

theorem response_sound {q : Qp} (ha : accept d r = (g, some q)) (hm : malformed r.p = false) : response d r effect = effect g q r := by
  rw [response, ha]
  exact if_neg (by simp [hm])

end
end

/-! ### What each opcode's packet does -/

/-- An ACK's effect (R331, R345). -/
def rxAck (g : Dev) (_ : Qp) (r : RxPkt) : Dev := afterAck (applyAck g r.p.destQpn r.p) r.p.destQpn

/-- A NAK's effect (R303, R331). -/
def rxNak (g : Dev) (_ : Qp) (r : RxPkt) : Dev :=
  let n := r.p.destQpn
  let psn := cut r.p.ext 192 32
  let g := match recAt g n psn with
    | some x =>
      match msgById g x.msg with
      | some m => nakRec g x m psn (cut r.p.ext 176 8)
      | none => g
    | none => g
  afterAck (applyAck g n r.p) n

/-- The answer of a PROBE (R347). -/
def probeAnswer (g : Dev) (q : Qp) (r : RxPkt) : Dev :=
  enqueueReady g r.p.destQpn { basePacket g r.p.destQpn q 13 with
    ext := packFields [(0, 32, cut r.p.ext 0 32), (32, 6, r.p.path), (64, 32, r.p.txTs)] }

/-- A PROBE is answered once accepted. -/
def rxProbe (d : Dev) (r : RxPkt) : Dev :=
  match accept d r with
  | (d, none) => d
  | (d, some q) => probeAnswer d q r

/-- The meaning of an opcode's row, after the packet has been taken. -/
def rxEffect (op : Nat) (d : Dev) (r : RxPkt) : Dev :=
  match op with
  | 1 => request d r dupAck rxWrite
  | 2 => request d r dupRead (rxRead false)
  | 3 => response d r rxReadResp
  | 4 => request d r dupAck rxSend
  | 5 => request d r dupAtomic rxAtomic
  | 6 => response d r rxAtomicResp
  | 7 => request d r dupAck rxAttend
  | 8 => request d r dupAck rxAttendReply
  | 9 => request d r dupAck rxReduce
  | 10 => response d r rxAck
  | 11 => response d r rxNak
  | 12 => rxProbe d r
  | _ => response d r probeBack

/-- The oldest received packet is taken. -/
def rxTaken (d : Dev) : Dev := onTr d fun t => { t with rx := t.rx.drop 1 }

/-- A row of R321 takes the oldest packet, which has its opcode. -/
theorem answers_rxRow {s : State} {c : Instr} {name : String} {op : Nat} {r : RxPkt} (effect : Dev → RxPkt → Dev) (h : exec c s = rxRow s name op effect)
    (hr : rxFront s.dev op = some r) : Answers c s (effect (rxTaken s.dev) r) := by
  refine (answers_act h (by rw [hr]; rfl)).trans ?_
  rw [hr]
  rfl

theorem rxFront_opcode {d : Dev} {op : Nat} {r : RxPkt} (h : rxFront d op = some r) : r.p.opcode = op := by
  unfold rxFront at h
  split at h
  next => exact eq_of_beq (Option.filter_eq_some_iff.1 h).2
  next => exact nomatch h

/-- The row of each opcode. -/
theorem exec_rx {s : State} {op : Nat} {c : Instr}
    (hm : (op, c) ∈ [(1, Instr.clahimWrite), (2, .readReq), (3, .readResp), (4, .send), (5, .clahimAtomic), (6, .atomicResp), (7, .attend),
      (8, .attendReply), (9, .reduce), (10, .ack), (11, .nak), (12, .probe), (13, .probeReply)]) :
    ∃ name, exec c s = rxRow s name op (rxEffect op) := by
  simp only [List.mem_cons, Prod.mk.injEq, List.not_mem_nil, or_false] at hm
  rcases hm with ⟨rfl, rfl⟩ | ⟨rfl, rfl⟩ | ⟨rfl, rfl⟩ | ⟨rfl, rfl⟩ | ⟨rfl, rfl⟩ | ⟨rfl, rfl⟩ | ⟨rfl, rfl⟩ | ⟨rfl, rfl⟩ | ⟨rfl, rfl⟩ | ⟨rfl, rfl⟩ |
    ⟨rfl, rfl⟩ | ⟨rfl, rfl⟩ | ⟨rfl, rfl⟩
  all_goals exact ⟨_, rfl⟩

/-- A packet that steps 2 to 7 do not let pass leaves what they leave, whatever its opcode. -/
theorem rxEffect_dropped (op : Nat) {d g : Dev} {r : RxPkt} (ha : accept d r = (g, none)) : rxEffect op d r = g := by
  unfold rxEffect
  split
  case h_12 => rw [rxProbe, ha]
  case h_3 | h_6 | h_10 | h_11 | h_13 => exact response_dropped ha
  all_goals exact request_dropped ha

/-! ### Placed packets (R322, R330) -/

/-- The class of a PSN is its place in the window from RX_EXPECTED on. -/
theorem rxClass_at {q : Qp} {x : Nat} (hq : q.rxExpected < 2 ^ 32) (hx : x < 2 ^ 32) : rxClass q ((q.rxExpected + x) % 2 ^ 32) =
    if x < 1024 then (if bitOf q.rxMap ((q.rxExpected + x) % 2 ^ 32 % 1024) then .dup else .new)
    else if x ≥ 2 ^ 31 then .dup else .beyond := by
  have hs : seqSub ((q.rxExpected + x) % 2 ^ 32) q.rxExpected = x := by
    unfold seqSub w32
    omega
  unfold rxClass
  rw [hs]

/-- The receive state of a queue pair: what step 10 of R321 leaves of RX_EXPECTED, RX_MAP and RX_HIGH. -/
def rxState (q : Qp) : Nat × Nat × Nat := (q.rxExpected, q.rxMap, q.rxHigh)

/-- Queueing a packet moves the path cursor of its queue pair only. -/
theorem rxState_enqueueReady (d : Dev) (n : Nat) (p : Packet) : (qpAt (enqueueReady d n p) n).map rxState = (qpAt d n).map rxState := by
  unfold enqueueReady
  split
  next h => rw [h]
  next q h =>
    dsimp only
    split
    next x hx =>
      unfold enqueue at hx
      split at hx
      next => exact nomatch hx
      next i sub _ =>
        obtain rfl := Option.some.inj hx
        rw [qpAt_setQp_self, h]
        rfl
    next => rfl

theorem rxState_sendAck (d : Dev) (n ts path synd psn : Nat) : (qpAt (sendAck d n ts path synd psn) n).map rxState = (qpAt d n).map rxState := by
  unfold sendAck
  split
  next h => rw [h]
  next => exact (rxState_enqueueReady _ n _).trans (congrArg _ (qpAt_modRun _ _ _ _))

/-- A placed packet's PSNs are received. -/
theorem rxState_placed {d : Dev} {q : Qp} {r : RxPkt} (k : Nat) (hq : qpAt d r.p.destQpn = some q) :
    (qpAt (placed d r k) r.p.destQpn).map rxState = some (rxState (rxMark q r.p.psn k)) := by
  have hs (f : QpRun → QpRun) : (qpAt (modRun (setQp d r.p.destQpn (rxMark q r.p.psn k)) r.p.destQpn f) r.p.destQpn).map rxState =
      some (rxState (rxMark q r.p.psn k)) := by
    rw [qpAt_modRun, qpAt_setQp_self]
    rfl
  unfold placed
  dsimp only
  rw [hq]
  dsimp only
  split
  · exact (rxState_sendAck _ _ _ _ _ _).trans (hs _)
  · exact hs _

/-! ### A WRITE (R321 step 10, R428) -/

section
variable {d d' : Dev} {q : Qp} {r : RxPkt}

theorem rxWrite_denied (h : regionCheck d q.part q.pd r.p.fa (q.faEnable = 1) r.p.rh r.p.addr r.p.length 3 = (d', none)) :
    rxWrite d q r = refuse d' q r 1 3 0x23 := by
  unfold rxWrite
  dsimp only
  rw [h]

section
variable {t : Target} {d'' : Dev} (h : regionCheck d q.part q.pd r.p.fa (q.faEnable = 1) r.p.rh r.p.addr r.p.length 3 = (d', some t))
include h

theorem rxWrite_placed {x : List Byte} (hp : rxPlace d' q .other t r.p.payload = (d'', .ok x)) : rxWrite d q r = placed d'' r 1 := by
  unfold rxWrite
  dsimp only
  rw [h]
  dsimp only
  rw [hp]

theorem rxWrite_failed {x : Nat} (hp : rxPlace d' q .other t r.p.payload = (d'', .mfail x)) : rxWrite d q r = refuse d'' q r 1 (memSynd x) x := by
  unfold rxWrite
  dsimp only
  rw [h]
  dsimp only
  rw [hp]

end
end

/-! ### A NAK (R303) -/

section
variable {g : Dev} {q : Qp} {r : RxPkt}

theorem rxNak_unrecorded (h : recAt g r.p.destQpn (cut r.p.ext 192 32) = none) :
    rxNak g q r = afterAck (applyAck g r.p.destQpn r.p) r.p.destQpn := by
  unfold rxNak
  dsimp only
  rw [h]

theorem rxNak_recorded {x : Rec} {m : SendMsg} (h : recAt g r.p.destQpn (cut r.p.ext 192 32) = some x) (hm : msgById g x.msg = some m) :
    rxNak g q r = afterAck (applyAck (nakRec g x m (cut r.p.ext 192 32) (cut r.p.ext 176 8)) r.p.destQpn r.p) r.p.destQpn := by
  unfold rxNak
  dsimp only
  rw [h]
  dsimp only
  rw [hm]

end

/-! ### The obligation -/

/-- The requests of R322, with what answers a duplicate and what a new one does. -/
theorem rxEffect_request {op : Nat} {dup k : Dev → Qp → RxPkt → Dev}
    (h : (op, dup, k) ∈ [(1, dupAck, rxWrite), (2, dupRead, rxRead false), (4, dupAck, rxSend), (5, dupAtomic, rxAtomic), (7, dupAck, rxAttend),
      (8, dupAck, rxAttendReply), (9, dupAck, rxReduce)]) (d : Dev) (r : RxPkt) : rxEffect op d r = request d r dup k := by
  simp only [List.mem_cons, Prod.mk.injEq, List.not_mem_nil, or_false] at h
  rcases h with ⟨rfl, rfl, rfl⟩ | ⟨rfl, rfl, rfl⟩ | ⟨rfl, rfl, rfl⟩ | ⟨rfl, rfl, rfl⟩ | ⟨rfl, rfl, rfl⟩ | ⟨rfl, rfl, rfl⟩ | ⟨rfl, rfl, rfl⟩
  all_goals rfl

/-- The responses, acknowledgements and probe replies of R323, with what a sound one does. -/
theorem rxEffect_response {op : Nat} {k : Dev → Qp → RxPkt → Dev}
    (h : (op, k) ∈ [(3, rxReadResp), (6, rxAtomicResp), (10, rxAck), (11, rxNak), (13, probeBack)]) (d : Dev) (r : RxPkt) :
    rxEffect op d r = response d r k := by
  simp only [List.mem_cons, Prod.mk.injEq, List.not_mem_nil, or_false] at h
  rcases h with ⟨rfl, rfl⟩ | ⟨rfl, rfl⟩ | ⟨rfl, rfl⟩ | ⟨rfl, rfl⟩ | ⟨rfl, rfl⟩
  all_goals rfl

theorem rxEffect_probe {d g : Dev} {r : RxPkt} {q : Qp} (ha : accept d r = (g, some q)) : rxEffect 12 d r = probeAnswer g q r := by
  rw [rxEffect, rxProbe, ha]

/-- Settles O46: the checks of R321 in their order, then the opcode's own rule. -/
theorem receivedPackets : Obligations.ReceivedPackets := by
  unfold Obligations.ReceivedPackets
  refine ⟨fun s op c r hm hr => ?_, fun d d' q r => ⟨rxWrite_denied, fun t d'' ht => ⟨fun x => rxWrite_placed ht, fun x => rxWrite_failed ht⟩⟩,
    fun d q r k hq => rxState_placed k hq, fun q x hq hx => ?_⟩
  · obtain ⟨name, hx⟩ := exec_rx (s := s) hm
    intro n d
    refine ⟨rxEffect op d r, answers_rxRow _ hx hr, fun h => rxEffect_dropped op (accept_noContext h), fun hp h => ?_,
      fun q hp hf hq => ⟨fun hc => rxEffect_dropped op (accept_closed hp hf hq hc), fun hc => ⟨fun hs => ?_, fun hi hs => ⟨fun ho => ?_, fun ho => ?_⟩⟩⟩,
      fun q g ha => ⟨fun dup k hk => ?_, fun ho hb => ?_, fun k hk hb => ?_, fun ho hb => ?_, fun ho hb => ⟨fun hn => ?_, fun x m hx hm => ?_⟩, fun ho => ?_⟩⟩
    · rw [rxEffect_dropped op (accept_parks hp h)]
      exact ⟨parkRx_full, parkRx_fits⟩
    · exact rxEffect_dropped op (accept_stranger hp hf hq hc hs)
    · exact rxEffect_dropped op (accept_noKey hp hf hq hc hi hs ho)
    · exact rxEffect_dropped op (accept_forged hp hf hq hc hi hs ho)
    · obtain ⟨hbeyond, hdup, hnew⟩ := request_accepted (dup := dup) (fresh := k) ha
      rw [rxEffect_request hk, ← rxFront_opcode hr]
      refine ⟨hbeyond, hdup, fun hc => ?_⟩
      rw [hnew hc]
      exact ⟨fun h => newRequest_held, fun h => newRequest_aborted, newRequest_malformed, newRequest_fresh⟩
    · obtain ⟨k, hk⟩ : ∃ k, (op, k) ∈ [(3, rxReadResp), (6, rxAtomicResp), (10, rxAck), (11, rxNak), (13, probeBack)] := by
        simpa [or_and_right, exists_or] using ho
      rw [rxEffect_response hk]
      exact response_malformed ha hb
    · rw [rxEffect_response (k := k) (by simp only [List.mem_cons] at hk ⊢; tauto)]
      exact response_sound ha hb
    · rw [ho, rxEffect_response (k := rxAck) (by simp)]
      exact response_sound ha hb
    · rw [ho, rxEffect_response (k := rxNak) (by simp), response_sound ha hb]
      exact rxNak_unrecorded hn
    · rw [ho, rxEffect_response (k := rxNak) (by simp), response_sound ha hb]
      exact rxNak_recorded hx hm
    · rw [ho]
      exact rxEffect_probe ha
  · intro psn
    rw [rxClass_at hq hx]
    refine ⟨fun h => ?_, fun h h' => ?_, fun h => ?_⟩
    · rw [if_pos h]
      dsimp only [psn]
      cases bitOf q.rxMap ((q.rxExpected + x) % 2 ^ 32 % 1024) <;> simp
    · rw [if_neg (by omega), if_neg (by omega)]
    · rw [if_neg (by omega), if_pos h]

end Sys2Proof.Machine
end

section
/-!
What accesses to memory and collectives leave of the transport engine: nothing of it changes but what each names.
-/
namespace Sys2Proof.Machine

/-! ### Registers written, memory read -/

/-- A plain field's write leaves every other field's reading. -/
theorem rd_wr_plain_ne (d : Dev) {f g : Fld} (i j v : Nat) (hf : f.info.voted = false) (h : g ≠ f) : rd (wr d f i v) g j = rd d g j :=
  rd_wr_other d v (.inl fun hm => (voted_of_mem_votedWith hm).elim (fun e => h e.symm) fun hv => by simp [hf] at hv)

@[simp] theorem bump_tr (d : Dev) (f : Fld) (i n : Nat) : (bump d f i n).tr = d.tr := wr_tr ..

theorem MemOnly.tr {d e : Dev} (h : MemOnly d e) : e.tr = d.tr := by
  obtain ⟨_, _, _, _, _, _, _, _, rfl⟩ := h.rest
  rfl

theorem tr_foldl {α : Type} {g : Dev → α → Dev} (h : ∀ d x, (g d x).tr = d.tr) (l : List α) (d : Dev) : (l.foldl g d).tr = d.tr := by
  induction l generalizing d with
  | nil => rfl
  | cons x t ih => exact (ih _).trans (h d x)

@[simp] theorem wake_tr (d : Dev) (m : Domain) : (wake d m).tr = d.tr := by rw [wake_eq]

@[simp] theorem inject_tr (d : Dev) (x : Nat) : (inject d x).tr = d.tr := by rw [inject_eq]

theorem answered_tr {α : Type} (src dest : Nat) (x : Dev × Option Nat × α) : (answered src dest x).1.tr = x.1.tr := by
  unfold answered responseCause
  dsimp only
  split
  · rfl
  · exact bump_tr ..
  · rfl

/-! ### Translation (R207 to R214) -/

section
variable (d : Dev)

@[simp] theorem tlbPut_tr (e : TlbEntry) : (tlbPut d e).tr = d.tr := by
  unfold tlbPut
  dsimp only
  split
  · rfl
  · rfl

theorem walkFrom_tr (q p dva : Nat) (kind : Kind) (needPin cached : Bool) (fuel lvl t prev : Nat) :
    (walkFrom q p dva kind needPin cached fuel lvl t prev d).1.tr = d.tr := by
  induction fuel generalizing lvl t prev d with
  | zero => rfl
  | succ fuel ih =>
    unfold walkFrom
    split
    · rfl
    extract_lets a r got
    have hr : r.1.tr = d.tr := (memOnly_memRead d a 8).tr
    clear_value r
    have hgot : got.1.tr = d.tr := by
      dsimp only [got]
      split
      · rfl
      · split
        · rfl
        · exact hr
    clear_value got
    rcases got with ⟨g, _ | c, e⟩
    · dsimp only at hgot ⊢
      split
      · exact hgot
      split
      · exact hgot
      split
      · split
        · exact hgot
        · split
          · exact hgot
          · exact hgot
      · have hw := (ih g (lvl + 1) (pteOa e) e).trans hgot
        split
        next h => rwa [h] at hw
        next => exact hw
    · exact hgot

theorem walk_tr (q p dva : Nat) (kind : Kind) (needPin cached : Bool) : (walk d q p dva kind needPin cached).1.tr = d.tr :=
  (walkFrom_tr ..).trans (bump_tr ..)

theorem cacheWalk_tr (c : Option CacheId) (q p dva pte lvl : Nat) (ts : List (Nat × Nat)) : (cacheWalk d c q p dva pte lvl ts).tr = d.tr := by
  have ht := tr_foldl (g := fun d te => tlbPut d { cache := .sliceTable q, part := p, level := te.1, tag := dva >>> lvlShift te.1, pte := te.2 })
    (fun d _ => tlbPut_tr d _) ts d
  unfold cacheWalk
  dsimp only
  split
  · rw [tlbPut_tr, tlbPut_tr, ht]
  · rw [tlbPut_tr, ht]

theorem noteStall_tr (k : Lookup) : (noteStall d k).tr = d.tr := by
  unfold noteStall
  split
  · rfl
  · exact bump_tr ..

theorem again_tr (who : Agent) (p dva : Nat) (kind : Kind) (needPin : Bool) : (xlate.again who p dva kind needPin d).1.tr = d.tr := by
  unfold xlate.again
  split
  · rfl
  split
  · rfl
  next q _ =>
    have hw := walk_tr d q p dva kind needPin false
    split
    next h =>
      rw [h] at hw
      exact (cacheWalk_tr ..).trans hw
    next h => rwa [h] at hw

theorem xlate_tr (who : Agent) (p dva : Nat) (kind : Kind) (needPin : Bool) : (xlate d who p dva kind needPin).1.tr = d.tr := by
  unfold xlate
  split
  · rfl
  split
  · exact noteStall_tr ..
  dsimp only
  split
  · split
    · rfl
    · exact again_tr ..
  split
  · split
    · rfl
    · rfl
  next q _ =>
    split
    · split
      · split
        · exact tlbPut_tr ..
        · rfl
      · exact again_tr ..
    split
    · rfl
    have hw := walk_tr d q p dva kind needPin true
    split
    next h =>
      rw [h] at hw
      exact (cacheWalk_tr ..).trans hw
    next h =>
      rw [h] at hw
      exact (again_tr ..).trans hw

theorem footprint_tr (c : Agent) (p : Nat) (kind : Kind) (needPin : Bool) (fuel dva len : Nat) :
    (footprint c p kind needPin fuel dva len d).1.tr = d.tr := by
  induction fuel generalizing dva len d with
  | zero => rfl
  | succ fuel ih =>
    unfold footprint
    split
    · rfl
    have hx := xlate_tr d c p dva kind needPin
    dsimp only
    split
    next h => rwa [h] at hx
    next h => rwa [h] at hx
    next g x a h =>
      rw [h] at hx
      have hr := (ih g (dva + min len (65536 - dva % 65536)) (len - min len (65536 - dva % 65536))).trans hx
      split
      next h => rwa [h] at hr
      next => exact hr

theorem translate_tr (c : Agent) (p dva len : Nat) (kind : Kind) (needPin : Bool) : (translate d c p dva len kind needPin).1.tr = d.tr :=
  footprint_tr ..

/-! ### Writes by DVA -/

theorem hostReach_tr (src m a n : Nat) : (hostReach d src m a n).1.tr = d.tr := by
  unfold hostReach
  split
  · exact bump_tr ..
  split
  · rfl
  · rfl

theorem hostWrite_tr (src m a : Nat) (bs : List Byte) : (hostWrite d src m a bs).1.tr = d.tr := by
  have hr := hostReach_tr d src m a bs.length
  unfold hostWrite
  split
  next h => rwa [h] at hr
  next h =>
    rw [h] at hr
    exact (answered_tr ..).trans hr

theorem reach_tr (src p a n : Nat) : (reach d src p a n).1.tr = d.tr := by
  unfold reach
  split
  · rfl
  extract_lets g
  have hg : g.tr = d.tr := by
    dsimp only [g]
    split
    · split
      · rfl
      · exact inject_tr ..
    · rfl
  clear_value g
  split
  · exact hg
  split
  · exact hg
  split
  · exact hg
  split
  · exact (bump_tr ..).trans hg
  split
  · exact (bump_tr ..).trans hg
  · exact hg

theorem collide_tr (w : Writer) (src a : Nat) : (collide d w src a).tr = d.tr := by
  unfold collide
  split
  · dsimp only
    split
    · rfl
    · split
      · rfl
      · rfl
  · rfl

theorem writeKept_tr (byItem : Bool) (lost : List Nat) (fuel a : Nat) (bs : List Byte) : (writeKept d byItem lost fuel a bs).1.tr = d.tr := by
  induction fuel generalizing d a bs with
  | zero => rfl
  | succ fuel ih =>
    unfold writeKept
    split
    · rfl
    dsimp only
    rw [ih]
    split
    · rfl
    · exact (memOnly_memWrite ..).tr

theorem drawLost_tr (fuel a n : Nat) : (drawLost fuel a n d).1.tr = d.tr := by
  induction fuel generalizing a n d with
  | zero => rfl
  | succ fuel ih =>
    unfold drawLost
    split
    · rfl
    · exact ih (choose d 2).2 _ _

theorem memStore_tr (w : Writer) (src a : Nat) (bs : List Byte) : (memStore d w src a bs).1.tr = d.tr := by
  unfold memStore
  split
  · split
    · exact (writeKept_tr ..).trans ((tr_foldl (fun d x => collide_tr d w src x) _ _).trans (drawLost_tr ..))
    · exact (memOnly_memWrite ..).tr
  · exact (memOnly_memWrite ..).tr

theorem dirtyBlock_tr (x : Dirty) (a : Nat) : (dirtyBlock d x a).tr = d.tr := rfl

theorem dirtied_tr (w : Writer) (p a n : Nat) : (dirtied d w p a n).tr = d.tr := by
  unfold dirtied
  split
  · rfl
  · dsimp only
    exact tr_foldl (fun d _ => dirtyBlock_tr d _ _) _ _

theorem segWrite_tr (p : Nat) (w : Writer) (s : Seg) (bs : List Byte) : (segWrite d p w s bs).1.tr = d.tr := by
  unfold segWrite
  split
  · have hw := hostWrite_tr d s.src (hpaModule d s.addr) s.addr bs
    split
    next h =>
      rw [h] at hw
      exact (dirtied_tr ..).trans hw
    next => exact hw
  · have hr := reach_tr d s.src p s.addr s.len
    split
    next h => rwa [h] at hr
    next h =>
      rw [h] at hr
      exact (answered_tr ..).trans ((memStore_tr ..).trans hr)

theorem segsWrite_tr (p : Nat) (w : Writer) (segs : List Seg) (bs : List Byte) : (segsWrite d p w segs bs).1.tr = d.tr := by
  induction segs generalizing d bs with
  | nil => rfl
  | cons s t ih => exact (ih _ _).trans (segWrite_tr ..)

/-- A write by DVA changes nothing of the transport engine. -/
theorem dvaWrite_tr (c : Agent) (p dva : Nat) (bs : List Byte) (needPin : Bool) (w : Writer) : (dvaWrite d c p dva bs needPin w).1.tr = d.tr := by
  have ht := translate_tr d c p dva bs.length .write needPin
  unfold dvaWrite
  split
  next h => rwa [h] at ht
  next h => rwa [h] at ht
  next g segs h =>
    rw [h] at ht
    have hs := (segsWrite_tr g p w segs bs).trans ht
    split
    · exact ht
    split
    next h => rwa [h] at hs
    next h => rwa [h] at hs

end

end Sys2Proof.Machine
end

section
/-!
The end of a message, and with it that of a collective's contribution (R291, R402 to R408), leaves every queue pair's context.
-/
namespace Sys2Proof.Machine

section
variable (d : Dev)

theorem freeBytes_tr (n : Nat) : (freeBytes n d).1.tr = d.tr := by
  induction n generalizing d with
  | zero => rfl
  | succ n ih => exact ih (choose d 256).2

theorem collShow_tr : (collShow d).tr = d.tr := wr_tr ..

theorem collFree_tr (g n : Nat) : (collFree d g n).tr = d.tr := collShow_tr _

/-- DST left with free bytes is memory only. -/
theorem collLoose_tr (g : Nat) (r : CollRun) : (collLoose d g r).tr = d.tr := by
  unfold collLoose
  split
  · rfl
  refine tr_foldl (fun d k => ?_) _ d
  have hf := freeBytes_tr d (collS r.desc)
  dsimp only
  split
  next h =>
    have hw := dvaWrite_tr (freeBytes (collS r.desc) d).1 collAgent r.part (dstChunk r.desc k) (freeBytes (collS r.desc) d).2 true (.coll g)
    rw [h] at hw
    exact hw.trans hf
  next => exact hf

theorem collRoundTime_tr (r : CollRun) : (collRoundTime d r).2.2.tr = d.tr := by
  unfold collRoundTime
  split
  · rfl
  · rfl

/-- What a failed group orphans of its messages leaves every context. -/
theorem collOrphan_qps (g : Nat) : (collOrphan d g).tr.qps = d.tr.qps := rfl

theorem collPost_tr (g : Nat) (r : CollRun) (c : Nat) : (collPost d g r c).tr = d.tr := collRoundTime_tr d r

theorem collEnd_tr (g : Nat) (r : CollRun) (c : Nat) : (collEnd d g r c).tr = d.tr := by
  unfold collEnd
  extract_lets d1 held d2 d3
  have h2 : d2.tr = d.tr := by
    dsimp only [d2]
    split
    · rfl
    · rfl
  have h3 : d3.tr = d.tr := (collShow_tr _).trans h2
  clear_value d3
  split
  · exact (collPost_tr ..).trans h3
  · exact h3

/-- A collective that fails changes messages, and users of contexts to come; no context. -/
theorem collFail_qps (g c rank : Nat) : (collFail d g c rank).tr.qps = d.tr.qps := by
  unfold collFail
  split
  · rfl
  next r _ =>
    have hw : (wr (wr (bump (collLoose d g r) .transportCollFailed) .transportCollGroupState g 3) .transportCollGroupLastCause g c).tr = d.tr :=
      (wr_tr ..).trans ((wr_tr ..).trans ((bump_tr ..).trans (collLoose_tr ..)))
    exact (congrArg TrSt.qps (collEnd_tr ..)).trans ((collOrphan_qps ..).trans (congrArg TrSt.qps hw))

theorem collSent_qps (g id c : Nat) : (collSent d g id c).tr.qps = d.tr.qps := by
  unfold collSent
  split
  · rfl
  split
  · rfl
  split
  · exact congrArg TrSt.qps (collFree_tr ..)
  · exact collFail_qps ..

theorem sendAnswer_tr (a : MeshAns) : (sendAnswer d a).tr = d.tr := by
  obtain ⟨p, n, g, h⟩ := sendAnswer_sent d a
  rw [h]

/-- The end of a message changes no queue pair's context. -/
theorem endMsg_qps (m : SendMsg) (c : Nat) : (endMsg d m c).tr.qps = d.tr.qps := by
  unfold endMsg
  split
  · rfl
  · dsimp only
    exact (congrArg TrSt.qps (sendAnswer_tr ..)).trans rfl
  · exact collSent_qps ..
  · rfl

end

end Sys2Proof.Machine
end

section
/-!
A queue pair that enters ERROR (R316): the other contexts stay, and of it no record and no work request is left.
-/
namespace Sys2Proof.Machine

/-! ### Steps that settle a queue pair -/

/-- The contexts other than `n`'s stay. -/
def OthersKept (n : Nat) (d e : Dev) : Prop := ∀ m, m ≠ n → qpAt e m = qpAt d m

/-- Completions and their like: the queue pair's state and cause, the records, the work requests not started and memory stay, and of the registers
all but two counts. -/
structure Settles (n : Nat) (d e : Dev) : Prop where
  others : OthersKept n d e
  own : (qpAt e n).map (fun q => (q.state, q.lastCause)) = (qpAt d n).map fun q => (q.state, q.lastCause)
  recs : e.tr.recs = d.tr.recs
  wrs : (runOf e n).wrs = (runOf d n).wrs
  mem : e.mem = d.mem
  regs : keepsRegs d e [(.transportSticky, 0), (.transportLiveSets, 0)]

theorem OthersKept.trans {n : Nat} {d e f : Dev} (h : OthersKept n d e) (h' : OthersKept n e f) : OthersKept n d f :=
  fun m hm => (h' m hm).trans (h m hm)

theorem othersKept_of_qps {n : Nat} {d e : Dev} (h : e.tr.qps = d.tr.qps) : OthersKept n d e := fun m _ => by rw [qpAt, qpAt, h]

theorem othersKept_foldl {α : Type} {n : Nat} {g : Dev → α → Dev} (h : ∀ d x, OthersKept n d (g d x)) (l : List α) (d : Dev) :
    OthersKept n d (l.foldl g d) := by
  induction l generalizing d with
  | nil => exact othersKept_of_qps rfl
  | cons x t ih => exact (h d x).trans (ih _)

theorem othersKept_setQp (d : Dev) (n : Nat) (q : Qp) : OthersKept n d (setQp d n q) := fun _ hm => qpAt_setQp_ne d q hm

namespace Settles
variable {n : Nat} {d e f : Dev}

theorem trans (h : Settles n d e) (h' : Settles n e f) : Settles n d f where
  others := h.others.trans h'.others
  own := h'.own.trans h.own
  recs := h'.recs.trans h.recs
  wrs := h'.wrs.trans h.wrs
  mem := h'.mem.trans h.mem
  regs := fun f i hf => (h'.regs f i hf).trans (h.regs f i hf)

/-- What changes no context, no record, no run, no memory and no register settles. -/
theorem of_eq (hq : e.tr.qps = d.tr.qps) (hr : e.tr.recs = d.tr.recs) (hu : e.tr.runs = d.tr.runs) (hm : e.mem = d.mem)
    (hg : ∀ f i, rd e f i = rd d f i) : Settles n d e where
  others := othersKept_of_qps hq
  own := by rw [qpAt, qpAt, hq]
  recs := hr
  wrs := by rw [runOf, runOf, hu]
  mem := hm
  regs := keepsRegs_of_rd (keepsRegs_refl d _) hg

theorem refl (d : Dev) : Settles n d d := of_eq rfl rfl rfl rfl fun _ _ => rfl

theorem foldl {α : Type} {g : Dev → α → Dev} (h : ∀ d x, Settles n d (g d x)) (l : List α) (d : Dev) : Settles n d (l.foldl g d) := by
  induction l generalizing d with
  | nil => exact refl d
  | cons x t ih => exact (h d x).trans (ih _)

theorem wr (f : Fld) (i v : Nat) (h : (f, i) ∈ [(Fld.transportSticky, 0), (.transportLiveSets, 0)]) : Settles n d (wr d f i v) where
  others := fun m _ => qpAt_wr ..
  own := by rw [qpAt_wr]
  recs := by rw [wr_tr]
  wrs := by rw [runOf, wr_tr]; rfl
  mem := wr_mem ..
  regs := keepsRegs_wr (keepsRegs_refl d _) h

theorem setQp {q x : Qp} (hx : qpAt d n = some x) (hs : q.state = x.state) (hc : q.lastCause = x.lastCause) : Settles n d (setQp d n q) where
  others := othersKept_setQp d n q
  own := by rw [qpAt_setQp_self, hx, Option.map_some, Option.map_some, hs, hc]
  recs := rfl
  wrs := rfl
  mem := rfl
  regs := keepsRegs_of_rd (keepsRegs_refl d _) fun _ _ => rfl

theorem modQp {f : Qp → Qp} (hs : ∀ q, (f q).state = q.state) (hc : ∀ q, (f q).lastCause = q.lastCause) : Settles n d (modQp d n f) := by
  unfold Machine.modQp
  split
  next h => exact setQp h (hs _) (hc _)
  next => exact refl d

theorem modRun {f : QpRun → QpRun} (h : ∀ r, (f r).wrs = r.wrs) : Settles n d (modRun d n f) where
  others := othersKept_of_qps rfl
  own := rfl
  recs := rfl
  wrs := by
    rw [runOf, Machine.modRun, onTr_tr, getD_putD_self, h]
    rfl
  mem := rfl
  regs := keepsRegs_of_rd (keepsRegs_refl d _) fun _ _ => rfl

end Settles

section
variable (d : Dev) (n : Nat)

theorem settles_postCq (cq : Nat) (e : Entry) (op : Writer) : Settles n d (postCq d cq e op) := .of_eq rfl rfl rfl rfl fun _ _ => rfl

theorem settles_dropMsg (id : Nat) : Settles n d (dropMsg d id) := .of_eq rfl rfl rfl rfl fun _ _ => rfl

theorem settles_wrEnded (w : Nat × Desc) (c : Nat) : Settles n d (wrEnded d n w c) := .of_eq rfl rfl rfl rfl fun _ _ => rfl

/-- Completions delivered in posting order settle. -/
theorem settles_drainSq (fuel : Nat) : Settles n d (drainSq fuel d n) := by
  induction fuel generalizing d with
  | zero => exact .refl d
  | succ fuel ih =>
    unfold drainSq
    split
    · exact .refl d
    next q hq =>
    split
    · exact .refl d
    next m _ =>
    extract_lets g
    have hg : Settles n d g ∧ g.tr = d.tr := by
      dsimp only [g]
      split
      · exact ⟨settles_postCq .., rfl⟩
      · exact ⟨.refl d, rfl⟩
    obtain ⟨hg, ht⟩ := hg
    clear_value g
    have hd : qpAt (dropMsg g m.id) n = some q := by rw [← hq, qpAt, qpAt, ← ht]; rfl
    exact (hg.trans (settles_dropMsg ..)).trans ((Settles.setQp hd (by rfl) (by rfl)).trans (ih _))

theorem settles_settleUna : Settles n d (settleUna d n) := .modQp (fun _ => by rfl) fun _ => by rfl

theorem settles_rqPost (q : Qp) (ssn : Nat) (e : Entry) : Settles n d (rqPost d n q ssn e) :=
  ((settles_postCq ..).trans (.modRun fun _ => by rfl)).trans (.modQp (fun _ => by rfl) fun _ => by rfl)

/-- The end of a queue pair's open SENDs settles. -/
theorem settles_flushRecv (q : Qp) : Settles n d (flushRecv d n q) := by
  obtain ⟨order, ho⟩ : ∃ l, l = (List.range 2048).map (seqAdd q.rxSsn) := ⟨_, rfl⟩
  unfold flushRecv
  rw [← ho]
  extract_lets sends d1 _ d2
  have h1 : Settles n d d1 := .foldl (fun _ _ => .modRun fun _ => by rfl) _ _
  have h2 : Settles n d1 d2 := .foldl (fun d ssn => by
    split
    · exact settles_rqPost ..
    · exact .refl d) _ _
  have h3 : Settles n d2 (modRun d2 n fun r => { r with rqReady := [], rqEntries := [] }) := .modRun fun _ => rfl
  exact (h1.trans (h2.trans h3)).trans (.of_eq rfl rfl rfl rfl fun _ _ => rfl)

theorem settles_liveCheck (set : Nat) : Settles n d (liveCheck d set) := by
  unfold liveCheck
  extract_lets users
  split
  · exact Settles.trans (e := onTr d fun t => { t with live := t.live.filter fun e => e.2.set ≠ set }) (.of_eq rfl rfl rfl rfl fun _ _ => rfl)
      (.wr _ _ _ (.tail _ (.head _)))
  · exact .of_eq rfl rfl rfl rfl fun _ _ => rfl

/-! ### Entering ERROR -/

/-- A queue pair's context, records and packets as it has entered ERROR, with its event. -/
def errorPurged (q : Qp) : Dev :=
  let g := qpEvent (setQp d n q) n q q.lastCause
  setSticky (setSleep (setSleep (purgeTx (onTr g fun t => { t with recs := t.recs.filter fun r => r.qpn ≠ n }) n) (.sq n) none) (.rq n) none)

/-- Its messages and work requests ended. -/
def errorEnded : Dev :=
  let g := (msgsOf d n).foldl (fun d m => if m.done then d else endMsg d m 0x26) d
  modRun ((runOf g n).wrs.foldl (fun d w => wrEnded d n w 0x26) g) n fun r => { r with wrs := [], unreported := 0, pending := false }

/-- Its completions delivered. -/
def errorSettled (q : Qp) : Dev :=
  liveCheck (flushRecv (settleUna (drainSq ((msgsOf d n).length + 1) d n) n) n q) q.pathSet

variable {d n}

theorem qpError_eq {q : Qp} (c : Nat) (hq : qpAt d n = some q) (h : ¬ (q.state = 0 ∨ q.state = 5)) :
    qpError d n c = let x := { q with state := 5, lastCause := c, inflight := 0 }; errorSettled (errorEnded (errorPurged d n x) n) n x := by
  unfold qpError qpErrorWith
  rw [hq]
  dsimp only
  rw [if_neg h, if_pos rfl]
  unfold errorSettled errorEnded errorPurged
  dsimp only
  simp only [if_true]

theorem qpError_idle {q : Qp} (c : Nat) (hq : qpAt d n = some q) (h : q.state = 0 ∨ q.state = 5) : qpError d n c = d := by
  unfold qpError qpErrorWith
  rw [hq]
  exact if_pos h

theorem settles_errorSettled (q : Qp) : Settles n d (errorSettled d n q) :=
  ((settles_drainSq ..).trans (settles_settleUna ..)).trans ((settles_flushRecv ..).trans (settles_liveCheck ..))

theorem errorPurged_tr (q : Qp) : (errorPurged d n q).tr = { d.tr with
    qps := put d.tr.qps n q, recs := d.tr.recs.filter fun r => r.qpn ≠ n, waitTx := d.tr.waitTx.filter fun p => p.qpn ≠ n } := by
  simp [errorPurged, setSticky, setSleep, purgeTx, qpEvent, postEq, setQp]

theorem errorPurged_mem (q : Qp) : (errorPurged d n q).mem = d.mem := by
  simp [errorPurged, setSticky, setSleep, purgeTx, qpEvent, postEq, setQp]

theorem keepsRegs_errorPurged (q : Qp) : keepsRegs d (errorPurged d n q) [(.transportSticky, 0), (.transportLiveSets, 0)] := by
  unfold errorPurged setSticky
  refine keepsRegs_wr (keepsRegs_of_rd (keepsRegs_refl d _) fun f i => ?_) (.head _)
  simp [purgeTx, qpEvent, setQp]

theorem errorEnded_of_done (h : (msgsOf d n).all (·.done) = true) : errorEnded d n =
    modRun ((runOf d n).wrs.foldl (fun d w => wrEnded d n w 0x26) d) n fun r => { r with wrs := [], unreported := 0, pending := false } := by
  have hf : (msgsOf d n).foldl (fun d m => if m.done then d else endMsg d m 0x26) d = d := by
    refine (List.foldl_ext _ (fun d _ => d) d fun g m hm => if_pos (List.all_eq_true.1 h m hm)).trans (List.foldl_fixed' (fun _ => rfl) _)
  unfold errorEnded
  rw [hf]

/-- Whatever ends of its messages, a queue pair's ERROR changes no other's context. -/
theorem othersKept_qpError (c : Nat) : OthersKept n d (qpError d n c) := by
  cases hq : qpAt d n with
  | none =>
    unfold qpError qpErrorWith
    rw [hq]
    exact othersKept_of_qps rfl
  | some q =>
    by_cases h : q.state = 0 ∨ q.state = 5
    · rw [qpError_idle c hq h]
      exact othersKept_of_qps rfl
    obtain ⟨x, hx⟩ : ∃ x, qpError d n c = errorSettled (errorEnded (errorPurged d n x) n) n x := ⟨_, qpError_eq c hq h⟩
    rw [hx]
    refine OthersKept.trans ?_ (settles_errorSettled _).others
    refine OthersKept.trans (e := errorPurged d n x) (fun m hm => ?_) ?_
    · rw [qpAt, errorPurged_tr]
      exact find?_put_ne _ _ hm
    unfold errorEnded
    refine OthersKept.trans (othersKept_foldl (fun d m => ?_) _ _) ((Settles.foldl (fun d w => settles_wrEnded d n w _) _ _).others.trans
      (othersKept_of_qps rfl))
    split
    · exact othersKept_of_qps rfl
    · exact othersKept_of_qps (endMsg_qps ..)

/-- What holds of a queue pair that enters ERROR with no message unfinished. -/
structure EntersError (n c : Nat) (d e : Dev) : Prop where
  own : (qpAt e n).map (fun q => (q.state, q.lastCause)) = some (5, c)
  recs : recsOf e n = []
  wrs : (runOf e n).wrs = []
  mem : e.mem = d.mem
  regs : keepsRegs d e [(.transportSticky, 0), (.transportLiveSets, 0)]

theorem entersError_qpError {q : Qp} (c : Nat) (hq : qpAt d n = some q) (h : ¬ (q.state = 0 ∨ q.state = 5))
    (hm : (msgsOf d n).all (·.done) = true) : EntersError n c d (qpError d n c) := by
  rw [qpError_eq c hq h]
  dsimp only
  have hp := errorPurged_tr (d := d) (n := n) { q with state := 5, lastCause := c, inflight := 0 }
  have hpm := errorPurged_mem (d := d) (n := n) { q with state := 5, lastCause := c, inflight := 0 }
  have hpr := keepsRegs_errorPurged (d := d) (n := n) { q with state := 5, lastCause := c, inflight := 0 }
  generalize errorPurged d n { q with state := 5, lastCause := c, inflight := 0 } = g at hp hpm hpr ⊢
  have hs := settles_errorSettled (d := errorEnded g n) (n := n) { q with state := 5, lastCause := c, inflight := 0 }
  have hg : (msgsOf g n).all (·.done) = true := by rwa [msgsOf, hp]
  have he : Settles n g ((runOf g n).wrs.foldl (fun d w => wrEnded d n w 0x26) g) := .foldl (fun d w => settles_wrEnded d n w _) _ _
  rw [errorEnded_of_done hg] at hs ⊢
  generalize (runOf g n).wrs.foldl (fun d w => wrEnded d n w 0x26) g = k at he hs ⊢
  generalize errorSettled _ n _ = e at hs ⊢
  refine ⟨hs.own.trans (he.own.trans ?_), ?_, hs.wrs.trans ?_, hs.mem.trans (he.mem.trans hpm), fun f i hf => ?_⟩
  · rw [qpAt, hp, find?_put_self]
    rfl
  · rw [recsOf, hs.recs]
    change k.tr.recs.filter _ = []
    rw [he.recs, hp]
    simp
  · rw [runOf, modRun, onTr_tr, getD_putD_self]
  · exact (hs.regs f i hf).trans ((he.regs f i hf).trans (hpr f i hf))

end
end Sys2Proof.Machine
end

section
/-!
Resident contexts and the doorbells of queue pairs (R307), for O44 and O45.
-/
namespace Sys2Proof.Machine

/-! ### Steps that change the transport engine and some registers -/

section
variable {d e : Dev} {l : List (Fld × Nat)} (h : onlyRegs d e l)
include h

theorem onlyRegs.tr : e.tr = d.tr := (congrArg Dev.tr h.1 :)

theorem onlyRegs.hl : e.hl = d.hl := (congrArg Dev.hl h.1 :)

theorem onlyRegs.mem : e.mem = d.mem := (congrArg Dev.mem h.1 :)

theorem onlyRegs.top : e.top = d.top := (congrArg Dev.top h.1 :)

end

/-- From `d` to `e` only the transport engine's state and the listed registers change. -/
def onlyTr (d e : Dev) (l : List (Fld × Nat)) : Prop := onlyRegs { d with tr := e.tr } e l

section
variable {d e : Dev} {l : List (Fld × Nat)}

theorem onlyTr_refl (d : Dev) (l : List (Fld × Nat)) : onlyTr d d l := onlyRegs_refl d l

theorem onlyTr.regs (h : onlyTr d e l) : keepsRegs d e l := h.2

theorem onlyTr_onTr (h : onlyTr d e l) (f : TrSt → TrSt) : onlyTr d (onTr e f) l := onlyRegs_tr h (f e.tr)

theorem onlyTr_wr {f : Fld} {i v : Nat} (h : onlyTr d e l) (hf : (f, i) ∈ l) : onlyTr d (wr e f i v) l := by
  unfold onlyTr
  rw [wr_tr]
  exact onlyRegs_wr h hf

theorem onlyTr_bump {f : Fld} {i n : Nat} (h : onlyTr d e l) (hf : (f, i) ∈ l) : onlyTr d (bump e f i n) l := onlyTr_wr h hf

end

/-! ### A resident context -/

section
variable {d : Dev} {n : Nat} {q : Qp}

/-- The context used last is used again. -/
theorem touch_eq_self {l : List Nat} (h : d.tr.lru = n :: l.filter (· ≠ n)) : touch d n = d := by
  have hl : n :: d.tr.lru.filter (· ≠ n) = d.tr.lru := by rw [h]; simp
  unfold touch onTr
  dsimp only
  rw [hl]

theorem loadQp_resident (h : qpAt d n = some q) : loadQp d n = (touch d n, .ok q) := by rw [loadQp, h]

/-- A send queue that is in no state to fetch leaves all as it is. -/
theorem sqGo_closed (h : qpAt d n = some q) (hs : q.state ≠ 2) (w : Nat) : sqGo d n w = touch d n := by
  rw [sqGo, loadQp_resident h]
  simp [hs]

theorem rqGo_closed (h : qpAt d n = some q) (hs : qpReceives q = false) (w : Nat) : rqGo d n w = touch d n := by
  rw [rqGo, loadQp_resident h]
  simp [hs]

end

/-! ### Doorbells (R307) -/

/-- A queue pair's number and an index, as a doorbell of either queue carries them. -/
theorem cut_qpDoorbell {n i b : Nat} (hn : n < 2 ^ 24) (hi : i < 2 ^ 32) (hb : b < 2) :
    cut (b * 2 ^ 56 + n * 2 ^ 32 + i) 32 24 = n ∧ cut (b * 2 ^ 56 + n * 2 ^ 32 + i) 0 32 = i ∧ cut (b * 2 ^ 56 + n * 2 ^ 32 + i) 56 1 = b ∧
      (b * 2 ^ 56 + n * 2 ^ 32 + i) >>> 57 = 0 := by
  simp only [cut, Nat.shiftRight_eq_div_pow]
  omega

/-- The window's register holds the doorbell. -/
def qpDbHeld (d : Dev) (win n i : Nat) (rq : Bool) : Dev := wr (wr (wr d .pwinQpDbIndex win i) .pwinQpDbQpn win n) .pwinQpDbQueue win (bit rq)

/-- The hint of one of a queue pair's queues moves. -/
def setHint (i : Nat) (rq : Bool) (r : QpRun) : QpRun := if rq then { r with rqHint := i } else { r with sqHint := i }

theorem setHint_sq (i : Nat) : setHint i false = fun r => { r with sqHint := i } := rfl

theorem setHint_rq (i : Nat) : setHint i true = fun r => { r with rqHint := i } := rfl

/-- What a doorbell leaves before the queue fetches on. -/
def qpDbTaken (d : Dev) (win n i : Nat) (rq : Bool) : Dev := modRun (qpDbHeld (touch (wake d .laurel) n) win n i rq) n (setHint i rq)

section
variable {d : Dev} {win n i : Nat} {rq : Bool} {q : Qp}

theorem qpDbHeld_tr (d : Dev) (win n i : Nat) (rq : Bool) : (qpDbHeld d win n i rq).tr = d.tr := by simp [qpDbHeld]

theorem qpAt_qpDbTaken (m : Nat) : qpAt (qpDbTaken d win n i rq) m = qpAt d m := by
  rw [qpDbTaken, qpAt_modRun, qpAt, qpDbHeld_tr]
  exact congrArg (find? ·.qps m) (wake_tr d .laurel)

theorem qpDbHeld_holds (hn : n < 2 ^ 24) (hi : i < 2 ^ 32) : rd (qpDbHeld d win n i rq) .pwinQpDbIndex win = i ∧
    rd (qpDbHeld d win n i rq) .pwinQpDbQpn win = n ∧ rd (qpDbHeld d win n i rq) .pwinQpDbQueue win = bit rq := by
  refine ⟨?_, ?_, ?_⟩
  · rw [qpDbHeld, rd_wr_ne _ _ rfl (.inl (by decide)), rd_wr_ne _ _ rfl (.inl (by decide)), rd_wr_self _ _ _ _ rfl]
    exact Nat.mod_eq_of_lt hi
  · rw [qpDbHeld, rd_wr_ne _ _ rfl (.inl (by decide)), rd_wr_self _ _ _ _ rfl]
    exact Nat.mod_eq_of_lt hn
  · rw [qpDbHeld, rd_wr_self _ _ _ _ rfl]
    cases rq <;> rfl

theorem qpDbTaken_qps : (qpDbTaken d win n i rq).tr.qps = d.tr.qps := by
  change (qpDbHeld _ win n i rq).tr.qps = _
  rw [qpDbHeld_tr]
  exact congrArg (·.qps) (wake_tr d .laurel)

theorem onlyRegs_qpDbTaken : onlyRegs { wake d .laurel with tr := (qpDbTaken d win n i rq).tr } (qpDbTaken d win n i rq)
    [(.pwinQpDbIndex, win), (.pwinQpDbQpn, win), (.pwinQpDbQueue, win)] :=
  onlyTr_onTr (onlyTr_wr (onlyTr_wr (onlyTr_wr (onlyTr_onTr (onlyTr_refl _ _) _) (by simp)) (by simp)) (by simp)) _

theorem runOf_qpDbTaken : runOf (qpDbTaken d win n i rq) n = setHint i rq (runOf d n) := by
  rw [runOf, qpDbTaken, modRun, onTr_tr, getD_putD_self, qpDbHeld_tr]
  change setHint i rq (getD (wake d .laurel).tr.runs n {}) = _
  rw [wake_tr]
  rfl

/-- What a doorbell that is taken leaves. -/
theorem qpDbTaken_spec (hn : n < 2 ^ 24) (hi : i < 2 ^ 32) : rd (qpDbTaken d win n i rq) .pwinQpDbIndex win = i ∧
    rd (qpDbTaken d win n i rq) .pwinQpDbQpn win = n ∧ rd (qpDbTaken d win n i rq) .pwinQpDbQueue win = bit rq ∧
    (qpDbTaken d win n i rq).tr.qps = d.tr.qps ∧ onlyRegs { wake d .laurel with tr := (qpDbTaken d win n i rq).tr } (qpDbTaken d win n i rq)
      [(.pwinQpDbIndex, win), (.pwinQpDbQpn, win), (.pwinQpDbQueue, win)] ∧
    runOf (qpDbTaken d win n i rq) n = setHint i rq (runOf d n) := by
  obtain ⟨hindex, hqpn, hqueue⟩ := qpDbHeld_holds (d := touch (wake d .laurel) n) (win := win) (rq := rq) hn hi
  exact ⟨hindex, hqpn, hqueue, qpDbTaken_qps, onlyRegs_qpDbTaken, runOf_qpDbTaken⟩

theorem touch_qpDbTaken : touch (qpDbTaken d win n i rq) n = qpDbTaken d win n i rq := by
  refine touch_eq_self (l := (wake d .laurel).tr.lru) ?_
  change (qpDbHeld _ win n i rq).tr.lru = _
  rw [qpDbHeld_tr]
  rfl

/-- A doorbell of the window's own queue pair is held, and its queue fetches on. -/
theorem qpDbEffect_owned (hn : n < 2 ^ 24) (hi : i < 2 ^ 32) (hq : qpAt d n = some q) (hp : q.part = win) (h1 : 1 ≤ q.state) (h3 : q.state ≤ 3) :
    qpDbEffect d win 8 ((bit rq) * 2 ^ 56 + n * 2 ^ 32 + i) rq =
      if rq then rqGo (qpDbTaken d win n i rq) n 64 else sqGo (qpDbTaken d win n i rq) n 64 := by
  obtain ⟨hcn, hci, _, hct⟩ := cut_qpDoorbell (b := bit rq) hn hi (by cases rq <;> decide)
  have hw : qpAt (wake d .laurel) n = some q := by rw [qpAt, wake_tr]; exact hq
  have ht : dbTakes win q = true := by simp [dbTakes, hp, h1, h3]
  unfold qpDbEffect
  simp only [hcn, hci, hct, dbRefused, loadQp_resident hw, ht, qpDbGo, qpDbTaken, qpDbHeld]
  cases rq
  · simp [setHint_sq]
  · simp [setHint_rq]

end

/-- Doorbells of a queue pair of the window: what they hold, and where the queue goes on. -/
theorem qpDoorbells (s : State) (win n i : Nat) (q : Qp) (hw : win < 64) (hn : n < 2 ^ 24) (hi : i < 2 ^ 32) (ht : takesDriver s.dev)
    (hq : qpAt s.dev n = some q) (hp : q.part = win) (h1 : 1 ≤ q.state) (h3 : q.state ≤ 3) (c : Instr) (rq : Nat)
    (hc : (c, rq) ∈ [(Instr.sqDoorbell win 8 (n * 2 ^ 32 + i), 0), (.rqDoorbell win 8 (2 ^ 56 + n * 2 ^ 32 + i), 1)]) :
    ∃ e d, Answers c s e ∧ rd d .pwinQpDbIndex win = i ∧ rd d .pwinQpDbQpn win = n ∧ rd d .pwinQpDbQueue win = rq ∧
      d.tr.qps = s.dev.tr.qps ∧ onlyRegs { wake s.dev .laurel with tr := d.tr } d [(.pwinQpDbIndex, win), (.pwinQpDbQpn, win), (.pwinQpDbQueue, win)] ∧
      (rq = 0 → e = sqGo d n 64 ∧ runOf d n = { runOf s.dev n with sqHint := i } ∧ (q.state ≠ 2 → e = d)) ∧
      (rq = 1 → e = rqGo d n 64 ∧ runOf d n = { runOf s.dev n with rqHint := i } ∧ (q.state = 1 → e = d)) := by
  have hx := fun b => (cut_qpDoorbell (b := bit b) hn hi (by cases b <;> decide)).2.2.1
  have he := fun b => qpDbEffect_owned (rq := b) hn hi hq hp h1 h3
  have hd := fun b => (qpAt_qpDbTaken (d := s.dev) (win := win) (n := n) (i := i) (rq := b) n).trans hq
  simp only [List.mem_cons, Prod.mk.injEq, List.not_mem_nil, or_false] at hc
  obtain ⟨rfl, rfl⟩ | ⟨rfl, rfl⟩ := hc
  · obtain ⟨hindex, hqpn, hqueue, hqps, hregs, hrun⟩ := qpDbTaken_spec (d := s.dev) (win := win) (rq := false) hn hi
    have hv : bit false * 2 ^ 56 + n * 2 ^ 32 + i = n * 2 ^ 32 + i := by simp [bit]
    have he := hv ▸ he false
    refine ⟨_, _, answers_drv (n := "SQ_DOORBELL") rfl (Bool.and_eq_true_iff.2 ⟨decide_eq_true hw, beq_iff_eq.2 (hv ▸ hx false)⟩) ht,
      hindex, hqpn, hqueue, hqps, hregs, fun _ => ⟨he, hrun, fun hs => ?_⟩, fun h => absurd h (by decide)⟩
    rw [he, if_neg (by decide), sqGo_closed (hd false) hs, touch_qpDbTaken]
  · obtain ⟨hindex, hqpn, hqueue, hqps, hregs, hrun⟩ := qpDbTaken_spec (d := s.dev) (win := win) (rq := true) hn hi
    have hv : bit true * 2 ^ 56 + n * 2 ^ 32 + i = 2 ^ 56 + n * 2 ^ 32 + i := by simp [bit]
    have he := hv ▸ he true
    refine ⟨_, _, answers_drv (n := "RQ_DOORBELL") rfl (Bool.and_eq_true_iff.2 ⟨decide_eq_true hw, beq_iff_eq.2 (hv ▸ hx true)⟩) ht,
      hindex, hqpn, hqueue, hqps, hregs, fun h => absurd h (by decide), fun _ => ⟨he, hrun, fun hs => ?_⟩⟩
    rw [he, if_pos rfl, rqGo_closed (hd true) (by simp [qpReceives, hs]), touch_qpDbTaken]

end Sys2Proof.Machine
end

section
/-!
Work requests, the timers of the sending side and the end of a context's fetch (R305, R309, R316, R325, R332 to R334), and O45.
-/
namespace Sys2Proof.Machine

/-! ### Work requests (R305, R309) -/

/-- The row of each kind of work request. -/
theorem exec_sq (s : State) {n op : Nat} {c : Instr} (h : (op, c) ∈ [(1, Instr.sqWrite n), (2, .sqRead n), (3, .sqSend n), (4, .sqAtomic n)]) :
    ∃ name, exec c s = act s name (nextWr s.dev n op).isSome (startWr s.dev n op) := by
  simp only [List.mem_cons, Prod.mk.injEq, List.not_mem_nil, or_false] at h
  rcases h with ⟨rfl, rfl⟩ | ⟨rfl, rfl⟩ | ⟨rfl, rfl⟩ | ⟨rfl, rfl⟩
  all_goals exact ⟨_, rfl⟩

section
variable {d : Dev} {n op : Nat} {q : Qp} {w : Nat × Desc} (hq : qpAt d n = some q) (hw : nextWr d n op = some w)
include hq hw

/-- A malformed work request completes with 0x27. -/
theorem startWr_bad (h : wrBad q w.2 = true) : startWr d n op =
    drainedCheck (drainSq 65536 (wrEnded (modRun d n fun r => { r with wrs := r.wrs.drop 1 }) n w 0x27) n) n := by
  rw [startWr, hw, hq]
  exact if_pos h

/-- A sound one becomes a message. -/
theorem startWr_good (h : wrBad q w.2 = false) : startWr d n op =
    newMsg (setQp (modRun d n fun r => { r with wrs := r.wrs.drop 1 }) n (if op = 3 then { q with nextSsn := (q.nextSsn + 1) % 2 ^ 32 } else q))
      (wrMsg n q w) := by
  rw [startWr, hw, hq]
  exact if_neg (by simp [h])

end

/-! ### Records and timers (R332 to R334) -/

section
variable {d : Dev} {n psn : Nat} {q : Qp} {r : Rec}

theorem recIn_spec {st : RecState} (h : recIn d n psn st = some (q, r)) : qpAt d n = some q ∧ r ∈ d.tr.recs ∧ r.qpn = n ∧ r.psn = psn := by
  unfold recIn at h
  split at h
  next x hx =>
    split at h
    next =>
      obtain ⟨y, hy, he⟩ := Option.map_eq_some_iff.1 h
      obtain ⟨rfl, rfl⟩ := Prod.mk.injEq .. ▸ he
      have hp := List.find?_some hy
      simp only [decide_eq_true_eq] at hp
      obtain ⟨hn, hs, _⟩ := hp
      exact ⟨hx, List.mem_of_find?_eq_some hy, hn, hs⟩
    next => exact nomatch h
  next => exact nomatch h

theorem rtoArmed_spec (h : rtoArmed d n psn = some (q, r)) : qpAt d n = some q ∧ r ∈ d.tr.recs ∧ r.qpn = n ∧ r.psn = psn :=
  recIn_spec (Option.filter_eq_some_iff.1 h).1

/-- A record that is changed stands among the records as changed. -/
theorem mem_modRec (hr : r ∈ d.tr.recs) (hn : r.qpn = n) (hp : r.psn = psn) (f : Rec → Rec) : f r ∈ (modRec d n psn f).tr.recs :=
  List.mem_map.2 ⟨r, hr, if_pos ⟨hn, hp⟩⟩

theorem uncharge_recs (c : Nat) : (uncharge d n c).tr.recs = d.tr.recs := by
  unfold uncharge modQp
  split
  · rfl
  · rfl

theorem lossCut_recs : (lossCut d n).tr.recs = d.tr.recs := by
  unfold lossCut
  split
  · split
    · rfl
    · exact congrArg (·.recs) (bump_tr ..)
  · rfl

/-- A lost record waits to be sent anew, its charge released. -/
theorem mem_loseRec (hr : r ∈ d.tr.recs) : { r with state := .lost, charged := 0, avoid := some r.path, passed := 0 } ∈ (loseRec d r).tr.recs :=
  mem_modRec (by rwa [uncharge_recs]) rfl rfl _

theorem onlyTr_modQp {e : Dev} {l : List (Fld × Nat)} (h : onlyTr d e l) (f : Qp → Qp) : onlyTr d (modQp e n f) l := by
  unfold modQp
  split
  · exact onlyTr_onTr h _
  · exact h

theorem onlyTr_loseRec {e : Dev} {l : List (Fld × Nat)} (h : onlyTr d e l) : onlyTr d (loseRec e r) l := onlyTr_onTr (onlyTr_modQp h _) _

theorem onlyTr_lossCut {e : Dev} {l : List (Fld × Nat)} (h : onlyTr d e l) (hl : (Fld.transportWndCuts, 0) ∈ l) : onlyTr d (lossCut e n) l := by
  unfold lossCut
  split
  · split
    · exact h
    · exact onlyTr_bump (onlyTr_onTr h _) hl
  · exact h

/-- Nothing was heard on a first record's path since it was sent, though the path is up (R344). -/
def RtoSilent (d : Dev) (q : Qp) (r : Rec) : Prop :=
  r.expiries = 0 ∧ ∃ l p, liveOf d q.pathSet = some l ∧ l.paths[r.path]? = some p ∧ p.up = true ∧ seqLt p.lastHeard r.sentTs = true

theorem rtoSilent_iff : RtoSilent d q r ↔ (decide (r.expiries = 0) &&
    ((liveOf d q.pathSet).bind fun l => l.paths[r.path]?).any fun p => p.up && seqLt p.lastHeard r.sentTs) = true := by
  unfold RtoSilent
  cases liveOf d q.pathSet with
  | none => simp
  | some l => cases hp : l.paths[r.path]? <;> simp [hp]

theorem rtoEffect_silent (h : RtoSilent d q r) : rtoEffect d n q r = pathDown d q.pathSet r.path := if_pos (rtoSilent_iff.1 h)

section
variable (h : ¬ RtoSilent d q r)
include h

theorem rtoEffect_past (hx : q.retryMax ≤ r.expiries) :
    rtoEffect d n q r = qpError (bump (bump d .transportRtoExpiries) .transportRetransmits) n 0x20 :=
  (if_neg (rtoSilent_iff.not.1 h)).trans (if_pos (by omega))

theorem rtoEffect_resent (hx : r.expiries < q.retryMax) : rtoEffect d n q r =
    modRec (lossCut (loseRec (bump (bump d .transportRtoExpiries) .transportRetransmits) r) n) n r.psn fun x => { x with expiries := r.expiries + 1 } :=
  (if_neg (rtoSilent_iff.not.1 h)).trans (if_neg (by omega))

/-- A record that is resent is lost, with one expiry more; only counters change beside the transport engine. -/
theorem rtoEffect_resent_spec (hr : r ∈ d.tr.recs) (hn : r.qpn = n) (hx : r.expiries < q.retryMax) :
    rd (rtoEffect d n q r) .transportRtoExpiries 0 = (rd d .transportRtoExpiries 0 + 1) % 2 ^ 32 ∧
    rd (rtoEffect d n q r) .transportRetransmits 0 = (rd d .transportRetransmits 0 + 1) % 2 ^ 32 ∧
    onlyTr d (rtoEffect d n q r) [(.transportRtoExpiries, 0), (.transportRetransmits, 0), (.transportWndCuts, 0)] ∧
    { r with state := .lost, charged := 0, avoid := some r.path, passed := 0, expiries := r.expiries + 1 } ∈ (rtoEffect d n q r).tr.recs := by
  rw [rtoEffect_resent h hx]
  have hs (g : Dev) : onlyTr g (modRec (lossCut (loseRec g r) n) n r.psn fun x => { x with expiries := r.expiries + 1 }) [(.transportWndCuts, 0)] :=
    onlyTr_onTr (onlyTr_lossCut (onlyTr_loseRec (onlyTr_refl g _)) (.head _)) _
  have hg (f : Fld) (hf : Fld.transportWndCuts ∉ votedWith f) := (hs (bump (bump d .transportRtoExpiries) .transportRetransmits)).regs f 0 (by simp [hf])
  refine ⟨?_, ?_, ?_, ?_⟩
  · rw [hg _ (by decide), bump, rd_wr_ne _ _ rfl (.inl (by decide)), rd_bump_self _ _ _ _ rfl]
    rfl
  · rw [hg _ (by decide), rd_bump_self _ _ _ _ rfl, bump, rd_wr_ne _ _ rfl (.inl (by decide))]
    rfl
  · exact onlyTr_onTr (onlyTr_lossCut (onlyTr_loseRec (onlyTr_bump (onlyTr_bump (onlyTr_refl d _) (by simp)) (by simp))) (by simp)) _
  · refine mem_modRec (r := { r with state := .lost, charged := 0, avoid := some r.path, passed := 0 }) ?_ hn rfl _
    rw [lossCut_recs]
    exact mem_loseRec (by rwa [bump_tr, bump_tr])

end

/-- What a record's RNR timer does: sent anew with one try more, or past its tries. -/
def rnrEffect (d : Dev) (n psn : Nat) (q : Qp) (r : Rec) : Dev :=
  if q.rnrRetry ≠ 7 ∧ r.rnr ≥ q.rnrRetry then qpError d n 0x22
  else modRec (bump d .transportRetransmits) n psn fun x => { x with state := .unplaced, rnr := r.rnr + 1, resent := true }

theorem enqueueReady_runs (p : Packet) : (enqueueReady d n p).tr.runs = d.tr.runs := by
  unfold enqueueReady
  split
  · rfl
  next q _ =>
    dsimp only
    split
    next x hx =>
      unfold enqueue at hx
      split at hx
      next => exact nomatch hx
      next => exact Option.some.inj hx ▸ rfl
    next => rfl

/-- An ACK reports all that was placed. -/
theorem runOf_sendAck (hq : qpAt d n = some q) (ts path : Nat) : (runOf (sendAck d n ts path 0 0) n).pending = false ∧
    (runOf (sendAck d n ts path 0 0) n).unreported = 0 := by
  unfold sendAck
  rw [hq]
  dsimp only
  rw [runOf, enqueueReady_runs, modRun, onTr_tr, getD_putD_self]
  exact ⟨rfl, rfl⟩

end

/-! ### The end of a fetch (R325) -/

/-- A context that is resident and has no users: the parked packets go on. -/
theorem fetchDone_resident {d : Dev} {n : Nat} {q : Qp} (hq : qpAt d n = some q) (hw : ∀ w ∈ d.tr.ctxWait, w.1 ≠ n) :
    { (fetchDone d n).tr with lru := d.tr.lru } = { d.tr with
      rx := (d.tr.parked.filter fun r => r.p.destQpn = n) ++ d.tr.rx
      parked := d.tr.parked.filter fun r => r.p.destQpn ≠ n
      fetching := d.tr.fetching.filter (· ≠ n) } ∧
    onlyTr d (fetchDone d n) [(.transportMissParkLevel, 0)] := by
  have hm : d.tr.ctxWait.filter (fun w => w.1 = n) = [] := List.filter_eq_nil_iff.2 fun w h => by simpa using hw w h
  have hk : d.tr.ctxWait.filter (fun w => w.1 ≠ n) = d.tr.ctxWait := List.filter_eq_self.2 fun w h => by simpa using hw w h
  have he : fetchDone d n = onTr (onTr (unpark (touch d n) n).1 fun t => { t with rx := (unpark (touch d n) n).2 ++ t.rx })
      fun t => { t with ctxWait := t.ctxWait.filter fun w => w.1 ≠ n } := by
    have hu : (unpark (touch d n) n).1.tr.ctxWait = d.tr.ctxWait := by
      unfold unpark
      dsimp only
      rw [wr_tr]
      rfl
    rw [fetchDone, loadQp_resident hq]
    dsimp only
    rw [usersGo]
    dsimp only [onTr_tr]
    rw [hu, hm]
    rfl
  rw [he]
  unfold unpark
  dsimp only [onTr_tr]
  rw [wr_tr]
  refine ⟨?_, onlyTr_onTr (onlyTr_onTr (onlyTr_wr (onlyTr_onTr (onlyTr_onTr (onlyTr_refl d _) _) _) (.head _)) _) _⟩
  simp only [onTr_tr, touch]
  rw [hk]

/-! ### The obligation -/

/-- Settles O45: doorbells, work requests, the sending side's timers, ERROR and the end of a fetch, each by its own lemma. -/
theorem sendQueueAndTimers : Obligations.SendQueueAndTimers := by
  refine ⟨qpDoorbells, fun s n op c q w hc hq hw => ?_,
    fun s n psn q r => ⟨fun h => ?_, fun h => ?_, fun h => ?_, fun hen hq hr => ⟨fun hl hu => ?_, fun hp => ?_⟩⟩,
    fun d n c q hq h0 h5 hm => ?_, fun s n h => ?_⟩
  · obtain ⟨name, he⟩ := exec_sq s hc
    exact ⟨_, answers_act he (by simp [hw]), startWr_bad hq hw, startWr_good hq hw⟩
  · obtain ⟨hq, hr, hn, rfl⟩ := rtoArmed_spec h
    have hx : exec (.rtoExpiry n r.psn) s = act s "RTO_EXPIRY" (rtoArmed s.dev n r.psn).isSome (rtoEffect s.dev n q r) := by
      change execRtoExpiry n r.psn s = _
      rw [execRtoExpiry, h]
    refine ⟨_, answers_act hx (by simp [h]), rtoEffect_silent, rtoEffect_past, fun hs hx => ?_⟩
    obtain ⟨hexp, hret, hregs, hrec⟩ := rtoEffect_resent_spec hs hr hn hx
    exact ⟨hexp, hret, hregs, _, hrec, rfl⟩
  · obtain ⟨hq, hr, hn, hp⟩ := recIn_spec h
    have hx : exec (.rnrResend n psn) s = act s "RNR_RESEND" (recIn s.dev n psn .rnrWait).isSome (rnrEffect s.dev n psn q r) := by
      change execRnrResend n psn s = _
      rw [execRnrResend, h]
      rfl
    refine ⟨_, answers_act hx (by simp [h]), fun h7 hl => if_pos ⟨h7, hl⟩, fun hl => ?_⟩
    rw [rnrEffect, if_neg (by omega)]
    refine ⟨(rd_bump_self _ _ _ _ rfl).trans rfl, onlyTr_onTr (onlyTr_bump (onlyTr_refl s.dev _) (.head _)) _, _,
      mem_modRec (by rwa [bump_tr]) hn hp _, rfl⟩
  · obtain ⟨hq, hr, hn, hp⟩ := recIn_spec h
    exact ⟨_, answers_act (n := "HELD_RESEND") rfl (by simp [h]), rfl, _, mem_modRec hr hn hp _, rfl⟩
  · exact ⟨_, answers_act (n := "PATH_EXHAUSTED_TIMER") rfl (by simp [hq, hen, hr, hl, hu]), rfl⟩
  · exact ⟨_, answers_act (n := "ACK_DELAY_EXPIRY") rfl (by simp [hq, hen, hr, hp]), rfl, runOf_sendAck hq _ _⟩
  · have he := entersError_qpError c hq (by simp [h0, h5]) hm
    exact ⟨he.own, he.recs⟩
  · refine ⟨_, answers_act (n := "CONTEXT_FETCH_DONE") rfl ?_, rfl, fun hq hw => ?_⟩
    · simpa using h
    · obtain ⟨q, hq⟩ := Option.isSome_iff_exists.1 hq
      exact fetchDone_resident hq hw

end Sys2Proof.Machine
end

section
/-!
What a queue-pair command's answer and its accesses to memory leave (R312 to R316), for O44.
-/
namespace Sys2Proof.Machine

/-! ### QP_CMD (R314) -/

section
variable {d : Dev} {n op c : Nat}

/-- Writing a plain register entry what it reads changes nothing that is read. -/
theorem onlyRegs_wr_keep {e : Dev} {l : List (Fld × Nat)} {f : Fld} {i : Nat} (h : onlyRegs d e l) (hf : f.info.voted = false)
    (hv : rd e f i < 2 ^ f.info.width) : onlyRegs d (wr e f i (rd e f i)) l := by
  refine ⟨?_, fun g j hg => (rd_wr_keep hf hv g j).trans (h.2 g j hg)⟩
  have := h.1
  unfold wr; dsimp only; split <;> exact this

@[simp] theorem qpResult_tr (d : Dev) (n op c : Nat) : (qpResult d n op c).tr = d.tr := by simp [qpResult]

@[simp] theorem qpResult_hl (d : Dev) (n op c : Nat) : (qpResult d n op c).hl = d.hl := by simp [qpResult]

@[simp] theorem qpResult_top (d : Dev) (n op c : Nat) : (qpResult d n op c).top = d.top := by simp [qpResult]

@[simp] theorem qpResult_mem (d : Dev) (n op c : Nat) : (qpResult d n op c).mem = d.mem := by simp [qpResult]

@[simp] theorem qpAt_qpResult (d : Dev) (n op c m : Nat) : qpAt (qpResult d n op c) m = qpAt d m := by rw [qpAt, qpResult_tr, qpAt]

/-- The answer of a command stands in QP_CMD. -/
theorem qpResult_answer (d : Dev) (hn : n < 2 ^ 24) (ho : op < 2 ^ 4) (hc : c < 2 ^ 8) : rd (qpResult d n op c) .transportQpCmdQpn 0 = n ∧
    rd (qpResult d n op c) .transportQpCmdOp 0 = op ∧ rd (qpResult d n op c) .transportQpCmdResult 0 = c := by
  refine ⟨?_, ?_, ?_⟩
  · rw [qpResult, rd_wr_ne _ _ rfl (.inl (by decide)), rd_wr_ne _ _ rfl (.inl (by decide)), rd_wr_self _ _ _ _ rfl]
    exact Nat.mod_eq_of_lt hn
  · rw [qpResult, rd_wr_ne _ _ rfl (.inl (by decide)), rd_wr_self _ _ _ _ rfl]
    exact Nat.mod_eq_of_lt ho
  · rw [qpResult, rd_wr_self _ _ _ _ rfl]
    exact Nat.mod_eq_of_lt hc

theorem rd_qpResult {f : Fld} (i : Nat) (h : f ∉ [Fld.transportQpCmdBusy, .transportQpCmdQpn, .transportQpCmdOp, .transportQpCmdResult]) :
    rd (qpResult d n op c) f i = rd d f i := by
  simp only [List.mem_cons, List.not_mem_nil, or_false, not_or] at h
  obtain ⟨hb, hn, ho, hc⟩ := h
  rw [qpResult, rd_wr_plain_ne _ _ _ _ rfl hc, rd_wr_plain_ne _ _ _ _ rfl ho, rd_wr_plain_ne _ _ _ _ rfl hn, rd_wr_plain_ne _ _ _ _ rfl hb]

theorem onlyRegs_qpResult {e : Dev} {l : List (Fld × Nat)} (h : onlyRegs d e l) (hb : rd e .transportQpCmdBusy 0 = 0)
    (hl : [(Fld.transportQpCmdQpn, 0), (.transportQpCmdOp, 0), (.transportQpCmdResult, 0)] ⊆ l) : onlyRegs d (qpResult e n op c) l := by
  have hk := onlyRegs_wr_keep (f := .transportQpCmdBusy) (i := 0) h rfl (by rw [hb]; decide)
  rw [hb] at hk
  exact onlyRegs_wr (onlyRegs_wr (onlyRegs_wr hk (hl (by simp))) (hl (by simp))) (hl (by simp))

/-- While no command waits, an answer changes the three fields of QP_CMD that hold it. -/
theorem onlyTr_qpResult {e : Dev} {l : List (Fld × Nat)} (h : onlyTr d e l) (hb : rd e .transportQpCmdBusy 0 = 0)
    (hl : [(Fld.transportQpCmdQpn, 0), (.transportQpCmdOp, 0), (.transportQpCmdResult, 0)] ⊆ l) : onlyTr d (qpResult e n op c) l := by
  unfold onlyTr
  rw [qpResult_tr]
  exact onlyRegs_qpResult h hb hl

theorem keepsRegs_qpResult {e : Dev} {l : List (Fld × Nat)} (h : keepsRegs d e l) (hb : rd e .transportQpCmdBusy 0 = 0)
    (hl : [(Fld.transportQpCmdQpn, 0), (.transportQpCmdOp, 0), (.transportQpCmdResult, 0)] ⊆ l) : keepsRegs d (qpResult e n op c) l :=
  fun f i hf => ((onlyTr_qpResult (onlyTr_refl e l) hb hl).regs f i hf).trans (h f i hf)

end

/-! ### BUSY through accesses to memory -/

section
variable (d : Dev)

theorem busy_answered {α : Type} (src dest : Nat) (x : Dev × Option Nat × α) :
    rd (answered src dest x).1 .transportQpCmdBusy 0 = rd x.1 .transportQpCmdBusy 0 := by
  unfold answered responseCause
  dsimp only
  split
  · rfl
  · exact rd_wr_plain_ne _ _ _ _ rfl (by decide)
  · rfl

theorem busy_dpaRead (src a n : Nat) : rd (dpaRead d src a n).1 .transportQpCmdBusy 0 = rd d .transportQpCmdBusy 0 := by
  unfold dpaRead
  split
  · rfl
  split
  · rfl
  · exact (busy_answered ..).trans ((memOnly_memRead d a n).regs _ _ (by decide))

theorem busy_dpaWrite (src a : Nat) (bs : List Byte) : rd (dpaWrite d src a bs).1 .transportQpCmdBusy 0 = rd d .transportQpCmdBusy 0 := by
  unfold dpaWrite
  split
  · rfl
  split
  · rfl
  · exact (busy_answered ..).trans ((memOnly_memWrite ..).regs _ _ (by decide))

theorem busy_voteLostAt (a : Nat) : rd (voteLostAt d a) .transportQpCmdBusy 0 = rd d .transportQpCmdBusy 0 := by
  unfold voteLostAt faultEvent
  exact (rd_safetyEvent _ _ _ _ _ _ _ _ _ _ _ _ _ (by decide) (by decide)).trans (rd_wr_plain_ne _ _ _ _ rfl (by decide))

theorem busy_cacheEntry (isPd : Bool) (p i v : Nat) : rd (cacheEntry d isPd p i v) .transportQpCmdBusy 0 = rd d .transportQpCmdBusy 0 := by
  unfold cacheEntry
  extract_lets m mine c keep m'
  have hk : rd keep.1 .transportQpCmdBusy 0 = rd d .transportQpCmdBusy 0 := by
    dsimp only [keep]
    split
    · rfl
    · rfl
  exact hk

theorem busy_tableEntry (isPd : Bool) (p i : Nat) : rd (tableEntry d isPd p i).1 .transportQpCmdBusy 0 = rd d .transportQpCmdBusy 0 := by
  unfold tableEntry
  split
  · rfl
  have hr := busy_dpaRead d 0x2000 (if isPd then rd d .yewPdBase * 65536 + 8 * i else rd d .yewRegionBase * 65536 + 32 * i) (if isPd then 8 else 32)
  dsimp only
  split
  next h => rwa [h] at hr
  next h =>
    rw [h] at hr
    exact (busy_cacheEntry ..).trans hr

theorem busy_pdPart (i e : Nat) : rd (pdPart d i e).1 .transportQpCmdBusy 0 = rd d .transportQpCmdBusy 0 := by
  unfold pdPart
  dsimp only
  split
  · split
    · rfl
    · exact busy_dpaWrite ..
  · exact busy_voteLostAt ..

theorem busy_pdOf (p i : Nat) : rd (pdOf d p i).1 .transportQpCmdBusy 0 = rd d .transportQpCmdBusy 0 := by
  have ht := busy_tableEntry d true p i
  unfold pdOf
  split
  next h => rwa [h] at ht
  next g e h =>
    rw [h] at ht
    split
    · exact ht
    have hp := (busy_pdPart g i e).trans ht
    split
    next h => rwa [h] at hp
    next h => rwa [h] at hp

/-- The checks of an image leave BUSY. -/
theorem busy_imageBad (x : Nat) (q : Qp) : rd (imageBad d x q).1 .transportQpCmdBusy 0 = rd d .transportQpCmdBusy 0 := busy_pdOf ..

theorem busy_readSet (n : Nat) : rd (readSet d n).1 .transportQpCmdBusy 0 = rd d .transportQpCmdBusy 0 := by
  have hr := busy_dpaRead d 0x2000 (rd d .transportPathsetBase * 65536 + 256 * n) 256
  unfold readSet
  split
  next h => rwa [h] at hr
  next h => rwa [h] at hr

theorem busy_makeLive (set owner : Nat) : rd (makeLive d set owner).1 .transportQpCmdBusy 0 = rd d .transportQpCmdBusy 0 := by
  unfold makeLive
  split
  · rfl
  split
  · rfl
  · exact (rd_wr_plain_ne _ _ _ _ rfl (by decide)).trans (busy_readSet ..)

end

/-! ### A set's slot (R340) -/

/-- What freeing a set's slot, or its owner, leaves. -/
theorem liveCheck_only (d : Dev) (set : Nat) :
    ∃ l, onlyRegs { d with tr := { d.tr with live := l } } (liveCheck d set) [(.transportLiveSets, 0)] := by
  unfold liveCheck
  extract_lets users
  split
  · exact ⟨_, onlyRegs_wr (onlyRegs_refl _ _) (.head _)⟩
  · exact ⟨_, onlyRegs_refl _ _⟩

/-- With a queue pair left that names it, no register changes. -/
theorem liveCheck_used (d : Dev) {n set : Nat} {q : Qp} (hq : qpAt d n = some q) (hr : qpReceives q = true) (hs : q.pathSet = set) :
    ∃ l, liveCheck d set = { d with tr := { d.tr with live := l } } := by
  unfold liveCheck
  extract_lets users
  have hm : (n, q) ∈ users := List.mem_filter.2 ⟨mem_of_find? hq, by simp [hr, hs]⟩
  rw [if_neg fun h => by simp [List.isEmpty_iff.1 h] at hm]
  exact ⟨_, rfl⟩

end Sys2Proof.Machine
end

section
/-!
The commands DRAIN, QP_ERROR and RESET (R313, R316, R448), for O44.
-/
namespace Sys2Proof.Machine

/-! ### Commands on a resident context -/

section
variable {d : Dev} {n op a : Nat} {q : Qp}

theorem qpCommand_free (h : rd d .transportQpCmdBusy 0 = 0) (f : Dev → Dev) : qpCommand d f = f d := if_neg (by simp [isSet, h])

theorem onQp_resident (h : qpAt d n = some q) (go : Dev → Qp → Dev) : onQp d n op a go = go (touch d n) q := by rw [onQp, loadQp_resident h]

/-- A command on a queue pair without a context is refused. -/
theorem onQp_absent (h : qpAt d n = none) (hp : qpPlace d n = none) (go : Dev → Qp → Dev) : onQp d n op a go = qpResult d n op 0x2D := by
  rw [onQp, loadQp, h, fetchQp, hp]

theorem onlyTr_trans {e f : Dev} {l : List (Fld × Nat)} (h : onlyTr d e l) (h' : onlyTr e f l) : onlyTr d f l := by
  refine ⟨?_, fun g i hg => (h'.regs g i hg).trans (h.regs g i hg)⟩
  calc { f with regs := d.regs, regsB := d.regsB, regsC := d.regsC }
      = { { e with tr := f.tr } with regs := d.regs, regsB := d.regsB, regsC := d.regsC } :=
        congrArg (fun x : Dev => { x with regs := d.regs, regsB := d.regsB, regsC := d.regsC }) h'.1
    _ = { d with tr := f.tr } := congrArg (fun x : Dev => { x with tr := f.tr }) h.1

theorem onlyTr.hl {e : Dev} {l : List (Fld × Nat)} (h : onlyTr d e l) : e.hl = d.hl := onlyRegs.hl (d := { d with tr := e.tr }) h

theorem onlyTr.mem {e : Dev} {l : List (Fld × Nat)} (h : onlyTr d e l) : e.mem = d.mem := onlyRegs.mem (d := { d with tr := e.tr }) h

theorem onlyTr_touch (d : Dev) (n : Nat) (l : List (Fld × Nat)) : onlyTr d (touch d n) l := onlyTr_onTr (onlyTr_refl d l) _

/-- A refused command has only its answer, and its context was used. -/
theorem refused_spec (hb : rd d .transportQpCmdBusy 0 = 0) (hn : n < 2 ^ 24) (ho : op < 2 ^ 4) :
    rd (qpResult (touch d n) n op 0x2D) .transportQpCmdResult 0 = 0x2D ∧ { (qpResult (touch d n) n op 0x2D).tr with lru := d.tr.lru } = d.tr ∧
    onlyTr d (qpResult (touch d n) n op 0x2D) [(.transportQpCmdQpn, 0), (.transportQpCmdOp, 0), (.transportQpCmdResult, 0)] := by
  refine ⟨(qpResult_answer _ hn ho (by decide)).2.2, ?_, onlyTr_qpResult (onlyTr_touch ..) hb (List.Subset.refl _)⟩
  rw [qpResult_tr]
  rfl

end

/-! ### DRAIN (R313) -/

section
variable {d : Dev} {n : Nat} {q : Qp}

/-- A queue pair in DRAINING is DRAINED when nothing is under way. -/
theorem drainedCheck_draining (hq : qpAt d n = some q) (hs : q.state = 3) :
    qpAt (drainedCheck d n) n = some { q with state := if q.sqHead = q.sqDone ∧ recsOf d n = [] then 4 else 3 } ∧
    OthersKept n d (drainedCheck d n) ∧ onlyTr d (drainedCheck d n) [(.transportSticky, 0)] := by
  unfold drainedCheck
  rw [hq]
  dsimp only
  by_cases h : q.sqHead = q.sqDone ∧ recsOf d n = []
  · rw [if_pos ⟨hs, h.1, by simp [h.2]⟩, if_pos h]
    obtain ⟨l, hl⟩ := liveCheck_used (setQp d n { q with state := 4 }) (qpAt_setQp_self ..) rfl (set := q.pathSet) rfl
    rw [hl]
    refine ⟨?_, fun m hm => ?_, onlyTr_wr (onlyTr_onTr (onlyTr_onTr (onlyTr_refl d _) _) fun t => { t with live := l }) (.head _)⟩
    · rw [setSticky, qpAt_wr]
      exact qpAt_setQp_self ..
    · rw [setSticky, qpAt_wr]
      exact qpAt_setQp_ne d _ hm
  · rw [if_neg fun hx => h ⟨hx.2.1, by simpa using hx.2.2⟩, if_neg h, ← hs]
    exact ⟨hq, othersKept_of_qps rfl, onlyTr_refl d _⟩

variable (hb : rd d .transportQpCmdBusy 0 = 0) (hq : qpAt d n = some q)
include hb hq

theorem drainEffect_refused (hs : q.state ≠ 2) : drainEffect d n = qpResult (touch d n) n 4 0x2D := by
  rw [drainEffect, qpCommand_free hb, onQp_resident hq, if_neg hs]

theorem drainEffect_drains (hs : q.state = 2) : drainEffect d n =
    qpResult (drainedCheck (setSleep (setQp (touch d n) n { q with state := 3 }) (.sq n) none) n) n 4 0 := by
  rw [drainEffect, qpCommand_free hb, onQp_resident hq, if_pos hs]

/-- What DRAIN leaves of a queue pair in READY. -/
theorem drainEffect_spec (hs : q.state = 2) :
    qpAt (drainEffect d n) n = some { q with state := if q.sqHead = q.sqDone ∧ recsOf d n = [] then 4 else 3 } ∧ OthersKept n d (drainEffect d n) ∧
    (drainEffect d n).hl = { d.hl with sleeping := d.hl.sleeping.filter fun x => x.1 ≠ .sq n } ∧
    onlyTr (setSleep d (.sq n) none) (drainEffect d n) [(.transportQpCmdQpn, 0), (.transportQpCmdOp, 0), (.transportQpCmdResult, 0),
      (.transportSticky, 0)] := by
  rw [drainEffect_drains hb hq hs]
  obtain ⟨hown, hothers, honly⟩ := drainedCheck_draining (d := setSleep (setQp (touch d n) n { q with state := 3 }) (.sq n) none) (n := n)
    (qpAt_setQp_self ..) rfl
  generalize drainedCheck (setSleep (setQp (touch d n) n { q with state := 3 }) (.sq n) none) n = e at hown hothers honly ⊢
  have hd : onlyTr (setSleep d (.sq n) none) (setSleep (setQp (touch d n) n { q with state := 3 }) (.sq n) none) [(.transportSticky, 0)] :=
    onlyTr_onTr (onlyTr_onTr (onlyTr_refl (setSleep d (.sq n) none) _) fun t => { t with lru := n :: t.lru.filter (· ≠ n) }) fun t =>
      { t with qps := put t.qps n { q with state := 3 } }
  have he := onlyTr_trans hd honly
  refine ⟨(qpAt_qpResult ..).trans hown, fun m hm => (qpAt_qpResult ..).trans ((hothers m hm).trans (qpAt_setQp_ne _ _ hm)), ?_, ?_⟩
  · rw [qpResult_hl, he.hl]
    rfl
  · exact onlyTr_qpResult (onlyRegs_mono he (by simp)) ((he.regs _ _ (by decide)).trans hb) (by simp)

end

section
variable {d : Dev} {n : Nat} {q : Qp} (hb : rd d .transportQpCmdBusy 0 = 0) (hq : qpAt d n = some q)
include hb hq

theorem drainEffect_answer (hn : n < 2 ^ 24) : rd (drainEffect d n) .transportQpCmdQpn 0 = n ∧ rd (drainEffect d n) .transportQpCmdOp 0 = 4 ∧
    rd (drainEffect d n) .transportQpCmdResult 0 = if q.state = 2 then 0 else 0x2D := by
  split
  next hs =>
    rw [drainEffect_drains hb hq hs]
    exact qpResult_answer _ hn (by decide) (by decide)
  next hs =>
    rw [drainEffect_refused hb hq hs]
    exact qpResult_answer _ hn (by decide) (by decide)

theorem othersKept_drainEffect : OthersKept n d (drainEffect d n) := by
  by_cases hs : q.state = 2
  · exact (drainEffect_spec hb hq hs).2.1
  · rw [drainEffect_refused hb hq hs]
    exact fun m _ => qpAt_qpResult ..

end

/-! ### QP_ERROR (R316, R448) -/

section
variable {d : Dev} {n : Nat} {q : Qp}

/-- A queue pair in RESET counts for its partition again before it enters ERROR. -/
def errorFrom (d : Dev) (n : Nat) (q : Qp) : Dev := if q.state = 0 then bump (setQp d n { q with state := 1 }) .partCountQps q.part else d

theorem qpErrorEffect_resident (hb : rd d .transportQpCmdBusy 0 = 0) (hq : qpAt d n = some q) :
    qpErrorEffect d n = qpResult (qpError (errorFrom (touch d n) n q) n 0) n 5 0 := by
  rw [qpErrorEffect, qpCommand_free hb, onQp_resident hq]
  rfl

theorem othersKept_errorFrom : OthersKept n d (errorFrom d n q) := by
  unfold errorFrom
  split
  · exact fun m hm => (qpAt_wr ..).trans (qpAt_setQp_ne d _ hm)
  · exact othersKept_of_qps rfl

theorem qpErrorEffect_answer (hb : rd d .transportQpCmdBusy 0 = 0) (hq : qpAt d n = some q) (hn : n < 2 ^ 24) :
    rd (qpErrorEffect d n) .transportQpCmdQpn 0 = n ∧ rd (qpErrorEffect d n) .transportQpCmdOp 0 = 5 ∧
    rd (qpErrorEffect d n) .transportQpCmdResult 0 = 0 := by
  rw [qpErrorEffect_resident hb hq]
  exact qpResult_answer _ hn (by decide) (by decide)

theorem errorFrom_spec (hq : qpAt d n = some q) : (∃ x, qpAt (errorFrom d n q) n = some x ∧ x.state = if q.state = 0 then 1 else q.state) ∧
    msgsOf (errorFrom d n q) n = msgsOf d n ∧ (errorFrom d n q).mem = d.mem ∧
    rd (errorFrom d n q) .partCountQps q.part = if q.state = 0 then (rd d .partCountQps q.part + 1) % 2 ^ 25 else rd d .partCountQps q.part := by
  unfold errorFrom
  split
  · refine ⟨⟨_, (qpAt_wr ..).trans (qpAt_setQp_self ..), rfl⟩, ?_, wr_mem .., rd_bump_self _ _ _ _ rfl⟩
    rw [msgsOf, bump_tr]
    rfl
  · exact ⟨⟨q, hq, rfl⟩, rfl, rfl, rfl⟩

theorem othersKept_qpErrorEffect (hb : rd d .transportQpCmdBusy 0 = 0) (hq : qpAt d n = some q) : OthersKept n d (qpErrorEffect d n) := by
  rw [qpErrorEffect_resident hb hq]
  exact OthersKept.trans (e := touch d n) (othersKept_of_qps rfl) (othersKept_errorFrom.trans ((othersKept_qpError 0).trans
    (othersKept_of_qps (congrArg (·.qps) (qpResult_tr ..)))))

/-- What QP_ERROR leaves of a queue pair with no message unfinished. -/
theorem qpErrorEffect_spec (hb : rd d .transportQpCmdBusy 0 = 0) (hq : qpAt d n = some q) (hm : (msgsOf d n).all (·.done) = true) :
    (qpErrorEffect d n).mem = d.mem ∧ (recsOf d n = [] ∨ q.state ≠ 5 →
      (∃ q', qpAt (qpErrorEffect d n) n = some q' ∧ q'.state = 5 ∧ (q.state ≠ 5 → q'.lastCause = 0)) ∧ recsOf (qpErrorEffect d n) n = [] ∧
      (q.state ≠ 5 → (runOf (qpErrorEffect d n) n).wrs = []) ∧
      rd (qpErrorEffect d n) .partCountQps q.part =
        if q.state = 0 then (rd d .partCountQps q.part + 1) % 2 ^ 25 else rd d .partCountQps q.part) := by
  rw [qpErrorEffect_resident hb hq, qpResult_mem, qpAt_qpResult, recsOf, runOf, qpResult_tr, rd_qpResult _ (by decide)]
  have ht : qpAt (touch d n) n = some q := hq
  obtain ⟨⟨x, hx, hs⟩, hmsgs, hmem, hcount⟩ := errorFrom_spec ht
  by_cases h5 : q.state = 5
  · have hf : errorFrom (touch d n) n q = touch d n := if_neg (by omega)
    rw [hf, qpError_idle 0 ht (.inr h5)]
    exact ⟨rfl, fun hr => ⟨⟨q, hq, h5, fun h => absurd h5 h⟩, hr.resolve_right (by simp [h5]), fun h => absurd h5 h,
      (if_neg (by omega)).symm⟩⟩
  · have he := entersError_qpError 0 hx (by rw [hs]; split <;> omega) (by rw [hmsgs]; exact hm)
    obtain ⟨q', hq', ho⟩ := Option.map_eq_some_iff.1 he.own
    obtain ⟨h5', hc⟩ := Prod.mk.injEq .. ▸ ho
    exact ⟨he.mem.trans hmem, fun _ => ⟨⟨q', hq', h5', fun _ => hc⟩, he.recs, fun _ => he.wrs,
      (he.regs .partCountQps q.part (by simp [votedWith])).trans hcount⟩⟩

end

/-! ### RESET (R313, R416, R448) -/

section
variable {d : Dev} {n slot : Nat} {q : Qp}

/-- A half that becomes active changes a slot's keys and their registers. -/
theorem activate_only (d : Dev) (s : Nat) : ∃ y, onlyRegs { d with yew := y } (activate d s)
    [(.yewSlotShadow, s), (.yewSlotSealCount, s), (.yewSlotNcFloor, s), (.yewSlotPrev, s)] := by
  unfold activate
  dsimp only
  split
  · exact ⟨d.yew, onlyRegs_refl d _⟩
  · split
    · exact ⟨_, onlyRegs_wr (onlyRegs_wr (onlyRegs_wr (onlyRegs_wr (onlyRegs_refl _ _) (by simp)) (by simp)) (by simp)) (by simp)⟩
    · exact ⟨_, onlyRegs_wr (onlyRegs_wr (onlyRegs_wr (onlyRegs_refl _ _) (by simp)) (by simp)) (by simp)⟩

/-- A transmit slot that the queue pair held is released. -/
def slotFreed (d : Dev) (n slot : Nat) : Dev :=
  if rd d .yewSlotUserQpn slot = n then activate (wr d .yewSlotUserQpn slot 0) slot else d

theorem slotFreed_spec : (slotFreed d n slot).tr = d.tr ∧ (slotFreed d n slot).mem = d.mem ∧
    (∀ i, rd (slotFreed d n slot) .partCountQps i = rd d .partCountQps i) ∧
    (rd d .yewSlotUserQpn slot = n → rd (slotFreed d n slot) .yewSlotUserQpn slot = 0) := by
  unfold slotFreed
  split
  next =>
    obtain ⟨y, ha⟩ := activate_only (wr d .yewSlotUserQpn slot 0) slot
    refine ⟨ha.tr.trans (wr_tr ..), ha.mem.trans (wr_mem ..), fun i => ?_, fun _ => ?_⟩
    · exact (ha.2 _ i (by simp [votedWith])).trans (rd_wr_plain_ne d _ _ _ rfl (by decide))
    · exact (ha.2 _ slot (by simp [votedWith])).trans ((rd_wr_self d _ _ _ rfl).trans (Nat.zero_mod _))
  next h => exact ⟨rfl, rfl, fun _ => rfl, fun h' => absurd h' h⟩

/-- A queue pair's packets, messages, records and runs leave the transport engine. -/
def resetCleared (d : Dev) (n : Nat) : Dev :=
  purgeTx (onTr d fun t => { t with
    runs := del t.runs n, msgs := t.msgs.filter (fun m => m.qpn ≠ n), recs := t.recs.filter (fun r => r.qpn ≠ n),
    openMsgs := t.openMsgs.filter (fun o => o.qpn ≠ n), holds := t.holds.filter fun h => h.qpn ≠ n }) n

/-- Its queues sleep no more, and its path set may lose its slot. -/
def resetSettled (d : Dev) (n set : Nat) : Dev := setSticky (liveCheck (setSleep (setSleep d (.sq n) none) (.rq n) none) set)

theorem resetSettled_spec (d : Dev) (n set : Nat) : (∃ l, (resetSettled d n set).tr = { d.tr with live := l }) ∧ (resetSettled d n set).top = d.top ∧
    (resetSettled d n set).mem = d.mem ∧ keepsRegs d (resetSettled d n set) [(.transportSticky, 0), (.transportLiveSets, 0)] := by
  obtain ⟨l, hl⟩ := liveCheck_only (setSleep (setSleep d (.sq n) none) (.rq n) none) set
  unfold resetSettled setSticky
  refine ⟨⟨l, (wr_tr ..).trans hl.tr⟩, (wr_top ..).trans hl.top, (wr_mem ..).trans hl.mem,
    keepsRegs_wr (fun f i hf => hl.2 f i fun x hx => hf x (.tail _ hx)) (.head _)⟩

variable (hb : rd d .transportQpCmdBusy 0 = 0) (hq : qpAt d n = some q)
include hb hq

theorem qpResetEffect_refused (hs : ¬ (q.state = 1 ∨ q.state = 4 ∨ q.state = 5 ∨ q.state = 6)) :
    qpResetEffect d n = qpResult (touch d n) n 6 0x2D := by
  rw [qpResetEffect, qpCommand_free hb, onQp_resident hq]
  exact if_neg hs

theorem qpResetEffect_resets (hs : q.state = 1 ∨ q.state = 4 ∨ q.state = 5 ∨ q.state = 6) : qpResetEffect d n =
    qpResult (resetSettled (resetCleared (slotFreed (drop1 (setQp (touch d n) n { q with state := 0 }) .partCountQps q.part) n q.txSlot) n) n q.pathSet)
      n 6 0 := by
  rw [qpResetEffect, qpCommand_free hb, onQp_resident hq]
  exact if_pos hs

/-- What RESET leaves of a queue pair. -/
theorem qpResetEffect_spec (hs : q.state = 1 ∨ q.state = 4 ∨ q.state = 5 ∨ q.state = 6) :
    let e := qpResetEffect d n
    OthersKept n d e ∧ e.mem = d.mem ∧ qpAt e n = some { q with state := 0 } ∧ msgsOf e n = [] ∧ recsOf e n = [] ∧ runOf e n = {} ∧
    (∀ o ∈ e.tr.openMsgs, o.qpn ≠ n) ∧ (∀ h ∈ e.tr.holds, h.qpn ≠ n) ∧ (∀ p ∈ e.top.queue, p.qpn ≠ n) ∧
    rd e .partCountQps q.part = (rd d .partCountQps q.part - 1) % 2 ^ 25 ∧
    (rd d .yewSlotUserQpn q.txSlot = n → rd e .yewSlotUserQpn q.txSlot = 0) := by
  dsimp only
  rw [qpResetEffect_resets hb hq hs]
  have hslot : rd (drop1 (setQp (touch d n) n { q with state := 0 }) .partCountQps q.part) .yewSlotUserQpn q.txSlot = rd d .yewSlotUserQpn q.txSlot :=
    rd_wr_plain_ne _ _ _ _ rfl (by decide)
  have hcount : rd (drop1 (setQp (touch d n) n { q with state := 0 }) .partCountQps q.part) .partCountQps q.part =
    (rd d .partCountQps q.part - 1) % 2 ^ 25 := rd_wr_self _ _ _ _ rfl
  have hdtr : (drop1 (setQp (touch d n) n { q with state := 0 }) .partCountQps q.part).tr = (setQp (touch d n) n { q with state := 0 }).tr := wr_tr ..
  have hdmem : (drop1 (setQp (touch d n) n { q with state := 0 }) .partCountQps q.part).mem = d.mem := wr_mem ..
  obtain ⟨hftr, hfmem, hfcount, hfslot⟩ := slotFreed_spec (d := drop1 (setQp (touch d n) n { q with state := 0 }) .partCountQps q.part) (n := n)
    (slot := q.txSlot)
  rw [hdtr] at hftr
  rw [hdmem] at hfmem
  rw [hslot] at hfslot
  have hfcount := (hfcount q.part).trans hcount
  generalize slotFreed (drop1 (setQp (touch d n) n { q with state := 0 }) .partCountQps q.part) n q.txSlot = g at hftr hfmem hfcount hfslot ⊢
  obtain ⟨⟨l, htr⟩, htop, hmem, hregs⟩ := resetSettled_spec (resetCleared g n) n q.pathSet
  generalize resetSettled (resetCleared g n) n q.pathSet = e at htr htop hmem hregs ⊢
  have hqps : e.tr.qps = (setQp (touch d n) n { q with state := 0 }).tr.qps := by rw [htr, ← hftr]; rfl
  rw [qpResult_mem, qpResult_top, qpAt_qpResult, msgsOf, recsOf, runOf, qpResult_tr, rd_qpResult _ (by decide), rd_qpResult _ (by decide)]
  refine ⟨fun m hm => ?_, hmem.trans hfmem, ?_, ?_, ?_, ?_, ?_, ?_, ?_, (hregs _ _ (by simp [votedWith])).trans hfcount,
    fun h => (hregs _ _ (by simp [votedWith])).trans (hfslot h)⟩
  · rw [qpAt_qpResult, qpAt, hqps]
    exact qpAt_setQp_ne _ _ hm
  · rw [qpAt, hqps]
    exact qpAt_setQp_self ..
  · rw [htr]
    simp [resetCleared, purgeTx]
  · rw [htr]
    simp [resetCleared, purgeTx]
  · rw [htr]
    simp [resetCleared, purgeTx, getD]
  · rw [htr]
    simp [resetCleared, purgeTx]
  · rw [htr]
    simp [resetCleared, purgeTx]
  · rw [htop]
    simp [resetCleared, purgeTx]

theorem qpResetEffect_answer (hn : n < 2 ^ 24) : rd (qpResetEffect d n) .transportQpCmdQpn 0 = n ∧ rd (qpResetEffect d n) .transportQpCmdOp 0 = 6 ∧
    rd (qpResetEffect d n) .transportQpCmdResult 0 = if q.state = 1 ∨ q.state = 4 ∨ q.state = 5 ∨ q.state = 6 then 0 else 0x2D := by
  split
  next hs =>
    rw [qpResetEffect_resets hb hq hs]
    exact qpResult_answer _ hn (by decide) (by decide)
  next hs =>
    rw [qpResetEffect_refused hb hq hs]
    exact qpResult_answer _ hn (by decide) (by decide)

theorem othersKept_qpResetEffect : OthersKept n d (qpResetEffect d n) := by
  by_cases hs : q.state = 1 ∨ q.state = 4 ∨ q.state = 5 ∨ q.state = 6
  · exact (qpResetEffect_spec hb hq hs).1
  · rw [qpResetEffect_refused hb hq hs]
    exact fun m _ => qpAt_qpResult ..

end

end Sys2Proof.Machine
end

section
/-!
The commands READ_CONTEXT, WRITE_CONTEXT and READY (R312, R314, R315), and O44.
-/
namespace Sys2Proof.Machine

/-! ### Commands with an address (R312, R314) -/

section
variable {d : Dev} {n op addr : Nat} {q : Qp}

theorem rd_qpAddr {f : Fld} (i : Nat) (h : f ≠ .transportQpCmdAddr) : rd (qpAddr d addr) f i = rd d f i := rd_wr_plain_ne _ _ _ _ rfl h

@[simp] theorem qpAt_qpAddr (m : Nat) : qpAt (qpAddr d addr) m = qpAt d m := qpAt_wr ..

@[simp] theorem qpAddr_tr : (qpAddr d addr).tr = d.tr := wr_tr ..

theorem qpPlace_qpAddr (m : Nat) : qpPlace (qpAddr d addr) m = qpPlace d m := by
  simp only [qpPlace, isSet, rd_qpAddr (d := d) (addr := addr) (f := .transportQpcDirValid) _ (by decide),
    rd_qpAddr (d := d) (addr := addr) (f := .transportQpcDirHost) _ (by decide),
    rd_qpAddr (d := d) (addr := addr) (f := .transportQpcDirBase) _ (by decide)]
  rfl

/-- A refused command with an address has its answer and its address in QP_CMD, and its context was used. -/
theorem refusedAt_spec (hb : rd d .transportQpCmdBusy 0 = 0) (hn : n < 2 ^ 24) (ho : op < 2 ^ 4) :
    let e := qpResult (touch (qpAddr d addr) n) n op 0x2D
    rd e .transportQpCmdQpn 0 = n ∧ rd e .transportQpCmdOp 0 = op ∧ rd e .transportQpCmdResult 0 = 0x2D ∧ { e.tr with lru := d.tr.lru } = d.tr ∧
    onlyTr d e [(.transportQpCmdQpn, 0), (.transportQpCmdOp, 0), (.transportQpCmdResult, 0), (.transportQpCmdAddr, 0)] := by
  obtain ⟨hqpn, hop, hres⟩ := qpResult_answer (touch (qpAddr d addr) n) (op := op) (c := 0x2D) hn ho (by decide)
  refine ⟨hqpn, hop, hres, ?_, onlyTr_qpResult (onlyTr_onTr (onlyTr_wr (onlyTr_refl d _) (by simp)) _) ?_ (by simp)⟩
  · rw [qpResult_tr]
    exact congrArg (fun t : TrSt => { t with lru := d.tr.lru }) (qpAddr_tr (d := d) (addr := addr))
  · exact (rd_qpAddr _ (by decide)).trans hb

section
variable (hb : rd d .transportQpCmdBusy 0 = 0) (hq : qpAt d n = some q)
include hb hq

theorem readContextEffect_resident : readContextEffect d n addr =
    if imageAddr addr then qpResult (dpaWrite (touch (qpAddr d addr) n) 0x2000 addr (qpImage q)).1 n 2 0
    else qpResult (touch (qpAddr d addr) n) n 2 0x2D := by
  rw [readContextEffect, qpCommand_free hb, onQp_resident ((qpAt_qpAddr n).trans hq)]

theorem writeContextEffect_resident : writeContextEffect d n addr =
    qpResult (writeContextGo (touch (qpAddr d addr) n) n addr q).1 n 1 (writeContextGo (touch (qpAddr d addr) n) n addr q).2 := by
  rw [writeContextEffect, qpCommand_free hb, onQp_resident ((qpAt_qpAddr n).trans hq)]

end

theorem writeContextGo_refused (h : q.state ≠ 0 ∨ imageAddr addr = false) : writeContextGo d n addr q = (d, 0x2D) := if_pos (by simpa using h)

section
variable {g d' : Dev} {bs : List Byte} {x : Nat} {bad : Bool} (h0 : q.state = 0) (hi : imageAddr addr = true)
  (hr : dpaRead d 0x2000 addr 512 = (g, none, bs)) (hv : voteContext (fromBytes bs) = some x) (hc : imageBad g x (qpOf x) = (d', bad))
include h0 hi hr hv hc

/-- An image that is read and voted is refused for its contents or the partition's quota, and otherwise sets the context. -/
theorem writeContextGo_voted : writeContextGo d n addr q =
    if bad = true ∨ rd d' .partQuotaQpMax (qpOf x).part ≤ rd d' .partCountQps (qpOf x).part then (d', 0x2D)
    else (bump (setQp d' n (freshQp d' x)) .partCountQps (qpOf x).part, 0) := by
  unfold writeContextGo
  rw [if_neg (by simp [h0, hi]), hr]
  dsimp only
  rw [hv]
  dsimp only
  rw [hc]
  simp

end

theorem busy_writeContext {g d' : Dev} {bs : List Byte} {x : Nat} {bad : Bool} (hr : dpaRead d 0x2000 addr 512 = (g, none, bs))
    (hc : imageBad g x (qpOf x) = (d', bad)) : rd d' .transportQpCmdBusy 0 = rd d .transportQpCmdBusy 0 := by
  have hg := busy_dpaRead d 0x2000 addr 512
  have hd := busy_imageBad g x (qpOf x)
  rw [hr] at hg
  rw [hc] at hd
  exact hd.trans hg

/-- What a context that was written leaves. -/
theorem contextWritten_spec (hb : rd d .transportQpCmdBusy 0 = 0) (q : Qp) (p : Nat) :
    let e := qpResult (bump (setQp d n q) .partCountQps p) n 1 0
    rd e .transportQpCmdResult 0 = 0 ∧ qpAt e n = some q ∧ OthersKept n d e ∧ rd e .partCountQps p = (rd d .partCountQps p + 1) % 2 ^ 25 ∧
    onlyTr d e [(.transportQpCmdQpn, 0), (.transportQpCmdOp, 0), (.transportQpCmdResult, 0), (.partCountQps, p)] := by
  refine ⟨(rd_wr_self _ _ _ _ rfl).trans (Nat.zero_mod _), ?_, fun m hm => ?_, ?_,
    onlyTr_qpResult (onlyTr_bump (onlyTr_onTr (onlyTr_refl d _) _) (by simp)) ?_ (by simp)⟩
  · rw [qpAt_qpResult, bump, qpAt_wr, qpAt_setQp_self]
  · rw [qpAt_qpResult, bump, qpAt_wr, qpAt_setQp_ne _ _ hm]
  · rw [rd_qpResult _ (by decide)]
    exact rd_bump_self _ _ _ _ rfl
  · exact (rd_wr_plain_ne _ _ _ _ rfl (by decide)).trans hb

end

/-! ### READY (R315, R340, R346) -/

/-- Notes about lost paths: contexts, live sets, windows and registers stay. -/
structure PathNoted (d e : Dev) : Prop where
  qps : e.tr.qps = d.tr.qps
  live : e.tr.live = d.tr.live
  wnd : ∀ n, (runOf e n).wnd = (runOf d n).wnd
  regs : ∀ f i, rd e f i = rd d f i

theorem PathNoted.refl (d : Dev) : PathNoted d d := ⟨rfl, rfl, fun _ => rfl, fun _ _ => rfl⟩

theorem PathNoted.trans {d e f : Dev} (h : PathNoted d e) (h' : PathNoted e f) : PathNoted d f :=
  ⟨h'.qps.trans h.qps, h'.live.trans h.live, fun n => (h'.wnd n).trans (h.wnd n), fun g i => (h'.regs g i).trans (h.regs g i)⟩

theorem pathNoted_modRun (d : Dev) (m : Nat) {f : QpRun → QpRun} (h : ∀ r, (f r).wnd = r.wnd) : PathNoted d (modRun d m f) where
  qps := rfl
  live := rfl
  wnd := fun n => by
    rw [runOf, modRun, onTr_tr]
    dsimp only
    by_cases hn : n = m
    · rw [hn, getD_putD_self, h]
      rfl
    · rw [getD_putD_ne _ _ _ hn]
      rfl
  regs := fun _ _ => rfl

theorem pathNoted_foldl {α : Type} {g : Dev → α → Dev} (h : ∀ d x, PathNoted d (g d x)) (l : List α) (d : Dev) : PathNoted d (l.foldl g d) := by
  induction l generalizing d with
  | nil => exact .refl d
  | cons x t ih => exact (h d x).trans (ih _)

theorem pathNoted_pathsLostCheck (d : Dev) (set : Nat) : PathNoted d (pathsLostCheck d set) := by
  unfold pathsLostCheck
  split
  · refine pathNoted_foldl (fun d e => ?_) _ d
    split
    · exact pathNoted_modRun d _ fun _ => rfl
    · exact .refl d
  · refine pathNoted_foldl (fun d e => ?_) _ d
    split
    · exact (pathNoted_modRun d e.1 (f := fun r => { r with lostEvent := true, noPathSince := some d.upNs }) fun _ => rfl).trans
        ⟨rfl, rfl, fun _ => rfl, fun _ _ => rfl⟩
    · exact .refl d

/-- A queue pair made READY, with its path set live and its transmit slot bound. -/
def readied (d : Dev) (n i : Nat) (q : Qp) : Dev :=
  qpResult (pathsLostCheck (wr (takeWnd (setSticky (setQp d n { q with state := 2, liveSlot := i })) n) .yewSlotUserQpn q.txSlot n) q.pathSet) n 3 0

section
variable {d t : Dev} {n : Nat} {q : Qp}

theorem readyEffect_resident (hb : rd d .transportQpCmdBusy 0 = 0) (hq : qpAt d n = some q) : readyEffect d n = readyGo n (touch d n) q := by
  rw [readyEffect, qpCommand_free hb, onQp_resident hq]

/-- READY by its checks, with the set's descriptors as they are live or read. -/
theorem readyGo_spec {descs : List Nat} (h : (∃ l, liveOf t q.pathSet = some l ∧ d = t ∧ descs = l.descs) ∨
      (liveOf t q.pathSet = none ∧ readSet t q.pathSet = (d, descs))) :
    (readyOk d n q descs = false → readyGo n t q = qpResult d n 3 0x2D) ∧
    (readyOk d n q descs = true → ∀ d' slot, makeLive d q.pathSet n = (d', slot) → (slot = none → readyGo n t q = qpResult d' n 3 0x2D) ∧
      ∀ i, slot = some i → readyGo n t q = fetchAnnounced (readied d' n i q) n) := by
  unfold readyGo
  extract_lets ds g
  have hds : ds = (d, descs) := by
    dsimp only [ds]
    rcases h with ⟨l, hl, rfl, rfl⟩ | ⟨hl, hr⟩
    · rw [hl]
    · rw [hl]
      exact hr
  clear_value ds
  subst hds
  dsimp only [g]
  refine ⟨fun hk => if_pos (by simp [hk]), fun hk d' slot hm => ?_⟩
  rw [if_neg (by simp [hk]), hm]
  refine ⟨?_, ?_⟩
  · rintro rfl
    rfl
  · rintro i rfl
    rfl

theorem busy_readySet {descs : List Nat} (h : (∃ l, liveOf t q.pathSet = some l ∧ d = t ∧ descs = l.descs) ∨
      (liveOf t q.pathSet = none ∧ readSet t q.pathSet = (d, descs))) : rd d .transportQpCmdBusy 0 = rd t .transportQpCmdBusy 0 := by
  rcases h with ⟨l, _, rfl, _⟩ | ⟨_, hr⟩
  · rfl
  · have hs := busy_readSet t q.pathSet
    rwa [hr] at hs

theorem wndNow_setSticky (d : Dev) : wndNow (setSticky d) = wndNow d := by
  have h (f : Fld) (hf : f ≠ .transportSticky) : rd (setSticky d) f 0 = rd d f 0 := rd_wr_plain_ne _ _ _ _ rfl hf
  rw [wndNow, wndNow, h .transportWndCfgAiBytes (by decide), h .transportWndCfgHaiRounds (by decide), h .transportWndCfgDelayTarget (by decide),
    h .transportWndCfgDelayBeta (by decide), h .transportWndCfgBaseWindow (by decide)]

/-- What a queue pair that became READY holds. -/
theorem readied_spec (d : Dev) (i : Nat) (hb : rd d .transportQpCmdBusy 0 = 0) (hn : n < 2 ^ 24) :
    let g := readied d n i q
    qpAt g n = some { q with state := 2, liveSlot := i } ∧ rd g .transportQpCmdQpn 0 = n ∧ rd g .transportQpCmdOp 0 = 3 ∧
    rd g .transportQpCmdResult 0 = 0 ∧ rd g .yewSlotUserQpn q.txSlot = n ∧ (runOf g n).wnd = some (wndNow d) ∧ g.tr.live = d.tr.live ∧
    keepsRegs d g [(.transportSticky, 0), (.yewSlotUserQpn, q.txSlot), (.transportQpCmdQpn, 0), (.transportQpCmdOp, 0), (.transportQpCmdResult, 0)] := by
  dsimp only
  unfold readied
  have hs : keepsRegs d (wr (takeWnd (setSticky (setQp d n { q with state := 2, liveSlot := i })) n) .yewSlotUserQpn q.txSlot n)
      [(.transportSticky, 0), (.yewSlotUserQpn, q.txSlot), (.transportQpCmdQpn, 0), (.transportQpCmdOp, 0), (.transportQpCmdResult, 0)] :=
    keepsRegs_wr (keepsRegs_of_rd (keepsRegs_wr (f := .transportSticky) (i := 0) (keepsRegs_of_rd (keepsRegs_refl d _) fun _ _ => rfl) (by simp))
      fun _ _ => rfl) (by simp)
  have hp := pathNoted_pathsLostCheck (wr (takeWnd (setSticky (setQp d n { q with state := 2, liveSlot := i })) n) .yewSlotUserQpn q.txSlot n) q.pathSet
  have hk := keepsRegs_of_rd hs hp.regs
  generalize pathsLostCheck _ q.pathSet = e at hp hk ⊢
  obtain ⟨hqpn, hop, hres⟩ := qpResult_answer e (op := 3) (c := 0) hn (by decide) (by decide)
  refine ⟨?_, hqpn, hop, hres, ?_, ?_, ?_, keepsRegs_qpResult hk ((hk _ _ (by simp [votedWith])).trans hb) (by simp)⟩
  · rw [qpAt_qpResult, qpAt, hp.qps, wr_tr]
    change qpAt (setSticky _) n = _
    rw [setSticky, qpAt_wr, qpAt_setQp_self]
  · rw [rd_qpResult _ (by decide), hp.regs, rd_wr_self _ _ _ _ rfl]
    exact Nat.mod_eq_of_lt hn
  · rw [runOf, qpResult_tr]
    change (runOf e n).wnd = _
    rw [hp.wnd, runOf, wr_tr, takeWnd, modRun, onTr_tr, getD_putD_self]
    dsimp only
    rw [wndNow_setSticky]
    rfl
  · rw [qpResult_tr, hp.live, wr_tr]
    exact congrArg (·.live) (wr_tr ..)

end

/-! ### The obligation -/

section
variable {s : State} {n addr : Nat} {q : Qp}

/-- The row of each queue-pair command. -/
theorem exec_qpCommand {c : Instr} {op : Nat} (h : (c, op) ∈ [(Instr.writeContext n addr, 1), (.readContext n addr, 2), (.ready n, 3), (.drain n, 4),
    (.qpError n, 5), (.qpReset n, 6)]) : op < 2 ^ 4 ∧ ∃ name pre a go, (pre = id ∨ pre = fun d => qpAddr d addr) ∧
      exec c s = drv s name true (qpCommand s.dev fun d => onQp (pre d) n op a go) := by
  simp only [List.mem_cons, Prod.mk.injEq, List.not_mem_nil, or_false] at h
  rcases h with ⟨rfl, rfl⟩ | ⟨rfl, rfl⟩ | ⟨rfl, rfl⟩ | ⟨rfl, rfl⟩ | ⟨rfl, rfl⟩ | ⟨rfl, rfl⟩
  · exact ⟨by decide, "WRITE_CONTEXT", _, _, _, .inr rfl, rfl⟩
  · exact ⟨by decide, "READ_CONTEXT", _, _, _, .inr rfl, rfl⟩
  · exact ⟨by decide, "READY", id, _, _, .inl rfl, rfl⟩
  · exact ⟨by decide, "DRAIN", id, _, _, .inl rfl, rfl⟩
  · exact ⟨by decide, "QP_ERROR", id, _, _, .inl rfl, rfl⟩
  · exact ⟨by decide, "QP_RESET", id, _, _, .inl rfl, rfl⟩

variable (ht : takesDriver s.dev)
include ht

/-- A command given while another waits is discarded. -/
theorem qpCommand_discarded {c : Instr} {op : Nat} (hc : (c, op) ∈ [(Instr.writeContext n addr, 1), (.readContext n addr, 2), (.ready n, 3),
    (.drain n, 4), (.qpError n, 5), (.qpReset n, 6)]) (hb : isSet s.dev .transportQpCmdBusy = true) : Answers c s s.dev := by
  obtain ⟨_, name, pre, a, go, _, he⟩ := exec_qpCommand (s := s) hc
  rw [qpCommand, if_pos hb] at he
  exact answers_drv he rfl ht

/-- A command on a queue pair without a context is answered 0x2D. -/
theorem qpCommand_absent {c : Instr} {op : Nat} (hc : (c, op) ∈ [(Instr.writeContext n addr, 1), (.readContext n addr, 2), (.ready n, 3),
    (.drain n, 4), (.qpError n, 5), (.qpReset n, 6)]) (hn : n < 2 ^ 24) (hb : rd s.dev .transportQpCmdBusy 0 = 0) (hq : qpAt s.dev n = none)
    (hp : qpPlace s.dev n = none) : ∃ e, Answers c s e ∧
      rd e .transportQpCmdQpn 0 = n ∧ rd e .transportQpCmdOp 0 = op ∧ rd e .transportQpCmdResult 0 = 0x2D ∧
      onlyRegs s.dev e [(.transportQpCmdQpn, 0), (.transportQpCmdOp, 0), (.transportQpCmdResult, 0), (.transportQpCmdAddr, 0)] := by
  obtain ⟨ho, name, pre, a, go, hpre, he⟩ := exec_qpCommand (s := s) hc
  rw [qpCommand_free hb] at he
  obtain ⟨hq, hp, hb, ho'⟩ : qpAt (pre s.dev) n = none ∧ qpPlace (pre s.dev) n = none ∧ rd (pre s.dev) .transportQpCmdBusy 0 = 0 ∧
      onlyRegs s.dev (pre s.dev) [(.transportQpCmdQpn, 0), (.transportQpCmdOp, 0), (.transportQpCmdResult, 0), (.transportQpCmdAddr, 0)] := by
    rcases hpre with rfl | rfl
    · exact ⟨hq, hp, hb, onlyRegs_refl _ _⟩
    · exact ⟨(qpAt_qpAddr n).trans hq, (qpPlace_qpAddr n).trans hp, (rd_qpAddr _ (by decide)).trans hb, onlyRegs_wr (onlyRegs_refl _ _) (by simp)⟩
  rw [onQp_absent hq hp] at he
  obtain ⟨hqpn, hop, hres⟩ := qpResult_answer (pre s.dev) (op := op) (c := 0x2D) hn ho (by decide)
  exact ⟨_, answers_drv he rfl ht, hqpn, hop, hres, onlyRegs_qpResult ho' hb (by simp)⟩

end

/-- Settles O44: each command by its own lemma; what they share is the answer in QP_CMD. -/
theorem queuePairCommands : Obligations.QueuePairCommands := by
  intro s n addr ht hn
  refine ⟨fun c op hc => ⟨qpCommand_discarded ht hc, qpCommand_absent ht hc hn⟩, fun q hb hq => ⟨fun c op hc => ?_, ?_, ?_, ?_⟩⟩
  · simp only [List.mem_cons, Prod.mk.injEq, List.not_mem_nil, or_false] at hc
    rcases hc with ⟨rfl, rfl⟩ | ⟨rfl, rfl⟩ | ⟨rfl, rfl⟩
    · obtain ⟨hqpn, hop, hres⟩ := drainEffect_answer hb hq hn
      refine ⟨_, answers_drv (n := "DRAIN") rfl rfl ht, hqpn, hop, othersKept_drainEffect hb hq, ⟨fun h => ?_, fun h _ => ?_⟩, fun _ hs => ?_,
        fun h => absurd h (by decide), fun h => absurd h (by decide)⟩
      · rw [drainEffect_refused hb hq (by simpa using h)]
        exact refused_spec hb hn (by decide)
      · have hs : q.state = 2 := by simpa using h
        obtain ⟨_, _, _, honly⟩ := drainEffect_spec hb hq hs
        exact ⟨hres.trans (if_pos hs), honly.mem⟩
      · obtain ⟨hown, _, hhl, honly⟩ := drainEffect_spec hb hq hs
        refine ⟨hown, hhl, ?_⟩
        rw [hhl]
        exact honly
    · obtain ⟨hqpn, hop, hres⟩ := qpErrorEffect_answer hb hq hn
      exact ⟨_, answers_drv (n := "QP_ERROR") rfl rfl ht, hqpn, hop, othersKept_qpErrorEffect hb hq,
        ⟨fun h => absurd h (by simp), fun _ h => ⟨hres, (qpErrorEffect_spec hb hq (h.resolve_left (by simp))).1⟩⟩,
        fun h => absurd h (by decide), fun _ hm => (qpErrorEffect_spec hb hq hm).2, fun h => absurd h (by decide)⟩
    · obtain ⟨hqpn, hop, hres⟩ := qpResetEffect_answer hb hq hn
      refine ⟨_, answers_drv (n := "QP_RESET") rfl rfl ht, hqpn, hop, othersKept_qpResetEffect hb hq, ⟨fun h => ?_, fun h _ => ?_⟩,
        fun h => absurd h (by decide), fun h => absurd h (by decide), fun _ hs => (qpResetEffect_spec hb hq hs).2.2⟩
      · rw [qpResetEffect_refused hb hq (by omega)]
        exact refused_spec hb hn (by decide)
      · have hs : q.state = 1 ∨ q.state = 4 ∨ q.state = 5 ∨ q.state = 6 := by omega
        exact ⟨hres.trans (if_pos hs), (qpResetEffect_spec hb hq hs).2.1⟩
  · refine ⟨_, answers_drv (n := "READ_CONTEXT") rfl rfl ht, fun hi => ?_, fun hi => ?_⟩
    · rw [readContextEffect_resident hb hq, if_neg (by simp [hi])]
      exact refusedAt_spec hb hn (by decide)
    · rw [readContextEffect_resident hb hq, if_pos hi]
  · refine ⟨_, answers_drv (n := "WRITE_CONTEXT") rfl rfl ht, fun h => ?_, fun d d' bs x h0 hi hr hv bad hc => ?_⟩
    · rw [writeContextEffect_resident hb hq, writeContextGo_refused h]
      exact refusedAt_spec hb hn (by decide)
    · have hd := (busy_writeContext hr hc).trans ((rd_qpAddr (addr := addr) _ (by decide)).trans hb)
      rw [writeContextEffect_resident hb hq, writeContextGo_voted h0 hi hr hv hc]
      refine ⟨fun h => ?_, fun hg hl => ?_⟩
      · rw [if_pos h]
      · rw [if_neg (by simp [hg, hl])]
        exact contextWritten_spec hd _ _
  · refine ⟨_, answers_drv (n := "READY") rfl rfl ht, fun d descs h => ?_⟩
    rw [readyEffect_resident hb hq]
    obtain ⟨hbad, hok⟩ := readyGo_spec (n := n) h
    refine ⟨hbad, fun hk d' slot hm => ?_⟩
    obtain ⟨hnone, hsome⟩ := hok hk d' slot hm
    have hl := busy_makeLive d q.pathSet n
    rw [hm] at hl
    exact ⟨hnone, fun i hi => ⟨_, hsome i hi, readied_spec d' i (hl.trans ((busy_readySet h).trans hb)) hn⟩⟩

end Sys2Proof.Machine
end

section
/-!
Transmit opportunities, path sets, probes, meters and colours: O47.
-/
namespace Sys2Proof.Machine

/-! ### Transmit opportunities (R356 to R362) -/

section
variable {d g t : Dev} {sub fuel : Nat} {p : TxPkt} {r : Drr}

theorem opportunity_idle (h : pick d sub = none) : opportunity sub (fuel + 1) d = d := by
  rw [opportunity, h]

theorem opportunity_raw {i tag : Nat} {bs : List Byte} {ts cqe : Bool} (h : pick d sub = some (p, r)) (hb : p.body = .raw i tag bs ts cqe) :
    opportunity sub (fuel + 1) d = sendRaw d p i tag bs ts cqe r := by
  rw [opportunity, h]
  dsimp only
  rw [hb]

/-- A packet that is not raw goes once it is built and sealed. -/
theorem opportunity_sent {x : Packet} (h : pick d sub = some (p, r)) (hn : ∀ i tag bs ts cqe, p.body ≠ .raw i tag bs ts cqe)
    (hb : buildPkt d p = (g, .ok x)) (hs : sendPkt g p x r = (t, true)) : opportunity sub (fuel + 1) d = t := by
  rw [opportunity, h]
  dsimp only
  split
  next hr => exact absurd hr (hn _ _ _ _ _)
  next => rw [hb]; dsimp only; rw [hs]

end

/-! ### Live sets (R340, R342) -/

section
variable {d e : Dev} {set : Nat}

theorem liveOf_congr (h : e.tr.live = d.tr.live) : liveOf e set = liveOf d set := by rw [liveOf, h, liveOf]

/-- A change of a live set that keeps its number is what that number then finds. -/
theorem liveOf_modLive (d : Dev) {f : LiveSet → LiveSet} (hf : ∀ l, (f l).set = l.set) : liveOf (modLive d set f) set = (liveOf d set).map f := by
  have hp : ((fun e : Nat × LiveSet => decide (e.2.set = set)) ∘ fun e => if e.2.set = set then (e.1, f e.2) else e) =
      fun e => decide (e.2.set = set) := by
    funext e
    dsimp only [Function.comp_apply]
    split
    · rw [hf]
    · rfl
  rw [liveOf, liveOf, modLive, onTr_tr, List.find?_map, hp]
  cases h : d.tr.live.find? fun e => decide (e.2.set = set) with
  | none => rfl
  | some x => simp [of_decide_eq_true (List.find?_some h :)]

theorem dpaRead_tr (src a n : Nat) : (dpaRead d src a n).1.tr = d.tr := by
  unfold dpaRead
  split
  · rfl
  split
  · rfl
  · exact (answered_tr ..).trans (memOnly_memRead d a n).tr

/-- Reading a set's descriptors leaves the transport engine. -/
theorem readSet_tr (n : Nat) : (readSet d n).1.tr = d.tr := by
  have hr := dpaRead_tr (d := d) 0x2000 (rd d .transportPathsetBase * 65536 + 256 * n) 256
  unfold readSet
  split
  next h => rwa [h] at hr
  next h => rwa [h] at hr

end

/-! ### Paths go down (R343 to R345) -/

/-- A live set with path `i` down. -/
def lowered (i : Nat) (l : LiveSet) : LiveSet :=
  { l with paths := l.paths.zipIdx.map fun e => if e.2 = i then { e.1 with up := false } else e.1 }

/-- Whether path `i` of a live set is up. -/
def upAt (l : LiveSet) (i : Nat) : Bool := (l.paths[i]?).any (·.up)

section
variable {l : LiveSet} {i : Nat}

theorem length_lowered : (lowered i l).paths.length = l.paths.length := by simp [lowered]

theorem getElem?_lowered (k : Nat) :
    (lowered i l).paths[k]? = (l.paths[k]?).map fun p => if k = i then { p with up := false } else p := by
  simp [lowered, List.getElem?_zipIdx, Function.comp_def]

theorem upAt_lowered (k : Nat) : upAt (lowered i l) k = (upAt l k && decide (k ≠ i)) := by
  rw [upAt, upAt, getElem?_lowered]
  by_cases hk : k = i
  · cases l.paths[k]? <;> simp [hk]
  · cases l.paths[k]? <;> simp [hk]

/-- Lowering a path that is down changes nothing. -/
theorem lowered_of_down (h : upAt l i = false) : lowered i l = l := by
  have hp : (lowered i l).paths = l.paths := by
    refine List.ext_getElem? fun k => ?_
    rw [getElem?_lowered]
    cases hk : l.paths[k]? with
    | none => rfl
    | some p =>
      refine congrArg some ?_
      split
      next hi =>
        have hu : p.up = false := by simpa [upAt, ← hi, hk] using h
        rw [← hu]
      next => rfl
  exact congrArg (fun x => { l with paths := x }) hp

end

/-- The counters of paths that went down and of packets to be sent again. -/
def downCounters : List (Fld × Nat) := [(.transportPathsDowned, 0), (.transportRetransmits, 0)]

/-- From `d` to `e` live sets stay, and every register but the counters of paths that go down. -/
structure LivesKept (d e : Dev) : Prop where
  live : e.tr.live = d.tr.live
  regs : keepsRegs d e downCounters

namespace LivesKept
variable {d e f : Dev}

theorem refl (d : Dev) : LivesKept d d := ⟨rfl, keepsRegs_refl d _⟩

theorem trans (h : LivesKept d e) (h' : LivesKept e f) : LivesKept d f :=
  ⟨h'.live.trans h.live, fun g i hg => (h'.regs g i hg).trans (h.regs g i hg)⟩

theorem foldl {α : Type} {g : Dev → α → Dev} (h : ∀ d x, LivesKept d (g d x)) (l : List α) (d : Dev) : LivesKept d (l.foldl g d) := by
  induction l generalizing d with
  | nil => exact refl d
  | cons x t ih => exact (h d x).trans (ih _)

theorem bump {g : Fld} (hg : (g, 0) ∈ downCounters) (d : Dev) : LivesKept d (bump d g) :=
  ⟨by rw [bump_tr], keepsRegs_wr (keepsRegs_refl d _) hg⟩

theorem loseRec (d : Dev) (r : Rec) : LivesKept d (loseRec d r) := by
  have h : onlyTr d (Machine.loseRec d r) [] := onlyTr_loseRec (onlyTr_refl d [])
  refine ⟨?_, fun f i _ => h.regs f i (by simp)⟩
  unfold Machine.loseRec uncharge modQp
  split
  · rfl
  · rfl

theorem pathsLostCheck (d : Dev) (set : Nat) : LivesKept d (pathsLostCheck d set) :=
  ⟨(pathNoted_pathsLostCheck d set).live, fun f i _ => (pathNoted_pathsLostCheck d set).regs f i⟩

end LivesKept

section
variable {d : Dev} {set : Nat} {l : LiveSet}

theorem pathDown_down {i : Nat} (hl : liveOf d set = some l) (h : upAt l i = false) : pathDown d set i = d := by
  rw [pathDown, hl]
  exact if_pos (by simpa [upAt] using h)

/-- A path that goes down is lowered; what waited for it or was sent on it is not part of a live set. -/
theorem pathDown_up {i : Nat} (hl : liveOf d set = some l) (h : upAt l i = true) :
    LivesKept (modLive d set (lowered i)) (pathDown d set i) := by
  rw [pathDown, hl]
  dsimp only
  rw [if_neg (by simpa [upAt] using h)]
  refine LivesKept.trans ?_ (.pathsLostCheck _ _)
  refine LivesKept.trans ?_ (.foldl (fun d r => (LivesKept.loseRec d r).trans (.bump (by simp [downCounters]) _)) _ _)
  refine LivesKept.trans ?_ (.foldl (fun d p => ?_) _ _)
  · exact (LivesKept.bump (by simp [downCounters]) _).trans ⟨rfl, fun _ _ _ => rfl⟩
  · split
    · exact ⟨rfl, fun _ _ _ => rfl⟩
    · exact ⟨rfl, fun _ _ _ => rfl⟩
    · exact .refl d

/-- What a path that goes down leaves of its set. -/
theorem liveOf_pathDown (i : Nat) (hl : liveOf d set = some l) : liveOf (pathDown d set i) set = some (lowered i l) := by
  cases h : upAt l i with
  | false => rw [pathDown_down hl h, hl, lowered_of_down h]
  | true => rw [liveOf_congr (pathDown_up hl h).live, liveOf_modLive d (f := lowered i) fun _ => rfl, hl, Option.map_some]

theorem keepsRegs_pathDown (i : Nat) (hl : liveOf d set = some l) : keepsRegs d (pathDown d set i) downCounters := by
  cases h : upAt l i with
  | false =>
    rw [pathDown_down hl h]
    exact keepsRegs_refl d _
  | true => exact (pathDown_up hl h).regs

/-- The paths of a list go down, one after another. -/
def pathsDown (d : Dev) (set : Nat) (is : List Nat) : Dev := is.foldl (fun d i => pathDown d set i) d

theorem pathsDown_spec (is : List Nat) (hl : liveOf d set = some l) :
    keepsRegs d (pathsDown d set is) downCounters ∧ ∃ l', liveOf (pathsDown d set is) set = some l' ∧ l'.paths.length = l.paths.length ∧
      ∀ i, i ∈ is ∨ upAt l i = false → upAt l' i = false := by
  induction is generalizing d l with
  | nil => exact ⟨keepsRegs_refl d _, l, hl, rfl, fun i h => h.resolve_left (by simp)⟩
  | cons j is ih =>
    obtain ⟨hk, l', hl', hlen, hdown⟩ := ih (liveOf_pathDown j hl)
    refine ⟨fun f i hf => (hk f i hf).trans (keepsRegs_pathDown j hl f i hf), l', hl', hlen.trans length_lowered, fun i h => hdown i ?_⟩
    rw [upAt_lowered]
    rcases h with h | h
    · rcases List.mem_cons.1 h with rfl | h
      · exact .inr (by simp)
      · exact .inl h
    · exact .inr (by simp [h])

end

/-! ### Path sets read anew (R342) -/

section
variable {d e : Dev} (h : keepsRegs d e downCounters)
include h

theorem pathValid_of_keepsRegs (x : Nat) : pathValid e x = pathValid d x := by
  have hv : ∀ y ∈ downCounters, y.1 ∉ votedWith .portCfgMode := by decide
  have hm : rd e .portCfgMode (pathSub x / 4) = rd d .portCfgMode (pathSub x / 4) := h _ _ fun y hy hm => absurd hm (hv y hy)
  rw [pathValid, pathValid, subExists, subExists, hm]

theorem freshPath_of_keepsRegs (x : Nat) : freshPath e x = freshPath d x := by
  have ht : rd e .timeNowNs 0 = rd d .timeNowNs 0 := h _ _ (by decide)
  rw [freshPath, freshPath, now32, now32, now, now, pathValid_of_keepsRegs h, ht]

end

/-- A live set that takes the descriptors `ds` on device `e`: a path that was not valid on `d` and is now starts afresh. -/
def reread (d e : Dev) (old ds : List Nat) (l : LiveSet) : LiveSet :=
  { l with
    descs := ds,
    paths := l.paths.zipIdx.map fun p =>
      if pathValid e (ds.getD p.2 0) && !pathValid d (old.getD p.2 0) then freshPath e (ds.getD p.2 0) else p.1 }

theorem reread_of_keepsRegs {d e : Dev} (h : keepsRegs d e downCounters) (old ds : List Nat) : reread d e old ds = reread d d old ds := by
  funext l
  simp only [reread, pathValid_of_keepsRegs h, freshPath_of_keepsRegs h]

/-- The paths that descriptors leave invalid. -/
def gonePaths (d : Dev) (ds : List Nat) : List Nat := (List.range 64).filter fun i => !pathValid d (ds.getD i 0)

theorem getElem?_reread (d : Dev) (old ds : List Nat) (l : LiveSet) (k : Nat) : (reread d d old ds l).paths[k]? = (l.paths[k]?).map fun p =>
    if pathValid d (ds.getD k 0) && !pathValid d (old.getD k 0) then freshPath d (ds.getD k 0) else p := by
  simp only [reread, List.getElem?_map, List.getElem?_zipIdx, Option.map_map, Function.comp_def, Nat.zero_add]

section
variable {d g : Dev} {set : Nat} {l : LiveSet} {ds : List Nat}

theorem pathsetEffect_idle (hl : liveOf d set = none) : pathsetEffect d set = wr d .transportPathsetInvalSet 0 set := by
  have hw : liveOf (wr d .transportPathsetInvalSet 0 set) set = none := by rwa [liveOf_congr (by rw [wr_tr])]
  rw [pathsetEffect]
  dsimp only
  rw [hw]

/-- A set's descriptors are read with the set as it was live. -/
theorem liveOf_readSet (hl : liveOf d set = some l) (hr : readSet (wr d .transportPathsetInvalSet 0 set) set = (g, ds)) :
    liveOf g set = some l := by
  have ht : g.tr = d.tr := by simpa [hr] using readSet_tr (d := wr d .transportPathsetInvalSet 0 set) set
  rwa [liveOf_congr (congrArg (·.live) ht)]

theorem pathsetEffect_live (hl : liveOf d set = some l) (hr : readSet (wr d .transportPathsetInvalSet 0 set) set = (g, ds)) :
    pathsetEffect d set = pathsLostCheck (modLive (pathsDown g set (gonePaths g ds)) set (reread g g l.descs ds)) set := by
  have hw : liveOf (wr d .transportPathsetInvalSet 0 set) set = some l := by rwa [liveOf_congr (by rw [wr_tr])]
  have hk := (pathsDown_spec (gonePaths g ds) (liveOf_readSet hl hr)).1
  rw [pathsetEffect]
  dsimp only
  rw [hw]
  dsimp only
  rw [hr]
  rw [← reread_of_keepsRegs hk]
  rfl

/-- What a live set is after its descriptors have been read anew. -/
theorem pathsetEffect_spec (hl : liveOf d set = some l) (hr : readSet (wr d .transportPathsetInvalSet 0 set) set = (g, ds)) :
    ∃ l', liveOf (pathsetEffect d set) set = some l' ∧ l'.descs = ds ∧ l'.paths.length = l.paths.length ∧
      (∀ i, i < 64 → pathValid g (ds.getD i 0) = false → upAt l' i = false) ∧
      (∀ i, i < l.paths.length → pathValid g (ds.getD i 0) = true → pathValid g (l.descs.getD i 0) = false →
        l'.paths[i]? = some (freshPath g (ds.getD i 0))) := by
  obtain ⟨_, x, hx, hlen, hdown⟩ := pathsDown_spec (gonePaths g ds) (liveOf_readSet hl hr)
  refine ⟨reread g g l.descs ds x, ?_, rfl, by simp [reread, hlen], fun i hi hv => ?_, fun i hi hv hold => ?_⟩
  · rw [pathsetEffect_live hl hr, liveOf_congr (pathNoted_pathsLostCheck _ set).live,
      liveOf_modLive _ (f := reread g g l.descs ds) fun _ => rfl, hx, Option.map_some]
  · have hu : upAt x i = false := hdown i (.inl (List.mem_filter.2 ⟨List.mem_range.2 hi, congrArg (!·) hv⟩))
    rw [upAt, getElem?_reread, hv]
    simpa [upAt] using hu
  · rw [getElem?_reread, List.getElem?_eq_getElem (hlen ▸ hi), Option.map_some, hv, hold]
    rfl

end

/-! ### Probes (R346) -/

theorem answers_probeTimer {s : State} {set n : Nat} {l : LiveSet} {q : Qp} (hr : inRun s.dev = true)
    (he : isSet s.dev .transportCtrlEnable 0 = true) (hl : liveOf s.dev set = some l) (ho : probeOwner s.dev l = some (n, q))
    (hp : probePaths s.dev l ≠ []) : Answers (.probeTimer set) s (probeEffect s.dev l n q) := by
  have hx : execProbeTimer set s = act s "PROBE_TIMER" true (probeEffect s.dev l n q) := by
    simp [execProbeTimer, hr, he, hl, ho, List.isEmpty_eq_false_iff.2 hp]
  exact answers_act hx rfl

/-! ### Meters (R357 to R359) -/

/-- A key finds what a change of the values under their keys makes of what it found. -/
theorem find?_mapValues {α : Type} (f : Nat → α → α) (m : KMap α) (k : Nat) :
    find? (m.map fun e => (e.1, f e.1 e.2)) k = (find? m k).map (f k) := by
  induction m with
  | nil => rfl
  | cons e t ih =>
    simp only [List.map_cons, find?]
    split
    next h => rw [h, Option.map_some]
    next => exact ih

/-- A meter's buckets after 8 ns of a port. -/
def refilled (d : Dev) (port m : Nat) (b : Buckets) : Buckets :=
  if m / 255 = port then
    { tc := min (bucketSize d (rd d .topiaryMeterCbs m) * 1024) (b.tc + min (rd d .topiaryMeterCir m) (rd d .topiaryMeterPir m) * 1024 / 1000),
      tp := min (bucketSize d (rd d .topiaryMeterPbs m) * 1024) (b.tp + rd d .topiaryMeterPir m * 1024 / 1000) }
  else b

theorem find?_refillPort (d : Dev) (port m : Nat) :
    find? (refillPort d port).top.buckets m = (find? d.top.buckets m).map (refilled d port m) := by
  rw [← find?_mapValues (refilled d port)]
  refine congrArg (find? · m) (List.map_congr_left fun e _ => ?_)
  unfold refilled
  split
  · rfl
  · rfl

/-! ### Colours (R359) -/

section
variable {d : Dev} {p : TxPkt} {m : Nat}

theorem colourOf_unmetered (h : meterOf d p = none) : colourOf d p = .green := by rw [colourOf, h]

theorem colourOf_metered (h : meterOf d p = some m) : colourOf d p =
    if (bucketsOf d m).tp < counted d p * 1024 then .red else if (bucketsOf d m).tc < counted d p * 1024 then .yellow else .green := by
  rw [colourOf, h]

theorem colourOf_red (h : meterOf d p = some m) : colourOf d p = .red ↔ (bucketsOf d m).tp < counted d p * 1024 := by
  rw [colourOf_metered h]
  split
  next hp => simp [hp]
  next hp => split <;> simp [hp]

theorem colourOf_yellow (h : meterOf d p = some m) :
    colourOf d p = .yellow ↔ counted d p * 1024 ≤ (bucketsOf d m).tp ∧ (bucketsOf d m).tc < counted d p * 1024 := by
  rw [colourOf_metered h]
  split
  next hp => simp [hp]
  next hp => split <;> simp_all

end

/-! ### The obligation -/

/-- Settles O47: the opportunity by what is picked, the path set by its paths that go down and those that start afresh. -/
theorem pathsAndTransmission : Obligations.PathsAndTransmission := by
  refine ⟨fun s sub hr hu => ?_, fun s set hset ht => ?_, fun s set n l q hr he hl ho hp => ?_, fun s port hp hb => ?_, fun d p => ?_⟩
  · exact ⟨_, _, answers_act (n := "TRANSMIT_OPPORTUNITY") rfl (by simp [hr, hu]), rfl, rfl, opportunity_idle,
      fun p r h => ⟨fun _ _ _ _ _ hb => opportunity_raw h hb, fun _ _ _ hn hb hs => opportunity_sent h hn hb hs⟩⟩
  · refine ⟨_, answers_drv (n := "PATHSET_INVAL") rfl (decide_eq_true hset) ht, fun hl => ?_, fun l d ds hl hr => pathsetEffect_spec hl hr⟩
    rw [pathsetEffect_idle hl]
    exact ⟨(rd_wr_self _ _ _ _ rfl).trans (Nat.mod_eq_of_lt hset), onlyRegs_wr (onlyRegs_refl _ _) (.head _)⟩
  · exact ⟨_, answers_probeTimer hr he hl ho hp, rfl⟩
  · refine ⟨_, answers_act (n := "METER_REFILL") (e := refillPort s.dev port) rfl (by simp [hp, hb]), rfl,
      fun m b hm hne => ?_, fun m b hm he => ?_⟩
    · rw [find?_refillPort, hm, Option.map_some, refilled, if_neg hne]
    · refine ⟨refilled s.dev port m b, by rw [find?_refillPort, hm, Option.map_some], ?_, ?_⟩
      · rw [refilled, if_pos he]
      · rw [refilled, if_pos he]
  · exact ⟨colourOf_unmetered, fun m hm => ⟨colourOf_red hm, colourOf_yellow hm⟩⟩

end Sys2Proof.Machine
end

section
/-!
Device time and gate lists: O49.
-/
namespace Sys2Proof.Machine

/-! ### Steps that change the ports and some registers -/

/-- From `d` to `e` only the ports' state and the listed registers change. -/
def onlyPort (d e : Dev) (l : List (Fld × Nat)) : Prop := onlyRegs { d with port := e.port } e l

section
variable {d e : Dev} {l : List (Fld × Nat)}

theorem onlyPort_refl (d : Dev) (l : List (Fld × Nat)) : onlyPort d d l := onlyRegs_refl d l

theorem onlyPort_wr {f : Fld} {i v : Nat} (h : onlyPort d e l) (hf : (f, i) ∈ l) : onlyPort d (wr e f i v) l := by
  unfold onlyPort
  rw [wr_port]
  exact onlyRegs_wr h hf

theorem onlyPort_onPort (h : onlyPort d e l) (u : PortSt → PortSt) : onlyPort d (onPort e u) l :=
  ⟨congrArg (fun x : Dev => { x with port := u e.port }) h.1, fun f i hf => h.2 f i hf⟩

/-- A truth value fits a one-bit field. -/
theorem bit_mod_two (b : Bool) : bit b % 2 ^ 1 = bit b := by
  cases b
  · rfl
  · rfl

/-- A flag reads the truth value that was written. -/
theorem isSet_wr_bit (d : Dev) (f : Fld) (i : Nat) (b : Bool) (hf : f.info.voted = false) (hw : f.info.width = 1) :
    isSet (wr d f i (bit b)) f i = b := by
  rw [isSet, rd_wr_self _ _ _ _ hf, hw, bit_mod_two]
  cases b
  · rfl
  · rfl

end

/-! ### Whole cycles -/

/-- The multiple of `c` that is not below `a` and less than `c` above it. -/
theorem roundUp_mul {a c : Nat} (hc : 0 < c) : a ≤ (a + c - 1) / c * c ∧ (a + c - 1) / c * c < a + c := by
  have hd := Nat.div_add_mod' (a + c - 1) c
  have hm := Nat.mod_lt (a + c - 1) hc
  omega

/-! ### Device time moves (R375, R376, R381) -/

section
variable {t : Nat} {g : GateRun}

/-- A list restarts at the first instant of its cycles that is not before the new time. -/
theorem gateRestart_spec (hc : 1 ≤ g.cycle) : t ≤ (gateRestart t g).endAt ∧ (t ≤ g.base → (gateRestart t g).endAt = g.base) ∧
    (g.base < t → (gateRestart t g).endAt < t + g.cycle ∧ ((gateRestart t g).endAt - g.base) % g.cycle = 0) := by
  rcases Nat.lt_or_ge g.base t with h | h
  · have he : (gateRestart t g).endAt = g.base + (t - g.base + g.cycle - 1) / g.cycle * g.cycle := by
      simp only [gateRestart, if_neg (Nat.not_le.2 h)]
    obtain ⟨hlo, hhi⟩ := roundUp_mul (a := t - g.base) hc
    rw [he, Nat.add_sub_cancel_left]
    exact ⟨by omega, fun hb => absurd h (Nat.not_lt.2 hb), fun _ => ⟨by omega, Nat.mul_mod_left _ _⟩⟩
  · have he : (gateRestart t g).endAt = g.base := by simp [gateRestart, h]
    rw [he]
    exact ⟨h, fun _ => rfl, fun hb => absurd hb (Nat.not_lt.2 h)⟩

end

section
variable (d : Dev) (ns frac : Nat)

theorem now_timeMoved : now (timeMoved d ns frac) = ns % 2 ^ 64 :=
  (rd_wr_ne _ _ rfl (.inl (by decide))).trans (rd_wr_self _ _ _ _ rfl)

theorem rd_timeSteps_timeMoved : rd (timeMoved d ns frac) .timeSteps 0 = (rd d .timeSteps 0 + 1) % 2 ^ 32 := by
  refine (rd_bump_self _ .timeSteps 0 1 rfl).trans ?_
  rw [rd_wr_ne _ _ rfl (.inl (by decide))]
  rfl

theorem onlyPort_timeMoved {e : Dev} {l : List (Fld × Nat)} (h : onlyPort d e l) (hl : [(Fld.timeNowNs, 0), (.timeSteps, 0)] ⊆ l) :
    onlyPort d (timeMoved e ns frac) l :=
  onlyPort_onPort (onlyPort_wr (onlyPort_wr h (hl (by simp))) (hl (by simp))) _

theorem find?_gates_timeMoved (sub : Nat) :
    find? (timeMoved d ns frac).port.gates sub = (find? d.port.gates sub).map (gateRestart (ns % 2 ^ 64)) := by
  have hn : rd (bump (wr d .timeNowNs 0 ns) .timeSteps) .timeNowNs 0 = ns % 2 ^ 64 := now_timeMoved d ns frac
  rw [← find?_mapValues fun _ => gateRestart (ns % 2 ^ 64)]
  simp only [timeMoved, onPort, bump, wr_port]
  rw [← bump, hn]

end

/-! ### Gate list changes (R379, R380) -/

section
variable {d : Dev} {sub : Nat}

theorem gateChangeEffect_waiting (hp : isSet d .portsubGateCtrlPending sub = true) :
    gateChangeEffect d sub = bump d .portsubGateWriteDiscards sub := if_pos hp

theorem gateChangeEffect_refused (hp : isSet d .portsubGateCtrlPending sub = false) (ho : gateAdminOk d sub = false) :
    gateChangeEffect d sub = portEvent d sub 0xD4 0 := by
  simp only [gateChangeEffect, hp, ho, Bool.false_eq_true, if_false, Bool.not_false, if_true]

/-- The cycles from the base of a change to its late start. -/
def lateCycles (d : Dev) (sub : Nat) : Nat :=
  (now d + rd d .portsubGateAdminCycleNs sub - rd d .portsubGateAdminBase sub + rd d .portsubGateAdminCycleNs sub - 1) /
    rd d .portsubGateAdminCycleNs sub

/-- A change that is taken waits for its base, or for the late start when its base has passed. -/
theorem gateChangeEffect_taken (hp : isSet d .portsubGateCtrlPending sub = false) (ho : gateAdminOk d sub = true) :
    gateChangeEffect d sub =
      if now d ≤ rd d .portsubGateAdminBase sub
      then wr (wr d .portsubGateCtrlPending sub 1) .portsubGateStart sub (rd d .portsubGateAdminBase sub)
      else portEvent (bump (wr (wr d .portsubGateCtrlPending sub 1) .portsubGateStart sub
        (rd d .portsubGateAdminBase sub + lateCycles d sub * rd d .portsubGateAdminCycleNs sub)) .portsubGateLateStarts sub) sub 0xD3 0 := by
  have hn : now (wr d .portsubGateCtrlPending sub 1) = now d := rd_wr_ne _ _ rfl (.inl (by decide))
  simp only [gateChangeEffect, hp, ho, Bool.false_eq_true, if_false, Bool.not_true, hn, ge_iff_le, lateCycles]

/-- A list that may take effect has a cycle. -/
theorem cycle_pos_of_gateAdminOk (ho : gateAdminOk d sub = true) : 0 < rd d .portsubGateAdminCycleNs sub := by
  have h := (Bool.and_eq_true_iff.1 ho).1
  have hc := (of_decide_eq_true h).1
  omega

/-- A late start is at least one whole cycle away, and less than two. -/
theorem lateStart_bounds (ho : gateAdminOk d sub = true) (hb : rd d .portsubGateAdminBase sub < now d) :
    let t := rd d .portsubGateAdminBase sub + lateCycles d sub * rd d .portsubGateAdminCycleNs sub
    now d + rd d .portsubGateAdminCycleNs sub ≤ t ∧ t < now d + 2 * rd d .portsubGateAdminCycleNs sub := by
  have h := roundUp_mul (a := now d + rd d .portsubGateAdminCycleNs sub - rd d .portsubGateAdminBase sub) (cycle_pos_of_gateAdminOk ho)
  rw [← lateCycles] at h
  dsimp only
  omega

/-- A change that is taken on time. -/
theorem gateChange_onTime (hp : isSet d .portsubGateCtrlPending sub = false) (ho : gateAdminOk d sub = true)
    (hb : now d ≤ rd d .portsubGateAdminBase sub) :
    rd (gateChangeEffect d sub) .portsubGateStart sub = rd d .portsubGateAdminBase sub % 2 ^ 64 ∧
    rd (gateChangeEffect d sub) .portsubGateLateStarts sub = rd d .portsubGateLateStarts sub := by
  rw [gateChangeEffect_taken hp ho, if_pos hb]
  exact ⟨rd_wr_self _ _ _ _ rfl, (rd_wr_ne _ _ rfl (.inl (by decide))).trans (rd_wr_ne _ _ rfl (.inl (by decide)))⟩

/-- A change that is taken late is counted. -/
theorem gateChange_late (hp : isSet d .portsubGateCtrlPending sub = false) (ho : gateAdminOk d sub = true)
    (hb : rd d .portsubGateAdminBase sub < now d) :
    rd (gateChangeEffect d sub) .portsubGateStart sub =
      (rd d .portsubGateAdminBase sub + lateCycles d sub * rd d .portsubGateAdminCycleNs sub) % 2 ^ 64 ∧
    rd (gateChangeEffect d sub) .portsubGateLateStarts sub = (rd d .portsubGateLateStarts sub + 1) % 2 ^ 32 := by
  rw [gateChangeEffect_taken hp ho, if_neg (Nat.not_le.2 hb), portEvent, rd_postEq, rd_postEq]
  refine ⟨(rd_wr_ne _ _ rfl (.inl (by decide))).trans (rd_wr_self _ _ _ _ rfl), (rd_bump_self _ _ _ _ rfl).trans ?_⟩
  rw [rd_wr_ne _ _ rfl (.inl (by decide)), rd_wr_ne _ _ rfl (.inl (by decide))]
  rfl

/-- Either way a change that is taken waits. -/
theorem gateChange_taken (hp : isSet d .portsubGateCtrlPending sub = false) (ho : gateAdminOk d sub = true) :
    isSet (gateChangeEffect d sub) .portsubGateCtrlPending sub = true ∧ (gateChangeEffect d sub).port = d.port ∧
    keepsRegs d (gateChangeEffect d sub) [(.portsubGateCtrlPending, sub), (.portsubGateStart, sub), (.portsubGateLateStarts, sub)] := by
  have hone := isSet_wr_one d .portsubGateCtrlPending sub rfl rfl
  rw [gateChangeEffect_taken hp ho]
  split
  next =>
    refine ⟨(isSet_wr_ne _ _ rfl (by decide)).trans hone, by rw [wr_port, wr_port], ?_⟩
    exact keepsRegs_wr (keepsRegs_wr (keepsRegs_refl d _) (by simp)) (by simp)
  next =>
    refine ⟨((isSet_wr_ne _ _ rfl (by decide)).trans (isSet_wr_ne _ _ rfl (by decide))).trans hone, ?_, ?_⟩
    · rw [portEvent, postEq_port, bump, wr_port, wr_port, wr_port]
    · refine keepsRegs_of_rd ?_ fun f i => rd_postEq _ _ _ f i
      exact keepsRegs_wr (keepsRegs_wr (keepsRegs_wr (keepsRegs_refl d _) (by simp)) (by simp)) (by simp)

end

/-! ### Cancelling (R380) -/

section
variable {d : Dev} {sub : Nat}

theorem gateCancelEffect_due (h : rd d .portsubGateStart sub ≤ now d) : gateCancelEffect d sub = d :=
  if_neg (by simp [Nat.not_lt.2 h])

theorem isSet_gateCancelEffect (h : now d < rd d .portsubGateStart sub) :
    isSet (gateCancelEffect d sub) .portsubGateCtrlPending sub = false := by
  unfold gateCancelEffect
  split
  next => exact isSet_wr_bit d _ sub false rfl rfl
  next hn => simpa [h] using hn

theorem onlyRegs_gateCancelEffect (d : Dev) (sub : Nat) : onlyRegs d (gateCancelEffect d sub) [(.portsubGateCtrlPending, sub)] := by
  unfold gateCancelEffect
  split
  next => exact onlyRegs_wr (onlyRegs_refl d _) (.head _)
  next => exact onlyRegs_refl d _

end

/-! ### A list starts and goes on (R378, R380, R381) -/

section
variable (d : Dev) (sub : Nat) (x : Option GateRun)

theorem find?_setGate : find? (setGate d sub x).port.gates sub = x := by
  cases x with
  | none => exact find?_del_self _ _
  | some g => exact find?_put_self _ _ _

theorem openGates_setGate : openGates (setGate d sub x) sub = (x.map (·.gates)).getD 0xFF := by
  rw [openGates, find?_setGate]
  cases x with
  | none => rfl
  | some g => rfl

theorem isSet_running_setGate : isSet (setGate d sub x) .portsubGateCtrlRunning sub = x.isSome :=
  isSet_wr_bit d _ sub _ rfl rfl

theorem rd_setGate {f : Fld} (i : Nat) (hf : f ≠ .portsubGateCtrlRunning) : rd (setGate d sub x) f i = rd d f i :=
  rd_wr_plain_ne _ _ _ _ rfl hf

theorem onlyPort_setGate {e : Dev} {l : List (Fld × Nat)} (h : onlyPort d e l) (hl : (Fld.portsubGateCtrlRunning, sub) ∈ l) :
    onlyPort d (setGate e sub x) l := onlyPort_onPort (onlyPort_wr h hl) _

/-- The change no longer waits, and the banks have changed over. -/
def banksSwitched : Dev := wr (wr d .portsubGateCtrlPending sub 0) .portsubGateCtrlOperBank sub (1 - rd d .portsubGateCtrlOperBank sub)

theorem rd_banksSwitched {f : Fld} (i : Nat) (hp : f ≠ .portsubGateCtrlPending) (ho : f ≠ .portsubGateCtrlOperBank) :
    rd (banksSwitched d sub) f i = rd d f i := (rd_wr_plain_ne _ _ _ _ rfl ho).trans (rd_wr_plain_ne _ _ _ _ rfl hp)

theorem operBank_banksSwitched : rd (banksSwitched d sub) .portsubGateCtrlOperBank sub = (1 - rd d .portsubGateCtrlOperBank sub) % 2 :=
  rd_wr_self _ _ _ _ rfl

theorem pending_banksSwitched : isSet (banksSwitched d sub) .portsubGateCtrlPending sub = false :=
  (isSet_wr_ne _ _ rfl (by decide)).trans (isSet_wr_bit d _ sub false rfl rfl)

theorem gateEntry_banksSwitched (b i : Nat) : gateEntry (banksSwitched d sub) sub b i = gateEntry d sub b i :=
  rd_banksSwitched d sub _ (by decide) (by decide)

/-- An entry's gates are those of the bank in use. -/
theorem gates_gateAdvance (g : GateRun) :
    (gateAdvance d sub g).gates = cut (gateEntry d sub (rd d .portsubGateCtrlOperBank sub) g.next) 0 8 := rfl

variable {d sub}

/-- At its start an enabled list applies entry 0 of the other bank, a disabled one leaves no list. -/
theorem gateStartEffect_spec : ∃ x, gateStartEffect d sub = setGate (banksSwitched d sub) sub x ∧
    x.isSome = isSet d .portsubGateAdminEnable sub ∧
    ∀ g, x = some g → g.gates = cut (gateEntry d sub ((1 - rd d .portsubGateCtrlOperBank sub) % 2) 0) 0 8 := by
  have hx : isSet (banksSwitched d sub) .portsubGateAdminEnable sub = isSet d .portsubGateAdminEnable sub := by
    rw [isSet, rd_banksSwitched _ _ _ (by decide) (by decide), isSet]
  unfold gateStartEffect
  rw [← banksSwitched]
  dsimp only
  rw [hx]
  split
  next he =>
    refine ⟨_, rfl, he.symm, fun g hg => ?_⟩
    cases hg
    rw [gates_gateAdvance, operBank_banksSwitched, gateEntry_banksSwitched]
  next he => exact ⟨none, rfl, (Bool.eq_false_iff.2 he).symm, fun g hg => nomatch hg⟩

theorem gateEntryEndEffect_due {g : GateRun} (h : gateDue d sub = some g) :
    gateEntryEndEffect d sub = setGate d sub (some (gateAdvance d sub g)) := by
  rw [gateEntryEndEffect, h]

end

/-! ### The obligation -/

/-- A time that is set or stepped restarts every list that runs. -/
theorem timeMoved_restarts (d : Dev) (ns frac : Nat) {sub : Nat} {g : GateRun} (hg : find? d.port.gates sub = some g) (hc : 1 ≤ g.cycle) :
    ∃ g', find? (timeMoved d ns frac).port.gates sub = some g' ∧ g'.next = 0 ∧ g'.gates = g.gates ∧ ns % 2 ^ 64 ≤ g'.endAt ∧
      (ns % 2 ^ 64 ≤ g.base → g'.endAt = g.base) ∧
      (g.base < ns % 2 ^ 64 → g'.endAt < ns % 2 ^ 64 + g.cycle ∧ (g'.endAt - g.base) % g.cycle = 0) :=
  ⟨gateRestart (ns % 2 ^ 64) g, by rw [find?_gates_timeMoved, hg, Option.map_some], rfl, rfl, gateRestart_spec hc⟩

section
variable {s : State} (v : Nat) (ht : takesDriver s.dev)
include ht

theorem answers_timeSet : Answers (.timeSet v) s (timeMoved (wr s.dev .timeSetNs 0 v) v 0) := answers_drv (n := "TIME_SET") rfl rfl ht

theorem answers_timeStep : Answers (.timeStep v) s (timeMoved (wr s.dev .timeStepNs 0 v) (now s.dev + v) s.dev.port.frac) :=
  answers_drv (n := "TIME_STEP") rfl rfl ht

end

/-- Settles O49: time by what it does to the running lists, a change by its checks, a start by the bank it changes over to. -/
theorem timeAndGates : Obligations.TimeAndGates := by
  refine ⟨fun s v hv ht => ⟨?_, ?_, fun c t hc => ?_, ?_⟩, fun s sub hs ht => ⟨?_, ?_⟩, fun s sub hs hp hd => ?_, fun s sub g hg => ?_⟩
  · refine ⟨_, answers_timeSet v ht, (now_timeMoved ..).trans (Nat.mod_eq_of_lt hv), ?_, rfl, ?_⟩
    · rw [rd_timeSteps_timeMoved, rd_wr_ne _ _ rfl (.inl (by decide))]
    · exact onlyPort_timeMoved _ _ _ (onlyPort_wr (onlyPort_refl s.dev _) (by simp)) (by simp)
  · refine ⟨_, answers_timeStep v ht, now_timeMoved .., ?_, rfl, ?_⟩
    · rw [rd_timeSteps_timeMoved, rd_wr_ne _ _ rfl (.inl (by decide))]
    · exact onlyPort_timeMoved _ _ _ (onlyPort_wr (onlyPort_refl s.dev _) (by simp)) (by simp)
  · simp only [List.mem_cons, Prod.mk.injEq, List.not_mem_nil, or_false] at hc
    rcases hc with ⟨rfl, rfl⟩ | ⟨rfl, rfl⟩
    · refine ⟨_, answers_timeSet _ ht, fun sub g hg hc => ?_⟩
      have h := timeMoved_restarts (wr s.dev .timeSetNs 0 t) t 0 (by rwa [wr_port]) hc
      rwa [Nat.mod_eq_of_lt hv] at h
    · exact ⟨_, answers_timeStep v ht, fun sub g hg hc => timeMoved_restarts _ _ _ (by rwa [wr_port]) hc⟩
  · exact ⟨_, answers_drv (n := "TIME_ADJUST") rfl rfl ht, rd_wr_self _ _ _ _ rfl, onlyRegs_wr (onlyRegs_refl _ _) (.head _)⟩
  · refine ⟨_, answers_drv (n := "GATE_CHANGE") rfl (decide_eq_true hs) ht, fun hp => ?_, fun hp ho => ?_, fun hp ho => ?_⟩
    · rw [gateChangeEffect_waiting hp]
      exact ⟨rd_bump_self _ _ _ _ rfl, onlyRegs_bump (onlyRegs_refl _ _) (.head _)⟩
    · rw [gateChangeEffect_refused hp ho]
      exact ⟨keepsRegs_of_rd (keepsRegs_refl _ _) fun f i => rd_postEq _ _ _ f i, rfl⟩
    · obtain ⟨hset, hport, hregs⟩ := gateChange_taken hp ho
      refine ⟨hset, hport, hregs, gateChange_onTime hp ho, fun hb => ?_⟩
      obtain ⟨hstart, hlate⟩ := gateChange_late hp ho hb
      obtain ⟨hlo, hhi⟩ := lateStart_bounds ho hb
      exact ⟨lateCycles s.dev sub, hstart, hlo, hhi, hlate⟩
  · exact ⟨_, answers_drv (n := "GATE_CANCEL") rfl (decide_eq_true hs) ht, onlyRegs_gateCancelEffect _ _, isSet_gateCancelEffect,
      gateCancelEffect_due⟩
  · obtain ⟨x, he, hsome, hgates⟩ := gateStartEffect_spec (d := s.dev) (sub := sub)
    have hl : onlyPort s.dev (banksSwitched s.dev sub)
        [(.portsubGateCtrlPending, sub), (.portsubGateCtrlOperBank, sub), (.portsubGateCtrlRunning, sub)] :=
      onlyPort_wr (onlyPort_wr (onlyPort_refl _ _) (by simp)) (by simp)
    refine ⟨setGate (banksSwitched s.dev sub) sub x, he ▸ answers_act (n := "GATE_START") rfl (by simp [hs, hp, hd]), ?_, ?_,
      (isSet_running_setGate ..).trans hsome, fun hen => ?_, fun hen => ?_, onlyPort_setGate _ _ _ hl (by simp)⟩
    · rw [isSet, rd_setGate _ _ _ _ (by decide)]
      exact pending_banksSwitched _ _
    · rw [rd_setGate _ _ _ _ (by decide), operBank_banksSwitched]
    · obtain rfl : x = none := Option.not_isSome_iff_eq_none.1 (by simp [hsome, hen])
      rw [openGates_setGate, Option.map_none, Option.getD_none]
    · obtain ⟨g, rfl⟩ := Option.isSome_iff_exists.1 (hsome.trans hen)
      rw [openGates_setGate, Option.map_some, Option.getD_some, hgates g rfl]
  · refine ⟨_, answers_act (n := "GATE_ENTRY_END") rfl (by rw [hg]; rfl), ?_⟩
    rw [gateEntryEndEffect_due hg]
    exact ⟨find?_setGate .., openGates_setGate .., onlyPort_setGate _ _ _ (onlyPort_refl _ _) (.head _)⟩

end Sys2Proof.Machine
end

section
/-!
Links of sub-ports (R366, R367, R370).
-/
namespace Sys2Proof.Machine

/-! ### A link goes down -/

section
variable {d e : Dev} {sub : Nat}

/-- A link that was not up only shows that it is down. -/
theorem linkDown_of_not_up (h : rd d .portsubLinkState sub ≠ 2) : linkDown d sub = wr d .portsubLinkState sub 0 := if_neg h

/-- A link that was up is counted and reported, and its paths go down. -/
theorem linkDown_of_up (h : rd d .portsubLinkState sub = 2) :
    linkDown d sub = subDown (portEvent (portCount (wr d .portsubLinkState sub 0) sub 14 1) sub 0xD0 0) sub := if_pos h

theorem subExists_congr (h : ∀ j, rd e .portCfgMode j = rd d .portCfgMode j) : subExists e sub = subExists d sub := by
  rw [subExists, h, subExists]

end

/-! ### A port starts or stops (R366, R367) -/

/-- A sub-port stops, with LOS as the bit says. -/
def subStop (b : Bool) (d : Dev) (k : Nat) : Dev := wr (linkDown d k) .portsubLinkLos k (bit b)

section
variable {d : Dev} {b : Bool} {j : Nat}

theorem rd_state_subStop (h : rd d .portsubLinkState j ≠ 2) (i : Nat) :
    rd (subStop b d j) .portsubLinkState i = if i = j then 0 else rd d .portsubLinkState i := by
  rw [subStop, linkDown_of_not_up h, rd_wr_ne _ _ rfl (.inl (by decide)), rd_wr _ _ _ _ rfl]
  simp

theorem rd_los_subStop (h : rd d .portsubLinkState j ≠ 2) (i : Nat) :
    rd (subStop b d j) .portsubLinkLos i = if i = j then bit b else rd d .portsubLinkLos i := by
  have hb : bit b % 2 ^ (Fld.portsubLinkLos).info.width = bit b := bit_mod_two b
  rw [subStop, linkDown_of_not_up h, rd_wr _ _ _ _ rfl, hb, rd_wr_ne (j := i) _ _ rfl (.inl (by decide))]
  simp

theorem onlyRegs_subStop {d0 : Dev} {l : List (Fld × Nat)} (h : rd d .portsubLinkState j ≠ 2) (ho : onlyRegs d0 d l)
    (hl : (Fld.portsubLinkState, j) ∈ l ∧ (Fld.portsubLinkLos, j) ∈ l) : onlyRegs d0 (subStop b d j) l := by
  rw [subStop, linkDown_of_not_up h]
  exact onlyRegs_wr (onlyRegs_wr ho hl.1) hl.2

/-- No link is up after a sub-port has stopped that was not before. -/
theorem not_up_subStop (h : rd d .portsubLinkState j ≠ 2) {i : Nat} (hi : rd d .portsubLinkState i ≠ 2) :
    rd (subStop b d j) .portsubLinkState i ≠ 2 := by
  rw [rd_state_subStop h]
  split
  next => decide
  next => exact hi

end

section
variable {d : Dev} {b : Bool} {ks : List Nat} (h : ∀ k ∈ ks, rd d .portsubLinkState k ≠ 2)
include h

theorem rd_state_foldl_subStop (i : Nat) :
    rd (ks.foldl (subStop b) d) .portsubLinkState i = if i ∈ ks then 0 else rd d .portsubLinkState i := by
  induction ks generalizing d with
  | nil => simp
  | cons k t ih =>
    obtain ⟨hk, ht⟩ := List.forall_mem_cons.1 h
    rw [List.foldl_cons, ih fun i hi => not_up_subStop hk (ht i hi), rd_state_subStop hk]
    by_cases hm : i ∈ t
    · simp [hm]
    · simp [hm]

theorem rd_los_foldl_subStop (i : Nat) :
    rd (ks.foldl (subStop b) d) .portsubLinkLos i = if i ∈ ks then bit b else rd d .portsubLinkLos i := by
  induction ks generalizing d with
  | nil => simp
  | cons k t ih =>
    obtain ⟨hk, ht⟩ := List.forall_mem_cons.1 h
    rw [List.foldl_cons, ih fun i hi => not_up_subStop hk (ht i hi), rd_los_subStop hk]
    by_cases hm : i ∈ t
    · simp [hm]
    · simp [hm]

theorem onlyRegs_foldl_subStop {d0 : Dev} {l : List (Fld × Nat)} (ho : onlyRegs d0 d l)
    (hl : ∀ k ∈ ks, (Fld.portsubLinkState, k) ∈ l ∧ (Fld.portsubLinkLos, k) ∈ l) : onlyRegs d0 (ks.foldl (subStop b) d) l := by
  induction ks generalizing d with
  | nil => exact ho
  | cons k t ih =>
    obtain ⟨hk, ht⟩ := List.forall_mem_cons.1 h
    obtain ⟨hlk, hlt⟩ := List.forall_mem_cons.1 hl
    exact ih (fun i hi => not_up_subStop hk (ht i hi)) (onlyRegs_subStop hk ho hlk) hlt

end

section
variable {d : Dev} {port val : Nat}

theorem mem_subsOf {i : Nat} : i ∈ subsOf d port ↔ ∃ k, k < 4 ∧ i = 4 * port + k ∧ subExists d i = true := by
  simp only [subsOf, List.mem_filter, List.mem_map, List.mem_range]
  constructor
  · rintro ⟨⟨k, hk, rfl⟩, hx⟩
    exact ⟨k, hk, rfl, hx⟩
  · rintro ⟨k, hk, rfl, hx⟩
    exact ⟨⟨k, hk, rfl⟩, hx⟩

theorem portEnableEffect_left (hon : bitOf val 0 = true) (h : rd d .portCfgMode port = 3 ∨ isSet d .portCtrlEnable port = true) :
    portEnableEffect d port val = d := by
  unfold portEnableEffect
  rcases h with h | h
  · simp [hon, h]
  · simp [hon, h]

theorem portEnableEffect_taken (h : ¬ (bitOf val 0 = true ∧ (rd d .portCfgMode port = 3 ∨ isSet d .portCtrlEnable port = true))) :
    portEnableEffect d port val =
      (subsOf d port).foldl (subStop (bitOf val 0)) (wr d .portCtrlEnable port (bit (bitOf val 0))) := by
  have hs : subsOf (wr d .portCtrlEnable port (bit (bitOf val 0))) port = subsOf d port :=
    List.filter_congr fun i _ => subExists_congr fun j => rd_wr_plain_ne _ _ _ _ rfl (by decide)
  unfold portEnableEffect
  dsimp only
  rw [if_neg (by simp only [Bool.and_eq_true, decide_eq_true_eq]; tauto), if_neg (by simp only [Bool.and_eq_true]; tauto), hs]
  rfl

/-- The sub-ports of a port that starts or stops, when none of its links is up. -/
theorem portStopped_spec {b : Bool} (h : ∀ k, k < 4 → rd d .portsubLinkState (4 * port + k) ≠ 2) :
    let e := (subsOf d port).foldl (subStop b) (wr d .portCtrlEnable port (bit b))
    rd e .portCtrlEnable port = bit b ∧
    (∀ k, k < 4 → subExists d (4 * port + k) = true →
      rd e .portsubLinkState (4 * port + k) = 0 ∧ rd e .portsubLinkLos (4 * port + k) = bit b) ∧
    onlyRegs d e ((.portCtrlEnable, port) :: (List.range 4).flatMap fun k =>
      [(.portsubLinkState, 4 * port + k), (.portsubLinkLos, 4 * port + k)]) := by
  have hup : ∀ i ∈ subsOf d port, rd (wr d .portCtrlEnable port (bit b)) .portsubLinkState i ≠ 2 := fun i hi => by
    obtain ⟨k, hk, rfl, _⟩ := mem_subsOf.1 hi
    rw [rd_wr_ne _ _ rfl (.inl (by decide))]
    exact h k hk
  dsimp only
  refine ⟨?_, fun k hk hx => ?_, ?_⟩
  · have hl := onlyRegs_foldl_subStop (b := b) hup
      (onlyRegs_refl _ ((subsOf d port).flatMap fun k => [(.portsubLinkState, k), (.portsubLinkLos, k)]))
      fun k hk => ⟨List.mem_flatMap.2 ⟨k, hk, by simp⟩, List.mem_flatMap.2 ⟨k, hk, by simp⟩⟩
    refine (hl.2 .portCtrlEnable port fun x hx hv => ?_).trans ?_
    · obtain ⟨k, _, hk⟩ := List.mem_flatMap.1 hx
      simp only [List.mem_cons, List.not_mem_nil, or_false] at hk
      rcases hk with rfl | rfl
      · exact absurd hv (show Fld.portsubLinkState ∉ votedWith .portCtrlEnable by decide)
      · exact absurd hv (show Fld.portsubLinkLos ∉ votedWith .portCtrlEnable by decide)
    · exact (rd_wr_self _ _ _ _ rfl).trans (bit_mod_two b)
  · have hm : 4 * port + k ∈ subsOf d port := mem_subsOf.2 ⟨k, hk, rfl, hx⟩
    rw [rd_state_foldl_subStop hup, rd_los_foldl_subStop hup, if_pos hm, if_pos hm]
    exact ⟨rfl, rfl⟩
  · refine onlyRegs_foldl_subStop hup (onlyRegs_wr (onlyRegs_refl d _) (.head _)) fun i hi => ?_
    obtain ⟨k, hk, rfl, _⟩ := mem_subsOf.1 hi
    exact ⟨.tail _ (List.mem_flatMap.2 ⟨k, List.mem_range.2 hk, by simp⟩), .tail _ (List.mem_flatMap.2 ⟨k, List.mem_range.2 hk, by simp⟩)⟩

end

/-! ### Signal (R370) -/

section
variable {s : State} {sub : Nat} (hr : subRuns s.dev sub = true)
include hr

theorem answers_subportLossOfSignal (hl : isSet s.dev .portsubLinkLos sub = false) :
    Answers (.subportLossOfSignal sub) s (linkDown (wr s.dev .portsubLinkLos sub 1) sub) :=
  answers_act (n := "SUBPORT_LOSS_OF_SIGNAL") rfl (by simp [hr, hl])

theorem answers_linkHoldExpiry (hl : isSet s.dev .portsubLinkLos sub = false) (h1 : rd s.dev .portsubLinkState sub = 1) :
    Answers (.linkHoldExpiry sub) s (portEvent (wr s.dev .portsubLinkState sub 2) sub 0xD1 2) :=
  answers_act (n := "LINK_HOLD_EXPIRY") rfl (by simp [hr, hl, h1])

theorem answers_subportSignalRestored (hl : isSet s.dev .portsubLinkLos sub = true) :
    Answers (.subportSignalRestored sub) s (wr (wr s.dev .portsubLinkLos sub 0) .portsubLinkState sub 1) :=
  answers_act (n := "SUBPORT_SIGNAL_RESTORED") rfl (by simp [hr, hl])

end

/-- LOS and the state of a link, written one after the other. -/
def linkShown (d : Dev) (sub los st : Nat) : Dev := wr (wr d .portsubLinkLos sub los) .portsubLinkState sub st

theorem linkShown_spec (d : Dev) (sub : Nat) {los st : Nat} (hl : los < 2) (hs : st < 4) :
    rd (linkShown d sub los st) .portsubLinkLos sub = los ∧ rd (linkShown d sub los st) .portsubLinkState sub = st ∧
    onlyRegs d (linkShown d sub los st) [(.portsubLinkLos, sub), (.portsubLinkState, sub)] := by
  refine ⟨?_, (rd_wr_self _ _ _ _ rfl).trans (Nat.mod_eq_of_lt hs), onlyRegs_wr (onlyRegs_wr (onlyRegs_refl d _) (by simp)) (by simp)⟩
  rw [linkShown, rd_wr_ne _ _ rfl (.inl (by decide))]
  exact (rd_wr_self _ _ _ _ rfl).trans (Nat.mod_eq_of_lt hl)

/-- Signal lost: the link is down, and one that was up is reported. -/
theorem linkDown_lost (d : Dev) (sub : Nat) :
    (rd d .portsubLinkState sub ≠ 2 → linkDown (wr d .portsubLinkLos sub 1) sub = linkShown d sub 1 0) ∧
    (rd d .portsubLinkState sub = 2 → linkDown (wr d .portsubLinkLos sub 1) sub =
      subDown (portEvent (portCount (linkShown d sub 1 0) sub 14 1) sub 0xD0 0) sub) := by
  have hst : rd (wr d .portsubLinkLos sub 1) .portsubLinkState sub = rd d .portsubLinkState sub := rd_wr_ne _ _ rfl (.inl (by decide))
  exact ⟨fun h => linkDown_of_not_up (hst ▸ h), fun h => linkDown_of_up (hst.trans h)⟩

end Sys2Proof.Machine
end

section
/-!
Received frames (R369, R372, R377).
-/
namespace Sys2Proof.Machine

/-! ### Counters of a sub-port (R373, R374) -/

section
variable (d : Dev) (sub : Nat) {g : Fld} (i : Nat) (hg : g ∉ [Fld.portCounter, .portsubCntHalf])
include hg

/-- Counting changes the counters and CNT_HALF alone among the registers. -/
theorem rd_portCount (k n : Nat) : rd (portCount d sub k n) g i = rd d g i := by
  simp only [List.mem_cons, List.not_mem_nil, or_false, not_or] at hg
  obtain ⟨hc, hh⟩ := hg
  unfold portCount
  dsimp only
  split
  next => exact rd_wr_plain_ne _ _ _ _ rfl hc
  next =>
    split
    next => exact (rd_postEq ..).trans ((rd_wr_plain_ne _ _ _ _ rfl hh).trans (rd_wr_plain_ne _ _ _ _ rfl hc))
    next => exact (rd_wr_plain_ne _ _ _ _ rfl hh).trans (rd_wr_plain_ne _ _ _ _ rfl hc)

theorem rd_fecCount (f : Frame) : rd (fecCount d sub f) g i = rd d g i := by
  have hcount : rd (portCount (portCount (portCount d sub 11 f.fecCorrected) sub 12 f.fecUncorrectable) sub 13 f.fecSymbols) g i = rd d g i := by
    rw [rd_portCount _ _ _ hg, rd_portCount _ _ _ hg, rd_portCount _ _ _ hg]
  unfold fecCount
  dsimp only
  split
  next => exact (rd_postEq ..).trans ((rd_onPort ..).trans hcount)
  next => exact (rd_onPort ..).trans hcount

end

/-! ### A frame of a good length -/

/-- Codewords, the frame and its bytes counted. -/
def frameCounted (d : Dev) (sub : Nat) (f : Frame) : Dev := portCount (portCount (fecCount d sub f) sub 2 1) sub 3 f.length

section
variable (d : Dev) (sub : Nat) (f : Frame)

theorem rd_frameCounted {g : Fld} (i : Nat) (hg : g ∉ [Fld.portCounter, .portsubCntHalf]) : rd (frameCounted d sub f) g i = rd d g i := by
  rw [frameCounted, rd_portCount _ _ _ hg, rd_portCount _ _ _ hg, rd_fecCount _ _ _ hg]

theorem macTaken_frameCounted (mac : Nat) : macTaken (frameCounted d sub f) sub mac = macTaken d sub mac := by
  rw [macTaken, rd_frameCounted _ _ _ _ (by decide), macTaken]

theorem vidTaken_frameCounted : vidTaken (frameCounted d sub f) sub f = vidTaken d sub f := by
  simp only [vidTaken, rd_frameCounted d sub f (g := .portsubVlanVid) _ (by decide)]

theorem isLocalIp_frameCounted (ip : Nat) : isLocalIp (frameCounted d sub f) ip = isLocalIp d ip := by
  simp only [isLocalIp, localIp, isSet, rd_frameCounted d sub f (g := .transportLocalIpValid) _ (by decide),
    rd_frameCounted d sub f (g := .transportLocalIpAddr) _ (by decide)]

theorem clahimOf_frameCounted : clahimOf (frameCounted d sub f) f = clahimOf d f := by
  unfold clahimOf
  cases f.body with
  | raw bs => rfl
  | clahim p => dsimp only; rw [rd_frameCounted _ _ _ _ (by decide), isLocalIp_frameCounted]

end

/-! ### What a frame meets (R372) -/

section
variable {d : Dev} {sub : Nat} {f : Frame}

/-- A frame waits for the raw ring with its timestamp. -/
def frameQueued (d : Dev) (sub : Nat) (f : Frame) : Dev :=
  portCount (onTr (stamp d sub 16).2 fun t => { t with rawRx := t.rawRx ++ [(sub, (stamp d sub 16).1, f)] }) sub 8 1

theorem frameEffect_down (hu : subUp d sub = false) : frameEffect d sub f = d := if_pos (by simp [hu])

variable (hu : subUp d sub = true)
include hu

theorem frameEffect_damaged (h : f.fcsOk = false ∨ f.fecUncorrectable ≠ 0) :
    frameEffect d sub f = portCount (fecCount d sub f) sub 4 1 := by
  unfold frameEffect
  rw [if_neg (by simp [hu])]
  exact if_pos (by simpa using h)

variable (hok : f.fcsOk = true) (hfec : f.fecUncorrectable = 0)
include hok hfec

theorem frameEffect_whole : frameEffect d sub f =
    if f.length < 64 then portCount (fecCount d sub f) sub 6 1
    else if f.length > 9216 then portCount (fecCount d sub f) sub 5 1
    else if (!macTaken d sub f.dstMac || !vidTaken d sub f || isPause f) = true then portCount (frameCounted d sub f) sub 7 1
    else (clahimOf d f).elim
      (if isSet d .portsubRawCfgRxEn sub = true then frameQueued (frameCounted d sub f) sub f else portCount (frameCounted d sub f) sub 7 1)
      (toTransport (frameCounted d sub f) sub f) := by
  have hen : isSet (frameCounted d sub f) .portsubRawCfgRxEn sub = isSet d .portsubRawCfgRxEn sub := by
    rw [isSet, rd_frameCounted _ _ _ _ (by decide), isSet]
  unfold frameEffect
  rw [if_neg (by simp [hu])]
  dsimp only
  rw [if_neg (by simp [hok, hfec]), ← frameCounted, macTaken_frameCounted, vidTaken_frameCounted, clahimOf_frameCounted, hen]
  cases clahimOf d f with
  | some p => rfl
  | none =>
    cases isSet d .portsubRawCfgRxEn sub with
    | false => rfl
    | true => rfl

theorem frameEffect_short (h : f.length < 64) : frameEffect d sub f = portCount (fecCount d sub f) sub 6 1 := by
  rw [frameEffect_whole hu hok hfec, if_pos h]

theorem frameEffect_long (h : 9216 < f.length) : frameEffect d sub f = portCount (fecCount d sub f) sub 5 1 := by
  rw [frameEffect_whole hu hok hfec, if_neg (by omega), if_pos h]

variable (hlo : 64 ≤ f.length) (hhi : f.length ≤ 9216)
include hlo hhi

theorem frameEffect_foreign (h : macTaken d sub f.dstMac = false ∨ vidTaken d sub f = false ∨ isPause f = true) :
    frameEffect d sub f = portCount (frameCounted d sub f) sub 7 1 := by
  rw [frameEffect_whole hu hok hfec, if_neg (by omega), if_neg (by omega), if_pos (by simpa [or_assoc] using h)]

variable (hm : macTaken d sub f.dstMac = true) (hv : vidTaken d sub f = true) (hp : isPause f = false)
include hm hv hp

theorem frameEffect_clahim {p : Packet} (h : clahimOf d f = some p) : frameEffect d sub f = toTransport (frameCounted d sub f) sub f p := by
  rw [frameEffect_whole hu hok hfec, if_neg (by omega), if_neg (by omega), if_neg (by simp [hm, hv, hp]), h, Option.elim_some]

theorem frameEffect_unclaimed (h : clahimOf d f = none) (he : isSet d .portsubRawCfgRxEn sub = false) :
    frameEffect d sub f = portCount (frameCounted d sub f) sub 7 1 := by
  rw [frameEffect_whole hu hok hfec, if_neg (by omega), if_neg (by omega), if_neg (by simp [hm, hv, hp]), h]
  exact if_neg (by simp [he])

theorem frameEffect_raw (h : clahimOf d f = none) (he : isSet d .portsubRawCfgRxEn sub = true) :
    frameEffect d sub f = frameQueued (frameCounted d sub f) sub f := by
  rw [frameEffect_whole hu hok hfec, if_neg (by omega), if_neg (by omega), if_neg (by simp [hm, hv, hp]), h]
  exact if_pos he

end

end Sys2Proof.Machine
end

section
/-!
Raw rings (R382 to R388), and O48.
-/
namespace Sys2Proof.Machine

/-! ### Doorbells (R382) -/

theorem cut_rawDb {tx sub i : Nat} (ht : tx < 2) (hs : sub < 32) (hi : i < 2 ^ 32) :
    cut (tx * 2 ^ 37 + sub * 2 ^ 32 + i) 32 5 = sub ∧ cut (tx * 2 ^ 37 + sub * 2 ^ 32 + i) 0 32 = i ∧
    cut (tx * 2 ^ 37 + sub * 2 ^ 32 + i) 37 1 = tx ∧ (tx * 2 ^ 37 + sub * 2 ^ 32 + i) >>> 38 = 0 := by
  simp only [cut, Nat.shiftRight_eq_div_pow]
  omega

/-- The window's register holds the doorbell. -/
def rawDbHeld (d : Dev) (sub i tx : Nat) : Dev := wr (wr (wr d .pwinRawDbIndex 0 i) .pwinRawDbSubport 0 sub) .pwinRawDbRing 0 tx

/-- The transmit ring's hint holds the doorbell's index. -/
def txHinted (d : Dev) (sub i : Nat) : Dev := onPort d fun p => { p with txHint := putD p.txHint sub i 0 }

section
variable (d : Dev) {sub i tx : Nat} (ht : tx < 2) (hs : sub < 32) (hi : i < 2 ^ 32)
include ht hs hi

theorem rawDbHeld_holds : rd (rawDbHeld d sub i tx) .pwinRawDbIndex 0 = i ∧ rd (rawDbHeld d sub i tx) .pwinRawDbSubport 0 = sub ∧
    rd (rawDbHeld d sub i tx) .pwinRawDbRing 0 = tx := by
  refine ⟨?_, ?_, (rd_wr_self _ _ _ _ rfl).trans (Nat.mod_eq_of_lt ht)⟩
  · rw [rawDbHeld, rd_wr_ne _ _ rfl (.inl (by decide)), rd_wr_ne _ _ rfl (.inl (by decide))]
    exact (rd_wr_self _ _ _ _ rfl).trans (Nat.mod_eq_of_lt hi)
  · rw [rawDbHeld, rd_wr_ne _ _ rfl (.inl (by decide))]
    exact (rd_wr_self _ _ _ _ rfl).trans (Nat.mod_eq_of_lt hs)

end

theorem onlyPort_rawDbHeld (d : Dev) (sub i tx : Nat) :
    onlyPort d (rawDbHeld d sub i tx) [(.pwinRawDbIndex, 0), (.pwinRawDbSubport, 0), (.pwinRawDbRing, 0)] :=
  onlyPort_wr (onlyPort_wr (onlyPort_wr (onlyPort_refl d _) (by simp)) (by simp)) (by simp)

theorem rd_rawDbHeld (d : Dev) (sub i tx : Nat) {f : Fld} (j : Nat)
    (hf : f ∉ [Fld.pwinRawDbIndex, .pwinRawDbSubport, .pwinRawDbRing]) : rd (rawDbHeld d sub i tx) f j = rd d f j := by
  simp only [List.mem_cons, List.not_mem_nil, or_false, not_or] at hf
  obtain ⟨hx, hs, hr⟩ := hf
  rw [rawDbHeld, rd_wr_plain_ne _ _ _ _ rfl hr, rd_wr_plain_ne _ _ _ _ rfl hs, rd_wr_plain_ne _ _ _ _ rfl hx]

section
variable (d : Dev) {win width val sub i : Nat}

theorem rawDbEffect_elsewhere (h : win ≠ 0) : rawDbEffect d win width val = wake d .laurel := if_pos h

theorem rawDbEffect_malformed (h : width ≠ 8 ∨ 2 ^ 38 ≤ val) : rawDbEffect d 0 width val = doorbellDropped d 0 :=
  if_pos (dbRefused_malformed true h)

/-- A doorbell of either ring is held before it has its effect. -/
theorem rawDbEffect_held {tx : Nat} (ht : tx < 2) (hs : sub < 32) (hi : i < 2 ^ 32) (hb : bitOf (tx * 2 ^ 37 + sub * 2 ^ 32 + i) 37 = (tx == 1)) :
    rawDbEffect d 0 8 (tx * 2 ^ 37 + sub * 2 ^ 32 + i) =
      if (tx == 1) = true then rawGo (txHinted (rawDbHeld (wake d .laurel) sub i tx) sub i) sub 64
      else if inRun d ∧ isSet d .portsubRawCfgRxEn sub then prefetch sub 17 (rawDbHeld (wake d .laurel) sub i tx)
      else rawDbHeld (wake d .laurel) sub i tx := by
  obtain ⟨hcs, hci, hct, htop⟩ := cut_rawDb ht hs hi
  have hrd : ∀ {f : Fld} (j : Nat), f ∉ [Fld.pwinRawDbIndex, .pwinRawDbSubport, .pwinRawDbRing] →
      rd (rawDbHeld (wake d .laurel) sub i tx) f j = rd d f j := fun j hf => (rd_rawDbHeld _ _ _ _ j hf).trans (rd_wake ..)
  have hen : (inRun (rawDbHeld (wake d .laurel) sub i tx) && isSet (rawDbHeld (wake d .laurel) sub i tx) .portsubRawCfgRxEn sub) =
      (inRun d && isSet d .portsubRawCfgRxEn sub) := by
    simp only [inRun, isSet, hrd (f := .bootStatusStage) _ (by decide), hrd (f := .safetyStatusHalted) _ (by decide),
      hrd (f := .portsubRawCfgRxEn) _ (by decide)]
  have hok : dbRefused 8 (tx * 2 ^ 37 + sub * 2 ^ 32 + i) 38 true = false := by rw [dbRefused, htop]; rfl
  unfold rawDbEffect
  dsimp only
  rw [if_neg (by simp), if_neg (Bool.eq_false_iff.1 hok), hcs, hci, hct, hb, ← rawDbHeld, hen]
  simp only [Bool.and_eq_true]
  rfl

theorem answers_rawDb {s : State} {c : Instr} {tx : Nat} (hw : win < 64) (ht : takesDriver s.dev)
    (hc : (c, tx) = (.rawRxDoorbell win width val, 0) ∨ (c, tx) = (.rawTxDoorbell win width val, 1)) (hb : bitOf val 37 = (tx == 1)) :
    tx < 2 ∧ Answers c s (rawDbEffect s.dev win width val) := by
  simp only [Prod.mk.injEq] at hc
  rcases hc with ⟨rfl, rfl⟩ | ⟨rfl, rfl⟩
  · exact ⟨by decide, answers_drv (n := "RAW_RX_DOORBELL") rfl (by simp [hw, hb]) ht⟩
  · exact ⟨by decide, answers_drv (n := "RAW_TX_DOORBELL") rfl (by simp [hw, hb]) ht⟩

/-- A doorbell in partition 0's window: what it holds, and which ring it moves. -/
theorem rawDbEffect_spec {tx : Nat} (ht : tx < 2) (hs : sub < 32) (hi : i < 2 ^ 32)
    (hb : bitOf (tx * 2 ^ 37 + sub * 2 ^ 32 + i) 37 = (tx == 1)) :
    ∃ g, rd g .pwinRawDbIndex 0 = i ∧ rd g .pwinRawDbSubport 0 = sub ∧ rd g .pwinRawDbRing 0 = tx ∧
      onlyPort (wake d .laurel) g [(.pwinRawDbIndex, 0), (.pwinRawDbSubport, 0), (.pwinRawDbRing, 0)] ∧
      (tx = 1 → rawDbEffect d 0 8 (tx * 2 ^ 37 + sub * 2 ^ 32 + i) = rawGo g sub 64 ∧ getD g.port.txHint sub 0 = i) ∧
      (tx = 0 → g.port = d.port ∧ rawDbEffect d 0 8 (tx * 2 ^ 37 + sub * 2 ^ 32 + i) =
        if inRun d ∧ isSet d .portsubRawCfgRxEn sub then prefetch sub 17 g else g) := by
  obtain ⟨hx, hsub, hring⟩ := rawDbHeld_holds (wake d .laurel) ht hs hi
  have hl := onlyPort_rawDbHeld (wake d .laurel) sub i tx
  rw [rawDbEffect_held d ht hs hi hb]
  by_cases h1 : tx = 1
  · refine ⟨txHinted (rawDbHeld (wake d .laurel) sub i tx) sub i, hx, hsub, hring, onlyPort_onPort hl _,
      fun _ => ⟨if_pos (by simp [h1]), getD_putD_self _ _ _ _⟩, fun h0 => by omega⟩
  · refine ⟨rawDbHeld (wake d .laurel) sub i tx, hx, hsub, hring, hl, fun h => absurd h h1, fun _ => ⟨?_, if_neg (by simp [h1])⟩⟩
    rw [rawDbHeld, wr_port, wr_port, wr_port, wake_eq]

end

/-! ### Transmitting (R384) -/

section
variable {d : Dev} {sub i : Nat} {x : Desc}

/-- The descriptor at the front has left the fetched ones. -/
def rawTxPopped (d : Dev) (sub : Nat) : Dev :=
  onPort d fun p => { p with rawTx := putD p.rawTx sub ((getD p.rawTx sub []).drop 1) [] }

theorem rawTransmitEffect_broken (h : rawBad x = true) : rawTransmitEffect d sub i x = rawFails (rawTxPopped d sub) sub i x 0xD6 := if_pos h

variable (h : rawBad x = false)
include h

theorem rawTransmitEffect_down (hu : subUp d sub = false) : rawTransmitEffect d sub i x = rawFails (rawTxPopped d sub) sub i x 0xD0 := by
  unfold rawTransmitEffect
  dsimp only
  rw [if_neg (by simp [h])]
  exact if_pos (by simp [hu])

/-- The packet a raw descriptor sends: its frame with the FCS. -/
def rawPkt (sub i : Nat) (x : Desc) (bs : List Byte) : TxPkt := {
  sub := sub, cls := fieldAt x 1 0 3, part := 0, qpn := 0, len := fieldAt x 0x10 0 16 + 4, path := 64,
  body := .raw i (fieldAt x 4 0 32) bs (fieldAt x 0 6 1 == 1) (fieldAt x 0 5 1 == 1) }

variable (hu : subUp d sub = true)
include hu

/-- What follows from how the frame was read. -/
theorem rawTransmitEffect_read {g : Dev} {r : ARes} (hr : dvaRead d (rawAgent sub) 0 (fieldAt x 8 0 64) (fieldAt x 0x10 0 16) true = (g, r)) :
    (r = .wait → rawTransmitEffect d sub i x = g) ∧
    (∀ c, r = .mfail c → rawTransmitEffect d sub i x = rawFails (rawTxPopped g sub) sub i x c) ∧
    (∀ a c l f, r = .xfail a c l f → rawTransmitEffect d sub i x = rawStop (rawFails (rawTxPopped g sub) sub i x 0xD5) sub) ∧
    (∀ bs, r = .ok bs → rawTransmitEffect d sub i x =
      onTop (rawTxPopped g sub) fun t => { t with queue := t.queue ++ [rawPkt sub i x bs] }) := by
  unfold rawTransmitEffect
  dsimp only
  rw [if_neg (by simp [h]), if_neg (by simp [hu]), hr]
  refine ⟨?_, ?_, ?_, ?_⟩
  · rintro rfl
    rfl
  · rintro c rfl
    rfl
  · rintro a c l f rfl
    rfl
  · rintro bs rfl
    rfl

end

theorem answers_rawTransmit {s : State} {sub i : Nat} {x : Desc} (h : rawFront s.dev sub = some (i, x)) :
    Answers (.rawTransmit sub) s (rawTransmitEffect s.dev sub i x) := by
  have hx : execRawTransmit sub s = act s "RAW_TRANSMIT" true (rawTransmitEffect s.dev sub i x) := by simp [execRawTransmit, h]
  exact answers_act hx rfl

/-! ### Receiving (R385 to R388) -/

section
variable {d g : Dev} {sub ts : Nat} {f : Frame}

/-- The received frame no longer waits. -/
def rawRxPopped (d : Dev) (sub ts : Nat) (f : Frame) : Dev := onTr d fun t => { t with rawRx := t.rawRx.erase (sub, ts, f) }

/-- The completion of a frame whose bytes lie in `n` buffers from `a` on. -/
def rawPlaced (d : Dev) (sub ts : Nat) (f : Frame) (a n b : Nat) (short : Bool) : Dev :=
  postCq d (rd d .portsubRawCfgCq sub) (rawEntry sub a n (f.length - 4) b ts short f.tag.isSome) (.raw sub)

/-- What follows from how the buffers were filled. -/
theorem rawReceiveEffect_filled {r : PlaceRes} (h : fillBufs sub 64 (frameBytes d f).2 0 0 0 (frameBytes d f).1 = (g, r)) :
    (r = .wait → rawReceiveEffect d sub ts f =
      wr (onXl d fun x => { x with lookups := g.xl.lookups }) .xlateInvalStalls 0 (rd g .xlateInvalStalls)) ∧
    (r = .bad → rawReceiveEffect d sub ts f = portCount (rawStop (rawRxPopped g sub ts f) sub) sub 9 1) ∧
    (∀ a b short, r = .done a 0 b short → rawReceiveEffect d sub ts f = portCount (rawRxPopped g sub ts f) sub 9 1) ∧
    (∀ a n b short, r = .done a (n + 1) b short → rawReceiveEffect d sub ts f =
      rawPlaced (if short then portCount (rawRxPopped g sub ts f) sub 10 1 else rawRxPopped g sub ts f) sub ts f a (n + 1) b short) := by
  unfold rawReceiveEffect
  dsimp only
  rw [h]
  refine ⟨?_, ?_, ?_, ?_⟩
  · rintro rfl
    rfl
  · rintro rfl
    rfl
  · rintro a b short rfl
    rfl
  · rintro a n b short rfl
    rfl

end

theorem answers_rawFrameReceive {s : State} {sub ts : Nat} {f : Frame} (h : rawRxFront s.dev sub = some (ts, f)) :
    Answers (.rawFrameReceive sub) s (rawReceiveEffect s.dev sub ts f) := by
  have hx : execRawFrameReceive sub s = act s "RAW_FRAME_RECEIVE" true (rawReceiveEffect s.dev sub ts f) := by simp [execRawFrameReceive, h]
  exact answers_act hx rfl

/-! ### The obligation -/

/-- Settles O48: ports by their sub-ports' links, frames by the checks in their order, raw rings by what memory answers. -/
theorem portsAndFrames : Obligations.PortsAndFrames := by
  refine ⟨fun s port val hp ht => ?_, fun s sub hr hl => ⟨?_, fun h1 => ?_⟩, fun s sub hr hl => ?_, fun s sub f hs => ?_,
    fun s win width val sub i c tx hw hs hi ht hc hb => ?_, fun s sub i x hf => ?_, fun s sub ts f hf => ?_⟩
  · exact ⟨_, answers_drv (n := "PORT_ENABLE") rfl (decide_eq_true hp) ht, portEnableEffect_left, fun h =>
      ⟨portEnableEffect_taken h, fun hup => portEnableEffect_taken h ▸ portStopped_spec hup⟩⟩
  · obtain ⟨hlos, hst, hregs⟩ := linkShown_spec s.dev sub (los := 1) (st := 0) (by decide) (by decide)
    obtain ⟨hdown, hup⟩ := linkDown_lost s.dev sub
    exact ⟨_, linkShown s.dev sub 1 0, answers_subportLossOfSignal hr hl, hlos, hst, hregs, hdown, hup⟩
  · refine ⟨_, answers_linkHoldExpiry hr hl h1, (rd_postEq ..).trans (rd_wr_self _ _ _ _ rfl),
      keepsRegs_of_rd (keepsRegs_wr (keepsRegs_refl _ _) (.head _)) fun f i => rd_postEq _ _ _ f i, ?_⟩
    rw [portEvent, postEq_entries, List.length_append, wr_hl]
    rfl
  · obtain ⟨hlos, hst, hregs⟩ := linkShown_spec s.dev sub (los := 0) (st := 1) (by decide) (by decide)
    exact ⟨_, answers_subportSignalRestored hr hl, hlos, hst, hregs⟩
  · exact ⟨_, answers_cmd (n := "ETHERNET_FRAME_RECEIVE") rfl (decide_eq_true hs), frameEffect_down, fun hu =>
      ⟨frameEffect_damaged hu, fun hok hfec => ⟨frameEffect_short hu hok hfec, frameEffect_long hu hok hfec, fun hlo hhi =>
        ⟨frameEffect_foreign hu hok hfec hlo hhi, fun hm hv hp =>
          ⟨fun p => frameEffect_clahim hu hok hfec hlo hhi hm hv hp, frameEffect_unclaimed hu hok hfec hlo hhi hm hv hp,
            frameEffect_raw hu hok hfec hlo hhi hm hv hp⟩⟩⟩⟩⟩
  · obtain ⟨htx, ha⟩ := answers_rawDb hw ht hc hb
    refine ⟨_, ha, rawDbEffect_elsewhere s.dev, fun h0 hbad => ?_, fun h0 h8 hval => ?_⟩
    · rw [h0, rawDbEffect_malformed s.dev hbad]
      exact doorbellDropped_spec s.dev 0
    · rw [h0, h8, hval]
      exact rawDbEffect_spec s.dev htx hs hi (hval ▸ hb)
  · refine ⟨_, answers_rawTransmit hf, rawTransmitEffect_broken, rawTransmitEffect_down, fun h hu d r hr => ?_⟩
    obtain ⟨hwait, hmem, hxl, hok⟩ := rawTransmitEffect_read (i := i) h hu hr
    exact ⟨hwait, hmem, hxl, fun bs hbs => ⟨rawPkt sub i x bs, rfl, rfl, rfl, rfl, hok bs hbs⟩⟩
  · refine ⟨_, answers_rawFrameReceive hf, fun d r hfill => ?_⟩
    obtain ⟨hwait, hbad, hnone, hdone⟩ := rawReceiveEffect_filled (ts := ts) hfill
    refine ⟨fun hr => ?_, hbad, hnone, hdone⟩
    rw [hwait hr]
    exact onlyRegs_wr (onlyRegs_refl _ _) (.head _)

end Sys2Proof.Machine
end

section
/-!
What an answer leaves of the queue of commands and of the fuses, and O1, O3, O4, O5 and O6.
-/
namespace Sys2Proof.Machine

/-! ### Answers -/

/-- An outcome whose state, if there is one, has the queue and the fuses of `s`. -/
def KeepsRest (s : State) : Host.Outcome State Fault Refusal → Prop
  | .next t => t.pending = s.pending ∧ t.perm = s.perm
  | .fault _ => True
  | .refused _ => True

section
variable (s : State) (n : String) (b x : Bool) (e : Dev)

theorem keepsRest_next : KeepsRest s (.next { s with dev := e }) := ⟨rfl, rfl⟩

theorem keepsRest_act : KeepsRest s (act s n b e) := by
  cases b
  · trivial
  · exact keepsRest_next ..

theorem keepsRest_cmd : KeepsRest s (cmd s n b e) := by
  cases b
  · trivial
  · exact keepsRest_next ..

theorem keepsRest_drv : KeepsRest s (drv s n b e) := keepsRest_cmd ..

theorem keepsRest_evt : KeepsRest s (evt s n x b e) := by
  cases x
  · trivial
  · exact keepsRest_act ..

end

/-- Every command but VERIFY, RAILS and BROWNOUT answers in one of the four forms of an answer. -/
theorem keepsRest_exec {c : Instr} (s : State) (hv : ∀ b, c ≠ .verify b) (hr : c ≠ .rails) (hb : c ≠ .brownout) :
    KeepsRest s (exec c s) := by
  cases c with
  | verify b => exact absurd rfl (hv b)
  | rails => exact absurd rfl hr
  | brownout => exact absurd rfl hb
  | limitWrite target =>
    cases target with
    | sustained => exact keepsRest_next ..
    | sealFloor => exact keepsRest_drv ..
  | linkDirectionRebalance | dieLinkCrcFail | dieLinkLockLoss => exact keepsRest_evt ..
  | flashRead | flashProgram | flashEraseSector | flashEraseAll | managementReset | bypass | idcode | samplePreload | extest
  | cmdqDisable | hlDetach | writeContext | readContext | ready | drain | qpError | qpReset | timeSet | timeStep | timeAdjust
  | tableInval | commit => exact keepsRest_next ..
  | registerWrite | activeSetAdjust | utilisationSample | moduleLinkUp | moduleLinkDown | configRequest | apertureRead | apertureWrite
  | apertureFetchadd | apertureSwap | apertureCas | hotReset | functionLevelReset | flitHeaderError | ethernetFrameReceive | timeNowRead
  | physicalAttackAlarm | coldReset | warmReset | tileRetire | compatPostedWrite | i3cRead | i3cWrite => exact keepsRest_cmd ..
  | ringEnable | ringDisable | ringRestart | ringDoorbell | cmpRegionEnable | cmpRegionDisable | cmdqEnable | cmdqDoorbell | cqDoorbell
  | cqArm | eqDoorbell | eqArm | cqEnable | cqDisable | eqEnable | eqDisable | hlHeartbeat | hlRejoin | nodeMapInval | sqDoorbell
  | rqDoorbell | pathsetInval | portEnable | gateChange | gateCancel | rawRxDoorbell | rawTxDoorbell | groupLoad | groupUnload
  | collDoorbell | loadClear | loadWrapped | erase | saveClear | saveWrapped | attestGo | tileAssign | tileRelease | freeze | save
  | restore | thaw | sealPartition | unsealPartition | ltrWrite => exact keepsRest_drv ..
  | _ => exact keepsRest_act ..

/-! ### What a step may do to the fuses (R465, R467) -/

/-- The fuses a step may leave behind: as they were, with the slot marked that a cold start-up will write, or with changes in progress made. -/
inductive FuseStep (pm : Perm) (d : Dev) : Perm → Prop
  | kept : FuseStep pm d pm
  | marked : FuseStep pm d (markUsed pm (fuseWrites pm d))
  | written (f : FuseWrite) (n : Nat) (h : d.boot.fuse = some f) : FuseStep pm d (fusesAfter pm f n)

section
variable {s t : State}

theorem exec_verify_next {b : Bool} (h : exec (.verify b) s = .next t) : t.pending = s.pending ∧ FuseStep s.perm s.dev t.perm := by
  change execVerify b s = _ at h
  unfold execVerify verified at h
  split at h
  · dsimp only at h
    split at h
    · cases h
      exact ⟨rfl, .kept⟩
    · cases h
      dsimp only
      refine ⟨rfl, ?_⟩
      split
      · split
        · exact .kept
        · exact .kept
      · exact .marked
  · cases h

theorem exec_rails_next (h : exec .rails s = .next t) : t.pending = s.pending ∧ FuseStep s.perm s.dev t.perm := by
  change execRails s = _ at h
  unfold execRails fusesDone at h
  split at h
  · cases h
    refine ⟨rfl, ?_⟩
    dsimp only
    split
    · exact .kept
    · exact .written _ _ ‹_›
  · cases h

theorem exec_brownout_next (h : exec .brownout s = .next t) : t.pending = s.pending ∧ FuseStep s.perm s.dev t.perm := by
  change execBrownout s = _ at h
  unfold execBrownout fusesCut at h
  split at h
  · cases h
    refine ⟨rfl, ?_⟩
    dsimp only
    split
    · exact .kept
    · exact .written _ _ ‹_›
  · cases h

theorem exec_next_kept {c : Instr} (hv : ∀ b, c ≠ .verify b) (hr : c ≠ .rails) (hb : c ≠ .brownout) (h : exec c s = .next t) :
    t.pending = s.pending ∧ t.perm = s.perm := by
  have hk := keepsRest_exec s hv hr hb
  rw [h] at hk
  exact hk

theorem exec_next {c : Instr} (h : exec c s = .next t) : t.pending = s.pending ∧ FuseStep s.perm s.dev t.perm := by
  by_cases hr : c = .rails
  · exact exec_rails_next (hr ▸ h)
  by_cases hb : c = .brownout
  · exact exec_brownout_next (hb ▸ h)
  by_cases hv : ∃ b, c = .verify b
  · obtain ⟨b, rfl⟩ := hv
    exact exec_verify_next h
  obtain ⟨hq, hp⟩ := exec_next_kept (fun b e => hv ⟨b, e⟩) hr hb h
  exact ⟨hq, hp ▸ .kept⟩

theorem step_next (h : step s = .next t) : FuseStep s.perm s.dev t.perm := by
  unfold step at h
  split at h
  · cases h
    exact .kept
  · exact (exec_next h).2

end

/-! ### Changes of the fuses -/

theorem unusedOwner_spec {pm : Perm} {k : Nat} (h : unusedOwner pm = some k) : ∃ o, pm.owners[k]? = some o ∧ o.used = false := by
  have hk := List.find?_some h
  cases ho : pm.owners[k]? with
  | none => simp [ho] at hk
  | some o => exact ⟨o, rfl, by simpa [ho] using hk⟩

/-- The slot a cold start-up begins to write is the first unused one. -/
theorem fuseWrites_enrol {pm : Perm} {d : Dev} {k dig : Nat} (h : (fuseWrites pm d).bind (·.enrol) = some (k, dig)) : unusedOwner pm = some k := by
  obtain ⟨f, hf, he⟩ := Option.bind_eq_some_iff.1 h
  unfold fuseWrites at hf
  dsimp only at hf
  generalize hx : (if imgFlag d 0 then (unusedOwner pm).map fun k => (k, sha384 (flashBytes d 0x80 96)) else none) = x at hf
  generalize (if imgFlag d 1 then some (imgSvn d) else none) = v at hf
  split at hf
  · cases hf
  · cases hf
    obtain rfl : x = some (k, dig) := he
    split at hx
    · obtain ⟨j, hj, heq⟩ := Option.map_eq_some_iff.1 hx
      cases heq
      exact hj
    · cases hx

/-- A slot marked used. -/
def slotUsed (o : OwnerSlot) : OwnerSlot := { o with used := true }

theorem markUsed_cases (pm : Perm) (f : Option FuseWrite) : markUsed pm f = pm ∨
    ∃ k dig, f.bind (·.enrol) = some (k, dig) ∧ markUsed pm f = { pm with owners := pm.owners.modify k slotUsed } := by
  unfold markUsed
  split
  · exact .inr ⟨_, _, ‹_›, rfl⟩
  · exact .inl rfl

/-- The slot of an enrolment. -/
def enrolled (dig : Nat) : OwnerSlot := { digest := dig, valid := true, used := true }

theorem fusesAfter_cases (pm : Perm) (f : FuseWrite) (n : Nat) : ∃ v, pm.svnMin ≤ v ∧ (fusesAfter pm f n = { pm with svnMin := v } ∨
    ∃ k dig, f.enrol = some (k, dig) ∧ fusesAfter pm f n = { pm with owners := pm.owners.set k (enrolled dig), svnMin := v }) := by
  have hv : ∀ pm' : Perm, ∃ v, pm'.svnMin ≤ v ∧ (match f.svn with
      | some v => if n ≥ 2 then { pm' with svnMin := max pm'.svnMin v } else pm'
      | none => pm') = { pm' with svnMin := v } := fun pm' => by
    split
    · split
      · exact ⟨_, le_max_left _ _, rfl⟩
      · exact ⟨_, le_rfl, rfl⟩
    · exact ⟨_, le_rfl, rfl⟩
  unfold fusesAfter
  dsimp only
  cases he : f.enrol with
  | none =>
    obtain ⟨v, hle, heq⟩ := hv pm
    exact ⟨v, hle, .inl heq⟩
  | some e =>
    obtain ⟨k, dig⟩ := e
    by_cases hn : n ≥ 1
    · obtain ⟨v, hle, heq⟩ := hv { pm with owners := pm.owners.set k (enrolled dig) }
      refine ⟨v, hle, .inr ⟨k, dig, rfl, ?_⟩⟩
      dsimp only
      rw [if_pos hn]
      exact heq
    · obtain ⟨v, hle, heq⟩ := hv pm
      refine ⟨v, hle, .inl ?_⟩
      dsimp only
      rw [if_neg hn]
      exact heq

/-! ### Well-formed fuses -/

theorem fusesOk_owners {pm : Perm} (h : fusesOk pm) {l : List OwnerSlot} {v : Nat} (hl : l.length = pm.owners.length)
    (ho : ∀ o ∈ l, o ∈ pm.owners ∨ o.used = true) : fusesOk { pm with owners := l, svnMin := v } := by
  obtain ⟨hlen, hval, hsp⟩ := h
  exact ⟨hl.trans hlen, fun o hm hv => (ho o hm).elim (fun hin => hval o hin hv) id, hsp⟩

theorem used_of_mem_modify {l : List OwnerSlot} {k : Nat} {o : OwnerSlot} (h : o ∈ l.modify k slotUsed) : o ∈ l ∨ o.used = true := by
  obtain ⟨i, hi⟩ := List.mem_iff_getElem?.1 h
  rw [List.getElem?_modify] at hi
  split at hi
  · obtain ⟨x, hx, rfl⟩ := Option.map_eq_some_iff.1 hi
    exact .inr rfl
  · exact .inl (List.mem_of_getElem? (by simpa using hi))

theorem used_of_mem_set {l : List OwnerSlot} {k dig : Nat} {o : OwnerSlot} (h : o ∈ l.set k (enrolled dig)) : o ∈ l ∨ o.used = true := by
  rcases List.mem_or_eq_of_mem_set h with h | rfl
  · exact .inl h
  · exact .inr rfl

theorem FuseStep.fusesOk {pm pm' : Perm} {d : Dev} (h : FuseStep pm d pm') (hok : fusesOk pm) : fusesOk pm' := by
  cases h with
  | kept => exact hok
  | marked =>
    rcases markUsed_cases pm (fuseWrites pm d) with h | ⟨k, dig, -, h⟩
    · rwa [h]
    · rw [h]
      exact fusesOk_owners hok (List.length_modify ..) fun o => used_of_mem_modify
  | written f n =>
    obtain ⟨v, -, h | ⟨k, dig, -, h⟩⟩ := fusesAfter_cases pm f n
    · rw [h]
      exact fusesOk_owners hok rfl fun o ho => .inl ho
    · rw [h]
      exact fusesOk_owners hok List.length_set fun o => used_of_mem_set

/-! ### Growing fuses -/

section
variable {s t : State}

theorem fusesGrow_owners {l : List OwnerSlot} {v : Nat} (hp : t.perm = { s.perm with owners := l, svnMin := v }) (hv : s.perm.svnMin ≤ v)
    (ho : ∀ k o, s.perm.owners[k]? = some o → ∃ o', l[k]? = some o' ∧ (o.used = true → o'.used = true) ∧ (o.valid = true → ¬ enrolling s k → o' = o)) :
    fusesGrow s t := by
  unfold fusesGrow
  rw [hp]
  exact ⟨hv, ho, rfl⟩

theorem FuseStep.fusesGrow (h : FuseStep s.perm s.dev t.perm) (hok : Machine.fusesOk s.perm) : fusesGrow s t := by
  obtain ⟨-, hval, -⟩ := hok
  have same : ∀ k o, s.perm.owners[k]? = some o → ∃ o', s.perm.owners[k]? = some o' ∧ (o.used = true → o'.used = true) ∧
      (o.valid = true → ¬ enrolling s k → o' = o) := fun k o ho => ⟨o, ho, id, fun _ _ => rfl⟩
  generalize hp : t.perm = pm at h
  cases h with
  | kept => exact fusesGrow_owners hp le_rfl same
  | marked =>
    rcases markUsed_cases s.perm (fuseWrites s.perm s.dev) with h | ⟨k, dig, he, h⟩
    · exact fusesGrow_owners (hp.trans h) le_rfl same
    · obtain ⟨x, hx, hu⟩ := unusedOwner_spec (fuseWrites_enrol he)
      refine fusesGrow_owners (hp.trans h) le_rfl fun j o ho => ?_
      rw [List.getElem?_modify, ho]
      by_cases hj : k = j
      · refine ⟨slotUsed o, congrArg some (if_pos hj), fun _ => rfl, fun hv _ => ?_⟩
        obtain rfl : x = o := Option.some.inj (hx.symm.trans (hj ▸ ho))
        exact absurd (hval x (List.mem_of_getElem? hx) hv) (by simp [hu])
      · exact ⟨o, congrArg some (if_neg hj), id, fun _ _ => rfl⟩
  | written f n hf =>
    obtain ⟨v, hle, h | ⟨k, dig, he, h⟩⟩ := fusesAfter_cases s.perm f n
    · exact fusesGrow_owners (hp.trans h) hle same
    · refine fusesGrow_owners (hp.trans h) hle fun j o ho => ?_
      rw [List.getElem?_set]
      by_cases hj : k = j
      · obtain ⟨hlt, -⟩ := List.getElem?_eq_some_iff.1 ho
        rw [if_pos hj, if_pos (hj ▸ hlt)]
        exact ⟨_, rfl, fun _ => rfl, fun _ hn => absurd ⟨f, hf, (k, dig), he, hj⟩ hn⟩
      · rw [if_neg hj]
        exact ⟨o, ho, id, fun _ _ => rfl⟩

end

/-! ### The obligations -/

/-- Settles O1: a step takes the command at the front off the queue, or ticks. -/
theorem stepRunsFront : Obligations.StepRunsFront := by
  refine ⟨fun c s => rfl, fun s h => ?_⟩
  unfold step
  rw [h]

/-- Settles O5: at reset no owner slot is written and no spare is fused. -/
theorem fusesAtReset : Obligations.FusesAtReset := by
  unfold Obligations.FusesAtReset fusesOk
  decide

/-- Settles O3, by the four forms in which every command but three answers. -/
theorem queueAndFusesKept : Obligations.QueueAndFusesKept :=
  fun _ _ _ h => ⟨(exec_next h).1, fun hv hr hb => (exec_next_kept hv hr hb h).2⟩

/-- Settles O4, by what a step may do to the fuses. -/
theorem fusesInvariant : Obligations.FusesInvariant := fun _ _ hok h => (step_next h).fusesOk hok

/-- Settles O6, by what a step may do to the fuses: a slot that is marked was unused, and one that is written is being enrolled. -/
theorem fusesGrow_of_step : Obligations.FusesGrow := fun _ _ hok h => (step_next h).fusesGrow hok

end Sys2Proof.Machine
end


section
/-!
Sensors, the thermal cap, hot memory units and the trip (R493 to R496), and O58.
-/
namespace Sys2Proof.Machine

/-! ### Frames -/

/-- What each update of a chain leaves, the chain leaves. -/
theorem foldl_keeps {α β : Type} {g : Dev → α → Dev} (π : Dev → β) (h : ∀ d x, π (g d x) = π d) (l : List α) (d : Dev) : π (l.foldl g d) = π d := by
  induction l generalizing d with
  | nil => rfl
  | cons x t ih => exact (ih (g d x)).trans (h d x)

/-- A device without its registers. -/
def besideRegs (d : Dev) : Dev := { d with regs := [], regsB := [], regsC := [] }

@[simp] theorem besideRegs_wr (d : Dev) (f : Fld) (i v : Nat) : besideRegs (wr d f i v) = besideRegs d := by
  unfold wr
  dsimp only
  split
  · rfl
  · rfl

@[simp] theorem besideRegs_bump (d : Dev) (f : Fld) (i n : Nat) : besideRegs (bump d f i n) = besideRegs d := besideRegs_wr ..

@[simp] theorem besideRegs_alert (d : Dev) (b : Nat) : besideRegs (alert d b) = besideRegs d := besideRegs_wr ..

/-- Two devices that agree beside their registers differ in no more than their registers. -/
theorem eq_of_besideRegs {d e : Dev} (h : besideRegs e = besideRegs d) : { e with regs := d.regs, regsB := d.regsB, regsC := d.regsC } = d :=
  congrArg (fun x : Dev => { x with regs := d.regs, regsB := d.regsB, regsC := d.regsC }) h

theorem onlyRegs_of_besideRegs {d e : Dev} {l : List (Fld × Nat)} (h : besideRegs e = besideRegs d) (hr : keepsRegs d e l) : onlyRegs d e l :=
  ⟨eq_of_besideRegs h, hr⟩

/-- A part of the state that no register belongs to. -/
theorem part_of_besideRegs {β : Type} {d e : Dev} (h : besideRegs e = besideRegs d) (π : Dev → β) (hπ : ∀ x, π (besideRegs x) = π x) : π e = π d :=
  (hπ e).symm.trans ((congrArg π h).trans (hπ d))

/-! ### Readings (R493) -/

theorem signed_12 {t : Int} (hlo : -2048 ≤ t) (hhi : t < 2048) : signed 12 (t % 4096).toNat = t := by
  unfold signed
  dsimp only
  split <;> omega

theorem senseAll_one (d : Dev) {r : SensorReading} (h : r.sensor < 168) :
    senseAll d [r] = wr (wr d .powerSensorTemp r.sensor (r.temp % 4096).toNat) .powerSensorValid r.sensor 1 := if_pos h

@[simp] theorem besideRegs_senseAll (d : Dev) (l : List SensorReading) : besideRegs (senseAll d l) = besideRegs d :=
  foldl_keeps besideRegs (fun d r => by
    split
    · rw [besideRegs_wr, besideRegs_wr]
    · rfl) l d

theorem rd_senseAll (d : Dev) (l : List SensorReading) {f : Fld} (i : Nat) (hf : f ∉ [Fld.powerSensorTemp, .powerSensorValid]) :
    rd (senseAll d l) f i = rd d f i := by
  simp only [List.mem_cons, List.not_mem_nil, or_false, not_or] at hf
  refine rd_foldl (fun d r => ?_) l d
  split
  · rw [rd_wr_plain_ne _ _ _ _ rfl hf.2, rd_wr_plain_ne _ _ _ _ rfl hf.1]
  · rfl

@[simp] theorem senseAll_boot (d : Dev) (l : List SensorReading) : (senseAll d l).boot = d.boot :=
  part_of_besideRegs (besideRegs_senseAll d l) Dev.boot fun _ => rfl

@[simp] theorem senseAll_pwr (d : Dev) (l : List SensorReading) : (senseAll d l).pwr = d.pwr :=
  part_of_besideRegs (besideRegs_senseAll d l) Dev.pwr fun _ => rfl

/-- What the sensor then shows is the reading. -/
theorem reading_senseAll (d : Dev) {r : SensorReading} (hs : r.sensor < 168) (hlo : -2048 ≤ r.temp) (hhi : r.temp < 2048) :
    reading (senseAll d [r]) r.sensor = some r.temp := by
  have hv : isSet (senseAll d [r]) .powerSensorValid r.sensor = true := by
    rw [senseAll_one d hs]
    exact isSet_wr_one _ _ _ rfl rfl
  have ht : rd (senseAll d [r]) .powerSensorTemp r.sensor = (r.temp % 4096).toNat := by
    rw [senseAll_one d hs, rd_wr_plain_ne _ _ _ _ rfl (by decide)]
    refine (rd_wr_self _ _ _ _ rfl).trans (Nat.mod_eq_of_lt ?_)
    change _ < 4096
    omega
  rw [reading, if_pos hv, ht, signed_12 hlo hhi]

theorem onlyRegs_senseAll (d : Dev) {r : SensorReading} (hs : r.sensor < 168) :
    onlyRegs d (senseAll d [r]) [(.powerSensorTemp, r.sensor), (.powerSensorValid, r.sensor)] := by
  rw [senseAll_one d hs]
  exact onlyRegs_wr (onlyRegs_wr (onlyRegs_refl d _) (.head _)) (.tail _ (.head _))

/-! ### The thermal cap (R494) -/

theorem rd_someSensor (d : Dev) (cause : Nat) (l : List Nat) (f : Fld) (i : Nat) : rd (someSensor d cause l) f i = rd d f i := rfl

theorem hotOnes_isEmpty {d : Dev} {l : List Nat} {c : Nat} (h : hotOnes d l c ≠ []) : (hotOnes d l c).isEmpty = false := by simpa using h

section
variable {s d : Dev} {l : List SensorReading} (hd : senseAll s l = d)
include hd

/-- The cap's step, from what the sensors show. -/
theorem capStep_hot (h : hotOnes d capSensors (throttleC d) ≠ []) :
    rd (capStep s l) .powerRateThermal 0 = max 8 (rd d .powerRateThermal 0 - 4) % 2 ^ 7 ∧ keepsRegs d (capStep s l) [(.powerRateThermal, 0)] := by
  have hr : ∀ f i, rd (capStep s l) f i = rd (wr d .powerRateThermal 0 (max 8 (rd d .powerRateThermal 0 - 4))) f i := fun f i => by
    unfold capStep
    dsimp only
    rw [hd, hotOnes_isEmpty h]
    simp only [Bool.not_false, if_true]
    split
    · exact rd_someSensor ..
    · rfl
  exact ⟨(hr _ _).trans (rd_wr_self _ _ _ _ rfl), keepsRegs_of_rd (keepsRegs_wr (keepsRegs_refl d _) (.head _)) hr⟩

variable (hc : hotOnes d capSensors (throttleC d) = [])
include hc

theorem capStep_cool (h : rd d .powerRateThermal 0 < 64) (hb : allBelow d capSensors (throttleC d - 3) = true) :
    rd (capStep s l) .powerRateThermal 0 = rd d .powerRateThermal 0 + 1 ∧ keepsRegs d (capStep s l) [(.powerRateThermal, 0)] := by
  have hr : ∀ f i, rd (capStep s l) f i = rd (wr d .powerRateThermal 0 (rd d .powerRateThermal 0 + 1)) f i := fun f i => by
    unfold capStep
    dsimp only
    rw [hd, hc, hb]
    simp only [List.isEmpty_nil, Bool.not_true, Bool.false_eq_true, if_false, decide_eq_true h, Bool.and_self, if_true]
    split
    · exact rd_someSensor ..
    · rfl
  refine ⟨(hr _ _).trans ((rd_wr_self _ _ _ _ rfl).trans (Nat.mod_eq_of_lt ?_)), keepsRegs_of_rd (keepsRegs_wr (keepsRegs_refl d _) (.head _)) hr⟩
  change _ < 128
  omega

theorem capStep_between (h : 64 ≤ rd d .powerRateThermal 0 ∨ allBelow d capSensors (throttleC d - 3) = false) : capStep s l = d := by
  have hn : (decide (rd d .powerRateThermal 0 < 64) && allBelow d capSensors (throttleC d - 3)) = false := by
    rcases h with h | h
    · simp [Nat.not_lt.2 h]
    · simp [h]
  unfold capStep
  dsimp only
  rw [hd, hc, hn]
  rfl

end

/-! ### Hot memory units (R495) -/

/-- By how many halvings a unit's admission is cut after its step, from those before it. -/
def halvings (d : Dev) (u : Nat × List Nat) (n : Nat) : Nat :=
  if hotOnes d u.2 (memLimit d) ≠ [] then min 3 (n + 1) else if allBelow d u.2 (memLimit d - 3) = true then n - 1 else n

theorem rd_memUnitStep (d : Dev) (u : Nat × List Nat) (f : Fld) (i : Nat) : rd (memUnitStep d u) f i = rd d f i := by
  unfold memUnitStep
  dsimp only
  split
  · split
    · rfl
    · rfl
  · split
    · rfl
    · rfl

theorem halvings_congr {d e : Dev} (h : ∀ f i, rd e f i = rd d f i) : halvings e = halvings d := by
  have hr : reading e = reading d := by
    funext i
    unfold reading isSet
    rw [h, h]
  funext u n
  unfold halvings hotOnes allBelow memLimit
  rw [hr, h]

theorem memRate_memUnitStep_self (d : Dev) (u : Nat × List Nat) :
    getD (memUnitStep d u).pwr.memRate u.1 (0 : Nat) = halvings d u (getD d.pwr.memRate u.1 (0 : Nat)) := by
  unfold memUnitStep halvings
  dsimp only
  by_cases hot : hotOnes d u.2 (memLimit d) = []
  · rw [hot]
    simp only [List.isEmpty_nil, Bool.not_true, Bool.false_eq_true, if_false, ne_eq, not_true]
    by_cases hb : allBelow d u.2 (memLimit d - 3) = true
    · by_cases hn : getD d.pwr.memRate u.1 (0 : Nat) = 0
      · simp [hn]
      · simp [hb, Nat.pos_of_ne_zero hn]
    · simp [hb]
  · simp only [hotOnes_isEmpty hot, Bool.not_false, if_true, ne_eq, hot, not_false_eq_true]
    split
    · exact getD_put_self ..
    · exact getD_put_self ..

theorem memRate_memUnitStep_ne (d : Dev) (u : Nat × List Nat) {k : Nat} (h : k ≠ u.1) :
    getD (memUnitStep d u).pwr.memRate k (0 : Nat) = getD d.pwr.memRate k (0 : Nat) := by
  unfold memUnitStep
  dsimp only
  split
  · split
    · exact getD_put_ne _ _ _ h
    · exact getD_put_ne _ _ _ h
  · split
    · exact getD_putD_ne _ _ _ h
    · rfl

/-- A pass over units with numbers of their own: each takes its step, from the readings before the pass. -/
theorem memRate_foldl {l : List (Nat × List Nat)} (hl : (l.map (·.1)).Nodup) (d : Dev) :
    (∀ k, k ∉ l.map (·.1) → getD (l.foldl memUnitStep d).pwr.memRate k (0 : Nat) = getD d.pwr.memRate k (0 : Nat)) ∧
    ∀ u ∈ l, getD (l.foldl memUnitStep d).pwr.memRate u.1 (0 : Nat) = halvings d u (getD d.pwr.memRate u.1 (0 : Nat)) := by
  induction l generalizing d with
  | nil => exact ⟨fun _ _ => rfl, fun _ h => absurd h List.not_mem_nil⟩
  | cons x t ih =>
    obtain ⟨hx, ht⟩ := List.nodup_cons.1 hl
    obtain ⟨hout, hin⟩ := ih ht (memUnitStep d x)
    refine ⟨fun k hk => ?_, fun u hu => ?_⟩
    · exact (hout k (List.not_mem_of_not_mem_cons hk)).trans (memRate_memUnitStep_ne d x (List.ne_of_not_mem_cons hk))
    · rcases List.mem_cons.1 hu with rfl | hu
      · exact (hout _ hx).trans (memRate_memUnitStep_self d u)
      · have hne : u.1 ≠ x.1 := fun h => hx (List.mem_map.2 ⟨u, hu, h⟩)
        rw [List.foldl_cons, hin u hu, halvings_congr (rd_memUnitStep d x), memRate_memUnitStep_ne d x hne]

/-! ### Holdback and the trip (R471, R496) -/

/-- What is left when the dies have lost power, whatever the registers then read. -/
theorem besideRegs_diesOff (d : Dev) : besideRegs (diesOff d) = besideRegs { d with
    mem := { ddrGib := d.mem.ddrGib, ddrX8 := d.mem.ddrX8, host := d.mem.host }, xl := {}, hl := { refusing := d.hl.refusing }, disp := {}, tr := {}, top := {},
    att := {}, mesh := {}, coll := {}, acc := { alertNs := d.acc.alertNs }, yew := {}, pwr := { samples := d.pwr.samples }, safe := { lost := d.safe.lost } } := by
  unfold diesOff
  rw [foldl_keeps besideRegs fun d x => besideRegs_wr ..]
  simp only [besideRegs_wr]

theorem besideRegs_holdback (d : Dev) (c : Nat) : besideRegs (holdback d c) = besideRegs (diesOff d) := by
  unfold holdback
  simp only [besideRegs_wr, besideRegs_alert]

theorem holdback_rest (d : Dev) (c : Nat) : (holdback d c).boot = d.boot ∧ (holdback d c).disp = {} ∧ (holdback d c).tr = {} ∧
    (holdback d c).mem.bytes = [] ∧ (holdback d c).mem.host = d.mem.host := by
  have h := (besideRegs_holdback d c).trans (besideRegs_diesOff d)
  exact ⟨part_of_besideRegs h Dev.boot fun _ => rfl, part_of_besideRegs h Dev.disp fun _ => rfl, part_of_besideRegs h Dev.tr fun _ => rfl,
    part_of_besideRegs h (·.mem.bytes) fun _ => rfl, part_of_besideRegs h (·.mem.host) fun _ => rfl⟩

theorem holdback_shows (d : Dev) {c : Nat} (hc : c < 256) : rd (holdback d c) .bootStatusStage 0 = 15 ∧
    isSet (holdback d c) .bootStatusHoldback 0 = true ∧ rd (holdback d c) .bootStatusCause 0 = c := by
  unfold holdback
  refine ⟨?_, ?_, (rd_wr_self _ _ _ _ rfl).trans (Nat.mod_eq_of_lt hc)⟩
  · rw [rd_wr_plain_ne _ _ _ _ rfl (by decide), rd_wr_plain_ne _ _ _ _ rfl (by decide)]
    exact rd_wr_self _ _ _ _ rfl
  · rw [isSet_wr_ne _ _ rfl (by decide)]
    exact isSet_wr_one _ _ _ rfl rfl

theorem besideRegs_tripEffect (d : Dev) (p : Nat) : besideRegs (tripEffect d p) = besideRegs (holdback d 0xA7) := by
  unfold tripEffect
  simp only [besideRegs_wr, besideRegs_alert]

theorem rd_tripEffect_boot (d : Dev) (p : Nat) {f : Fld} (i : Nat) (hf : f ∈ [Fld.bootStatusStage, .bootStatusHoldback, .bootStatusCause]) :
    rd (tripEffect d p) f i = rd (holdback d 0xA7) f i := by
  have hn : ∀ f ∈ [Fld.bootStatusStage, .bootStatusHoldback, .bootStatusCause],
      f ≠ .mgmtAlertPending ∧ f ≠ .powerTripRecordPair ∧ f ≠ .powerTripRecordTripped := by decide
  obtain ⟨ha, hp, ht⟩ := hn f hf
  unfold tripEffect alert
  rw [rd_wr_plain_ne _ _ _ _ rfl ha, rd_wr_plain_ne _ _ _ _ rfl hp, rd_wr_plain_ne _ _ _ _ rfl ht]

theorem tripEffect_records (d : Dev) {p : Nat} (hp : p < 8) : isSet (tripEffect d p) .powerTripRecordTripped 0 = true ∧
    rd (tripEffect d p) .powerTripRecordPair 0 = p := by
  unfold tripEffect alert
  refine ⟨?_, ?_⟩
  · rw [isSet_wr_ne _ _ rfl (by decide), isSet_wr_ne _ _ rfl (by decide)]
    exact isSet_wr_one _ _ _ rfl rfl
  · rw [rd_wr_plain_ne _ _ _ _ rfl (by decide)]
    exact (rd_wr_self _ _ _ _ rfl).trans (Nat.mod_eq_of_lt hp)

/-- What the trip leaves. -/
theorem tripEffect_spec (d : Dev) {p : Nat} (hp : p < 8) : rd (tripEffect d p) .bootStatusStage 0 = 15 ∧
    isSet (tripEffect d p) .bootStatusHoldback 0 = true ∧ rd (tripEffect d p) .bootStatusCause 0 = 0xA7 ∧
    isSet (tripEffect d p) .powerTripRecordTripped 0 = true ∧ rd (tripEffect d p) .powerTripRecordPair 0 = p ∧
    (tripEffect d p).disp = {} ∧ (tripEffect d p).mem.bytes = [] ∧ (tripEffect d p).boot = d.boot := by
  obtain ⟨hstage, hhold, hcause⟩ := holdback_shows d (c := 0xA7) (by decide)
  obtain ⟨hboot, hdisp, -, hbytes, -⟩ := holdback_rest d 0xA7
  obtain ⟨htrip, hpair⟩ := tripEffect_records d hp
  have h := besideRegs_tripEffect d p
  refine ⟨(rd_tripEffect_boot d p 0 (by simp)).trans hstage, ?_, (rd_tripEffect_boot d p 0 (by simp)).trans hcause, htrip, hpair,
    (part_of_besideRegs h Dev.disp fun _ => rfl).trans hdisp, (part_of_besideRegs h (·.mem.bytes) fun _ => rfl).trans hbytes,
    (part_of_besideRegs h Dev.boot fun _ => rfl).trans hboot⟩
  rw [isSet, rd_tripEffect_boot d p 0 (by simp)]
  exact hhold

theorem higher_mem (d : Dev) (p : Nat) : higher d p ∈ pairSensors p := by
  unfold higher pairSensors
  split
  · exact .head _
  · exact .tail _ (.head _)

/-- Of a pair with both readings the sensor named is the one that reads no lower. -/
theorem le_of_higher {d : Dev} {p q : Nat} (hq : q ∈ pairSensors p) {x y : Int} (hx : reading d q = some x) (hy : reading d (higher d p) = some y) :
    x ≤ y := by
  have hpair : q = 152 + 2 * p ∨ q = 153 + 2 * p := by simpa [pairSensors] using hq
  unfold higher at hy
  split at hy
  · rename_i h
    rw [hy] at h
    rcases hpair with rfl | rfl
    · exact (Option.some.inj (hx.symm.trans hy)).le
    · rw [hx] at h
      exact h
  · rename_i h
    rw [hy] at h
    rcases hpair with rfl | rfl
    · rw [hx] at h
      exact (not_le.1 h).le
    · exact (Option.some.inj (hx.symm.trans hy)).le

/-! ### The obligation -/

/-- Settles O58: each step's cases, from what the sensors show after its readings. -/
theorem heat : Obligations.Heat := by
  refine ⟨fun d r hs hlo hhi => ⟨reading_senseAll d hs hlo hhi, onlyRegs_senseAll d hs⟩, fun s l hr => ⟨?_, ?_⟩,
    fun s p l hp hb => ⟨fun hst hot => ?_, fun g hg hgap => ?_⟩⟩
  · exact ⟨_, answers_act (n := "THERMAL_CAP_STEP") rfl hr, capStep_hot rfl, capStep_cool rfl, capStep_between rfl⟩
  · obtain ⟨-, hin⟩ := memRate_foldl (l := memUnits) (by decide) (senseAll s.dev l)
    refine ⟨_, answers_act (n := "MEMORY_HOT_STEP") rfl hr, fun f i _ => rd_foldl (fun d u => rd_memUnitStep d u f i) _ _, fun u hu => ?_⟩
    rw [hin u hu, senseAll_pwr]
    rfl
  · obtain ⟨h1, h2, h3, h4, h5, h6, h7, h8⟩ := tripEffect_spec (senseAll s.dev l) hp
    refine ⟨_, answers_act (n := "THERMAL_TRIP") rfl ?_, h1, h2, h3, h4, h5, h6, h7, h8.trans (senseAll_boot ..)⟩
    simp [hp, hb, hst, hot]
  · refine ⟨_, higher (senseAll s.dev l) p, answers_act (n := "TRIP_PAIR_DISAGREEMENT") rfl ?_, higher_mem _ _,
      fun q hq x y hx hy => le_of_higher hq hx hy, rfl⟩
    simp [hp, hb, hg, hgap]

end Sys2Proof.Machine
end


section
/-!
The vote scrub, lost votes and failed units (R502 to R504, R511, R513, R549), and O59.
-/
namespace Sys2Proof.Machine

/-! ### Fault events -/

/-- A fault event puts one entry on its way and changes nothing else but registers. -/
theorem besideRegs_faultEvent (d : Dev) (part die cause cls region unit detail : Nat) :
    ∃ q x, besideRegs (faultEvent d part die cause cls region unit detail) = besideRegs (postEq d q x) := by
  obtain ⟨x, e, hx, ho⟩ := safetyEvent_only d 0x40 part die cause cls region unit detail 0 0
  have hb : besideRegs x = besideRegs d := by
    have := congrArg besideRegs ho.1
    exact this
  refine ⟨rd x .safetyEventEq, e, ?_⟩
  rw [faultEvent, hx]
  exact congrArg (fun y : Dev => onHl y fun h => { h with entries := h.entries ++ [⟨true, rd x .safetyEventEq, e, .other, false⟩] }) hb

theorem length_entries_faultEvent (d : Dev) (part die cause cls region unit detail : Nat) :
    (faultEvent d part die cause cls region unit detail).hl.entries.length = d.hl.entries.length + 1 := by
  obtain ⟨q, x, h⟩ := besideRegs_faultEvent d part die cause cls region unit detail
  rw [part_of_besideRegs h (·.hl.entries) fun _ => rfl, entries_postEq, List.length_append]
  rfl

/-- A part of the state that neither registers nor entries on their way belong to. -/
theorem part_faultEvent {β : Type} (π : Dev → β) (hπ : ∀ x, π (besideRegs x) = π x) (hq : ∀ d q x, π (postEq d q x) = π d)
    (d : Dev) (part die cause cls region unit detail : Nat) : π (faultEvent d part die cause cls region unit detail) = π d := by
  obtain ⟨q, x, h⟩ := besideRegs_faultEvent d part die cause cls region unit detail
  exact (part_of_besideRegs h π hπ).trans (hq d q x)

theorem keepsRegs_faultEvent (d : Dev) (part die cause cls region unit detail : Nat) :
    keepsRegs d (faultEvent d part die cause cls region unit detail) ((.safetyFaultSeq, 0) :: (List.range 4).map fun i => (.safetyLastRecord, i)) := by
  obtain ⟨x, e, hx, ho⟩ := safetyEvent_only d 0x40 part die cause cls region unit detail 0 0
  rw [faultEvent, hx]
  exact keepsRegs_of_rd ho.2 fun f i => rfl

/-! ### The scrub (R502) -/

/-- The value two of an entry's copies agree on. -/
def voteOf (d : Dev) (f : Fld) (i : Nat) : Option Nat := majority (copies d f i).1 (copies d f i).2.1 (copies d f i).2.2

theorem voteHolds_iff {d : Dev} {f : Fld} {i : Nat} : voteHolds d f i = true ↔ ∃ v, voteOf d f i = some v :=
  Option.isSome_iff_exists

theorem voteOf_of_copies {d : Dev} {f : Fld} {i v : Nat} (h : copies d f i = (v, v, v)) : voteOf d f i = some v := by
  rw [voteOf, h]
  exact majority_self_left v v

/-- Where all votes hold, one entry of the pass is left as it is or has its majority written to every copy. -/
theorem scrubVote_cases {d : Dev} {f : Fld} {i v : Nat} (h : voteOf d f i = some v) :
    scrubVote d f i = d ∧ copies d f i = (v, v, v) ∨ scrubVote d f i = bump (wr d f i v) .safetyVoteRepairs := by
  have h' : majority (copies d f i).1 (copies d f i).2.1 (copies d f i).2.2 = some v := h
  unfold scrubVote
  dsimp only
  rw [h']
  dsimp only
  split
  · rename_i hc
    obtain ⟨h1, h2, h3⟩ := hc
    exact .inl ⟨rfl, Prod.ext h1 (Prod.ext h2 h3)⟩
  · exact .inr rfl

/-- What a pass over entries whose votes all hold leaves of them: every vote holds, an entry within its width keeps its majority,
and one whose copies agree on such a value keeps its copies. -/
structure Scrubbed (d e : Dev) : Prop where
  hl : e.hl = d.hl
  passes : rd e .safetyScrubPasses 0 = rd d .safetyScrubPasses 0
  holds : ∀ f ∈ votedFlds, ∀ i, voteHolds e f i = true
  vote : ∀ f ∈ votedFlds, ∀ i v, v < 2 ^ f.info.width → voteOf d f i = some v → voteOf e f i = some v
  kept : ∀ f ∈ votedFlds, ∀ i v, v < 2 ^ f.info.width → copies d f i = (v, v, v) → copies e f i = (v, v, v)

theorem Scrubbed.refl {d : Dev} (h : ∀ f ∈ votedFlds, ∀ i, voteHolds d f i = true) : Scrubbed d d :=
  ⟨rfl, rfl, h, fun _ _ _ _ _ h => h, fun _ _ _ _ _ h => h⟩

theorem Scrubbed.trans {a b c : Dev} (h : Scrubbed a b) (k : Scrubbed b c) : Scrubbed a c :=
  ⟨k.hl.trans h.hl, k.passes.trans h.passes, k.holds, fun f hf i v hv hm => k.vote f hf i v hv (h.vote f hf i v hv hm),
    fun f hf i v hv hm => k.kept f hf i v hv (h.kept f hf i v hv hm)⟩

theorem votedFlds_spec : ∀ f ∈ votedFlds, f.info.voted = true ∧ f.info.reset < 2 ^ f.info.width ∧ f ≠ .safetyVoteRepairs ∧ f ≠ .safetyScrubPasses := by
  decide

theorem copies_repaired_ne (d : Dev) {f g : Fld} {i j : Nat} (v : Nat) (hg : g ∈ votedFlds) (h : g ≠ f ∨ j ≠ i) :
    copies (bump (wr d f i v) .safetyVoteRepairs) g j = copies d g j := by
  rw [bump, copies_wr_ne _ _ (.inl (votedFlds_spec g hg).2.2.1), copies_wr_ne _ _ h]

theorem copies_repaired (d : Dev) {f : Fld} {i v : Nat} (hf : f ∈ votedFlds) : copies (bump (wr d f i v) .safetyVoteRepairs) f i =
    (v % 2 ^ f.info.width, v % 2 ^ f.info.width, v % 2 ^ f.info.width) := by
  obtain ⟨hv, -, hr, -⟩ := votedFlds_spec f hf
  rw [bump, copies_wr_ne _ _ (.inl hr), copies_wr_self d f i v hv]

/-- Another entry keeps its copies; the repaired one has its majority in every copy. -/
theorem scrubbed_repaired {d : Dev} (h : ∀ f ∈ votedFlds, ∀ i, voteHolds d f i = true) {f : Fld} (hf : f ∈ votedFlds) {i v : Nat}
    (hm : voteOf d f i = some v) : Scrubbed d (bump (wr d f i v) .safetyVoteRepairs) := by
  have hsplit : ∀ g ∈ votedFlds, ∀ j, (g = f ∧ j = i) ∨ copies (bump (wr d f i v) .safetyVoteRepairs) g j = copies d g j := fun g hg j => by
    by_cases hgf : g = f
    · by_cases hji : j = i
      · exact .inl ⟨hgf, hji⟩
      · exact .inr (copies_repaired_ne d v hg (.inr hji))
    · exact .inr (copies_repaired_ne d v hg (.inl hgf))
  have hfit : ∀ w, w < 2 ^ f.info.width → voteOf d f i = some w → copies (bump (wr d f i v) .safetyVoteRepairs) f i = (w, w, w) := fun w hw hwv => by
    obtain rfl : v = w := Option.some.inj (hm.symm.trans hwv)
    rw [copies_repaired d hf, Nat.mod_eq_of_lt hw]
  have hpass : Fld.safetyScrubPasses ≠ f := fun e => (votedFlds_spec f hf).2.2.2 e.symm
  refine ⟨?_, ?_, fun g hg j => ?_, fun g hg j w hw hwv => ?_, fun g hg j w hw hwv => ?_⟩
  · exact part_of_besideRegs ((besideRegs_bump ..).trans (besideRegs_wr ..)) Dev.hl fun _ => rfl
  · rw [bump, rd_wr_plain_ne _ _ _ _ rfl (by decide), rd_wr_ne _ _ rfl (.inl hpass)]
  · rcases hsplit g hg j with ⟨rfl, rfl⟩ | e
    · exact voteHolds_iff.2 ⟨_, voteOf_of_copies (copies_repaired d hf)⟩
    · unfold voteHolds
      rw [e]
      exact h g hg j
  · rcases hsplit g hg j with ⟨rfl, rfl⟩ | e
    · exact voteOf_of_copies (hfit w hw hwv)
    · rw [voteOf, e]
      exact hwv
  · rcases hsplit g hg j with ⟨rfl, rfl⟩ | e
    · exact hfit w hw (voteOf_of_copies hwv)
    · exact e.trans hwv

theorem scrubbed_scrubVote {d : Dev} (h : ∀ f ∈ votedFlds, ∀ i, voteHolds d f i = true) {f : Fld} (hf : f ∈ votedFlds) (i : Nat) :
    Scrubbed d (scrubVote d f i) ∧
    ∀ v, v < 2 ^ f.info.width → voteOf d f i = some v → copies (scrubVote d f i) f i = (v, v, v) := by
  obtain ⟨v, hv⟩ := voteHolds_iff.1 (h f hf i)
  rcases scrubVote_cases hv with ⟨he, hc⟩ | he
  · rw [he]
    refine ⟨.refl h, fun w _ hw => ?_⟩
    obtain rfl : v = w := Option.some.inj (hv.symm.trans hw)
    exact hc
  · rw [he]
    refine ⟨scrubbed_repaired h hf hv, fun w hlt hw => ?_⟩
    obtain rfl : v = w := Option.some.inj (hv.symm.trans hw)
    rw [copies_repaired d hf, Nat.mod_eq_of_lt hlt]

/-- A pass over entries of one field: those entries then agree in every copy. -/
theorem scrubbed_entries {f : Fld} (hf : f ∈ votedFlds) (l : List Nat) {d : Dev} (h : ∀ f ∈ votedFlds, ∀ i, voteHolds d f i = true) :
    Scrubbed d (l.foldl (fun d i => scrubVote d f i) d) ∧
    ∀ i ∈ l, ∀ v, v < 2 ^ f.info.width → voteOf d f i = some v → copies (l.foldl (fun d i => scrubVote d f i) d) f i = (v, v, v) := by
  induction l generalizing d with
  | nil => exact ⟨.refl h, fun _ h => absurd h List.not_mem_nil⟩
  | cons x t ih =>
    obtain ⟨hx, hself⟩ := scrubbed_scrubVote h hf x
    obtain ⟨ht, hin⟩ := ih hx.holds
    refine ⟨hx.trans ht, fun i hi v hlt hv => ?_⟩
    rcases List.mem_cons.1 hi with rfl | hi
    · exact ht.kept f hf i v hlt (hself v hlt hv)
    · exact hin i hi v hlt (hx.vote f hf i v hlt hv)

/-! ### The entries a pass visits -/

theorem getD_of_unlisted {m : KMap Nat} {f : Fld} {i : Nat} (r : Nat)
    (h : i ∉ (m.filter fun e => e.1 % 1024 == f.ctorIdx).map fun e => e.1 / 1024) : getD m (fkey f i) r = r := by
  have hk : find? m (fkey f i) = none := by
    by_contra hne
    obtain ⟨v, hv⟩ := Option.ne_none_iff_exists'.1 hne
    refine h (List.mem_map.2 ⟨(fkey f i, v), List.mem_filter.2 ⟨mem_of_find? hv, beq_iff_eq.2 (fkey_mod f i)⟩, ?_⟩)
    have := ctorIdx_lt f
    simp only [fkey]
    omega
  rw [getD, hk, Option.getD_none]

/-- The copies of an entry that is not visited agree on the reset value. -/
theorem copies_of_unvisited {d : Dev} {f : Fld} {i : Nat} (h : i ∉ votedEntries d f) : copies d f i = (f.info.reset, f.info.reset, f.info.reset) := by
  simp only [votedEntries, List.mem_eraseDups, List.mem_append, not_or] at h
  obtain ⟨⟨ha, hb⟩, hc⟩ := h
  unfold copies
  dsimp only
  rw [getD_of_unlisted _ ha, getD_of_unlisted _ hb, getD_of_unlisted _ hc]

/-- The pass over one field: every entry within its width agrees in every copy. -/
theorem scrubbed_field {f : Fld} (hf : f ∈ votedFlds) {d : Dev} (h : ∀ f ∈ votedFlds, ∀ i, voteHolds d f i = true) :
    Scrubbed d ((votedEntries d f).foldl (fun d i => scrubVote d f i) d) ∧
    ∀ i v, v < 2 ^ f.info.width → voteOf d f i = some v → copies ((votedEntries d f).foldl (fun d i => scrubVote d f i) d) f i = (v, v, v) := by
  obtain ⟨hs, hin⟩ := scrubbed_entries hf (votedEntries d f) h
  refine ⟨hs, fun i v hlt hv => ?_⟩
  by_cases hi : i ∈ votedEntries d f
  · exact hin i hi v hlt hv
  · have hc := copies_of_unvisited hi
    obtain rfl : v = f.info.reset := Option.some.inj (hv.symm.trans (voteOf_of_copies hc))
    exact hs.kept f hf i _ hlt hc

theorem scrubbed_fields (l : List Fld) (hl : l ⊆ votedFlds) {d : Dev} (h : ∀ f ∈ votedFlds, ∀ i, voteHolds d f i = true) :
    Scrubbed d (l.foldl (fun d f => (votedEntries d f).foldl (fun d i => scrubVote d f i) d) d) ∧
    ∀ f ∈ l, ∀ i v, v < 2 ^ f.info.width → voteOf d f i = some v →
      copies (l.foldl (fun d f => (votedEntries d f).foldl (fun d i => scrubVote d f i) d) d) f i = (v, v, v) := by
  induction l generalizing d with
  | nil => exact ⟨.refl h, fun _ h => absurd h List.not_mem_nil⟩
  | cons g t ih =>
    obtain ⟨hg, hself⟩ := scrubbed_field (hl (.head _)) h
    obtain ⟨ht, hin⟩ := ih (fun x hx => hl (.tail _ hx)) hg.holds
    refine ⟨hg.trans ht, fun f hf i v hlt hv => ?_⟩
    rcases List.mem_cons.1 hf with rfl | hf
    · exact ht.kept f (hl (.head _)) i v hlt (hself i v hlt hv)
    · exact hin f hf i v hlt (hg.vote f (hl (.tail _ hf)) i v hlt hv)

/-- Entries whose copies agree are left as they are. -/
theorem scrubVote_agreed {d : Dev} {f : Fld} {i : Nat} (h : (copies d f i).1 = (copies d f i).2.1 ∧ (copies d f i).1 = (copies d f i).2.2) :
    scrubVote d f i = d := by
  obtain ⟨hb, hc⟩ := h
  unfold scrubVote
  dsimp only
  rw [← hb, ← hc, majority_self_left]
  exact if_pos ⟨rfl, rfl, rfl⟩

theorem foldl_fixed {α β : Type} {g : β → α → β} {b : β} (l : List α) (h : ∀ x ∈ l, g b x = b) : l.foldl g b = b := by
  induction l with
  | nil => rfl
  | cons x t ih =>
    rw [List.foldl_cons, h x (.head _)]
    exact ih fun y hy => h y (.tail _ hy)

theorem voteScrub_agreed {d : Dev}
    (h : ∀ f ∈ votedFlds, ∀ i, (copies d f i).1 = (copies d f i).2.1 ∧ (copies d f i).1 = (copies d f i).2.2) :
    voteScrub d = bump d .safetyScrubPasses := by
  unfold voteScrub
  rw [foldl_fixed votedFlds fun f hf => foldl_fixed _ fun i _ => scrubVote_agreed (h f hf i)]

/-! ### A lost vote (R503) -/

theorem scrubVote_lost {d : Dev} {f : Fld} {i : Nat} (h : voteHolds d f i = false) :
    scrubVote d f i = if fkey f i ∈ d.safe.lost then d else voteLost d f i := by
  have hm : majority (copies d f i).1 (copies d f i).2.1 (copies d f i).2.2 = none := by
    simpa [voteHolds] using h
  unfold scrubVote
  dsimp only
  rw [hm]
  simp

/-- A field that reads its fallback and has no other treatment: counted, listed and reported. -/
theorem voteLost_untreated {d : Dev} {f : Fld} {i : Nat} (hf : ∀ d, voteTreat d f i = d) :
    rd (voteLost d f i) .safetyVoteLosses 0 = (rd d .safetyVoteLosses 0 + 1) % 2 ^ 32 ∧
    fkey f i ∈ (voteLost d f i).safe.lost ∧ (voteLost d f i).hl.entries.length = d.hl.entries.length + 1 := by
  have hb : besideRegs (onSafe (bump d .safetyVoteLosses) fun x => { x with lost := fkey f i :: x.lost }) =
      besideRegs (onSafe d fun x => { x with lost := fkey f i :: x.lost }) :=
    congrArg (fun x : Dev => onSafe x fun x => { x with lost := fkey f i :: x.lost }) (besideRegs_bump d .safetyVoteLosses 0 1)
  unfold voteLost
  simp only [hf]
  refine ⟨?_, ?_, ?_⟩
  · rw [faultEvent, rd_safetyEvent _ _ _ _ _ _ _ _ _ _ _ _ _ (by decide) (by decide), rd_onSafe]
    exact rd_wr_self _ _ _ _ rfl
  · rw [part_faultEvent (·.safe.lost) (fun _ => rfl) (fun _ _ _ => rfl), part_of_besideRegs hb (·.safe.lost) fun _ => rfl]
    exact .head _
  · rw [length_entries_faultEvent, part_of_besideRegs hb (·.hl.entries) fun _ => rfl]
    rfl

/-! ### Failed units (R511) -/

@[simp] theorem mem_breakJournals (d : Dev) : (breakJournals d).mem = d.mem := rfl

@[simp] theorem hl_breakJournals (d : Dev) : (breakJournals d).hl = d.hl := rfl

@[simp] theorem xl_breakJournals (d : Dev) : (breakJournals d).xl = d.xl := rfl

@[simp] theorem rd_breakJournals (d : Dev) (f : Fld) (i : Nat) : rd (breakJournals d) f i = rd d f i := rfl

theorem keepsRegs_stackFail (d : Dev) (k : Nat) :
    keepsRegs d (stackFail d k) ((.safetyFaultSeq, 0) :: (List.range 4).map fun i => (.safetyLastRecord, i)) := fun f i hf => by
  rw [stackFail, rd_breakJournals, unitEvent, keepsRegs_faultEvent _ _ _ _ _ _ _ _ f i hf, rd_onMem]

theorem mem_faultEvent (d : Dev) (part die cause cls region unit detail : Nat) : (faultEvent d part die cause cls region unit detail).mem = d.mem :=
  part_faultEvent Dev.mem (fun _ => rfl) (fun _ _ _ => rfl) ..

theorem xl_faultEvent (d : Dev) (part die cause cls region unit detail : Nat) : (faultEvent d part die cause cls region unit detail).xl = d.xl :=
  part_faultEvent Dev.xl (fun _ => rfl) (fun _ _ _ => rfl) ..

theorem stackFail_rest (d : Dev) (k : Nat) : (stackFail d k).mem = { d.mem with stacksFailed := k :: d.mem.stacksFailed } ∧
    (stackFail d k).hl.entries.length = d.hl.entries.length + 1 := by
  rw [stackFail, mem_breakJournals, hl_breakJournals, unitEvent, mem_faultEvent, length_entries_faultEvent]
  exact ⟨rfl, rfl⟩

theorem unitFailed_stack {d : Dev} {k : Nat} {m : MemSt} (h : d.mem = { m with stacksFailed := k :: m.stacksFailed }) : unitFailed d (.hbm k) = true := by
  simp [unitFailed, h]

theorem hedgeFail_spec {d : Dev} {q : Nat} (h : d.mem.hedgeFailed.contains q = false) :
    (hedgeFail d q).mem = { d.mem with hedgeFailed := q :: d.mem.hedgeFailed } ∧ rd (hedgeFail d q) .powerHedgeState q = 4 ∧
    (∀ x ∈ (hedgeFail d q).xl.tlb, x.cache ≠ .sliceLeaf q ∧ x.cache ≠ .sliceTable q) ∧
    (hedgeFail d q).hl.entries.length = d.hl.entries.length + 1 := by
  have he : hedgeFail d q = _ := if_neg (by rw [h]; exact Bool.false_ne_true)
  rw [he]
  have hw : ∀ d : Dev, (wr d .powerHedgeState q 4).mem = d.mem ∧ (wr d .powerHedgeState q 4).xl = d.xl ∧ (wr d .powerHedgeState q 4).hl = d.hl :=
    fun d => ⟨part_of_besideRegs (besideRegs_wr ..) Dev.mem fun _ => rfl, part_of_besideRegs (besideRegs_wr ..) Dev.xl fun _ => rfl,
      part_of_besideRegs (besideRegs_wr ..) Dev.hl fun _ => rfl⟩
  rw [mem_breakJournals, rd_breakJournals, xl_breakJournals, hl_breakJournals, unitEvent, mem_faultEvent, xl_faultEvent, length_entries_faultEvent,
    (hw _).1, (hw _).2.1, (hw _).2.2]
  refine ⟨rfl, ?_, fun x hx => ?_, rfl⟩
  · rw [faultEvent, rd_safetyEvent _ _ _ _ _ _ _ _ _ _ _ _ _ (by decide) (by decide)]
    exact rd_wr_self _ _ _ _ rfl
  · simpa using (List.mem_filter.1 hx).2

/-! ### The halt (R513) -/

/-- The registers that say the device has halted, and the alert. -/
def haltShown (d : Dev) (die : Nat) : Dev :=
  alert (wr (wr (wr d .safetyStatusHalted 0 1) .safetyStatusHaltCause 0 0xFD) .safetyStatusHaltDie 0 die) 1

theorem halt_eq (d : Dev) (die : Nat) (l : Bool) : halt d die l =
    if !l then wr (wr (haltShown d die) .hlStatusMod0 0 0) .hlStatusMod1 0 0 else faultEvent (haltShown d die) 0 die 0xFD 23 9 0 0 := rfl

theorem besideRegs_haltShown (d : Dev) (die : Nat) : besideRegs (haltShown d die) = besideRegs d := by
  simp only [haltShown, besideRegs_alert, besideRegs_wr]

theorem haltShown_shows (d : Dev) {die : Nat} (h : die < 256) : rd (haltShown d die) .safetyStatusHalted 0 = 1 ∧
    rd (haltShown d die) .safetyStatusHaltCause 0 = 0xFD ∧ rd (haltShown d die) .safetyStatusHaltDie 0 = die := by
  unfold haltShown alert
  simp (disch := decide) only [rd_wr_plain_ne, rd_wr_self]
  exact ⟨rfl, rfl, Nat.mod_eq_of_lt h⟩

def haltFlds : List (Fld × Nat) := [(.safetyStatusHalted, 0), (.safetyStatusHaltCause, 0), (.safetyStatusHaltDie, 0), (.mgmtAlertPending, 0)]

theorem onlyRegs_haltShown (d : Dev) (die : Nat) : onlyRegs d (haltShown d die) haltFlds := by
  refine onlyRegs_wr (onlyRegs_wr (onlyRegs_wr (onlyRegs_wr (onlyRegs_refl d _) ?_) ?_) ?_) ?_ <;> simp [haltFlds]

/-- The Laurel die works: the event is sent. -/
theorem halt_reported (d : Dev) {die : Nat} (h : die < 256) : isSet (halt d die true) .safetyStatusHalted 0 = true ∧
    rd (halt d die true) .safetyStatusHaltCause 0 = 0xFD ∧ rd (halt d die true) .safetyStatusHaltDie 0 = die ∧
    (halt d die true).hl.entries.length = d.hl.entries.length + 1 ∧
    keepsRegs d (halt d die true) ([(.safetyStatusHalted, 0), (.safetyStatusHaltCause, 0), (.safetyStatusHaltDie, 0), (.mgmtAlertPending, 0),
      (.safetyFaultSeq, 0)] ++ (List.range 4).map fun i => (.safetyLastRecord, i)) := by
  obtain ⟨h1, h2, h3⟩ := haltShown_shows d h
  have hr : ∀ f, f ∈ [Fld.safetyStatusHalted, .safetyStatusHaltCause, .safetyStatusHaltDie] →
      rd (halt d die true) f 0 = rd (haltShown d die) f 0 := fun f hf => by
    have hn : ∀ f ∈ [Fld.safetyStatusHalted, .safetyStatusHaltCause, .safetyStatusHaltDie],
      .safetyFaultSeq ∉ votedWith f ∧ .safetyLastRecord ∉ votedWith f := by decide
    exact rd_safetyEvent _ _ _ _ _ _ _ _ _ _ _ f 0 (hn f hf).1 (hn f hf).2
  refine ⟨?_, (hr _ (by simp)).trans h2, (hr _ (by simp)).trans h3, ?_, fun f i hfi => ?_⟩
  · rw [isSet, hr _ (by simp), h1]
    rfl
  · rw [halt_eq]
    exact (length_entries_faultEvent (haltShown d die) ..).trans (congrArg (·.entries.length + 1) (hl_of_onlyRegs (onlyRegs_haltShown d die)))
  · refine (keepsRegs_faultEvent (haltShown d die) _ _ _ _ _ _ _ f i fun x hx => hfi x ?_).trans
      ((onlyRegs_haltShown d die).2 f i fun x hx => hfi x ?_)
    · rcases List.mem_cons.1 hx with rfl | hx
      · simp
      · exact List.mem_append_right _ hx
    · exact List.mem_append_left _ (List.mem_append_left [(Fld.safetyFaultSeq, 0)] hx)

/-- The Laurel die is what fails: both host links are down, nothing is sent. -/
theorem halt_silent (d : Dev) {die : Nat} (h : die < 256) : isSet (halt d die false) .safetyStatusHalted 0 = true ∧
    rd (halt d die false) .safetyStatusHaltCause 0 = 0xFD ∧ rd (halt d die false) .safetyStatusHaltDie 0 = die ∧
    rd (halt d die false) .hlStatusMod0 0 = 0 ∧ rd (halt d die false) .hlStatusMod1 0 = 0 ∧
    onlyRegs d (halt d die false) (haltFlds ++ [(.hlStatusMod0, 0), (.hlStatusMod1, 0)]) := by
  obtain ⟨h1, h2, h3⟩ := haltShown_shows d h
  rw [halt_eq, Bool.not_false, if_pos rfl]
  refine ⟨?_, ?_, ?_, ?_, rd_wr_self _ _ _ _ rfl, ?_⟩
  · rw [isSet_wr_ne _ _ rfl (by decide), isSet_wr_ne _ _ rfl (by decide), isSet, h1]
    rfl
  · simp (disch := decide) only [rd_wr_plain_ne, h2]
  · simp (disch := decide) only [rd_wr_plain_ne, h3]
  · rw [rd_wr_plain_ne _ _ _ _ rfl (by decide)]
    exact rd_wr_self _ _ _ _ rfl
  · refine onlyRegs_wr (onlyRegs_wr (onlyRegs_mono (onlyRegs_haltShown d die) (List.subset_append_left ..)) ?_) ?_ <;> simp

/-! ### A channel's failure (R549) -/

theorem channelFail_spec (d : Dev) (c : Nat) : rd (channelFail d c) .memoryDdrStatState c = 3 ∧
    keepsRegs d (channelFail d c) [(.memoryDdrStatState, c)] ∧ (channelFail d c).hl.entries.length = d.hl.entries.length + 1 := by
  refine ⟨(rd_channelFail ..).trans (rd_wr_self _ _ _ _ rfl), keepsRegs_of_rd (keepsRegs_wr (keepsRegs_refl d _) (.head _)) (rd_channelFail d c), ?_⟩
  unfold channelFail memEvent
  dsimp only
  rw [entries_postEq, part_of_besideRegs (besideRegs_wr ..) (·.hl.entries) fun _ => rfl, List.length_append]
  rfl

/-! ### The obligation -/

/-- Settles O59: a pass in which every vote holds repairs entry by entry; the failures are an event after their mark. -/
theorem failures : Obligations.Failures := by
  refine ⟨fun s hp hb => ⟨_, answers_act (n := "VOTE_SCRUB") rfl ?_, fun hv => ?_⟩, fun d f i hf hl => ?_, fun s k hk hr hu => ?_, fun s q hq hr hu => ?_,
    fun s die hdie hr => ?_, fun s hp => ?_, fun s m hm hp hst => ?_⟩
  · simp [hp, hb]
  · obtain ⟨hs, hall⟩ := scrubbed_fields votedFlds (List.Subset.refl _) hv
    refine ⟨?_, ?_, fun f hf i v hm hlt => ?_, fun hagree => ?_⟩
    · rw [voteScrub, rd_bump_self _ _ _ _ rfl, hs.passes]
      rfl
    · rw [voteScrub, part_of_besideRegs (besideRegs_bump ..) Dev.hl fun _ => rfl, hs.hl]
    · rw [voteScrub, bump, copies_wr_ne _ _ (.inl (votedFlds_spec f hf).2.2.2), hall f hf i v hlt hm]
    · rw [voteScrub_agreed hagree]
      exact onlyRegs_bump (onlyRegs_refl _ _) (.head _)
  · have ht : ∀ d, voteTreat d f i = d := fun d => by
      simp only [List.mem_cons, List.not_mem_nil, or_false] at hf
      rcases hf with rfl | rfl | rfl
      · rfl
      · rfl
      · rfl
    refine ⟨fun hm => (scrubVote_lost hl).trans (if_pos hm), fun hm => ?_⟩
    rw [scrubVote_lost hl, if_neg hm]
    exact voteLost_untreated ht
  · obtain ⟨hmem, hlen⟩ := stackFail_rest s.dev k
    exact ⟨_, answers_act (n := "HBM_STACK_FAILURE") rfl (by simp [hk, hr, hu]), unitFailed_stack hmem, hmem, hlen, keepsRegs_stackFail s.dev k⟩
  · exact ⟨_, answers_act (n := "HEDGE_DIE_FAILURE") rfl (by rw [hu, hr, decide_eq_true hq]; rfl), hedgeFail_spec hu⟩
  · rcases hdie with rfl | rfl
    · obtain ⟨h1, h2, h3, h4, h5⟩ := halt_reported s.dev (die := 0) (by decide)
      exact ⟨_, answers_act (n := "DEVICE_HALT") rfl (by simp [hr]), h1, h2, h3, h4, fun _ => h5, fun h => absurd h (by decide)⟩
    · obtain ⟨h1, h2, h3, h4, h5, h6⟩ := halt_silent s.dev (die := 5) (by decide)
      exact ⟨_, answers_act (n := "DEVICE_HALT") rfl (by simp [hr]), h1, h2, h3, congrArg List.length (congrArg (·.entries) (hl_of_onlyRegs h6)),
        fun h => absurd h (by decide), fun _ => ⟨h4, h5, h6⟩⟩
  · obtain ⟨hstage, hhold, hcause⟩ := holdback_shows s.dev (c := 0xFE) (by decide)
    obtain ⟨hboot, hdisp, htr, hbytes, hhost⟩ := holdback_rest s.dev 0xFE
    exact ⟨_, answers_act (n := "LOCKSTEP_MISMATCH") rfl hp, hstage, hcause, hhold, hdisp, htr, hbytes, hboot, hhost⟩
  · exact ⟨_, answers_act (n := "MODULE_OVER_POWER") rfl (by simp [hm, hp, hst]), channelFail_spec s.dev (m / 2)⟩

end Sys2Proof.Machine
end


section
/-!
Coppice states, PLLs, tolerances, limits, the power controller and the guards (R481, R483 to R486, R489 to R492), and O57.
-/
namespace Sys2Proof.Machine

/-! ### Bytes that are gone -/

theorem find?_filter_keys {α : Type} (m : KMap α) (p : Nat → Bool) (k : Nat) :
    find? (m.filter fun e => p e.1) k = if p k then find? m k else none := by
  induction m with
  | nil => exact (ite_self none).symm
  | cons e t ih =>
    obtain ⟨j, v⟩ := e
    by_cases hj : p j = true
    · rw [List.filter_cons_of_pos (by exact hj)]
      unfold find?
      by_cases hkj : k = j
      · rw [if_pos hkj, if_pos hkj, hkj, if_pos hj]
      · rw [if_neg hkj, if_neg hkj, ih]
    · rw [List.filter_cons_of_neg (by exact hj), ih]
      by_cases hkj : k = j
      · rw [hkj, if_neg hj, if_neg hj]
      · rw [show find? ((j, v) :: t) k = find? t k from if_neg hkj]

/-- Bytes none of which is listed read zero. -/
theorem readSparse_zeros (m : KMap Byte) (a n : Nat) (h : ∀ x, a ≤ x → x < a + n → find? m x = none) : readSparse m a n = List.replicate n 0 := by
  induction n generalizing a with
  | zero => rfl
  | succ n ih =>
    rw [readSparse, List.replicate_succ, ih (a + 1) fun x h1 h2 => h x (by omega) (by omega), getD, h a (by omega) (by omega)]
    rfl

theorem find?_zeroScratch {d : Dev} {t x : Nat} (h1 : spAddr t 0 ≤ x) (h2 : x < spAddr t spBytes) : find? (zeroScratch d t).mem.bytes x = none := by
  refine (find?_filter_keys d.mem.bytes (fun a => decide (a < spAddr t 0 ∨ spAddr t spBytes ≤ a)) x).trans (if_neg ?_)
  simp only [decide_eq_true_eq]
  omega

/-- A scratchpad of zero words. -/
theorem getBytes_zeroScratch (d : Dev) (t : Nat) {o n : Nat} (h : o + n ≤ spBytes) : getBytes (zeroScratch d t) (spAddr t o) n = List.replicate n 0 :=
  readSparse_zeros _ _ _ fun x h1 h2 => find?_zeroScratch (by unfold spAddr at *; omega) (by unfold spAddr at *; omega)

/-! ### States of the domains (R483, R485) -/

theorem stateAllowed_le {d : Dev} {m : Domain} {x : Nat} (h : stateAllowed d m x = true) : x ≤ 4 := by
  cases m with
  | tile t =>
    have := of_decide_eq_true h
    split at this <;> omega
  | spare s => exact of_decide_eq_true h
  | hedge q => exact of_decide_eq_true h
  | laurel =>
    have := of_decide_eq_true h
    omega
  | mesh =>
    simp only [stateAllowed, Bool.or_eq_true, decide_eq_true_eq, Bool.and_eq_true, beq_iff_eq] at h
    omega

theorem domState_setDomState_self (d : Dev) (m : Domain) {x : Nat} (h : x ≤ 4) : domState (setDomState d m x) m = x := by
  have hm : x % 2 ^ 3 = x := Nat.mod_eq_of_lt (by omega)
  cases m with
  | tile t => exact (rd_wr_self _ _ _ _ rfl).trans hm
  | spare s => exact getD_putD_self ..
  | hedge q => exact (rd_wr_self _ _ _ _ rfl).trans hm
  | laurel => exact (rd_wr_self _ _ _ _ rfl).trans hm
  | mesh => exact (rd_wr_self _ _ _ _ rfl).trans hm

/-- The registers that show the domains' states. -/
def stateFlds : List Fld := [.powerTileState, .powerHedgeState, .powerLaurelState, .powerMeshState]

/-- The register entry that shows a domain's state; a spare's is shown by none. -/
def stateEntry : Domain → Option (Fld × Nat)
  | .tile t => some (.powerTileState, t)
  | .spare _ => none
  | .hedge q => some (.powerHedgeState, q)
  | .laurel => some (.powerLaurelState, 0)
  | .mesh => some (.powerMeshState, 0)

theorem domState_entry {m : Domain} {x : Fld × Nat} (h : stateEntry m = some x) (d : Dev) : domState d m = rd d x.1 x.2 := by
  cases m with
  | spare s => cases h
  | tile t => cases h; rfl
  | hedge q => cases h; rfl
  | laurel => cases h; rfl
  | mesh => cases h; rfl

theorem setDomState_entry {m : Domain} {x : Fld × Nat} (h : stateEntry m = some x) (d : Dev) (v : Nat) : setDomState d m v = wr d x.1 x.2 v := by
  cases m with
  | spare s => cases h
  | tile t => cases h; rfl
  | hedge q => cases h; rfl
  | laurel => cases h; rfl
  | mesh => cases h; rfl

theorem stateEntry_inj {m n : Domain} {x : Fld × Nat} (hm : stateEntry m = some x) (hn : stateEntry n = some x) : m = n := by
  cases m <;> cases hm <;> cases n <;> cases hn <;> rfl

theorem stateEntry_mem {m : Domain} {x : Fld × Nat} (h : stateEntry m = some x) : x.1 ∈ stateFlds ∧ x.1.info.voted = false := by
  have hv : ∀ f ∈ stateFlds, f.info.voted = false := by decide
  have hx : x.1 ∈ stateFlds := by cases m <;> cases h <;> simp [stateFlds]
  exact ⟨hx, hv _ hx⟩

theorem stateEntry_of_mem {m : Domain} (h : m ∈ domains) : ∃ x, stateEntry m = some x := by
  cases m with
  | spare s => simp [domains] at h
  | tile t => exact ⟨_, rfl⟩
  | hedge q => exact ⟨_, rfl⟩
  | laurel => exact ⟨_, rfl⟩
  | mesh => exact ⟨_, rfl⟩

theorem domState_setDomState_ne {m n : Domain} {x y : Fld × Nat} (hm : stateEntry m = some x) (hn : stateEntry n = some y) (h : m ≠ n) (d : Dev)
    (v : Nat) : domState (setDomState d n v) m = domState d m := by
  rw [domState_entry hm, domState_entry hm, setDomState_entry hn]
  refine rd_wr_ne d v (stateEntry_mem hm).2 ?_
  by_cases hf : x.1 = y.1
  · exact .inr fun hi => h (stateEntry_inj hm (hn.trans (congrArg some (Prod.ext hf hi).symm)))
  · exact .inl hf

/-! ### What a tolerance depends on (R484) -/

/-- From `d` to `e` only states of domains and what is waking change. -/
structure StatesOnly (d e : Dev) : Prop where
  regs : ∀ f i, f ∉ stateFlds → rd e f i = rd d f i
  votes : ∀ f i, f ∉ stateFlds → voteHolds e f i = voteHolds d f i
  coll : e.coll = d.coll

theorem StatesOnly.refl (d : Dev) : StatesOnly d d := ⟨fun _ _ _ => rfl, fun _ _ _ => rfl, rfl⟩

theorem StatesOnly.trans {a b c : Dev} (h : StatesOnly a b) (k : StatesOnly b c) : StatesOnly a c :=
  ⟨fun f i hf => (k.regs f i hf).trans (h.regs f i hf), fun f i hf => (k.votes f i hf).trans (h.votes f i hf), k.coll.trans h.coll⟩

section
variable {d e : Dev} (h : StatesOnly d e)
include h

theorem StatesOnly.partTolerance_eq (p : Nat) : partTolerance e p = partTolerance d p := by
  have h1 := fun i => h.regs .ringCfgPartition i (by decide)
  have h2 := fun i => h.regs .ringStateState i (by decide)
  have h3 := fun i => h.regs .powerRingLtr i (by decide)
  have h4 := fun i => h.regs .powerPartLtr i (by decide)
  have h5 := fun i => h.votes .ringCfgPartition i (by decide)
  unfold partTolerance ringOwned
  simp only [h1, h2, h3, h4, h5]

theorem StatesOnly.tolerance_eq (m : Domain) : tolerance e m = tolerance d m := by
  have h1 := fun i => h.regs .ringCfgPartition i (by decide)
  have h2 := fun i => h.regs .ringStateState i (by decide)
  have h3 := fun i => h.regs .partCountQps i (by decide)
  have h4 := fun i => h.regs .dispatchHomeCfgQueueMax i (by decide)
  have h5 := fun i => h.votes .ringCfgPartition i (by decide)
  have h6 := fun i => h.regs .tileOwnerAssigned i (by decide)
  have h7 := fun i => h.regs .tileOwnerPartition i (by decide)
  have h8 := fun i => h.regs .yewSealStatusSealed i (by decide)
  have h9 := fun i => h.regs .partSealCfgHedge i (by decide)
  have hp := funext h.partTolerance_eq
  have hm : usesMemory e = usesMemory d := funext fun p => by
    unfold usesMemory tilesOf tileOwner ringOwned isSet
    simp only [h1, h2, h3, h5, h6, h7]
  have hl : usesLaurel e = usesLaurel d := funext fun p => by
    unfold usesLaurel
    simp only [h3, h4, h.coll]
  unfold tolerance tileOwner sealedNow isSet
  simp only [h6, h7, h8, h9, hp, hm, hl]

theorem StatesOnly.tolerates_eq (m : Domain) : tolerates e m = tolerates d m := funext fun s => by
  unfold tolerates
  rw [h.tolerance_eq]

end

theorem statesOnly_setDomState {m : Domain} {x : Fld × Nat} (hm : stateEntry m = some x) (d : Dev) (v : Nat) : StatesOnly d (setDomState d m v) := by
  obtain ⟨hx, hv⟩ := stateEntry_mem hm
  rw [setDomState_entry hm]
  have hne : ∀ f, f ∉ stateFlds → f ≠ x.1 := fun f hf e => hf (e ▸ hx)
  refine ⟨fun f i hf => rd_wr_plain_ne _ _ _ _ hv (hne f hf), fun f i hf => ?_, part_of_besideRegs (besideRegs_wr ..) Dev.coll fun _ => rfl⟩
  unfold voteHolds
  rw [copies_wr_ne d v (.inl (hne f hf))]

theorem statesOnly_wake (d : Dev) (m : Domain) : StatesOnly d (wake d m) := by
  refine ⟨fun f i _ => rd_wake .., fun f i _ => ?_, ?_⟩
  · rw [wake_eq]
    rfl
  · rw [wake_eq]

/-! ### A tolerance that shrinks (R486) -/

/-- The state the shallower search ends in is tolerated. -/
theorem tolerates_shallower (d : Dev) (m : Domain) (s : Nat) : tolerates d m (shallower d m s) = true := by
  have h0 : tolerates d m 0 = true := by
    unfold tolerates
    split
    · rfl
    · exact decide_eq_true (Nat.zero_le _)
  induction s with
  | zero => exact h0
  | succ s ih =>
    unfold shallower
    split
    · rename_i h
      exact (Bool.and_eq_true_iff.1 h).2
    · exact ih

theorem shallower_lt (d : Dev) (m : Domain) (s : Nat) : shallower d m s ≤ s := by
  induction s with
  | zero => exact Nat.le_refl 0
  | succ s ih =>
    unfold shallower
    split
    · exact Nat.le_succ s
    · exact ih.trans (Nat.le_succ s)

theorem waking_wake {d : Dev} {m : Domain} (h : domState d m ≠ 0) : (wake d m).pwr.waking.contains m = true := by
  unfold wake
  split
  · rename_i hc
    simpa [h] using hc
  · simp [onPwr]

theorem waking_wake_of {d : Dev} {m : Domain} (n : Domain) (h : d.pwr.waking.contains m = true) : (wake d n).pwr.waking.contains m = true := by
  unfold wake
  split
  · exact h
  · simpa [onPwr] using .inr (by simpa using h)

/-- What a domain does about its tolerance: it stays, it wakes, or it moves to a state that its tolerance allows. -/
theorem relax_cases (d : Dev) (m : Domain) :
    ((domState d m = 0 ∨ tolerates d m (domState d m) = true) ∧ relax d m = d) ∨
    (domState d m ≠ 0 ∧ relax d m = wake d m) ∨
    ∃ n, n ≤ domState d m ∧ tolerates d m n = true ∧ tolerates d m (domState d m) = false ∧ relax d m = setDomState d m n := by
  unfold relax
  dsimp only
  split
  · rename_i h
    exact .inl ⟨h, rfl⟩
  · rename_i h
    obtain ⟨h0, ht⟩ := not_or.1 h
    split
    · exact .inr (.inl ⟨h0, rfl⟩)
    · exact .inr (.inr ⟨_, shallower_lt .., tolerates_shallower .., Bool.eq_false_iff.2 ht, rfl⟩)

theorem statesOnly_relax {d : Dev} {m : Domain} {x : Fld × Nat} (hm : stateEntry m = some x) : StatesOnly d (relax d m) := by
  rcases relax_cases d m with ⟨-, e⟩ | ⟨-, e⟩ | ⟨n, -, -, -, e⟩
  · rw [e]
    exact .refl d
  · rw [e]
    exact statesOnly_wake d m
  · rw [e]
    exact statesOnly_setDomState hm d n

theorem domState_wake {m : Domain} {x : Fld × Nat} (hm : stateEntry m = some x) (d : Dev) (n : Domain) : domState (wake d n) m = domState d m := by
  rw [domState_entry hm, domState_entry hm, rd_wake]

theorem domState_relax_ne {m n : Domain} {x y : Fld × Nat} (hm : stateEntry m = some x) (hn : stateEntry n = some y) (h : m ≠ n) (d : Dev) :
    domState (relax d n) m = domState d m := by
  rcases relax_cases d n with ⟨-, e⟩ | ⟨-, e⟩ | ⟨v, -, -, -, e⟩
  · rw [e]
  · rw [e, domState_wake hm]
  · rw [e, domState_setDomState_ne hm hn h]

theorem waking_relax {m n : Domain} {y : Fld × Nat} (hn : stateEntry n = some y) {d : Dev} (h : d.pwr.waking.contains m = true) :
    (relax d n).pwr.waking.contains m = true := by
  rcases relax_cases d n with ⟨-, e⟩ | ⟨-, e⟩ | ⟨v, -, -, -, e⟩
  · rw [e]
    exact h
  · rw [e]
    exact waking_wake_of n h
  · rw [e, setDomState_entry hn, part_of_besideRegs (besideRegs_wr ..) Dev.pwr fun _ => rfl]
    exact h

/-- A domain whose state is tolerated stays in it. -/
theorem relax_stays {d : Dev} {m : Domain} (h : tolerates d m (domState d m) = true) : relax d m = d := by
  unfold relax
  exact if_pos (.inr h)

/-- Whether a domain meets its tolerance: it is on its way to CS0, or its state may be left in time. -/
def meetsTolerance (d : Dev) (m : Domain) : Prop := d.pwr.waking.contains m = true ∨ tolerates d m (domState d m) = true

theorem meetsTolerance_relax {d : Dev} {m : Domain} (hle : domState d m ≤ 4) {x : Fld × Nat} (hm : stateEntry m = some x) :
    meetsTolerance (relax d m) m := by
  rcases relax_cases d m with ⟨h, e⟩ | ⟨h, e⟩ | ⟨n, hn, ht, -, e⟩
  · rw [e]
    rcases h with h | h
    · refine .inr ?_
      rw [h]
      exact tolerates_shallower d m 0
    · exact .inr h
  · rw [e]
    exact .inl (waking_wake h)
  · rw [e]
    refine .inr ?_
    rw [domState_setDomState_self d m (hn.trans hle), (statesOnly_setDomState hm d n).tolerates_eq]
    exact ht

/-- A pass over domains. -/
theorem relax_foldl (l : List Domain) (hl : l ⊆ domains) (d : Dev) : StatesOnly d (l.foldl relax d) ∧
    (∀ m ∈ domains, tolerates d m (domState d m) = true → domState (l.foldl relax d) m = domState d m) ∧
    (∀ m ∈ domains, meetsTolerance d m → meetsTolerance (l.foldl relax d) m) ∧
    ∀ m ∈ l, domState d m ≤ 4 → meetsTolerance (l.foldl relax d) m := by
  induction l generalizing d with
  | nil => exact ⟨.refl d, fun _ _ _ => rfl, fun _ _ h => h, fun _ h => absurd h List.not_mem_nil⟩
  | cons n t ih =>
    obtain ⟨y, hn⟩ := stateEntry_of_mem (hl (.head _))
    obtain ⟨hs, hstay, hmeet, hin⟩ := ih (fun x hx => hl (.tail _ hx)) (relax d n)
    have hso := statesOnly_relax hn (d := d)
    have hdom : ∀ m ∈ domains, tolerates d m (domState d m) = true → domState (relax d n) m = domState d m := fun m hm ht => by
      obtain ⟨x, hx⟩ := stateEntry_of_mem hm
      by_cases e : m = n
      · rw [← e, relax_stays ht]
      · exact domState_relax_ne hx hn e d
    have hmeets : ∀ m ∈ domains, meetsTolerance d m → meetsTolerance (relax d n) m := fun m hm h => by
      rcases h with h | h
      · exact .inl (waking_relax hn h)
      · refine .inr ?_
        rw [hso.tolerates_eq, hdom m hm h]
        exact h
    refine ⟨hso.trans hs, fun m hm ht => ?_, fun m hm h => hmeet m hm (hmeets m hm h), fun m hm hle => ?_⟩
    · refine (hstay m hm ?_).trans (hdom m hm ht)
      rw [hso.tolerates_eq, hdom m hm ht]
      exact ht
    · rcases List.mem_cons.1 hm with rfl | hmt
      · exact hmeet m (hl (.head _)) (meetsTolerance_relax hle hn)
      · by_cases e : m = n
        · rw [e] at hle ⊢
          exact hmeet n (hl (.head _)) (meetsTolerance_relax hle hn)
        · obtain ⟨x, hx⟩ := stateEntry_of_mem (hl hm)
          exact hin m hmt (by rw [domState_relax_ne hx hn e]; exact hle)

/-- What a pass after a tolerance write leaves of the write and of the states. -/
theorem relaxAll_spec (s : Dev) {f : Fld} (hf : f ∉ stateFlds ∧ f.info.voted = false ∧ f.info.width = 32) (i v : Nat) :
    rd (domains.foldl relax (wr s f i v)) f i = v % 2 ^ 32 ∧
    (∀ m ∈ domains, tolerates (wr s f i v) m (domState s m) = true → domState (domains.foldl relax (wr s f i v)) m = domState s m) ∧
    (∀ m ∈ domains, domState s m ≤ 4 → tolerates (wr s f i v) m (domState s m) = false →
      (domains.foldl relax (wr s f i v)).pwr.waking.contains m = true ∨
      tolerates (wr s f i v) m (domState (domains.foldl relax (wr s f i v)) m) = true) := by
  obtain ⟨hnot, hplain, hwidth⟩ := hf
  obtain ⟨hs, hstay, -, hin⟩ := relax_foldl domains (List.Subset.refl _) (wr s f i v)
  have hdom : ∀ m ∈ domains, domState (wr s f i v) m = domState s m := fun m hm => by
    obtain ⟨x, hx⟩ := stateEntry_of_mem hm
    have hne : x.1 ≠ f := fun e => hnot (e ▸ (stateEntry_mem hx).1)
    rw [domState_entry hx, domState_entry hx, rd_wr_plain_ne _ _ _ _ hplain hne]
  refine ⟨?_, fun m hm ht => ?_, fun m hm hle _ => ?_⟩
  · rw [hs.regs f i hnot, rd_wr_self _ _ _ _ hplain, hwidth]
  · rw [hstay m hm (by rw [hdom m hm]; exact ht), hdom m hm]
  · have := hin m hm (by rw [hdom m hm]; exact hle)
    rw [meetsTolerance, hs.tolerates_eq] at this
    exact this

/-! ### Entry, exit and PLLs (R481, R483, R485) -/

theorem exitDone_spec (d : Dev) (m : Domain) : domState (exitDone d m) m = 0 ∧ (exitDone d m).pwr.waking.contains m = false ∧
    { exitDone d m with pwr := d.pwr } = { setDomState d m 0 with pwr := d.pwr } := by
  refine ⟨?_, by simp [exitDone, onPwr], rfl⟩
  have h := domState_setDomState_self d m (x := 0) (by decide)
  cases m with
  | spare s => exact h
  | tile t => exact h
  | hedge q => exact h
  | laurel => exact h
  | mesh => exact h

theorem mem_hedgeFail (d : Dev) (q : Nat) : q ∈ (hedgeFail d q).mem.hedgeFailed := by
  by_cases h : d.mem.hedgeFailed.contains q = true
  · have he : hedgeFail d q = d := if_pos h
    rw [he]
    simpa using h
  · rw [(hedgeFail_spec (by simpa using h)).1]
    exact .head _

/-- The third time a PLL fails to start is a fault of what it clocks. -/
theorem pllFailed_spec (d : Dev) (m : Domain) : (∀ q, m = .hedge q → q ∈ (pllFailed d m).mem.hedgeFailed) ∧
    (m = .laurel ∨ m = .mesh → isSet (pllFailed d m) .safetyStatusHalted 0 = true ∧
      rd (pllFailed d m) .safetyStatusHaltDie 0 = if m = .laurel then 5 else 0) := by
  refine ⟨fun q hq => ?_, fun hm => ?_⟩
  · rw [hq]
    exact mem_hedgeFail _ q
  · rcases hm with rfl | rfl
    · obtain ⟨hh, -, hd, -⟩ := halt_reported (powerEvent (onPwr d fun p => { p with
        pllFails := del p.pllFails (pllOf d .laurel), waking := p.waking.filter (· ≠ .laurel) }) 0 0xAB noSource) (die := 5) (by decide)
      exact ⟨hh, hd⟩
    · obtain ⟨hh, -, hd, -⟩ := halt_reported (powerEvent (onPwr d fun p => { p with
        pllFails := del p.pllFails (pllOf d .mesh), waking := p.waking.filter (· ≠ .mesh) }) 0 0xAB noSource) (die := 0) (by decide)
      exact ⟨hh, hd⟩

/-! ### Limits (R492) -/

@[simp] theorem rd_powerEvent (d : Dev) (p c n : Nat) (f : Fld) (i : Nat) : rd (powerEvent d p c n) f i = rd d f i := rfl

theorem length_entries_powerEvent (d : Dev) (p c n : Nat) : (powerEvent d p c n).hl.entries.length = d.hl.entries.length + 1 := by
  rw [powerEvent, entries_postEq, List.length_append]
  rfl

theorem limitRefused_spec (d : Dev) (p : Nat) : rd (limitRefused d p) .powerRefusals 0 = (rd d .powerRefusals 0 + 1) % 2 ^ 32 ∧
    keepsRegs d (limitRefused d p) [(.powerRefusals, 0)] ∧ (limitRefused d p).hl.entries.length = d.hl.entries.length + 1 := by
  refine ⟨(rd_powerEvent ..).trans (rd_bump_self _ _ _ _ rfl),
    keepsRegs_of_rd (keepsRegs_wr (keepsRegs_refl d _) (.head _)) fun f i => rd_powerEvent .., ?_⟩
  rw [limitRefused, length_entries_powerEvent, part_of_besideRegs (besideRegs_bump ..) (·.hl.entries) fun _ => rfl]

theorem rd_sealDiscard_floor (d d' : Dev) (p : Nat) : rd (sealDiscard d d') .powerSealFloor p = rd d .powerSealFloor p := by
  refine rd_foldl (fun d o => ?_) _ d
  rw [rd_wr_plain_ne _ _ _ _ rfl (by decide), bump, rd_wr_plain_ne _ _ _ _ rfl (by decide)]

theorem sustainedWrite_spec (d : Dev) (v : Nat) :
    let ok := sealedOnes d = [] ∨ budgetOk (wr d .powerLimitSustainedW 0 v) (sealedOnes d) = true
    (ok → rd (sustainedWrite d v) .powerLimitSustainedW 0 = v % 2 ^ 12 ∧ onlyRegs d (sustainedWrite d v) [(.powerLimitSustainedW, 0)]) ∧
    (¬ ok → rd (sustainedWrite d v) .powerRefusals 0 = (rd d .powerRefusals 0 + 1) % 2 ^ 32 ∧
      keepsRegs d (sustainedWrite d v) [(.powerRefusals, 0)] ∧ (sustainedWrite d v).hl.entries.length = d.hl.entries.length + 1) := by
  have hc : ((sealedOnes d).isEmpty || budgetOk (wr d .powerLimitSustainedW 0 v) (sealedOnes d)) = true ↔
      sealedOnes d = [] ∨ budgetOk (wr d .powerLimitSustainedW 0 v) (sealedOnes d) = true := by
    rw [Bool.or_eq_true, List.isEmpty_iff]
  refine ⟨fun hok => ?_, fun hok => ?_⟩
  · have he : sustainedWrite d v = wr d .powerLimitSustainedW 0 v := if_pos (hc.2 hok)
    rw [he]
    exact ⟨rd_wr_self _ _ _ _ rfl, onlyRegs_wr (onlyRegs_refl d _) (.head _)⟩
  · have he : sustainedWrite d v = _ := if_neg (mt hc.1 hok)
    rw [he]
    exact limitRefused_spec (choose d (sealedOnes d).length).2 _

theorem floorWrite_set {d : Dev} {p v : Nat} (h : sealedNow d p = false ∨ sealFloor (wr d .powerSealFloor p v) p ≠ 0 ∧
    budgetOk (wr d .powerSealFloor p v) (sealedOnes d) = true) : floorWrite d p v = wr d .powerSealFloor p v := by
  unfold floorWrite
  dsimp only
  rcases h with h | ⟨h0, hb⟩
  · exact if_pos (by rw [h]; rfl)
  · cases sealedNow d p with
    | false => exact if_pos rfl
    | true => rw [if_neg (by decide), if_neg h0, if_pos hb]

theorem floorWrite_zero {d : Dev} {p v : Nat} (hs : sealedNow d p = true) (h0 : sealFloor (wr d .powerSealFloor p v) p = 0) :
    floorWrite d p v = sealDiscard d (wr d .powerSealFloor p v) := by
  unfold floorWrite
  dsimp only
  rw [if_neg (by rw [hs]; decide), if_pos h0]

theorem floorWrite_refused {d : Dev} {p v : Nat} (hs : sealedNow d p = true) (h0 : sealFloor (wr d .powerSealFloor p v) p ≠ 0)
    (hb : budgetOk (wr d .powerSealFloor p v) (sealedOnes d) = false) : floorWrite d p v = limitRefused d p := by
  unfold floorWrite
  dsimp only
  rw [if_neg (by rw [hs]; decide), if_neg h0, if_neg (by rw [hb]; decide)]

/-! ### Samples (R489) -/

theorem average_congr {d e : Dev} (h : e.pwr.samples = d.pwr.samples) (n : Nat) : average e n = average d n := by
  unfold average
  rw [h]

/-- The device with a sample entered, before its registers show it. -/
def sampleEntered (d : Dev) (mw : Nat) : Dev :=
  onPwr d fun p => { p with samples := (mw :: p.samples).take 1000000, energyNj := (p.energyNj + mw) % 1000000 }

/-- The registers of a sample written one after the other. -/
theorem sampleEffect_eq (d : Dev) (cv ma : Nat) : ∃ b, b = bump (sampleEntered d (cv * ma / 100)) .powerEnergyMj 0 ((d.pwr.energyNj + cv * ma / 100) / 1000000) ∧
    sampleEffect d cv ma =
      wr (wr (wr b .powerInputAvg1msW 0 (average b 1000 / 1000)) .powerInputAvgTauW 0 (average b (tauSamples b) / 1000)) .powerInputVolts 0 cv :=
  ⟨_, rfl, rfl⟩

theorem sampleEffect_spec (d : Dev) (cv ma : Nat) : let e := sampleEffect d cv ma
    e.pwr.samples = (cv * ma / 100 :: d.pwr.samples).take 1000000 ∧ rd e .powerInputVolts 0 = cv % 2 ^ 13 ∧
    rd e .powerInputAvg1msW 0 = average e 1000 / 1000 % 2 ^ 16 ∧ rd e .powerInputAvgTauW 0 = average e (tauSamples d) / 1000 % 2 ^ 16 ∧
    rd e .powerEnergyMj 0 * 1000000 + e.pwr.energyNj =
      ((rd d .powerEnergyMj 0 + (d.pwr.energyNj + cv * ma / 100) / 1000000) % 2 ^ 48) * 1000000 + (d.pwr.energyNj + cv * ma / 100) % 1000000 ∧
    onlyRegs { d with pwr := e.pwr } e [(.powerInputVolts, 0), (.powerInputAvg1msW, 0), (.powerInputAvgTauW, 0), (.powerEnergyMj, 0)] := by
  obtain ⟨b, hb, he⟩ := sampleEffect_eq d cv ma
  intro e
  have hbp : b.pwr = (sampleEntered d (cv * ma / 100)).pwr := by
    rw [hb]
    exact part_of_besideRegs (besideRegs_bump ..) Dev.pwr fun _ => rfl
  have hp : e.pwr = b.pwr := by
    refine part_of_besideRegs ?_ Dev.pwr fun _ => rfl
    simp only [e, he, besideRegs_wr]
  have htau : tauSamples b = tauSamples d := by
    unfold tauSamples
    rw [hb, bump, rd_wr_plain_ne _ _ _ _ rfl (by decide)]
    rfl
  have ha : ∀ n, average e n = average b n := average_congr (congrArg PwrSt.samples hp)
  have hen : rd e .powerEnergyMj 0 = (rd d .powerEnergyMj 0 + (d.pwr.energyNj + cv * ma / 100) / 1000000) % 2 ^ 48 := by
    simp (disch := decide) only [e, he, rd_wr_plain_ne]
    rw [hb]
    exact rd_bump_self _ _ _ _ rfl
  refine ⟨?_, ?_, ?_, ?_, ?_, ?_⟩
  · rw [hp, hbp]
    rfl
  · simp only [e, he]
    exact rd_wr_self _ _ _ _ rfl
  · rw [ha]
    simp (disch := decide) only [e, he, rd_wr_plain_ne]
    exact rd_wr_self _ _ _ _ rfl
  · rw [ha, ← htau]
    simp (disch := decide) only [e, he, rd_wr_plain_ne]
    exact rd_wr_self _ _ _ _ rfl
  · rw [hen, hp, hbp]
    rfl
  · have hpe : { d with pwr := e.pwr } = sampleEntered d (cv * ma / 100) := by
      rw [hp, hbp]
      rfl
    rw [hpe]
    simp only [e, he, hb]
    refine onlyRegs_wr (onlyRegs_wr (onlyRegs_wr (onlyRegs_bump (onlyRegs_refl _ _) ?_) ?_) ?_) ?_ <;> simp

/-! ### The controller (R490) -/

/-- The controller's step, after the time under a cap is counted and before the cap is shown. -/
def controlled (d : Dev) : Dev :=
  let c := if isSet d .powerRateCapping then bump d .powerCapUs 0 10 else d
  let b := wellBelow c
  if overLimit c then capMore c
  else onPwr (if b && c.pwr.below then capLess c else c) fun p => { p with below := b, floorUs := 0, hedgeUs := 0, sealUs := 0 }

/-- The device with the time under a cap counted. -/
def capCounted (d : Dev) : Dev := if isSet d .powerRateCapping then bump d .powerCapUs 0 10 else d

theorem besideRegs_capCounted (d : Dev) : besideRegs (capCounted d) = besideRegs d := by
  unfold capCounted
  split
  · exact besideRegs_bump ..
  · rfl

theorem pwr_capCounted (d : Dev) : (capCounted d).pwr = d.pwr := part_of_besideRegs (besideRegs_capCounted d) Dev.pwr fun _ => rfl

theorem rd_capCounted (d : Dev) {f : Fld} (i : Nat) (hf : f ≠ .powerCapUs) : rd (capCounted d) f i = rd d f i := by
  unfold capCounted
  split
  · exact rd_wr_plain_ne _ _ _ _ rfl hf
  · rfl

theorem tauSamples_capCounted (d : Dev) : tauSamples (capCounted d) = tauSamples d := by
  unfold tauSamples
  rw [rd_capCounted d 0 (by decide)]

theorem average_capCounted (d : Dev) : average (capCounted d) = average d := funext fun n => average_congr (congrArg PwrSt.samples (pwr_capCounted d)) n

theorem sustained_capCounted (d : Dev) : sustained (capCounted d) = sustained d := by
  unfold sustained
  rw [rd_capCounted d 0 (by decide)]

theorem overLimit_capCounted (d : Dev) : overLimit (capCounted d) = overLimit d := by
  unfold overLimit
  rw [average_capCounted, tauSamples_capCounted, sustained_capCounted]

theorem wellBelow_capCounted (d : Dev) : wellBelow (capCounted d) = wellBelow d := by
  unfold wellBelow
  rw [average_capCounted, tauSamples_capCounted, sustained_capCounted]

theorem controlled_eq (d : Dev) : controlled d = if overLimit d then capMore (capCounted d)
    else onPwr (if wellBelow d && d.pwr.below then capLess (capCounted d) else capCounted d) fun p => { p with
      below := wellBelow d, floorUs := 0, hedgeUs := 0, sealUs := 0 } := by
  have h : controlled d = if overLimit (capCounted d) then capMore (capCounted d)
    else onPwr (if wellBelow (capCounted d) && (capCounted d).pwr.below then capLess (capCounted d) else capCounted d) fun p => { p with
      below := wellBelow (capCounted d), floorUs := 0, hedgeUs := 0, sealUs := 0 } := rfl
  rw [h, overLimit_capCounted, wellBelow_capCounted, pwr_capCounted]

theorem controlled_over {d : Dev} (h : overLimit d = true) : controlled d = capMore (capCounted d) := by rw [controlled_eq, if_pos h]

theorem controlled_under {d : Dev} (h : overLimit d = false) : controlled d =
    onPwr (if wellBelow d && d.pwr.below then capLess (capCounted d) else capCounted d) fun p => { p with
      below := wellBelow d, floorUs := 0, hedgeUs := 0, sealUs := 0 } := by rw [controlled_eq, if_neg (by rw [h]; decide)]

/-- The step's end shows the cap and sends an event where it begins or ends. -/
theorem controllerEffect_shows (d : Dev) : (controllerEffect d).pwr = (controlled d).pwr ∧
    ∀ f i, f ≠ .mgmtAlertPending → rd (controllerEffect d) f i = rd (wr (controlled d) .powerRateCapping 0 (bit (capped (controlled d)))) f i := by
  have h : controllerEffect d =
      let x := wr (controlled d) .powerRateCapping 0 (bit (capped (controlled d)))
      if !isSet d .powerRateCapping && capped x then powerEvent (alert x 5) 0 0xA0 noSource
      else if isSet d .powerRateCapping && !capped x then powerEvent x 0 0xA1 noSource
      else x := rfl
  have hp : (wr (controlled d) .powerRateCapping 0 (bit (capped (controlled d)))).pwr = (controlled d).pwr :=
    part_of_besideRegs (besideRegs_wr ..) Dev.pwr fun _ => rfl
  rw [h]
  dsimp only
  split
  · refine ⟨?_, fun f i hf => by rw [rd_powerEvent, alert, rd_wr_plain_ne _ _ _ _ rfl hf]⟩
    rw [powerEvent, postEq_pwr, part_of_besideRegs (besideRegs_alert ..) Dev.pwr fun _ => rfl, hp]
  · split
    · exact ⟨(postEq_pwr ..).trans hp, fun f i _ => rd_powerEvent ..⟩
    · exact ⟨hp, fun f i _ => rfl⟩

theorem capped_congr {d e : Dev} (h : e.pwr.sealDrop = d.pwr.sealDrop) (hs : rd e .powerRateShared 0 = rd d .powerRateShared 0)
    (hh : rd e .powerRateHedge 0 = rd d .powerRateHedge 0) : capped e = capped d := by
  unfold capped
  rw [h, hs, hh]

theorem rd_controllerEffect (d : Dev) {f : Fld} (i : Nat) (ha : f ≠ .mgmtAlertPending) (hc : f ≠ .powerRateCapping) :
    rd (controllerEffect d) f i = rd (controlled d) f i := by
  rw [(controllerEffect_shows d).2 f i ha, rd_wr_plain_ne _ _ _ _ rfl hc]

theorem capping_controllerEffect (d : Dev) : isSet (controllerEffect d) .powerRateCapping 0 = capped (controllerEffect d) := by
  obtain ⟨hp, hr⟩ := controllerEffect_shows d
  rw [capped_congr (congrArg PwrSt.sealDrop hp) (rd_controllerEffect d 0 (by decide) (by decide)) (rd_controllerEffect d 0 (by decide) (by decide)),
    isSet, hr _ _ (by decide), rd_wr_self _ _ _ _ rfl]
  cases capped (controlled d) <;> rfl

/-- Capping more or less touches only the rates and the mark that a floor is broken. -/
theorem rd_lowerSealed (d : Dev) {f : Fld} (i : Nat) (hf : f ≠ .powerRateFloorBroken) : rd (lowerSealed d) f i = rd d f i := by
  unfold lowerSealed
  dsimp only
  split
  · rfl
  · split
    · refine (rd_foldl (fun d p => rd_powerEvent ..) _ _).trans ?_
      rw [rd_wr_plain_ne _ _ _ _ rfl hf, rd_onPwr]
    · rw [rd_wr_plain_ne _ _ _ _ rfl hf, rd_onPwr]

theorem capUs_capMore (d : Dev) : rd (capMore d) .powerCapUs 0 = rd d .powerCapUs 0 := by
  unfold capMore
  dsimp only
  split
  · rw [rd_onPwr, rd_wr_plain_ne _ _ _ _ rfl (by decide), rd_onPwr]
  · split
    · split
      · rw [rd_onPwr, bump, rd_wr_plain_ne _ _ _ _ rfl (by decide), rd_onPwr]
      · rfl
    · split
      · rw [rd_lowerSealed _ _ (by decide)]
        rfl
      · rfl

theorem capUs_capLess (d : Dev) : rd (capLess d) .powerCapUs 0 = rd d .powerCapUs 0 := by
  unfold capLess
  dsimp only
  split
  · split
    · rw [rd_wr_plain_ne _ _ _ _ rfl (by decide), rd_onPwr, rd_choose]
    · rfl
  · split
    · rw [rd_wr_plain_ne _ _ _ _ rfl (by decide), rd_choose]
    · split
      · exact rd_wr_plain_ne _ _ _ _ rfl (by decide)
      · rfl

theorem capUs_controlled (d : Dev) : rd (controlled d) .powerCapUs 0 = rd (capCounted d) .powerCapUs 0 := by
  rw [controlled_eq]
  split
  · exact capUs_capMore _
  · rw [rd_onPwr]
    split
    · exact capUs_capLess _
    · rfl

/-- The first step lowers the shared rate by 4, to no less than 8. -/
theorem capMore_shared {d : Dev} (h : 8 < rd d .powerRateShared 0) : rd (capMore d) .powerRateShared 0 = max 8 (rd d .powerRateShared 0 - 4) % 2 ^ 7 ∧
    rd (capMore d) .powerRateHedge 0 = rd d .powerRateHedge 0 := by
  unfold capMore
  dsimp only
  rw [rd_onPwr, if_pos h, rd_onPwr, rd_onPwr]
  exact ⟨rd_wr_self _ _ _ _ rfl, rd_wr_plain_ne _ _ _ _ rfl (by decide)⟩

/-- The second lowers the Hedge rate every 100 us. -/
theorem capMore_hedge {d : Dev} (h : rd d .powerRateShared 0 ≤ 8) (hh : rd d .powerRateHedge 0 < 3) :
    rd (capMore d) .powerRateShared 0 = rd d .powerRateShared 0 ∧
    rd (capMore d) .powerRateHedge 0 = if 100 ≤ d.pwr.floorUs + 10 then rd d .powerRateHedge 0 + 1 else rd d .powerRateHedge 0 := by
  unfold capMore
  dsimp only
  rw [rd_onPwr, rd_onPwr, if_neg (Nat.not_lt.2 h), if_pos hh]
  by_cases hn : 100 ≤ d.pwr.floorUs + 10
  · have hlt : rd d .powerRateHedge 0 + 1 < 2 ^ 3 := by omega
    rw [if_pos hn, if_pos (by exact hn), rd_onPwr, rd_onPwr]
    exact ⟨rd_wr_plain_ne _ _ _ _ rfl (by decide), (rd_bump_self _ _ _ _ rfl).trans (Nat.mod_eq_of_lt hlt)⟩
  · rw [if_neg hn, if_neg (by exact hn)]
    exact ⟨rfl, rfl⟩

/-- With the last steps taken back, the shared rate rises by 1. -/
theorem capLess_shared {d : Dev} (h : d.pwr.sealDrop = 0) (hh : rd d .powerRateHedge 0 = 0) (hs : rd d .powerRateShared 0 < 64) :
    rd (capLess d) .powerRateShared 0 = rd d .powerRateShared 0 + 1 := by
  have hlt : rd d .powerRateShared 0 + 1 < 2 ^ 7 := by omega
  unfold capLess
  rw [if_neg (by omega), if_neg (by omega), if_pos hs]
  exact (rd_bump_self _ _ _ _ rfl).trans (Nat.mod_eq_of_lt hlt)

theorem controllerEffect_spec (d : Dev) : let e := controllerEffect d
    isSet e .powerRateCapping 0 = capped e ∧
    (isSet d .powerRateCapping 0 = true → rd e .powerCapUs 0 = (rd d .powerCapUs 0 + 10) % 2 ^ 32) ∧
    (overLimit d = true → 8 < rd d .powerRateShared 0 → rd e .powerRateShared 0 = max 8 (rd d .powerRateShared 0 - 4) % 2 ^ 7 ∧
      rd e .powerRateHedge 0 = rd d .powerRateHedge 0) ∧
    (overLimit d = true → rd d .powerRateShared 0 ≤ 8 → rd d .powerRateHedge 0 < 3 → rd e .powerRateShared 0 = rd d .powerRateShared 0 ∧
      rd e .powerRateHedge 0 = if 100 ≤ d.pwr.floorUs + 10 then rd d .powerRateHedge 0 + 1 else rd d .powerRateHedge 0) ∧
    (overLimit d = false → (wellBelow d = false ∨ d.pwr.below = false) → rd e .powerRateShared 0 = rd d .powerRateShared 0 ∧
      rd e .powerRateHedge 0 = rd d .powerRateHedge 0 ∧ e.pwr.sealDrop = d.pwr.sealDrop) ∧
    (overLimit d = false → wellBelow d = true → d.pwr.below = true → d.pwr.sealDrop = 0 → rd d .powerRateHedge 0 = 0 →
      rd d .powerRateShared 0 < 64 → rd e .powerRateShared 0 = rd d .powerRateShared 0 + 1) := by
  intro e
  have hs : rd e .powerRateShared 0 = rd (controlled d) .powerRateShared 0 := rd_controllerEffect d 0 (by decide) (by decide)
  have hh : rd e .powerRateHedge 0 = rd (controlled d) .powerRateHedge 0 := rd_controllerEffect d 0 (by decide) (by decide)
  have hcs := rd_capCounted d (f := .powerRateShared) 0 (by decide)
  have hch := rd_capCounted d (f := .powerRateHedge) 0 (by decide)
  refine ⟨capping_controllerEffect d, fun hc => ?_, fun ho h8 => ?_, fun ho h8 h3 => ?_, fun ho hb => ?_, fun ho hb hb' hz hz' h64 => ?_⟩
  · rw [rd_controllerEffect d 0 (by decide) (by decide), capUs_controlled, capCounted, if_pos hc]
    exact rd_bump_self _ _ _ _ rfl
  · rw [hs, hh, controlled_over ho, ← hcs, ← hch]
    exact capMore_shared (by rw [hcs]; exact h8)
  · rw [hs, hh, controlled_over ho, ← hcs, ← hch, ← pwr_capCounted d]
    exact capMore_hedge (by rw [hcs]; exact h8) (by rw [hch]; exact h3)
  · have hn : (wellBelow d && d.pwr.below) = false := by
      rcases hb with hb | hb
      · rw [hb]
        rfl
      · rw [hb, Bool.and_false]
    have he : e.pwr.sealDrop = (controlled d).pwr.sealDrop := congrArg PwrSt.sealDrop (controllerEffect_shows d).1
    rw [hs, hh, he, controlled_under ho, hn, if_neg Bool.false_ne_true, rd_onPwr, rd_onPwr]
    exact ⟨hcs, hch, (congrArg PwrSt.sealDrop (pwr_capCounted d) :)⟩
  · rw [hs, controlled_under ho, hb, hb', Bool.and_self, if_pos rfl, rd_onPwr, ← hcs]
    exact capLess_shared (by rw [pwr_capCounted]; exact hz) (by rw [hch]; exact hz') (by rw [hcs]; exact h64)

/-! ### The over-current guard (R491) -/

/-- The guard set and the trip counted. -/
def guardCounted (d : Dev) (die : Nat) : Dev := bump (onPwr d fun p => { p with guards := die :: p.guards }) .powerGuardTrips

section
variable (d : Dev) (die : Nat)

theorem besideRegs_guardCounted : besideRegs (guardCounted d die) = besideRegs (onPwr d fun p => { p with guards := die :: p.guards }) :=
  besideRegs_bump ..

theorem guardCounted_rest : (guardCounted d die).pwr = { d.pwr with guards := die :: d.pwr.guards } ∧ (guardCounted d die).hl = d.hl ∧
    (guardCounted d die).upNs = d.upNs :=
  have h := besideRegs_guardCounted d die
  ⟨part_of_besideRegs h Dev.pwr fun _ => rfl, part_of_besideRegs h Dev.hl fun _ => rfl, part_of_besideRegs h Dev.upNs fun _ => rfl⟩

theorem guardTrip_eq : guardTrip d die =
    if d.pwr.guardEvent.all (fun t => decide (d.upNs - t ≥ 1000000)) then
      powerEvent (onPwr (guardCounted d die) fun p => { p with guardEvent := some d.upNs }) 0 0xAA noSource
    else guardCounted d die := by
  obtain ⟨hp, -, hu⟩ := guardCounted_rest d die
  unfold guardTrip
  dsimp only
  rw [show bump (onPwr d fun p => { p with guards := die :: p.guards }) .powerGuardTrips = guardCounted d die from rfl, hp, hu]
  dsimp only
  cases d.pwr.guardEvent with
  | none => rfl
  | some t => rfl

theorem rd_guardTrip (f : Fld) (i : Nat) : rd (guardTrip d die) f i = rd (bump d .powerGuardTrips) f i := by
  rw [guardTrip_eq]
  split
  · rfl
  · rfl

theorem guardTrip_spec : (guardTrip d die).pwr.guards = die :: d.pwr.guards ∧
    (∀ t, d.pwr.guardEvent = some t → d.upNs - t < 1000000 → (guardTrip d die).hl = d.hl) ∧
    (d.pwr.guardEvent = none → (guardTrip d die).hl.entries.length = d.hl.entries.length + 1 ∧ (guardTrip d die).pwr.guardEvent = some d.upNs) := by
  obtain ⟨hp, hh, -⟩ := guardCounted_rest d die
  have hg := congrArg PwrSt.guards hp
  rw [guardTrip_eq]
  refine ⟨?_, fun t ht hlt => ?_, fun hn => ?_⟩
  · split
    · exact hg
    · exact hg
  · rw [ht, Option.all_some, if_neg (by simpa using hlt)]
    exact hh
  · rw [hn, Option.all_none, if_pos rfl, length_entries_powerEvent]
    exact ⟨congrArg (·.entries.length + 1) hh, rfl⟩

end

/-! ### The obligation -/

/-- Settles O57: a pass over the domains keeps each at a state its tolerance allows; the controller's cases are its steps. -/
theorem powerControl : Obligations.PowerControl := by
  unfold Obligations.PowerControl
  refine ⟨fun s m x hr hv hlt ha ht hi hw => ?_, fun s m hw => ⟨?_, fun hr hst => ?_⟩, fun s ring i v hi hd => ?_, fun s v hd => ⟨?_, fun p hp => ?_⟩,
    fun s cv ma hp => ?_, fun s hr => ?_, fun s die => ⟨fun hdie h4 h8 hg => ?_, fun hg => ?_⟩⟩
  · have hself := domState_setDomState_self s.dev m (stateAllowed_le ha)
    refine ⟨_, answers_act (n := "COPPICE_ENTRY") rfl (by simp [hr, hv, hlt, ha, ht, hi]; simpa using hw), ?_, fun h => ?_, fun t hm hx => ?_⟩
    · cases m with
      | tile t =>
        unfold enterState
        dsimp only
        split
        · exact hself
        · exact hself
      | spare k => exact hself
      | hedge q => exact hself
      | laurel => exact hself
      | mesh => exact hself
    · cases m with
      | tile t => exact if_neg (h.resolve_left fun h => h t rfl)
      | spare k => rfl
      | hedge q => rfl
      | laurel => rfl
      | mesh => rfl
    · rw [hm, hx]
      have he : enterState s.dev (.tile t) 4 = zeroScratch (setDomState s.dev (.tile t) 4) t := by
        unfold enterState
        exact if_pos rfl
      rw [he]
      refine ⟨?_, fun o n hon => getBytes_zeroScratch _ t hon⟩
      rw [← part_of_besideRegs (besideRegs_wr s.dev .powerTileState t 4) Dev.mem fun _ => rfl]
      rfl
  · exact ⟨_, answers_act (n := "COPPICE_EXIT_DONE") rfl hw, exitDone_spec s.dev m⟩
  · refine ⟨_, answers_act (n := "PLL_LOCK_TIMEOUT") rfl (by rw [hr, hw, hst]; rfl), fun hn => ?_, fun hn => ?_⟩
    · have he : pllTimeout s.dev m = _ := if_pos (Nat.add_lt_add_right hn 1)
      rw [he]
      exact ⟨rfl, getD_put_self .., rfl⟩
    · have he : pllTimeout s.dev m = _ := if_neg (Nat.not_lt.2 (Nat.add_le_add_right hn 1))
      rw [he]
      exact pllFailed_spec s.dev m
  · have hans : Answers (.ltrWrite ring i v) s (domains.foldl relax (wr s.dev (if ring then .powerRingLtr else .powerPartLtr) i v)) :=
      answers_drv (n := "LTR_WRITE") (e := ltrEffect s.dev ring i v) rfl (decide_eq_true hi) hd
    have hf : (if ring then Fld.powerRingLtr else .powerPartLtr) ∉ stateFlds ∧
        (if ring then Fld.powerRingLtr else .powerPartLtr).info.voted = false ∧ (if ring then Fld.powerRingLtr else .powerPartLtr).info.width = 32 := by
      cases ring
      · decide
      · decide
    exact ⟨_, hans, relaxAll_spec s.dev hf i v⟩
  · intro ok
    obtain ⟨hset, hrefused⟩ := sustainedWrite_spec s.dev v
    refine ⟨sustainedWrite s.dev v, ?_, hset, hrefused⟩
    exact answers_drv (n := "LIMIT_WRITE") (b := true) rfl rfl hd
  · refine ⟨_, answers_drv (n := "LIMIT_WRITE") rfl (decide_eq_true hp) hd, ?_⟩
    intro d
    refine ⟨fun h => ?_, fun hs h0 => ?_, fun hs h0 hb => ?_⟩
    · rw [floorWrite_set h]
      exact ⟨rd_wr_self _ _ _ _ rfl, onlyRegs_wr (onlyRegs_refl _ _) (.head _)⟩
    · rw [floorWrite_zero hs h0]
      exact rd_sealDiscard_floor ..
    · rw [floorWrite_refused hs h0 hb]
      exact ⟨(limitRefused_spec s.dev p).1, (limitRefused_spec s.dev p).2.1⟩
  · exact ⟨_, answers_act (n := "POWER_SAMPLE") rfl hp, sampleEffect_spec s.dev cv ma⟩
  · exact ⟨_, answers_act (n := "CONTROLLER_STEP") rfl hr, controllerEffect_spec s.dev⟩
  · obtain ⟨hguards, hrest⟩ := guardTrip_spec s.dev die
    exact ⟨_, answers_act (n := "OVER_CURRENT_TRIP") rfl (by simp [hdie, h4, h8]; simpa using hg), hguards,
      (rd_guardTrip ..).trans (rd_bump_self _ _ _ _ rfl), keepsRegs_of_rd (keepsRegs_wr (keepsRegs_refl s.dev _) (.head _)) (rd_guardTrip s.dev die),
      hrest⟩
  · exact ⟨_, answers_act (n := "CURRENT_GUARD_RELEASE") rfl hg, by simp [onPwr], rfl⟩

end Sys2Proof.Machine
end


section
/-!
The sequencer's stages from power to RUN or holdback (R460 to R471), and O54.
-/
namespace Sys2Proof.Machine

/-! ### Chains of writes -/

/-- From `d` to `e` only registers of the listed fields are written. -/
structure WritesOnly (l : List Fld) (d e : Dev) : Prop where
  rest : besideRegs e = besideRegs d
  regs : ∀ f i, (∀ g ∈ l, g ∉ votedWith f) → rd e f i = rd d f i

theorem WritesOnly.refl (l : List Fld) (d : Dev) : WritesOnly l d d := ⟨rfl, fun _ _ _ => rfl⟩

section
variable {l : List Fld} {d e : Dev}

theorem WritesOnly.wr (h : WritesOnly l d e) {f : Fld} (hf : f ∈ l) (i v : Nat) : WritesOnly l d (wr e f i v) :=
  ⟨(besideRegs_wr ..).trans h.rest, fun g j hg => (rd_wr_other e v (.inl (hg f hf))).trans (h.regs g j hg)⟩

theorem WritesOnly.foldl {α : Type} {g : Dev → α → Dev} (hg : ∀ d x, WritesOnly l d (g d x)) (h : WritesOnly l d e) (m : List α) :
    WritesOnly l d (m.foldl g e) :=
  ⟨(foldl_keeps besideRegs (fun d x => (hg d x).rest) m e).trans h.rest,
    fun f i hf => (rd_foldl (fun d x => (hg d x).regs f i hf) m e).trans (h.regs f i hf)⟩

theorem WritesOnly.trans {c : Dev} (h : WritesOnly l d e) (k : WritesOnly l e c) : WritesOnly l d c :=
  ⟨k.rest.trans h.rest, fun f i hf => (k.regs f i hf).trans (h.regs f i hf)⟩

theorem WritesOnly.boot (h : WritesOnly l d e) : e.boot = d.boot := part_of_besideRegs h.rest Dev.boot fun _ => rfl

theorem WritesOnly.pwr (h : WritesOnly l d e) : e.pwr = d.pwr := part_of_besideRegs h.rest Dev.pwr fun _ => rfl

theorem WritesOnly.safe (h : WritesOnly l d e) : e.safe = d.safe := part_of_besideRegs h.rest Dev.safe fun _ => rfl

theorem writesOnly_wr {f : Fld} (hf : f ∈ l) (i v : Nat) : WritesOnly l d (Machine.wr d f i v) := (WritesOnly.refl l d).wr hf i v

end

/-- The `k`-th entry of a field, each entry of a range written with its own value. -/
theorem rd_foldl_wr_range {f : Fld} (hf : f.info.voted = false) (v : Nat → Nat) (n : Nat) (d : Dev) {i : Nat} (hi : i < n) :
    rd ((List.range n).foldl (fun d j => wr d f j (v j)) d) f i = v i % 2 ^ f.info.width := by
  induction n with
  | zero => exact absurd hi (Nat.not_lt_zero i)
  | succ n ih =>
    rw [List.range_succ, List.foldl_append, List.foldl_cons, List.foldl_nil]
    by_cases h : i = n
    · rw [h, rd_wr_self _ _ _ _ hf]
    · rw [rd_wr_ne _ _ hf (.inr h), ih (by omega)]

/-! ### Nothing volatile (R460) -/

theorem rd_wiped (d : Dev) (f : Fld) (i : Nat) : rd (wiped d) f i = f.info.reset :=
  (rd_congr (d := wiped d) (e := State.reset.dev) rfl rfl rfl f i).trans (rd_reset f i)

theorem getBytes_wiped (d : Dev) (a n : Nat) : getBytes (wiped d) a n = List.replicate n 0 := readSparse_nil a n

/-! ### The flash -/

theorem flashByte_congr {d e : Dev} (h : e.boot.flash = d.boot.flash) : flashByte e = flashByte d := funext fun a => by
  unfold flashByte
  rw [h]

section
variable {d e : Dev} (h : e.boot.flash = d.boot.flash)
include h

theorem flashBytes_congr : flashBytes e = flashBytes d := by
  unfold flashBytes
  rw [flashByte_congr h]

theorem flashNum_congr : flashNum e = flashNum d := by
  unfold flashNum
  rw [flashBytes_congr h]

theorem imgLength_congr : imgLength e = imgLength d := by
  unfold imgLength
  rw [flashNum_congr h]

theorem measure_congr : Machine.measure e = Machine.measure d := by
  unfold Machine.measure
  rw [flashBytes_congr h, imgLength_congr h]

theorem imgNode_congr : imgNode e = imgNode d := by
  unfold imgNode
  rw [flashNum_congr h]

theorem imgSvn_congr : imgSvn e = imgSvn d := by
  unfold imgSvn
  rw [flashNum_congr h]

theorem sameImage_congr (hr : ∀ i, rd e .bootImageDigest i = rd d .bootImageDigest i) : sameImage e = sameImage d := by
  unfold sameImage
  rw [measure_congr h]
  simp only [hr]

end

/-- A flash command leaves everything but its buffer and the flash. -/
theorem writesOnly_flashRead (d : Dev) (a : Nat → Nat) :
    WritesOnly [.bootFlashBuf] d ((List.range 32).foldl (fun d i => wr d .bootFlashBuf i (flashNum d (a i) 8)) d) :=
  WritesOnly.foldl (fun _ _ => writesOnly_wr (.head _) ..) (.refl ..) _

theorem flashCut_none {d : Dev} (h : d.boot.flashCmd = none) : flashCut d = d := by
  unfold flashCut
  rw [h]

/-! ### Holdback and stages -/

theorem startFails_shows (d : Dev) {c : Nat} (hc : c < 256) : rd (startFails d c) .bootStatusStage 0 = 15 ∧
    isSet (startFails d c) .bootStatusHoldback 0 = true ∧ rd (startFails d c) .bootStatusCause 0 = c := by
  unfold startFails isSet
  rw [rd_onBoot, rd_onBoot, rd_onBoot]
  exact holdback_shows d hc

theorem rd_enterStage (d : Dev) (n m : Nat) {f : Fld} (i : Nat) (hf : f ≠ .bootStatusStage) : rd (enterStage d n m) f i = rd d f i :=
  rd_wr_plain_ne _ _ _ _ rfl hf

theorem enterStage_shows (d : Dev) {n m : Nat} (hn : n < 16) : rd (enterStage d n m) .bootStatusStage 0 = n ∧ (enterStage d n m).boot.due = m :=
  ⟨(rd_wr_self _ _ _ _ rfl).trans (Nat.mod_eq_of_lt hn), rfl⟩

/-- Entering a stage changes the stage and what is due. -/
theorem enterStage_boot (d : Dev) (n m : Nat) : (enterStage d n m).boot = { d.boot with due := m } :=
  congrArg (fun b : BootSt => { b with due := m }) (part_of_besideRegs (besideRegs_wr d .bootStatusStage 0 n) Dev.boot fun _ => rfl)

theorem flash_enterStage (d : Dev) (n m : Nat) : (enterStage d n m).boot.flash = d.boot.flash := by rw [enterStage_boot]

theorem onlyRegs_boot {d e : Dev} {l : List (Fld × Nat)} (h : onlyRegs d e l) (b : BootSt) : onlyRegs { d with boot := b } { e with boot := b } l :=
  ⟨congrArg (fun x : Dev => { x with boot := b }) h.1, fun f i hf => h.2 f i hf⟩

theorem onlyRegs_enterStage (d : Dev) (n m : Nat) : onlyRegs { d with boot := (enterStage d n m).boot } (enterStage d n m) [(.bootStatusStage, 0)] := by
  exact onlyRegs_boot (onlyRegs_wr (onlyRegs_refl d _) (.head _)) (enterStage d n m).boot

theorem powered_of_stageDue {d : Dev} {n : Nat} (h : stageDue d n = true) :
    d.boot.powered = true ∧ rd d .bootStatusStage 0 ≠ 15 ∧ d.boot.due = n := by
  simpa [stageDue, and_assoc] using h

/-! ### Fuses (R465, R469) -/

def ownerFlds : List Fld := [.bootOwnerDigest, .bootOwnerValid, .bootOwnerUsed, .bootSvnFused, .bootStatusOwnerSlot]

theorem writesOnly_showOwners (pm : Perm) (d : Dev) : WritesOnly ownerFlds d (showOwners pm d) := by
  unfold showOwners
  refine ((WritesOnly.foldl (fun d k => ?_) (.refl ..) _).wr (by decide) ..).wr (by decide) ..
  exact ((WritesOnly.foldl (fun _ _ => writesOnly_wr (by decide) ..) (.refl ..) _).wr (by decide) ..).wr (by decide) ..

theorem rd_showOwners_svn (pm : Perm) (d : Dev) : rd (showOwners pm d) .bootSvnFused 0 = pm.svnMin % 2 ^ 6 := by
  unfold showOwners
  rw [rd_wr_plain_ne _ _ _ _ rfl (by decide)]
  exact rd_wr_self _ _ _ _ rfl

def spareFlds : List Fld := [.spareMapUse, .spareMapTile, .sparesFused, .sparesRuntimeLeft]

theorem writesOnly_showSpares (pm : Perm) (d : Dev) : WritesOnly spareFlds d (showSpares pm d) := by
  unfold showSpares
  refine ((WritesOnly.foldl (fun d e => ?_) (.refl ..) _).wr (by decide) ..).wr (by decide) ..
  exact (writesOnly_wr (by decide) ..).wr (by decide) ..

theorem rd_showSpares_fused (pm : Perm) (d : Dev) : rd (showSpares pm d) .sparesFused 0 = (fusedSpares pm).length % 2 ^ 5 := by
  unfold showSpares
  rw [rd_wr_plain_ne _ _ _ _ rfl (by decide)]
  exact rd_wr_self _ _ _ _ rfl

def identFlds : List Fld := [.yewIdentPubkey, .yewIdentCert, .memoryHbmStatFuseRepairs]

/-- The fused values as the registers show them. -/
theorem rd_loadFuses (pm : Perm) (d : Dev) {f : Fld} (i : Nat) (hf : ∀ g ∈ identFlds, g ∉ votedWith f) : rd (loadFuses pm d) f i =
    rd (wr (wr (wr (showSpares pm (showOwners pm d)) .idVariant 0 pm.variant) .deviceIdLow 0 (cut pm.deviceId 0 64)) .deviceIdHigh 0
      (cut pm.deviceId 64 64)) f i := by
  unfold loadFuses
  rw [rd_onMem]
  refine (WritesOnly.foldl (l := identFlds) (fun _ _ => writesOnly_wr (by decide) ..) ?_ _).regs f i hf
  refine WritesOnly.foldl (fun _ _ => writesOnly_wr (by decide) ..) ?_ _
  exact WritesOnly.foldl (fun _ _ => writesOnly_wr (by decide) ..) (.refl ..) _

theorem loadFuses_shows (pm : Perm) (d : Dev) : rd (loadFuses pm d) .bootSvnFused 0 = pm.svnMin % 64 ∧ rd (loadFuses pm d) .idVariant 0 = pm.variant % 4 ∧
    rd (loadFuses pm d) .sparesFused 0 = (fusedSpares pm).length % 32 ∧ rd (loadFuses pm d) .deviceIdLow 0 = pm.deviceId % 2 ^ 64 := by
  refine ⟨?_, ?_, ?_, ?_⟩
  · rw [rd_loadFuses _ _ _ (by decide)]
    simp (disch := decide) only [rd_wr_plain_ne]
    rw [(writesOnly_showSpares pm _).regs _ _ (by decide)]
    exact rd_showOwners_svn ..
  · rw [rd_loadFuses _ _ _ (by decide)]
    simp (disch := decide) only [rd_wr_plain_ne]
    exact rd_wr_self _ _ _ _ rfl
  · rw [rd_loadFuses _ _ _ (by decide)]
    simp (disch := decide) only [rd_wr_plain_ne]
    exact rd_showSpares_fused ..
  · rw [rd_loadFuses _ _ _ (by decide)]
    simp (disch := decide) only [rd_wr_plain_ne]
    refine (rd_wr_self _ _ _ _ rfl).trans ?_
    exact Nat.mod_mod _ _

theorem fusesAfter_cut (pm : Perm) (d : Dev) : (d.boot.fuse = none → fusesCut pm d = (pm, d)) ∧
    (∀ f, d.boot.fuse = some f → ∃ n, n < 3 ∧ fusesCut pm d = (fusesAfter pm f n, (choose d 3).2)) := by
  refine ⟨fun h => ?_, fun f h => ⟨(choose d 3).1, Nat.mod_lt _ (by decide), ?_⟩⟩
  · unfold fusesCut
    rw [h]
  · unfold fusesCut
    rw [h]

theorem fusesCut_dev (pm : Perm) (d : Dev) : (fusesCut pm d).2 = d ∨ (fusesCut pm d).2 = (choose d 3).2 := by
  obtain ⟨hn, hs⟩ := fusesAfter_cut pm d
  cases h : d.boot.fuse with
  | none => exact .inl (congrArg Prod.snd (hn h))
  | some f =>
    obtain ⟨n, -, he⟩ := hs f h
    exact .inr (congrArg Prod.snd he)

/-! ### Verification (R461 to R468) -/

theorem verifyCause_lt (pm : Perm) (d : Dev) (ok : Bool) : verifyCause pm d ok < 256 := by
  unfold verifyCause
  split
  · decide
  · split
    · decide
    · split
      · decide
      · split
        · decide
        · split
          · decide
          · split
            · decide
            · split
              · decide
              · decide

def imageFlds : List Fld := [.bootImageDigest, .bootImageId, .bootSvnImage]

theorem writesOnly_showImage (d : Dev) : WritesOnly imageFlds d (showImage d) := by
  unfold showImage
  refine WritesOnly.wr ?_ (by decide) ..
  refine WritesOnly.foldl (fun _ _ => writesOnly_wr (by decide) ..) ?_ _
  exact WritesOnly.foldl (fun _ _ => writesOnly_wr (by decide) ..) (.refl ..) _

/-- The digest's words are written from the measurement before any register changes. -/
theorem rd_showImage_digest (d : Dev) {i : Nat} (hi : i < 6) : rd (showImage d) .bootImageDigest i = cut (Machine.measure d) (64 * i) 64 := by
  unfold showImage
  rw [rd_wr_plain_ne _ _ _ _ rfl (by decide), rd_foldl fun _ _ => rd_wr_plain_ne _ _ _ _ rfl (by decide),
    rd_foldl_wr_range rfl (fun i => cut (Machine.measure d) (64 * i) 64) 6 d hi]
  exact Nat.mod_eq_of_lt (cut_lt ..)

theorem rd_showImage_svn (d : Dev) : rd (showImage d) .bootSvnImage 0 = imgSvn d % 64 := by
  have hf : ∀ x : Dev, WritesOnly imageFlds d x → rd (wr x .bootSvnImage 0 (imgSvn x)) .bootSvnImage 0 = imgSvn d % 64 := fun x hx => by
    rw [rd_wr_self _ _ _ _ rfl, imgSvn_congr (congrArg BootSt.flash hx.boot)]
    rfl
  unfold showImage
  refine hf _ (WritesOnly.foldl (fun _ _ => writesOnly_wr (by decide) ..) ?_ _)
  exact WritesOnly.foldl (fun _ _ => writesOnly_wr (by decide) ..) (.refl ..) _

/-! ### Cold starts (R478) -/

/-- The registers of a cold start: all at reset, but the trip record, its alert and the kind. -/
theorem coldStart_regs (d : Dev) (k : Nat) :
    rd (coldStart d k) .bootStatusResetKind 0 = k % 4 ∧
    rd (coldStart d k) .powerTripRecordTripped 0 = rd (flashCut d) .powerTripRecordTripped 0 % 2 ∧
    ∀ f i, f ∉ [Fld.bootStatusResetKind, .powerTripRecordTripped, .powerTripRecordPair, .mgmtAlertPending] → rd (coldStart d k) f i = f.info.reset := by
  unfold coldStart
  refine ⟨rd_wr_self _ _ _ _ rfl, ?_, fun f i hf => ?_⟩
  · rw [rd_wr_plain_ne _ _ _ _ rfl (by decide)]
    split
    · rw [alert, rd_wr_plain_ne _ _ _ _ rfl (by decide), rd_wr_plain_ne _ _ _ _ rfl (by decide)]
      exact rd_wr_self _ _ _ _ rfl
    · rw [rd_wr_plain_ne _ _ _ _ rfl (by decide)]
      exact rd_wr_self _ _ _ _ rfl
  · simp only [List.mem_cons, List.not_mem_nil, or_false, not_or] at hf
    obtain ⟨h1, h2, h3, h4⟩ := hf
    rw [rd_wr_plain_ne _ _ _ _ rfl h1]
    split
    · rw [alert, rd_wr_plain_ne _ _ _ _ rfl h4, rd_wr_plain_ne _ _ _ _ rfl h3, rd_wr_plain_ne _ _ _ _ rfl h2, rd_onBoot, rd_wiped]
    · rw [rd_wr_plain_ne _ _ _ _ rfl h3, rd_wr_plain_ne _ _ _ _ rfl h2, rd_onBoot, rd_wiped]

theorem besideRegs_coldStart (d : Dev) (k : Nat) : besideRegs (coldStart d k) =
    besideRegs (onBoot (wiped (flashCut d)) fun b => { b with powered := true, due := 1, startNs := (flashCut d).upNs }) := by
  unfold coldStart
  dsimp only
  rw [besideRegs_wr]
  split
  · rw [besideRegs_alert, besideRegs_wr, besideRegs_wr]
    rfl
  · rw [besideRegs_wr, besideRegs_wr]
    rfl

theorem coldStart_boot (d : Dev) (k : Nat) : (coldStart d k).boot =
    { flash := (flashCut d).boot.flash, powered := true, due := 1, startNs := (flashCut d).upNs } :=
  part_of_besideRegs (besideRegs_coldStart d k) Dev.boot fun _ => rfl

theorem getBytes_coldStart (d : Dev) (k a n : Nat) : getBytes (coldStart d k) a n = List.replicate n 0 := by
  unfold getBytes
  rw [part_of_besideRegs (besideRegs_coldStart d k) (·.mem.bytes) fun _ => rfl]
  exact readSparse_nil a n

theorem coldReset_free {d : Dev} {k : Nat} (hp : d.boot.powered = true) (hf : d.boot.fuse = none) :
    coldReset d k = if tripHeld d then onPwr d fun p => { p with heldReset := p.heldReset.orElse fun _ => some k } else coldStart d k := by
  unfold coldReset
  rw [hp, hf]
  rfl

theorem WritesOnly.tripHeld_eq {l : List Fld} {d e : Dev} (h : WritesOnly l d e) (hl : ∀ g ∈ l, ∀ f ∈ [Fld.bootStatusStage, .bootStatusCause,
    .powerSensorValid, .powerSensorTemp, .powerThermalTripC], g ∉ votedWith f) : tripHeld e = tripHeld d := by
  have hr : ∀ f ∈ [Fld.bootStatusStage, .bootStatusCause, .powerSensorValid, .powerSensorTemp, .powerThermalTripC], ∀ i, rd e f i = rd d f i :=
    fun f hf i => h.regs f i fun g hg => hl g hg f hf
  have h1 := hr .bootStatusStage (by decide)
  have h2 := hr .bootStatusCause (by decide)
  have h3 := hr .powerSensorValid (by decide)
  have h4 := hr .powerSensorTemp (by decide)
  have h5 := hr .powerThermalTripC (by decide)
  unfold tripHeld cooled allBelow reading tripC isSet
  simp only [h1, h2, h3, h4, h5]

/-! ### Rails (R467, R469) -/

/-- The device with its fuse changes made: the owners as fused then. -/
theorem fusesDone_dev (pm : Perm) (d : Dev) : ∃ x, WritesOnly ownerFlds d x ∧ (fusesDone pm d).2 = onBoot x (fun b => { b with fuse := none }) ∧
    (d.boot.fuse = none → x = d) := by
  unfold fusesDone
  cases h : d.boot.fuse with
  | none =>
    have hd : onBoot d (fun b => { b with fuse := none }) = d := by
      unfold onBoot
      rw [← h]
    exact ⟨d, .refl .., hd.symm, fun _ => rfl⟩
  | some f => exact ⟨_, writesOnly_showOwners .., rfl, fun h => by cases h⟩

theorem fusesDone_perm (pm : Perm) (d : Dev) : (d.boot.fuse = none → (fusesDone pm d).1 = pm) ∧
    ∀ f, d.boot.fuse = some f → (fusesDone pm d).1 = fusesAfter pm f 2 := by
  refine ⟨fun h => ?_, fun f h => ?_⟩
  · unfold fusesDone
    rw [h]
  · unfold fusesDone
    rw [h]

/-- The device with nothing left to do for its fuses or the reset that waited for them. -/
def railsReady (x : Dev) : Dev := onBoot (onBoot x fun b => { b with fuse := none }) fun b => { b with coldAfter := none }

theorem railsEffect_none {x : Dev} (h : x.boot.coldAfter = none) :
    railsEffect (onBoot x fun b => { b with fuse := none }) =
      if rd x .bootStatusStage 0 = 15 then onBoot x fun b => { b with fuse := none } else enterStage (onBoot x fun b => { b with fuse := none }) 3 4 := by
  have hc : (onBoot x fun b => { b with fuse := none }).boot.coldAfter = none := h
  unfold railsEffect
  rw [hc]
  rfl

theorem railsEffect_some {x : Dev} {k : Nat} (h : x.boot.coldAfter = some k) (hp : x.boot.powered = true) :
    railsEffect (onBoot x fun b => { b with fuse := none }) =
      if tripHeld x then onPwr (railsReady x) fun p => { p with heldReset := p.heldReset.orElse fun _ => some k } else coldStart (railsReady x) k := by
  have hc : (onBoot x fun b => { b with fuse := none }).boot.coldAfter = some k := h
  unfold railsEffect
  rw [hc]
  exact coldReset_free (d := railsReady x) hp rfl

theorem fuse_railsEffect {x : Dev} (hp : x.boot.powered = true) : (railsEffect (onBoot x fun b => { b with fuse := none })).boot.fuse = none := by
  cases h : x.boot.coldAfter with
  | none =>
    rw [railsEffect_none h]
    split
    · rfl
    · rw [enterStage_boot]
      rfl
  | some k =>
    rw [railsEffect_some h hp]
    split
    · rfl
    · rw [coldStart_boot]

/-! ### Dies (R44, R469, R509) -/

theorem writesOnly_defaultRoutes (d : Dev) : WritesOnly [.meshLinkStatusUp, .meshRouteTable] d (defaultRoutes d) := by
  unfold defaultRoutes
  refine WritesOnly.foldl (fun d k => ?_) ?_ _
  · exact WritesOnly.foldl (fun _ _ => writesOnly_wr (by decide) ..) (.refl ..) _
  · exact WritesOnly.foldl (fun _ _ => writesOnly_wr (by decide) ..) (.refl ..) _

/-- The device whose dies have come up, before its bad tiles are seen to. -/
def diesRouted (d : Dev) : Dev := if d.boot.warm then d else defaultRoutes d

theorem writesOnly_diesRouted (d : Dev) : WritesOnly [.meshLinkStatusUp, .meshRouteTable] d (diesRouted d) := by
  unfold diesRouted
  split
  · exact .refl ..
  · exact writesOnly_defaultRoutes d

theorem tileFailedBit_diesRouted (d : Dev) (t : Nat) : tileFailedBit (diesRouted d) t = tileFailedBit d t := by
  unfold tileFailedBit
  rw [(writesOnly_diesRouted d).regs _ _ (by decide)]

theorem spareFree_diesRouted (d : Dev) (t : Nat) : spareFree (diesRouted d) t = spareFree d t := by
  unfold spareFree
  rw [(writesOnly_diesRouted d).regs _ _ (by decide), (writesOnly_diesRouted d).safe]

section
variable {d : Dev} {t : Nat} (ht : t < tiles) (hn : tileFailedBit d t = false)
include ht hn

/-- A good spare stands in for a bad tile. -/
theorem badTile_replaced (h : (!d.boot.warm && spareFree d t) = true) : badTile d t = putInService d (spareOf t) t := by
  unfold badTile
  rw [if_neg (not_or.2 ⟨Nat.not_le.2 ht, by rw [hn]; decide⟩), if_pos h]

theorem badTile_failed (h : (!d.boot.warm && spareFree d t) = false) : tileFailedBit (badTile d t) t = true := by
  unfold badTile
  rw [if_neg (not_or.2 ⟨Nat.not_le.2 ht, by rw [hn]; decide⟩), if_neg (by rw [h]; decide)]
  unfold tileFailedBit bitOf
  rw [rd_wr_self _ _ _ _ rfl, show Fld.safetyTileFailed.info.width = 64 from rfl, Nat.testBit_mod_two_pow]
  simp [Nat.mod_lt]

end

/-- The spare map of a tile whose spare is put into service. -/
theorem putInService_maps (d : Dev) {t : Nat} (ht : t < tiles) : rd (putInService d (spareOf t) t) .spareMapUse (spareOf t) = 2 ∧
    rd (putInService d (spareOf t) t) .spareMapTile (spareOf t) = t := by
  rw [rd_putInService _ _ _ (by decide), rd_putInService _ _ _ (by decide), rd_wr_plain_ne _ _ _ _ rfl (by decide)]
  exact ⟨rd_wr_self _ _ _ _ rfl, (rd_wr_self _ _ _ _ rfl).trans (Nat.mod_eq_of_lt (lt_trans ht (by decide)))⟩

/-! ### The second read, and bring-up (R189, R468 to R470) -/

def channelFlds : List Fld := [.memoryDdrStatModules, .memoryDdrStatState, .memoryDdrStatSpeed]

/-- Reading a channel leaves another channel's entries. -/
theorem rd_readChannel_ne (l : List DimmPair) (d : Dev) {c i : Nat} (h : i ≠ c) {f : Fld} (hf : f ∈ channelFlds) :
    rd (readChannel l d c) f i = rd d f i := by
  have hch : ∀ f ∈ channelFlds, f.info.voted = false ∧ f ≠ .memoryDdrCfgRefused ∧ f ≠ .memoryDdrCfgUsed := by decide
  obtain ⟨hv, hr, hu⟩ := hch f hf
  unfold readChannel
  dsimp only
  split
  · exact rd_wr_ne _ _ hv (.inr h)
  · split
    · rw [rd_wr_plain_ne _ _ _ _ rfl hr, rd_wr_ne _ _ hv (.inr h), rd_wr_ne _ _ hv (.inr h)]
    · rw [rd_onMem, rd_wr_plain_ne _ _ _ _ rfl hu, rd_wr_ne _ _ hv (.inr h), rd_wr_ne _ _ hv (.inr h), rd_wr_ne _ _ hv (.inr h)]

theorem speedCode_lt (n : Nat) : speedCode n < 8 := by
  unfold speedCode
  split
  · decide
  · split
    · decide
    · split
      · decide
      · split
        · decide
        · decide

/-- What a channel shows once it is read. -/
def channelShown (l : List DimmPair) (d : Dev) (c : Nat) : Prop :=
  rd d .memoryDdrStatModules c = (dimmsOf l c).length % 4 ∧
  (dimmsOf l c ≠ [] → dimmsRefused (dimmsOf l c) = true → rd d .memoryDdrStatState c = 2) ∧
  (dimmsOf l c ≠ [] → dimmsRefused (dimmsOf l c) = false → rd d .memoryDdrStatState c = 1 ∧
    rd d .memoryDdrStatSpeed c = speedCode (((dimmsOf l c).map (·.speed)).foldl min 8000))

theorem channelShown_congr {l : List DimmPair} {d e : Dev} {c : Nat} (h : ∀ f ∈ channelFlds, rd e f c = rd d f c) (hs : channelShown l d c) :
    channelShown l e c := by
  unfold channelShown
  rw [h _ (by decide), h _ (by decide), h _ (by decide)]
  exact hs

theorem channelShown_readChannel (l : List DimmPair) (d : Dev) (c : Nat) : channelShown l (readChannel l d c) c := by
  unfold channelShown readChannel
  dsimp only
  by_cases he : dimmsOf l c = []
  · rw [he]
    exact ⟨rd_wr_self _ _ _ _ rfl, fun h => absurd rfl h, fun h => absurd rfl h⟩
  · have hemp : (dimmsOf l c).isEmpty = false := by simpa using he
    rw [hemp, if_neg Bool.false_ne_true]
    cases hr : dimmsRefused (dimmsOf l c) with
    | true =>
      rw [if_pos rfl]
      refine ⟨?_, fun _ _ => ?_, fun _ h => absurd h (by decide)⟩
      · rw [rd_wr_plain_ne _ _ _ _ rfl (by decide), rd_wr_plain_ne _ _ _ _ rfl (by decide)]
        exact rd_wr_self _ _ _ _ rfl
      · rw [rd_wr_plain_ne _ _ _ _ rfl (by decide)]
        exact rd_wr_self _ _ _ _ rfl
    | false =>
      rw [if_neg Bool.false_ne_true]
      refine ⟨?_, fun _ h => absurd h (by decide), fun _ _ => ⟨?_, ?_⟩⟩
      · simp (disch := decide) only [rd_onMem, rd_wr_plain_ne]
        exact rd_wr_self _ _ _ _ rfl
      · simp (disch := decide) only [rd_onMem, rd_wr_plain_ne]
        exact rd_wr_self _ _ _ _ rfl
      · simp (disch := decide) only [rd_onMem, rd_wr_plain_ne]
        exact (rd_wr_self _ _ _ _ rfl).trans (Nat.mod_eq_of_lt (speedCode_lt _))

theorem channelShown_all (l : List DimmPair) (d : Dev) (n : Nat) {c : Nat} (hc : c < n) : channelShown l ((List.range n).foldl (readChannel l) d) c := by
  induction n with
  | zero => exact absurd hc (Nat.not_lt_zero c)
  | succ n ih =>
    rw [List.range_succ, List.foldl_append, List.foldl_cons, List.foldl_nil]
    by_cases h : c = n
    · rw [h]
      exact channelShown_readChannel ..
    · exact channelShown_congr (fun f hf => rd_readChannel_ne _ _ h hf) (ih (by omega))

theorem writesOnly_layTier (d : Dev) : WritesOnly [.memoryDdrCapTotalGib, .memoryDdrCapInterleavedGib] d (layTier d) := by
  unfold layTier
  exact WritesOnly.wr (WritesOnly.wr (.refl ..) (by decide) ..) (by decide) ..

theorem channelShown_bringup {d : Dev} (hw : d.boot.warm = false) (l : List DimmPair) {c : Nat} (hc : c < 8) : channelShown l (bringup d l) c := by
  have hch : ∀ f ∈ channelFlds, f ≠ .bootStatusStage ∧ ∀ g ∈ [Fld.memoryDdrCapTotalGib, .memoryDdrCapInterleavedGib], g ∉ votedWith f := by decide
  refine channelShown_congr (fun f hf => ?_) (channelShown_all l d 8 hc)
  unfold bringup seek
  rw [hw, rd_onBoot, rd_onBoot, rd_enterStage _ _ _ _ (hch f hf).1, if_neg Bool.false_ne_true, (writesOnly_layTier _).regs f c (hch f hf).2]

theorem bringup_boot (d : Dev) (l : List DimmPair) : rd (bringup d l) .bootStatusStage 0 = 6 ∧ (bringup d l).boot.due = 8 ∧ (bringup d l).boot.done = [] := by
  unfold bringup seek
  rw [rd_onBoot, rd_onBoot]
  exact ⟨(enterStage_shows _ (by decide)).1, rfl, rfl⟩

/-! ### Parts (R468, R470) -/

theorem channelFail_boot (d : Dev) (c : Nat) : (channelFail d c).boot = d.boot :=
  part_of_besideRegs (besideRegs_wr d .memoryDdrStatState c 3) Dev.boot fun _ => rfl

/-- How each part of bring-up ends. -/
theorem partEnds_spec (d : Dev) (u : BringUnit) (ok : Bool) :
    (ok = true ∧ (u = .preload → sameImage d = true) ∨ u = .optics → (partEnds d u ok).boot.done = u :: d.boot.done ∧
      { partEnds d u ok with boot := d.boot } = d) ∧
    (∀ k, u = .hbm k → ok = false → rd (partEnds d u ok) .bootStatusStage 0 = 15 ∧ rd (partEnds d u ok) .bootStatusCause 0 = 0xF8) ∧
    (∀ c, u = .ddr c → ok = false → rd (partEnds d u ok) .memoryDdrStatState c = 3 ∧ (partEnds d u ok).boot.done = u :: d.boot.done) ∧
    (u = .preload → ok = false ∨ sameImage d = false → rd (partEnds d u ok) .bootStatusStage 0 = 15 ∧ rd (partEnds d u ok) .bootStatusCause 0 = 0xF5) := by
  refine ⟨fun h => ?_, fun k hk hok => ?_, fun c hc hok => ?_, fun hu h => ?_⟩
  · have he : partEnds d u ok = onBoot d fun b => { b with done := u :: b.done } := by
      rcases h with ⟨rfl, h⟩ | rfl
      · cases u with
        | hbm k => rfl
        | ddr c => rfl
        | optics => rfl
        | preload =>
          have hc : (true && sameImage d) = true := by
            rw [h rfl]
            rfl
          unfold partEnds
          dsimp only
          rw [if_pos hc]
      · rfl
    rw [he]
    exact ⟨rfl, rfl⟩
  · subst hk hok
    obtain ⟨h1, -, h3⟩ := startFails_shows d (c := 0xF8) (by decide)
    exact ⟨h1, h3⟩
  · subst hc hok
    refine ⟨(channelFail_spec (onBoot d fun b => { b with done := .ddr c :: b.done }) c).1, ?_⟩
    exact congrArg BootSt.done (channelFail_boot (onBoot d fun b => { b with done := .ddr c :: b.done }) c)
  · subst hu
    have he : partEnds d .preload ok = startFails d 0xF5 := by
      refine if_neg ?_
      rcases h with h | h
      · rw [h, Bool.false_and]
        decide
      · rw [h, Bool.and_false]
        decide
    obtain ⟨h1, -, h3⟩ := startFails_shows d (c := 0xF5) (by decide)
    rw [he]
    exact ⟨h1, h3⟩

/-- The device as it enters RUN. -/
def running (d : Dev) : Dev :=
  onBoot (wr (enterStage d 8 0) .bootStartUs 0 ((d.upNs - d.boot.startNs) / 1000)) fun b => { b with warm := false, done := [], recAt := 0 }

theorem running_spec (d : Dev) : serving (running d) = true ∧ (running d).boot.warm = false ∧
    rd (running d) .bootStartUs 0 = (d.upNs - d.boot.startNs) / 1000 % 2 ^ 32 ∧
    onlyRegs { d with boot := (running d).boot } (running d) [(.bootStatusStage, 0), (.bootStartUs, 0)] := by
  refine ⟨?_, rfl, ?_, ?_⟩
  · unfold serving running
    rw [rd_onBoot, rd_wr_plain_ne _ _ _ _ rfl (by decide), (enterStage_shows d (by decide)).1]
    rfl
  · unfold running
    rw [rd_onBoot]
    exact rd_wr_self _ _ _ _ rfl
  · have h := onlyRegs_mono (onlyRegs_enterStage d 8 0) (List.cons_subset_cons (Fld.bootStatusStage, 0) (List.nil_subset [(Fld.bootStartUs, 0)]))
    exact onlyRegs_boot (onlyRegs_wr h (.tail _ (.head _))) (running d).boot

/-- What the self-tests leave of a single bad tile. -/
theorem diesUp_spec (d : Dev) (bad : List Nat) :
    (bad = [] → d.boot.warm = true → onlyRegs { d with boot := (enterStage (diesUp d bad) 4 5).boot } (enterStage (diesUp d bad) 4 5) [(.bootStatusStage, 0)]) ∧
    ∀ t, bad = [t] → t < tiles → tileFailedBit d t = false →
      (d.boot.warm = false → spareFree d t = true → rd (enterStage (diesUp d bad) 4 5) .spareMapUse (spareOf t) = 2 ∧
        rd (enterStage (diesUp d bad) 4 5) .spareMapTile (spareOf t) = t) ∧
      (d.boot.warm = true ∨ spareFree d t = false → tileFailedBit (enterStage (diesUp d bad) 4 5) t = true) := by
  have he : diesUp d bad = bad.foldl badTile (diesRouted d) := rfl
  rw [he]
  refine ⟨fun hb hw => ?_, fun t hb ht hn => ⟨fun hw hs => ?_, fun h => ?_⟩⟩
  · have hd : diesRouted d = d := if_pos hw
    rw [hb, List.foldl_nil, hd]
    exact onlyRegs_enterStage d 4 5
  · have hspare : (!(diesRouted d).boot.warm && spareFree (diesRouted d) t) = true := by
      rw [(writesOnly_diesRouted d).boot, spareFree_diesRouted, hw, hs]
      rfl
    rw [hb, List.foldl_cons, List.foldl_nil, badTile_replaced ht (by rw [tileFailedBit_diesRouted]; exact hn) hspare,
      rd_enterStage _ _ _ _ (by decide), rd_enterStage _ _ _ _ (by decide)]
    exact putInService_maps _ ht
  · have hspare : (!(diesRouted d).boot.warm && spareFree (diesRouted d) t) = false := by
      rw [(writesOnly_diesRouted d).boot, spareFree_diesRouted]
      rcases h with h | h
      · rw [h]
        rfl
      · rw [h, Bool.and_false]
    have hf := badTile_failed ht (by rw [tileFailedBit_diesRouted]; exact hn) hspare
    rw [hb, List.foldl_cons, List.foldl_nil]
    unfold tileFailedBit at hf ⊢
    rw [rd_enterStage _ _ _ _ (by decide)]
    exact hf

/-! ### The sequencer's own commands -/

theorem exec_verify_fails {s : State} (hd : stageDue s.dev 2 = true) {ok : Bool} (hc : verifyCause s.perm s.dev ok ≠ 0) :
    exec (.verify ok) s = .next { s with dev := startFails s.dev (verifyCause s.perm s.dev ok) } :=
  (if_pos hd).trans (if_pos hc)

theorem exec_verify_passes {s : State} (hd : stageDue s.dev 2 = true) {ok : Bool} (hc : verifyCause s.perm s.dev ok = 0) :
    exec (.verify ok) s = .next { s with perm := (verified s.perm s.dev).1, dev := (verified s.perm s.dev).2 } :=
  (if_pos hd).trans (if_neg (not_not.2 hc))

theorem verified_cold {pm : Perm} {d : Dev} (hw : d.boot.warm = false) : verified pm d =
    (markUsed pm (fuseWrites pm d), onBoot (enterStage (showImage d) 2 3) fun b => { b with fuse := fuseWrites pm d }) := by
  unfold verified
  rw [hw]
  rfl

theorem verified_warm {pm : Perm} {d : Dev} (hw : d.boot.warm = true) : verified pm d =
    if imgInterleave d ≠ rd d .memoryHbmCfgInterleave 0 ∨ imgNode d ≠ rd d .meshNodeId 0 then (pm, coldStart d 1)
    else (pm, enterStage (showImage d) 2 4) := by
  unfold verified
  exact if_pos hw

theorem exec_verify_spec {s : State} (hd : stageDue s.dev 2 = true) (ok : Bool) : ∃ t, exec (.verify ok) s = .next t ∧ t.pending = s.pending ∧
    (verifyCause s.perm s.dev ok ≠ 0 → t.perm = s.perm ∧ rd t.dev .bootStatusStage 0 = 15 ∧ isSet t.dev .bootStatusHoldback 0 = true ∧
      rd t.dev .bootStatusCause 0 = verifyCause s.perm s.dev ok) ∧
    (verifyCause s.perm s.dev ok = 0 → s.dev.boot.warm = false → rd t.dev .bootStatusStage 0 = 2 ∧ t.dev.boot.due = 3 ∧
      t.dev.boot.fuse = fuseWrites s.perm s.dev ∧ t.perm = markUsed s.perm (fuseWrites s.perm s.dev) ∧
      (∀ i, i < 6 → rd t.dev .bootImageDigest i = cut (Machine.measure s.dev) (64 * i) 64) ∧ rd t.dev .bootSvnImage 0 = imgSvn s.dev % 64) ∧
    (verifyCause s.perm s.dev ok = 0 → s.dev.boot.warm = true → t.perm = s.perm ∧
      (imgInterleave s.dev = rd s.dev .memoryHbmCfgInterleave 0 → imgNode s.dev = rd s.dev .meshNodeId 0 →
        rd t.dev .bootStatusStage 0 = 2 ∧ t.dev.boot.due = 4) ∧
      (imgInterleave s.dev ≠ rd s.dev .memoryHbmCfgInterleave 0 ∨ imgNode s.dev ≠ rd s.dev .meshNodeId 0 →
        t.dev.boot.due = 1 ∧ rd t.dev .bootStatusResetKind 0 = 1)) := by
  by_cases hc : verifyCause s.perm s.dev ok = 0
  · refine ⟨_, exec_verify_passes hd hc, rfl, fun h => absurd hc h, fun _ hw => ?_, fun _ hw => ?_⟩
    · rw [verified_cold hw]
      dsimp only
      rw [rd_onBoot]
      refine ⟨(enterStage_shows (showImage s.dev) (by decide)).1, rfl, rfl, rfl, fun i hi => ?_, ?_⟩
      · rw [rd_onBoot, rd_enterStage _ _ _ _ (by decide)]
        exact rd_showImage_digest s.dev hi
      · rw [rd_onBoot, rd_enterStage _ _ _ _ (by decide)]
        exact rd_showImage_svn s.dev
    · rw [verified_warm hw]
      refine ⟨?_, fun hi hn => ?_, fun h => ?_⟩
      · split
        · rfl
        · rfl
      · rw [if_neg (not_or.2 ⟨not_not.2 hi, not_not.2 hn⟩)]
        dsimp only
        exact enterStage_shows (showImage s.dev) (by decide)
      · rw [if_pos h]
        dsimp only
        exact ⟨congrArg BootSt.due (coldStart_boot s.dev 1), (coldStart_regs s.dev 1).1⟩
  · obtain ⟨h1, h2, h3⟩ := startFails_shows s.dev (verifyCause_lt s.perm s.dev ok)
    exact ⟨_, exec_verify_fails hd hc, rfl, fun _ => ⟨rfl, h1, h2, h3⟩, fun h => absurd h hc, fun h => absurd h hc⟩

theorem exec_rails_spec {s : State} (hd : stageDue s.dev 3 = true ∨ s.dev.boot.powered = true ∧ s.dev.boot.fuse.isSome = true) :
    ∃ t, exec .rails s = .next t ∧
    t.pending = s.pending ∧ t.dev.boot.fuse = none ∧ (s.dev.boot.fuse = none → t.perm = s.perm) ∧
    (∀ f, s.dev.boot.fuse = some f → t.perm = fusesAfter s.perm f 2) ∧
    (s.dev.boot.coldAfter = none → rd s.dev .bootStatusStage 0 ≠ 15 → rd t.dev .bootStatusStage 0 = 3 ∧ t.dev.boot.due = 4 ∧
      (s.dev.boot.fuse = none → onlyRegs { s.dev with boot := t.dev.boot } t.dev [(.bootStatusStage, 0)])) ∧
    (s.dev.boot.coldAfter = none → rd s.dev .bootStatusStage 0 = 15 → rd t.dev .bootStatusStage 0 = 15 ∧ t.dev.boot.due = s.dev.boot.due) ∧
    (∀ k, s.dev.boot.coldAfter = some k → tripHeld s.dev = false → t.dev.boot.due = 1 ∧ rd t.dev .bootStatusStage 0 = 0 ∧
      rd t.dev .bootStatusResetKind 0 = k % 4) ∧
    (∀ k, s.dev.boot.coldAfter = some k → tripHeld s.dev = true → t.dev.pwr.heldReset = some (s.dev.pwr.heldReset.getD k)) := by
  have hpow : s.dev.boot.powered = true := hd.elim (fun h => (powered_of_stageDue h).1) fun h => h.1
  have hif : (stageDue s.dev 3 || s.dev.boot.powered && s.dev.boot.fuse.isSome) = true := by
    rcases hd with h | ⟨hp, hf⟩
    · rw [h]
      rfl
    · rw [hp, hf, Bool.and_self, Bool.or_true]
  have hexec : exec .rails s = .next { s with perm := (fusesDone s.perm s.dev).1, dev := railsEffect (fusesDone s.perm s.dev).2 } := if_pos hif
  obtain ⟨hnone, hsome⟩ := fusesDone_perm s.perm s.dev
  obtain ⟨x, hx, hfd, hsame⟩ := fusesDone_dev s.perm s.dev
  have hboot := hx.boot
  have hstage : rd x .bootStatusStage 0 = rd s.dev .bootStatusStage 0 := hx.regs _ _ (by decide)
  have htrip : tripHeld x = tripHeld s.dev := hx.tripHeld_eq (by decide)
  have hpx : x.boot.powered = true := by rw [hboot]; exact hpow
  rw [hfd] at hexec
  refine ⟨_, hexec, rfl, fuse_railsEffect hpx, hnone, hsome, fun hc hst => ?_, fun hc hst => ?_, fun k hc ht => ?_, fun k hc ht => ?_⟩
  · have he := railsEffect_none (x := x) (by rw [hboot]; exact hc)
    rw [hstage, if_neg hst] at he
    dsimp only
    rw [he]
    refine ⟨(enterStage_shows _ (by decide)).1, (enterStage_shows _ (by decide)).2, fun hf => ?_⟩
    rw [hsame hf]
    exact onlyRegs_enterStage (onBoot s.dev fun b => { b with fuse := none }) 3 4
  · have he := railsEffect_none (x := x) (by rw [hboot]; exact hc)
    rw [hstage, if_pos hst] at he
    dsimp only
    rw [he, rd_onBoot]
    exact ⟨hstage.trans hst, (congrArg BootSt.due hboot :)⟩
  · have he := railsEffect_some (x := x) (by rw [hboot]; exact hc) hpx
    rw [htrip, ht, if_neg Bool.false_ne_true] at he
    dsimp only
    rw [he]
    obtain ⟨h1, -, h3⟩ := coldStart_regs (railsReady x) k
    exact ⟨congrArg BootSt.due (coldStart_boot ..), h3 _ 0 (by decide), h1⟩
  · have he := railsEffect_some (x := x) (by rw [hboot]; exact hc) hpx
    rw [htrip, ht, if_pos rfl] at he
    dsimp only
    rw [he]
    have hp : (railsReady x).pwr = s.dev.pwr := hx.pwr
    show (railsReady x).pwr.heldReset.orElse (fun _ => some k) = _
    rw [hp]
    cases s.dev.pwr.heldReset with
    | none => rfl
    | some j => rfl

/-! ### The obligation -/

/-- Settles O54: stage by stage, from the frames of what each stage writes. -/
theorem startUp : Obligations.StartUp := by
  unfold Obligations.StartUp
  refine ⟨fun s hp => ?_, fun s hp => ?_, fun s hd => ?_, fun s ok hd => ?_, fun pm d => ?_, fun s hd => ?_, fun s f hd => ⟨fun x hx hlt => ?_, fun hf => ?_⟩,
    fun s same hd => ?_, fun s l hd => ?_, fun s u ok hr => ?_, fun s hr => ?_, fun s ho => ?_⟩
  · refine ⟨_, answers_act (n := "POWER_ON") rfl (by simp [hp]), rfl, rfl, rfl, rfl, fun f i => ?_, getBytes_wiped s.dev⟩
    exact (rd_onBoot ..).trans (rd_wiped s.dev f i)
  · obtain ⟨hn, hs⟩ := fusesAfter_cut s.perm s.dev
    refine ⟨_, if_pos hp, rfl, rfl, rd_wiped _, getBytes_wiped _, fun hf => ?_, fun hf => congrArg Prod.fst (hn hf), fun f hf => ?_⟩
    · have hboot : (fusesCut s.perm s.dev).2.boot = s.dev.boot := by
        rcases fusesCut_dev s.perm s.dev with h | h
        · rw [h]
        · rw [h, choose_boot]
      show (flashCut (fusesCut s.perm s.dev).2).boot.flash = s.dev.boot.flash
      rw [flashCut_none (by rw [hboot]; exact hf), hboot]
    · obtain ⟨n, hlt, he⟩ := hs f hf
      exact ⟨n, hlt, congrArg Prod.fst he⟩
  · obtain ⟨h1, h2, h3, h4⟩ := loadFuses_shows s.perm s.dev
    obtain ⟨hst, hdue⟩ := enterStage_shows (loadFuses s.perm s.dev) (n := 1) (m := 2) (by decide)
    refine ⟨_, answers_act (n := "FUSES") rfl hd, hst, hdue, ?_, ?_, ?_, ?_⟩
    · rw [rd_enterStage _ _ _ _ (by decide), h1]
    · rw [rd_enterStage _ _ _ _ (by decide), h2]
    · rw [rd_enterStage _ _ _ _ (by decide), h3]
    · rw [rd_enterStage _ _ _ _ (by decide), h4]
  · exact exec_verify_spec hd ok
  · refine ⟨rfl, fun h => ?_, fun h hl => ?_, fun h hl hsig => ?_, fun h hl hsig hg hv => ?_⟩
    · simp [verifyCause, h]
    · simp [verifyCause, h, hl]
    · rcases hsig with hsig | hsig
      · simp [verifyCause, h, hl, hsig]
      · simp [verifyCause, h, hl, hsig]
    · simp [verifyCause, h, hl, hsig, hg, hv]
  · exact exec_rails_spec (hd.elim (fun h => .inl h) fun h => .inr ⟨h.1, Option.ne_none_iff_isSome.1 h.2⟩)
  · have hans : Answers (.dies f) s (wr (startFails s.dev 0xF7) .bootStatusFailedDie 0 (x + 1)) := by
      refine (answers_act (n := "DIES") rfl ?_).trans ?_
      · simp [hd, hx, hlt]
      · rw [hx]
    obtain ⟨h1, -, h3⟩ := startFails_shows s.dev (c := 0xF7) (by decide)
    refine ⟨_, hans, ?_, ?_, (rd_wr_self _ _ _ _ rfl).trans (Nat.mod_eq_of_lt (show x + 1 < 16 by omega))⟩
    · rw [rd_wr_plain_ne _ _ _ _ rfl (by decide), h1]
    · rw [rd_wr_plain_ne _ _ _ _ rfl (by decide), h3]
  · have hans : Answers (.dies f) s (enterStage (diesUp s.dev f.badTiles) 4 5) := by
      refine (answers_act (n := "DIES") rfl ?_).trans ?_
      · simp [hd, hf]
      · rw [hf]
    obtain ⟨hst, hdue⟩ := enterStage_shows (diesUp s.dev f.badTiles) (n := 4) (m := 5) (by decide)
    exact ⟨_, hans, hst, hdue, diesUp_spec s.dev f.badTiles⟩
  · have hsame : sameImage (enterStage s.dev 5 7) = sameImage s.dev :=
      sameImage_congr (flash_enterStage s.dev 5 7) fun i => rd_enterStage _ _ _ _ (by decide)
    refine ⟨_, answers_act (n := "CONFIG") rfl hd, fun h => ?_, fun h h' => ?_⟩
    · have hc : (!same || !sameImage (enterStage s.dev 5 7)) = true := by
        rw [hsame]
        rcases h with h | h
        · rw [h]
          rfl
        · rw [h, Bool.not_false, Bool.or_true]
      rw [if_pos hc]
      obtain ⟨h1, -, h3⟩ := startFails_shows (enterStage s.dev 5 7) (c := 0xF5) (by decide)
      exact ⟨h1, h3⟩
    · have hc : ¬ (!same || !sameImage (enterStage s.dev 5 7)) = true := by
        rw [hsame, h, h']
        decide
      rw [if_neg hc, seek, rd_onBoot, rd_onBoot, rd_wr_plain_ne _ _ _ _ rfl (by decide)]
      refine ⟨(enterStage_shows s.dev (by decide)).1, ?_, ?_⟩
      · exact congrArg BootSt.due (part_of_besideRegs (besideRegs_wr (enterStage s.dev 5 7) ..) Dev.boot fun _ => rfl)
      · rw [rd_wr_self _ _ _ _ rfl, imgNode_congr (flash_enterStage s.dev 5 7)]
        rfl
  · obtain ⟨h1, h2, h3⟩ := bringup_boot s.dev l
    exact ⟨_, answers_act (n := "BRINGUP") rfl hd, h1, h2, h3, fun hw c hc => channelShown_bringup hw l hc⟩
  · exact ⟨_, answers_act (n := "BRINGUP_PART_DONE") rfl hr, partEnds_spec s.dev u ok⟩
  · exact ⟨_, answers_act (n := "OPTICS_LIMIT") rfl hr, by simp [partDone, onBoot], rfl⟩
  · exact ⟨_, answers_act (n := "BRINGUP_END") rfl ho, running_spec s.dev⟩

end Sys2Proof.Machine
end


section
/-!
Flash commands, cold and warm resets (R473 to R478, R496, R556), and O56.
-/
namespace Sys2Proof.Machine

/-! ### Bytes of the flash -/

theorem getD_writeFlash (m : KMap Byte) (a : Nat) (bs : List Byte) (x : Nat) :
    getD (writeFlash m a bs) x 0xFF = if a ≤ x ∧ x < a + bs.length then bs.getD (x - a) 0 else getD m x 0xFF := by
  induction bs generalizing m a with
  | nil => exact (if_neg fun h => absurd h.2 (Nat.not_lt.2 h.1)).symm
  | cons b t ih =>
    rw [writeFlash, ih, List.length_cons]
    by_cases hx : x = a
    · subst hx
      rw [if_neg (by omega), if_pos (by omega), getD_putD_self, Nat.sub_self]
      rfl
    · rw [getD_putD_ne _ _ _ hx]
      by_cases hin : a + 1 ≤ x ∧ x < a + 1 + t.length
      · obtain ⟨k, hk⟩ : ∃ k, x - a = k + 1 := ⟨x - a - 1, by omega⟩
        rw [if_pos hin, if_pos (by omega), show x - (a + 1) = k by omega, hk]
        rfl
      · rw [if_neg hin, if_neg (by omega)]

theorem getD_erased (m : KMap Byte) (a n x : Nat) : getD (m.filter fun e => decide (e.1 < a ∨ a + n ≤ e.1)) x 0xFF =
    if a ≤ x ∧ x < a + n then 0xFF else getD m x 0xFF := by
  unfold getD
  rw [find?_filter_keys m (fun y => decide (y < a ∨ a + n ≤ y)) x]
  by_cases h : a ≤ x ∧ x < a + n
  · rw [if_pos h, if_neg (by simp only [decide_eq_true_eq]; omega)]
    rfl
  · rw [if_neg h, if_pos (by simp only [decide_eq_true_eq]; omega)]

/-! ### A command that completes (R473, R478) -/

/-- The flash once a command has done its work. -/
def flashAfter (d : Dev) (c : FlashCmd) : KMap Byte :=
  match c.op with
  | 1 => d.boot.flash
  | 2 => writeFlash d.boot.flash c.addr (c.data.flatMap (toBytes 8))
  | 3 => d.boot.flash.filter fun e => decide (e.1 < c.addr ∨ c.addr + 65536 ≤ e.1)
  | _ => d.boot.flash.filter fun e => decide (e.1 < 0 ∨ 0 + flashSize ≤ e.1)

section
variable {d : Dev} {c : FlashCmd}

theorem flashAfter_read (h : c.op = 1) : flashAfter d c = d.boot.flash := by
  obtain ⟨op, addr, data⟩ := c
  subst h
  rfl

theorem flashAfter_program (h : c.op = 2) : flashAfter d c = writeFlash d.boot.flash c.addr (c.data.flatMap (toBytes 8)) := by
  obtain ⟨op, addr, data⟩ := c
  subst h
  rfl

theorem flashAfter_sector (h : c.op = 3) : flashAfter d c = d.boot.flash.filter fun e => decide (e.1 < c.addr ∨ c.addr + 65536 ≤ e.1) := by
  obtain ⟨op, addr, data⟩ := c
  subst h
  rfl

theorem flashAfter_all (h : 4 ≤ c.op) : flashAfter d c = d.boot.flash.filter fun e => decide (e.1 < 0 ∨ 0 + flashSize ≤ e.1) := by
  obtain ⟨op, addr, data⟩ := c
  obtain ⟨n, rfl⟩ : ∃ n, op = n + 4 := ⟨op - 4, (Nat.sub_add_cancel h).symm⟩
  rfl

end

/-- The buffer filled from the flash. -/
def flashReadIn (d : Dev) (a : Nat) : Dev := (List.range 32).foldl (fun d i => wr d .bootFlashBuf i (flashNum d (a + 8 * i) 8)) d

theorem flashApply_read {d : Dev} {c : FlashCmd} (h : c.op = 1) : flashApply d c = flashReadIn d c.addr := by
  unfold flashApply
  rw [h]
  rfl

theorem flashApply_other {d : Dev} {c : FlashCmd} (h : c.op ≠ 1) : flashApply d c = onBoot d fun b => { b with flash := flashAfter d c } := by
  obtain ⟨op, addr, data⟩ := c
  match op, h with
  | 0, _ => rfl
  | 2, _ => rfl
  | 3, _ => rfl
  | n + 4, _ => rfl

theorem writesOnly_flashReadIn (d : Dev) (a : Nat) : WritesOnly [.bootFlashBuf] d (flashReadIn d a) :=
  writesOnly_flashRead d fun i => a + 8 * i

theorem fromBytes_lt (bs : List Byte) : fromBytes bs < 256 ^ bs.length := by
  induction bs with
  | nil => exact Nat.zero_lt_one
  | cons b t ih =>
    have hb := b.isLt
    rw [fromBytes, List.length_cons, Nat.pow_succ]
    omega

/-- Each word is read from the flash, which reading leaves. -/
theorem rd_flashReadIn (d : Dev) (a : Nat) {i : Nat} (hi : i < 32) : rd (flashReadIn d a) .bootFlashBuf i = flashNum d (a + 8 * i) 8 := by
  have he : ∀ n, (List.range n).foldl (fun d i => wr d .bootFlashBuf i (flashNum d (a + 8 * i) 8)) d =
      (List.range n).foldl (fun x i => wr x .bootFlashBuf i (flashNum d (a + 8 * i) 8)) d := fun n => by
    induction n with
    | zero => simp only [List.range_zero, List.foldl_nil]
    | succ n ih =>
      rw [List.range_succ, List.foldl_append, List.foldl_append, ← ih]
      have hw : WritesOnly [.bootFlashBuf] d ((List.range n).foldl (fun d i => wr d .bootFlashBuf i (flashNum d (a + 8 * i) 8)) d) :=
        WritesOnly.foldl (fun _ _ => writesOnly_wr (.head _) ..) (.refl ..) _
      rw [List.foldl_cons, List.foldl_nil, List.foldl_cons, List.foldl_nil, flashNum_congr (congrArg BootSt.flash hw.boot)]
  rw [flashReadIn, he 32, rd_foldl_wr_range (f := .bootFlashBuf) rfl (fun i => flashNum d (a + 8 * i) 8) 32 d hi]
  refine Nat.mod_eq_of_lt ?_
  have hl : (flashBytes d (a + 8 * i) 8).length = 8 := by rw [flashBytes, List.length_map, List.length_range]
  have hlt := fromBytes_lt (flashBytes d (a + 8 * i) 8)
  rw [hl] at hlt
  exact lt_of_lt_of_eq hlt (by decide)

theorem keepsRegs_foldl_wr {f : Fld} {L : List (Fld × Nat)} {d0 : Dev} (v : Dev → Nat → Nat) (l : List Nat) (hl : ∀ j ∈ l, (f, j) ∈ L) {d : Dev}
    (h : keepsRegs d0 d L) : keepsRegs d0 (l.foldl (fun d j => wr d f j (v d j)) d) L := by
  induction l generalizing d with
  | nil => exact h
  | cons x t ih => exact ih (fun j hj => hl j (.tail _ hj)) (keepsRegs_wr h (hl x (.head _)))

/-- The device as the command leaves its registers, before BUSY and RESULT. -/
def flashWorked (d : Dev) (c : FlashCmd) : Dev := if c.op = 1 then flashReadIn d c.addr else bump d .bootFlashOps

theorem besideRegs_flashWorked (d : Dev) (c : FlashCmd) : besideRegs (flashWorked d c) = besideRegs d := by
  unfold flashWorked
  split
  · exact (writesOnly_flashReadIn ..).rest
  · exact besideRegs_bump ..

/-- The registers of a completed command. -/
def flashShown (d : Dev) (c : FlashCmd) : Dev := wr (wr (flashWorked d c) .bootFlashCmdBusy 0 0) .bootFlashCmdResult 0 0

theorem besideRegs_flashShown (d : Dev) (c : FlashCmd) : besideRegs (flashShown d c) = besideRegs d := by
  rw [flashShown, besideRegs_wr, besideRegs_wr, besideRegs_flashWorked]

theorem flashDone_eq (d : Dev) (c : FlashCmd) :
    flashDone d c = onBoot (flashShown d c) fun b => { b with flash := flashAfter d c, flashCmd := none } := by
  unfold flashDone flashShown flashWorked
  by_cases h : c.op = 1
  · have hfl : (wr (wr (flashReadIn d c.addr) .bootFlashCmdBusy 0 0) .bootFlashCmdResult 0 0).boot.flash = flashAfter d c := by
      rw [flashAfter_read h]
      exact congrArg BootSt.flash (part_of_besideRegs ((besideRegs_wr ..).trans ((besideRegs_wr ..).trans (writesOnly_flashReadIn d c.addr).rest))
        Dev.boot fun _ => rfl)
    dsimp only
    rw [if_pos h, if_pos h, flashApply_read h, ← hfl]
    rfl
  · dsimp only
    rw [if_neg h, if_neg h, flashApply_other h]
    rfl

theorem keepsRegs_flashShown (d : Dev) (c : FlashCmd) : keepsRegs d (flashShown d c)
    ([(.bootFlashCmdBusy, 0), (.bootFlashCmdResult, 0), (.bootFlashOps, 0)] ++ (List.range 32).map fun i => (.bootFlashBuf, i)) := by
  refine keepsRegs_wr (keepsRegs_wr ?_ (by simp)) (by simp)
  unfold flashWorked
  split
  · exact keepsRegs_foldl_wr (fun d i => flashNum d (c.addr + 8 * i) 8) _ (fun j hj => List.mem_append_right _ (List.mem_map.2 ⟨j, hj, rfl⟩))
      (keepsRegs_refl d _)
  · exact keepsRegs_wr (keepsRegs_refl d _) (by simp)

theorem flashDone_spec (d : Dev) (c : FlashCmd) :
    isSet (flashDone d c) .bootFlashCmdBusy 0 = false ∧ rd (flashDone d c) .bootFlashCmdResult 0 = 0 ∧ (flashDone d c).boot.flashCmd = none ∧
    (c.op = 1 → (flashDone d c).boot.flash = d.boot.flash ∧ ∀ i, i < 32 → rd (flashDone d c) .bootFlashBuf i = flashNum d (c.addr + 8 * i) 8) ∧
    { flashDone d c with regs := d.regs, regsB := d.regsB, regsC := d.regsC, boot := d.boot } = d ∧
    keepsRegs d (flashDone d c)
      ([(.bootFlashCmdBusy, 0), (.bootFlashCmdResult, 0), (.bootFlashOps, 0)] ++ (List.range 32).map fun i => (.bootFlashBuf, i)) ∧
    (c.op ≠ 1 → rd (flashDone d c) .bootFlashOps 0 = (rd d .bootFlashOps 0 + 1) % 2 ^ 32) := by
  have hr : ∀ f i, rd (flashDone d c) f i = rd (flashShown d c) f i := fun f i => by rw [flashDone_eq, rd_onBoot]
  refine ⟨?_, ?_, by rw [flashDone_eq]; rfl, fun h => ⟨?_, fun i hi => ?_⟩, ?_, keepsRegs_of_rd (keepsRegs_flashShown d c) hr, fun h => ?_⟩
  · rw [isSet, hr, flashShown, rd_wr_plain_ne _ _ _ _ rfl (by decide), rd_wr_self _ _ _ _ rfl]
    rfl
  · rw [hr, flashShown, rd_wr_self _ _ _ _ rfl]
    rfl
  · rw [flashDone_eq]
    exact flashAfter_read h
  · rw [hr, flashShown, rd_wr_plain_ne _ _ _ _ rfl (by decide), rd_wr_plain_ne _ _ _ _ rfl (by decide), flashWorked, if_pos h, rd_flashReadIn d _ hi]
  · rw [flashDone_eq]
    exact congrArg (fun x : Dev => { x with boot := d.boot }) (eq_of_besideRegs (besideRegs_flashShown d c))
  · rw [hr, flashShown, rd_wr_plain_ne _ _ _ _ rfl (by decide), rd_wr_plain_ne _ _ _ _ rfl (by decide), flashWorked, if_neg h]
    exact rd_bump_self _ _ _ _ rfl

/-- The flash's bytes after a program or an erase. -/
theorem flashByte_flashDone (d : Dev) (c : FlashCmd) (a : Nat) : flashByte (flashDone d c) a = getD (flashAfter d c) a 0xFF := by
  rw [flashDone_eq]
  rfl

theorem flashDone_bytes (d : Dev) (c : FlashCmd) :
    (c.op = 2 → ∀ a, flashByte (flashDone d c) a =
      if c.addr ≤ a ∧ a < c.addr + 8 * c.data.length then (c.data.flatMap (toBytes 8)).getD (a - c.addr) 0 else flashByte d a) ∧
    (c.op = 3 → ∀ a, flashByte (flashDone d c) a = if c.addr ≤ a ∧ a < c.addr + 65536 then 0xFF else flashByte d a) ∧
    (4 ≤ c.op → ∀ a, a < flashSize → flashByte (flashDone d c) a = 0xFF) := by
  refine ⟨fun h a => ?_, fun h a => ?_, fun h a ha => ?_⟩
  · have hl : (c.data.flatMap (toBytes 8)).length = 8 * c.data.length := by
      rw [List.length_flatMap]
      simp [Nat.mul_comm]
    rw [flashByte_flashDone, ← hl, flashAfter_program h]
    exact getD_writeFlash ..
  · rw [flashByte_flashDone, flashAfter_sector h]
    exact getD_erased ..
  · rw [flashByte_flashDone, flashAfter_all h]
    exact (getD_erased d.boot.flash 0 flashSize a).trans (if_pos ⟨Nat.zero_le a, by omega⟩)

/-! ### A command that is asked for (R473, R474) -/

theorem flashRefused_wr_op (d : Dev) (op : Nat) (o a : Nat) : flashRefused (wr d .bootFlashCmdOp 0 o) op a = flashRefused d op a := by
  unfold flashRefused pageErased
  rw [rd_wr_plain_ne _ _ _ _ rfl (by decide), part_of_besideRegs (besideRegs_wr d .bootFlashCmdOp 0 o) Dev.boot fun _ => rfl]

section
variable {d : Dev} {op : Nat} (ho : op < 8)

/-- The flash command that OP, the address and the buffer ask for. -/
def flashAsked (d : Dev) (op : Nat) : FlashCmd := { op := op, addr := rd d .bootFlashAddr 0, data := (List.range 32).map fun i => rd d .bootFlashBuf i }

include ho

/-- A write of FLASH_CMD with GO, from the state before its OP is written. -/
theorem flashGo_eq : flashGo (wr d .bootFlashCmdOp 0 op) =
    if isSet d .bootFlashCmdBusy 0 || !d.boot.powered then wr d .bootFlashCmdOp 0 op
    else if flashRefused d op (rd d .bootFlashAddr 0) then wr (wr d .bootFlashCmdOp 0 op) .bootFlashCmdResult 0 0xFA
    else onBoot (wr (wr d .bootFlashCmdOp 0 op) .bootFlashCmdBusy 0 1) fun b => { b with flashCmd := some (flashAsked d op) } := by
  have hop : rd (wr d .bootFlashCmdOp 0 op) .bootFlashCmdOp 0 = op := (rd_wr_self _ _ _ _ rfl).trans (Nat.mod_eq_of_lt ho)
  have hbuf : ∀ i, rd (wr d .bootFlashCmdOp 0 op) .bootFlashBuf i = rd d .bootFlashBuf i := fun i => rd_wr_plain_ne _ _ _ _ rfl (by decide)
  unfold flashGo
  dsimp only
  rw [hop, rd_wr_plain_ne (g := .bootFlashAddr) _ _ _ _ rfl (by decide), flashRefused_wr_op, isSet_wr_ne _ _ rfl (by decide),
    part_of_besideRegs (besideRegs_wr d .bootFlashCmdOp 0 op) Dev.boot fun _ => rfl]
  simp only [hbuf]
  rfl

theorem flashGo_spec : let e := flashGo (wr d .bootFlashCmdOp 0 op)
    rd e .bootFlashCmdOp 0 = op ∧
    (isSet d .bootFlashCmdBusy 0 = true ∨ d.boot.powered = false → onlyRegs d e [(.bootFlashCmdOp, 0)]) ∧
    (isSet d .bootFlashCmdBusy 0 = false → d.boot.powered = true → flashRefused d op (rd d .bootFlashAddr 0) = true →
      rd e .bootFlashCmdResult 0 = 0xFA ∧ onlyRegs d e [(.bootFlashCmdOp, 0), (.bootFlashCmdResult, 0)]) ∧
    (isSet d .bootFlashCmdBusy 0 = false → d.boot.powered = true → flashRefused d op (rd d .bootFlashAddr 0) = false →
      isSet e .bootFlashCmdBusy 0 = true ∧ e.boot.flashCmd = some (flashAsked d op) ∧
      onlyRegs { d with boot := e.boot } e [(.bootFlashCmdOp, 0), (.bootFlashCmdBusy, 0)] ∧ e.boot.flash = d.boot.flash) := by
  have hop : rd (wr d .bootFlashCmdOp 0 op) .bootFlashCmdOp 0 = op := (rd_wr_self _ _ _ _ rfl).trans (Nat.mod_eq_of_lt ho)
  have hset : onlyRegs d (wr d .bootFlashCmdOp 0 op) [(.bootFlashCmdOp, 0)] := onlyRegs_wr (onlyRegs_refl ..) (.head _)
  dsimp only
  rw [flashGo_eq ho]
  refine ⟨?_, fun h => ?_, fun hb hp hr => ?_, fun hb hp hr => ?_⟩
  · split
    · exact hop
    · split
      · rw [rd_wr_plain_ne _ _ _ _ rfl (by decide), hop]
      · rw [rd_onBoot, rd_wr_plain_ne _ _ _ _ rfl (by decide), hop]
  · rw [if_pos (by rcases h with h | h <;> simp [h])]
    exact hset
  · rw [if_neg (by simp [hb, hp]), if_pos hr]
    exact ⟨(rd_wr_self _ _ _ _ rfl).trans rfl, onlyRegs_wr (onlyRegs_mono hset (List.cons_subset_cons _ (List.nil_subset _))) (.tail _ (.head _))⟩
  · rw [if_neg (by simp [hb, hp]), if_neg (by rw [hr]; decide)]
    have hboot := part_of_besideRegs ((besideRegs_wr (wr d .bootFlashCmdOp 0 op) .bootFlashCmdBusy 0 1).trans (besideRegs_wr d .bootFlashCmdOp 0 op))
      Dev.boot fun _ => rfl
    refine ⟨?_, rfl, ?_, (congrArg BootSt.flash hboot :)⟩
    · rw [isSet, rd_onBoot]
      exact isSet_wr_one _ _ _ rfl rfl
    · exact onlyRegs_boot (onlyRegs_wr (onlyRegs_mono hset (List.cons_subset_cons _ (List.nil_subset _))) (.tail _ (.head _))) _

end

/-! ### Cold resets (R475, R478, R496, R556) -/

theorem writesOnly_of_onlyRegs {d e : Dev} {f : Fld} {i : Nat} (h : onlyRegs d e [(f, i)]) : WritesOnly [f] d e := by
  have hb : besideRegs e = besideRegs d := by
    have := congrArg besideRegs h.1
    exact this
  refine ⟨hb, fun g j hg => h.2 g j fun x hx hv => ?_⟩
  obtain rfl : x = (f, i) := by simpa using hx
  exact absurd hv (hg f (.head _))

/-- A flash command that a reset cuts off touches the buffer and the flash alone. -/
theorem rd_flashCut (d : Dev) {f : Fld} (i : Nat) (hf : f ≠ .bootFlashBuf) : rd (flashCut d) f i = rd d f i := by
  unfold flashCut
  split
  · rfl
  · rename_i c _
    dsimp only
    split
    · by_cases h : c.op = 1
      · rw [flashApply_read h]
        exact rd_foldl (fun _ _ => rd_wr_plain_ne _ _ _ _ rfl hf) _ _
      · rw [flashApply_other h]
        rfl
    · rfl

/-- A cold reset that nothing stands in the way of. -/
theorem coldStart_spec (d : Dev) (k : Nat) : (coldStart d k).boot.due = 1 ∧ (coldStart d k).boot.powered = true ∧
    rd (coldStart d k) .bootStatusResetKind 0 = k % 4 ∧ (d.boot.flashCmd = none → (coldStart d k).boot.flash = d.boot.flash) ∧
    (∀ a n, getBytes (coldStart d k) a n = List.replicate n 0) ∧
    rd (coldStart d k) .powerTripRecordTripped 0 = rd d .powerTripRecordTripped 0 % 2 ∧
    ∀ f i, f ∉ [Fld.bootStatusResetKind, .powerTripRecordTripped, .powerTripRecordPair, .mgmtAlertPending] → rd (coldStart d k) f i = f.info.reset := by
  obtain ⟨h1, h2, h3⟩ := coldStart_regs d k
  rw [coldStart_boot]
  refine ⟨rfl, rfl, h1, fun hc => ?_, getBytes_coldStart d k, ?_, h3⟩
  · rw [flashCut_none hc]
  · rw [h2, rd_flashCut _ _ (by decide)]

/-- A cold reset is asked for, from a state in which at most its CONFIRM has been written. -/
theorem coldReset_spec {s d : Dev} (h : onlyRegs s d [(.bootCtrlConfirm, 0)]) (k : Nat) :
    (s.boot.powered = false → onlyRegs s (coldReset d k) [(.bootCtrlConfirm, 0)]) ∧
    (s.boot.powered = true →
      (s.boot.fuse.isSome = true → (coldReset d k).boot.coldAfter = some (s.boot.coldAfter.getD k) ∧
        onlyRegs { s with boot := (coldReset d k).boot } (coldReset d k) [(.bootCtrlConfirm, 0)]) ∧
      (s.boot.fuse = none → tripHeld s = true → (coldReset d k).pwr.heldReset = some (s.pwr.heldReset.getD k) ∧
        onlyRegs { s with pwr := (coldReset d k).pwr } (coldReset d k) [(.bootCtrlConfirm, 0)]) ∧
      (s.boot.fuse = none → tripHeld s = false → coldReset d k = coldStart d k)) := by
  have hw := writesOnly_of_onlyRegs h
  have hb := hw.boot
  have ht : tripHeld d = tripHeld s := hw.tripHeld_eq (by decide)
  have helse : ∀ o : Option Nat, (o.orElse fun _ => some k) = some (o.getD k) := fun o => by cases o <;> rfl
  refine ⟨fun hp => ?_, fun hp => ⟨fun hf => ?_, fun hf hh => ?_, fun hf hh => ?_⟩⟩
  · have he : coldReset d k = d := if_pos (by rw [hb, hp]; rfl)
    rw [he]
    exact h
  · have he : coldReset d k = onBoot d fun b => { b with coldAfter := b.coldAfter.orElse fun _ => some k } := by
      unfold coldReset
      rw [hb, hp, hf]
      rfl
    rw [he]
    refine ⟨?_, onlyRegs_boot h _⟩
    show d.boot.coldAfter.orElse (fun _ => some k) = _
    rw [hb, helse]
  · have he := coldReset_free (d := d) (k := k) (by rw [hb]; exact hp) (by rw [hb]; exact hf)
    rw [ht, hh, if_pos rfl] at he
    rw [he]
    refine ⟨?_, congrArg (fun x : Dev => onPwr x fun p => { d.pwr with heldReset := d.pwr.heldReset.orElse fun _ => some k }) h.1, fun f i hf => h.2 f i hf⟩
    show d.pwr.heldReset.orElse (fun _ => some k) = _
    rw [hw.pwr, helse]
  · have he := coldReset_free (d := d) (k := k) (by rw [hb]; exact hp) (by rw [hb]; exact hf)
    rwa [ht, hh, if_neg Bool.false_ne_true] at he

/-! ### The warm reset (R476) -/

theorem rd_clearFld_of_reset {d : Dev} (g : Fld) {f : Fld} {i : Nat} (hf : f.info.voted = false) (h : f = g ∨ rd d f i = f.info.reset) :
    rd (clearFld d g) f i = f.info.reset := by
  have hk : find? (clearFld d g).regs (fkey f i) = if (fkey f i % 1024 != g.ctorIdx) = true then find? d.regs (fkey f i) else none :=
    find?_filter_keys d.regs (fun k => k % 1024 != g.ctorIdx) (fkey f i)
  simp only [rd, hf, Bool.false_eq_true, if_false, getD, hk, fkey_mod] at h ⊢
  split
  · rename_i hne
    refine h.resolve_left fun e => ?_
    rw [e] at hne
    simp at hne
  · rfl

/-- A listed field is at its reset value once every listed field has been cleared. -/
theorem rd_foldl_clearFld (l : List Fld) {d : Dev} {f : Fld} {i : Nat} (hf : f.info.voted = false) (h : f ∈ l ∨ rd d f i = f.info.reset) :
    rd (l.foldl clearFld d) f i = f.info.reset := by
  induction l generalizing d with
  | nil => exact h.resolve_left List.not_mem_nil
  | cons g t ih =>
    refine ih ?_
    rcases h with h | h
    · rcases List.mem_cons.1 h with rfl | h
      · exact .inr (rd_clearFld_of_reset _ hf (.inl rfl))
      · exact .inl h
    · exact .inr (rd_clearFld_of_reset _ hf (.inr h))

/-- The state after a warm reset, before the registers that it sets otherwise. -/
def warmBase (d : Dev) : Dev := warmState (warmCleared.foldl clearFld (finishErases ((everyQp d).foldl warmQp d)))

/-- The fields that a warm reset sets to other values. -/
def warmSet : List Fld := [.sparesRuntimeLeft, .sparesInService, .meshLinkStatusUp, .portsubLinkLos, .bootStatusStage, .bootStatusResetKind]

/-- The device after a warm reset, before the sequencer takes over. -/
def warmShown (d : Dev) : Dev :=
  let d := (List.range 10).foldl (fun d c => wr d .meshLinkStatusUp c (2 ^ groupsOf c - 1)) (recountSpares d)
  let d := (List.range 32).foldl (fun d s => wr d .portsubLinkLos s (rd d .portCtrlEnable (s / 4))) d
  wr (wr d .bootStatusStage 0 2) .bootStatusResetKind 0 2

theorem writesOnly_warmShown (d : Dev) : WritesOnly warmSet d (warmShown d) := by
  unfold warmShown recountSpares
  refine WritesOnly.wr (WritesOnly.wr ?_ (by decide) ..) (by decide) ..
  refine WritesOnly.foldl (fun _ _ => writesOnly_wr (by decide) ..) ?_ _
  refine WritesOnly.foldl (fun _ _ => writesOnly_wr (by decide) ..) ?_ _
  exact WritesOnly.wr (WritesOnly.wr (.refl ..) (by decide) ..) (by decide) ..

theorem warmShown_stage (d : Dev) : rd (warmShown d) .bootStatusStage 0 = 2 ∧ rd (warmShown d) .bootStatusResetKind 0 = 2 := by
  unfold warmShown
  rw [rd_wr_plain_ne _ _ _ _ rfl (by decide)]
  exact ⟨rd_wr_self _ _ _ _ rfl, rd_wr_self _ _ _ _ rfl⟩

theorem warmReset_eq (d : Dev) : warmReset d = onBoot (warmShown (warmBase d)) fun b => { b with
    due := 2, warm := true, startNs := (warmShown (warmBase d)).upNs, done := [], waiting := none } := rfl

theorem warmCleared_apart : ∀ f ∈ warmCleared, f.info.voted = false → ∀ g ∈ warmSet, g ∉ votedWith f := by decide

theorem rd_warmState (d : Dev) (f : Fld) (i : Nat) : rd (warmState d) f i = rd d f i := rd_congr rfl rfl rfl f i

theorem rd_warmBase {f : Fld} (hf : f ∈ warmCleared) (hv : f.info.voted = false) (d : Dev) (i : Nat) : rd (warmBase d) f i = f.info.reset := by
  rw [warmBase, rd_warmState]
  exact rd_foldl_clearFld warmCleared hv (.inl hf)

theorem mem_zeroKeys (d : Dev) (s : Nat) : (zeroKeys d s).mem = d.mem := by
  have h : besideRegs (zeroKeys d s) = besideRegs (setKeys d s {}) := by
    unfold zeroKeys
    simp only [besideRegs_wr]
  exact (part_of_besideRegs h Dev.mem fun _ => rfl).trans rfl

theorem mem_finishErases (d : Dev) : (finishErases d).mem = d.mem :=
  foldl_keeps Dev.mem (fun d s => (part_of_besideRegs (besideRegs_wr (zeroKeys d s) .yewSlotState s 0) Dev.mem fun _ => rfl).trans (mem_zeroKeys d s)) _ d

theorem mem_foldl_clearFld (l : List Fld) (d : Dev) : (l.foldl clearFld d).mem = d.mem := foldl_keeps (g := clearFld) Dev.mem (fun _ _ => rfl) l d

/-- DRAM's bytes are kept. -/
theorem bytes_warmBase {d : Dev} (h : everyQp d = []) : (warmBase d).mem.bytes = d.mem.bytes.filter fun e => decide (e.1 < spBase) := by
  show ((warmCleared.foldl clearFld (finishErases ((everyQp d).foldl warmQp d))).mem.bytes.filter fun e => decide (e.1 < spBase)) = _
  rw [mem_foldl_clearFld, mem_finishErases, h]
  rfl

theorem readSparse_congr {m m' : KMap Byte} {a n : Nat} (h : ∀ x, a ≤ x → x < a + n → find? m x = find? m' x) : readSparse m a n = readSparse m' a n := by
  induction n generalizing a with
  | zero => rfl
  | succ n ih =>
    rw [readSparse, readSparse, ih fun x h1 h2 => h x (by omega) (by omega), getD, getD, h a (by omega) (by omega)]

theorem bytes_warmShown (d : Dev) : (warmShown d).mem.bytes = d.mem.bytes :=
  part_of_besideRegs (writesOnly_warmShown d).rest (·.mem.bytes) fun _ => rfl

theorem getBytes_warmReset {d : Dev} (h : everyQp d = []) {a n : Nat} (ha : a + n ≤ spBase) : getBytes (warmReset d) a n = getBytes d a n := by
  have hm : (warmReset d).mem.bytes = d.mem.bytes.filter fun e => decide (e.1 < spBase) := by
    rw [warmReset_eq, ← bytes_warmBase h, ← bytes_warmShown]
    rfl
  unfold getBytes
  rw [hm]
  refine readSparse_congr fun y _ hy => ?_
  exact (find?_filter_keys d.mem.bytes (fun y => decide (y < spBase)) y).trans (if_pos (decide_eq_true (by omega)))

theorem WritesOnly.everyQp_eq {d e : Dev} (h : WritesOnly [.bootCtrlConfirm] d e) : everyQp e = everyQp d := by
  have hm : e.mem = d.mem := part_of_besideRegs h.rest Dev.mem fun _ => rfl
  have ht : e.tr = d.tr := part_of_besideRegs h.rest Dev.tr fun _ => rfl
  have h1 := fun i => h.regs .transportQpcDirValid i (by decide)
  have h2 := fun i => h.regs .transportQpcDirBase i (by decide)
  have h3 := fun i => h.regs .transportQpcDirHost i (by decide)
  unfold everyQp chunkQpns qpAt isSet
  simp only [h1, h2, h3, hm, ht]

theorem warmReset_spec (d : Dev) : rd (warmReset d) .bootStatusStage 0 = 2 ∧ rd (warmReset d) .bootStatusResetKind 0 = 2 ∧
    (warmReset d).boot.due = 2 ∧ (warmReset d).boot.warm = true ∧ (warmReset d).disp.items = [] ∧
    ∀ f ∈ warmCleared, f.info.voted = false → ∀ i, rd (warmReset d) f i = f.info.reset := by
  obtain ⟨h1, h2⟩ := warmShown_stage (warmBase d)
  have hx := writesOnly_warmShown (warmBase d)
  rw [warmReset_eq, rd_onBoot, rd_onBoot]
  refine ⟨h1, h2, rfl, rfl, part_of_besideRegs hx.rest (·.disp.items) fun _ => rfl, fun f hf hv i => ?_⟩
  rw [rd_onBoot, hx.regs f i (warmCleared_apart f hf hv), rd_warmBase hf hv]

/-! ### The obligation -/

/-- Settles O56: commands and resets by the cases of their acceptance. -/
theorem flashAndResets : Obligations.FlashAndResets := by
  unfold Obligations.FlashAndResets
  refine ⟨fun s i op hi => ?_, fun s c hp hc => ?_, fun s kind x c hc hx => ?_, fun s l hp hst hca hco => ?_, fun s x hx => ?_⟩
  · have hans : Answers i s (flashGo (wr s.dev .bootFlashCmdOp 0 op)) ∧ op < 8 := by
      simp only [List.mem_cons, Prod.mk.injEq, List.not_mem_nil, or_false] at hi
      rcases hi with ⟨rfl, rfl⟩ | ⟨rfl, rfl⟩ | ⟨rfl, rfl⟩ | ⟨rfl, rfl⟩
      · exact ⟨cmd_true s "FLASH_READ" _, by decide⟩
      · exact ⟨cmd_true s "FLASH_PROGRAM" _, by decide⟩
      · exact ⟨cmd_true s "FLASH_ERASE_SECTOR" _, by decide⟩
      · exact ⟨cmd_true s "FLASH_ERASE_ALL" _, by decide⟩
    exact ⟨_, hans.1, flashGo_spec hans.2⟩
  · have hans : Answers .flashCmdComplete s (flashDone s.dev c) := by
      refine (answers_act (n := "FLASH_CMD_COMPLETE") rfl (by rw [hp, hc]; rfl)).trans ?_
      rw [hc]
    obtain ⟨h1, h2, h3, h4, h5, h6, h7⟩ := flashDone_spec s.dev c
    exact ⟨_, hans, h1, h2, h3, h4, h5, h6, h7, flashDone_bytes s.dev c⟩
  · simp only [List.mem_cons, Prod.mk.injEq, List.not_mem_nil, or_false] at hc
    have hset : onlyRegs s.dev (wr s.dev .bootCtrlConfirm 0 x) [(.bootCtrlConfirm, 0)] := onlyRegs_wr (onlyRegs_refl ..) (.head _)
    rcases hc with ⟨rfl, rfl⟩ | ⟨rfl, rfl⟩
    · have hans : Answers (.coldReset x) s
          (if x = confirmWord then coldReset (wr s.dev .bootCtrlConfirm 0 x) 1 else wr s.dev .bootCtrlConfirm 0 x) :=
        answers_cmd (n := "COLD_RESET") rfl (decide_eq_true hx)
      obtain ⟨hoff, hon⟩ := coldReset_spec hset 1
      refine ⟨_, hans, fun h => ?_, fun hw hp => ?_⟩
      · split
        · rename_i hw
          exact hoff (h.resolve_left fun h => h.2 hw)
        · exact hset
      · have hx : x = confirmWord := hw rfl
        rw [if_pos hx]
        obtain ⟨h1, h2, h3⟩ := hon hp
        refine ⟨h1, h2, fun hf ht => ?_⟩
        have hb := (writesOnly_of_onlyRegs hset).boot
        rw [h3 hf ht, ← hb, ← (writesOnly_of_onlyRegs hset).regs .powerTripRecordTripped 0 (by decide)]
        exact coldStart_spec ..
    · obtain ⟨hoff, hon⟩ := coldReset_spec (onlyRegs_refl s.dev _) 3
      refine ⟨_, answers_cmd (n := "MANAGEMENT_RESET") (b := true) rfl rfl, fun h => hoff (h.resolve_left fun h => absurd h.1 (by decide)), fun _ hp => ?_⟩
      obtain ⟨h1, h2, h3⟩ := hon hp
      refine ⟨h1, h2, fun hf ht => ?_⟩
      rw [h3 hf ht]
      exact coldStart_spec ..
  · have hans : ∃ e, Answers (.tripCooldown l) s e ∧ e = match (senseAll s.dev l).pwr.heldReset with
        | some k => coldStart (senseAll s.dev l) k
        | none => senseAll s.dev l := ⟨_, answers_act (n := "TRIP_COOLDOWN") rfl (by simp [hp, hst, hca, hco]), rfl⟩
    obtain ⟨e, he, heq⟩ := hans
    rw [senseAll_pwr] at heq
    refine ⟨e, he, fun hn => ?_, fun k hk => ?_⟩
    · rw [hn] at heq
      exact heq
    · rw [hk] at heq
      rw [heq]
      obtain ⟨h1, -, h3, -, -, -, h7⟩ := coldStart_spec (senseAll s.dev l) k
      exact ⟨h1, h3, h7 _ 0 (by decide)⟩
  · have hset : onlyRegs s.dev (wr s.dev .bootCtrlConfirm 0 x) [(.bootCtrlConfirm, 0)] := onlyRegs_wr (onlyRegs_refl ..) (.head _)
    have hw := writesOnly_of_onlyRegs hset
    have hask : warmAsked (wr s.dev .bootCtrlConfirm 0 x) = if rd s.dev .bootStatusStage 0 = 8 ∧ s.dev.boot.powered = true then
        warmReset (wr s.dev .bootCtrlConfirm 0 x) else wr s.dev .bootCtrlConfirm 0 x := by
      unfold warmAsked
      rw [hw.regs _ _ (by decide), hw.boot]
    have hans : Answers (.warmReset x) s
        (if x = confirmWord then warmAsked (wr s.dev .bootCtrlConfirm 0 x) else wr s.dev .bootCtrlConfirm 0 x) :=
      answers_cmd (n := "WARM_RESET") rfl (decide_eq_true hx)
    rw [hask] at hans
    refine ⟨_, hans, fun h => ?_, fun hx hst hp => ?_⟩
    · by_cases hc : x = confirmWord
      · rw [if_pos hc, if_neg fun hc' => ?_]
        · exact hset
        · rcases h with h | h | h
          · exact h hc
          · exact h hc'.1
          · exact absurd (hc'.2.symm.trans h) (by decide)
      · rw [if_neg hc]
        exact hset
    · have hword : x = confirmWord := hx
      rw [if_pos hword, if_pos ⟨hst, hp⟩]
      obtain ⟨h1, h2, h3, h4, h5, h6⟩ := warmReset_spec (wr s.dev .bootCtrlConfirm 0 x)
      refine ⟨h1, h2, h3, h4, h5, h6, fun hq a n ha => ?_⟩
      rw [getBytes_warmReset (by rw [hw.everyQp_eq]; exact hq) ha, getBytes, getBytes, part_of_besideRegs hw.rest (·.mem.bytes) fun _ => rfl]

end Sys2Proof.Machine
end


section
/-!
The records of the Balone image (R463, R464, R536), and O55.
-/
namespace Sys2Proof.Machine

/-! ### Reading records -/

section
variable {d e : Dev} (h : e.boot.flash = d.boot.flash)
include h

theorem recordAt_congr : recordAt e = recordAt d := by
  unfold recordAt
  rw [flashNum_congr h]

theorem seekRecord_congr (blob : Bool) (n a : Nat) : seekRecord e blob n a = seekRecord d blob n a := by
  induction n generalizing a with
  | zero => rfl
  | succ n ih =>
    unfold seekRecord
    rw [recordAt_congr h]
    simp only [ih]

end

theorem recordDue_some {d : Dev} {k : Nat} {r : ImgRecord} (h : recordDue d k = some r) : stageDue d 7 = true ∧ r.kind = k := by
  unfold recordDue at h
  split at h
  · rename_i hs
    obtain ⟨hst, -⟩ := Bool.and_eq_true_iff.1 hs
    rw [Option.filter_eq_some_iff] at h
    exact ⟨hst, by simpa using h.2⟩
  · cases h

/-! ### A record's step (R464) -/

/-- The record's work, with nothing to wait for. -/
def recordWorked (d : Dev) (r : ImgRecord) (effect : Dev → Dev) : Dev :=
  if applies d r then effect (onBoot d fun b => { b with waiting := none }) else onBoot d fun b => { b with waiting := none }

theorem recordStep_fails {d : Dev} (h : waitFailed d = true) (r : ImgRecord) (effect : Dev → Dev) : recordStep d r effect = startFails d 0xF5 := if_pos h

/-- The next record is due while the stage goes on. -/
theorem recordStep_runs {d : Dev} (h : waitFailed d = false) (r : ImgRecord) (effect : Dev → Dev) : recordStep d r effect =
    if stageDue (recordWorked d r effect) 7 then seek (recordWorked d r effect) false (afterRecord r) else recordWorked d r effect := by
  unfold recordStep
  rw [h, if_neg Bool.false_ne_true]
  rfl

theorem seek_spec (d : Dev) (blob : Bool) (a : Nat) : { seek d blob a with boot := d.boot } = d ∧
    (seek d blob a).boot.recAt = seekRecord d blob (imgLength d / 16) a := ⟨rfl, rfl⟩

/-- A record that is passed over. -/
theorem recordStep_passes {d : Dev} (hs : stageDue d 7 = true) (h : waitFailed d = false) {r : ImgRecord} (ha : applies d r = false)
    (effect : Dev → Dev) : { recordStep d r effect with boot := d.boot } = d ∧
    (recordStep d r effect).boot.recAt = seekRecord d false (imgLength d / 16) (afterRecord r) := by
  have hw : recordWorked d r effect = onBoot d fun b => { b with waiting := none } := if_neg (by rw [ha]; decide)
  have hst : stageDue (onBoot d fun b => { b with waiting := none }) 7 = true := hs
  have hfl : (onBoot d fun b => { b with waiting := none }).boot.flash = d.boot.flash := rfl
  rw [recordStep_runs h, hw, if_pos hst]
  refine ⟨rfl, ?_⟩
  rw [(seek_spec ..).2, seekRecord_congr hfl, imgLength_congr hfl]

/-- A record that is applied, and leaves the stage as it is. -/
theorem recordStep_applies {d x : Dev} (h : waitFailed d = false) {r : ImgRecord} (ha : applies d r = true) {effect : Dev → Dev}
    (hx : effect (onBoot d fun b => { b with waiting := none }) = x) (hs : stageDue x 7 = true) :
    recordStep d r effect = seek x false (afterRecord r) := by
  have hw : recordWorked d r effect = x := (if_pos ha).trans hx
  rw [recordStep_runs h, hw, if_pos hs]

/-- A record whose work stops the start-up. -/
theorem recordStep_stops {d x : Dev} (h : waitFailed d = false) {r : ImgRecord} (ha : applies d r = true) {effect : Dev → Dev}
    (hx : effect (onBoot d fun b => { b with waiting := none }) = startFails x 0xF5) : recordStep d r effect = startFails x 0xF5 := by
  have hw : recordWorked d r effect = startFails x 0xF5 := (if_pos ha).trans hx
  have hs : stageDue (startFails x 0xF5) 7 = false := by
    unfold stageDue
    rw [(startFails_shows x (c := 0xF5) (by decide)).1]
    simp
  rw [recordStep_runs h, hw, hs, if_neg Bool.false_ne_true]

theorem WritesOnly.stageDue_eq {l : List Fld} {d e : Dev} (h : WritesOnly l d e) (hl : ∀ g ∈ l, g ∉ votedWith .bootStatusStage) (n : Nat) :
    stageDue e n = stageDue d n := by
  unfold stageDue
  rw [h.regs _ _ hl, h.boot]

/-! ### REG records -/

/-- The register write a REG record makes: partition 0's. -/
def recordWrite (r : ImgRecord) : RegWrite := { src := .sequencer, part := actsFor .sequencer r.arg, off := r.arg, width := 8, val := r.value }

theorem regRecord_interleave {d : Dev} {r : ImgRecord} (h : r.arg = 0x2800000) (hv : r.value % 4 ≤ 1) :
    regRecord d r = wr d .memoryHbmCfgInterleave 0 (r.value % 4) := by
  have hc : cut r.value 0 2 = r.value % 4 := rfl
  unfold regRecord
  dsimp only
  rw [if_pos h, hc, if_pos hv]

theorem regRecord_badInterleave {d : Dev} {r : ImgRecord} (h : r.arg = 0x2800000) (hv : 1 < r.value % 4) : regRecord d r = startFails d 0xF5 := by
  have hc : cut r.value 0 2 = r.value % 4 := rfl
  unfold regRecord
  dsimp only
  rw [if_pos h, hc, if_neg (Nat.not_le.2 hv)]

section
variable {d x : Dev} {a : AccRes} {r : ImgRecord} (h : r.arg ≠ 0x2800000) (hx : nativeWrite d (recordWrite r) = (x, a)) (hs : stageDue x 7 = true)
include h hx hs

/-- Another REG record, by what its register write leaves and answers. -/
theorem regRecord_write : regRecord d r =
    if (decide (a ≠ .applied) || (wordFields r.arg).any (refusedBy x (recordWrite r))) = true then startFails x 0xF5
    else if (!waitBusy (onBoot x fun b => { b with waiting := startsCommand (recordWrite r) }) &&
        waitFailed (onBoot x fun b => { b with waiting := startsCommand (recordWrite r) })) = true then
      startFails (onBoot x fun b => { b with waiting := startsCommand (recordWrite r) }) 0xF5
    else onBoot x fun b => { b with waiting := startsCommand (recordWrite r) } := by
  unfold regRecord
  dsimp only
  rw [if_neg h, show nativeWrite d ⟨.sequencer, actsFor .sequencer r.arg, r.arg, 8, r.value⟩ = (x, a) from hx]
  dsimp only
  rw [hs]
  rfl

/-- A write that is discarded, or whose enable is refused, stops the start-up. -/
theorem regRecord_refused (hbad : a ≠ .applied ∨ (wordFields r.arg).any (refusedBy x (recordWrite r)) = true) :
    regRecord d r = startFails x 0xF5 := by
  rw [regRecord_write h hx hs, if_pos]
  rcases hbad with hb | hb
  · rw [decide_eq_true hb, Bool.true_or]
  · rw [hb, Bool.or_true]

/-- A write without a command of its own is all its record does. -/
theorem regRecord_applied (happ : a = .applied) (hok : (wordFields r.arg).any (refusedBy x (recordWrite r)) = false)
    (hnone : startsCommand (recordWrite r) = none) : regRecord d r = onBoot x fun b => { b with waiting := none } := by
  have hfailed : waitFailed (onBoot x fun b => { b with waiting := none }) = false := rfl
  rw [regRecord_write h hx hs, hok, hnone, hfailed, Bool.and_false, if_neg Bool.false_ne_true, if_neg]
  rw [decide_eq_false (not_not.2 happ)]
  exact Bool.false_ne_true

end

/-! ### ROUTE records and END -/

theorem routeRecord_spec (d : Dev) (r : ImgRecord) (b : Nat) (hb : b < 2) :
    routeEntry (routeRecord d r) (cut r.arg 0 4) b (cut r.arg 4 10) = r.value % 2 ^ 64 := by
  unfold routeEntry routeRecord setRoute
  dsimp only
  match b, hb with
  | 0, _ =>
    rw [rd_wr_ne _ _ rfl (.inr (by omega))]
    exact rd_wr_self _ _ _ _ rfl
  | 1, _ => exact rd_wr_self _ _ _ _ rfl

theorem writesOnly_routeRecord (d : Dev) (r : ImgRecord) : WritesOnly [.meshRouteTable] d (routeRecord d r) := by
  unfold routeRecord setRoute
  exact WritesOnly.wr (WritesOnly.wr (.refl ..) (by decide) ..) (by decide) ..

theorem onlyRegs_routeRecord (d : Dev) (r : ImgRecord) : onlyRegs d (routeRecord d r)
    ((List.range 2).map fun b => (.meshRouteTable, (cut r.arg 0 4 * 2 + b) * 1024 + cut r.arg 4 10)) := by
  unfold routeRecord setRoute
  exact onlyRegs_wr (onlyRegs_wr (onlyRegs_refl d _) (List.mem_map.2 ⟨0, by decide, rfl⟩)) (List.mem_map.2 ⟨1, by decide, rfl⟩)

theorem find?_map_keys {α : Type} (v : Nat → α) {l : List Nat} {i : Nat} (h : i ∈ l) : find? (l.map fun k => (k, v k)) i = some (v i) := by
  induction l with
  | nil => exact absurd h List.not_mem_nil
  | cons x t ih =>
    rw [List.map_cons, find?]
    by_cases hx : i = x
    · rw [if_pos hx, hx]
    · rw [if_neg hx, ih ((List.mem_cons.1 h).resolve_left hx)]

/-- The calibrated delays are those the records loaded. -/
theorem calibrate_spec (d : Dev) : (d.boot.warm = true → (calibrate d).port = d.port) ∧ (d.boot.warm = false → ∀ i, i < 8 →
    getD (calibrate d).port.cal i (0 : Nat) = rd d .portTsCfgTxDelay i + 2 ^ 16 * rd d .portTsCfgRxDelay i) := by
  unfold calibrate
  refine ⟨fun h => ?_, fun h i hi => ?_⟩
  · rw [if_pos h]
  · rw [h, if_neg Bool.false_ne_true]
    exact congrArg (·.getD 0)
      (find?_map_keys (fun k => rd d .portTsCfgTxDelay k + 2 ^ 16 * rd d .portTsCfgRxDelay k) (List.mem_range.2 hi))

theorem shadow_calibrate (d : Dev) : (calibrate d).shadow = d.shadow := by
  unfold calibrate
  split
  · rfl
  · rfl

theorem port_commitGo (d : Dev) : (commitGo d).port = d.port := by
  unfold commitGo
  split
  · exact part_of_besideRegs (besideRegs_wr ..) Dev.port fun _ => rfl
  · rfl

theorem commitGo_shadow (d : Dev) : find? (commitGo d).shadow (fkey .mgmtAlertMask 0) = none ∧
    ∀ v, find? d.shadow (fkey .mgmtAlertMask 0) = some v → rd (commitGo d) .mgmtAlertMask 0 = v % 2 ^ 8 := by
  cases h : find? d.shadow (fkey .mgmtAlertMask 0) with
  | none =>
    rw [commitGo_none h]
    exact ⟨h, fun v hv => by cases hv⟩
  | some v =>
    obtain ⟨h1, h2, -⟩ := commitGo_some h
    exact ⟨h2, fun w hw => by cases hw; exact h1⟩

/-- The device once the END record has been applied. -/
def configEnded (d : Dev) : Dev := onBoot (commitGo (calibrate d)) fun b => { b with due := 6, waiting := none }

theorem configEnded_spec (d : Dev) : (configEnded d).boot.due = 6 ∧ (d.boot.warm = true → (configEnded d).port = d.port) ∧
    (d.boot.warm = false → ∀ i, i < 8 → getD (configEnded d).port.cal i (0 : Nat) = rd d .portTsCfgTxDelay i + 2 ^ 16 * rd d .portTsCfgRxDelay i) ∧
    find? (configEnded d).shadow (fkey .mgmtAlertMask 0) = none ∧
    ∀ v, find? d.shadow (fkey .mgmtAlertMask 0) = some v → rd (configEnded d) .mgmtAlertMask 0 = v % 2 ^ 8 := by
  obtain ⟨hwarm, hcold⟩ := calibrate_spec d
  obtain ⟨hnone, hmask⟩ := commitGo_shadow (calibrate d)
  have hp : (configEnded d).port = (calibrate d).port := port_commitGo _
  rw [shadow_calibrate] at hmask
  rw [hp]
  exact ⟨rfl, hwarm, hcold, hnone, fun v hv => (rd_onBoot ..).trans (hmask v hv)⟩

/-! ### The commands -/

section
variable {s : State} {r : ImgRecord}

theorem answers_regRecord (h : recordDue s.dev 1 = some r) (hst : stallsNow s.dev r.arg 8 = false) :
    Answers .regRecord s (recordStep s.dev r fun d => regRecord d r) := by
  refine (answers_act (n := "REG_RECORD") rfl (by rw [h, Option.any_some, hst]; rfl)).trans ?_
  rw [h]

theorem answers_routeRecord (h : recordDue s.dev 2 = some r) : Answers .routeRecord s (recordStep s.dev r fun d => routeRecord d r) := by
  refine (answers_act (n := "ROUTE_RECORD") rfl (by rw [h]; rfl)).trans ?_
  rw [h]

theorem answers_endRecord (h : recordDue s.dev 15 = some r) :
    Answers .endRecord s (if waitFailed s.dev then startFails s.dev 0xF5 else configEnded s.dev) :=
  answers_act (n := "END_RECORD") rfl (by rw [h]; rfl)

/-- Which command a record's kind belongs to, and what it does. -/
theorem answers_record {i : Instr} {k : Nat} (hi : (i, k) ∈ [(Instr.regRecord, 1), (.routeRecord, 2), (.endRecord, 15)])
    (h : recordDue s.dev k = some r) (hst : k = 1 → stallsNow s.dev r.arg 8 = false) :
    (k = 1 ∧ Answers i s (recordStep s.dev r fun d => regRecord d r)) ∨ (k = 2 ∧ Answers i s (recordStep s.dev r fun d => routeRecord d r)) ∨
    (k = 15 ∧ Answers i s (if waitFailed s.dev then startFails s.dev 0xF5 else configEnded s.dev)) := by
  simp only [List.mem_cons, Prod.mk.injEq, List.not_mem_nil, or_false] at hi
  rcases hi with ⟨rfl, rfl⟩ | ⟨rfl, rfl⟩ | ⟨rfl, rfl⟩
  · exact .inl ⟨rfl, answers_regRecord h (hst rfl)⟩
  · exact .inr (.inl ⟨rfl, answers_routeRecord h⟩)
  · exact .inr (.inr ⟨rfl, answers_endRecord h⟩)

end

/-! ### The obligation -/

/-- Settles O55: each kind of record by its effect; a failed command before it stops the start-up. -/
theorem imageRecords : Obligations.ImageRecords := by
  unfold Obligations.ImageRecords
  intro w
  have hfails : ∀ d : Dev, rd (startFails d 0xF5) .bootStatusStage 0 = 15 ∧ rd (startFails d 0xF5) .bootStatusCause 0 = 0xF5 := fun d => by
    obtain ⟨h1, -, h3⟩ := startFails_shows d (c := 0xF5) (by decide)
    exact ⟨h1, h3⟩
  refine ⟨fun s r i k hi hr hst => ?_, fun s r hr => ?_⟩
  · obtain ⟨hdue, -⟩ := recordDue_some hr
    rcases answers_record hi hr hst with ⟨rfl, hans⟩ | ⟨rfl, hans⟩ | ⟨rfl, hans⟩
    · refine ⟨_, hans, fun hf => ?_, fun hf _ ha => recordStep_passes hdue hf ha _, fun hf ha _ harg hv => ?_, fun hf ha _ harg hv => ?_,
        fun hf ha _ harg x a hx hs => ⟨fun hbad => ?_, fun happ hok hnone => ?_⟩, fun _ _ h => absurd h (by decide), fun _ h => absurd h (by decide)⟩
      · rw [recordStep_fails hf]
        exact hfails s.dev
      · have hw : WritesOnly [.memoryHbmCfgInterleave] (onBoot s.dev fun b => { b with waiting := none })
            (wr (onBoot s.dev fun b => { b with waiting := none }) .memoryHbmCfgInterleave 0 (r.value % 4)) := writesOnly_wr (.head _) ..
        rw [recordStep_applies hf ha (regRecord_interleave harg hv) ((hw.stageDue_eq (by decide) 7).trans hdue)]
        refine ⟨(rd_onBoot ..).trans ((rd_wr_self _ _ _ _ rfl).trans (Nat.mod_eq_of_lt (Nat.mod_lt _ (by decide)))), ?_⟩
        exact onlyRegs_boot (onlyRegs_wr (onlyRegs_refl (onBoot s.dev fun b => { b with waiting := none }) _) (.head _)) _
      · rw [recordStep_stops hf ha (regRecord_badInterleave harg hv)]
        exact hfails _
      · rw [recordStep_stops hf ha (regRecord_refused harg hx hs hbad)]
        exact hfails x
      · rw [recordStep_applies (x := onBoot x fun b => { b with waiting := none }) hf ha (regRecord_applied harg hx hs happ hok hnone) hs]
        rfl
    · refine ⟨_, hans, fun hf => ?_, fun hf _ ha => recordStep_passes hdue hf ha _, fun _ _ h => absurd h (by decide), fun _ _ h => absurd h (by decide),
        fun _ _ h => absurd h (by decide), fun hf ha _ _ => ?_, fun _ h => absurd h (by decide)⟩
      · rw [recordStep_fails hf]
        exact hfails s.dev
      · have hw := writesOnly_routeRecord (onBoot s.dev fun b => { b with waiting := none }) r
        rw [recordStep_applies hf ha rfl ((hw.stageDue_eq (by decide) 7).trans hdue)]
        refine ⟨fun b hb => ?_, onlyRegs_boot (onlyRegs_routeRecord (onBoot s.dev fun b => { b with waiting := none }) r) _⟩
        exact routeRecord_spec (onBoot s.dev fun b => { b with waiting := none }) r b hb
    · refine ⟨_, hans, fun hf => ?_, fun _ h => absurd rfl h, fun _ _ h => absurd h (by decide), fun _ _ h => absurd h (by decide),
        fun _ _ h => absurd h (by decide), fun _ _ h => absurd h (by decide), fun hf _ => ?_⟩
      · rw [if_pos hf]
        exact hfails s.dev
      · rw [hf, if_neg Bool.false_ne_true]
        exact configEnded_spec s.dev
  · have hl : (flashBytes s.dev (r.at_ + 16) r.arg).length = r.arg := by rw [flashBytes, List.length_map, List.length_range]
    have hans : Answers .blobRecord s (seek (memWrite s.dev false r.arg r.value (flashBytes s.dev (r.at_ + 16) r.arg)).1 true (afterRecord r)) := by
      refine (answers_act (n := "BLOB_RECORD") rfl (by rw [hr]; rfl)).trans ?_
      rw [hr]
      dsimp only
      rw [hl]
    exact ⟨_, hans, seek_spec ..⟩

end Sys2Proof.Machine
end


section
/-!
TILE_CMD: assignment and release of tiles (R445 to R447, R450), and O52.
-/
namespace Sys2Proof.Machine

/-! ### The owner of a tile -/

/-- A voted entry whose register's votes all hold reads what its copies hold. -/
theorem rd_of_copies {d : Dev} {f : Fld} {i v : Nat} (hv : f.info.voted = true) (hh : ∀ g ∈ votedWith f, voteHolds d g i = true)
    (hc : copies d f i = (v, v, v)) : rd d f i = v := by
  unfold rd
  rw [if_pos hv, if_pos (List.all_eq_true.2 hh), hc]
  dsimp only
  rw [majority_self_left]
  rfl

def ownerFields : List Fld := [.tileOwnerPartition, .tileOwnerAssigned, .tileOwnerReleasing]

theorem ownerFields_voted : ∀ f ∈ ownerFields, f.info.voted = true ∧ votedWith f = ownerFields := by decide

section
variable (d : Dev) (t p a r : Nat)

theorem copies_setOwner : copies (setOwner d t p a r) .tileOwnerPartition t = (p % 2 ^ 6, p % 2 ^ 6, p % 2 ^ 6) ∧
    copies (setOwner d t p a r) .tileOwnerAssigned t = (a % 2, a % 2, a % 2) ∧
    copies (setOwner d t p a r) .tileOwnerReleasing t = (r % 2, r % 2, r % 2) := by
  unfold setOwner
  refine ⟨?_, ?_, copies_wr_self _ _ _ _ rfl⟩
  · rw [copies_wr_ne _ _ (.inl (by decide)), copies_wr_ne _ _ (.inl (by decide)), copies_wr_self _ _ _ _ rfl]
    rfl
  · rw [copies_wr_ne _ _ (.inl (by decide)), copies_wr_self _ _ _ _ rfl]
    rfl

theorem voteHolds_setOwner : ∀ f ∈ ownerFields, voteHolds (setOwner d t p a r) f t = true := by
  obtain ⟨hp, ha, hr⟩ := copies_setOwner d t p a r
  intro f hf
  simp only [ownerFields, List.mem_cons, List.not_mem_nil, or_false] at hf
  rcases hf with rfl | rfl | rfl
  · exact voteHolds_iff.2 ⟨_, voteOf_of_copies hp⟩
  · exact voteHolds_iff.2 ⟨_, voteOf_of_copies ha⟩
  · exact voteHolds_iff.2 ⟨_, voteOf_of_copies hr⟩

/-- One write of the owner's three fields is what they then read. -/
theorem rd_setOwner : rd (setOwner d t p a r) .tileOwnerPartition t = p % 2 ^ 6 ∧ rd (setOwner d t p a r) .tileOwnerAssigned t = a % 2 ∧
    rd (setOwner d t p a r) .tileOwnerReleasing t = r % 2 := by
  obtain ⟨hp, ha, hr⟩ := copies_setOwner d t p a r
  have hh := voteHolds_setOwner d t p a r
  exact ⟨rd_of_copies rfl hh hp, rd_of_copies rfl hh ha, rd_of_copies rfl hh hr⟩

theorem onlyRegs_setOwner {d0 : Dev} {l : List (Fld × Nat)} (h : onlyRegs d0 d l) (hl : ∀ f ∈ ownerFields, (f, t) ∈ l) :
    onlyRegs d0 (setOwner d t p a r) l :=
  onlyRegs_wr (onlyRegs_wr (onlyRegs_wr h (hl _ (by decide))) (hl _ (by decide))) (hl _ (by decide))

theorem writesOnly_setOwner : WritesOnly ownerFields d (setOwner d t p a r) :=
  WritesOnly.wr (WritesOnly.wr (writesOnly_wr (by decide) ..) (by decide) ..) (by decide) ..

end

theorem tileOwner_none {d : Dev} {t : Nat} (h : rd d .tileOwnerAssigned t = 0) : tileOwner d t = none :=
  if_neg (by rw [isSet, h]; decide)

/-- Setting RELEASING of a tile that has an owner sets it. -/
theorem isSet_releasing {d : Dev} {t p : Nat} (h : tileOwner d t = some p) : isSet (wr d .tileOwnerReleasing t 1) .tileOwnerReleasing t = true := by
  have ha : rd d .tileOwnerAssigned t = 1 := by
    unfold tileOwner at h
    split at h
    · rename_i hs
      exact beq_iff_eq.1 hs
    · cases h
  have hh : (votedWith .tileOwnerAssigned).all (fun g => voteHolds d g t) = true := by
    by_contra hn
    have hf : rd d .tileOwnerAssigned t = fallback .tileOwnerAssigned := by
      unfold rd
      exact (if_pos rfl).trans (if_neg hn)
    rw [hf] at ha
    cases ha
  rw [isSet, rd_wr_voted d .tileOwnerReleasing t 1 rfl fun g hg _ => List.all_eq_true.1 hh g hg]
  rfl

/-! ### TILE_CMD -/

def cmdFlds : List Fld := [.tileCmdTile, .tileCmdPartition, .tileCmdOp]

section
variable {d : Dev} {t p op : Nat}

theorem writesOnly_tileCmd (d : Dev) (t p op : Nat) : WritesOnly cmdFlds d (tileCmd d t p op) :=
  WritesOnly.wr (WritesOnly.wr (writesOnly_wr (by decide) ..) (by decide) ..) (by decide) ..

theorem onlyRegs_tileCmd (d : Dev) (t p op : Nat) : onlyRegs d (tileCmd d t p op) [(.tileCmdTile, 0), (.tileCmdPartition, 0), (.tileCmdOp, 0)] :=
  onlyRegs_wr (onlyRegs_wr (onlyRegs_wr (onlyRegs_refl ..) (by simp)) (by simp)) (by simp)

theorem tileOwner_tileCmd (d : Dev) (t p op u : Nat) : tileOwner (tileCmd d t p op) u = tileOwner d u :=
  tileOwner_congr d ((writesOnly_tileCmd d t p op).regs _ _ (by decide)) ((writesOnly_tileCmd d t p op).regs _ _ (by decide))

theorem tileGo_busy (h : isSet d .tileCmdBusy 0 = true) : tileGo (tileCmd d t p op) = tileCmd d t p op := by
  unfold tileGo
  dsimp only
  rw [isSet, (writesOnly_tileCmd d t p op).regs _ _ (by decide)]
  exact if_pos h

variable (ht : t < 2048) (hp : p < partitions) (hb : isSet d .tileCmdBusy 0 = false)
include ht hp hb

/-- The operands of a command that is not discarded, in place. -/
theorem tileCmd_reads (hop : op < 4) : rd (tileCmd d t p op) .tileCmdTile 0 = t ∧ rd (tileCmd d t p op) .tileCmdPartition 0 = p ∧
    rd (tileCmd d t p op) .tileCmdOp 0 = op ∧ isSet (tileCmd d t p op) .tileCmdBusy 0 = false := by
  refine ⟨?_, ?_, (rd_wr_self _ _ _ _ rfl).trans (Nat.mod_eq_of_lt hop), ?_⟩
  · unfold tileCmd
    rw [rd_wr_plain_ne _ _ _ _ rfl (by decide), rd_wr_plain_ne _ _ _ _ rfl (by decide)]
    exact (rd_wr_self _ _ _ _ rfl).trans (Nat.mod_eq_of_lt ht)
  · unfold tileCmd
    rw [rd_wr_plain_ne _ _ _ _ rfl (by decide)]
    exact (rd_wr_self _ _ _ _ rfl).trans (Nat.mod_eq_of_lt hp)
  · rw [isSet, (writesOnly_tileCmd d t p op).regs _ _ (by decide)]
    exact hb

theorem tileGo_assign : tileGo (tileCmd d t p 1) = assignGo (tileCmd d t p 1) t p := by
  obtain ⟨h1, h2, h3, h4⟩ := tileCmd_reads (op := 1) ht hp hb (by decide)
  unfold tileGo
  dsimp only
  rw [h1, h2, h3, h4, if_neg Bool.false_ne_true]
  rfl

theorem tileGo_release : tileGo (tileCmd d t p 2) = releaseGo (tileCmd d t p 2) t p := by
  obtain ⟨h1, h2, h3, h4⟩ := tileCmd_reads (op := 2) ht hp hb (by decide)
  unfold tileGo
  dsimp only
  rw [h1, h2, h3, h4, if_neg Bool.false_ne_true]
  rfl

end

/-- A result shown for a command that did nothing else. -/
theorem tileResult_spec (d : Dev) (t p op : Nat) {c : Nat} (hc : c < 256) : rd (tileResult (tileCmd d t p op) c) .tileCmdResult 0 = c ∧
    onlyRegs d (tileResult (tileCmd d t p op) c) [(.tileCmdTile, 0), (.tileCmdPartition, 0), (.tileCmdOp, 0), (.tileCmdResult, 0)] :=
  ⟨(rd_wr_self _ _ _ _ rfl).trans (Nat.mod_eq_of_lt hc), onlyRegs_wr (onlyRegs_mono (onlyRegs_tileCmd d t p op)
    (List.cons_subset_cons _ (List.cons_subset_cons _ (List.cons_subset_cons _ (List.nil_subset _))))) (by simp)⟩

/-! ### Assignment (R446) -/

/-- What forbids an assignment. -/
def assignBad (d : Dev) (t p : Nat) : Prop :=
  p = 0 ∨ tiles ≤ t ∨ isSet d .tileOwnerAssigned t = true ∨ isSet d .tileOwnerReleasing t = true ∨ tileFailedBit d t = true

theorem assignBad_tileCmd (d : Dev) (t p op : Nat) : assignBad (tileCmd d t p op) t p ↔ assignBad d t p := by
  have hr := fun f (hf : ∀ g ∈ cmdFlds, g ∉ votedWith f) i => (writesOnly_tileCmd d t p op).regs f i hf
  unfold assignBad isSet tileFailedBit
  rw [hr .tileOwnerAssigned (by decide), hr .tileOwnerReleasing (by decide), hr .safetyTileFailed (by decide)]

section
variable {d : Dev} {t p : Nat}

theorem assignGo_bad (h : assignBad d t p) : assignGo d t p = tileResult d 0xEA := if_pos h

theorem assignGo_breaks (h : ¬ assignBad d t p) (hb : breaksSeal d (wake (setOwner d t p 1 0) (.tile t)) = true) :
    assignGo d t p = tileResult d 0x88 := (if_neg h).trans (if_pos hb)

theorem assignGo_done (h : ¬ assignBad d t p) (hb : breaksSeal d (wake (setOwner d t p 1 0) (.tile t)) = false) :
    assignGo d t p = tileResult (wake (setOwner d t p 1 0) (.tile t)) 0 := (if_neg h).trans (if_neg (by rw [hb]; decide))

end

theorem wake_congr {d e : Dev} {m : Domain} (hs : domState e m = domState d m) (hp : e.pwr = d.pwr) : (wake e m).pwr = (wake d m).pwr := by
  unfold wake
  rw [hs, hp]
  split
  · exact hp
  · exact congrArg (fun x : PwrSt => { x with waking := m :: x.waking }) hp

/-- A domain that wakes beside registers that change. -/
theorem onlyRegs_wake {d e : Dev} {l : List (Fld × Nat)} {m : Domain} (h : onlyRegs d e l) (hs : domState e m = domState d m) :
    onlyRegs (wake d m) (wake e m) l := by
  have hp : e.pwr = d.pwr := (congrArg Dev.pwr h.1 :)
  refine ⟨?_, fun f i hf => by rw [rd_wake, rd_wake, h.2 f i hf]⟩
  rw [wake_eq e, wake_eq d, wake_congr hs hp]
  exact congrArg (fun x : Dev => { x with pwr := (wake d m).pwr }) h.1

/-- The tile is the partition's, and its domain wakes. -/
theorem assigned_spec (d : Dev) (t : Nat) {p : Nat} (hp : p < partitions) (op : Nat) :
    let e := tileResult (wake (setOwner (tileCmd d t p op) t p 1 0) (.tile t)) 0
    rd e .tileCmdResult 0 = 0 ∧ tileOwner e t = some p ∧ isSet e .tileOwnerReleasing t = false ∧
    onlyRegs (wake d (.tile t)) e [(.tileCmdTile, 0), (.tileCmdPartition, 0), (.tileCmdOp, 0), (.tileCmdResult, 0),
      (.tileOwnerPartition, t), (.tileOwnerAssigned, t), (.tileOwnerReleasing, t)] := by
  intro e
  obtain ⟨h1, h2, h3⟩ := rd_setOwner (tileCmd d t p op) t p 1 0
  have hr : ∀ f i, f ≠ .tileCmdResult → rd e f i = rd (setOwner (tileCmd d t p op) t p 1 0) f i := fun f i hf => by
    simp only [e, tileResult]
    rw [rd_wr_plain_ne _ _ _ _ rfl hf, rd_wake]
  have hset : onlyRegs d (setOwner (tileCmd d t p op) t p 1 0) [(.tileCmdTile, 0), (.tileCmdPartition, 0), (.tileCmdOp, 0), (.tileCmdResult, 0),
      (.tileOwnerPartition, t), (.tileOwnerAssigned, t), (.tileOwnerReleasing, t)] := by
    refine onlyRegs_setOwner _ _ _ _ _ (onlyRegs_mono (onlyRegs_tileCmd d t p op) ?_) ?_
    · exact List.cons_subset_cons _ (List.cons_subset_cons _ (List.cons_subset_cons _ (List.nil_subset _)))
    · simp [ownerFields]
  have hdom : domState (setOwner (tileCmd d t p op) t p 1 0) (.tile t) = domState d (.tile t) :=
    ((writesOnly_setOwner (tileCmd d t p op) t p 1 0).regs .powerTileState t (by decide)).trans
      ((writesOnly_tileCmd d t p op).regs .powerTileState t (by decide))
  refine ⟨rd_wr_self _ _ _ _ rfl, ?_, ?_, onlyRegs_wr (onlyRegs_wake hset hdom) (by simp)⟩
  · unfold tileOwner isSet
    rw [hr _ _ (by decide), hr _ _ (by decide), h1, h2]
    exact congrArg some (Nat.mod_eq_of_lt hp)
  · rw [isSet, hr _ _ (by decide), h3]
    rfl

/-! ### Release (R446, R447) -/

section
variable {d : Dev} {t p : Nat}

theorem releaseGo_bad (h : tiles ≤ t ∨ tileOwner d t ≠ some p) : releaseGo d t p = tileResult d 0xEA := if_pos h

theorem releaseGo_breaks (ht : t < tiles) (ho : tileOwner d t = some p) (hb : breaksSeal d (setOwner d t 0 0 0) = true) :
    releaseGo d t p = tileResult d 0x88 := (if_neg (not_or.2 ⟨Nat.not_le.2 ht, not_not.2 ho⟩)).trans (if_pos hb)

theorem releaseGo_begins (ht : t < tiles) (ho : tileOwner d t = some p) (hb : breaksSeal d (setOwner d t 0 0 0) = false) :
    releaseGo d t p = wr (wr d .tileOwnerReleasing t 1) .tileCmdBusy 0 1 :=
  (if_neg (not_or.2 ⟨Nat.not_le.2 ht, not_not.2 ho⟩)).trans (if_neg (by rw [hb]; decide))

end

theorem releasingShown_spec (d : Dev) {t p : Nat} (ho : tileOwner d t = some p) (op : Nat) :
    let e := wr (wr (tileCmd d t p op) .tileOwnerReleasing t 1) .tileCmdBusy 0 1
    isSet e .tileCmdBusy 0 = true ∧ isSet e .tileOwnerReleasing t = true ∧
    onlyRegs d e [(.tileCmdTile, 0), (.tileCmdPartition, 0), (.tileCmdOp, 0), (.tileOwnerReleasing, t), (.tileCmdBusy, 0)] := by
  refine ⟨isSet_wr_one _ _ _ rfl rfl, ?_, ?_⟩
  · rw [isSet, rd_wr_plain_ne _ _ _ _ rfl (by decide)]
    exact isSet_releasing ((tileOwner_tileCmd d t p op t).trans ho)
  · refine onlyRegs_wr (onlyRegs_wr (onlyRegs_mono (onlyRegs_tileCmd d t p op) ?_) (by simp)) (by simp)
    exact List.cons_subset_cons _ (List.cons_subset_cons _ (List.cons_subset_cons _ (List.nil_subset _)))

/-! ### The end of a release -/

theorem rd_answered {α : Type} (d : Dev) (src dest : Nat) (x : Option Nat × α) {f : Fld} (i : Nat) (hf : f ≠ .meshNoRouteDrops) :
    rd (answered src dest (d, x)).1 f i = rd d f i := by
  unfold answered responseCause
  dsimp only
  split
  · rfl
  · exact rd_wr_plain_ne _ _ _ _ rfl hf
  · rfl

theorem rd_dpaWrite (d : Dev) (src a : Nat) (bs : List Byte) {f : Fld} (i : Nat) (hm : f ∉ memFlds) (hf : f ≠ .meshNoRouteDrops) :
    rd (dpaWrite d src a bs).1 f i = rd d f i := by
  unfold dpaWrite
  split
  · rfl
  · split
    · rfl
    · exact (rd_answered _ _ _ _ _ hf).trans ((memOnly_memWrite ..).regs _ _ hm)

theorem rd_wipeJournal (d : Dev) (t : Nat) {f : Fld} (i : Nat) (hm : f ∉ memFlds) (hf : f ≠ .meshNoRouteDrops) :
    rd (wipeJournal d t) f i = rd d f i := by
  unfold wipeJournal
  dsimp only
  rw [rd_onDisp, rd_foldl fun d e => rd_dpaWrite _ _ _ _ _ hm hf, rd_foldl fun d e => rd_dpaWrite _ _ _ _ _ hm hf]

theorem journalOf_wipeJournal (d : Dev) (t : Nat) : journalOf (wipeJournal d t) t = {} := by
  unfold journalOf wipeJournal getD
  dsimp only [onDisp]
  rw [find?_del_self]
  rfl

/-- A journal that lists nothing is only unlisted. -/
theorem wipeJournal_empty {d : Dev} {t : Nat} (h : journalOf d t = {}) : wipeJournal d t = onDisp d fun s => { s with journals := del s.journals t } := by
  unfold wipeJournal
  rw [h]
  rfl

theorem find?_wipeScratch {d : Dev} {t x : Nat} : find? (wipeScratch d t).mem.bytes x =
    if x < spAddr t 0 ∨ spAddr t spBytes ≤ x then find? d.mem.bytes x else none := by
  refine (find?_filter_keys d.mem.bytes (fun a => decide (a < spAddr t 0 ∨ spAddr t spBytes ≤ a)) x).trans ?_
  simp only [decide_eq_true_eq]

/-- The tile with neither owner nor scratchpad. -/
def disowned (d : Dev) (t : Nat) : Dev := wipeScratch (ownerHealed (setOwner d t 0 0 0) t) t

@[simp] theorem rd_disowned (d : Dev) (t : Nat) (f : Fld) (i : Nat) : rd (disowned d t) f i = rd (setOwner d t 0 0 0) f i := rfl

theorem journalOf_disowned (d : Dev) (t : Nat) : journalOf (disowned d t) t = journalOf d t :=
  congrArg (fun m : KMap Journal => getD m t {}) (part_of_besideRegs (writesOnly_setOwner d t 0 0 0).rest (·.disp.journals) fun _ => rfl)

theorem releaseEnd_eq (d : Dev) (t : Nat) : releaseEnd d t =
    if isSet d .tileCmdBusy 0 && rd d .tileCmdTile 0 == t then tileResult (wr (wipeJournal (disowned d t) t) .tileCmdBusy 0 0) 0
    else wipeJournal (disowned d t) t := rfl

theorem besideRegs_releaseEnd (d : Dev) (t : Nat) : besideRegs (releaseEnd d t) = besideRegs (wipeJournal (disowned d t) t) := by
  rw [releaseEnd_eq]
  split
  · rw [tileResult, besideRegs_wr, besideRegs_wr]
  · rfl

theorem rd_releaseEnd (d : Dev) (t : Nat) {f : Fld} (i : Nat) (hm : f ∉ memFlds) (hf : f ∉ [Fld.meshNoRouteDrops, .tileCmdBusy, .tileCmdResult]) :
    rd (releaseEnd d t) f i = rd (setOwner d t 0 0 0) f i := by
  simp only [List.mem_cons, List.not_mem_nil, or_false, not_or] at hf
  obtain ⟨h1, h2, h3⟩ := hf
  rw [releaseEnd_eq]
  split
  · rw [tileResult, rd_wr_plain_ne _ _ _ _ rfl h3, rd_wr_plain_ne _ _ _ _ rfl h2, rd_wipeJournal _ _ _ hm h1, rd_disowned]
  · rw [rd_wipeJournal _ _ _ hm h1, rd_disowned]

/-- What a tile is once it is released. -/
theorem releaseEnd_tile (d : Dev) (t : Nat) : tileOwner (releaseEnd d t) t = none ∧ isSet (releaseEnd d t) .tileOwnerReleasing t = false ∧
    journalOf (releaseEnd d t) t = {} := by
  obtain ⟨-, h2, h3⟩ := rd_setOwner d t 0 0 0
  refine ⟨tileOwner_none ((rd_releaseEnd d t t (by decide) (by decide)).trans h2), ?_, ?_⟩
  · rw [isSet, rd_releaseEnd d t t (by decide) (by decide), h3]
    rfl
  · unfold journalOf
    rw [part_of_besideRegs (besideRegs_releaseEnd d t) (·.disp.journals) fun _ => rfl]
    exact journalOf_wipeJournal ..

theorem releaseEnd_answered {d : Dev} {t : Nat} (hb : isSet d .tileCmdBusy 0 = true) (ht : rd d .tileCmdTile 0 = t) :
    isSet (releaseEnd d t) .tileCmdBusy 0 = false ∧ rd (releaseEnd d t) .tileCmdResult 0 = 0 := by
  rw [releaseEnd_eq, hb, ht, beq_self_eq_true, Bool.and_self, if_pos rfl]
  refine ⟨?_, rd_wr_self _ _ _ _ rfl⟩
  rw [tileResult, isSet_wr_ne _ _ rfl (by decide), isSet, rd_wr_self _ _ _ _ rfl]
  rfl

theorem onlyRegs_parts {d e : Dev} {l : List (Fld × Nat)} (h : onlyRegs d e l) (m : MemSt) (p : DispSt) (f : SafeSt) :
    onlyRegs { d with mem := m, disp := p, safe := f } { e with mem := m, disp := p, safe := f } l :=
  ⟨congrArg (fun x : Dev => { x with mem := m, disp := p, safe := f }) h.1, fun f i hf => h.2 f i hf⟩

section
variable {d : Dev} {t : Nat} (hj : journalOf d t = {})
include hj

theorem find?_releaseEnd (x : Nat) : find? (releaseEnd d t).mem.bytes x =
    if x < spAddr t 0 ∨ spAddr t spBytes ≤ x then find? d.mem.bytes x else none := by
  rw [part_of_besideRegs (besideRegs_releaseEnd d t) (·.mem.bytes) fun _ => rfl, wipeJournal_empty ((journalOf_disowned d t).trans hj),
    onDisp_mem, disowned, find?_wipeScratch]
  rw [show (ownerHealed (setOwner d t 0 0 0) t).mem = (setOwner d t 0 0 0).mem from rfl,
    part_of_besideRegs (writesOnly_setOwner d t 0 0 0).rest Dev.mem fun _ => rfl]

theorem onlyRegs_releaseEnd : onlyRegs { d with mem := (releaseEnd d t).mem, disp := (releaseEnd d t).disp, safe := (releaseEnd d t).safe }
    (releaseEnd d t) [(.tileOwnerPartition, t), (.tileOwnerAssigned, t), (.tileOwnerReleasing, t), (.tileCmdBusy, 0), (.tileCmdResult, 0)] := by
  have hset : onlyRegs d (setOwner d t 0 0 0) [(.tileOwnerPartition, t), (.tileOwnerAssigned, t), (.tileOwnerReleasing, t), (.tileCmdBusy, 0),
      (.tileCmdResult, 0)] := onlyRegs_setOwner _ _ _ _ _ (onlyRegs_refl ..) (by simp [ownerFields])
  have hw : wipeJournal (disowned d t) t = onDisp (disowned d t) fun s => { s with journals := del s.journals t } :=
    wipeJournal_empty ((journalOf_disowned d t).trans hj)
  have hbase : onlyRegs
      { d with mem := (wipeJournal (disowned d t) t).mem, disp := (wipeJournal (disowned d t) t).disp, safe := (wipeJournal (disowned d t) t).safe }
      (wipeJournal (disowned d t) t)
      [(.tileOwnerPartition, t), (.tileOwnerAssigned, t), (.tileOwnerReleasing, t), (.tileCmdBusy, 0), (.tileCmdResult, 0)] := by
    rw [hw]
    exact onlyRegs_parts hset _ _ _
  have hb := besideRegs_releaseEnd d t
  rw [part_of_besideRegs hb Dev.mem fun _ => rfl, part_of_besideRegs hb Dev.disp fun _ => rfl, part_of_besideRegs hb Dev.safe fun _ => rfl,
    releaseEnd_eq]
  split
  · exact onlyRegs_wr (onlyRegs_wr hbase (by simp)) (by simp)
  · exact hbase

end

/-! ### The obligation -/

/-- Settles O52: each command by the cases of its acceptance, a release's end by what it drops. -/
theorem tileOwnership : Obligations.TileOwnership := by
  unfold Obligations.TileOwnership
  refine ⟨fun s t p ht hp hd hb => ⟨?_, ?_⟩, fun s t p c hc ht hp hd hb => ?_, fun s t hr => ⟨fun hne => ?_, fun hi hh => ?_⟩⟩
  · intro d bad breaks
    have hans : Answers (.tileAssign t p) s (assignGo (tileCmd s.dev t p 1) t p) :=
      (answers_drv (n := "TILE_ASSIGN") rfl (decide_eq_true ⟨ht, hp⟩) hd).trans (by rw [tileGo_assign ht hp hb])
    have hbad : assignBad (tileCmd s.dev t p 1) t p ↔ bad := assignBad_tileCmd s.dev t p 1
    obtain ⟨hea, hoa⟩ := tileResult_spec s.dev t p 1 (c := 0xEA) (by decide)
    obtain ⟨h88, ho8⟩ := tileResult_spec s.dev t p 1 (c := 0x88) (by decide)
    refine ⟨_, hans, fun h => ?_, fun h hbr => ?_, fun h => ?_, fun h hbr => ?_⟩
    · rw [assignGo_bad (hbad.2 h)]
      exact hea
    · rw [assignGo_breaks (mt hbad.1 h) hbr]
      exact h88
    · by_cases hx : bad
      · rw [assignGo_bad (hbad.2 hx)]
        exact hoa
      · rw [assignGo_breaks (mt hbad.1 hx) (h.resolve_left hx)]
        exact ho8
    · rw [assignGo_done (mt hbad.1 h) hbr]
      exact assigned_spec s.dev t hp 1
  · intro d
    have hans : Answers (.tileRelease t p) s (releaseGo (tileCmd s.dev t p 2) t p) :=
      (answers_drv (n := "TILE_RELEASE") rfl (decide_eq_true ⟨ht, hp⟩) hd).trans (by rw [tileGo_release ht hp hb])
    have ho := tileOwner_tileCmd s.dev t p 2 t
    refine ⟨_, hans, fun h => ?_, fun hlt hown hbr => ?_, fun hlt hown hbr => ?_⟩
    · rw [releaseGo_bad (by rw [ho]; exact h)]
      exact tileResult_spec s.dev t p 2 (by decide)
    · rw [releaseGo_breaks hlt (ho.trans hown) hbr]
      exact tileResult_spec s.dev t p 2 (by decide)
    · rw [releaseGo_begins hlt (ho.trans hown) hbr]
      exact releasingShown_spec s.dev hown 2
  · simp only [List.mem_cons, List.not_mem_nil, or_false] at hc
    rcases hc with rfl | rfl
    · refine ⟨_, answers_drv (n := "TILE_ASSIGN") rfl (decide_eq_true ⟨ht, hp⟩) hd, ?_⟩
      rw [tileGo_busy hb]
      exact onlyRegs_tileCmd ..
    · refine ⟨_, answers_drv (n := "TILE_RELEASE") rfl (decide_eq_true ⟨ht, hp⟩) hd, ?_⟩
      rw [tileGo_busy hb]
      exact onlyRegs_tileCmd ..
  · exact ⟨_, answers_act (n := "TILE_RELEASE_TIMEOUT") rfl (by simp [hr, hne]), rfl⟩
  · obtain ⟨h1, h2, h3⟩ := releaseEnd_tile s.dev t
    refine ⟨_, answers_act (n := "TILE_RELEASE_DONE") rfl (by simp [hr, hi]; exact hh), h1, h2, h3, releaseEnd_answered, fun hj =>
      ⟨fun o n hon => ?_, fun a ha => ?_, onlyRegs_releaseEnd hj⟩⟩
    · refine readSparse_zeros _ _ _ fun x hx hx' => (find?_releaseEnd hj x).trans (if_neg ?_)
      unfold spAddr at *
      omega
    · refine readSparse_congr fun x hx hx' => (find?_releaseEnd hj x).trans (if_pos ?_)
      obtain rfl : x = a := by omega
      exact ha

end Sys2Proof.Machine
end


section
/-!
Collective groups, queues, rounds and their ends (R391 to R394, R397, R406, R408), and O50.
-/
namespace Sys2Proof.Machine

/-! ### Group commands (R391 to R393) -/

section
variable (d : Dev) {g op : Nat} (c : Nat)

theorem rd_collResult (f : Fld) (i : Nat) (hf : f ∉ [Fld.transportCollCmdGroup, .transportCollCmdOp, .transportCollCmdResult]) :
    rd (collResult d g op c) f i = rd d f i := by
  simp only [List.mem_cons, List.not_mem_nil, or_false, not_or] at hf
  obtain ⟨h1, h2, h3⟩ := hf
  rw [collResult, rd_wr_plain_ne _ _ _ _ rfl h3, rd_wr_plain_ne _ _ _ _ rfl h2, rd_wr_plain_ne _ _ _ _ rfl h1]

theorem coll_collResult : (collResult d g op c).coll = d.coll := by
  refine part_of_besideRegs ?_ Dev.coll fun _ => rfl
  simp only [collResult, besideRegs_wr]

/-- A group command that answers shows its group, its OP and its result. -/
theorem collResult_spec (hg : g < 256) (hop : op < 16) : rd (collResult d g op c) .transportCollCmdGroup 0 = g ∧
    rd (collResult d g op c) .transportCollCmdOp 0 = op ∧ rd (collResult d g op c) .transportCollCmdResult 0 = c % 256 ∧
    onlyRegs d (collResult d g op c) [(.transportCollCmdGroup, 0), (.transportCollCmdOp, 0), (.transportCollCmdResult, 0)] := by
  unfold collResult
  refine ⟨?_, ?_, rd_wr_self _ _ _ _ rfl, onlyRegs_wr (onlyRegs_wr (onlyRegs_wr (onlyRegs_refl d _) (by simp)) (by simp)) (by simp)⟩
  · rw [rd_wr_plain_ne _ _ _ _ rfl (by decide), rd_wr_plain_ne _ _ _ _ rfl (by decide)]
    exact (rd_wr_self _ _ _ _ rfl).trans (Nat.mod_eq_of_lt hg)
  · rw [rd_wr_plain_ne _ _ _ _ rfl (by decide)]
    exact (rd_wr_self _ _ _ _ rfl).trans (Nat.mod_eq_of_lt hop)

end

/-- A group that R392 allows. -/
def groupSound (c : CollGroup) : Prop :=
  2 ≤ c.members.length ∧ c.members.length ≤ 128 ∧ c.rank < c.members.length ∧ 1 ≤ c.timeoutMs ∧ c.part < 64

/-- The registers and the members of a loaded group. -/
def groupLoaded (x : Dev) (g : Nat) (c : CollGroup) : Dev :=
  wr (wr (wr (wr (onColl x fun y => { y with groups := put y.groups g c }) .transportCollGroupState g 1) .transportCollGroupPartition g c.part)
    .transportCollGroupRound g 0) .transportCollGroupLastCause g 0

theorem groupSound_of_header {head part : Nat} {direct : Bool} {ms : List Nat} (hn : ms.length = cut head 0 8) (h : groupBad head ms = false)
    (f : Nat → Nat × Nat) (hp : part < 64) :
    groupSound { part := part, rank := cut head 8 7, direct := direct, timeoutMs := cut head 32 16, members := ms.map f } := by
  simp only [groupBad, Bool.or_eq_false_iff, decide_eq_false_iff_not, not_or, not_lt, not_le] at h
  obtain ⟨⟨⟨-, h1, h2, h3⟩, h4⟩, -⟩ := h
  simp only [groupSound, List.length_map, hn]
  refine ⟨h1, h2, h3, Nat.one_le_iff_ne_zero.2 ?_, hp⟩
  simpa using h4

/-- A load that succeeds has given the group its members. -/
theorem groupLoadGo_loaded {d e : Dev} {g : Nat} (h : groupLoadGo d g = (e, .ok 0)) : ∃ x c, e = groupLoaded x g c ∧ groupSound c := by
  have hno : ∀ x : Dev, (x, (Except.ok 0xDD : Except Nat Nat)) ≠ (e, .ok 0) := fun x hx => by cases hx
  unfold groupLoadGo at h
  dsimp only at h
  split at h
  · exact absurd h (hno _)
  · split at h
    · exact absurd h (hno _)
    · split at h
      · exact absurd h (hno _)
      · split at h
        · exact absurd h (hno _)
        · split at h
          · exact absurd h (hno _)
          · rename_i hbad
            split at h
            · cases h
            · exact absurd h (hno _)
            · cases h
              refine ⟨_, _, rfl, groupSound_of_header ?_ (Bool.eq_false_iff.2 hbad) _ (cut_lt ..)⟩
              rw [List.length_map, List.length_range]

theorem groupLoaded_spec (x : Dev) (g : Nat) {c : CollGroup} (hp : c.part < 64) : rd (groupLoaded x g c) .transportCollGroupState g = 1 ∧
    rd (groupLoaded x g c) .transportCollGroupRound g = 0 ∧ rd (groupLoaded x g c) .transportCollGroupLastCause g = 0 ∧
    find? (groupLoaded x g c).coll.groups g = some c ∧ rd (groupLoaded x g c) .transportCollGroupPartition g = c.part := by
  have hb : besideRegs (groupLoaded x g c) = besideRegs (onColl x fun y => { y with groups := put y.groups g c }) := by
    simp only [groupLoaded, besideRegs_wr]
  rw [part_of_besideRegs hb (·.coll.groups) fun _ => rfl]
  unfold groupLoaded
  refine ⟨?_, ?_, rd_wr_self _ _ _ _ rfl, find?_put_self .., ?_⟩
  · simp (disch := decide) only [rd_wr_plain_ne]
    exact rd_wr_self _ _ _ _ rfl
  · simp (disch := decide) only [rd_wr_plain_ne]
    exact rd_wr_self _ _ _ _ rfl
  · simp (disch := decide) only [rd_wr_plain_ne]
    exact (rd_wr_self _ _ _ _ rfl).trans (Nat.mod_eq_of_lt hp)

section
variable {d : Dev} {g : Nat}

theorem groupLoadEffect_answered {x : Dev} {c : Nat} (hb : isSet d .transportCollCmdBusy = false) (h : groupLoadGo d g = (x, .ok c)) :
    groupLoadEffect d g = collResult x g 1 c := by
  unfold groupLoadEffect
  rw [hb, if_neg Bool.false_ne_true, h]

theorem groupLoadEffect_waits {x : Dev} {n : Nat} (hb : isSet d .transportCollCmdBusy = false) (h : groupLoadGo d g = (x, .error n)) :
    groupLoadEffect d g = awaitCtx (wr (wr (wr x .transportCollCmdBusy 0 1) .transportCollCmdGroup 0 g) .transportCollCmdOp 0 1) n (.group g) := by
  unfold groupLoadEffect
  rw [hb, if_neg Bool.false_ne_true, h]

theorem groupLoadGo_refused (h : rd d .transportCollGroupState g ≠ 0 ∨ hbmEnd < rd d .transportCollCmdAddr 0 * 64 + 64) :
    groupLoadGo d g = (d, .ok 0xDD) := if_pos h

/-- A load that waits for a context. -/
theorem groupWaits_spec (x : Dev) (g n : Nat) :
    let e := awaitCtx (wr (wr (wr x .transportCollCmdBusy 0 1) .transportCollCmdGroup 0 g) .transportCollCmdOp 0 1) n (.group g)
    rd e .transportCollCmdBusy 0 = 1 ∧ e.tr.ctxWait = x.tr.ctxWait ++ [(n, .group g)] ∧ e.coll = x.coll := by
  have hb : besideRegs (wr (wr (wr x .transportCollCmdBusy 0 1) .transportCollCmdGroup 0 g) .transportCollCmdOp 0 1) = besideRegs x := by
    simp only [besideRegs_wr]
  refine ⟨?_, ?_, part_of_besideRegs hb Dev.coll fun _ => rfl⟩
  · rw [awaitCtx, rd_onTr]
    simp (disch := decide) only [rd_wr_plain_ne]
    exact rd_wr_self _ _ _ _ rfl
  · exact congrArg (· ++ [(n, CtxUser.group g)]) (part_of_besideRegs hb (·.tr.ctxWait) fun _ => rfl)

/-- The group's entry emptied. -/
def groupDropped (d : Dev) (g : Nat) : Dev :=
  onTr (onColl d fun c => { c with groups := del c.groups g, waiting := c.waiting.filter (fun m => m.group ≠ g), level := del c.level g }) fun t =>
    { t with openMsgs := t.openMsgs.filter fun o => !(o.op == 9 && o.key == g) }

/-- The registers of an empty group. -/
def groupEmptied (d : Dev) (g : Nat) : Dev :=
  collShow (wr (wr (wr (groupDropped d g) .transportCollGroupState g 0) .transportCollGroupPartition g 0) .transportCollGroupRound g 0)

theorem groupUnloadEffect_refused (hb : isSet d .transportCollCmdBusy = false) (h : rd d .transportCollGroupState g = 2) :
    groupUnloadEffect d g = collResult d g 2 0xDD := by
  unfold groupUnloadEffect
  rw [hb, if_neg Bool.false_ne_true, if_pos h]

theorem groupUnloadEffect_done (hb : isSet d .transportCollCmdBusy = false) (h : rd d .transportCollGroupState g ≠ 2) :
    groupUnloadEffect d g = collResult (groupEmptied d g) g 2 0 := by
  unfold groupUnloadEffect
  rw [hb, if_neg Bool.false_ne_true, if_neg h]
  rfl

theorem groupEmptied_spec (d : Dev) (g : Nat) : rd (groupEmptied d g) .transportCollGroupState g = 0 ∧
    (groupEmptied d g).coll.groups = del d.coll.groups g ∧ (groupEmptied d g).coll.waiting = d.coll.waiting.filter (fun m => m.group ≠ g) := by
  have hb : besideRegs (groupEmptied d g) = besideRegs (groupDropped d g) := by
    simp only [groupEmptied, collShow, besideRegs_wr]
  refine ⟨?_, part_of_besideRegs hb (·.coll.groups) fun _ => rfl, part_of_besideRegs hb (·.coll.waiting) fun _ => rfl⟩
  unfold groupEmptied collShow
  simp (disch := decide) only [rd_wr_plain_ne]
  exact rd_wr_self _ _ _ _ rfl

end

/-- GROUP_UNLOAD's answers. -/
theorem groupUnload_spec {d : Dev} {g : Nat} (hg : g < 256) (hb : isSet d .transportCollCmdBusy = false) :
    let e := groupUnloadEffect d g
    rd e .transportCollCmdGroup 0 = g ∧ rd e .transportCollCmdOp 0 = 2 ∧
    (rd d .transportCollGroupState g = 2 → rd e .transportCollCmdResult 0 = 0xDD ∧
      onlyRegs d e [(.transportCollCmdGroup, 0), (.transportCollCmdOp, 0), (.transportCollCmdResult, 0)]) ∧
    (rd d .transportCollGroupState g ≠ 2 → rd e .transportCollCmdResult 0 = 0 ∧ rd e .transportCollGroupState g = 0 ∧
      find? e.coll.groups g = none ∧ (∀ m ∈ e.coll.waiting, m.group ≠ g) ∧ ∀ h, h ≠ g → find? e.coll.groups h = find? d.coll.groups h) := by
  dsimp only
  by_cases hst : rd d .transportCollGroupState g = 2
  · rw [groupUnloadEffect_refused hb hst]
    obtain ⟨h1, h2, h3, h4⟩ := collResult_spec d (op := 2) 0xDD hg (by decide)
    exact ⟨h1, h2, fun _ => ⟨h3, h4⟩, fun h => absurd hst h⟩
  · rw [groupUnloadEffect_done hb hst]
    obtain ⟨h1, h2, h3, -⟩ := collResult_spec (groupEmptied d g) (op := 2) 0 hg (by decide)
    obtain ⟨hs, hgr, hwt⟩ := groupEmptied_spec d g
    rw [coll_collResult, hgr, hwt, rd_collResult _ _ .transportCollGroupState _ (by decide)]
    exact ⟨h1, h2, fun h => absurd h hst, fun _ => ⟨h3, hs, find?_del_self .., fun m hm => by simpa using (List.mem_filter.1 hm).2,
      fun h hne => find?_del_ne _ hne⟩⟩

/-- GROUP_LOAD's answers, by what the load gives. -/
theorem groupLoad_spec {d x : Dev} {g : Nat} (hg : g < 256) (hb : isSet d .transportCollCmdBusy = false) {y : Except Nat Nat}
    (h : groupLoadGo d g = (x, y)) : let e := groupLoadEffect d g
    (∀ c, y = .ok c → rd e .transportCollCmdGroup 0 = g ∧ rd e .transportCollCmdOp 0 = 1 ∧ rd e .transportCollCmdResult 0 = c % 256 ∧
      onlyRegs x e [(.transportCollCmdGroup, 0), (.transportCollCmdOp, 0), (.transportCollCmdResult, 0)]) ∧
    (y = .ok 0 → rd e .transportCollGroupState g = 1 ∧ rd e .transportCollGroupRound g = 0 ∧ rd e .transportCollGroupLastCause g = 0 ∧
      ∃ c, find? e.coll.groups g = some c ∧ rd e .transportCollGroupPartition g = c.part ∧ 2 ≤ c.members.length ∧ c.members.length ≤ 128 ∧
        c.rank < c.members.length ∧ 1 ≤ c.timeoutMs) ∧
    (∀ n, y = .error n → rd e .transportCollCmdBusy 0 = 1 ∧ e.tr.ctxWait = x.tr.ctxWait ++ [(n, .group g)] ∧ e.coll = x.coll) := by
  dsimp only
  refine ⟨fun c hy => ?_, fun hy => ?_, fun n hy => ?_⟩
  · subst hy
    rw [groupLoadEffect_answered hb h]
    exact collResult_spec x c hg (by decide)
  · subst hy
    rw [groupLoadEffect_answered hb h]
    obtain ⟨z, c, rfl, h2, h128, hrank, htime, hpart⟩ := groupLoadGo_loaded h
    obtain ⟨hs, hr, hl, hf, hp⟩ := groupLoaded_spec z g hpart
    simp (disch := decide) only [rd_collResult]
    rw [coll_collResult]
    exact ⟨hs, hr, hl, c, hf, hp, h2, h128, hrank, htime⟩
  · subst hy
    rw [groupLoadEffect_waits hb h]
    exact groupWaits_spec x g n

/-! ### The doorbell (R394) -/

theorem collDbEffect_eq (d : Dev) (win : Nat) {i : Nat} (hi : i < 2 ^ 32) :
    collDbEffect d win 8 i = collGo (wr (wake d .laurel) .pwinCollDbIndex win i) win 64 := by
  have hr : dbRefused 8 i 32 true = false := by
    simpa [dbRefused, Nat.shiftRight_eq_div_pow] using hi
  have hc : cut i 0 32 = i := Nat.mod_eq_of_lt hi
  unfold collDbEffect
  dsimp only
  rw [hr, hc, if_neg Bool.false_ne_true]

/-! ### Completions (R408) -/

section
variable (d : Dev) (g : Nat) (r : CollRun) (c : Nat)

/-- A completion is one entry on its way; free values may be drawn for it. -/
theorem collPost_eq : ∃ n q x w, collPost d g r c = postCq { d with free := n } q x w := by
  unfold collPost collRoundTime
  cases r.startNs with
  | none => exact ⟨_, _, _, _, rfl⟩
  | some t => exact ⟨_, _, _, _, rfl⟩

theorem rd_collPost (f : Fld) (i : Nat) : rd (collPost d g r c) f i = rd d f i := by
  obtain ⟨n, q, x, w, h⟩ := collPost_eq d g r c
  rw [h, rd_postCq]
  rfl

theorem coll_collPost : (collPost d g r c).coll = d.coll := by
  obtain ⟨n, q, x, w, h⟩ := collPost_eq d g r c
  rw [h]
  rfl

theorem mem_collPost : (collPost d g r c).mem = d.mem := by
  obtain ⟨n, q, x, w, h⟩ := collPost_eq d g r c
  rw [h]
  rfl

theorem length_entries_collPost : (collPost d g r c).hl.entries.length = d.hl.entries.length + 1 := by
  obtain ⟨n, q, x, w, h⟩ := collPost_eq d g r c
  rw [h, entries_postCq, List.length_append]
  rfl

end

/-! ### The queue -/

theorem rd_setCollQueue (d : Dev) (p : Nat) (l : List (Nat × Desc)) (f : Fld) (i : Nat) : rd (setCollQueue d p l) f i = rd d f i := rfl

/-- What the skipped descriptors leave: registers, groups and runs. -/
theorem collSkip_keeps (p : Nat) (l : List (Nat × Desc)) (d : Dev) : (∀ f i, rd (collSkip p l d) f i = rd d f i) ∧
    (collSkip p l d).coll.groups = d.coll.groups ∧ (collSkip p l d).coll.runs = d.coll.runs := by
  induction l generalizing d with
  | nil => exact ⟨fun _ _ => rfl, rfl, rfl⟩
  | cons x t ih =>
    obtain ⟨h, w⟩ := x
    unfold collSkip
    split
    · obtain ⟨hr, hg, hn⟩ := ih (collRefused d p w 0xDD)
      have hc := coll_collPost d (collGroupOf w) { part := p, desc := w } 0xDD
      exact ⟨fun f i => (hr f i).trans (rd_collPost ..), hg.trans (congrArg CollSt.groups hc), hn.trans (congrArg CollSt.runs hc)⟩
    · exact ⟨fun _ _ => rfl, rfl, rfl⟩

theorem collSkip_stops (p : Nat) {l : List (Nat × Desc)} (h : ∀ x, l.head? = some x → collOp x.2 ≠ 0) (d : Dev) :
    collSkip p l d = setCollQueue d p l := by
  cases l with
  | nil => rfl
  | cons x t => exact if_neg (h x rfl)

/-- What a descriptor at the head of its queue becomes. -/
def collTaken (d : Dev) (p : Nat) (w : Desc) : Dev :=
  if collDescBad w then collRefused d p w 0xDD
  else
    match find? d.coll.groups (collGroupOf w) with
    | none => collRefused d p w 0xDB
    | some c =>
      if rd d .transportCollGroupState (collGroupOf w) = 3 then collRefused d p w 0xDB
      else if c.part ≠ p ∨ collShapeBad w c then collRefused d p w 0xDD
      else setCollRun (wr d .transportCollGroupState (collGroupOf w) 2) (collGroupOf w)
        { part := p, desc := w, round := rd d .transportCollGroupRound (collGroupOf w) }

section
variable {d : Dev} {p : Nat} {w : Desc}

theorem collTaken_bad (h : collDescBad w = true) : collTaken d p w = collRefused d p w 0xDD := if_pos h

variable (h : collDescBad w = false)
include h

theorem collTaken_unloaded (hg : find? d.coll.groups (collGroupOf w) = none) : collTaken d p w = collRefused d p w 0xDB := by
  unfold collTaken
  rw [h, if_neg Bool.false_ne_true, hg]

variable {c : CollGroup} (hg : find? d.coll.groups (collGroupOf w) = some c)
include hg

theorem collTaken_failed (hs : rd d .transportCollGroupState (collGroupOf w) = 3) : collTaken d p w = collRefused d p w 0xDB := by
  unfold collTaken
  rw [h, if_neg Bool.false_ne_true, hg]
  exact if_pos hs

variable (hs : rd d .transportCollGroupState (collGroupOf w) ≠ 3)
include hs

theorem collTaken_misfit (hp : c.part ≠ p ∨ collShapeBad w c = true) : collTaken d p w = collRefused d p w 0xDD := by
  unfold collTaken
  rw [h, if_neg Bool.false_ne_true, hg]
  exact (if_neg hs).trans (if_pos hp)

theorem collTaken_runs (hp : c.part = p) (hb : collShapeBad w c = false) : collTaken d p w =
    setCollRun (wr d .transportCollGroupState (collGroupOf w) 2) (collGroupOf w)
      { part := p, desc := w, round := rd d .transportCollGroupRound (collGroupOf w) } := by
  unfold collTaken
  rw [h, if_neg Bool.false_ne_true, hg]
  exact (if_neg hs).trans (if_neg (not_or.2 ⟨not_not.2 hp, by rw [hb]; decide⟩))

end

theorem queue_collTaken (d : Dev) (p : Nat) (w : Desc) (q : Nat) : collQueue (collTaken d p w) q = collQueue d q := by
  have hr : ∀ c, collQueue (collRefused d p w c) q = collQueue d q := fun c => by
    unfold collQueue collRefused
    rw [coll_collPost]
  unfold collTaken
  split
  · exact hr _
  · split
    · exact hr _
    · split
      · exact hr _
      · split
        · exact hr _
        · exact congrArg (fun m : KMap (List (Nat × Desc)) => getD m q [])
            (part_of_besideRegs (besideRegs_wr d .transportCollGroupState (collGroupOf w) 2) (·.coll.queue) fun _ => rfl)

theorem collStart_eq (d : Dev) (p : Nat) (w : Desc) : collStart d p w = collSkip p ((collQueue d p).drop 1) (collTaken d p w) := by
  rw [← queue_collTaken d p w p]
  rfl

theorem answers_collRow {s : State} {p op : Nat} {i : Instr} (hi : (i, op) ∈ [(Instr.allReduce p, 1), (.reduceScatter p, 2), (.allGather p, 3)])
    {w : Desc} (h : collHead s.dev p op = some w) : Answers i s (collStart s.dev p w) := by
  have hrow : ∀ n, collRow s n p op = .next { s with dev := deliver (collStart s.dev p w) } := fun n => by
    unfold collRow
    rw [h]
    exact act_true ..
  simp only [List.mem_cons, Prod.mk.injEq, List.not_mem_nil, or_false] at hi
  rcases hi with ⟨rfl, rfl⟩ | ⟨rfl, rfl⟩ | ⟨rfl, rfl⟩
  · exact hrow _
  · exact hrow _
  · exact hrow _

/-- A descriptor that becomes its group's collective, with what the queue's next descriptors leave. -/
theorem collRuns_spec (d : Dev) (p g : Nat) (r : CollRun) (l : List (Nat × Desc)) :
    let e := collSkip p l (setCollRun (wr d .transportCollGroupState g 2) g r)
    rd e .transportCollGroupState g = 2 ∧ collRun? e g = some r ∧ e.coll.groups = d.coll.groups ∧ keepsRegs d e [(.transportCollGroupState, g)] := by
  obtain ⟨hr, hg, hn⟩ := collSkip_keeps p l (setCollRun (wr d .transportCollGroupState g 2) g r)
  have hreg : ∀ f i, rd (setCollRun (wr d .transportCollGroupState g 2) g r) f i = rd (wr d .transportCollGroupState g 2) f i := fun _ _ => rfl
  refine ⟨?_, ?_, hg.trans ?_, keepsRegs_of_rd (keepsRegs_wr (keepsRegs_refl d _) (.head _)) fun f i => (hr f i).trans (hreg f i)⟩
  · exact (hr _ _).trans ((hreg _ _).trans (rd_wr_self _ _ _ _ rfl))
  · unfold collRun?
    rw [hn]
    exact find?_put_self ..
  · exact part_of_besideRegs (besideRegs_wr d .transportCollGroupState g 2) (·.coll.groups) fun _ => rfl

/-! ### Repeats (R397) -/

/-- The run of a round that opens. -/
def roundOpened (d : Dev) (g : Nat) (r : CollRun) : CollRun := { r with
  round := rd d .transportCollGroupRound g, active := true, startNs := some (r.startNs.getD d.upNs), roundNs := d.upNs, written := [], acc := none, got := 0 }

/-- The contribution that stands for the device's own chunk. -/
def ownMsg (g round : Nat) (c : CollGroup) : CollMsg := {
  group := g, round := round, phase := 1, step := 0, chunk := c.rank, from_ := c.rank, op := 3, red := 0, fmt := 0, off := 0, bytes := [], space := 0 }

/-- The device with the round open and counted. -/
def roundCounted (d : Dev) (g : Nat) (r : CollRun) : Dev :=
  bump (wr (setCollRun d g (roundOpened d g r)) .transportCollGroupRound g (rd d .transportCollGroupRound g + 1)) .transportCollStarted

/-- The device with a round open, before its first sends. -/
def repeatOpened (d : Dev) (g : Nat) (c : CollGroup) (r : CollRun) : Dev :=
  if collOp r.desc = 3 then onColl (roundCounted d g r) fun x => { x with waiting := ownMsg g (rd d .transportCollGroupRound g) c :: x.waiting }
  else roundCounted d g r

theorem repeatEffect_eq (d : Dev) (g : Nat) (c : CollGroup) (r : CollRun) : repeatEffect d g c r =
    collPump ((collFirstSends (repeatOpened d g c r) g c r.desc).coll.waiting.length + 1) (collFirstSends (repeatOpened d g c r) g c r.desc) g := rfl

section
variable (d : Dev) (g : Nat) (c : CollGroup) (r : CollRun)

theorem besideRegs_roundCounted : besideRegs (roundCounted d g r) = besideRegs (setCollRun d g (roundOpened d g r)) := by
  rw [roundCounted, besideRegs_bump, besideRegs_wr]

theorem onlyRegs_roundCounted : onlyRegs (setCollRun d g (roundOpened d g r)) (roundCounted d g r)
    [(.transportCollGroupRound, g), (.transportCollStarted, 0)] :=
  onlyRegs_bump (onlyRegs_wr (onlyRegs_refl ..) (by simp)) (by simp)

theorem rd_repeatOpened (f : Fld) (i : Nat) : rd (repeatOpened d g c r) f i = rd (roundCounted d g r) f i := by
  unfold repeatOpened
  split
  · rfl
  · rfl

theorem repeatOpened_counts : rd (repeatOpened d g c r) .transportCollGroupRound g = (rd d .transportCollGroupRound g + 1) % 2 ^ 32 ∧
    rd (repeatOpened d g c r) .transportCollStarted 0 = (rd d .transportCollStarted 0 + 1) % 2 ^ 32 := by
  rw [rd_repeatOpened, rd_repeatOpened]
  unfold roundCounted
  refine ⟨?_, ?_⟩
  · rw [bump, rd_wr_plain_ne _ _ _ _ rfl (by decide)]
    exact rd_wr_self _ _ _ _ rfl
  · rw [rd_bump_self _ _ _ _ rfl, rd_wr_plain_ne _ _ _ _ rfl (by decide)]
    rfl

theorem repeatOpened_coll : (repeatOpened d g c r).coll = { d.coll with
    runs := put d.coll.runs g (roundOpened d g r)
    waiting := if collOp r.desc = 3 then ownMsg g (rd d .transportCollGroupRound g) c :: d.coll.waiting else d.coll.waiting } := by
  have h : (roundCounted d g r).coll = { d.coll with runs := put d.coll.runs g (roundOpened d g r) } :=
    part_of_besideRegs (besideRegs_roundCounted d g r) Dev.coll fun _ => rfl
  unfold repeatOpened
  split
  · rw [onColl_coll, h]
  · rw [h]

theorem onlyRegs_repeatOpened : onlyRegs { d with coll := (repeatOpened d g c r).coll } (repeatOpened d g c r)
    [(.transportCollGroupRound, g), (.transportCollStarted, 0)] := by
  obtain ⟨hrest, hregs⟩ := onlyRegs_roundCounted d g r
  refine ⟨?_, fun f i hf => (rd_repeatOpened ..).trans (hregs f i hf)⟩
  have := congrArg (fun x : Dev => { x with coll := (repeatOpened d g c r).coll }) hrest
  refine Eq.trans ?_ this
  unfold repeatOpened
  split
  · rfl
  · rfl

end

theorem answers_repeat {s : State} {g : Nat} {c : CollGroup} {r : CollRun} (h : repeatReady s.dev g = some (c, r)) :
    Answers (.collectiveRepeatStart g) s (repeatEffect s.dev g c r) := by
  refine (answers_act (n := "COLLECTIVE_REPEAT_START") rfl (by rw [h]; rfl)).trans ?_
  rw [h]

/-! ### The end of a collective (R406, R408) -/

/-- The device without the collective's run, its buffer as its group still holds it. -/
def collEnded (d : Dev) (g : Nat) (r : CollRun) (cause : Nat) : Dev :=
  let d := onColl d fun c => { c with
    runs := del c.runs g, level := del c.level g, waiting := c.waiting.filter fun m => m.group ≠ g || (cause == 0 && m.round != r.round) }
  let held : Nat := ((d.coll.waiting.filter fun m => m.group = g).map (·.space)).sum
  let d := if held = 0 then onMem d fun m => { m with sram := m.sram.filter (· ≠ g) } else d
  collShow (onColl d fun c => { c with level := putD c.level g held 0 })

section
variable (d : Dev) (g : Nat) (r : CollRun) (cause : Nat)

theorem collEnd_eq : collEnd d g r cause = if collCqe r.desc || cause != 0 then collPost (collEnded d g r cause) g r cause else collEnded d g r cause := rfl

theorem collEnded_spec : (collEnded d g r cause).coll.runs = del d.coll.runs g ∧ { (collEnded d g r cause).mem with sram := d.mem.sram } = d.mem ∧
    (collEnded d g r cause).hl = d.hl ∧ keepsRegs d (collEnded d g r cause) [(.transportCollBufLevel, 0)] := by
  unfold collEnded collShow
  dsimp only
  refine ⟨?_, ?_, ?_, ?_⟩
  · rw [part_of_besideRegs (besideRegs_wr ..) (·.coll.runs) fun _ => rfl]
    split
    · rfl
    · rfl
  · rw [part_of_besideRegs (besideRegs_wr ..) Dev.mem fun _ => rfl]
    split
    · rfl
    · rfl
  · rw [part_of_besideRegs (besideRegs_wr ..) Dev.hl fun _ => rfl]
    split
    · rfl
    · rfl
  · refine keepsRegs_wr (fun f i _ => ?_) (.head _)
    rw [rd_onColl]
    split
    · rfl
    · rfl

theorem collRun_collEnd : collRun? (collEnd d g r cause) g = none := by
  have h : (collEnd d g r cause).coll.runs = del d.coll.runs g := by
    rw [collEnd_eq]
    split
    · rw [coll_collPost, (collEnded_spec d g r cause).1]
    · exact (collEnded_spec d g r cause).1
  unfold collRun?
  rw [h]
  exact find?_del_self ..

variable {cause} (hc : cause ≠ 0)
include hc

/-- A failed collective completes with its cause. -/
theorem collEnd_failed : { (collEnd d g r cause).mem with sram := d.mem.sram } = d.mem ∧
    (collEnd d g r cause).hl.entries.length = d.hl.entries.length + 1 ∧ keepsRegs d (collEnd d g r cause) [(.transportCollBufLevel, 0)] := by
  obtain ⟨-, hm, hh, hk⟩ := collEnded_spec d g r cause
  have he : collEnd d g r cause = collPost (collEnded d g r cause) g r cause :=
    (collEnd_eq d g r cause).trans (if_pos (by simp [hc]))
  rw [he, mem_collPost, length_entries_collPost, hh]
  exact ⟨hm, rfl, keepsRegs_of_rd hk fun f i => rd_collPost ..⟩

end

/-- The registers of a failed group. -/
def groupFailed (d : Dev) (g cause : Nat) : Dev :=
  wr (wr (bump d .transportCollFailed) .transportCollGroupState g 3) .transportCollGroupLastCause g cause

theorem collFail_eq {d : Dev} {g : Nat} {r : CollRun} (h : collRun? d g = some r) (cause rank : Nat) : ∃ q x,
    collFail d g cause rank = postEq (collEnd (collOrphan (groupFailed (collLoose d g r) g cause) g) g r cause) q x := by
  unfold collFail
  rw [h]
  exact ⟨_, _, rfl⟩

def failedFlds (g : Nat) : List (Fld × Nat) := [(.transportCollGroupState, g), (.transportCollGroupLastCause, g), (.transportCollFailed, 0)]

theorem groupFailed_spec (d : Dev) (g : Nat) {cause : Nat} (hc : cause < 256) : rd (groupFailed d g cause) .transportCollGroupState g = 3 ∧
    rd (groupFailed d g cause) .transportCollGroupLastCause g = cause ∧
    rd (groupFailed d g cause) .transportCollFailed 0 = (rd d .transportCollFailed 0 + 1) % 2 ^ 32 ∧
    onlyRegs d (groupFailed d g cause) (failedFlds g) := by
  unfold groupFailed
  refine ⟨?_, (rd_wr_self _ _ _ _ rfl).trans (Nat.mod_eq_of_lt hc), ?_, ?_⟩
  · rw [rd_wr_plain_ne _ _ _ _ rfl (by decide)]
    exact rd_wr_self _ _ _ _ rfl
  · rw [rd_wr_plain_ne _ _ _ _ rfl (by decide), rd_wr_plain_ne _ _ _ _ rfl (by decide)]
    exact rd_bump_self _ _ _ _ rfl
  · exact onlyRegs_wr (onlyRegs_wr (onlyRegs_bump (onlyRegs_refl d _) (by simp [failedFlds])) (by simp [failedFlds])) (by simp [failedFlds])

theorem rd_collOrphan (d : Dev) (g : Nat) (f : Fld) (i : Nat) : rd (collOrphan d g) f i = rd d f i := rfl
theorem mem_collOrphan (d : Dev) (g : Nat) : (collOrphan d g).mem = d.mem := rfl
theorem hl_collOrphan (d : Dev) (g : Nat) : (collOrphan d g).hl = d.hl := rfl

theorem keepsRegs_trans {a b c : Dev} {l m : List (Fld × Nat)} (h : keepsRegs a b l) (h' : keepsRegs b c m) : keepsRegs a c (l ++ m) :=
  fun f i hf => (h' f i fun x hx => hf x (List.mem_append_right _ hx)).trans (h f i fun x hx => hf x (List.mem_append_left _ hx))

/-- A collective fails: its group is failed, one completion and one event are on their way. -/
theorem collFail_spec {s : Dev} {g : Nat} {r : CollRun} (h : collRun? s g = some r) {cause : Nat} (hc : cause ≠ 0) (hlt : cause < 256) (rank : Nat) :
    let d := collLoose s g r
    let e := collFail s g cause rank
    rd e .transportCollGroupState g = 3 ∧ rd e .transportCollGroupLastCause g = cause ∧
    rd e .transportCollFailed 0 = (rd d .transportCollFailed 0 + 1) % 2 ^ 32 ∧ collRun? e g = none ∧
    { e.mem with sram := d.mem.sram } = d.mem ∧ e.hl.entries.length = d.hl.entries.length + 2 ∧
    keepsRegs d e [(.transportCollGroupState, g), (.transportCollGroupLastCause, g), (.transportCollFailed, 0), (.transportCollBufLevel, 0)] := by
  dsimp only
  obtain ⟨q, x, he⟩ := collFail_eq h cause rank
  obtain ⟨h1, h2, h3, hof⟩ := groupFailed_spec (collLoose s g r) g hlt
  obtain ⟨hm, hl, hk⟩ := collEnd_failed (collOrphan (groupFailed (collLoose s g r) g cause) g) g r hc
  have hreg : ∀ f i, f ≠ .transportCollBufLevel → rd (collFail s g cause rank) f i = rd (groupFailed (collLoose s g r) g cause) f i := fun f i hf => by
    rw [he, rd_postEq, hk f i fun y hy hv => ?_, rd_collOrphan]
    obtain rfl : y = (.transportCollBufLevel, 0) := by simpa using hy
    exact ((voted_of_mem_votedWith hv).elim (fun e => absurd e.symm hf) fun h => absurd h (by decide))
  refine ⟨(hreg _ _ (by decide)).trans h1, (hreg _ _ (by decide)).trans h2, (hreg _ _ (by decide)).trans h3, ?_, ?_, ?_, ?_⟩
  · rw [he]
    exact collRun_collEnd ..
  · rw [mem_collOrphan, hof.mem] at hm
    rw [he, postEq_mem]
    exact hm
  · rw [he, entries_postEq, List.length_append, hl, hl_collOrphan, hof.hl]
    rfl
  · rw [he]
    exact keepsRegs_of_rd (keepsRegs_trans (keepsRegs_of_rd hof.2 fun f i => rd_collOrphan ..) hk) fun f i => rd_postEq ..

/-- With every chunk of DST written, nothing holds free bytes. -/
theorem collLoose_written {d : Dev} {g : Nat} {r : CollRun} (ha : r.active = true)
    (h : ∀ c, find? d.coll.groups g = some c → ∀ k ∈ dstChunks c r.desc, collS r.desc ≤ getD r.written k 0) : collLoose d g r = d := by
  unfold collLoose
  cases hg : find? d.coll.groups g with
  | none => rfl
  | some c =>
    have hnil : (dstChunks c r.desc).filter (fun k => decide (getD r.written k 0 < collS r.desc)) = [] :=
      List.filter_eq_nil_iff.2 fun k hk => by simpa using h c hg k hk
    dsimp only
    rw [ha, if_pos rfl, hnil]
    rfl

/-! ### The obligation -/

/-- Settles O50: each command, descriptor and round by its own lemma above. -/
theorem collectives : Obligations.Collectives := by
  unfold Obligations.Collectives
  refine ⟨fun s g hg hd => ⟨fun hb => ⟨?_, ?_⟩, fun hb => ?_, fun hb => ?_⟩, fun s win i hw hi hd => ?_, fun s p op i w hi hh => ?_,
    fun d p l h => collSkip_stops p h d, fun d p h w t hw => if_pos hw, fun s g c r hr => ?_, fun s g c r hr => ?_, fun s g r hr ha hn => ?_⟩
  · exact (answers_drv (n := "GROUP_LOAD") rfl (decide_eq_true hg) hd).trans (by rw [show groupLoadEffect s.dev g = s.dev from if_pos hb])
  · exact (answers_drv (n := "GROUP_UNLOAD") rfl (decide_eq_true hg) hd).trans (by rw [show groupUnloadEffect s.dev g = s.dev from if_pos hb])
  · refine ⟨_, answers_drv (n := "GROUP_LOAD") rfl (decide_eq_true hg) hd, fun h => ?_, fun d x hx => groupLoad_spec hg hb hx⟩
    exact (groupLoad_spec hg hb (groupLoadGo_refused h)).1 0xDD rfl
  · exact ⟨_, answers_drv (n := "GROUP_UNLOAD") rfl (decide_eq_true hg) hd, groupUnload_spec hg hb⟩
  · refine ⟨_, _, answers_drv (n := "COLL_DOORBELL") rfl (decide_eq_true hw) hd, collDbEffect_eq s.dev win hi, ?_,
      onlyRegs_wr (onlyRegs_refl ..) (.head _)⟩
    exact (rd_wr_self _ _ _ _ rfl).trans (Nat.mod_eq_of_lt hi)
  · refine ⟨_, _, answers_collRow hi hh, collStart_eq s.dev p w, collTaken_bad, collTaken_unloaded, fun c hb hg =>
      ⟨collTaken_failed hb hg, collTaken_misfit hb hg, fun hs hp hsh => ?_⟩⟩
    have ht := collTaken_runs hb hg hs hp hsh
    rw [collStart_eq, ht]
    obtain ⟨h1, h2, h3, h4⟩ := collRuns_spec s.dev p (collGroupOf w)
      { part := p, desc := w, round := rd s.dev .transportCollGroupRound (collGroupOf w) } ((collQueue s.dev p).drop 1)
    exact ⟨h1, h2, h3, h4, rfl⟩
  · obtain ⟨h1, h2⟩ := repeatOpened_counts s.dev g c r
    have hcoll := repeatOpened_coll s.dev g c r
    refine ⟨_, _, repeatOpened s.dev g c r, answers_repeat hr, repeatEffect_eq s.dev g c r, rfl, h1, h2, ?_, fun hop => ?_, fun hop => ?_,
      onlyRegs_repeatOpened s.dev g c r⟩
    · refine ⟨roundOpened s.dev g r, ?_, rfl, rfl, rfl, rfl, rfl⟩
      unfold collRun?
      rw [hcoll]
      exact find?_put_self ..
    · rw [hcoll]
      exact if_neg hop
    · rw [hcoll]
      exact ⟨_, if_pos hop, rfl, rfl, rfl⟩
  · have hans : Answers (.collectiveSignal g) s (roundEnd s.dev g r) := by
      refine (answers_act (n := "COLLECTIVE_SIGNAL") rfl (by rw [hr]; rfl)).trans ?_
      rw [hr]
    refine ⟨_, _, _, hans, rfl, rfl, fun h => if_pos h, fun h => ?_⟩
    have he : roundEnd s.dev g r = _ := if_neg (Nat.not_lt.2 h)
    rw [he]
    exact ⟨rfl, collRun_collEnd ..⟩
  · have hans : Answers (.collectiveRoundTimeout g) s (collFail s.dev g 0xD9 0xFF) :=
      answers_act (n := "COLLECTIVE_ROUND_TIMEOUT") rfl (by rw [hr, Option.any_some, ha, hn]; rfl)
    obtain ⟨h1, h2, h3, h4, h5, h6, h7⟩ := collFail_spec hr (cause := 0xD9) (by decide) (by decide) 0xFF
    exact ⟨_, _, hans, rfl, h1, h2, h3, h4, h5, h6, h7, collLoose_written ha⟩

end Sys2Proof.Machine
end


section
/-!
Key-slot commands, erasure, alarms, engines, table entries and attestation reports (R413, R421 to R427, R432 to R437), and O51.
-/
namespace Sys2Proof.Machine

/-! ### A slot's keys -/

section
variable (d : Dev) (s : Nat)

theorem keysOf_wr (f : Fld) (i v k : Nat) : keysOf (wr d f i v) k = keysOf d k := by rw [keysOf, wr_yew, keysOf]

theorem keysOf_setKeys_self (x : SlotKeys) : keysOf (setKeys d s x) s = x := getD_putD_self ..

theorem keysOf_setKeys_ne (x : SlotKeys) {k : Nat} (h : k ≠ s) : keysOf (setKeys d s x) k = keysOf d k := getD_putD_ne _ _ _ h

theorem rd_setKeys (x : SlotKeys) (f : Fld) (i : Nat) : rd (setKeys d s x) f i = rd d f i := rfl

theorem keysOf_zeroKeys_self : keysOf (zeroKeys d s) s = {} := by
  simp only [zeroKeys, keysOf_wr, keysOf_setKeys_self]

theorem keysOf_zeroKeys_ne {k : Nat} (h : k ≠ s) : keysOf (zeroKeys d s) k = keysOf d k := by
  simp only [zeroKeys, keysOf_wr, keysOf_setKeys_ne d s _ h]

theorem rd_zeroKeys {f : Fld} (i : Nat) (hf : f ∉ [Fld.yewSlotShadow, .yewSlotPrev, .yewSlotSealCount, .yewSlotNcFloor]) :
    rd (zeroKeys d s) f i = rd d f i := by
  simp only [List.mem_cons, List.not_mem_nil, or_false, not_or] at hf
  obtain ⟨h1, h2, h3, h4⟩ := hf
  rw [zeroKeys, rd_wr_plain_ne _ _ _ _ rfl h4, rd_wr_plain_ne _ _ _ _ rfl h3, rd_wr_plain_ne _ _ _ _ rfl h2, rd_wr_plain_ne _ _ _ _ rfl h1,
    rd_setKeys]

end

/-- A frame over any change of the Yew state is one over the state's own. -/
theorem onlyRegs_yew {d e : Dev} {y : YewSt} {l : List (Fld × Nat)} (h : onlyRegs { d with yew := y } e l) :
    onlyRegs { d with yew := e.yew } e l := by
  have hy : e.yew = y := congrArg Dev.yew h.1
  rw [hy]
  exact h

theorem onlyRegs_setKeys (d : Dev) (s : Nat) (x : SlotKeys) (l : List (Fld × Nat)) :
    onlyRegs { d with yew := (setKeys d s x).yew } (setKeys d s x) l := onlyRegs_refl _ _

theorem isSet_wr_zero (d : Dev) (f : Fld) (i : Nat) (hf : f.info.voted = false) : isSet (wr d f i 0) f i = false := by
  rw [isSet, rd_wr_self _ _ _ _ hf, Nat.zero_mod]
  rfl

/-! ### The command register (R421) -/

/-- KEKs that become active touch no field but their slots' own. -/
theorem rd_keksDue (d : Dev) {f : Fld} (i : Nat) (hf : ∀ g ∈ [Fld.yewSlotShadow, .yewSlotSealCount, .yewSlotNcFloor, .yewSlotPrev], g ∉ votedWith f) :
    rd (keksDue d) f i = rd d f i := by
  refine rd_foldl (fun x s => ?_) _ d
  obtain ⟨y, h⟩ := activate_only x s
  refine (h.2 f i fun z hz hv => absurd hv (hf z.1 ?_)).trans rfl
  simp only [List.mem_cons, List.not_mem_nil, or_false] at hz
  rcases hz with rfl | rfl | rfl | rfl <;> simp

theorem keksDue_none {d : Dev} (h : ∀ x ∈ d.yew.keys, x.2.shadow = none ∨ rd d .yewSlotKind x.1 ≠ 3) : keksDue d = d := by
  have hl : d.yew.keys.filter (fun e => e.2.shadow.isSome && rd d .yewSlotKind e.1 == 3) = [] :=
    List.filter_eq_nil_iff.2 fun x hx => by rcases h x hx with h | h <;> simp [h]
  rw [keksDue, hl]
  rfl

/-- The result of a command in RESULT. -/
def slotAnswer (r : Dev × Nat) : Dev := wr r.1 .yewSlotCmdResult 0 r.2

/-- A slot command by its OP. -/
def slotRun (d : Dev) (op s kek : Nat) : Dev :=
  match op with
  | 1 => slotAnswer (loadClearGo d s)
  | 2 => slotAnswer (loadWrappedGo d s kek)
  | 3 => eraseGo d s
  | 4 => slotAnswer (saveClearGo d s)
  | 5 => slotAnswer (saveWrappedGo d s kek)
  | _ => slotAnswer (d, 0x84)

theorem slotGo_busy {d : Dev} (h : isSet d .yewSlotCmdBusy = true) : slotGo d = d := by
  unfold slotGo
  dsimp only
  rw [if_pos h, if_pos h]

theorem slotGo_free {d : Dev} (h : isSet d .yewSlotCmdBusy = false) :
    slotGo d = slotRun (keksDue d) (rd d .yewSlotCmdOp 0) (rd d .yewSlotCmdSlot 0) (rd d .yewSlotCmdKek 0) := by
  have hb : isSet (keksDue d) .yewSlotCmdBusy = false := by
    rw [isSet, rd_keksDue d 0 (by decide)]
    exact h
  unfold slotGo
  dsimp only
  rw [h, if_neg Bool.false_ne_true, hb, if_neg Bool.false_ne_true, rd_keksDue d 0 (by decide), rd_keksDue d 0 (by decide),
    rd_keksDue d 0 (by decide)]
  rfl

/-! ### Loads (R422 to R424, R433) -/

section
variable {d x y : Dev} {s kek n c key : Nat} {bs : List Byte}

theorem recordAddr_some (h : rd d .yewSlotCmdAddr 0 * 64 + n ≤ hbmEnd) : recordAddr d n = some (rd d .yewSlotCmdAddr 0 * 64) := if_pos h

theorem recordAddr_none (h : hbmEnd < rd d .yewSlotCmdAddr 0 * 64 + n) : recordAddr d n = none := if_neg (Nat.not_le.2 h)

theorem loadClearGo_alarm (h : isSet d .yewStatusAlarm = true) : loadClearGo d s = (d, 0x82) := if_pos h

theorem loadWrappedGo_alarm (h : isSet d .yewStatusAlarm = true) : loadWrappedGo d s kek = (d, 0x82) := if_pos h

theorem loadClearGo_refused (ha : isSet d .yewStatusAlarm = false) (h : slotUsable d s = false ∨ hbmEnd < rd d .yewSlotCmdAddr 0 * 64 + 48) :
    loadClearGo d s = (d, 0x84) := by
  unfold loadClearGo
  rw [ha, if_neg Bool.false_ne_true]
  rcases h with h | h
  · rw [h]
    rfl
  · rw [recordAddr_none h]
    exact ite_self _

theorem loadWrappedGo_refused (ha : isSet d .yewStatusAlarm = false)
    (h : slotUsable d s = false ∨ hbmEnd < rd d .yewSlotCmdAddr 0 * 64 + 56 ∨ kekOf d kek = none) : loadWrappedGo d s kek = (d, 0x84) := by
  unfold loadWrappedGo
  rw [ha, if_neg Bool.false_ne_true]
  rcases h with h | h | h
  · rw [h]
    rfl
  · rw [recordAddr_none h]
    cases kekOf d kek <;> exact ite_self _
  · rw [h]
    exact ite_self _

section
variable (ha : isSet d .yewStatusAlarm = false) (hu : slotUsable d s = true)
include ha hu

section
variable (hr : rd d .yewSlotCmdAddr 0 * 64 + 48 ≤ hbmEnd)
include hr

theorem loadClearGo_unread (h : dpaRead d 0x2005 (rd d .yewSlotCmdAddr 0 * 64) 48 = (x, some c, bs)) : loadClearGo d s = (x, c) := by
  unfold loadClearGo
  rw [ha, if_neg Bool.false_ne_true, hu, if_neg (by simp), recordAddr_some hr]
  dsimp only
  rw [h]

theorem loadClearGo_bad (h : dpaRead d 0x2005 (rd d .yewSlotCmdAddr 0 * 64) 48 = (x, none, bs)) (hl : loadRecord x s bs = (y, c)) (hc : c ≠ 0) :
    loadClearGo d s = (y, c) := by
  unfold loadClearGo
  rw [ha, if_neg Bool.false_ne_true, hu, if_neg (by simp), recordAddr_some hr]
  dsimp only
  rw [h]
  dsimp only
  rw [hl]
  split
  · rename_i heq
    cases heq
    exact absurd rfl hc
  · rfl

/-- The record of a clear load is zeroed. -/
theorem loadClearGo_loaded (h : dpaRead d 0x2005 (rd d .yewSlotCmdAddr 0 * 64) 48 = (x, none, bs)) (hl : loadRecord x s bs = (y, 0)) :
    loadClearGo d s = ((dpaWrite y 0x2005 (rd d .yewSlotCmdAddr 0 * 64) (List.replicate 48 0)).1, 0) := by
  unfold loadClearGo
  rw [ha, if_neg Bool.false_ne_true, hu, if_neg (by simp), recordAddr_some hr]
  dsimp only
  rw [h]
  dsimp only
  rw [hl]
  rfl

end

variable (hr : rd d .yewSlotCmdAddr 0 * 64 + 56 ≤ hbmEnd) (hk : kekOf d kek = some key)
include hr hk

theorem loadWrappedGo_unread (h : dpaRead d 0x2005 (rd d .yewSlotCmdAddr 0 * 64) 56 = (x, some c, bs)) : loadWrappedGo d s kek = (x, c) := by
  unfold loadWrappedGo
  rw [ha, if_neg Bool.false_ne_true, hu, if_neg (by simp), recordAddr_some hr, hk]
  dsimp only
  rw [h]

theorem loadWrappedGo_read (h : dpaRead d 0x2005 (rd d .yewSlotCmdAddr 0 * 64) 56 = (x, none, bs)) : loadWrappedGo d s kek =
    ((keyUnwrap key bs).filter fun r => r.length == 48).elim (bump x .yewUnwrapFails, 0x85) (loadRecord x s) := by
  unfold loadWrappedGo
  rw [ha, if_neg Bool.false_ne_true, hu, if_neg (by simp), recordAddr_some hr, hk]
  dsimp only
  rw [h]
  dsimp only
  cases keyUnwrap key bs with
  | none => rfl
  | some r =>
    by_cases hlen : r.length = 48
    · simp [hlen, Option.filter]
    · simp [hlen, Option.filter]

end

/-! ### Saves (R434) -/

theorem saveCheck_refused (h : rd d .yewSlotState s ≠ 1 ∨ rd d .yewSlotKind s = 0) : saveCheck d s = (d, none) := if_pos h

theorem saveClearGo_forbidden (h : isSet d .yewCfgClearSaveEn = false ∨ sealedNow d (rd d .yewSlotOwner s) = true) :
    saveClearGo d s = (d, 0x84) := by
  unfold saveClearGo
  refine if_pos ?_
  rcases h with h | h <;> simp [h]

theorem saveClearGo_checked (he : isSet d .yewCfgClearSaveEn = true) (hs : sealedNow d (rd d .yewSlotOwner s) = false) {r : Option (List Byte)}
    (h : saveCheck d s = (x, r)) : saveClearGo d s = r.elim (x, 0x84) (saveAt x 48) := by
  unfold saveClearGo
  rw [he, hs, if_neg (by simp), h]
  cases r <;> rfl

theorem saveWrappedGo_refused (h : saveCheck d s = (x, none)) : saveWrappedGo d s kek = (x, 0x84) := by rw [saveWrappedGo, h]

theorem saveWrappedGo_noKek (h : saveCheck d s = (x, some bs)) (hk : kekOf x kek = none) : saveWrappedGo d s kek = (x, 0x84) := by
  rw [saveWrappedGo, h]
  dsimp only
  rw [hk]

theorem saveWrappedGo_wrapped (h : saveCheck d s = (x, some bs)) (hk : kekOf x kek = some key) :
    saveWrappedGo d s kek = saveAt x 56 (keyWrap key bs) := by
  rw [saveWrappedGo, h]
  dsimp only
  rw [hk]

/-- A save of a slot that holds nothing to save. -/
theorem saveClearGo_refused (h : rd d .yewSlotState s ≠ 1 ∨ rd d .yewSlotKind s = 0) : saveClearGo d s = (d, 0x84) := by
  by_cases hf : isSet d .yewCfgClearSaveEn = false ∨ sealedNow d (rd d .yewSlotOwner s) = true
  · exact saveClearGo_forbidden hf
  · simp only [not_or, Bool.not_eq_false, Bool.not_eq_true] at hf
    exact saveClearGo_checked hf.1 hf.2 (saveCheck_refused h)

end

/-! ### Erasure (R425) -/

theorem eraseGo_loaded {d : Dev} {s : Nat} (h : rd d .yewSlotState s = 1) : rd (eraseGo d s) .yewSlotState s = 2 ∧
    isSet (eraseGo d s) .yewSlotCmdBusy = true ∧ onlyRegs d (eraseGo d s) [(.yewSlotState, s), (.yewSlotCmdBusy, 0)] := by
  have he : eraseGo d s = wr (wr d .yewSlotState s 2) .yewSlotCmdBusy 0 1 := if_pos h
  rw [he]
  refine ⟨?_, isSet_wr_one _ _ _ rfl rfl, onlyRegs_wr (onlyRegs_wr (onlyRegs_refl ..) (by simp)) (by simp)⟩
  rw [rd_wr_plain_ne _ _ _ _ rfl (by decide)]
  exact rd_wr_self _ _ _ _ rfl

theorem eraseGo_atOnce {d : Dev} {s : Nat} (h : rd d .yewSlotState s ≠ 1) : rd (eraseGo d s) .yewSlotState s = 0 ∧
    rd (eraseGo d s) .yewSlotCmdResult 0 = 0 ∧ keysOf (eraseGo d s) s = {} := by
  have he : eraseGo d s = wr (wr (zeroKeys d s) .yewSlotState s 0) .yewSlotCmdResult 0 0 := if_neg h
  rw [he]
  refine ⟨?_, rd_wr_self _ _ _ _ rfl, by rw [keysOf_wr, keysOf_wr, keysOf_zeroKeys_self]⟩
  rw [rd_wr_plain_ne _ _ _ _ rfl (by decide)]
  exact rd_wr_self _ _ _ _ rfl

theorem eraseEnd_spec (d : Dev) (s : Nat) : let e := eraseEnd d s
    rd e .yewSlotState s = 0 ∧ isSet e .yewSlotCmdBusy = false ∧ rd e .yewSlotCmdResult 0 = 0 ∧ keysOf e s = {} ∧
    (∀ j, j ≠ s → keysOf e j = keysOf d j) ∧
    onlyRegs { d with yew := e.yew } e [(.yewSlotState, s), (.yewSlotShadow, s), (.yewSlotPrev, s), (.yewSlotSealCount, s), (.yewSlotNcFloor, s),
      (.yewSlotCmdBusy, 0), (.yewSlotCmdResult, 0)] := by
  dsimp only
  unfold eraseEnd
  refine ⟨?_, ?_, rd_wr_self _ _ _ _ rfl, ?_, fun j hj => ?_, onlyRegs_yew (y := (setKeys d s {}).yew) ?_⟩
  · simp (disch := decide) only [rd_wr_plain_ne]
    exact rd_wr_self _ _ _ _ rfl
  · rw [isSet_wr_ne _ _ rfl (by decide)]
    exact isSet_wr_zero _ _ _ rfl
  · rw [keysOf_wr, keysOf_wr, keysOf_wr, keysOf_zeroKeys_self]
  · rw [keysOf_wr, keysOf_wr, keysOf_wr, keysOf_zeroKeys_ne d s hj]
  · exact onlyRegs_wr (onlyRegs_wr (onlyRegs_wr (onlyRegs_wr (onlyRegs_wr (onlyRegs_wr (onlyRegs_wr (onlyRegs_setKeys ..)
      (by simp)) (by simp)) (by simp)) (by simp)) (by simp)) (by simp)) (by simp)

theorem graceEnd_spec (d : Dev) (s : Nat) : isSet (graceEnd d s) .yewSlotPrev s = false ∧
    keysOf (graceEnd d s) s = { keysOf d s with prev := none } ∧
    onlyRegs { d with yew := (graceEnd d s).yew } (graceEnd d s) [(.yewSlotPrev, s)] :=
  ⟨isSet_wr_zero _ _ _ rfl, (keysOf_wr ..).trans (keysOf_setKeys_self ..), onlyRegs_yew (onlyRegs_wr (onlyRegs_setKeys ..) (by simp))⟩

/-! ### What a slot command answers -/

/-- The part of O51 that speaks of one command on a slot, its KEKs active. -/
theorem slotRun_spec (g : Dev) {op k kek : Nat} : let e := slotRun g op k kek
    let a := rd g .yewSlotCmdAddr 0 * 64
    1 ≤ op → op ≤ 5 →
      (op ≤ 2 → isSet g .yewStatusAlarm 0 = true → e = wr g .yewSlotCmdResult 0 0x82) ∧
      (op ≤ 2 → isSet g .yewStatusAlarm 0 = false → slotUsable g k = false ∨ hbmEnd < a + (if op = 1 then 48 else 56) ∨ (op = 2 ∧ kekOf g kek = none) →
        e = wr g .yewSlotCmdResult 0 0x84) ∧
      (op = 4 → isSet g .yewCfgClearSaveEn 0 = false ∨ sealedNow g (rd g .yewSlotOwner k) = true → e = wr g .yewSlotCmdResult 0 0x84) ∧
      (4 ≤ op → rd g .yewSlotState k ≠ 1 ∨ rd g .yewSlotKind k = 0 → e = wr g .yewSlotCmdResult 0 0x84) ∧
      (op = 1 → isSet g .yewStatusAlarm 0 = false → slotUsable g k = true → a + 48 ≤ hbmEnd → ∀ d c bs, dpaRead g 0x2005 a 48 = (d, c, bs) →
        (∀ x, c = some x → e = wr d .yewSlotCmdResult 0 x) ∧
        (∀ d' x, c = none → loadRecord d k bs = (d', x) →
          (x ≠ 0 → e = wr d' .yewSlotCmdResult 0 x) ∧
          (x = 0 → e = wr (dpaWrite d' 0x2005 a (List.replicate 48 0)).1 .yewSlotCmdResult 0 0))) ∧
      (op = 2 → isSet g .yewStatusAlarm 0 = false → slotUsable g k = true → a + 56 ≤ hbmEnd → ∀ key d c bs, kekOf g kek = some key →
        dpaRead g 0x2005 a 56 = (d, c, bs) →
        (∀ x, c = some x → e = wr d .yewSlotCmdResult 0 x) ∧
        (c = none → let x := ((keyUnwrap key bs).filter fun x => x.length == 48).elim (bump d .yewUnwrapFails, 0x85) (loadRecord d k)
          e = wr x.1 .yewSlotCmdResult 0 x.2)) ∧
      (op = 4 → ∀ d bs, isSet g .yewCfgClearSaveEn 0 = true → sealedNow g (rd g .yewSlotOwner k) = false → saveCheck g k = (d, some bs) →
        e = wr (saveAt d 48 bs).1 .yewSlotCmdResult 0 (saveAt d 48 bs).2) ∧
      (∀ d, 4 ≤ op → (op = 4 → isSet g .yewCfgClearSaveEn 0 = true ∧ sealedNow g (rd g .yewSlotOwner k) = false) → saveCheck g k = (d, none) →
        e = wr d .yewSlotCmdResult 0 0x84) ∧
      (op = 5 → ∀ d bs, saveCheck g k = (d, some bs) → (kekOf d kek = none → e = wr d .yewSlotCmdResult 0 0x84) ∧
        (∀ key, kekOf d kek = some key →
          e = wr (saveAt d 56 (keyWrap key bs)).1 .yewSlotCmdResult 0 (saveAt d 56 (keyWrap key bs)).2)) ∧
      (op = 3 → rd g .yewSlotState k = 1 → rd e .yewSlotState k = 2 ∧ isSet e .yewSlotCmdBusy 0 = true ∧
        onlyRegs g e [(.yewSlotState, k), (.yewSlotCmdBusy, 0)]) ∧
      (op = 3 → rd g .yewSlotState k ≠ 1 → rd e .yewSlotState k = 0 ∧ rd e .yewSlotCmdResult 0 = 0 ∧ keysOf e k = {}) := by
  intro e a h1 h5
  have load : op ≤ 2 → op = 1 ∨ op = 2 := by omega
  have save : 4 ≤ op → op = 4 ∨ op = 5 := by omega
  refine ⟨fun h ha => ?_, fun h ha hr => ?_, ?_, fun h hr => ?_, ?_, ?_, ?_, fun d h hw hc => ?_, ?_, ?_, ?_⟩
  · rcases load h with rfl | rfl
    · exact congrArg slotAnswer (loadClearGo_alarm ha)
    · exact congrArg slotAnswer (loadWrappedGo_alarm ha)
  · rcases load h with rfl | rfl
    · exact congrArg slotAnswer (loadClearGo_refused ha (hr.imp_right fun h => h.resolve_right fun h => absurd h.1 (by decide)))
    · exact congrArg slotAnswer (loadWrappedGo_refused ha (hr.imp_right fun h => h.imp_right And.right))
  · rintro rfl hr
    exact congrArg slotAnswer (saveClearGo_forbidden hr)
  · rcases save h with rfl | rfl
    · exact congrArg slotAnswer (saveClearGo_refused hr)
    · exact congrArg slotAnswer (saveWrappedGo_refused (saveCheck_refused hr))
  · rintro rfl ha hu hr d c bs hd
    refine ⟨?_, ?_⟩
    · rintro x rfl
      exact congrArg slotAnswer (loadClearGo_unread ha hu hr hd)
    · rintro d' x rfl hl
      refine ⟨fun hx => congrArg slotAnswer (loadClearGo_bad ha hu hr hd hl hx), ?_⟩
      rintro rfl
      exact congrArg slotAnswer (loadClearGo_loaded ha hu hr hd hl)
  · rintro rfl ha hu hr key d c bs hk hd
    refine ⟨?_, ?_⟩
    · rintro x rfl
      exact congrArg slotAnswer (loadWrappedGo_unread ha hu hr hk hd)
    · rintro rfl
      exact congrArg slotAnswer (loadWrappedGo_read ha hu hr hk hd)
  · rintro rfl d bs he hs hc
    exact congrArg slotAnswer (saveClearGo_checked he hs hc)
  · rcases save h with rfl | rfl
    · exact congrArg slotAnswer (saveClearGo_checked (hw rfl).1 (hw rfl).2 hc)
    · exact congrArg slotAnswer (saveWrappedGo_refused hc)
  · rintro rfl d bs hc
    exact ⟨fun hk => congrArg slotAnswer (saveWrappedGo_noKek hc hk), fun key hk => congrArg slotAnswer (saveWrappedGo_wrapped hc hk)⟩
  · rintro rfl h
    exact eraseGo_loaded h
  · rintro rfl h
    exact eraseGo_atOnce h

/-! ### Halves -/

theorem loadRecord_eq {d : Dev} {s : Nat} {bs : List Byte} {h : KeyHalf} (hk : rd d .yewSlotKind s ≠ 0)
    (hr : recordOf bs = some (rd d .yewSlotKind s, h)) : loadRecord d s bs = (loadHalf d s h, 0) := by
  unfold loadRecord
  rw [hr]
  exact if_neg (not_or.2 ⟨hk, fun h => h rfl⟩)

theorem loadHalf_empty {d : Dev} {s : Nat} (h : KeyHalf) (he : rd d .yewSlotState s = 0) : let x := loadHalf d s h
    rd x .yewSlotState s = 1 ∧ rd x .yewSlotSealCount s = 0 ∧ (keysOf x s).active = some h ∧
    onlyRegs { d with yew := x.yew } x [(.yewSlotState, s), (.yewSlotSealCount, s), (.yewSlotNcFloor, s)] := by
  have hx : loadHalf d s h = wr (wr (wr (setKeys d s { active := some h, ncHigh := h.nc }) .yewSlotState s 1) .yewSlotSealCount s 0)
    .yewSlotNcFloor s h.nc := if_pos he
  dsimp only
  rw [hx]
  refine ⟨?_, ?_, ?_, onlyRegs_yew (onlyRegs_wr (onlyRegs_wr (onlyRegs_wr (onlyRegs_setKeys ..) (by simp)) (by simp)) (by simp))⟩
  · simp (disch := decide) only [rd_wr_plain_ne]
    exact rd_wr_self _ _ _ _ rfl
  · rw [rd_wr_plain_ne _ _ _ _ rfl (by decide)]
    exact rd_wr_self _ _ _ _ rfl
  · rw [keysOf_wr, keysOf_wr, keysOf_wr, keysOf_setKeys_self]

/-- A half that waits in the shadow of a loaded slot. -/
theorem loadHalf_shadow {d : Dev} {s : Nat} (h : KeyHalf) (he : rd d .yewSlotState s ≠ 0) (ha : activeAtOnce d s = false) : let x := loadHalf d s h
    rd x .yewSlotShadow s = 1 ∧ keysOf x s = { keysOf d s with shadow := some h } ∧ onlyRegs { d with yew := x.yew } x [(.yewSlotShadow, s)] := by
  have hx : loadHalf d s h = wr (setKeys d s { keysOf d s with shadow := some h }) .yewSlotShadow s 1 := by
    unfold loadHalf
    rw [if_neg he, ha]
    exact if_neg Bool.false_ne_true
  dsimp only
  rw [hx]
  exact ⟨rd_wr_self _ _ _ _ rfl, (keysOf_wr ..).trans (keysOf_setKeys_self ..), onlyRegs_yew (onlyRegs_wr (onlyRegs_setKeys ..) (by simp))⟩

/-! ### Failures and alarms (R426, R427) -/

theorem slotFail_erasing {d : Dev} {s : Nat} (c : Nat) (h : rd d .yewSlotState s = 2) :
    slotFail d s c = wr (wr (wr (zeroKeys d s) .yewSlotState s 3) .yewSlotCmdBusy 0 0) .yewSlotCmdResult 0 c := if_pos (beq_iff_eq.2 h)

theorem slotFail_other {d : Dev} {s : Nat} (c : Nat) (h : rd d .yewSlotState s ≠ 2) : slotFail d s c = wr (zeroKeys d s) .yewSlotState s 3 :=
  if_neg fun hb => h (beq_iff_eq.1 hb)

theorem slotFail_spec (d : Dev) (s c : Nat) : rd (slotFail d s c) .yewSlotState s = 3 ∧ keysOf (slotFail d s c) s = {} ∧
    (slotFail d s c).hl = d.hl ∧
    (rd d .yewSlotState s = 2 → isSet (slotFail d s c) .yewSlotCmdBusy = false ∧ rd (slotFail d s c) .yewSlotCmdResult 0 = c % 256) := by
  have hh : (zeroKeys d s).hl = d.hl := by
    have hb : besideRegs (zeroKeys d s) = besideRegs (setKeys d s {}) := by simp only [zeroKeys, besideRegs_wr]
    rw [part_of_besideRegs hb Dev.hl fun _ => rfl]
    rfl
  by_cases h : rd d .yewSlotState s = 2
  · rw [slotFail_erasing c h]
    refine ⟨?_, ?_, ?_, fun _ => ⟨?_, rd_wr_self _ _ _ _ rfl⟩⟩
    · simp (disch := decide) only [rd_wr_plain_ne]
      exact rd_wr_self _ _ _ _ rfl
    · rw [keysOf_wr, keysOf_wr, keysOf_wr, keysOf_zeroKeys_self]
    · rw [wr_hl, wr_hl, wr_hl, hh]
    · rw [isSet_wr_ne _ _ rfl (by decide)]
      exact isSet_wr_zero _ _ _ rfl
  · rw [slotFail_other c h]
    exact ⟨rd_wr_self _ _ _ _ rfl, by rw [keysOf_wr, keysOf_zeroKeys_self], by rw [wr_hl, hh], fun h' => absurd h' h⟩

/-- What one of a fold's steps brings about and none undoes holds after it. -/
theorem foldl_reaches {α : Type} {g : Dev → α → Dev} {P : Dev → Prop} {k : α} (keep : ∀ d x, P d → P (g d x)) (hit : ∀ d, P (g d k)) (l : List α)
    {d : Dev} (h : P d ∨ k ∈ l) : P (l.foldl g d) := by
  induction l generalizing d with
  | nil => exact h.resolve_right List.not_mem_nil
  | cons x t ih =>
    refine ih ?_
    rcases h with h | h
    · exact .inl (keep d x h)
    · rcases List.mem_cons.1 h with rfl | h
      · exact .inl (hit d)
      · exact .inr h

/-- A slot wiped by the alarm. -/
def slotWiped (d : Dev) (s : Nat) : Dev := wr (zeroKeys d s) .yewSlotState s 0

theorem rd_slotWiped_state (d : Dev) (s k : Nat) : rd (slotWiped d s) .yewSlotState k = if k = s then 0 else rd d .yewSlotState k := by
  split
  · next h =>
    subst h
    exact rd_wr_self _ _ _ _ rfl
  · next h => exact (rd_wr_ne _ _ rfl (.inr h)).trans (rd_zeroKeys _ _ _ (by decide))

theorem keysOf_slotWiped (d : Dev) (s k : Nat) : keysOf (slotWiped d s) k = if k = s then {} else keysOf d k := by
  rw [slotWiped, keysOf_wr]
  split
  · next h =>
    subst h
    exact keysOf_zeroKeys_self ..
  · next h => exact keysOf_zeroKeys_ne _ _ h

/-- The state beside its registers and its keys. -/
def besideKeys (d : Dev) : Dev := { besideRegs d with yew := {} }

theorem besideKeys_wr (d : Dev) (f : Fld) (i v : Nat) : besideKeys (wr d f i v) = besideKeys d := by rw [besideKeys, besideRegs_wr, besideKeys]

theorem besideKeys_slotWiped (d : Dev) (s : Nat) : besideKeys (slotWiped d s) = besideKeys d := by
  rw [slotWiped, zeroKeys]
  simp only [besideKeys_wr]
  rfl

/-- Every slot in use wiped. -/
def slotsWiped (d : Dev) : Dev := (slotsInUse d).foldl slotWiped d

theorem slotsWiped_spec (d : Dev) : (∀ k, rd (slotsWiped d) .yewSlotState k = 0) ∧ (∀ k ∈ slotsInUse d, keysOf (slotsWiped d) k = {}) ∧
    besideKeys (slotsWiped d) = besideKeys d := by
  refine ⟨fun k => ?_, fun k hk => ?_, foldl_keeps besideKeys besideKeys_slotWiped _ d⟩
  · refine foldl_reaches (k := k) (P := fun x => rd x .yewSlotState k = 0) (fun x j h => ?_) (fun x => ?_) _ ?_
    · rw [rd_slotWiped_state, h, ite_self]
    · exact (rd_slotWiped_state x k k).trans (if_pos rfl)
    · by_cases hk : k ∈ slotsInUse d
      · exact .inr hk
      · exact .inl (rd_of_not_listed rfl hk)
  · refine foldl_reaches (k := k) (P := fun x => keysOf x k = {}) (fun x j h => ?_) (fun x => ?_) _ (.inr hk)
    · rw [keysOf_slotWiped, h, ite_self]
    · exact (keysOf_slotWiped x k k).trans (if_pos rfl)

/-- The device as the alarm leaves it before any queue pair fails. -/
def alarmWiped (d : Dev) (source : Nat) : Dev :=
  let d := wr (wr (slotsWiped d) .yewStatusAlarm 0 1) .yewStatusAlarmSrc 0 source
  if isSet d .yewSlotCmdBusy then wr (wr d .yewSlotCmdBusy 0 0) .yewSlotCmdResult 0 0 else d

theorem alarmWiped_spec (d : Dev) {source : Nat} (hs : source < 16) : let e := alarmWiped d source
    isSet e .yewStatusAlarm = true ∧ rd e .yewStatusAlarmSrc 0 = source ∧ (∀ k, rd e .yewSlotState k = 0) ∧
    (∀ k ∈ slotsInUse d, keysOf e k = {}) ∧ isSet e .yewSlotCmdBusy = false ∧
    { e with regs := d.regs, regsB := d.regsB, regsC := d.regsC, yew := d.yew } = d := by
  obtain ⟨hst, hk, hb⟩ := slotsWiped_spec d
  have hx : isSet (wr (wr (slotsWiped d) .yewStatusAlarm 0 1) .yewStatusAlarmSrc 0 source) .yewStatusAlarm = true := by
    rw [isSet_wr_ne _ _ rfl (by decide)]
    exact isSet_wr_one _ _ _ rfl rfl
  have hsrc : rd (wr (wr (slotsWiped d) .yewStatusAlarm 0 1) .yewStatusAlarmSrc 0 source) .yewStatusAlarmSrc 0 = source :=
    (rd_wr_self _ _ _ _ rfl).trans (Nat.mod_eq_of_lt hs)
  have hrest : ∀ x : Dev, besideKeys x = besideKeys d → { x with regs := d.regs, regsB := d.regsB, regsC := d.regsC, yew := d.yew } = d :=
    fun x h => congrArg (fun y : Dev => { y with regs := d.regs, regsB := d.regsB, regsC := d.regsC, yew := d.yew }) h
  dsimp only
  unfold alarmWiped
  dsimp only
  split
  · refine ⟨?_, ?_, fun k => ?_, fun k hm => ?_, ?_, hrest _ ?_⟩
    · rw [isSet_wr_ne _ _ rfl (by decide), isSet_wr_ne _ _ rfl (by decide)]
      exact hx
    · rw [rd_wr_plain_ne _ _ _ _ rfl (by decide), rd_wr_plain_ne _ _ _ _ rfl (by decide)]
      exact hsrc
    · simp (disch := decide) only [rd_wr_plain_ne]
      exact hst k
    · simp only [keysOf_wr]
      exact hk k hm
    · rw [isSet_wr_ne _ _ rfl (by decide)]
      exact isSet_wr_zero _ _ _ rfl
    · simp only [besideKeys_wr]
      exact hb
  · next hbusy =>
    refine ⟨hx, hsrc, fun k => ?_, fun k hm => ?_, Bool.eq_false_iff.2 hbusy, hrest _ ?_⟩
    · simp (disch := decide) only [rd_wr_plain_ne]
      exact hst k
    · simp only [keysOf_wr]
      exact hk k hm
    · simp only [besideKeys_wr]
      exact hb

theorem alarmEffect_eq (d : Dev) (source : Nat) : alarmEffect d source =
    let u := (slotUsers d (slotsInUse d)).foldl (fun d n => qpFailNow d n 0x82) (alarmWiped d source)
    postEq (alert u 3) (rd u .yewEventEq) (entryOf 0x2A 0 0x82 (2 ^ 32 - 1) [(8, source % 16)]) := rfl

/-! ### Engines (R413) -/

/-- The bits of a word beside one taken away from it. -/
theorem bitOf_sub_two_pow_ne {x n m : Nat} (h : bitOf x n = true) (hm : m ≠ n) : bitOf (x - 2 ^ n) m = bitOf x m := by
  unfold bitOf at *
  induction n generalizing x m with
  | zero =>
    obtain ⟨m, rfl⟩ := Nat.exists_eq_succ_of_ne_zero hm
    have hodd : x % 2 = 1 := by simpa using h
    rw [Nat.testBit_succ, Nat.testBit_succ, show (x - 2 ^ 0) / 2 = x / 2 by omega]
  | succ n ih =>
    rw [Nat.testBit_succ] at h
    have hpow : 2 ^ (n + 1) = 2 * 2 ^ n := by omega
    have hle : 2 ^ n ≤ x / 2 := Nat.ge_two_pow_of_testBit h
    cases m with
    | zero => rw [Nat.testBit_zero, Nat.testBit_zero, show (x - 2 ^ (n + 1)) % 2 = x % 2 by omega]
    | succ m => rw [Nat.testBit_succ, Nat.testBit_succ, show (x - 2 ^ (n + 1)) / 2 = x / 2 - 2 ^ n by omega, ih h fun e => hm (congrArg (· + 1) e)]

/-- An engine's bit cleared. -/
def engineOff (d : Dev) (e : Nat) : Dev :=
  if e < 64 then wr d .yewEngineOkLow 0 (rd d .yewEngineOkLow - 2 ^ e) else wr d .yewEngineOkHigh 0 (rd d .yewEngineOkHigh - 2 ^ (e - 64))

/-- A word with one of its bits cleared, as a register of 64 bits holds it. -/
theorem bitOf_cleared {x n : Nat} (h : bitOf x n = true) (hn : n < 64) : bitOf ((x - 2 ^ n) % 2 ^ 64) n = false ∧
    ∀ m, m < 64 → m ≠ n → bitOf ((x - 2 ^ n) % 2 ^ 64) m = bitOf x m := by
  have hmod : ∀ y m, m < 64 → bitOf (y % 2 ^ 64) m = bitOf y m := fun y m hm =>
    (Nat.testBit_mod_two_pow y 64 m).trans (by rw [decide_eq_true hm, Bool.true_and, bitOf])
  exact ⟨(hmod _ _ hn).trans (bitOf_sub_two_pow h), fun m hm hne => (hmod _ _ hm).trans (bitOf_sub_two_pow_ne h hne)⟩

theorem engineIn_low (d : Dev) {n : Nat} (h : n < 64) : engineIn d n = bitOf (rd d .yewEngineOkLow) n := if_pos h

theorem engineIn_high (d : Dev) {n : Nat} (h : ¬ n < 64) : engineIn d n = bitOf (rd d .yewEngineOkHigh) (n - 64) := if_neg h

theorem engineIn_engineOff {d : Dev} {n : Nat} (hn : n < 128) (h : engineIn d n = true) : engineIn (engineOff d n) n = false ∧
    ∀ m, m < 128 → m ≠ n → engineIn (engineOff d n) m = engineIn d m := by
  unfold engineOff
  split
  · next hlow =>
    rw [engineIn_low d hlow] at h
    obtain ⟨hc, hk⟩ := bitOf_cleared h hlow
    have hr : rd (wr d .yewEngineOkLow 0 (rd d .yewEngineOkLow - 2 ^ n)) .yewEngineOkLow = (rd d .yewEngineOkLow - 2 ^ n) % 2 ^ 64 :=
      rd_wr_self _ _ _ _ rfl
    refine ⟨by rw [engineIn_low _ hlow, hr, hc], fun m _ hne => ?_⟩
    by_cases hm : m < 64
    · rw [engineIn_low _ hm, engineIn_low _ hm, hr, hk m hm hne]
    · rw [engineIn_high _ hm, engineIn_high _ hm, rd_wr_plain_ne _ _ _ _ rfl (by decide)]
  · next hhigh =>
    rw [engineIn_high d hhigh] at h
    obtain ⟨hc, hk⟩ := bitOf_cleared h (by omega)
    have hr : rd (wr d .yewEngineOkHigh 0 (rd d .yewEngineOkHigh - 2 ^ (n - 64))) .yewEngineOkHigh =
      (rd d .yewEngineOkHigh - 2 ^ (n - 64)) % 2 ^ 64 := rd_wr_self _ _ _ _ rfl
    refine ⟨by rw [engineIn_high _ hhigh, hr, hc], fun m hm128 hne => ?_⟩
    by_cases hm : m < 64
    · rw [engineIn_low _ hm, engineIn_low _ hm, rd_wr_plain_ne _ _ _ _ rfl (by decide)]
    · rw [engineIn_high _ hm, engineIn_high _ hm, hr, hk _ (by omega) (by omega)]

theorem rd_engineEvent (d : Dev) (p c e : Nat) (f : Fld) (i : Nat) : rd (engineEvent d p c e) f i = rd d f i := by
  rw [engineEvent, rd_postEq, rd_choose]

/-- Sealed partitions that lose their timing promise keep every register but their SEAL_STATUS.LOST. -/
theorem rd_engineOut (d : Dev) (e : Nat) {f : Fld} (i : Nat) (hf : f ≠ .yewSealStatusLost) : rd (engineOut d e) f i = rd (engineOff d e) f i := by
  unfold engineOut
  exact rd_foldl (fun x p => (rd_engineEvent ..).trans (rd_wr_plain_ne x p i 1 rfl hf)) _ (engineOff d e)

theorem engineIn_congr {d e : Dev} (hl : rd e .yewEngineOkLow = rd d .yewEngineOkLow) (hh : rd e .yewEngineOkHigh = rd d .yewEngineOkHigh) (n : Nat) :
    engineIn e n = engineIn d n := by
  unfold engineIn
  rw [hl, hh]

/-- What a mismatch of an engine leaves. -/
def engineMismatched (d : Dev) (n : Nat) : Dev := engineEvent (engineOut (bump d .yewEngineMismatches) n) 0 0x86 n

theorem rd_engineMismatched (d : Dev) (n : Nat) {f : Fld} (i : Nat) (hf : f ≠ .yewSealStatusLost) :
    rd (engineMismatched d n) f i = rd (engineOff (bump d .yewEngineMismatches) n) f i :=
  (rd_engineEvent ..).trans (rd_engineOut _ _ _ hf)

theorem engineMismatched_spec {d : Dev} {n : Nat} (hn : n < 128) (h : engineIn d n = true) : engineIn (engineMismatched d n) n = false ∧
    (∀ m, m < 128 → m ≠ n → engineIn (engineMismatched d n) m = engineIn d m) ∧
    rd (engineMismatched d n) .yewEngineMismatches 0 = (rd d .yewEngineMismatches 0 + 1) % 2 ^ 32 := by
  have hin := engineIn_congr (rd_engineMismatched d n 0 (by decide)) (rd_engineMismatched d n 0 (by decide))
  have hb : ∀ m, engineIn (bump d .yewEngineMismatches) m = engineIn d m :=
    engineIn_congr (rd_wr_plain_ne _ _ _ _ rfl (by decide)) (rd_wr_plain_ne _ _ _ _ rfl (by decide))
  obtain ⟨ho, hk⟩ := engineIn_engineOff hn ((hb n).trans h)
  refine ⟨(hin n).trans ho, fun m hm hne => (hin m).trans ((hk m hm hne).trans (hb m)), (rd_engineMismatched d n 0 (by decide)).trans ?_⟩
  refine Eq.trans ?_ (rd_bump_self d .yewEngineMismatches 0 1 rfl)
  unfold engineOff
  split
  · exact rd_wr_plain_ne _ _ _ _ rfl (by decide)
  · exact rd_wr_plain_ne _ _ _ _ rfl (by decide)

/-! ### Cached table entries (R432) -/

/-- TABLE_INVAL as written. -/
def invalWritten (d : Dev) (v : Nat) : Dev :=
  wr (wr (wr d .yewTableInvalIndex 0 (cut v 0 20)) .yewTableInvalTable 0 (cut v 20 1)) .yewTableInvalAll 0 (cut v 21 1)

theorem cut_bit (v n : Nat) : cut v n 1 = (bitOf v n).toNat := by
  rw [cut, bitOf, Nat.toNat_testBit, Nat.shiftRight_eq_div_pow, Nat.pow_one]

theorem invalWritten_reads (d : Dev) (v : Nat) : rd (invalWritten d v) .yewTableInvalIndex 0 = cut v 0 20 ∧
    isSet (invalWritten d v) .yewTableInvalTable = bitOf v 20 ∧ isSet (invalWritten d v) .yewTableInvalAll = bitOf v 21 := by
  have hbit : ∀ n, (cut v n 1 % 2 == 1) = bitOf v n := fun n => by
    rw [cut_bit]
    cases bitOf v n <;> rfl
  unfold invalWritten
  refine ⟨?_, ?_, ?_⟩
  · simp (disch := decide) only [rd_wr_plain_ne]
    exact (rd_wr_self _ _ _ _ rfl).trans (Nat.mod_eq_of_lt (cut_lt ..))
  · rw [isSet_wr_ne _ _ rfl (by decide), isSet, rd_wr_self _ _ _ _ rfl]
    exact hbit 20
  · rw [isSet, rd_wr_self _ _ _ _ rfl]
    exact hbit 21

theorem tr_invalWritten (d : Dev) (v : Nat) : (invalWritten d v).tr = d.tr := by simp only [invalWritten, wr_tr]

/-- A cache without what an invalidation names. -/
def invalCache (all : Bool) (m : KMap CachedEntry) (i : Nat) : KMap CachedEntry := if all then [] else del m i

theorem invalCache_spec (all : Bool) (m : KMap CachedEntry) (i : Nat) : find? (invalCache all m i) i = none ∧ (all = true → invalCache all m i = []) ∧
    (all = false → ∀ j, j ≠ i → find? (invalCache all m i) j = find? m j) := by
  cases all with
  | true => exact ⟨rfl, fun _ => rfl, fun h => absurd h (by decide)⟩
  | false => exact ⟨find?_del_self .., fun h => absurd h (by decide), fun _ j hj => find?_del_ne _ hj⟩

theorem tableInvalGo_pd (d : Dev) (v : Nat) (h : bitOf v 20 = true) : tableInvalGo (invalWritten d v) =
    onTr (invalWritten d v) fun t => { t with pdCache := invalCache (bitOf v 21) t.pdCache (cut v 0 20) } := by
  obtain ⟨h1, h2, h3⟩ := invalWritten_reads d v
  unfold tableInvalGo
  dsimp only
  rw [h1, h2, h3, if_pos h]
  rfl

theorem tableInvalGo_region (d : Dev) (v : Nat) (h : bitOf v 20 = false) : tableInvalGo (invalWritten d v) =
    onTr (invalWritten d v) fun t => { t with regionCache := invalCache (bitOf v 21) t.regionCache (cut v 0 20) } := by
  obtain ⟨h1, h2, h3⟩ := invalWritten_reads d v
  unfold tableInvalGo
  dsimp only
  rw [h1, h2, h3, h, if_neg Bool.false_ne_true]
  rfl

theorem onlyRegs_tableInval (d : Dev) (v : Nat) (f : TrSt → TrSt) : onlyRegs { d with tr := (onTr (invalWritten d v) f).tr } (onTr (invalWritten d v) f)
    [(.yewTableInvalIndex, 0), (.yewTableInvalTable, 0), (.yewTableInvalAll, 0)] := by
  have h : onlyRegs d (invalWritten d v) [(.yewTableInvalIndex, 0), (.yewTableInvalTable, 0), (.yewTableInvalAll, 0)] :=
    onlyRegs_wr (onlyRegs_wr (onlyRegs_wr (onlyRegs_refl ..) (by simp)) (by simp)) (by simp)
  exact ⟨congrArg (fun x : Dev => { x with tr := f (invalWritten d v).tr }) h.1, h.2⟩

theorem tableInval_spec (d : Dev) (v : Nat) : let e := tableInvalGo (invalWritten d v)
    onlyRegs { d with tr := e.tr } e [(.yewTableInvalIndex, 0), (.yewTableInvalTable, 0), (.yewTableInvalAll, 0)] ∧
    (bitOf v 20 = true → e.tr.regionCache = d.tr.regionCache ∧ find? e.tr.pdCache (cut v 0 20) = none ∧ (bitOf v 21 = true → e.tr.pdCache = []) ∧
      (bitOf v 21 = false → ∀ j, j ≠ cut v 0 20 → find? e.tr.pdCache j = find? d.tr.pdCache j)) ∧
    (bitOf v 20 = false → e.tr.pdCache = d.tr.pdCache ∧ find? e.tr.regionCache (cut v 0 20) = none ∧ (bitOf v 21 = true → e.tr.regionCache = []) ∧
      (bitOf v 21 = false → ∀ j, j ≠ cut v 0 20 → find? e.tr.regionCache j = find? d.tr.regionCache j)) := by
  dsimp only
  cases h : bitOf v 20 with
  | true =>
    rw [tableInvalGo_pd d v h]
    refine ⟨onlyRegs_tableInval .., fun _ => ?_, fun h' => absurd h' (by decide)⟩
    rw [onTr_tr, tr_invalWritten]
    exact ⟨rfl, invalCache_spec ..⟩
  | false =>
    rw [tableInvalGo_region d v h]
    refine ⟨onlyRegs_tableInval .., fun h' => absurd h' (by decide), fun _ => ?_⟩
    rw [onTr_tr, tr_invalWritten]
    exact ⟨rfl, invalCache_spec ..⟩

/-! ### Attestation reports (R436, R437) -/

theorem attestFail_spec (d : Dev) (p : Nat) : isSet (attestFail d p) .pwinAttestCtrlBusy p = false ∧ isSet (attestFail d p) .pwinAttestCtrlErr p = true ∧
    (attestFail d p).yew = d.yew ∧ onlyRegs d (attestFail d p) [(.pwinAttestCtrlBusy, p), (.pwinAttestCtrlErr, p)] := by
  unfold attestFail
  refine ⟨?_, isSet_wr_one _ _ _ rfl rfl, (wr_yew ..).trans (wr_yew ..), onlyRegs_wr (onlyRegs_wr (onlyRegs_refl ..) (by simp)) (by simp)⟩
  rw [isSet_wr_ne _ _ rfl (by decide)]
  exact isSet_wr_zero _ _ _ rfl

/-- A report under way. -/
def attestBegun (d : Dev) (p : Nat) : Dev := wr (wr d .pwinAttestCtrlErr p 0) .pwinAttestCtrlBusy p 1

theorem attestDva_begun (d : Dev) (p : Nat) : attestDva (attestBegun d p) p = attestDva d p := by
  unfold attestDva attestBegun
  rw [rd_wr_plain_ne _ _ _ _ rfl (by decide), rd_wr_plain_ne _ _ _ _ rfl (by decide)]

section
variable {d x y : Dev} {p : Nat}

theorem attestGo_busy (h : isSet d .pwinAttestCtrlBusy p = true) : attestGo d p = d := if_pos h

theorem attestGo_begun (h : isSet d .pwinAttestCtrlBusy p = false) {r : FRes}
    (ht : translate (attestBegun d p) device p (attestDva d p) 512 .write true = (x, r)) :
    (∀ pg c l f, r = .fail pg c l f → attestGo d p = attestFail x p) ∧ (∀ segs, r = .ok segs → attestGo d p = x) ∧ (r = .stall → attestGo d p = x) := by
  rw [← attestDva_begun] at ht
  have he : attestGo d p = match (x, r) with
      | (d, .fail _ _ _ _) => attestFail d p
      | (d, _) => d := by
    rw [← ht]
    exact if_neg (by simp [h])
  refine ⟨?_, ?_, ?_⟩
  · rintro pg c l f rfl
    exact he
  · rintro segs rfl
    exact he
  · rintro rfl
    exact he

/-- A report that fails passes the turn on. -/
def attestFailed (d : Dev) (p : Nat) : Dev := onYew (attestFail d p) fun y => { y with attPtr := (p + 1) % partitions }

theorem attestFailed_spec (d : Dev) (p : Nat) : isSet (attestFailed d p) .pwinAttestCtrlBusy p = false ∧
    isSet (attestFailed d p) .pwinAttestCtrlErr p = true ∧ (attestFailed d p).yew.reports = d.yew.reports ∧
    (attestFailed d p).yew.attPtr = (p + 1) % partitions := by
  obtain ⟨hb, he, hy, -⟩ := attestFail_spec d p
  refine ⟨hb, he, ?_, ?_⟩
  · rw [attestFailed, onYew_yew, hy]
  · rw [attestFailed, onYew_yew]

/-- A report written whole. -/
def attestWritten (d : Dev) (p : Nat) : Dev :=
  onYew (wr d .pwinAttestCtrlBusy p 0) fun y => { y with attPtr := (p + 1) % partitions, reports := y.reports + 1 }

theorem attestWritten_spec (d : Dev) (p : Nat) : isSet (attestWritten d p) .pwinAttestCtrlBusy p = false ∧
    (attestWritten d p).yew.reports = d.yew.reports + 1 ∧ (attestWritten d p).yew.attPtr = (p + 1) % partitions ∧
    onlyRegs { d with yew := (attestWritten d p).yew } (attestWritten d p) [(.pwinAttestCtrlBusy, p)] := by
  have h : onlyRegs d (wr d .pwinAttestCtrlBusy p 0) [(.pwinAttestCtrlBusy, p)] := onlyRegs_wr (onlyRegs_refl ..) (by simp)
  refine ⟨isSet_wr_zero _ _ _ rfl, ?_, ?_, congrArg (fun x : Dev => { x with yew := (attestWritten d p).yew }) h.1, h.2⟩
  · rw [attestWritten, onYew_yew, wr_yew]
  · rw [attestWritten, onYew_yew]

variable (pm : Perm)

theorem attestDone_unread {r : ARes} (h : dvaRead d device p (attestDva d p + 64) 48 true = (x, r)) :
    (r = .wait → attestDone pm d p = x) ∧ (∀ pg c l f, r = .xfail pg c l f → attestDone pm d p = attestFailed x p) ∧
    (∀ c, r = .mfail c → attestDone pm d p = attestFailed x p) := by
  unfold attestDone
  dsimp only
  rw [h]
  refine ⟨?_, ?_, ?_⟩
  · rintro rfl
    rfl
  · rintro pg c l f rfl
    rfl
  · rintro c rfl
    rfl

/-- The report of a challenge, as it is written. -/
def reportBytes (pm : Perm) (d : Dev) (p : Nat) (ch : List Byte) : List Byte :=
  reportBody pm d p ch ++ toBytes 96 (ecdsaSign pm.identKey (sha384 (reportBody pm d p ch)) 64 (fresh d).1)

theorem attestDone_read {ch : List Byte} (h : dvaRead d device p (attestDva d p + 64) 48 true = (x, .ok ch)) {w : ARes}
    (hw : dvaWrite (fresh x).2 device p (attestDva d p) (reportBytes pm x p ch) true .other = (y, w)) :
    (w = .wait → attestDone pm d p = y) ∧ (∀ pg c l f, w = .xfail pg c l f → attestDone pm d p = attestFailed y p) ∧
    (∀ c, w = .mfail c → attestDone pm d p = attestFailed y p) ∧ (∀ bs, w = .ok bs → attestDone pm d p = attestWritten y p) := by
  unfold reportBytes at hw
  unfold attestDone
  dsimp only
  rw [h]
  dsimp only
  rw [hw]
  refine ⟨?_, ?_, ?_, ?_⟩
  · rintro rfl
    rfl
  · rintro pg c l f rfl
    rfl
  · rintro c rfl
    rfl
  · rintro bs rfl
    rfl

end

/-! ### The obligation -/

/-- A slot command as a driver's write leaves it. -/
def slotWritten (d : Dev) (k op kek : Nat) : Dev := if op = 2 ∨ op = 5 then slotCmdKek d k op kek else slotCmd d k op

section
variable (d : Dev) {k op kek : Nat}

theorem onlyRegs_slotWritten (k op kek : Nat) : onlyRegs d (slotWritten d k op kek) [(.yewSlotCmdSlot, 0), (.yewSlotCmdOp, 0), (.yewSlotCmdKek, 0)] := by
  have h : onlyRegs d (slotCmd d k op) [(.yewSlotCmdSlot, 0), (.yewSlotCmdOp, 0), (.yewSlotCmdKek, 0)] :=
    onlyRegs_wr (onlyRegs_wr (onlyRegs_refl ..) (by simp)) (by simp)
  unfold slotWritten
  split
  · exact onlyRegs_wr h (by simp)
  · exact h

theorem rd_slotWritten {f : Fld} (i : Nat) (hf : ∀ g ∈ [Fld.yewSlotCmdSlot, .yewSlotCmdOp, .yewSlotCmdKek], g ∉ votedWith f) :
    rd (slotWritten d k op kek) f i = rd d f i := by
  refine (onlyRegs_slotWritten d k op kek).2 f i fun z hz hv => absurd hv (hf z.1 ?_)
  simp only [List.mem_cons, List.not_mem_nil, or_false] at hz
  rcases hz with rfl | rfl | rfl <;> simp

/-- With no KEK in a shadow, the operands' write makes none active. -/
theorem keksDue_slotWritten (k op kek : Nat) (h : ∀ x ∈ d.yew.keys, x.2.shadow = none ∨ rd d .yewSlotKind x.1 ≠ 3) :
    keksDue (slotWritten d k op kek) = slotWritten d k op kek := by
  have hy : (slotWritten d k op kek).yew = d.yew := (congrArg Dev.yew (onlyRegs_slotWritten d k op kek).1 :)
  refine keksDue_none fun x hx => ?_
  rw [rd_slotWritten d _ (by decide)]
  exact h x (by rw [← hy]; exact hx)

theorem slotWritten_reads (hk : k < keySlots) (hkek : kek < keySlots) (hop : op < 16) : rd (slotWritten d k op kek) .yewSlotCmdSlot 0 = k ∧
    rd (slotWritten d k op kek) .yewSlotCmdOp 0 = op ∧ (op = 2 ∨ op = 5 → rd (slotWritten d k op kek) .yewSlotCmdKek 0 = kek) := by
  have hs : rd (slotCmd d k op) .yewSlotCmdSlot 0 = k := by
    rw [slotCmd, rd_wr_plain_ne _ _ _ _ rfl (by decide)]
    exact (rd_wr_self _ _ _ _ rfl).trans (Nat.mod_eq_of_lt hk)
  have ho : rd (slotCmd d k op) .yewSlotCmdOp 0 = op := (rd_wr_self _ _ _ _ rfl).trans (Nat.mod_eq_of_lt hop)
  unfold slotWritten
  split
  · refine ⟨?_, ?_, fun _ => (rd_wr_self _ _ _ _ rfl).trans (Nat.mod_eq_of_lt hkek)⟩
    · exact (rd_wr_plain_ne _ _ _ _ rfl (by decide)).trans hs
    · exact (rd_wr_plain_ne _ _ _ _ rfl (by decide)).trans ho
  · next h => exact ⟨hs, ho, fun h' => absurd h' h⟩

end

/-- A driver's slot command writes its operands and GO. -/
theorem answers_slot {s : State} {k kek op : Nat} {i : Instr} (hi : (i, op) ∈ [(Instr.loadClear k, 1), (.loadWrapped k kek, 2), (.erase k, 3),
    (.saveClear k, 4), (.saveWrapped k kek, 5)]) (hk : k < keySlots) (hkek : kek < keySlots) (hd : takesDriver s.dev) :
    (1 ≤ op ∧ op ≤ 5) ∧ Answers i s (slotGo (slotWritten s.dev k op kek)) := by
  simp only [List.mem_cons, List.not_mem_nil, or_false, Prod.mk.injEq] at hi
  rcases hi with ⟨rfl, rfl⟩ | ⟨rfl, rfl⟩ | ⟨rfl, rfl⟩ | ⟨rfl, rfl⟩ | ⟨rfl, rfl⟩
  · exact ⟨by decide, answers_drv (n := "LOAD_CLEAR") rfl (decide_eq_true hk) hd⟩
  · exact ⟨by decide, answers_drv (n := "LOAD_WRAPPED") rfl (decide_eq_true ⟨hk, hkek⟩) hd⟩
  · exact ⟨by decide, answers_drv (n := "ERASE") rfl (decide_eq_true hk) hd⟩
  · exact ⟨by decide, answers_drv (n := "SAVE_CLEAR") rfl (decide_eq_true hk) hd⟩
  · exact ⟨by decide, answers_drv (n := "SAVE_WRAPPED") rfl (decide_eq_true ⟨hk, hkek⟩) hd⟩

/-- With BUSY 0 the command runs on the slot, its KEKs active; the KEK register of a command that names none plays no part. -/
theorem slotGo_written {d : Dev} {k kek op : Nat} (hb : isSet d .yewSlotCmdBusy = false) (hk : k < keySlots) (hkek : kek < keySlots) (hop : op ≤ 5) :
    slotGo (slotWritten d k op kek) = slotRun (keksDue (slotWritten d k op kek)) op k kek := by
  obtain ⟨h1, h2, h3⟩ := slotWritten_reads d hk hkek (show op < 16 by omega)
  have hb' : isSet (slotWritten d k op kek) .yewSlotCmdBusy = false := by
    rw [isSet, rd_slotWritten d 0 (by decide)]
    exact hb
  rw [slotGo_free hb', h1, h2]
  by_cases ho : op = 2 ∨ op = 5
  · rw [h3 ho]
  · unfold slotRun
    split
    · rfl
    · exact absurd (.inl rfl) ho
    · rfl
    · rfl
    · exact absurd (.inr rfl) ho
    · rfl

/-- Settles O51: each command, failure and report by its own lemma above. -/
theorem keySlots_holds : Obligations.KeySlots := by
  unfold Obligations.KeySlots
  refine ⟨fun s k kek op i hi hk hkek hd => ?_, fun d k bs h hk hr => ?_, fun s k hk h2 h0 => ?_, fun s k hk hp => ?_, fun s k hk hst => ?_,
    fun s src h1 h4 hp => ?_, fun s n hn he _ _ => ?_, fun s v _ hd => ?_, fun s p hp hd => ?_, fun s p hrun hturn => ?_⟩
  · obtain ⟨⟨h1, h5⟩, ha⟩ := answers_slot hi hk hkek hd
    obtain ⟨hslot, hop, -⟩ := slotWritten_reads s.dev hk hkek (show op < 16 by omega)
    refine ⟨_, ha, fun hb => ?_, keksDue_slotWritten s.dev k op kek, fun hb => ?_⟩
    · rw [slotGo_busy (show isSet (slotWritten s.dev k op kek) .yewSlotCmdBusy = true by rw [isSet, rd_slotWritten _ _ (by decide)]; exact hb)]
      exact ⟨hslot, hop, onlyRegs_slotWritten ..⟩
    · rw [slotGo_written hb hk hkek h5]
      have haddr : rd s.dev .yewSlotCmdAddr 0 = rd (keksDue (slotWritten s.dev k op kek)) .yewSlotCmdAddr 0 := by
        rw [rd_keksDue _ _ (by decide), rd_slotWritten _ _ (by decide)]
      rw [haddr]
      exact slotRun_spec _ h1 h5
  · rw [loadRecord_eq hk hr]
    exact ⟨rfl, loadHalf_empty h, loadHalf_shadow h⟩
  · exact ⟨_, answers_act (n := "ERASE_COMPLETE") rfl (by simp [hk, h2, h0]), eraseEnd_spec s.dev k⟩
  · exact ⟨_, answers_act (n := "RX_GRACE_EXPIRY") rfl (by simp [hk, hp]), graceEnd_spec s.dev k⟩
  · obtain ⟨h3, hkeys, hhl, hb⟩ := slotFail_spec s.dev k 0x87
    refine ⟨_, answers_act (n := "KEY_WORD_ERROR") rfl ?_, h3, hkeys, ?_, hb⟩
    · simpa [hk] using hst
    · rw [slotEvent, entries_postEq, List.length_append, hhl]
      rfl
  · obtain ⟨ha, hs, hst, hkeys, hb, hrest⟩ := alarmWiped_spec s.dev (show src < 16 by omega)
    refine ⟨_, _, _, answers_cmd (n := "PHYSICAL_ATTACK_ALARM") rfl ?_, ha, hs, hst, hkeys, hb, hrest, rfl, ?_⟩
    · simp [h1, h4, hp]
    · rw [alarmEffect_eq, Nat.mod_eq_of_lt (show src < 16 by omega)]
  · exact ⟨_, answers_act (n := "YEW_ENGINE_MISMATCH") rfl (by simp [hn, he]), engineMismatched_spec hn he⟩
  · exact ⟨_, answers_drv (n := "TABLE_INVAL") (b := true) rfl rfl hd, tableInval_spec s.dev v⟩
  · refine ⟨_, answers_drv (n := "ATTEST_GO") rfl (decide_eq_true hp) hd, attestGo_busy, fun hb d' r ht => ?_⟩
    obtain ⟨hf, hok, hs⟩ := attestGo_begun hb ht
    refine ⟨fun pg c l f hr => ?_, hok, hs⟩
    rw [hf pg c l f hr]
    obtain ⟨h1, h2, -, h4⟩ := attestFail_spec d' p
    exact ⟨h1, h2, h4⟩
  · refine ⟨_, answers_act (n := "ATTEST_REPORT_DONE") rfl ?_, fun d r hr => ?_⟩
    · simp [hrun, hturn]
    · obtain ⟨hw, hx, hm⟩ := attestDone_unread s.perm hr
      refine ⟨hw, fun pg c l f h => ?_, fun c h => ?_, ?_⟩
      · rw [hx pg c l f h]
        exact attestFailed_spec d p
      · rw [hm c h]
        exact attestFailed_spec d p
      · rintro ch d' w rfl body hw
        obtain ⟨hwait, hxf, hmf, hok⟩ := attestDone_read s.perm hr hw
        refine ⟨hwait, fun pg c l f h => ?_, fun c h => ?_, fun bs h => ?_⟩
        · rw [hxf pg c l f h]
          exact attestFailed_spec d' p
        · rw [hmf c h]
          exact attestFailed_spec d' p
        · rw [hok bs h]
          exact attestWritten_spec d' p

end Sys2Proof.Machine
end
